-- ==== Sys2Proof/Word.lean ====
section
/-! DEFINITION. The machine's words: 64-bit registers, bytes, 32-lane masks, and the plain type of a sparse
table keyed by natural numbers. Nothing here says how a word is used. -/

namespace Sys2Proof

/-- A 64-bit register value (R1: thread registers and gang-uniform registers are 64 bits each). -/
abbrev Word := BitVec 64

/-- One byte of memory, the smallest addressable unit (R4). -/
abbrev Byte := BitVec 8

/-- One bit for each of the 32 lanes of a gang; bit k is lane k (R1, R108). -/
abbrev Mask := BitVec 32

/-- A sparse table: key and value pairs with keys strictly rising and no entry equal to the table's default.
What the default is, the operation that reads the table says. -/
abbrev SMap (α : Type) := List (Nat × α)

/-- The truth value as a bit, for fields of a word. -/
def bit (b : Bool) : Nat := if b then 1 else 0

/-- A 64-bit word from a natural number, modulo 2^64. -/
def word (n : Nat) : Word := BitVec.ofNat 64 n

/-- The bits [hi:lo] of a word as a natural number (R4: high bit first, bit 0 least significant). -/
def Word.field (w : Word) (hi lo : Nat) : Nat := (w.toNat >>> lo) % 2 ^ (hi + 1 - lo)

/-- Bit n of a word. -/
def Word.flag (w : Word) (n : Nat) : Bool := w.toNat.testBit n

end Sys2Proof
end

