-- ==== Sys2Proof/Syntax.lean ====
section
/-! DEFINITION. The syntax: one constructor for each row of the opcode table. Flidan instructions carry the fields of
their S64 or L96 form (R21, R36), compact ones the fields of C32 (R38), and the device's other steps (what an engine,
the host, the debugger, the security core or the passing of time does) carry the choice that the manual leaves to
them: which pending piece of work, which unit, which value an outside party supplies. -/

namespace Sys2Proof

/-- The sixteen codes of the type field, in the order of R30. -/
inductive Ty where
  | i8 | i16 | i32 | i64 | n8 | n16 | n32 | n64 | f64 | f32 | f16 | bf16 | k8 | dy8 | e8s | b64
  deriving DecidableEq, Repr

/-- The rounding modes of the rnd field (R31, R33). -/
inductive Rnd where
  | rne | rtz | rdn | rup
  deriving DecidableEq, Repr

/-- The guard (R11): the predicate named by bits [4:2] of the first parcel, complemented when bit 5 is set. -/
structure Guard where
  neg : Bool
  p : BitVec 3
  deriving DecidableEq, Repr

/-- The fields of the S64 format (R21), and the literal of L96 when there is one (R36). The mod field is held as its
common parts (R31). -/
structure Ops where
  guard : Guard
  stall : BitVec 4
  yld : Bool
  dst : BitVec 7
  a : BitVec 7
  b : BitVec 7
  c : BitVec 7
  clsD : Bool
  clsA : Bool
  clsB : Bool
  clsC : Bool
  ty : Ty
  opmod : BitVec 3
  ix : Bool
  sat : Bool
  rnd : Rnd
  lo : Bool
  lit : Option (BitVec 32)
  deriving DecidableEq, Repr

/-- The fields of the C32 format (R38). The branch offset of BRA is b followed by dst. -/
structure C32 where
  ctype : BitVec 2
  b : BitVec 7
  dst : BitVec 7
  stall : BitVec 3
  guard : Guard
  deriving DecidableEq, Repr

/-- How a weak load is served (R206): at the line's home, under a lease its L1 holds, or from a word its L1 owns. -/
inductive Served where
  | home | lease | owned
  deriving DecidableEq, Repr

/-- How much of a piece of a copy, or of a tile load or store, an engine moves (R93): all that is left; one byte, which is read, or written, ahead
of the others; or nothing, where its read of the weight store meets an uncorrectable error (R77). -/
inductive Portion where
  | whole | readByte (position : Nat) | writeByte (position : Nat) | uncorrectable
  deriving DecidableEq, Repr

/-- The host's atomic operations on a word (R294). -/
inductive HostAmo where
  | swap | add | and | or | xor | min | max | minu | maxu | cas (expected : Word)
  deriving DecidableEq, Repr

/-- Who asks for a pre-emption (R338). -/
inductive PreemptBy where
  | scheduler | control | debugger
  deriving DecidableEq, Repr

/-- The kind of a crossing, in the order of the record header's codes (R298). -/
inductive CrossKind where
  | jump | call | return
  deriving DecidableEq, Repr

/-- Who fires the snapshot trigger besides SNAP (R354). -/
inductive SnapBy where
  | debugger | pin | machineCheck
  deriving DecidableEq, Repr

/-- The items that a lock freezes (R368). -/
inductive Frozen where
  | bar01 | bar23 | vfCommand | msixControl | sriovControl | numVFs | pageSize | msixTable
  deriving DecidableEq, Repr

/-- What the debugger writes of a thread's state (R110). -/
inductive DebugField where
  | pc | meet | hzn | ix | d (n : Nat) | g (n : Nat) | p (n : Nat) | h (n : Nat) | m (n : Nat) | fflags
  | wpaddr (n : Nat) | wpctl (n : Nat) | scratch (offset : Nat)
  deriving DecidableEq, Repr

/-- The instructions and steps of the opcode table, in its order. -/
inductive Instr where
  /-- INSTRUCTION_FETCH (R19): The fetch unit reads a 32-byte fetch block as one snapshot and decodes the parcel at pc as a first parcel. -/
  | instructionFetch (gang lane : Nat)
  /-- STALL_EXPIRY (R26): A thread's stall count runs out, so it may issue its next instruction. -/
  | stallExpiry (gang lane : Nat)
  /-- REGROUPING (R104): Every 4 partition clocks the runnable threads of each gang are sorted into bundles by pc and readiness, and released or restored threads join bundles. -/
  | regrouping (partition : Nat)
  /-- PAUSE_EXPIRY (R142): A thread's PAUSE lowering ends after its n clocks. -/
  | pauseExpiry (gang lane : Nat)
  /-- IADD (R161): Adds sub-elements with wrap or saturation. -/
  | iadd (o : Ops)
  /-- ISUB (R161): Subtracts sub-elements with wrap or saturation. -/
  | isub (o : Ops)
  /-- IMUL (R161): Writes the low w bits of the product, or the saturated product. -/
  | imul (o : Ops)
  /-- IMULH (R161): Writes the high half of the exact 2w-bit product. -/
  | imulh (o : Ops)
  /-- IMAD (R161): Forms a × b + c exactly, then wraps or saturates once. -/
  | imad (o : Ops)
  /-- IMADW (R163): Multiplies even sub-elements and adds to double-width sub-elements of c. -/
  | imadw (o : Ops)
  /-- IDIV (R162): Divides with truncation toward zero, with defined results for zero divisors. -/
  | idiv (o : Ops)
  /-- IREM (R162): Writes the remainder a − q × b. -/
  | irem (o : Ops)
  /-- IMIN (R161): Writes the smaller sub-element. -/
  | imin (o : Ops)
  /-- IMAX (R161): Writes the larger sub-element. -/
  | imax (o : Ops)
  /-- IABS (R161): Writes the absolute value. -/
  | iabs (o : Ops)
  /-- INEG (R161): Writes the negation, wrapped or saturated. -/
  | ineg (o : Ops)
  /-- ICLAMP (R161): Writes min(max(a, b), c). -/
  | iclamp (o : Ops)
  /-- IADDS (R164): Adds with carry in and carry out through a predicate. -/
  | iadds (o : Ops)
  /-- ISUBS (R164): Subtracts with borrow in and borrow out through a predicate. -/
  | isubs (o : Ops)
  /-- AND (R161): Bitwise AND. -/
  | and (o : Ops)
  /-- OR (R161): Bitwise OR. -/
  | or (o : Ops)
  /-- XOR (R161): Bitwise XOR. -/
  | xor (o : Ops)
  /-- ANDN (R161): Writes a AND NOT b. -/
  | andn (o : Ops)
  /-- NOT (R161): Bitwise NOT. -/
  | not (o : Ops)
  /-- SHL (R165): Shifts left. -/
  | shl (o : Ops)
  /-- SHR (R165): Shifts right logically. -/
  | shr (o : Ops)
  /-- SAR (R165): Shifts right arithmetically. -/
  | sar (o : Ops)
  /-- ROL (R165): Rotates left. -/
  | rol (o : Ops)
  /-- ROR (R165): Rotates right. -/
  | ror (o : Ops)
  /-- POPC (R161): Counts one bits. -/
  | popc (o : Ops)
  /-- CLZ (R161): Counts leading zeros. -/
  | clz (o : Ops)
  /-- CTZ (R161): Counts trailing zeros. -/
  | ctz (o : Ops)
  /-- BREV (R161): Reverses the bits of each sub-element. -/
  | brev (o : Ops)
  /-- BSWAP (R161): Reverses the bytes of each sub-element. -/
  | bswap (o : Ops)
  /-- BFX (R165): Extracts a bit field. -/
  | bfx (o : Ops)
  /-- BFI (R165): Inserts a bit field into c. -/
  | bfi (o : Ops)
  /-- SEXT (R165): Sign-extends from bit b − 1. -/
  | sext (o : Ops)
  /-- ZEXT (R165): Zero-extends from bit b − 1. -/
  | zext (o : Ops)
  /-- LEA (R161): Writes a + (b << s). -/
  | lea (o : Ops)
  /-- SEL (R161): Selects a or b by a predicate. -/
  | sel (o : Ops)
  /-- MOV (R166): Copies a register, or only its sub-element 0 under lo. -/
  | mov (o : Ops)
  /-- MOV_IX (R35): Writes bits [6:0] of a d register into the thread's ix register. -/
  | movIx (o : Ops)
  /-- MOVI (R161): Writes the widened literal. -/
  | movi (o : Ops)
  /-- MOVG (R166): Reads a g register chosen per lane. -/
  | movg (o : Ops)
  /-- MOVL (R167): Reads srcA from one chosen lane and delivers it to every guarded lane. -/
  | movl (o : Ops)
  /-- SPEC (R168): Writes a special value such as lane, tid or gtime. -/
  | spec (o : Ops)
  /-- FADD (R169): Floating-point add with one rounding. -/
  | fadd (o : Ops)
  /-- FSUB (R169): Floating-point subtract with one rounding. -/
  | fsub (o : Ops)
  /-- FMUL (R169): Floating-point multiply with one rounding. -/
  | fmul (o : Ops)
  /-- FFMA (R169): Computes round(a × b + c). -/
  | ffma (o : Ops)
  /-- FFMS (R169): Computes round(a × b − c). -/
  | ffms (o : Ops)
  /-- FNMA (R169): Computes round(c − a × b). -/
  | fnma (o : Ops)
  /-- FMIN (R48): Writes the IEEE minimum. -/
  | fmin (o : Ops)
  /-- FMAX (R48): Writes the IEEE maximum. -/
  | fmax (o : Ops)
  /-- FABS (R169): Clears the sign bit. -/
  | fabs (o : Ops)
  /-- FNEG (R169): Inverts the sign bit. -/
  | fneg (o : Ops)
  /-- FCPYS (R169): Writes the magnitude of a with the sign of b. -/
  | fcpys (o : Ops)
  /-- FDIV (R169): IEEE division with one rounding. -/
  | fdiv (o : Ops)
  /-- FSQRT (R169): IEEE square root with one rounding. -/
  | fsqrt (o : Ops)
  /-- FRCP (R171): Reciprocal rounded once in RNE. -/
  | frcp (o : Ops)
  /-- FRSQ (R171): Reciprocal square root rounded once. -/
  | frsq (o : Ops)
  /-- FEXP2 (R171): Computes 2^a rounded once. -/
  | fexp2 (o : Ops)
  /-- FLOG2 (R171): Computes log2 a rounded once. -/
  | flog2 (o : Ops)
  /-- FSIN (R171): Computes sin(π·a) rounded once. -/
  | fsin (o : Ops)
  /-- FCOS (R171): Computes cos(π·a) rounded once. -/
  | fcos (o : Ops)
  /-- FTANH (R171): Computes tanh a rounded once. -/
  | ftanh (o : Ops)
  /-- FRND (R172): Rounds to an integral value of the same type. -/
  | frnd (o : Ops)
  /-- FCVT (R173): Converts between floating-point and 8-bit formats. -/
  | fcvt (o : Ops)
  /-- FTOI (R173): Converts floating point to integer, saturating. -/
  | ftoi (o : Ops)
  /-- ITOF (R173): Converts integer to floating point. -/
  | itof (o : Ops)
  /-- FSCALE (R174): Computes round(a × 2^b). -/
  | fscale (o : Ops)
  /-- FCLASS (R174): Writes a one-hot class of the value. -/
  | fclass (o : Ops)
  /-- FGETEXP (R174): Writes the unbiased exponent. -/
  | fgetexp (o : Ops)
  /-- VDOT (R176): Dot product of sub-elements, rounded or wrapped once. -/
  | vdot (o : Ops)
  /-- VDOTA (R176): Dot product plus addend, rounded or wrapped once. -/
  | vdota (o : Ops)
  /-- VPACK (R177): Narrows two registers' double-width sub-elements into one. -/
  | vpack (o : Ops)
  /-- VUNPK (R177): Widens half of the sub-elements. -/
  | vunpk (o : Ops)
  /-- VPERM (R178): Permutes bytes of a and b under a selector. -/
  | vperm (o : Ops)
  /-- VSAD (R175): Adds absolute differences to c. -/
  | vsad (o : Ops)
  /-- VAVG (R175): Averages sub-elements without overflow. -/
  | vavg (o : Ops)
  /-- VINS (R179): Inserts sub-element 0 of a at position j. -/
  | vins (o : Ops)
  /-- VEXT (R179): Extracts sub-element j, extended. -/
  | vext (o : Ops)
  /-- XSHFL (R184): Shuffles sub-elements across lanes. -/
  | xshfl (o : Ops)
  /-- XBCAST (R185): Broadcasts one lane's value. -/
  | xbcast (o : Ops)
  /-- XRED (R182): Reduces across lanes by the fixed five-level tree. -/
  | xred (o : Ops)
  /-- XSCAN (R182): Scans across lanes in five steps. -/
  | xscan (o : Ops)
  /-- XBALLOT (R186): Writes the mask of taking-part lanes whose predicate holds. -/
  | xballot (o : Ops)
  /-- XVOTE (R186): Computes all, any or uniform of a predicate. -/
  | xvote (o : Ops)
  /-- XMATCH (R186): Writes the mask of lanes holding an equal value. -/
  | xmatch (o : Ops)
  /-- ICMP (R187): Integer compare writing a predicate pair under a combining type. -/
  | icmp (o : Ops)
  /-- FCMP (R187): Floating-point compare writing a predicate pair under a combining type. -/
  | fcmp (o : Ops)
  /-- PAND (R188): Predicate AND. -/
  | pand (o : Ops)
  /-- POR (R188): Predicate OR. -/
  | por (o : Ops)
  /-- PXOR (R188): Predicate XOR. -/
  | pxor (o : Ops)
  /-- PNOT (R188): Predicate NOT. -/
  | pnot (o : Ops)
  /-- PMOV (R188): Moves predicates, or reads or sets p0 to p6 as bits. -/
  | pmov (o : Ops)
  /-- BRA (R126): Branches by a signed offset in guarded lanes. -/
  | bra (o : Ops)
  /-- BRX (R128): Jumps to a register target, migrating on an RV64 page. -/
  | brx (o : Ops)
  /-- CALL (R129): Writes d1 and transfers to a labelled target. -/
  | call (o : Ops)
  /-- CALLI (R129): Writes d1 and transfers to a register target, possibly migrating. -/
  | calli (o : Ops)
  /-- RET (R130): Transfers to d1 or a named register, possibly migrating. -/
  | ret (o : Ops)
  /-- EXIT (R132): Ends guarded threads, clearing them from masks and open group rounds. -/
  | exit (o : Ops)
  /-- MEET (R133): Sets the thread's meeting address. -/
  | meet (o : Ops)
  /-- JOIN (R134): Adds guarded lanes to a member mask. -/
  | join (o : Ops)
  /-- LEAVE (R134): Removes guarded lanes from a member mask and its arrivals. -/
  | leave (o : Ops)
  /-- WAIT (R109): Arrives at a mask round and holds lanes at their meeting address. -/
  | wait (o : Ops)
  /-- MSET (R135): Writes a member mask. -/
  | mset (o : Ops)
  /-- MGET (R135): Reads a member mask into a register. -/
  | mget (o : Ops)
  /-- MOP (R136): Computes a member mask from two masks. -/
  | mop (o : Ops)
  /-- WIDEN (R138): Spreads a migrated thread over up to 32 lanes. -/
  | widen (o : Ops)
  /-- NARROW (R139): Exits widened lanes and holds lane 0 until they have gone. -/
  | narrow (o : Ops)
  /-- YIELD (R141): Gives up the bundle's next issue slot. -/
  | yield (o : Ops)
  /-- PAUSE (R142): Lowers the bundle's issue priority for n clocks. -/
  | pause (o : Ops)
  /-- NOP (R143): Does nothing but advance pc. -/
  | nop (o : Ops)
  /-- BARI (R146): Initialises a core barrier's expected count, pending bytes and failure. -/
  | bari (o : Ops)
  /-- BARA (R148): Arrives at a core barrier without waiting and returns its generation. -/
  | bara (o : Ops)
  /-- BARW (R148): Arrives at a core barrier and waits for the round. -/
  | barw (o : Ops)
  /-- BARX (R147): Adds a signed byte declaration to a barrier's pending counter. -/
  | barx (o : Ops)
  /-- BART (R149): Tests whether a barrier round has completed. -/
  | bart (o : Ops)
  /-- GBAR (R153): Arrives at a group barrier and waits, or only arrives with .arrive. -/
  | gbar (o : Ops)
  /-- GBARP (R155): Arrives at a group barrier and ends the gang's phase. -/
  | gbarp (o : Ops)
  /-- FENCE (R157): Performs release, acquire or both at a scope, optionally discarding instruction caches. -/
  | fence (o : Ops)
  /-- GWAIT (R153): Waits for the round of the thread's recorded group arrival. -/
  | gwait (o : Ops)
  /-- LD (R231): Weak global load. -/
  | ld (o : Ops)
  /-- ST (R231): Weak global store. -/
  | st (o : Ops)
  /-- LDA (R232): Load followed by an acquire at its scope. -/
  | lda (o : Ops)
  /-- STL (R232): Release at its scope followed by a store. -/
  | stl (o : Ops)
  /-- LDS (R231): Weak scratch load. -/
  | lds (o : Ops)
  /-- STS (R231): Weak scratch store. -/
  | sts (o : Ops)
  /-- LDSX (R233): Waits for a full scratch line, reads it and sets it empty. -/
  | ldsx (o : Ops)
  /-- STSF (R233): Waits for an empty scratch line, writes it and sets it full. -/
  | stsf (o : Ops)
  /-- LDW (R231): Loads from the die's weight store. -/
  | ldw (o : Ops)
  /-- LDC (R228): Loads from the launch constant bank. -/
  | ldc (o : Ops)
  /-- PREF (R234): Requests a line into a cache level. -/
  | pref (o : Ops)
  /-- CINV (R234): Drops the L1's lease and ownership of a line. -/
  | cinv (o : Ops)
  /-- CFLUSH (R234): Waits until every cache has written back and dropped a line. -/
  | cflush (o : Ops)
  /-- ICINV (R235): Discards a line, or all lines, from instruction caches within a scope. -/
  | icinv (o : Ops)
  /-- LDREF (R237): Loads and resolves a reference, healing it and writing it back. -/
  | ldref (o : Ops)
  /-- STREF (R237): Stores a reference with its pinned bit cleared. -/
  | stref (o : Ops)
  /-- LDH (R238): Loads from an object through a reference, bounded by its size. -/
  | ldh (o : Ops)
  /-- STH (R238): Stores into an object through a reference. -/
  | sth (o : Ops)
  /-- PIN (R239): Increments an object's pin count and marks the register pinned. -/
  | pin (o : Ops)
  /-- UNPIN (R239): Decrements the pin count of a pinned register's object. -/
  | unpin (o : Ops)
  /-- REFADDR (R239): Writes the raw address of a pinned object. -/
  | refaddr (o : Ops)
  /-- REFCMP (R240): Compares two references by index and offset. -/
  | refcmp (o : Ops)
  /-- AADD (R244): Atomic add returning the old value. -/
  | aadd (o : Ops)
  /-- AAND (R244): Atomic AND returning the old value. -/
  | aand (o : Ops)
  /-- AOR (R244): Atomic OR returning the old value. -/
  | aor (o : Ops)
  /-- AXOR (R244): Atomic XOR returning the old value. -/
  | axor (o : Ops)
  /-- AMIN (R244): Atomic minimum returning the old value. -/
  | amin (o : Ops)
  /-- AMAX (R244): Atomic maximum returning the old value. -/
  | amax (o : Ops)
  /-- AXCHG (R244): Atomic exchange. -/
  | axchg (o : Ops)
  /-- ACAS (R245): Atomic compare-and-swap, permission checked before the comparison. -/
  | acas (o : Ops)
  /-- REDADD (R246): Non-returning add at the word's owner. -/
  | redadd (o : Ops)
  /-- REDMIN (R246): Non-returning minimum at the word's owner. -/
  | redmin (o : Ops)
  /-- REDMAX (R246): Non-returning maximum at the word's owner. -/
  | redmax (o : Ops)
  /-- REDSEQ (R247): Contributes a value to a word with a sequence index. -/
  | redseq (o : Ops)
  /-- GRED (R250): Starts a group reduction of a buffer in 4 KiB chunks. -/
  | gred (o : Ops)
  /-- GREDW (R249): Contributes a value to a group reduction round and waits for the result. -/
  | gredw (o : Ops)
  /-- ATOMIC_APPLY (R244): The owning service gang applies an atomic or reduction request to the word in one step. -/
  | atomicApply (request : Nat)
  /-- ATOMIC_REPLY (R243): A returning atomic's reply writes the old value into its return register and frees the slot. -/
  | atomicReply (request : Nat)
  /-- REDSEQ_APPLY (R247): The owner applies held contributions in index order, discarding duplicates. -/
  | redseqApply (sequence : Nat)
  /-- GRED_CHUNK_DONE (R250): A chunk of a group reduction is delivered to every member, and the last writes the token. -/
  | gredChunkDone (round : Nat)
  /-- GROUP_MEMBER_FAILURE (R251): A member device fails during a remote group reduction, and the survivors replay with identities. -/
  | groupMemberFailure (launch group : Nat) (rank : Nat × Nat)
  /-- CPY (R92): Starts an asynchronous copy of n bytes. -/
  | cpy (o : Ops)
  /-- CPY2D (R92): Starts an asynchronous copy of strided rows. -/
  | cpy2d (o : Ops)
  /-- CPYM (R94): Starts a copy that posts each chunk to a barrier's pending counter. -/
  | cpym (o : Ops)
  /-- CPYX (R92): Starts a gather or scatter of rows through an address table. -/
  | cpyx (o : Ops)
  /-- CPYW (R95): Copies into the weight store while the weight window is open. -/
  | cpyw (o : Ops)
  /-- CPYM_CHUNK_POSTED (R94): A chunk of a CPYM lands and its size is subtracted from the barrier's pending counter. -/
  | cpymChunkPosted (copy : Nat) (chunk : Nat × Portion)
  /-- COPY_COMPLETION (R76): An asynchronous copy finishes, or fails, and writes its token. -/
  | copyCompletion (copy : Nat)
  /-- CBINIT (R253): Opens a batching context with a constraint count and body count. -/
  | cbinit (o : Ops)
  /-- CBPUSH (R254): Pushes a constraint with its body word and tag. -/
  | cbpush (o : Ops)
  /-- CBPOP (R256): Waits for a released constraint or the end value. -/
  | cbpop (o : Ops)
  /-- CBDONE (R257): Marks an in-flight constraint done. -/
  | cbdone (o : Ops)
  /-- CBSTAT (R258): Reads one count of a batching context. -/
  | cbstat (o : Ops)
  /-- QPUSH (R259): Appends a value to the partner lane's queue window. -/
  | qpush (o : Ops)
  /-- QPOP (R259): Removes the oldest entry of a queue window, or reports empty. -/
  | qpop (o : Ops)
  /-- QSTAT (R259): Reads a queue window's occupancy. -/
  | qstat (o : Ops)
  /-- OVERFLOW_REFILL (R329): As room appears, a queue takes back its spilled entries in spill order. -/
  | overflowRefill (launch die : Nat)
  /-- MZERO (R84): Zeroes a tile. -/
  | mzero (o : Ops)
  /-- MLDB (R84): Latches a B slab into one or both arrays. -/
  | mldb (o : Ops)
  /-- MMA (R85): Multiplies one K slab on the own array. -/
  | mma (o : Ops)
  /-- MMAP (R85): Multiplies one K slab on both arrays of a matrix pair. -/
  | mmap (o : Ops)
  /-- MMINPLUS (R86): Min-plus semiring product into an accumulator. -/
  | mminplus (o : Ops)
  /-- MMAXTIMES (R86): Max-times semiring product into an accumulator. -/
  | mmaxtimes (o : Ops)
  /-- MORAND (R86): Or-and semiring product into an accumulator. -/
  | morand (o : Ops)
  /-- SCACC (R87): Folds a partial tile into an accumulator with block, row and column scales. -/
  | scacc (o : Ops)
  /-- MACCLD (R88): Loads a tile from memory. -/
  | maccld (o : Ops)
  /-- MACCST (R88): Stores an accumulator tile to memory. -/
  | maccst (o : Ops)
  /-- MPSST (R88): Stores a partial-sum tile to memory. -/
  | mpsst (o : Ops)
  /-- MREADY (R89): Waits for the gang's matrix instructions and the thread's scratch stores, then reports a recorded SCACC error. -/
  | mready (o : Ops)
  /-- MWAIT (R89): Waits on a token and raises its cause if it failed. -/
  | mwait (o : Ops)
  /-- MELECT (R83): Elects one lane and reports the core's pair role. -/
  | melect (o : Ops)
  /-- MATRIX_RETIRE (R79): A matrix instruction finishes on its arrays, writes its tiles and token, and releases a slaved follower array. -/
  | matrixRetire (partition : Nat × Portion)
  /-- TRAP (R345): Raises TRAP_INSN with a code. -/
  | trap (o : Ops)
  /-- BKPT (R345): Raises BREAKPOINT, or stops for the debugger. -/
  | bkpt (o : Ops)
  /-- ERET (R346): Leaves a handler or routine, replaying a held log entry. -/
  | eret (o : Ops)
  /-- CSRR (R347): Reads a control register. -/
  | csrr (o : Ops)
  /-- CSRW (R347): Writes a control register. -/
  | csrw (o : Ops)
  /-- CSRX (R347): Swaps, sets or clears control-register bits in one indivisible step. -/
  | csrx (o : Ops)
  /-- SAFE (R350): Marks a safe point with its live mask. -/
  | safe (o : Ops)
  /-- LAUNCH (R351): Starts a launch from a packet, one per guarded lane. -/
  | launch (o : Ops)
  /-- LWAIT (R352): Waits for a completion word with done = 1. -/
  | lwait (o : Ops)
  /-- TLBINV (R353): Shoots down cached translations and waits for completion. -/
  | tlbinv (o : Ops)
  /-- SNAP (R354): Fires the package snapshot trigger if armed. -/
  | snap (o : Ops)
  /-- ENRD (R355): Reads an energy value. -/
  | enrd (o : Ops)
  /-- WCLEAR (R356): Clears partitions and assigns them a world. -/
  | wclear (o : Ops)
  /-- HALT (R309): Ends a save routine thread's part of the save. -/
  | halt (o : Ops)
  /-- IADD_C32 (R40): Compact IADD with dst as srcA. -/
  | iaddC32 (c : C32)
  /-- ISUB_C32 (R40): Compact ISUB with dst as srcA. -/
  | isubC32 (c : C32)
  /-- AND_C32 (R40): Compact AND with dst as srcA. -/
  | andC32 (c : C32)
  /-- OR_C32 (R40): Compact OR with dst as srcA. -/
  | orC32 (c : C32)
  /-- XOR_C32 (R40): Compact XOR with dst as srcA. -/
  | xorC32 (c : C32)
  /-- SHL_C32 (R40): Compact SHL with dst as srcA. -/
  | shlC32 (c : C32)
  /-- SHR_C32 (R40): Compact SHR with dst as srcA. -/
  | shrC32 (c : C32)
  /-- SAR_C32 (R40): Compact SAR with dst as srcA. -/
  | sarC32 (c : C32)
  /-- MOV_C32 (R40): Compact MOV.B64 between d registers. -/
  | movC32 (c : C32)
  /-- MOVI_C32 (R40): Compact MOVI of a sign-extended 7-bit immediate. -/
  | moviC32 (c : C32)
  /-- FADD_C32 (R40): Compact FADD in RNE with dst as srcA. -/
  | faddC32 (c : C32)
  /-- FMUL_C32 (R40): Compact FMUL in RNE with dst as srcA. -/
  | fmulC32 (c : C32)
  /-- FMIN_C32 (R40): Compact FMIN with dst as srcA. -/
  | fminC32 (c : C32)
  /-- FMAX_C32 (R40): Compact FMAX with dst as srcA. -/
  | fmaxC32 (c : C32)
  /-- BRA_C32 (R40): Compact BRA with a 14-bit signed offset. -/
  | braC32 (c : C32)
  /-- NOP_C32 (R40): Compact NOP. -/
  | nopC32 (c : C32)
  /-- YIELD_C32 (R40): Compact YIELD. -/
  | yieldC32 (c : C32)
  /-- PAUSE_C32 (R40): Compact PAUSE n. -/
  | pauseC32 (c : C32)
  /-- WAIT_C32 (R40): Compact WAIT on a mask register. -/
  | waitC32 (c : C32)
  /-- JOIN_C32 (R40): Compact JOIN on a mask register. -/
  | joinC32 (c : C32)
  /-- LEAVE_C32 (R40): Compact LEAVE on a mask register. -/
  | leaveC32 (c : C32)
  /-- EXIT_C32 (R40): Compact EXIT. -/
  | exitC32 (c : C32)
  /-- RET_C32 (R40): Compact RET through d1. -/
  | retC32 (c : C32)
  /-- GLOBAL_LOAD_REPLY (R206): A global load is served at the home, under a lease or from an owned word, and its data returns to the register. -/
  | globalLoadReply (load : Nat) (how : Served)
  /-- HOME_STORE_PERFORM (R205): A device store takes its place at the line's L2 home and its write completion time becomes known. -/
  | homeStorePerform (store : Nat)
  /-- LEASE_EXPIRY (R213): The last unexpired device lease on a line expires, and the line leaves state L. -/
  | leaseExpiry (line : Nat)
  /-- HOST_READ (R213): A host core reads a line it does not hold. -/
  | hostRead (host line : Nat)
  /-- HOST_WRITE_PERMISSION (R213): A host core requests write permission, waiting on leases in state L. -/
  | hostWritePermission (host address : Nat) (bytes : List Byte)
  /-- HOST_EVICTION (R213): A host core evicts a line, writing back dirty lines. -/
  | hostEviction (host line : Nat)
  /-- HOST_AMO (R294): A host atomic is applied at the home once the line reaches M. -/
  | hostAmo (host address size : Nat) (op : HostAmo) (value : Word)
  /-- BACK_INVALIDATE_SNOOP (R216): A CXL pool back-invalidate snoop writes back and drops a line and is answered after its leases expire. -/
  | backInvalidateSnoop (line : Nat) (bytes : Option (List Byte))
  /-- FAULT_SERVICE (R269): The hub's fault engine or firmware walks again, waits on transit, and posts remaining faults to the fault queue. -/
  | faultService (fault : Nat)
  /-- TRANSIT_RETRY (R273): When t reads 0, a store held for PF_WRITE_IN_TRANSIT is retried. -/
  | transitRetry (fault : Nat)
  /-- FQ_ANSWER (R363): Software's answer to a fault record retries the logged instruction or delivers its cause. -/
  | fqAnswer (value : Word)
  /-- FQ_SIZE_WRITE (R363): A write of fq_base or fq_size configures the fault queue, illegal values being ignored. -/
  | fqSizeWrite (size : Bool) (value : Word)
  /-- MACHINE_CHECK (R337): An uncorrectable error stops the affected threads and posts records. -/
  | machineCheck (code partition : Nat) (address : Word) (named : List Nat) (recoverable : Bool)
  /-- LINK_LOSS (R337): Loss of a die-to-die link or Wilkan port posts a record-only machine check. -/
  | linkLoss (wilkan : Bool) (link : Nat)
  /-- PREEMPT_REQUEST (R338): A pre-emption request for a launch's gangs is made by the scheduler, PREEMPTCTL.req or the debugger. -/
  | preemptRequest (source : PreemptBy) (gangs : List Nat)
  /-- PREEMPT_WATCHDOG (R338): The watchdog expires before the gang takes PREEMPT and withdraws the request. -/
  | preemptWatchdog (gang : Nat)
  /-- SAVE_COMPLETE (R309): When every thread has issued HALT and the gang's operations are done, the core writes flags and barrier images and frees resources. -/
  | saveComplete (gang : Nat)
  /-- CTX_SEQUENCER_SAVE (R339): In hardware mode the sequencer drains and writes the save area in ascending order. -/
  | ctxSequencerSave (gang : Nat)
  /-- RESTORE_START (R312): The scheduler restores a saved gang and starts its restore routine or sequencer. -/
  | restoreStart (saved key : Nat)
  /-- BLOCK_ADMISSION (R322): A block or phase is admitted whole when resources and energy margin allow. -/
  | blockAdmission (die : Nat) (keys : List Nat)
  /-- GANG_END (R101): A gang whose threads have exited and operations completed releases its registers and slot. -/
  | gangEnd (gang : Nat)
  /-- LAUNCH_COMPLETION (R318): When every block and phase has ended and contributions are applied, the completion word is written. -/
  | launchCompletion (launch : Nat)
  /-- ENERGY_WINDOW_RESET (R324): At each 1 ms boundary ENUSED returns to 0. -/
  | energyWindowReset (die : Nat)
  /-- ENERGY_PLANNER_TICK (R325): Every 10 µs the planner projects draw and lowers or raises the arithmetic clock. -/
  | energyPlannerTick (die : Nat) (charges : List (Nat × Nat)) (idle : Nat × Nat)
  /-- WEIGHT_REFRESH_START (R96): A weight-store refresh window begins and next_start advances. -/
  | weightRefreshStart (die : Nat)
  /-- WEIGHT_REFRESH_END (R96): A refresh window ends and held reads complete. -/
  | weightRefreshEnd (die : Nat)
  /-- HEAPCOL_WRITE (R280): A system write of HEAPCOL flips the colour, sets active and starts a compaction cycle. -/
  | heapcolWrite (asid : Nat) (value : Word)
  /-- COMPACTION_LINE_COPY (R286): The compaction engine copies one line, deciding objects at the cursor, as one coherence event. -/
  | compactionLineCopy (asid : Nat)
  /-- COMPACTION_COMPLETE (R284): Past the range end the engine writes the cursor and count and clears active as a release. -/
  | compactionComplete (asid : Nat)
  /-- MIGRATION_REQUEST (R304): A request to move a page is decided at its directory entry. -/
  | migrationRequest (asid : Nat) (page : Nat) (requesters frames : List Nat)
  /-- MIGRATION_LINE_COPY (R275): The migration engine copies one line of a page to the destination frame. -/
  | migrationLineCopy (page : Nat) (ok : Bool)
  /-- MIGRATION_COMPLETE (R275): The leaf is rewritten, shot down, t cleared and the source frame freed. -/
  | migrationComplete (page : Nat)
  /-- MIGRATION_HOLD_EXPIRY (R305): The 20 µs hold after a migration ends. -/
  | migrationHoldExpiry (page : Nat)
  /-- CODE_COMPACTION (R342): A write of cc_go parks the ASID's gangs, rewrites pcs and meets, discards caches and unparks. -/
  | codeCompaction (value : Word)
  /-- CROSSING_ARRIVAL (R296): A migrating thread arrives on the other kind of core with its register image from the record. -/
  | crossingArrival (crossing key : Nat)
  /-- HOST_JALR_CROSSING (R300): A host jal or jalr to a Flidan page resolves and migrates the thread. -/
  | hostJalrCrossing (host thread : Nat) (kind : CrossKind) (target : Word) (image : List Word) (fcsr : BitVec 8)
  /-- REG_CMD (R299): A write of reg_cmd registers or deregisters the writing host thread for migration. -/
  | regCmd (host : Nat) (thread : Bool) (value : Word)
  /-- HOST_LAUNCH (R351): A write of hl_packet starts a launch as one privileged system-world LAUNCH. -/
  | hostLaunch (host : Nat) (packet : Word)
  /-- MEASURE_EXTEND (R379): A write of ms_cmd with go extends a measurement slot with an image. -/
  | measureExtend (value : Word)
  /-- OPLOG_FREE (R360): Writing 1 to OPLOG.free frees the entry and leaves the destination with its old value. -/
  | oplogFree (gang lane : Nat)
  /-- LEASECTL_WRITE (R209): A write of LEASECTL clamps lease_ns and margin_ns and applies to later leases. -/
  | leasectlWrite (value : Word)
  /-- FUNCMODE_WRITE (R349): A write of FUNCMODE switches function modes for later work and extends MS3. -/
  | funcmodeWrite (die : Nat) (value : Word)
  /-- CONTROL_REGISTER_WRITE (R364): A write of a control register or control-page word that has no row of its own. -/
  | controlRegisterWrite (offset : Nat) (value : Word)
  /-- SNAPSHOT_TRIGGER (R354): The debugger, pin or machine check fires the snapshot trigger and every block latches. -/
  | snapshotTrigger (source : SnapBy)
  /-- INSTRUCTION_SAMPLE (R387): A partition's sample interval expires and it picks an issued instruction to follow. -/
  | instructionSample (partition : Nat)
  /-- SAMPLE_RECORD_WRITE (R387): A sampled instruction reaches write-back and its record is written to the sample ring. -/
  | sampleRecordWrite (partition : Nat)
  /-- SINGLE_STEP (R124): The debugger steps one thread, which issues one instruction and takes SINGLE_STEP. -/
  | singleStep (gang lane : Nat)
  /-- CLEARING_DONE (R378): A partition's clearing sequencer finishes its 780 rows and the new world takes effect. -/
  | clearingDone (partition : Nat)
  /-- GET_TDISP_VERSION (R365): The controller answers with TDISP version 1.0. -/
  | getTdispVersion (port : Nat) (tdi : Nat)
  /-- GET_TDISP_CAPABILITIES (R365): The controller answers with its capabilities. -/
  | getTdispCapabilities (port : Nat) (tdi : Nat)
  /-- LOCK_INTERFACE_REQUEST (R365): A lock request is posted to the service, which decides it. -/
  | lockInterfaceRequest (port tdi : Nat) (flags : BitVec 32) (offset : Word)
  /-- GET_DEVICE_INTERFACE_REPORT (R370): A report request is posted to the service, which writes the 60-byte report. -/
  | getDeviceInterfaceReport (port tdi : Nat) (offset length : Nat)
  /-- GET_DEVICE_INTERFACE_STATE (R365): The controller answers from the TDI's state byte. -/
  | getDeviceInterfaceState (port tdi : Nat)
  /-- START_INTERFACE_REQUEST (R365): A start request, with the nonce compared, is posted to the service. -/
  | startInterfaceRequest (port tdi : Nat) (nonce : List Byte)
  /-- STOP_INTERFACE_REQUEST (R365): The controller applies the stop command and answers after clearing ends. -/
  | stopInterfaceRequest (port tdi : Nat)
  /-- UNSUPPORTED_TDISP_REQUEST (R365): P2P, MMIO attribute, VDM and unknown codes receive UNSUPPORTED_REQUEST. -/
  | unsupportedTdispRequest (port tdi : Nat) (code : Byte)
  /-- TDISP_ANSWER (R366): The service writes rseq, and the controller sends the answer. -/
  | tdispAnswer (port : Nat)
  /-- TDISP_EVENT_POST (R365): A waiting ERROR event is posted to the service once no request is outstanding. -/
  | tdispEventPost (port : Nat)
  /-- TDI_LOCK (R367): The lock command takes the snapshot and moves the TDI to CONFIG_LOCKED. -/
  | tdiLock (port tdi : Nat)
  /-- TDI_START (R367): The start command moves the TDI to RUN. -/
  | tdiStart (port tdi : Nat)
  /-- TDI_STOP (R367): The stop command ends launches on bound partitions, clears them and returns the TDI to CONFIG_UNLOCKED. -/
  | tdiStop (port tdi : Nat)
  /-- FROZEN_ITEM_WRITE (R369): A host write to a frozen item is refused, logged and drives touched TDIs to ERROR. -/
  | frozenItemWrite (port tdi : Nat) (item : Frozen) (address : Word) (value : Word)
  /-- GET_VERSION (R381): SPDM version request. -/
  | getVersion (transport : Nat) (payload : List Byte)
  /-- GET_CAPABILITIES (R381): SPDM capabilities request. -/
  | getCapabilities (transport : Nat) (payload : List Byte)
  /-- NEGOTIATE_ALGORITHMS (R381): SPDM algorithm negotiation. -/
  | negotiateAlgorithms (transport : Nat) (payload : List Byte)
  /-- GET_DIGESTS (R381): SPDM certificate digests request. -/
  | getDigests (transport : Nat) (payload : List Byte)
  /-- GET_CERTIFICATE (R381): SPDM certificate chain request. -/
  | getCertificate (transport : Nat) (payload : List Byte)
  /-- CHALLENGE (R381): SPDM challenge signed by the device. -/
  | challenge (transport : Nat) (payload : List Byte)
  /-- GET_MEASUREMENTS (R381): Returns measurement slots, configuration images or audit logs. -/
  | getMeasurements (transport : Nat) (payload : List Byte)
  /-- KEY_EXCHANGE (R381): SPDM session key exchange. -/
  | keyExchange (transport : Nat) (payload : List Byte)
  /-- FINISH (R381): SPDM session finish. -/
  | finish (transport : Nat) (payload : List Byte)
  /-- HEARTBEAT (R381): SPDM session heartbeat. -/
  | heartbeat (transport : Nat) (payload : List Byte)
  /-- KEY_UPDATE (R381): SPDM session key update. -/
  | keyUpdate (transport : Nat) (payload : List Byte)
  /-- END_SESSION (R381): Ends an SPDM session. -/
  | endSession (transport : Nat) (payload : List Byte)
  /-- VENDOR_DEFINED_REQUEST (R381): Carries TDISP and Thrumeb management commands. -/
  | vendorDefinedRequest (transport : Nat) (payload : List Byte)
  /-- WORLD_EXPORT (R382): The security core builds a handover record for a world, sends it and erases the world's working keys. -/
  | worldExport (world : Nat) (destination : BitVec 256)
  /-- HANDOVER_CONFIRM (R383): A signed confirmation from the destination deletes the record. -/
  | handoverConfirm (world : Nat) (created : Word)
  /-- HANDOVER_TIMEOUT (R383): 50 ms pass without confirmation and the attempt fails. -/
  | handoverTimeout (world : Nat)
  /-- HANDOVER_RETRY (R383): A retry naming the handle resends the record once. -/
  | handoverRetry (world : Nat) (created : Word)
  /-- COUNTER_READ (R384): A host counter read returns the value, or zero and an audit entry if not allowed. -/
  | counterRead (counter : BitVec 16) (requester : Nat)
  /-- ALLOW_LIST_CHANGE (R384): A change to a world's allow-list extends MS3. -/
  | allowListChange (world : Nat) (value : BitVec 32)
  /-- L2WMAP_WRITE (R376): The security core changes a slice's way map, sealing out lines of ways taken from a world. -/
  | l2wmapWrite (slice way : Nat) (value : Byte)
  /-- RESET_RELEASE (R393): Release of the reset pin starts GTIME and the boot sequence. -/
  | resetRelease
  /-- BOOT_STEP (R393): A boot step completes its verification, training or configuration and the next begins. -/
  | bootStep (ok : Bool)
  /-- SYNCHRONISATION_MARGIN_REACHED (R157): GTIME reaches a thread's hzn plus margin_ns, so a waiting release part, FENCE or departing crossing may proceed. -/
  | synchronisationMarginReached (gang lane : Nat)
  /-- REDUCTION_ACKNOWLEDGEMENT (R219): The owner's acknowledgement of an applied REDADD, REDMIN or REDMAX reaches the issuing thread and merges its w into hzn. -/
  | reductionAcknowledgement (request : Nat)
  /-- UNSUPPORTED_SPDM_REQUEST (R381): An SPDM request outside the supported list is answered with ERROR UnsupportedRequest. -/
  | unsupportedSpdmRequest (transport : Nat) (payload : List Byte)
  /-- DEBUGGER_STOP (R103): The debugger stops a thread, which leaves its bundle and becomes stopped. -/
  | debuggerStop (gang lane : Nat)
  /-- DEBUGGER_RESUME (R361): The debugger resumes a stopped thread, which becomes runnable at the next regrouping. -/
  | debuggerResume (gang lane : Nat)
  /-- DEBUGGER_STATE_WRITE (R110): The debugger writes a thread's state, such as its meet. -/
  | debuggerStateWrite (gang lane : Nat) (what : DebugField) (value : Word)
  /-- HANDOVER_RECORD_ARRIVAL (R383): A handover record from a source device reaches this device as destination, which imports the keys and sends its signed confirmation. -/
  | handoverRecordArrival (record : List Byte)
  /-- PEER_DEVICE_CONTRIBUTION (R248): A peer device's arrival or local result for a remote group barrier or reduction reaches this device over the Wilkan links. -/
  | peerDeviceContribution (launch group : Nat) (peer : Nat × List Nat) (reduction : Bool) (values : List Word)
  deriving DecidableEq, Repr

end Sys2Proof
end

