-- ==== Sys2Proof/Config.lean ====
section
/-! DEFINITION. What the package fixes (R1 and the capacities other rules state), and the free values: values the manual
leaves open. A free value is an opaque constant, so no proof can learn it; a claim about one holds for every value. -/

namespace Sys2Proof.Config

/-- Compute dies (R1). -/
def dies : Nat := 4
/-- Cores of one die (R1). -/
def coresPerDie : Nat := 48
/-- Cores of the package (R1). -/
def cores : Nat := 192
/-- Partitions of one core (R1). -/
def partsPerCore : Nat := 8
/-- Partitions of the package (R1). -/
def partitions : Nat := 1536
/-- Resident gangs of one partition (R1). -/
def slotsPerPart : Nat := 8
/-- Resident slots of the package (R1). -/
def slots : Nat := 12288
/-- Clusters of the package, each with an L2 slice and a service gang (R1, R242). -/
def clusters : Nat := 48
/-- Host cores (R1). -/
def hosts : Nat := 64
/-- PCIe ports, each with one TDISP controller (R1, R365). -/
def ports : Nat := 2
/-- Wilkan link ports (R1). -/
def wilkanPorts : Nat := 18
/-- TDIs of one controller. -/
def tdis : Nat := 48
/-- Protected worlds 1 to 64 (R373). -/
def worlds : Nat := 64
/-- Scratch bytes of one core (R1). -/
def scratchBytes : Nat := 524288
/-- Bytes of one die's weight store (R95). -/
def weightBytes : Nat := 268435456
/-- Bytes of a launch's constant bank (R228). -/
def constBytes : Nat := 65536
/-- Register-bank bytes of one partition (R1: 64 KiB). -/
def bankBytes : Nat := 65536
/-- Operand-log entries of one partition (R270). -/
def opLogEntries : Nat := 16
/-- Copies a partition may have outstanding (R78). -/
def copyLimit : Nat := 16
/-- Unretired matrix instructions of a partition (R78). -/
def matrixLimit : Nat := 8
/-- Return slots of a thread (R243). -/
def returnSlots : Nat := 4
/-- Entries of the queues of R327. -/
def blockQueue : Nat := 1024
def systemQueue : Nat := 256
def phaseQueue : Nat := 4096
def windowEntries : Nat := 8
def batchQueue : Nat := 4096
def serviceQueue : Nat := 512
def redseqBuffer : Nat := 1024
/-- Loads a shadow gang may have in flight, and a core's engine (R123). -/
def shadowLoads : Nat := 64
def engineLoads : Nat := 512
/-- Lines of a core's L1 of 128 KiB, and fetch blocks of its instruction cache of 64 KiB (R1). -/
def l1Lines : Nat := 1024
def fetchBlocks : Nat := 2048
/-- CXL pool lines that one die's snoop filter tracks (R279). -/
def poolLines : Nat := 2097152
/-- Entries of a violation log and of an audit log (R385, R389). -/
def violationEntries : Nat := 64
def auditEntries : Nat := 512
/-- The hold after a migration, in ns (R305), and the handover's answer time (R383). -/
def holdNs : Nat := 20000
def handoverNs : Nat := 50000000

/-- A free 64-bit value: where a rule calls a value undefined, or states none, the machine takes one of these, numbered by
State.freeCtr, so that no two need be equal (assumption 2). -/
opaque freeWord : Nat → Word
/-- A free truth value, in the same way: an outcome that the manual leaves open (assumption 2). -/
opaque freeBit : Nat → Bool
/-- How many ns of package time pass in a step: the manual gives no duration (assumption 3). -/
opaque elapsed : Nat → Nat
/-- The bytes that a Config-opaque device format holds: service requests and REDSEQ contributions in an overflow ring, and
the queue identity of a slot (R328: the device's own). -/
opaque ringFormat : Nat → Byte
/-- The SM3 hash of a byte string (R379: the algorithm is named, not given). -/
opaque sm3 : List Byte → BitVec 256
/-- The SM2 signature of the security core over a byte string (R381, R382). -/
opaque sm2Sign : List Byte → BitVec 512
/-- Whether a signature over a byte string verifies (R382, R393). -/
opaque sm2Verify : List Byte → List Byte → Bool
/-- The security core's answer bytes to an SPDM request that the DMTF standard lays down and this manual does not: the code
of the request, the measurement slots and the request's payload determine it (R381). -/
opaque spdmAnswer : Nat → List Byte → List (BitVec 256) → List Byte
/-- World keys as the destination imports them from a record, and the record's encryption of them (R382). -/
opaque wrapKeys : Nat → BitVec 256 → BitVec 512
/-- A random nonce (R365: the controller appends a 32-byte nonce). -/
opaque nonce : Nat → BitVec 256
/-- The capabilities that TDISP_CAPABILITIES reports: the manual gives its code and no contents (R365). -/
opaque tdispCaps : List Byte
/-- The SM3 hash of the device's slot-0 certificate (R382). -/
opaque deviceCert : BitVec 256
/-- The firmware images that boot measures (R379, R393). -/
opaque firmware : Nat → List Byte
/-- The event counters' values (R384: the events are numbered; their counts are not laid down). -/
opaque counter : BitVec 16 → Nat → BitVec 64

/-- Where the hub firmware begins, at which the host cores leave reset (R393). -/
opaque firmwareEntry : Word

/-- Where the platform places the hub's control page, the controller page of each port, CXL pool memory and the memory of other devices: each from an
address, the last two with a length. The manual gives no address (assumption 59). -/
opaque controlPage : Option Nat
opaque windowPages : List Nat
opaque poolMemory : List (Nat × Nat)
opaque remoteMemory : List (Nat × Nat)
/-- The routing ID (bus, device and function) of a port's PF, and of a TDI's VF: the host assigns it (R369). -/
opaque pfRouting : Nat → Nat → BitVec 16
opaque vfRouting : Nat → Nat → BitVec 16

/-- How a latched snapshot writes a thread's condition: R386 names the value and no code for it. -/
opaque condCode : Nat → Word
/-- The functions of a port's TDIs: which PF a TDI's VF belongs to, the VF's number from 0, and the partitions and world bound to it (die
[7:0], core [15:8], partition mask [23:16], world [31:24]): the manual freezes the binding and gives no write of it (R367, R368). -/
opaque pfOf : Nat → Nat → Nat
opaque vfOf : Nat → Nat → Nat
opaque binding : Nat → Nat → BitVec 32

/-- The Wilkan node number of this device, by which a peer list names it (R248). -/
opaque node : Nat
/-- The byte that scratch holds where nothing has written it since its allocation: undefined contents (R71, assumption 2). -/
opaque scratchByte : Nat → Nat → Byte

end Sys2Proof.Config
end

