-- ==== Sys2Proof/Machine/Opcodes.lean ====
section
/-! DEFINITION. The opcode map (R41) and the compact opcodes (R40): which number belongs to which constructor. -/

namespace Sys2Proof

/-- What an element of the syntax is: an S64 or L96 instruction with its 9-bit opcode, a C32 instruction with its
compact opcode, or a step of the device that no instruction word encodes. -/
inductive Parts where
  | op (code : Nat) (o : Ops)
  | compact (code : Nat) (c : C32)
  | event
  deriving DecidableEq, Repr

/-- The opcode or compact opcode of an instruction, with its fields (R40, R41). -/
def Instr.parts : Instr → Parts
  | .instructionFetch _ _ => .event
  | .stallExpiry _ _ => .event
  | .regrouping _ => .event
  | .pauseExpiry _ _ => .event
  | .iadd o => .op 0x0 o
  | .isub o => .op 0x1 o
  | .imul o => .op 0x2 o
  | .imulh o => .op 0x3 o
  | .imad o => .op 0x4 o
  | .imadw o => .op 0x5 o
  | .idiv o => .op 0x6 o
  | .irem o => .op 0x7 o
  | .imin o => .op 0x8 o
  | .imax o => .op 0x9 o
  | .iabs o => .op 0xA o
  | .ineg o => .op 0xB o
  | .iclamp o => .op 0xC o
  | .iadds o => .op 0xD o
  | .isubs o => .op 0xE o
  | .and o => .op 0xF o
  | .or o => .op 0x10 o
  | .xor o => .op 0x11 o
  | .andn o => .op 0x12 o
  | .not o => .op 0x13 o
  | .shl o => .op 0x14 o
  | .shr o => .op 0x15 o
  | .sar o => .op 0x16 o
  | .rol o => .op 0x17 o
  | .ror o => .op 0x18 o
  | .popc o => .op 0x19 o
  | .clz o => .op 0x1A o
  | .ctz o => .op 0x1B o
  | .brev o => .op 0x1C o
  | .bswap o => .op 0x1D o
  | .bfx o => .op 0x1E o
  | .bfi o => .op 0x1F o
  | .sext o => .op 0x20 o
  | .zext o => .op 0x21 o
  | .lea o => .op 0x22 o
  | .sel o => .op 0x23 o
  | .mov o => .op 0x24 o
  | .movIx o => .op 0x24 o
  | .movi o => .op 0x25 o
  | .movg o => .op 0x26 o
  | .movl o => .op 0x27 o
  | .spec o => .op 0x28 o
  | .fadd o => .op 0x40 o
  | .fsub o => .op 0x41 o
  | .fmul o => .op 0x42 o
  | .ffma o => .op 0x43 o
  | .ffms o => .op 0x44 o
  | .fnma o => .op 0x45 o
  | .fmin o => .op 0x46 o
  | .fmax o => .op 0x47 o
  | .fabs o => .op 0x48 o
  | .fneg o => .op 0x49 o
  | .fcpys o => .op 0x4A o
  | .fdiv o => .op 0x4B o
  | .fsqrt o => .op 0x4C o
  | .frcp o => .op 0x4D o
  | .frsq o => .op 0x4E o
  | .fexp2 o => .op 0x4F o
  | .flog2 o => .op 0x50 o
  | .fsin o => .op 0x51 o
  | .fcos o => .op 0x52 o
  | .ftanh o => .op 0x53 o
  | .frnd o => .op 0x54 o
  | .fcvt o => .op 0x55 o
  | .ftoi o => .op 0x56 o
  | .itof o => .op 0x57 o
  | .fscale o => .op 0x58 o
  | .fclass o => .op 0x59 o
  | .fgetexp o => .op 0x5A o
  | .vdot o => .op 0x80 o
  | .vdota o => .op 0x81 o
  | .vpack o => .op 0x82 o
  | .vunpk o => .op 0x83 o
  | .vperm o => .op 0x84 o
  | .vsad o => .op 0x85 o
  | .vavg o => .op 0x86 o
  | .vins o => .op 0x87 o
  | .vext o => .op 0x88 o
  | .xshfl o => .op 0xA0 o
  | .xbcast o => .op 0xA1 o
  | .xred o => .op 0xA2 o
  | .xscan o => .op 0xA3 o
  | .xballot o => .op 0xA4 o
  | .xvote o => .op 0xA5 o
  | .xmatch o => .op 0xA6 o
  | .icmp o => .op 0xA7 o
  | .fcmp o => .op 0xA8 o
  | .pand o => .op 0xA9 o
  | .por o => .op 0xAA o
  | .pxor o => .op 0xAB o
  | .pnot o => .op 0xAC o
  | .pmov o => .op 0xAD o
  | .bra o => .op 0xC0 o
  | .brx o => .op 0xC1 o
  | .call o => .op 0xC2 o
  | .calli o => .op 0xC3 o
  | .ret o => .op 0xC4 o
  | .exit o => .op 0xC5 o
  | .meet o => .op 0xC6 o
  | .join o => .op 0xC7 o
  | .leave o => .op 0xC8 o
  | .wait o => .op 0xC9 o
  | .mset o => .op 0xCA o
  | .mget o => .op 0xCB o
  | .mop o => .op 0xCC o
  | .widen o => .op 0xCD o
  | .narrow o => .op 0xCE o
  | .yield o => .op 0xCF o
  | .pause o => .op 0xD0 o
  | .nop o => .op 0xD1 o
  | .bari o => .op 0xE0 o
  | .bara o => .op 0xE1 o
  | .barw o => .op 0xE2 o
  | .barx o => .op 0xE3 o
  | .bart o => .op 0xE4 o
  | .gbar o => .op 0xE5 o
  | .gbarp o => .op 0xE6 o
  | .fence o => .op 0xE7 o
  | .gwait o => .op 0xE8 o
  | .ld o => .op 0x100 o
  | .st o => .op 0x101 o
  | .lda o => .op 0x102 o
  | .stl o => .op 0x103 o
  | .lds o => .op 0x104 o
  | .sts o => .op 0x105 o
  | .ldsx o => .op 0x106 o
  | .stsf o => .op 0x107 o
  | .ldw o => .op 0x108 o
  | .ldc o => .op 0x109 o
  | .pref o => .op 0x10A o
  | .cinv o => .op 0x10B o
  | .cflush o => .op 0x10C o
  | .icinv o => .op 0x10D o
  | .ldref o => .op 0x10E o
  | .stref o => .op 0x10F o
  | .ldh o => .op 0x110 o
  | .sth o => .op 0x111 o
  | .pin o => .op 0x112 o
  | .unpin o => .op 0x113 o
  | .refaddr o => .op 0x114 o
  | .refcmp o => .op 0x115 o
  | .aadd o => .op 0x140 o
  | .aand o => .op 0x141 o
  | .aor o => .op 0x142 o
  | .axor o => .op 0x143 o
  | .amin o => .op 0x144 o
  | .amax o => .op 0x145 o
  | .axchg o => .op 0x146 o
  | .acas o => .op 0x147 o
  | .redadd o => .op 0x148 o
  | .redmin o => .op 0x149 o
  | .redmax o => .op 0x14A o
  | .redseq o => .op 0x14B o
  | .gred o => .op 0x14C o
  | .gredw o => .op 0x14D o
  | .atomicApply _ => .event
  | .atomicReply _ => .event
  | .redseqApply _ => .event
  | .gredChunkDone _ => .event
  | .groupMemberFailure _ _ _ => .event
  | .cpy o => .op 0x160 o
  | .cpy2d o => .op 0x161 o
  | .cpym o => .op 0x162 o
  | .cpyx o => .op 0x163 o
  | .cpyw o => .op 0x164 o
  | .cpymChunkPosted _ _ => .event
  | .copyCompletion _ => .event
  | .cbinit o => .op 0x165 o
  | .cbpush o => .op 0x166 o
  | .cbpop o => .op 0x167 o
  | .cbdone o => .op 0x168 o
  | .cbstat o => .op 0x169 o
  | .qpush o => .op 0x16A o
  | .qpop o => .op 0x16B o
  | .qstat o => .op 0x16C o
  | .overflowRefill _ _ => .event
  | .mzero o => .op 0x180 o
  | .mldb o => .op 0x181 o
  | .mma o => .op 0x182 o
  | .mmap o => .op 0x183 o
  | .mminplus o => .op 0x184 o
  | .mmaxtimes o => .op 0x185 o
  | .morand o => .op 0x186 o
  | .scacc o => .op 0x187 o
  | .maccld o => .op 0x188 o
  | .maccst o => .op 0x189 o
  | .mpsst o => .op 0x18A o
  | .mready o => .op 0x18B o
  | .mwait o => .op 0x18C o
  | .melect o => .op 0x18D o
  | .matrixRetire _ => .event
  | .trap o => .op 0x1C0 o
  | .bkpt o => .op 0x1C1 o
  | .eret o => .op 0x1C2 o
  | .csrr o => .op 0x1C3 o
  | .csrw o => .op 0x1C4 o
  | .csrx o => .op 0x1C5 o
  | .safe o => .op 0x1C6 o
  | .launch o => .op 0x1C7 o
  | .lwait o => .op 0x1C8 o
  | .tlbinv o => .op 0x1C9 o
  | .snap o => .op 0x1CA o
  | .enrd o => .op 0x1CB o
  | .wclear o => .op 0x1CC o
  | .halt o => .op 0x1CD o
  | .iaddC32 c => .compact 0x0 c
  | .isubC32 c => .compact 0x1 c
  | .andC32 c => .compact 0x2 c
  | .orC32 c => .compact 0x3 c
  | .xorC32 c => .compact 0x4 c
  | .shlC32 c => .compact 0x5 c
  | .shrC32 c => .compact 0x6 c
  | .sarC32 c => .compact 0x7 c
  | .movC32 c => .compact 0x8 c
  | .moviC32 c => .compact 0x9 c
  | .faddC32 c => .compact 0xA c
  | .fmulC32 c => .compact 0xB c
  | .fminC32 c => .compact 0xC c
  | .fmaxC32 c => .compact 0xD c
  | .braC32 c => .compact 0xE c
  | .nopC32 c => .compact 0xF c
  | .yieldC32 c => .compact 0x10 c
  | .pauseC32 c => .compact 0x11 c
  | .waitC32 c => .compact 0x12 c
  | .joinC32 c => .compact 0x13 c
  | .leaveC32 c => .compact 0x14 c
  | .exitC32 c => .compact 0x15 c
  | .retC32 c => .compact 0x16 c
  | .globalLoadReply _ _ => .event
  | .homeStorePerform _ => .event
  | .leaseExpiry _ => .event
  | .hostRead _ _ => .event
  | .hostWritePermission _ _ _ => .event
  | .hostEviction _ _ => .event
  | .hostAmo _ _ _ _ _ => .event
  | .backInvalidateSnoop _ _ => .event
  | .faultService _ => .event
  | .transitRetry _ => .event
  | .fqAnswer _ => .event
  | .fqSizeWrite _ _ => .event
  | .machineCheck _ _ _ _ _ => .event
  | .linkLoss _ _ => .event
  | .preemptRequest _ _ => .event
  | .preemptWatchdog _ => .event
  | .saveComplete _ => .event
  | .ctxSequencerSave _ => .event
  | .restoreStart _ _ => .event
  | .blockAdmission _ _ => .event
  | .gangEnd _ => .event
  | .launchCompletion _ => .event
  | .energyWindowReset _ => .event
  | .energyPlannerTick _ _ _ => .event
  | .weightRefreshStart _ => .event
  | .weightRefreshEnd _ => .event
  | .heapcolWrite _ _ => .event
  | .compactionLineCopy _ => .event
  | .compactionComplete _ => .event
  | .migrationRequest _ _ _ _ => .event
  | .migrationLineCopy _ _ => .event
  | .migrationComplete _ => .event
  | .migrationHoldExpiry _ => .event
  | .codeCompaction _ => .event
  | .crossingArrival _ _ => .event
  | .hostJalrCrossing _ _ _ _ _ _ => .event
  | .regCmd _ _ _ => .event
  | .hostLaunch _ _ => .event
  | .measureExtend _ => .event
  | .oplogFree _ _ => .event
  | .leasectlWrite _ => .event
  | .funcmodeWrite _ _ => .event
  | .controlRegisterWrite _ _ => .event
  | .snapshotTrigger _ => .event
  | .instructionSample _ => .event
  | .sampleRecordWrite _ => .event
  | .singleStep _ _ => .event
  | .clearingDone _ => .event
  | .getTdispVersion _ _ => .event
  | .getTdispCapabilities _ _ => .event
  | .lockInterfaceRequest _ _ _ _ => .event
  | .getDeviceInterfaceReport _ _ _ _ => .event
  | .getDeviceInterfaceState _ _ => .event
  | .startInterfaceRequest _ _ _ => .event
  | .stopInterfaceRequest _ _ => .event
  | .unsupportedTdispRequest _ _ _ => .event
  | .tdispAnswer _ => .event
  | .tdispEventPost _ => .event
  | .tdiLock _ _ => .event
  | .tdiStart _ _ => .event
  | .tdiStop _ _ => .event
  | .frozenItemWrite _ _ _ _ _ => .event
  | .getVersion _ _ => .event
  | .getCapabilities _ _ => .event
  | .negotiateAlgorithms _ _ => .event
  | .getDigests _ _ => .event
  | .getCertificate _ _ => .event
  | .challenge _ _ => .event
  | .getMeasurements _ _ => .event
  | .keyExchange _ _ => .event
  | .finish _ _ => .event
  | .heartbeat _ _ => .event
  | .keyUpdate _ _ => .event
  | .endSession _ _ => .event
  | .vendorDefinedRequest _ _ => .event
  | .worldExport _ _ => .event
  | .handoverConfirm _ _ => .event
  | .handoverTimeout _ => .event
  | .handoverRetry _ _ => .event
  | .counterRead _ _ => .event
  | .allowListChange _ _ => .event
  | .l2wmapWrite _ _ _ => .event
  | .resetRelease => .event
  | .bootStep _ => .event
  | .synchronisationMarginReached _ _ => .event
  | .reductionAcknowledgement _ => .event
  | .unsupportedSpdmRequest _ _ => .event
  | .debuggerStop _ _ => .event
  | .debuggerResume _ _ => .event
  | .debuggerStateWrite _ _ _ _ => .event
  | .handoverRecordArrival _ => .event
  | .peerDeviceContribution _ _ _ _ _ => .event

/-- The instruction of a 9-bit opcode (R41); none where the opcode is unassigned (R42). 0x024 is MOV, or the ix-writing
form when op_mod [61] is set (R35, R166). -/
def ofOpcode (code : Nat) (o : Ops) : Option Instr :=
  match code with
  | 0x0 => some (.iadd o)
  | 0x1 => some (.isub o)
  | 0x2 => some (.imul o)
  | 0x3 => some (.imulh o)
  | 0x4 => some (.imad o)
  | 0x5 => some (.imadw o)
  | 0x6 => some (.idiv o)
  | 0x7 => some (.irem o)
  | 0x8 => some (.imin o)
  | 0x9 => some (.imax o)
  | 0xA => some (.iabs o)
  | 0xB => some (.ineg o)
  | 0xC => some (.iclamp o)
  | 0xD => some (.iadds o)
  | 0xE => some (.isubs o)
  | 0xF => some (.and o)
  | 0x10 => some (.or o)
  | 0x11 => some (.xor o)
  | 0x12 => some (.andn o)
  | 0x13 => some (.not o)
  | 0x14 => some (.shl o)
  | 0x15 => some (.shr o)
  | 0x16 => some (.sar o)
  | 0x17 => some (.rol o)
  | 0x18 => some (.ror o)
  | 0x19 => some (.popc o)
  | 0x1A => some (.clz o)
  | 0x1B => some (.ctz o)
  | 0x1C => some (.brev o)
  | 0x1D => some (.bswap o)
  | 0x1E => some (.bfx o)
  | 0x1F => some (.bfi o)
  | 0x20 => some (.sext o)
  | 0x21 => some (.zext o)
  | 0x22 => some (.lea o)
  | 0x23 => some (.sel o)
  | 0x24 => some (if o.opmod.toNat = 0 then .mov o else .movIx o)
  | 0x25 => some (.movi o)
  | 0x26 => some (.movg o)
  | 0x27 => some (.movl o)
  | 0x28 => some (.spec o)
  | 0x40 => some (.fadd o)
  | 0x41 => some (.fsub o)
  | 0x42 => some (.fmul o)
  | 0x43 => some (.ffma o)
  | 0x44 => some (.ffms o)
  | 0x45 => some (.fnma o)
  | 0x46 => some (.fmin o)
  | 0x47 => some (.fmax o)
  | 0x48 => some (.fabs o)
  | 0x49 => some (.fneg o)
  | 0x4A => some (.fcpys o)
  | 0x4B => some (.fdiv o)
  | 0x4C => some (.fsqrt o)
  | 0x4D => some (.frcp o)
  | 0x4E => some (.frsq o)
  | 0x4F => some (.fexp2 o)
  | 0x50 => some (.flog2 o)
  | 0x51 => some (.fsin o)
  | 0x52 => some (.fcos o)
  | 0x53 => some (.ftanh o)
  | 0x54 => some (.frnd o)
  | 0x55 => some (.fcvt o)
  | 0x56 => some (.ftoi o)
  | 0x57 => some (.itof o)
  | 0x58 => some (.fscale o)
  | 0x59 => some (.fclass o)
  | 0x5A => some (.fgetexp o)
  | 0x80 => some (.vdot o)
  | 0x81 => some (.vdota o)
  | 0x82 => some (.vpack o)
  | 0x83 => some (.vunpk o)
  | 0x84 => some (.vperm o)
  | 0x85 => some (.vsad o)
  | 0x86 => some (.vavg o)
  | 0x87 => some (.vins o)
  | 0x88 => some (.vext o)
  | 0xA0 => some (.xshfl o)
  | 0xA1 => some (.xbcast o)
  | 0xA2 => some (.xred o)
  | 0xA3 => some (.xscan o)
  | 0xA4 => some (.xballot o)
  | 0xA5 => some (.xvote o)
  | 0xA6 => some (.xmatch o)
  | 0xA7 => some (.icmp o)
  | 0xA8 => some (.fcmp o)
  | 0xA9 => some (.pand o)
  | 0xAA => some (.por o)
  | 0xAB => some (.pxor o)
  | 0xAC => some (.pnot o)
  | 0xAD => some (.pmov o)
  | 0xC0 => some (.bra o)
  | 0xC1 => some (.brx o)
  | 0xC2 => some (.call o)
  | 0xC3 => some (.calli o)
  | 0xC4 => some (.ret o)
  | 0xC5 => some (.exit o)
  | 0xC6 => some (.meet o)
  | 0xC7 => some (.join o)
  | 0xC8 => some (.leave o)
  | 0xC9 => some (.wait o)
  | 0xCA => some (.mset o)
  | 0xCB => some (.mget o)
  | 0xCC => some (.mop o)
  | 0xCD => some (.widen o)
  | 0xCE => some (.narrow o)
  | 0xCF => some (.yield o)
  | 0xD0 => some (.pause o)
  | 0xD1 => some (.nop o)
  | 0xE0 => some (.bari o)
  | 0xE1 => some (.bara o)
  | 0xE2 => some (.barw o)
  | 0xE3 => some (.barx o)
  | 0xE4 => some (.bart o)
  | 0xE5 => some (.gbar o)
  | 0xE6 => some (.gbarp o)
  | 0xE7 => some (.fence o)
  | 0xE8 => some (.gwait o)
  | 0x100 => some (.ld o)
  | 0x101 => some (.st o)
  | 0x102 => some (.lda o)
  | 0x103 => some (.stl o)
  | 0x104 => some (.lds o)
  | 0x105 => some (.sts o)
  | 0x106 => some (.ldsx o)
  | 0x107 => some (.stsf o)
  | 0x108 => some (.ldw o)
  | 0x109 => some (.ldc o)
  | 0x10A => some (.pref o)
  | 0x10B => some (.cinv o)
  | 0x10C => some (.cflush o)
  | 0x10D => some (.icinv o)
  | 0x10E => some (.ldref o)
  | 0x10F => some (.stref o)
  | 0x110 => some (.ldh o)
  | 0x111 => some (.sth o)
  | 0x112 => some (.pin o)
  | 0x113 => some (.unpin o)
  | 0x114 => some (.refaddr o)
  | 0x115 => some (.refcmp o)
  | 0x140 => some (.aadd o)
  | 0x141 => some (.aand o)
  | 0x142 => some (.aor o)
  | 0x143 => some (.axor o)
  | 0x144 => some (.amin o)
  | 0x145 => some (.amax o)
  | 0x146 => some (.axchg o)
  | 0x147 => some (.acas o)
  | 0x148 => some (.redadd o)
  | 0x149 => some (.redmin o)
  | 0x14A => some (.redmax o)
  | 0x14B => some (.redseq o)
  | 0x14C => some (.gred o)
  | 0x14D => some (.gredw o)
  | 0x160 => some (.cpy o)
  | 0x161 => some (.cpy2d o)
  | 0x162 => some (.cpym o)
  | 0x163 => some (.cpyx o)
  | 0x164 => some (.cpyw o)
  | 0x165 => some (.cbinit o)
  | 0x166 => some (.cbpush o)
  | 0x167 => some (.cbpop o)
  | 0x168 => some (.cbdone o)
  | 0x169 => some (.cbstat o)
  | 0x16A => some (.qpush o)
  | 0x16B => some (.qpop o)
  | 0x16C => some (.qstat o)
  | 0x180 => some (.mzero o)
  | 0x181 => some (.mldb o)
  | 0x182 => some (.mma o)
  | 0x183 => some (.mmap o)
  | 0x184 => some (.mminplus o)
  | 0x185 => some (.mmaxtimes o)
  | 0x186 => some (.morand o)
  | 0x187 => some (.scacc o)
  | 0x188 => some (.maccld o)
  | 0x189 => some (.maccst o)
  | 0x18A => some (.mpsst o)
  | 0x18B => some (.mready o)
  | 0x18C => some (.mwait o)
  | 0x18D => some (.melect o)
  | 0x1C0 => some (.trap o)
  | 0x1C1 => some (.bkpt o)
  | 0x1C2 => some (.eret o)
  | 0x1C3 => some (.csrr o)
  | 0x1C4 => some (.csrw o)
  | 0x1C5 => some (.csrx o)
  | 0x1C6 => some (.safe o)
  | 0x1C7 => some (.launch o)
  | 0x1C8 => some (.lwait o)
  | 0x1C9 => some (.tlbinv o)
  | 0x1CA => some (.snap o)
  | 0x1CB => some (.enrd o)
  | 0x1CC => some (.wclear o)
  | 0x1CD => some (.halt o)
  | _ => none

/-- The instruction of a compact opcode (R40); none for 0x17 to 0x7F. -/
def ofCompact (code : Nat) (c : C32) : Option Instr :=
  match code with
  | 0x0 => some (.iaddC32 c)
  | 0x1 => some (.isubC32 c)
  | 0x2 => some (.andC32 c)
  | 0x3 => some (.orC32 c)
  | 0x4 => some (.xorC32 c)
  | 0x5 => some (.shlC32 c)
  | 0x6 => some (.shrC32 c)
  | 0x7 => some (.sarC32 c)
  | 0x8 => some (.movC32 c)
  | 0x9 => some (.moviC32 c)
  | 0xA => some (.faddC32 c)
  | 0xB => some (.fmulC32 c)
  | 0xC => some (.fminC32 c)
  | 0xD => some (.fmaxC32 c)
  | 0xE => some (.braC32 c)
  | 0xF => some (.nopC32 c)
  | 0x10 => some (.yieldC32 c)
  | 0x11 => some (.pauseC32 c)
  | 0x12 => some (.waitC32 c)
  | 0x13 => some (.joinC32 c)
  | 0x14 => some (.leaveC32 c)
  | 0x15 => some (.exitC32 c)
  | 0x16 => some (.retC32 c)
  | _ => none

end Sys2Proof
end

