-- ==== Sys2Proof/Machine/Rows.lean ====
section
/-! DEFINITION. The encoding tables of the instruction chapters: for each opcode of R41, its formats, the kind of
each operand field, its types and the mod bits it accepts (R82, R90, R125, R144, R161, R169, R175, R180, R230, R241,
R252, R343). -/

namespace Sys2Proof

/-- The kind of an operand field (R22). -/
inductive Kind where
  /-- unused: the field and its class bit are zero -/
  | none
  /-- a d register only -/
  | d
  /-- a g register only (class bit set) -/
  | g
  /-- a value: a d register, or a g register under the class bit -/
  | v
  | pred | pair | mask | win | href
  /-- a tile between the two numbers of R22 -/
  | tile (lo hi : Nat)
  | bar
  /-- a small number of at most the given value -/
  | small (max : Nat)
  /-- a source type in bits [6:3] (R173) -/
  | srcTy
  /-- the second type in bits [6:3] and a tile in [2:0] (R82) -/
  | prod
  deriving DecidableEq, Repr

/-- What an L96 literal does for an instruction (R36). -/
inductive Lit where
  /-- the entry allows no literal -/
  | no
  /-- it takes the place of srcB, whose field is then zero -/
  | b
  /-- it is a byte offset added to the srcA address; srcB keeps its own operand -/
  | off
  deriving DecidableEq, Repr

/-- One row of an encoding table. -/
structure Row where
  s64 : Bool := true
  lit : Lit := .no
  dst : Kind := .none
  a : Kind := .none
  b : Kind := .none
  c : Kind := .none
  tys : List Ty := [.i8]
  opmods : List Nat := [0]
  ix : Bool := false
  sat : Bool := false
  rnd : Bool := false
  lo : Bool := false
  deriving DecidableEq, Repr

/-- The type groups of R159. -/
def Ty.Z : List Ty := [.i8, .i16, .i32, .i64, .n8, .n16, .n32, .n64]
def Ty.ZB : List Ty := [.i8, .i16, .i32, .i64, .n8, .n16, .n32, .n64, .b64]
def Ty.S : List Ty := [.i8, .i16, .i32, .i64]
def Ty.F : List Ty := [.f64, .f32, .f16, .bf16]
def Ty.Fh : List Ty := [.f32, .f16, .bf16]
def Ty.any : List Ty :=
  [.i8, .i16, .i32, .i64, .n8, .n16, .n32, .n64, .f64, .f32, .f16, .bf16, .k8, .dy8, .e8s, .b64]
/-- The types of AADD, AMIN and their kin (R241). -/
def Ty.atom : List Ty := [.i32, .i64, .n32, .n64, .f32, .f64]
/-- The types of bitwise atomics (R241). -/
def Ty.bitAtom : List Ty := [.n32, .n64, .b64]

/-- The code of a type in the type field (R30). -/
def Ty.code : Ty → Nat
  | .i8 => 0 | .i16 => 1 | .i32 => 2 | .i64 => 3 | .n8 => 4 | .n16 => 5 | .n32 => 6 | .n64 => 7
  | .f64 => 8 | .f32 => 9 | .f16 => 10 | .bf16 => 11 | .k8 => 12 | .dy8 => 13 | .e8s => 14 | .b64 => 15

/-- The type of a code (R30); the code is taken modulo 16. -/
def Ty.ofCode (n : Nat) : Ty :=
  match n % 16 with
  | 0 => .i8 | 1 => .i16 | 2 => .i32 | 3 => .i64 | 4 => .n8 | 5 => .n16 | 6 => .n32 | 7 => .n64
  | 8 => .f64 | 9 => .f32 | 10 => .f16 | 11 => .bf16 | 12 => .k8 | 13 => .dy8 | 14 => .e8s | _ => .b64

/-- The width w of one element of a type, in bits (R30). -/
def Ty.width : Ty → Nat
  | .i8 | .n8 | .k8 | .dy8 | .e8s => 8
  | .i16 | .n16 | .f16 | .bf16 => 16
  | .i32 | .n32 | .f32 => 32
  | .i64 | .n64 | .f64 | .b64 => 64

/-- The number of sub-elements of a type in 64 bits (R30). -/
def Ty.count (t : Ty) : Nat := 64 / t.width

/-- Signed integer types (R160: I types are signed, N and B64 types are natural). -/
def Ty.signed : Ty → Bool
  | .i8 | .i16 | .i32 | .i64 => true
  | _ => false

/-- Integer types, B64 counted as N64 (R159). -/
def Ty.isInt (t : Ty) : Bool := Ty.ZB.contains t

/-- The IEEE types and BF16 (R46). -/
def Ty.isFloat (t : Ty) : Bool := Ty.F.contains t

/-- The code of a rounding mode (R31). -/
def Rnd.code : Rnd → Nat
  | .rne => 0 | .rtz => 1 | .rdn => 2 | .rup => 3

/-- The rounding mode of a code, modulo 4 (R31). -/
def Rnd.ofCode (n : Nat) : Rnd :=
  match n % 4 with
  | 0 => .rne | 1 => .rtz | 2 => .rdn | _ => .rup

/-- A value field of kind v with three-operand arithmetic: dst, a and b values, b may be a literal. -/
def Row.ab (tys : List Ty) : Row := { lit := .b, dst := .v, a := .v, b := .v, tys := tys, ix := true }
/-- dst and a values only. -/
def Row.a1 (tys : List Ty) : Row := { dst := .v, a := .v, tys := tys, ix := true }
/-- A memory operand (R227) with data or destination in dst. -/
def Row.mem (dst : Kind) (lo : Bool) : Row := { lit := .b, dst := dst, a := .v, b := .d, tys := Ty.any, lo := lo }
/-- A scope field (R156, R230). -/
def Row.scopes : List Nat := [0, 1, 2, 3, 4, 5]
/-- An atomic (R241). -/
def Row.atomic (tys : List Ty) : Row :=
  { lit := .b, dst := .d, a := .v, b := .d, c := .v, tys := tys, opmods := Row.scopes }
/-- A copy (R90). -/
def Row.copy (c : Kind) (tys : List Ty) (opmods : List Nat) : Row :=
  { lit := .off, dst := .g, a := .v, b := .v, c := c, tys := tys, opmods := opmods }

/-- The 0x000 block (R161, R164 to R168). -/
def Row.int (op : Nat) (o : Ops) : Option Row :=
  match op with
  | 0x00 | 0x01 | 0x02 => some { Row.ab Ty.Z with lo := true, sat := true }
  | 0x03 => some { Row.ab Ty.Z with lo := true }
  | 0x04 => some { Row.ab Ty.Z with c := .v, lo := true, sat := true }
  | 0x05 => some { Row.ab [.i8, .i16, .i32, .n8, .n16, .n32] with c := .v, sat := true }
  | 0x06 | 0x07 | 0x08 | 0x09 => some { Row.ab Ty.Z with lo := true }
  | 0x0A => some { Row.a1 Ty.S with lo := true, sat := true }
  | 0x0B => some { Row.a1 Ty.Z with lo := true, sat := true }
  | 0x0C => some { Row.ab Ty.Z with c := .v, lo := true }
  | 0x0D | 0x0E => some { Row.ab [.n64] with c := .pred }
  | 0x0F | 0x10 | 0x11 | 0x12 => some { Row.ab Ty.ZB with lo := true }
  | 0x13 => some { Row.a1 Ty.ZB with lo := true }
  | 0x14 | 0x15 | 0x16 | 0x17 | 0x18 => some { Row.ab Ty.ZB with lo := true }
  | 0x19 | 0x1A | 0x1B | 0x1C => some { Row.a1 Ty.ZB with lo := true }
  | 0x1D => some { Row.a1 [.i16, .i32, .i64, .n16, .n32, .n64, .b64] with lo := true }
  | 0x1E => some { Row.ab [.i32, .n32, .i64, .n64, .b64] with lo := true }
  | 0x1F => some { Row.ab [.i32, .n32, .i64, .n64, .b64] with c := .v, lo := true }
  | 0x20 | 0x21 => some { Row.ab Ty.ZB with lo := true }
  | 0x22 => some { Row.ab [.i64, .n64] with c := .small 7 }
  | 0x23 => some { Row.ab Ty.any with c := .pred, lo := true }
  | 0x24 =>
    if o.opmod.toNat = 0 then some { Row.a1 Ty.any with lo := true }
    else some { a := .d, tys := Ty.any, opmods := [1] }
  | 0x25 => some { s64 := false, lit := .b, dst := .v, b := .v, tys := Ty.ZB ++ [.f32, .f64], lo := true }
  | 0x26 => some { lit := .b, dst := .v, a := .small 127, b := .v, tys := [.b64] }
  | 0x27 =>
    if o.opmod.toNat = 0 then some { lit := .b, dst := .v, a := .d, b := .g, tys := [.b64], ix := true }
    else some { dst := .v, a := .d, tys := [.b64], opmods := [1, 2], ix := true }
  | 0x28 => some { dst := .v, a := .small 11 }
  | _ => none

/-- The 0x040 block (R169). -/
def Row.float (op : Nat) : Option Row :=
  match op with
  | 0x40 | 0x41 | 0x42 => some { Row.ab Ty.F with lo := true, rnd := true, sat := true }
  | 0x43 | 0x44 | 0x45 => some { Row.ab Ty.F with c := .v, lo := true, rnd := true, sat := true }
  | 0x46 | 0x47 => some { Row.ab Ty.F with lo := true }
  | 0x48 | 0x49 => some { Row.a1 Ty.F with lo := true }
  | 0x4A => some { Row.ab Ty.F with lo := true }
  | 0x4B => some { Row.ab Ty.F with lo := true, rnd := true, sat := true }
  | 0x4C => some { Row.a1 Ty.F with lo := true, rnd := true, sat := true }
  | 0x4D | 0x4E => some { Row.a1 Ty.F with lo := true, sat := true }
  | 0x4F | 0x50 | 0x51 | 0x52 | 0x53 => some { Row.a1 Ty.Fh with lo := true }
  | 0x54 => some { Row.a1 Ty.F with lo := true, rnd := true }
  | 0x55 =>
    some { Row.a1 (Ty.F ++ [.k8]) with c := .srcTy, lo := true, rnd := true, sat := true, opmods := [0, 1, 2, 3] }
  | 0x56 => some { Row.a1 Ty.Z with c := .srcTy, lo := true, rnd := true, opmods := [0, 1, 2, 3] }
  | 0x57 => some { Row.a1 Ty.F with c := .srcTy, lo := true, rnd := true, sat := true, opmods := [0, 1, 2, 3] }
  | 0x58 => some { Row.ab Ty.F with lo := true, rnd := true, sat := true }
  | 0x59 | 0x5A => some { Row.a1 Ty.F with lo := true }
  | _ => none

/-- The types of VDOT (R175). -/
def Ty.dot : List Ty := [.i8, .n8, .i16, .n16, .i32, .n32, .f32, .f16, .bf16, .k8]
/-- The types of VPACK, VUNPK and VAVG (R175). -/
def Ty.narrow : List Ty := [.i8, .n8, .i16, .n16, .i32, .n32]

/-- The 0x080 block (R175). -/
def Row.packed (op : Nat) (o : Ops) : Option Row :=
  match op with
  | 0x80 => some { Row.ab Ty.dot with rnd := !o.ty.isInt }
  | 0x81 => some { Row.ab Ty.dot with c := .v, rnd := !o.ty.isInt, sat := true }
  | 0x82 => some { Row.ab Ty.narrow with sat := true }
  | 0x83 => some { Row.a1 Ty.narrow with opmods := [0, 1] }
  | 0x84 => some { Row.ab [.b64] with c := .v }
  | 0x85 => some { Row.ab [.i8, .n8, .i16, .n16] with c := .v }
  | 0x86 => some { Row.ab Ty.narrow with lo := true, opmods := [0, 1] }
  | 0x87 | 0x88 => some { Row.a1 (Ty.Z ++ Ty.F) with b := .small (o.ty.count - 1) }
  | _ => none

/-- The 0x0A0 block (R180, R188). -/
def Row.cross (op : Nat) (o : Ops) : Option Row :=
  match op with
  | 0xA0 => some { Row.ab Ty.any with lo := true, opmods := [0, 1, 2, 3] }
  | 0xA1 => some { Row.ab Ty.any with opmods := [0, 1] }
  | 0xA2 =>
    some { Row.a1 (Ty.Z ++ Ty.F) with lo := true, rnd := o.ty.isFloat, sat := o.ty.isInt, opmods := [0, 1, 2] }
  | 0xA3 =>
    some { Row.a1 (Ty.Z ++ Ty.F) with lo := true, rnd := o.ty.isFloat, sat := o.ty.isInt, opmods := [0, 1, 2, 4, 5, 6] }
  | 0xA4 => some { dst := .v, a := .pred, opmods := [0, 1] }
  | 0xA5 => some { dst := .pair, a := .pred, opmods := [0, 1, 2] }
  | 0xA6 => some (Row.a1 [.b64])
  | 0xA7 => some { Row.ab Ty.ZB with dst := .pair, c := .small 5, opmods := [0, 1, 2, 3, 4, 5, 6, 7] }
  | 0xA8 => some { Row.ab Ty.F with dst := .pair, c := .small 7, opmods := [0, 1, 2, 3, 4, 5, 6, 7] }
  | 0xA9 | 0xAA | 0xAB => some { dst := .pred, a := .pred, b := .pred, opmods := [0, 1, 2, 3] }
  | 0xAC => some { dst := .pred, a := .pred }
  | 0xAD =>
    match o.opmod.toNat with
    | 0 => some { dst := .pred, a := .pred }
    | 1 => some { dst := .v, opmods := [1] }
    | _ => some { a := .v, opmods := [2], ix := true }
  | _ => none

/-- The 0x0C0 block (R125, R136). -/
def Row.control (op : Nat) (o : Ops) : Option Row :=
  match op with
  | 0xC0 | 0xC2 => some { s64 := false, lit := .b }
  | 0xC1 | 0xC3 | 0xC4 => some { a := .v }
  | 0xC5 | 0xCE | 0xCF | 0xD1 => some {}
  | 0xC6 => if o.lit.isSome then some { s64 := false, lit := .b } else some { a := .v }
  | 0xC7 | 0xC8 => some { dst := .mask }
  | 0xC9 => if o.opmod.toNat = 0 then some { dst := .mask } else some { dst := .mask, a := .d, opmods := [1] }
  | 0xCA => some { lit := .b, dst := .mask, b := .v }
  | 0xCB => some { dst := .v, a := .mask }
  | 0xCC =>
    if o.opmod.toNat < 4 then some { dst := .mask, a := .mask, b := .mask, opmods := [0, 1, 2, 3] }
    else some { dst := .mask, a := .mask, opmods := [4, 5, 6] }
  | 0xCD => some { lit := .b, dst := .pred, a := .v, b := .v }
  | 0xD0 => if o.lit.isSome then some { s64 := false, lit := .b } else some { a := .small 127 }
  | _ => none

/-- The 0x0E0 block (R144, R155, R156). -/
def Row.sync (op : Nat) : Option Row :=
  match op with
  | 0xE0 | 0xE3 => some { lit := .b, dst := .bar, b := .v }
  | 0xE1 => some { dst := .v, a := .bar }
  | 0xE2 => some { dst := .bar }
  | 0xE4 => some { lit := .b, dst := .pair, a := .bar, b := .v }
  | 0xE5 => some { lit := .b, b := .g, opmods := [0, 1] }
  | 0xE6 => some { lit := .b, a := .small 16, b := .g, c := .small 16 }
  | 0xE7 => some { a := .small 7, opmods := Row.scopes }
  | 0xE8 => some { lit := .b, b := .g }
  | _ => none

/-- The 0x100 block (R230). -/
def Row.memory (op : Nat) (o : Ops) : Option Row :=
  match op with
  | 0x100 | 0x104 | 0x106 | 0x108 | 0x109 => some (Row.mem .v true)
  | 0x101 | 0x105 | 0x107 => some (Row.mem .v false)
  | 0x102 | 0x103 => some { Row.mem .v false with c := .small 1, opmods := Row.scopes }
  | 0x10A => some { Row.mem .none false with tys := [.i8], opmods := [0, 1, 2] }
  | 0x10B | 0x10C => some { Row.mem .none false with tys := [.i8] }
  | 0x10D =>
    if o.c.toNat = 1 then some { c := .small 1, opmods := Row.scopes }
    else some { Row.mem .none false with tys := [.i8], opmods := Row.scopes }
  | 0x10E | 0x10F =>
    if o.opmod.toNat = 1 then some { lit := .b, dst := .href, a := .href, b := .d, opmods := [1] }
    else some { lit := .b, dst := .href, a := .v, b := .d }
  | 0x110 => some { Row.mem .d true with a := .href }
  | 0x111 => some { Row.mem .d false with a := .href }
  | 0x112 | 0x113 => some { dst := .href }
  | 0x114 => some { dst := .d, a := .href }
  | 0x115 => some { dst := .pair, a := .href, b := .href }
  | _ => none

/-- The 0x140 block (R241). -/
def Row.atomics (op : Nat) : Option Row :=
  match op with
  | 0x140 | 0x144 | 0x145 => some (Row.atomic Ty.atom)
  | 0x141 | 0x142 | 0x143 | 0x146 => some (Row.atomic Ty.bitAtom)
  | 0x147 => some { Row.atomic Ty.bitAtom with lit := .no, b := .v }
  | 0x148 | 0x149 | 0x14A => some { Row.atomic Ty.atom with dst := .none, opmods := [0] }
  | 0x14B => some { a := .v, b := .v, c := .v, tys := [.f32, .f64] }
  | 0x14C => some { dst := .g, a := .v, b := .v, c := .g, tys := Ty.atom, opmods := [0, 1, 2] }
  | 0x14D =>
    some { lit := .b, dst := .v, a := .v, b := .g, tys := Ty.Z ++ Ty.F, lo := true, opmods := [0, 1, 2] }
  | _ => none

/-- The 0x160 block (R90, R252). -/
def Row.copies (op : Nat) : Option Row :=
  match op with
  | 0x160 => some (Row.copy .v [.i8] [0, 1, 2, 3])
  | 0x161 => some (Row.copy .g [.i8] [0, 1, 2, 3])
  | 0x162 => some (Row.copy .v Ty.any [0, 1, 2, 3, 4, 5, 6, 7])
  | 0x163 => some (Row.copy .g [.i8] [0, 1])
  | 0x164 => some (Row.copy .v [.i8] [0, 1])
  | 0x165 | 0x166 => some { dst := .small 15, a := .v, b := .v }
  | 0x167 => some { dst := .d, a := .small 15 }
  | 0x168 => some { dst := .small 15, a := .v }
  | 0x169 => some { dst := .v, a := .small 15, opmods := [0, 1, 2, 3, 4] }
  | 0x16A => some { dst := .win, a := .v }
  | 0x16B => some { dst := .d, a := .win, b := .pred }
  | 0x16C => some { dst := .d, a := .win }
  | _ => none

/-- The 0x180 block (R82, R84). -/
def Row.matrix (op : Nat) : Option Row :=
  match op with
  | 0x180 => some { dst := .tile 0 7 }
  | 0x181 =>
    some { lit := .off, dst := .g, a := .v, b := .v,
           tys := [.i8, .n8, .k8, .dy8, .f16, .bf16, .f32, .n32, .f64], opmods := [0, 1, 4, 5] }
  | 0x182 | 0x183 =>
    some { lit := .off, dst := .g, a := .v, b := .v, c := .prod,
           tys := [.i8, .n8, .k8, .f16, .bf16, .f32, .f64], rnd := true, sat := true }
  | 0x184 | 0x185 =>
    some { lit := .off, dst := .g, a := .v, b := .v, c := .prod, tys := [.f32], rnd := true, opmods := [0, 1] }
  | 0x186 => some { lit := .off, dst := .g, a := .v, b := .v, c := .prod, tys := [.n32], opmods := [0, 1] }
  | 0x187 =>
    some { lit := .off, dst := .tile 0 3, a := .v, b := .v, c := .v, tys := [.f32], rnd := true, sat := true,
           opmods := [0, 1, 2, 3] }
  | 0x188 | 0x189 =>
    some { lit := .off, dst := .g, a := .v, b := .v, c := .tile 0 3, tys := [.f32, .i32, .n32, .f64], opmods := [0, 1] }
  | 0x18A => some { lit := .off, dst := .g, a := .v, b := .v, c := .tile 4 7, tys := [.f32], opmods := [0, 1] }
  | 0x18B => some {}
  | 0x18C => some { a := .g }
  | 0x18D => some { dst := .g, a := .pred }
  | _ => none

/-- The 0x1C0 block (R343). Small numbers outside a row's limits are checked later, at step 9 of R44. -/
def Row.system (op : Nat) : Option Row :=
  match op with
  | 0x1C0 => some { lit := .b }
  | 0x1C1 | 0x1C2 | 0x1CA | 0x1CD => some {}
  | 0x1C3 => some { dst := .v, a := .small 127 }
  | 0x1C4 => some { lit := .b, a := .small 127, b := .v }
  | 0x1C5 => some { lit := .b, dst := .v, a := .small 127, b := .v, opmods := [0, 1, 2, 3] }
  | 0x1C6 => some { s64 := false, lit := .b, dst := .small 127, a := .small 127, c := .small 127 }
  | 0x1C7 => some { dst := .d, a := .v }
  | 0x1C8 => some { dst := .v, a := .v, opmods := [0, 1] }
  | 0x1C9 => some { a := .v, b := .v, opmods := [0, 1, 2, 3] }
  | 0x1CB => some { dst := .v, a := .small 127 }
  | 0x1CC => some { lit := .b, b := .v }
  | _ => none

/-- The row of an opcode in the form that the instruction's own fields select (some entries have several forms).
none: the opcode is unassigned (R42). -/
def rowOf (op : Nat) (o : Ops) : Option Row :=
  if op < 0x40 then Row.int op o
  else if op < 0x80 then Row.float op
  else if op < 0xA0 then Row.packed op o
  else if op < 0xC0 then Row.cross op o
  else if op < 0xE0 then Row.control op o
  else if op < 0x100 then Row.sync op
  else if op < 0x140 then Row.memory op o
  else if op < 0x160 then Row.atomics op
  else if op < 0x180 then Row.copies op
  else if op < 0x1C0 then Row.matrix op
  else Row.system op

/-- A field value is legal for its kind, with its class bit (R22). -/
def Kind.ok (k : Kind) (f : Nat) (cls : Bool) : Bool :=
  match k with
  | .none => f == 0 && !cls
  | .d => !cls
  | .g => cls
  | .v => true
  | .pred => f < 8 && !cls
  | .pair => f < 64 && !cls
  | .mask => f < 12 && !cls
  | .win => f < 8 && !cls
  | .href => f < 16 && !cls
  | .tile lo hi => lo ≤ f && f ≤ hi && !cls
  | .bar => f < 32 && !cls
  | .small max => f ≤ max && !cls
  | .srcTy => f % 8 == 0 && !cls
  | .prod => !cls

/-- The source type of a conversion, and the second type of a product: srcC [6:3] (R82, R173). -/
def Ops.ty2 (o : Ops) : Ty := Ty.ofCode (o.c.toNat / 8)

/-- The part h of a conversion, and every other selector in op_mod [62:61]. -/
def Ops.sel2 (o : Ops) : Nat := o.opmod.toNat % 4

/-- The allowed pairs of R173, and a part that the source has. -/
def convOk (op : Nat) (o : Ops) : Bool :=
  let src := o.ty2
  let pair :=
    match op with
    | 0x55 => (Ty.F ++ [Ty.k8, Ty.dy8, Ty.e8s]).contains src
    | 0x56 => (Ty.F ++ [Ty.k8]).contains src
    | _ => Ty.Z.contains src
  pair && o.sel2 * min src.count o.ty.count < src.count

/-- The type pair and tile of a matrix product (R85). -/
def prodOk (o : Ops) : Bool :=
  let tile := o.c.toNat % 8
  match o.ty with
  | .i8 | .n8 => (o.ty2 == .i8 || o.ty2 == .n8) && tile ≤ 4
  | .k8 => (o.ty2 == .k8 || o.ty2 == .dy8) && tile ≤ 4
  | .f16 | .bf16 | .f32 => o.ty2 == o.ty && tile ≤ 3
  | .f64 => o.ty2 == .f64 && (tile == 0 || tile == 2)
  | _ => false

/-- The checks of an entry that no single column states: type pairs, product tiles, F64 tile pairs (R85, R86, R88),
literal limits (R142, R345, R350), fence kinds (R156). -/
def extraOk (op : Nat) (o : Ops) : Bool :=
  match op with
  | 0x55 | 0x56 | 0x57 => convOk op o
  | 0x182 | 0x183 => prodOk o
  | 0x184 | 0x185 | 0x186 => o.ty2 == o.ty && o.c.toNat % 8 ≤ 3
  | 0x188 | 0x189 => o.ty != .f64 || o.c.toNat % 2 == 0
  | 0xD0 => match o.lit with | some l => l.toNat < 65536 | none => true
  | 0xE7 => o.a.toNat % 4 != 3
  | 0x1C0 => match o.lit with | some l => l.toNat < 65536 | none => true
  | 0x1C6 => match o.lit with | some l => l.toNat < 2 ^ 24 | none => true
  | _ => true

/-- The fields of an instruction fit a row: formats, kinds, types and mod bits (R22, R30, R31, R36). -/
def Row.ok (r : Row) (o : Ops) : Bool :=
  (match o.lit with
   | none => r.s64 && r.b.ok o.b.toNat o.clsB
   | some _ => match r.lit with
     | .no => false
     | .b => o.b.toNat == 0 && !o.clsB
     | .off => r.b.ok o.b.toNat o.clsB)
  && r.dst.ok o.dst.toNat o.clsD && r.a.ok o.a.toNat o.clsA && r.c.ok o.c.toNat o.clsC
  && r.tys.contains o.ty && r.opmods.contains o.opmod.toNat
  && (r.ix || !o.ix) && (!o.ix || !o.clsA) && (r.sat || !o.sat) && (r.rnd || o.rnd == .rne) && (r.lo || !o.lo)

/-- An opcode and its fields are an instruction (R22, R30 to R42); otherwise they raise ILLEGAL_INSN. -/
def opsOk (op : Nat) (o : Ops) : Bool :=
  match rowOf op o with
  | none => false
  | some r => r.ok o && extraOk op o

/-- The compact rows (R40): the ctype the row allows, the fields it requires to be zero, mask numbers 0 to 11. -/
def compactOk (cop : Nat) (c : C32) : Bool :=
  let ct := c.ctype.toNat
  match cop with
  | 0x00 | 0x01 | 0x02 | 0x03 | 0x04 | 0x05 | 0x06 | 0x07 | 0x09 => ct < 2
  | 0x08 | 0x0E => ct == 0
  | 0x0A | 0x0B | 0x0C | 0x0D => 2 ≤ ct
  | 0x0F | 0x10 | 0x15 | 0x16 => ct == 0 && c.b.toNat == 0 && c.dst.toNat == 0
  | 0x11 => ct == 0 && c.dst.toNat == 0
  | 0x12 | 0x13 | 0x14 => ct == 0 && c.b.toNat == 0 && c.dst.toNat < 12
  | _ => false

/-- A lane number names one of the 32 lanes of a gang, a gang key one of the resident slots (R1). -/
def laneOk (gang lane : Nat) : Bool := gang < Config.slots && lane < 32

/-- What the debugger works on: a lane of a gang, or, by 12,288 and its number, the thread that runs on a host core (R1). -/
def debugOk (gang lane : Nat) : Bool := gang < Config.slots + Config.hosts && lane < 32

/-- The units that a step of the device names exist (R1: 4 dies, 192 cores, 1,536 partitions, 64 host cores, two ports;
R379: 16 measurement slots; R373: worlds 1 to 64). -/
def eventOk : Instr → Bool
  | .instructionFetch g l | .stallExpiry g l | .pauseExpiry g l | .synchronisationMarginReached g l
  | .oplogFree g l => laneOk g l
  | .singleStep g l | .debuggerStop g l | .debuggerResume g l | .debuggerStateWrite g l _ _ => debugOk g l
  | .regrouping p | .matrixRetire (p, _) | .instructionSample p | .sampleRecordWrite p | .clearingDone p => p < Config.partitions
  | .machineCheck code p _ _ _ => [1, 2, 3, 4, 5].contains code && p < Config.partitions
  | .preemptWatchdog g | .saveComplete g | .ctxSequencerSave g | .gangEnd g => g < Config.slots
  | .restoreStart _ k | .crossingArrival _ k => k < Config.slots
  | .blockAdmission d ks => d < Config.dies && ks.all (· < Config.slots)
  | .energyWindowReset d | .energyPlannerTick d _ _ | .weightRefreshStart d | .weightRefreshEnd d | .funcmodeWrite d _
  | .overflowRefill _ d => d < Config.dies
  | .hostRead h _ | .hostWritePermission h _ _ | .hostEviction h _ | .hostJalrCrossing h _ _ _ _ _ | .regCmd h _ _
  | .hostLaunch h _ => h < Config.hosts
  | .hostAmo h _ n _ _ => h < Config.hosts && (n == 4 || n == 8)
  | .getTdispVersion p _ | .getTdispCapabilities p _ | .lockInterfaceRequest p _ _ _ | .getDeviceInterfaceReport p _ _ _
  | .getDeviceInterfaceState p _ | .startInterfaceRequest p _ _ | .stopInterfaceRequest p _ | .unsupportedTdispRequest p _ _
  | .tdispAnswer p | .tdispEventPost p => p < Config.ports
  | .tdiLock p t | .tdiStart p t | .tdiStop p t | .frozenItemWrite p t _ _ _ => p < Config.ports && t < Config.tdis
  | .worldExport w _ | .handoverConfirm w _ | .handoverTimeout w | .handoverRetry w _ | .allowListChange w _ =>
    1 ≤ w && w ≤ Config.worlds
  | .l2wmapWrite s w _ => s < Config.clusters && w < 16
  | _ => true

end Sys2Proof
end

