-- ==== Sys2Proof/WellFormed.lean ====
section
/-! DEFINITION. Which terms of the syntax are instructions of the device: the encoding rows for S64 and L96, the compact
rows for C32, and for the device's other steps that the units they name exist (R1). The checks stand in Machine/Rows.lean. -/

namespace Sys2Proof

/-- A well-formed term of the syntax. -/
def Instr.wf (i : Instr) : Bool :=
  match i.parts with
  | .op code o =>
    opsOk code o && (match i with | .mov _ => o.opmod.toNat == 0 | .movIx _ => o.opmod.toNat == 1 | _ => true)
  | .compact cop c => compactOk cop c
  | .event => eventOk i

end Sys2Proof
end

