-- ==== Sys2Proof/Decode.lean ====
section
/-! DEFINITION. From bytes to instructions and back (R17 to R22, R36 to R43). Decoding is total on any bytes and refuses
by name. The encoder is written from the same tables. -/

namespace Sys2Proof

/-- Why bytes are no instruction: the causes of steps 2 to 4 of R44, and too few bytes given. -/
inductive DecodeError where
  /-- bits [1:0] of the first parcel are 0b11 (R17) -/
  | illegalLength
  /-- the instruction would extend past the end of its fetch block (R19) -/
  | fetchBoundary
  /-- an unassigned opcode, a must-be-zero field, a kind, type, modifier or form that the entry does not allow (R42, R44) -/
  | illegalInsn
  /-- fewer bytes were given than the first parcel announces: no case of the device, whose fetch reads whole blocks -/
  | truncated
  deriving DecidableEq, Repr

/-- The bits [hi:lo] of a number (R4). -/
def slice (w hi lo : Nat) : Nat := w / 2 ^ lo % 2 ^ (hi + 1 - lo)

/-- The number that bytes hold, lowest address first (R4, R17). -/
def leNat : List Byte → Nat
  | [] => 0
  | b :: bs => b.toNat + 256 * leNat bs

/-- n bytes of a number, lowest first (R4). -/
def leBytes : Nat → Nat → List Byte
  | 0, _ => []
  | n + 1, w => BitVec.ofNat 8 w :: leBytes n (w / 256)

/-- The guard field, bits [5:2] of the first parcel (R11). -/
def decodeGuard (w : Nat) : Guard := ⟨slice w 5 5 == 1, BitVec.ofNat 3 (slice w 4 2)⟩

/-- The fields of the S64 format (R21, R31), with the literal of L96 (R36). -/
def decodeOps (w : Nat) (lit : Option (BitVec 32)) : Ops where
  guard := decodeGuard w
  stall := BitVec.ofNat 4 (slice w 9 6)
  yld := slice w 10 10 == 1
  dst := BitVec.ofNat 7 (slice w 26 20)
  a := BitVec.ofNat 7 (slice w 33 27)
  b := BitVec.ofNat 7 (slice w 40 34)
  c := BitVec.ofNat 7 (slice w 47 41)
  clsD := slice w 48 48 == 1
  clsA := slice w 49 49 == 1
  clsB := slice w 50 50 == 1
  clsC := slice w 51 51 == 1
  ty := Ty.ofCode (slice w 55 52)
  lo := slice w 56 56 == 1
  rnd := Rnd.ofCode (slice w 58 57)
  sat := slice w 59 59 == 1
  ix := slice w 60 60 == 1
  opmod := BitVec.ofNat 3 (slice w 63 61)
  lit := lit

/-- The fields of the C32 format (R38). -/
def decodeC32 (w : Nat) : C32 where
  ctype := BitVec.ofNat 2 (slice w 31 30)
  b := BitVec.ofNat 7 (slice w 29 23)
  dst := BitVec.ofNat 7 (slice w 22 16)
  stall := BitVec.ofNat 3 (slice w 8 6)
  guard := decodeGuard w

/-- The length in bytes that bits [1:0] of the first parcel announce (R17). -/
def lengthOf (w : Nat) : Option Nat :=
  match w % 4 with
  | 0 => some 4
  | 1 => some 8
  | 2 => some 12
  | _ => none

/-- An instruction is accepted when it is well-formed; everything else is ILLEGAL_INSN (R42, R44). -/
def accept (i : Option Instr) (n : Nat) : Except DecodeError (Instr × Nat) :=
  match i with
  | some i => if i.wf then .ok (i, n) else .error .illegalInsn
  | none => .error .illegalInsn

/-- Decode the instruction at a byte offset of its fetch block from the bytes that begin there: the instruction and its
length, or the first cause of steps 2 to 4 of R44. -/
def decodeAt (offset : Nat) (bytes : List Byte) : Except DecodeError (Instr × Nat) :=
  if bytes.length < 4 then .error .truncated
  else
    let p := leNat (bytes.take 4)
    match lengthOf p with
    | none => .error .illegalLength
    | some n =>
      if 32 < offset % 32 + n then .error .fetchBoundary
      else if bytes.length < n then .error .truncated
      else if n = 4 then accept (ofCompact (slice p 15 9) (decodeC32 p)) 4
      else
        let w := leNat (bytes.take 8)
        let lit := if n = 12 then some (BitVec.ofNat 32 (leNat ((bytes.drop 8).take 4))) else none
        accept (ofOpcode (slice w 19 11) (decodeOps w lit)) n

/-- Decode bytes that begin a fetch block. -/
def decode (bytes : List Byte) : Except DecodeError (Instr × Nat) := decodeAt 0 bytes

/-- The guard field (R11). -/
def encodeGuard (g : Guard) : Nat := bit g.neg * 2 ^ 5 + g.p.toNat * 2 ^ 2

/-- The 64 bits of the S64 format, each field at its place (R21), for either length (R36). -/
def encodeOps (code : Nat) (o : Ops) : Nat :=
  (if o.lit.isSome then 2 else 1) + encodeGuard o.guard + o.stall.toNat * 2 ^ 6 + bit o.yld * 2 ^ 10 + code * 2 ^ 11
  + o.dst.toNat * 2 ^ 20 + o.a.toNat * 2 ^ 27 + o.b.toNat * 2 ^ 34 + o.c.toNat * 2 ^ 41
  + bit o.clsD * 2 ^ 48 + bit o.clsA * 2 ^ 49 + bit o.clsB * 2 ^ 50 + bit o.clsC * 2 ^ 51 + o.ty.code * 2 ^ 52
  + bit o.lo * 2 ^ 56 + o.rnd.code * 2 ^ 57 + bit o.sat * 2 ^ 59 + bit o.ix * 2 ^ 60 + o.opmod.toNat * 2 ^ 61

/-- The 32 bits of the C32 format (R38). -/
def encodeCompact (cop : Nat) (c : C32) : Nat :=
  encodeGuard c.guard + c.stall.toNat * 2 ^ 6 + cop * 2 ^ 9 + c.dst.toNat * 2 ^ 16 + c.b.toNat * 2 ^ 23
  + c.ctype.toNat * 2 ^ 30

/-- The bytes of an instruction at ascending addresses; none for a step that no instruction word encodes. -/
def encode (i : Instr) : List Byte :=
  match i.parts with
  | .op code o =>
    leBytes 8 (encodeOps code o) ++ (match o.lit with | some l => leBytes 4 l.toNat | none => [])
  | .compact cop c => leBytes 4 (encodeCompact cop c)
  | .event => []

/-- The bytes of a table word: bit 0 is the least significant bit of the first parcel, later parcels count on, and every
bit above nbits is zero, up to the longest instruction of 12 bytes. -/
def tableBytes (nbits w : Nat) : List Byte := leBytes 12 (w % 2 ^ nbits)

/-- The instruction that the decoder reads from a word numbered as the opcode table numbers it. -/
def decodeTableWord (nbits w : Nat) : Option Instr :=
  match decode (tableBytes nbits w) with
  | .ok (i, _) => some i
  | .error _ => none

end Sys2Proof
end

