-- ==== Sys2Proof/Machine/SMap.lean ====
section
/-! DEFINITION. Reading and writing a sparse table (SMap) in its one canonical form: keys strictly rising, no
entry equal to the default. Memory, register files, scratch and tiles are all held this way, so that equal
contents are equal data. -/

namespace Sys2Proof.Machine

/-- The value at key k; a key that is not listed reads as the default. -/
def SMap.get {α : Type} (dflt : α) : SMap α → Nat → α
  | [], _ => dflt
  | (j, v) :: m, k => if k = j then v else if k < j then dflt else SMap.get dflt m k

/-- Put an entry in front of a tail unless its value is the default, which is never listed. -/
def SMap.cons {α : Type} [DecidableEq α] (dflt : α) (k : Nat) (v : α) (m : SMap α) : SMap α :=
  if v = dflt then m else (k, v) :: m

/-- Write v at key k, keeping the canonical form: writing the default removes the entry. -/
def SMap.set {α : Type} [DecidableEq α] (dflt : α) : SMap α → Nat → α → SMap α
  | [], k, v => SMap.cons dflt k v []
  | (j, w) :: m, k, v =>
    if k = j then SMap.cons dflt k v m
    else if k < j then SMap.cons dflt k v ((j, w) :: m)
    else (j, w) :: SMap.set dflt m k v

/-- Remove every key of [lo, lo + n): those keys read as the default again. -/
def SMap.clearRange {α : Type} (m : SMap α) (lo n : Nat) : SMap α :=
  m.filter fun e => e.1 < lo || lo + n ≤ e.1

/-- Change every value of a table. -/
def SMap.mapv {α : Type} [DecidableEq α] (dflt : α) (f : α → α) (m : SMap α) : SMap α :=
  (m.map fun e => (e.1, f e.2)).filter fun e => e.2 ≠ dflt

/-- The canonical form: every key above the bound, keys strictly rising, no entry equal to the default. -/
def SMap.wfFrom {α : Type} [DecidableEq α] (dflt : α) : Nat → SMap α → Bool
  | _, [] => true
  | b, (k, v) :: m => b ≤ k && (v != dflt) && SMap.wfFrom dflt (k + 1) m

/-- The canonical form of a whole table. -/
def SMap.wf {α : Type} [DecidableEq α] (dflt : α) (m : SMap α) : Bool := SMap.wfFrom dflt 0 m

/-- Write a list of values at consecutive keys from k. -/
def SMap.setList {α : Type} [DecidableEq α] (dflt : α) : SMap α → Nat → List α → SMap α
  | m, _, [] => m
  | m, k, v :: vs => SMap.setList dflt (SMap.set dflt m k v) (k + 1) vs

/-- The values at n consecutive keys from k. -/
def SMap.getList {α : Type} (dflt : α) (m : SMap α) : Nat → Nat → List α
  | _, 0 => []
  | k, n + 1 => SMap.get dflt m k :: SMap.getList dflt m (k + 1) n

end Sys2Proof.Machine
end

