-- ==== Sys2Proof/Machine/State.lean ====
section
/-! DEFINITION. The state of the package as plain data: every piece of state the manual names, and the pending work of
each agent. Units that a program has not yet used are simply not listed: the lists of gangs, allocations, launches and
pending work are empty at reset. -/

namespace Sys2Proof.Machine

/-- The machine stops with a fault. The manual gives the device no such stop: every error it describes is a trap, a record, a
poisoned value or an error response, and each of those is a next state. -/
inductive Fault where
  /-- Raised by step alone, when the agenda names a step of a unit that the package does not have (a die above 3, a lane above
  31): no such step can happen. Safe: the machine goes no further. -/
  | noSuchUnit
  deriving DecidableEq, Repr

/-- No meaning for the instruction. -/
inductive Refusal where
  /-- Raised by an arm of exec whose instruction has no meaning yet. Safe. -/
  | notModelled (mnemonic : String)
  deriving DecidableEq, Repr

/-- The trap causes of R359. -/
inductive Cause where
  | illegalInsn | illegalLength | fetchBoundary | stallUndersized | regIndexBounds | nonuniformOperand | maskDisagree
  | scratchBounds | uninitRead | misaligned | pfNotPresent | pfRead | pfWrite | pfExec | pfAtomic | pfPriv
  | pfWriteInTransit | transitTarget | heapBounds | heapStaleRef | pinLimit | queueQuota | cbuOverflow | weightStoreWrite
  | poison | breakpoint | singleStep | watchpoint | preempt | trapInsn | machineCheck
  deriving DecidableEq, Repr

/-- The privilege of a thread (R268, R344): user, or privileged in a trap handler, a save routine or a restore routine. -/
inductive Mode where
  | user | handler | save | restore
  deriving DecidableEq, Repr

/-- Why a thread is stopped (R103): a trap with no handler, the debugger, a safe point reached under a pre-emption request
(R308), a machine check (R337). -/
inductive StopBy where
  | trap | debugger | safePoint | machineCheck
  deriving DecidableEq, Repr

/-- The condition of a thread (R103). A held thread names its mask register. -/
inductive Cond where
  | runnable | held (k : Nat) | stopped (why : StopBy) | exited
  deriving DecidableEq, Repr

/-- What a runnable thread waits for inside an instruction that has begun (R150). -/
inductive Wait where
  | no
  /-- BARW at a barrier (R148) -/
  | bar (n : Nat)
  /-- GBAR at a group (R153) -/
  | group (grp : Nat)
  /-- GBARP at a group with its carry set in registers (R155) -/
  | phase (grp cd cg : Nat)
  /-- GWAIT at a group (R153) -/
  | gwait (grp : Nat)
  /-- lane 0 in NARROW (R139) -/
  | narrow
  /-- CBPOP into a d register, begun at a clock (R255, R256) -/
  | cbpop (ctx dst since : Nat)
  /-- GREDW into a d or g register (R249) -/
  | gredw (grp dst : Nat) (g lo : Bool)
  /-- HALT in a save routine (R309) -/
  | halt
  /-- WCLEAR of the partitions of a mask (R356) -/
  | clear (mask : Nat)
  /-- a transfer to the other kind of core, to be issued again once R140, R271 and R297 allow it -/
  | cross
  /-- TLBINV: its discards have been made, at a clock (R353) -/
  | shoot (since : Nat)
  /-- an instruction whose fault is with fault service, to be issued again after a retry (R127) -/
  | logged
  /-- a stopped thread that was held at a WAIT on a mask register, and is held again on return (R124) -/
  | mask (k : Nat)
  deriving DecidableEq, Repr

/-- A register that a result is on its way to, or that an instruction reads or writes; frame n is the word of the thread's trap frame that holds
dn, for a result still on its way when the thread entered its handler (R26, R333). -/
inductive Dest where
  | d (n : Nat) | g (n : Nat) | h (n : Nat) | p (n : Nat) | frame (n : Nat) | none
  deriving DecidableEq, Repr

/-- A fixed-latency result that the checking scoreboard tracks (R28). -/
structure Tracked where
  reg : Dest
  ready : Nat
  producer : Word
  /-- the register's value from before the producer (R26) -/
  old : Word
  deriving DecidableEq, Repr

/-- The state of one thread (R100) with its trap registers (R348), its timers and its pending results. -/
structure Thread where
  pc : Word
  meet : Word
  hzn : Word
  ix : BitVec 7
  d : SMap Word
  dValid : BitVec 128
  p : BitVec 7
  windows : SMap (List Word)
  h : SMap Word
  fflags : BitVec 5
  dyReserved : Bool
  cond : Cond
  mode : Mode
  wait : Wait
  /-- the length in bytes of the instruction in which it waits (the model's own field) -/
  waitLen : Nat
  /-- the logical name (R8): launch, block and thread index -/
  launch : Nat
  block : Nat
  tid : Nat
  trapCause : BitVec 8
  trapPc : Word
  trapAddr : Word
  trapMask : Mask
  trapInfo : Word
  oplogValid : Bool
  oplogEntry : BitVec 4
  /-- where ERET resumes: the resume word and whether a frame was stored (R333, R335) -/
  frame : Word
  /-- earliest clock of the next issue (R26) -/
  readyAt : Nat
  /-- end of the thread's lowering by PAUSE (R142) -/
  pauseUntil : Nat
  /-- the clock up to which what its core's threads stored happens before it, and the latest write completion time among what they had performed then
  (R196, R201; the model's own fields) -/
  synced : Nat
  seen : Nat
  /-- clock of the last issue, and slots that had then been granted to the gang, for the issue choice (R331) -/
  lastIssue : Nat
  lastSlot : Nat
  /-- a YIELD or yld gives up the next slot (R141) -/
  yields : Bool
  /-- the bundle: its lowest lane; none until the next regrouping (R104, R105) -/
  bundle : Option Nat
  /-- d and h registers whose results are pending on the scoreboard -/
  pending : List Dest
  tracked : List Tracked
  /-- return slots in use (R243) -/
  slots : Nat
  /-- groups at which the thread's recorded arrival stands, with the round (R153) -/
  arrivals : SMap Nat
  /-- the live mask of the SAFE at which the thread is stopped (R308, R350) -/
  safeInfo : Word
  /-- ERET or the debugger resumed it at a watched access: skip the check once (R361) -/
  skipWatch : Bool
  /-- its last trap was a watchpoint's, from which it has not resumed yet (R361) -/
  hit : Bool
  /-- frm of the record it arrived with (R298) -/
  frm : BitVec 3
  /-- the debugger is stepping the thread (R124): 1 before the stepped instruction issues, 2 after -/
  stepping : Nat
  deriving DecidableEq, Repr

/-- A group-wide error of SCACC that MREADY reports (R87). -/
structure ScaccError where
  cause : Cause
  address : Word
  pc : Word
  insn : Word
  /-- the lanes of the issue whose guard was true -/
  lanes : Mask
  deriving DecidableEq, Repr

/-- The state of one gang (R101) and its per-gang control registers (R348). -/
structure Gang where
  /-- slot + 8 * (partition + 8 * (core + 48 * die)), as R333 numbers it -/
  key : Nat
  launch : Nat
  block : Nat
  idx : Nat
  allot : Nat
  xlate : Word
  world : Nat
  g : SMap Word
  gValid : BitVec 128
  gPending : List Nat
  /-- tokens of failed operations: the register and the operation record's address (R77) -/
  gFailed : SMap Word
  /-- write completion times that a read of a token merges into the reader's hzn (R76, R89, R157); under 128 the latest of all, which releases of the
  gang wait for (R309, R318) -/
  tokenEnd : SMap Nat
  m : SMap Mask
  arrive : SMap Mask
  threads : List Thread
  trapVec : Word
  saveArea : Word
  stallChk : Bool
  bkptDbg : Bool
  stepMode : BitVec 2
  uninitChk : Bool
  wpAddr0 : Word
  wpCtl0 : BitVec 10
  wpAddr1 : Word
  wpCtl1 : BitVec 10
  /-- phase number (R119) and the carry counts of a phase being ended -/
  phase : Nat
  widened : Option Nat
  byCrossing : Bool
  /-- the first fetch of a thread that came by a crossing, made on its arrival: its address and the physical address of its block (R301) -/
  firstFetch : Option (Word × Nat)
  /-- the key of its shadow gang, or of the compute gang it shadows (R121) -/
  shadow : Option Nat
  shadowOf : Option Nat
  /-- a standing pre-emption request, with its deadline in GTIME (R338) -/
  request : Option Nat
  /-- PREEMPT has been taken and the save has not ended (R308, R314) -/
  taken : Bool
  /-- an area of the phase-record ring is its save area (R310) -/
  inArea : Bool
  /-- it is in its restore, as the carrier of its group (R313) -/
  carrier : Bool
  scaccError : Option ScaccError
  parked : Bool
  /-- clock of the last slot granted to the gang (R331), and slots granted -/
  lastGrant : Nat
  grants : Nat
  deriving DecidableEq, Repr

/-- The issue in progress: which bundle issues which instruction, at which address, as fetched (R43). -/
structure Issue where
  gang : Nat
  lanes : Mask
  pc : Word
  len : Nat
  raw : Word
  /-- the logical name of its lowest lane, and the GTIME of its fetch (R8, R387) -/
  name : Nat × Nat × Nat := (0, 0, 0)
  fetched : Nat := 0
  deriving DecidableEq, Repr

/-- One end of a copy or an access: a scratch byte of a core, a global virtual address, a weight-store offset of a die. -/
inductive Place where
  | scratch (core : Nat) (offset : Nat)
  | global (va : Word)
  | weight (die : Nat) (offset : Nat)
  deriving DecidableEq, Repr

/-- A byte on its way: its value, and the valid and poison bits of the word that it comes from (R71, R72). -/
structure Carried where
  val : Byte
  valid : Bool
  poison : Bool
  deriving DecidableEq, Repr

/-- A piece of a copy of at most 128 bytes, still to be written (R93, R94). -/
structure Chunk where
  dst : Place
  src : Place
  size : Nat
  /-- bytes of it whose values an overlap of source and destination leaves undefined (R91) -/
  overlap : List Nat
  /-- bytes of it, by position, that have been read ahead of the others, and positions whose bytes have been written ahead (R93) -/
  held : List (Nat × Carried)
  done : List Nat
  deriving DecidableEq, Repr

/-- An outstanding copy (R76, R90). -/
structure Copy where
  /-- its name for fault service (the model's own field) -/
  id : Nat
  gang : Nat
  launch : Nat
  block : Nat
  core : Nat
  world : Nat
  xlate : Word
  lanes : Mask
  token : Nat
  bar : Option Nat
  weightWrite : Bool
  chunks : List Chunk
  delivered : Nat
  /-- made with privilege (R268) -/
  priv : Bool
  /-- latest write completion time of its global chunks (R205) -/
  w : Nat
  pc : Word
  deriving DecidableEq, Repr

/-- What a matrix instruction in an array's queue does, with its operands read at issue (R79, R82). -/
inductive MatrixOp where
  | zero (tile : Nat)
  | load (own weight : Bool) (ty : Ty) (address stride : Word)
  | mul (paired : Bool) (ta tb : Ty) (tile : Nat) (address stride : Word) (rnd : Rnd) (sat : Bool)
  | minPlus (paired : Bool) (tile : Nat) (address stride : Word) (rnd : Rnd)
  | maxTimes (paired : Bool) (tile : Nat) (address stride : Word) (rnd : Rnd)
  | orAnd (paired : Bool) (tile : Nat) (address stride : Word)
  | scale (acc ps : Nat) (blockA rowA colA : Word) (rnd : Rnd) (sat : Bool)
  | tileLoad (scratch : Bool) (ty : Ty) (tile : Nat) (address stride : Word)
  | tileStore (scratch : Bool) (ty : Ty) (tile : Nat) (address stride : Word)
  deriving DecidableEq, Repr

/-- An unretired matrix instruction. -/
structure MatrixEntry where
  op : MatrixOp
  gang : Nat
  launch : Nat
  block : Nat
  world : Nat
  xlate : Word
  lanes : Mask
  token : Option Nat
  /-- made with privilege (R268) -/
  priv : Bool
  /-- the scratch ranges that it reads, and that it writes: core, offset, bytes (R81) -/
  reads : List (Nat × Nat × Nat)
  writes : List (Nat × Nat × Nat)
  /-- bytes of them that another agent wrote: what depends on them is undefined (R81) -/
  spoiled : List (Nat × Nat)
  /-- bytes of a tile load or tile store, by position in the tile, that have been read or written ahead of the others (R88, R93) -/
  moved : List (Nat × Carried)
  insn : Word
  pc : Word
  deriving DecidableEq, Repr

/-- The matrix array of one partition (R79): tiles acc0 to acc3 and ps0 to ps3 as 32-bit elements at 64 * tile + 8 * row + column,
the B latches as 512 bytes at 64 * column + byte, and the queue of unretired instructions, oldest first. -/
structure Array8 where
  tiles : SMap (BitVec 32)
  latch : SMap Byte
  latched : Option Ty
  queue : List MatrixEntry
  deriving DecidableEq, Repr

/-- A core barrier (R145). -/
structure Bar where
  expected : Nat
  arrivals : Nat
  pending : Word
  gen : BitVec 16
  failed : Option (Cause × Word)
  /-- latest write completion time of the global bytes posted to it (R152) -/
  w : Nat
  deriving DecidableEq, Repr

/-- A block's scratch allocation on one core, with its barriers (R70, R71, R145, R233). -/
structure Alloc where
  launch : Nat
  block : Nat
  core : Nat
  size : Nat
  world : Nat
  /-- how many rows of 256 bytes the bank of each partition gives it, and how many of those the clearing sequencer has zeroed (R71, R378) -/
  banks : SMap Nat
  clean : SMap Nat
  /-- written bytes; an unlisted byte holds the undefined contents of R71, numbered by the seed -/
  bytes : SMap (Option Byte)
  seed : Nat
  valid : SMap Bool
  poison : SMap Bool
  full : SMap Bool
  bars : SMap Bar
  /-- threads of the block on the core when it was admitted: expected at allocation (R145) -/
  threads : Nat
  deriving DecidableEq, Repr

/-- A weak load or LDA on its way to its register (R206). The bytes are those of the moment of issue: from the line's home (with the
core's own stores), and under a lease that the core's L1 held, if it held one. -/
structure PLoad where
  gang : Nat
  lane : Nat
  core : Nat
  dst : Dest
  /-- the 128-byte lines that the access touches -/
  lines : List Nat
  ty : Ty
  lo : Bool
  home : Word
  lease : Option Word
  /-- the core's L1 owned every word of it (R207) -/
  owned : Bool
  /-- of a scratch load: the core and offset of each of its bytes (R200); empty for a global one -/
  spots : List (Nat × Nat)
  issued : Nat
  deriving DecidableEq, Repr

/-- A store performed in its core's L1 and not yet at its home (R201, R205), or a scratch store that has not reached its bank (R200). -/
structure PStore where
  gang : Nat
  lane : Nat
  core : Nat
  world : Nat
  /-- the physical address; of a scratch store, the core and offset as one number -/
  pa : Nat
  bytes : List Byte
  issued : Nat
  /-- a scratch store -/
  bank : Bool
  /-- it is one byte of a store that is not naturally aligned (R194), and another byte of that store has been performed -/
  piece : Bool
  begun : Bool
  /-- its thread ran privileged: what a device page asks (R364) -/
  priv : Bool
  /-- the remote home has accepted it, and its completion has not returned (R211) -/
  accepted : Bool
  deriving DecidableEq, Repr

/-- The operations of the service gangs (R244, R246). -/
inductive AtomOp where
  | add | and | or | xor | min | max | xchg | cas (compare : Word)
  deriving DecidableEq, Repr

/-- A request to a service gang: queued, or applied with the old word and its completion time (R243, R244). -/
structure AtomReq where
  gang : Nat
  lane : Nat
  launch : Nat
  core : Nat
  world : Nat
  /-- the return register; none for a reduction -/
  dst : Option Nat
  op : AtomOp
  ty : Ty
  pa : Nat
  value : Word
  scope : Nat
  applied : Option (Word × Word)
  issued : Nat
  /-- it lies in its launch's overflow ring (R242) -/
  spilled : Bool
  /-- its result goes to the word of the thread's trap frame (R26, R333) -/
  framed : Bool
  deriving DecidableEq, Repr

/-- A REDSEQ sequence of a launch on one word (R247): the next index and the contributions held, in index order. -/
structure RedSeq where
  launch : Nat
  pa : Nat
  ty : Ty
  next : Nat
  held : SMap (Option Word)
  /-- the clock at which each held contribution was translated (R353) -/
  stamps : SMap Nat
  /-- held indices that lie in the overflow ring (R247) -/
  spilled : List Nat
  deriving DecidableEq, Repr

/-- A lease of a core's L1 on a 128-byte line (R206): expiry at the home, and the data it may still serve (none after the L1
gave it up). -/
structure Lease where
  core : Nat
  line : Nat
  granted : Nat
  expiry : Nat
  data : Option (List Byte)
  deriving DecidableEq, Repr

/-- The host copies of a line (R213): clean sharers, one exclusive, one modified, or an owner with sharers. -/
inductive HostLine where
  | s (hosts : List Nat) | e (host : Nat) | m (host : Nat) | o (owner : Nat) (sharers : List Nat)
  deriving DecidableEq, Repr

/-- A cached translation (R263, R273): the core that holds it, or the hub's walkers for core 192. -/
structure TlbEntry where
  core : Nat
  asid : Nat
  vpage : Nat
  pte : Word
  level : Nat
  deriving DecidableEq, Repr

/-- A fetch block in a core's instruction cache (R225, R226), by physical address, with its 32 bytes, as the gangs of a world read them (R376). -/
structure FetchBlock where
  core : Nat
  world : Nat
  asid : Nat
  pa : Nat
  bytes : List Byte
  deriving DecidableEq, Repr

/-- One lane's operands of a logged access, read at issue (R270). -/
structure LaneOps where
  lane : Nat
  a : Word
  b : Word
  c : Word
  deriving DecidableEq, Repr

/-- What waits for the answer to a fault (R269): a logged per-lane access, a transfer or other instruction that replays whole, a
copy, a matrix entry, a group reduction of a gang, the write of a completion word or of a save area, a machine check, a launch of a host core, or nothing (a trap record). -/
inductive Faulter where
  | logged (partition entry : Nat)
  /-- an instruction that waits to be issued again; of a transfer, the target of the lowest lane (R127) -/
  | insn (gang : Nat) (lanes : Mask) (transfer : Option Word)
  | copy (id : Nat)
  | matrix (partition : Nat)
  | completion (launch : Nat)
  | gred (gang : Nat)
  /-- the save area of a gang's save -/
  | save (gang : Nat)
  /-- a machine check of a gang, and whether it can resume (R337) -/
  | machine (gang : Nat) (recoverable : Bool)
  /-- the reads of a launch started through the control page: host and packet address (R351, R364) -/
  | hostLaunch (host : Nat) (packet : Word)
  | record
  deriving DecidableEq, Repr

/-- An entry of a partition's operand log (R270). -/
structure OpLogEntry where
  partition : Nat
  entry : Nat
  gang : Nat
  lanes : Mask
  insn : Instr
  raw : Word
  pc : Word
  ops : List LaneOps
  /-- other lanes of the issue completed, into the same g register -/
  others : Bool
  /-- made with privilege (R268) -/
  priv : Bool
  /-- lanes that entered a handler while the entry stood: its d1 or d2 no longer waits on the scoreboard (R333) -/
  late : Mask
  deriving DecidableEq, Repr

/-- A fault on its way through fault service (R269): not yet walked again, held for transit, or posted to the queue as a record
with an index. -/
structure FaultItem where
  who : Faulter
  cause : Cause
  va : Word
  pc : Word
  info : Word
  access : Nat
  priv : Bool
  xlate : Word
  record : List Byte
  /-- the operand-log entry that a transfer holds while its fault is serviced (R127, R269) -/
  entry : Option Nat
  transit : Bool
  posted : Option Nat
  deriving DecidableEq, Repr

/-- The launch packet (R317). -/
structure Packet where
  entry : Word
  blocks : Nat
  blockdim : Nat
  gangregs : Nat
  shadowregs : Nat
  scratch : Nat
  flags : BitVec 32
  constAddr : Word
  groupTable : Word
  xlate : Word
  sliceEntry : Word
  trapHandler : Word
  saveRoutine : Word
  restoreRoutine : Word
  trapFrames : Word
  ring : Word
  quota : Nat
  estimate : Nat
  phaseRing : Word
  completion : Word
  phaseRingSize : Nat
  zero : Nat
  deriving DecidableEq, Repr

/-- An entry of a launch's group table as read at launch (R114). -/
structure Group where
  number : Nat
  remote : Bool
  members : List Nat
  peers : List Nat
  /-- whether the first GRED, and the first GREDW, of this device fails since rank 0's peer list is another one; none until that list is known
  (R248) -/
  badGred : Option Bool
  badGredw : Option Bool
  deriving DecidableEq, Repr

/-- A launch (R318, R319): its packet, its groups, and how far it has come. -/
structure Launch where
  num : Nat
  packet : Packet
  world : Nat
  groups : List Group
  /-- blocks that ran to their end -/
  ended : Nat
  /-- blocks admitted and not ended: die and block -/
  running : List (Nat × Nat)
  /-- threads away on a host core (R296) -/
  away : Nat
  /-- the status code with which it ends (R318) -/
  status : Nat
  /-- µJ charged per die (R324) -/
  charged : SMap Nat
  /-- areas of the phase-record ring in use: offset and size (R310) -/
  areas : List (Nat × Nat)
  /-- gang numbers of its gangs that have ended (R116) -/
  gone : List Nat
  /-- latest write completion time of its ended gangs' writes: its word is a release of them (R318) -/
  hzn : Nat
  /-- the physical address of its packet, the dies that have yet to read it, and what a die read where it differs from the packet as first read
  (R319) -/
  place : Nat
  unread : List Nat
  reads : List (Nat × Packet)
  /-- the die mask's blocks have been enqueued, its completion word has been written or waits for an answer (R318) -/
  completing : Bool
  deriving DecidableEq, Repr

/-- What a gang that leaves its partition for a save or a next phase keeps, though no area in memory holds it: the sticky flags of its threads by
lane (R51), and a standing record of SCACC (R87). -/
structure Kept where
  flags : List (BitVec 5 × Bool)
  scacc : Option ScaccError
  /-- its lanes that have not exited, and the recorded arrivals of its threads by lane (R116, R153) -/
  live : Mask
  arrivals : List (SMap Nat)
  deriving DecidableEq, Repr

/-- An entry of a scheduler queue (R320, R321): a launch with the next of its blocks on the die, a next phase with its record, or the saved
gangs of a block. -/
inductive QueueEntry where
  | block (launch next : Nat)
  | phase (launch block idx : Nat) (record : Word) (cd cg : Nat) (priority : Nat) (kept : Kept)
  | saved (launch block : Nat)
  deriving DecidableEq, Repr

/-- The scheduler's queues of one die (R321, R327), the energy state (R324, R325) and the weight store (R95, R96). -/
structure Die where
  system : List QueueEntry
  blocks : SMap (List QueueEntry)
  phases : SMap (List QueueEntry)
  funcMode : BitVec 8
  watchdogUs : BitVec 16
  preemptLaunch : BitVec 32
  enBudget : Word
  enUsed : Word
  /-- the energy window in which enUsed counts and issueStopped holds, and the 10 µs that the energy planner has seen (R324, R325) -/
  enWindow : Nat
  planned : Nat
  lastDraw : Nat
  clockMHz : Nat
  issueStopped : Bool
  weight : SMap Byte
  /-- bytes of the weight store that a CPYW wrote from a poisoned source (R72) -/
  weightPoison : SMap Bool
  refreshValid : Bool
  refreshLen : BitVec 12
  refreshPeriod : BitVec 16
  /-- package time of the next window start (R96), of which WSREFR shows bits [31:0] -/
  nextStart : Nat
  inWindow : Bool
  /-- µJ that each resident block has drawn: launch, block, µJ (R324) -/
  drawn : List (Nat × Nat × Nat)
  sampleShift : BitVec 5
  sampleBase : Word
  sampleSize : Word
  sampleNext : Nat
  poolLines : List Nat
  deriving DecidableEq, Repr

/-- A saved gang (R309 to R313). -/
structure Saved where
  launch : Nat
  block : Nat
  idx : Nat
  die : Nat
  core : Nat
  allot : Nat
  area : Word
  lanes : Mask
  carrier : Bool
  /-- the area of the carrier whose group it is restored with -/
  group : Option Word
  /-- its phase number, which the area does not hold (R119) -/
  phase : Nat
  kept : Kept
  /-- the slot that is kept for it, since the rest of its block has been admitted (R340) -/
  slot : Option Nat
  deriving DecidableEq, Repr

/-- The open round of a group barrier (R116, R153). -/
structure GroupRound where
  launch : Nat
  grp : Nat
  round : Nat
  /-- member gang index and lane of each arrival -/
  arrived : List (Nat × Nat)
  /-- GBARP carry sets by member gang, and gangs that must act as GBAR (R155) -/
  phaseOf : List (Nat × Nat × Nat)
  plain : List Nat
  peers : List Nat
  deriving DecidableEq, Repr

/-- The open round of a GREDW (R249), or a GRED (R250): contributions by tree position. -/
structure GredRound where
  launch : Nat
  grp : Nat
  op : Nat
  ty : Ty
  lo : Bool
  values : SMap Word
  given : List Nat
  peers : SMap (List Word)
  failed : List Nat
  deriving DecidableEq, Repr

/-- A member gang's part of a GRED: its buffers and token (R250). -/
structure GredPart where
  gang : Nat
  /-- its gang number in the launch -/
  num : Nat
  lanes : Mask
  pc : Word
  token : Nat
  src : Word
  dst : Word
  status : Word
  xlate : Word
  world : Nat
  /-- clock of its issue: source bytes that change later leave undefined results (R250) -/
  issued : Nat
  /-- latest write completion time of its destination -/
  w : Nat
  /-- made with privilege (R268) -/
  priv : Bool
  deriving DecidableEq, Repr

/-- A GRED in progress (R250, R251): its parts, the chunk that comes next, failures. -/
structure Gred where
  launch : Nat
  grp : Nat
  op : Nat
  ty : Ty
  count : Nat
  parts : List GredPart
  next : Nat
  /-- the peer devices' results for the chunks from the first on, by rank: a replay needs those of delivered chunks again (R251) -/
  peers : SMap (List Word)
  failed : List Nat
  failedAt : Nat
  deriving DecidableEq, Repr

/-- A constraint of a batching context (R252 to R257). -/
structure Constraint where
  body : Word
  tag : BitVec 48
  released : Bool
  finished : Bool
  /-- it lies in the overflow ring (R254) -/
  spilled : Bool
  deriving DecidableEq, Repr

/-- A batching context (R253). -/
structure CbCtx where
  launch : Nat
  count : Nat
  bodies : Nat
  items : List Constraint
  deriving DecidableEq, Repr

/-- A live slot of an overflow ring (R328): its offset, its kind and the queue whose entry it holds. The entry itself stays in its queue's
list, marked as spilled. -/
structure RingSlot where
  offset : Nat
  kind : Nat
  queue : Nat
  /-- which of the queue's entries it holds: a context and push index, a word and index of a sequence -/
  item : Nat × Nat
  /-- its place in the order of the spills -/
  stamp : Nat
  deriving DecidableEq, Repr

/-- The overflow ring of a launch on a die (R328, R329): what its header holds, and its live slots, oldest first. -/
structure Ring where
  launch : Nat
  die : Nat
  head : Nat
  tail : Nat
  high : Nat
  live : List RingSlot
  deriving DecidableEq, Repr

/-- A compaction cycle of an address space (R280, R284 to R286). -/
structure Cycle where
  asid : Nat
  xlate : Word
  /-- the engine has read the heap descriptor -/
  begun : Bool
  cursor : Nat
  range : Nat
  limit : Nat
  destNext : Nat
  moved : Nat
  /-- objects decided to move and not yet finished: index, old copy, new copy, size, lines copied -/
  moving : List (Nat × Nat × Nat × Nat × List Nat)
  deriving DecidableEq, Repr

/-- HEAPCOL of an address space (R280). -/
structure Heap where
  asid : Nat
  colour : Bool
  active : Bool
  desc : Word
  deriving DecidableEq, Repr

/-- A page migration at its directory entry (R275, R277, R304, R305). -/
structure Migration where
  asid : Nat
  page : Nat
  xlate : Word
  requester : Nat
  source : Nat
  dest : Nat
  next : Nat
  /-- the size of the moving leaf, in address bits (R263) -/
  bits : Nat
  /-- step 3 of R275 is done: the leaf names the new frame and still has t set -/
  relinked : Bool
  failedLines : List Nat
  aborted : Bool
  /-- end of the hold; none while the migration runs -/
  holdUntil : Option Nat
  deriving DecidableEq, Repr

/-- The modes of a host core (R292): user, virtual user, supervisor, virtual supervisor, machine. -/
inductive HostMode where
  | user | virtUser | supervisor | virtSupervisor | machine
  deriving DecidableEq, Repr

/-- The vector state of a host thread (R292, R296): v0 to v31 of 256 bits, vl, vstart, vtype with its vill, vxrm, vxsat. -/
structure HostVector where
  v : SMap (BitVec 256)
  vl : Word
  vstart : Word
  vtype : Word
  vxrm : BitVec 2
  vxsat : Bool
  deriving DecidableEq, Repr

/-- A host load on its way to its register (R212): its register, x0 to x31 as 0 to 31 and f0 to f31 as 32 to 63, where its bytes lie, whether it
extends their sign, and the clock of its issue. -/
structure HostLoad where
  dst : Nat
  pas : List Nat
  signed : Bool
  issued : Nat
  deriving DecidableEq, Repr

/-- A host store in its core's store buffer (R212), within one line, with its virtual address and the satp and hgatp that translated it: while t is 1
in a leaf that maps it the store waits, and then follows the page (R264). -/
structure HostStore where
  pa : Nat
  va : Word
  bytes : List Byte
  roots : Word × Word
  issued : Nat
  deriving DecidableEq, Repr

/-- A host thread that may migrate (R289, R299), with its registers while on a host core. -/
structure HostThread where
  /-- its logical name (R8): 0, 0 and its hub thread number for a thread created on a host core -/
  launch : Nat
  block : Nat
  tid : Nat
  gangIdx : Nat
  host : Nat
  /-- the translation under which it runs: satp, or vsatp of a virtual mode with the hgatp of its machine -/
  xlate : Word
  hgatp : Word
  ring : Word
  records : Nat
  away : Bool
  /-- x1 to x31 as 1 to 31, f0 to f31 as 32 to 63 (R295) -/
  image : SMap Word
  fcsr : BitVec 8
  pc : Word
  registered : Bool
  /-- the mode in which it runs, or in which it left (R296) -/
  mode : HostMode
  vec : HostVector
  /-- records that the hub keeps of the crossings of a thread of a launch, oldest first (R299) -/
  kept : List (List Byte)
  /-- interrupts and signals aimed at it while it is away, by cause (R296) -/
  pending : List Word
  /-- the executable translation with which it arrived, until its first fetch (R301) -/
  first : Option (Word × Nat)
  loads : List HostLoad
  stores : List HostStore
  /-- the debugger has stopped it, or steps it (R124) -/
  stopped : Bool
  stepping : Bool
  deriving DecidableEq, Repr

/-- The privileged registers of a host core (R292, R293, R300), the context that it runs, and the line of its LR reservation (R294). -/
structure HostCore where
  satp : Word
  vsatp : Word
  hgatp : Word
  stvec : Word
  sepc : Word
  scause : Word
  stval : Word
  mtvec : Word
  mepc : Word
  mcause : Word
  mtval : Word
  /-- the modes to which sret and mret return -/
  sprev : HostMode
  mprev : HostMode
  /-- its other control registers, by number -/
  csrs : SMap Word
  /-- the thread whose context it runs: launch, block, thread -/
  running : Option (Nat × Nat × Nat)
  reserved : Option Nat
  deriving DecidableEq, Repr

/-- A crossing on its way (R296, R298, R301). -/
structure Crossing where
  toDevice : Bool
  kind : CrossKind
  launch : Nat
  block : Nat
  tid : Nat
  xlate : Word
  target : Word
  image : SMap Word
  fcsr : BitVec 8
  host : Nat
  gangIdx : Nat
  /-- the executable translation of its target that it carries (R301) -/
  pte : Word
  level : Nat
  issued : Nat
  /-- the debugger is stepping the thread: the core of its arrival ends the step (R124) -/
  stepping : Bool
  /-- it is held while a code compaction of its address space runs (R342) -/
  held : Bool
  deriving DecidableEq, Repr

/-- A record of a violation log (R389). -/
structure Violation where
  gtime : Word
  address : Word
  requester : BitVec 32
  kind : Byte
  fromWorld : Byte
  toWorld : Byte
  overwritten : Nat
  deriving DecidableEq, Repr

/-- The blocks that keep a violation log (R389), each with its number. -/
inductive LogOwner where
  | bank (partition : Nat) | home (cluster : Nat) | service (cluster : Nat) | migration | wilkan (port : Nat) | tdisp (port : Nat)
  | hub
  deriving DecidableEq, Repr

/-- A violation log: a ring of 64 entries (R389). -/
structure VLog where
  owner : LogOwner
  entries : List Violation
  overwritten : Nat
  deriving DecidableEq, Repr

/-- An entry of an audit log (R371, R384). -/
structure Audit where
  gtime : Word
  kind : Byte
  b9 : Byte
  b10 : Byte
  b11 : Byte
  address : Word
  deriving DecidableEq, Repr

/-- A world's audit log: a ring of 512 entries (R385). -/
structure AuditLog where
  world : Nat
  entries : List Audit
  appended : Nat
  deriving DecidableEq, Repr

/-- The state of a TDI (R367). -/
inductive TdiState where
  | unlocked | locked | run | error
  deriving DecidableEq, Repr

/-- A TDI: its record, its live configuration and its nonce (R367, R368). -/
structure Tdi where
  state : TdiState
  snapshot : List Byte
  nonce : List Byte
  offset : Word
  vfCommand : BitVec 16
  msixControl : BitVec 16
  /-- words of its MSI-X table and PBA page, by offset -/
  msixTable : SMap Word
  /-- a stop whose clearing has not ended -/
  stopping : Bool
  /-- how many STOP_INTERFACE_REQUESTs wait for their answer -/
  stopAnswer : Nat
  deriving DecidableEq, Repr

/-- What a controller applies after the stop that it is applying (R367): a host's configuration write, or a stop request. -/
inductive CtrlWait where
  | write (tdi : Nat) (item : Frozen) (address value : Word)
  | stop (tdi : Nat)
  deriving DecidableEq, Repr

/-- A TDISP controller (R365, R366): the window, the posted request, waiting events, the answers sent. -/
structure Ctrl where
  seq : Word
  tdi : Nat
  code : Byte
  checks : Byte
  lockFlags : BitVec 32
  mmioOffset : Word
  evAddr : Word
  rseq : Word
  rword : Word
  payload : SMap Byte
  /-- a request or event is posted and not yet answered -/
  posted : Bool
  reportOffset : Nat
  reportLength : Nat
  events : List (Nat × Word)
  tdis : SMap Tdi
  /-- registers of PF n at 8 n: VF BAR0 and 1, VF BAR2 and 3, SR-IOV control, NumVFs, System Page Size (R368) -/
  pfRegs : SMap Word
  /-- messages sent to the host: response code, TDI, error code or 0, payload -/
  sent : List (Byte × Nat × BitVec 32 × List Byte)
  /-- what waits for the end of a stop's clearing, in the order of its arrival (R367) -/
  waiting : List CtrlWait
  /-- host writes that have been completed: the address of R369, and whether it was performed or completed with Unsupported Request -/
  completed : List (Word × Bool)
  deriving DecidableEq, Repr

/-- The security core (R376 to R385). -/
structure Security where
  ms : SMap (BitVec 256)
  /-- configuration images that have extended MS3, oldest first (R380) -/
  images : List (List Byte)
  l2wmap : SMap Byte
  allow : SMap (BitVec 32)
  audit : List AuditLog
  /-- worlds whose working keys have been erased by an export (R382) -/
  keysGone : List Nat
  /-- worlds whose keys this device imported (R383) -/
  imported : List Nat
  /-- handover records kept: world, creation, attempts, deadline, record bytes -/
  handovers : List (Nat × Word × Nat × Nat × List Byte)
  /-- open SPDM sessions by transport -/
  sessions : List Nat
  /-- SPDM messages sent: transport and bytes -/
  sent : List (Nat × List Byte)
  /-- transport on which the connection state has been set up, by request code (R381) -/
  negotiated : List (Nat × Nat)
  deriving DecidableEq, Repr

/-- The hub: fault queue (R363), control page words (R364), launch counter (R319). -/
structure Hub where
  fqBase : Word
  fqSize : Word
  fqTail : Nat
  fqHead : Word
  regRing : Word
  regBusy : Bool
  regFailed : Bool
  ccAsid : BitVec 16
  ccTable : Word
  ccCount : Word
  ccRunning : Bool
  ccRefused : Bool
  hcAsid : BitVec 16
  hlLast : SMap Nat
  msImage : Word
  msLen : Word
  msRefused : Bool
  viewSel : BitVec 32
  nextLaunch : BitVec 32
  deriving DecidableEq, Repr

/-- A latched snapshot of a block (R386): block kind and unit, the GTIME of its latch, the values. -/
structure Snap where
  kind : Nat
  unit : Nat
  gtime : Word
  values : List Word
  /-- the world of the partition when it latched (R388); 0 for other blocks -/
  world : Nat
  deriving DecidableEq, Repr

/-- A sampled instruction followed to write-back (R387): its record, but for what becomes of it. -/
structure Sample where
  partition : Nat
  record : List Byte
  gang : Nat
  lanes : Mask
  pc : Word
  /-- bit 0 trapped, bit 1 replayed, bit 2 migrated -/
  flags : Nat
  deriving DecidableEq, Repr

/-- A partition's clearing (R378): the world it will hold, and whether WCLEAR or a TDI stop asked. -/
structure Clearing where
  partition : Nat
  world : Nat
  deriving DecidableEq, Repr

/-- Where the platform places what the manual gives no address for: the hub's control page (R364), the window of each TDISP controller
(R366), ranges of CXL pool memory (R279) and of other devices' memory reached over Wilkan links (R211), each from an address with a length.
Boot leaves it as the platform has it; nothing changes it afterwards (the model's own fields, assumption 59). -/
structure Platform where
  control : Option Nat
  windows : List Nat
  pool : List (Nat × Nat)
  remote : List (Nat × Nat)
  deriving DecidableEq, Repr

/-- What seals a line (R376): the line whose address is the tweak and is bound by the MAC, the world whose keys it is under, and whether ciphertext and
MAC are as they were sealed. The memory holds what it decrypts to (assumption 69). -/
structure Seal where
  line : Nat
  world : Nat
  intact : Bool
  deriving DecidableEq, Repr

/-- The whole package. -/
structure State where
  /-- steps that are to happen next, first first: what the outside world, time or an engine does (the model's own field) -/
  agenda : List Instr
  /-- partitions that issue next, first first, where the manual leaves the order between partitions open (the model's own field) -/
  turn : List Nat
  /-- the issue in progress (the model's own field) -/
  cur : Issue
  /-- counters that number the free values and the steps (the model's own fields) -/
  freeCtr : Nat
  clock : Nat
  /-- package time in ns (R1, R5), one for all dies. DESIGN CHOICE (assumption 70): its skew between dies is zero, and the count
  behind its 64 bits does not wrap -/
  gtime : Nat
  /-- boot: the reset pin is released, steps completed, a failed step (R393) -/
  released : Bool
  bootStep : Nat
  bootFailed : Bool
  /-- global memory by physical byte address; an unlisted byte reads as 0 -/
  mem : List Host.Cell
  /-- poisoned 128-byte lines of memory (R278), world tags of sealed lines (R377) -/
  poisonLines : SMap Bool
  lineWorld : SMap Nat
  /-- what seals a line of a protected world where it is sealed (R376, R377) -/
  seals : SMap (Option Seal)
  gangs : List Gang
  arrays : SMap Array8
  allocs : List Alloc
  copies : List Copy
  loads : List PLoad
  stores : List PStore
  atoms : List AtomReq
  /-- reductions applied and not yet acknowledged: gang, lane, w (R219) -/
  acks : List (Nat × Nat × Nat)
  redseqs : List RedSeq
  leases : List Lease
  /-- words owned by a core's L1: word number to core + 1 (R207) -/
  owned : SMap Nat
  hostLines : SMap (Option HostLine)
  /-- lines on which a host write waits: no new lease is granted (R213) -/
  hostWaiting : List Nat
  /-- lines on which a back-invalidate snoop waits (R216), and pool lines that their die is to release (R279): likewise -/
  snooping : List Nat
  releasing : List Nat
  /-- bytes on which a store has taken its place lately: GTIME, address and number (R205; the model's own field) -/
  placedAt : List (Nat × Nat × Nat)
  platform : Platform
  tlb : List TlbEntry
  icache : List FetchBlock
  oplog : List OpLogEntry
  faults : List FaultItem
  launches : List Launch
  dies : SMap Die
  saved : List Saved
  groupRounds : List GroupRound
  gredws : List GredRound
  greds : List Gred
  /-- bytes written while a group reduction is open: address, number, clock of the write (R250; the model's own field) -/
  dirty : List (Nat × Nat × Nat)
  /-- stores, atomics and reductions that were performed: core, clock of the issue, write completion time; and per core the latest hzn of the gangs
  that have left it (R196) -/
  recent : List (Nat × Nat × Nat)
  coreHzn : SMap Nat
  cbs : SMap (Option CbCtx)
  rings : List Ring
  heaps : List Heap
  cycles : List Cycle
  migrations : List Migration
  /-- error responses of migration requests: ASID, page, requester (R276, R277) -/
  moveErrors : List (Nat × Nat × Nat)
  hostThreads : List HostThread
  hostCores : SMap HostCore
  /-- the G-stage of an address space whose threads came from a virtual machine: its hgatp, by ASID (R292, R293) -/
  guests : SMap Word
  crossings : List Crossing
  vlogs : List VLog
  ctrls : SMap Ctrl
  sec : Security
  hub : Hub
  /-- world of each partition (R358), the clearings under way -/
  worlds : SMap Nat
  clearing : List Clearing
  /-- rows of each partition's scratch bank that no allocation holds and that have been held since the bank was last cleared (R71, R378) -/
  dirtyRows : SMap Nat
  /-- partitions that took a machine check and are cleared once their gangs have gone (R337) -/
  checked : List Nat
  /-- package registers LEASECTL, SNAPCTL (R362) -/
  leaseNs : BitVec 12
  marginNs : BitVec 8
  snapArmed : Bool
  snapUser : Bool
  snapPin : Bool
  snapMc : Bool
  snapCount : BitVec 8
  snaps : List Snap
  samples : List Sample
  /-- instructions that each partition has issued (R386) -/
  issues : SMap Nat
  /-- the count at which the sampling interval of a partition began (R387) -/
  sampled : SMap Nat
  /-- the bytes that blocks have requested of memory since their die's last planner tick: die, launch, block, bytes (R391) -/
  requested : List (Nat × Nat × Nat × Nat)
  deriving DecidableEq, Repr

/-- A die at reset (R96, R358, R362; the clock rate of R1). -/
def Die.reset : Die where
  system := []
  blocks := []
  phases := []
  funcMode := 0xFF
  watchdogUs := 1000
  preemptLaunch := 0
  enBudget := 600000
  enUsed := 0
  enWindow := 0
  planned := 0
  lastDraw := 0
  clockMHz := 3300
  issueStopped := false
  weight := []
  weightPoison := []
  refreshValid := false
  refreshLen := 0
  refreshPeriod := 0
  nextStart := 0
  inWindow := false
  drawn := []
  sampleShift := 20
  sampleBase := 0
  sampleSize := 0
  sampleNext := 0
  poolLines := []

/-- The vector state of a thread that arrives on a host core (R296): vill, the top bit of vtype, is 1. -/
def HostVector.arrived : HostVector where
  v := []
  vl := 0
  vstart := 0
  vtype := 0x8000000000000000
  vxrm := 0
  vxsat := false

/-- What boot software has left in control registers of a host core when it lets threads run (assumption 66): senvcfg, menvcfg and henvcfg admit the
cache-block instructions; FS and VS are dirty in vsstatus and mstatus, whose UXL, SXL and VSXL name 64 bits; every exception but calls from machine
and supervisor mode, and the interrupts of the supervisors, are delegated by medeleg and mideleg. -/
def hostBoot : SMap Word :=
  [(0x10A, 0xF0), (0x200, 0x200006600), (0x300, 0xA00006600), (0x302, 0xF0B5FF), (0x303, 0x1666), (0x30A, 0xE0000000000000F0), (0x600, 0x200000000),
   (0x60A, 0xE0000000000000F0)]

/-- A host core at reset: machine mode's registers, no translation, no context (the manual gives the registers no reset values, assumption 66). -/
def HostCore.reset : HostCore where
  satp := 0
  vsatp := 0
  hgatp := 0
  stvec := 0
  sepc := 0
  scause := 0
  stval := 0
  mtvec := 0
  mepc := 0
  mcause := 0
  mtval := 0
  sprev := .user
  mprev := .user
  csrs := hostBoot
  running := Option.none
  reserved := Option.none

/-- A TDI that has not been locked (R367). -/
def Tdi.reset : Tdi where
  state := .unlocked
  snapshot := []
  nonce := []
  offset := 0
  vfCommand := 0
  msixControl := 0
  msixTable := []
  stopping := false
  stopAnswer := 0

/-- A TDISP controller at reset (R366). -/
def Ctrl.reset : Ctrl where
  seq := 0
  tdi := 0
  code := 0
  checks := 0
  lockFlags := 0
  mmioOffset := 0
  evAddr := 0
  rseq := 0
  rword := 0
  payload := []
  posted := false
  reportOffset := 0
  reportLength := 0
  events := []
  tdis := []
  waiting := []
  pfRegs := []
  sent := []
  completed := []

/-- The security core at reset (R379: the measurement slots are extended from zero). -/
def Security.reset : Security where
  ms := []
  images := []
  l2wmap := []
  allow := []
  audit := []
  keysGone := []
  imported := []
  handovers := []
  sessions := []
  sent := []
  negotiated := []

/-- The hub at reset: every word of the control page 0 (R364), launch numbers from 1 (R319). -/
def Hub.reset : Hub where
  fqBase := 0
  fqSize := 0
  fqTail := 0
  fqHead := 0
  regRing := 0
  regBusy := false
  regFailed := false
  ccAsid := 0
  ccTable := 0
  ccCount := 0
  ccRunning := false
  ccRefused := false
  hcAsid := 0
  hlLast := []
  msImage := 0
  msLen := 0
  msRefused := false
  viewSel := 0
  nextLaunch := 1

/-- A platform that boot has not set up. -/
def Platform.none : Platform := { control := Option.none, windows := [], pool := [], remote := [] }

/-- No issue. -/
def Issue.idle : Issue := { gang := 0, lanes := 0, pc := 0, len := 0, raw := 0 }

/-- The machine with the reset pin asserted, before the boot sequence of R393: nothing is resident, nothing is pending, and no
memory cell differs from what an unlisted address reads as. -/
def State.reset : State where
  agenda := []
  turn := []
  cur := Issue.idle
  freeCtr := 0
  clock := 0
  gtime := 0
  released := false
  bootStep := 0
  bootFailed := false
  mem := []
  poisonLines := []
  lineWorld := []
  seals := []
  gangs := []
  arrays := []
  allocs := []
  copies := []
  loads := []
  stores := []
  atoms := []
  acks := []
  redseqs := []
  leases := []
  owned := []
  hostLines := []
  hostWaiting := []
  snooping := []
  releasing := []
  placedAt := []
  platform := Platform.none
  tlb := []
  icache := []
  oplog := []
  faults := []
  launches := []
  dies := []
  saved := []
  groupRounds := []
  gredws := []
  greds := []
  dirty := []
  recent := []
  coreHzn := []
  cbs := []
  rings := []
  heaps := []
  cycles := []
  migrations := []
  moveErrors := []
  hostThreads := []
  hostCores := []
  guests := []
  crossings := []
  vlogs := []
  ctrls := []
  sec := Security.reset
  hub := Hub.reset
  worlds := []
  clearing := []
  dirtyRows := []
  checked := []
  leaseNs := 400
  marginNs := 6
  snapArmed := false
  snapUser := false
  snapPin := false
  snapMc := false
  snapCount := 0
  snaps := []
  samples := []
  issues := []
  sampled := []
  requested := []

end Sys2Proof.Machine
end

