-- ==== Sys2Proof/Machine/Lanes.lean ====
section
/-! DEFINITION. Lanes, threads, gangs and their registers: finding them in the state, and the one place where a register is
read or written (d0, g0 and p7 behave as R22 says here and nowhere else). -/

namespace Sys2Proof.Machine

/-- The lanes of a mask, ascending (R202). -/
def lanes (m : Mask) : List Nat := (List.range 32).filter fun k => m.getLsbD k

/-- The mask of the lanes that satisfy a test. -/
def maskOf (p : Nat → Bool) : Mask :=
  BitVec.ofNat 32 ((List.range 32).foldl (fun n k => if p k then n + 2 ^ k else n) 0)

/-- The mask of one lane. -/
def laneMask (k : Nat) : Mask := BitVec.ofNat 32 (2 ^ k)

/-- The lowest lane of a mask; 0 of an empty one. -/
def lowest (m : Mask) : Nat := (lanes m).headD 0

/-- The lanes of a mask that satisfy a test. -/
def those (m : Mask) (p : Nat → Bool) : Mask := maskOf fun k => m.getLsbD k && p k

/-- A thread at its start (R100), with its logical name (R8): every register 0, all valid bits clear but that of d0 (R73). -/
def Thread.start (pc : Word) (launch block tid : Nat) (cond : Cond) : Thread where
  pc := pc
  meet := 0
  hzn := 0
  synced := 0
  seen := 0
  ix := 0
  d := []
  dValid := 1
  p := 0
  windows := []
  h := []
  fflags := 0
  dyReserved := false
  cond := cond
  mode := .user
  wait := .no
  waitLen := 0
  launch := launch
  block := block
  tid := tid
  trapCause := 0
  trapPc := 0
  trapAddr := 0
  trapMask := 0
  trapInfo := 0
  oplogValid := false
  oplogEntry := 0
  frame := 0
  readyAt := 0
  pauseUntil := 0
  lastIssue := 0
  lastSlot := 0
  yields := false
  bundle := none
  pending := []
  tracked := []
  slots := 0
  arrivals := []
  safeInfo := 0
  skipWatch := false
  hit := false
  frm := 0
  stepping := 0

/-- A lane that holds no thread: exited from the start (R102). -/
def Thread.absent : Thread := Thread.start 0 0 0 0 .exited

/-- A gang of a block at its start (R101, R323). -/
def Gang.start (key launch block idx allot : Nat) (xlate : Word) (world : Nat) (threads : List Thread) (trapVec : Word) : Gang where
  key := key
  launch := launch
  block := block
  idx := idx
  allot := allot
  xlate := xlate
  world := world
  g := []
  gValid := 1
  gPending := []
  gFailed := []
  tokenEnd := []
  m := []
  arrive := []
  threads := threads
  trapVec := trapVec
  saveArea := 0
  inArea := false
  stallChk := false
  bkptDbg := false
  stepMode := 0
  uninitChk := false
  wpAddr0 := 0
  wpCtl0 := 0
  wpAddr1 := 0
  wpCtl1 := 0
  phase := 0
  widened := none
  byCrossing := false
  firstFetch := none
  shadow := none
  shadowOf := none
  request := none
  taken := false
  carrier := false
  scaccError := none
  parked := false
  lastGrant := 0
  grants := 0

/-- What a slot with no resident gang reads as. -/
def Gang.absent : Gang := Gang.start 0 0 0 0 0 0 0 [] 0

/-- The parts of a gang key: slot + 8 × (partition + 8 × (core + 48 × die)) (R333). -/
def slotOf (key : Nat) : Nat := key % 8
/-- The partition of the package, 0 to 1,535. -/
def partOf (key : Nat) : Nat := key / 8
/-- The core of the package, 0 to 191. -/
def coreOf (key : Nat) : Nat := key / 64
/-- The die. -/
def dieOf (key : Nat) : Nat := key / 3072
/-- The cluster of the package of a core (R1: 4 cores to a cluster). -/
def clusterOf (core : Nat) : Nat := core / 4

/-- The resident gang of a slot (R101). -/
def State.gangAt (s : State) (key : Nat) : Gang := (s.gangs.find? fun g => g.key == key).getD Gang.absent

/-- A slot holds a resident gang. -/
def State.resident (s : State) (key : Nat) : Bool := s.gangs.any fun g => g.key == key

/-- The gang of the issue in progress. -/
def State.cg (s : State) : Gang := s.gangAt s.cur.gang

/-- The thread of a lane. -/
def Gang.lane (g : Gang) (k : Nat) : Thread := g.threads.getD k Thread.absent

/-- The thread of a lane of the issuing gang. -/
def State.cl (s : State) (k : Nat) : Thread := s.cg.lane k

/-- Change the gang of a slot. -/
def State.onGang (s : State) (key : Nat) (f : Gang → Gang) : State :=
  { s with gangs := s.gangs.map fun g => if g.key = key then f g else g }

/-- Change the threads of a mask, lane by lane, from lane k on. -/
def mapLanes (m : Mask) (f : Nat → Thread → Thread) : Nat → List Thread → List Thread
  | _, [] => []
  | k, t :: ts => (if m.getLsbD k then f k t else t) :: mapLanes m f (k + 1) ts

/-- Change the threads of a mask of a gang: the one operation through which a lane's state changes. -/
def Gang.onLanes (g : Gang) (m : Mask) (f : Nat → Thread → Thread) : Gang := { g with threads := mapLanes m f 0 g.threads }

/-- Change the threads of a mask of the gang of a slot. -/
def State.onLanes (s : State) (key : Nat) (m : Mask) (f : Nat → Thread → Thread) : State :=
  s.onGang key fun g => g.onLanes m f

/-- Change one thread. -/
def State.onThread (s : State) (key k : Nat) (f : Thread → Thread) : State := s.onLanes key (laneMask k) fun _ t => f t

/-- A d register; d0 reads 0 (R22). -/
def Thread.getD (t : Thread) (n : Nat) : Word := if n = 0 then 0 else SMap.get 0 t.d n

/-- No fixed-latency result of a register is on its way any more: another write has taken its place (R26). -/
def Thread.forget (t : Thread) (r : Dest) : Thread := { t with tracked := t.tracked.filter fun x => x.reg != r }

/-- Write a d register and set its valid bit (R73); a write to d0 is discarded (R22). -/
def Thread.setD (t : Thread) (n : Nat) (v : Word) : Thread :=
  if n = 0 then t else { t.forget (.d n) with d := SMap.set 0 t.d n v, dValid := t.dValid ||| BitVec.ofNat 128 (2 ^ n) }

/-- A predicate; p7 reads true (R22). -/
def Thread.getP (t : Thread) (n : Nat) : Bool := n == 7 || t.p.getLsbD n

/-- Write a predicate; a write to p7 is discarded (R22). -/
def Thread.setP (t : Thread) (n : Nat) (b : Bool) : Thread :=
  if 7 ≤ n then t
  else { t.forget (.p n) with p := if b then t.p ||| BitVec.ofNat 7 (2 ^ n) else t.p &&& ~~~(BitVec.ofNat 7 (2 ^ n)) }

/-- A reference register (R236). -/
def Thread.getH (t : Thread) (n : Nat) : Word := SMap.get 0 t.h n

/-- Write a reference register. -/
def Thread.setH (t : Thread) (n : Nat) (v : Word) : Thread := { t with h := SMap.set 0 t.h n v }

/-- A g register; g0 reads 0 (R22). -/
def Gang.getG (g : Gang) (n : Nat) : Word := if n = 0 then 0 else SMap.get 0 g.g n

/-- Write a g register and set its valid bit (R73); a write to g0 is discarded (R22). A write of software's own ends a failed
token (R77). -/
def Gang.setG (g : Gang) (n : Nat) (v : Word) : Gang :=
  if n = 0 then g
  else { g with g := SMap.set 0 g.g n v, gValid := g.gValid ||| BitVec.ofNat 128 (2 ^ n), gFailed := g.gFailed.filter (·.1 ≠ n),
                tokenEnd := g.tokenEnd.filter (·.1 ≠ n) }

/-- A result in a g register takes the place of every earlier one that is still on its way to it (R26). -/
def Gang.resultG (g : Gang) (n : Nat) (v : Word) : Gang :=
  let g := g.setG n v
  { g with threads := g.threads.map fun t => t.forget (.g n) }

/-- A member mask (R108). -/
def Gang.getM (g : Gang) (n : Nat) : Mask := SMap.get 0 g.m n

/-- An arrival mask (R108). -/
def Gang.getA (g : Gang) (n : Nat) : Mask := SMap.get 0 g.arrive n

/-- Write a member mask. -/
def Gang.setM (g : Gang) (n : Nat) (v : Mask) : Gang := { g with m := SMap.set 0 g.m n v }

/-- Write an arrival mask. -/
def Gang.setA (g : Gang) (n : Nat) (v : Mask) : Gang := { g with arrive := SMap.set 0 g.arrive n v }

/-- PMOV.get: p0 to p6 in bits [6:0], bit 7 set (R188). -/
def Thread.preds (t : Thread) : Word := word (t.p.toNat + 128)

/-- The lanes that have exited, or that hold no thread (R103). -/
def Gang.exited (g : Gang) : Mask := maskOf fun k => (g.lane k).cond == .exited

/-- The lanes that have not exited. -/
def Gang.live (g : Gang) : Mask := maskOf fun k => (g.lane k).cond != .exited

/-- Every other lane of a widening has exited (R139, R140). -/
def Gang.alone (g : Gang) : Bool := g.live &&& ~~~(laneMask 0) == 0

/-- A thread may be widened (R138): it came by migration, every other lane of its gang has exited, and the gang is not widened. -/
def Gang.eligible (g : Gang) : Bool := g.byCrossing && g.widened.isNone && g.alone

/-- The lanes of the bundle that a lane belongs to (R104). -/
def Gang.bundleOf (g : Gang) (k : Nat) : Mask :=
  maskOf fun j => (g.lane j).cond == .runnable && (g.lane j).bundle == (g.lane k).bundle && (g.lane k).bundle != none

/-- Free value k of this step (assumption 2): no two steps and no two k share one. -/
def State.free (s : State) (k : Nat) : Word := Config.freeWord (s.freeCtr * 65536 + k)

/-- Free truth value k of this step (assumption 2). -/
def State.freeBool (s : State) (k : Nat) : Bool := Config.freeBit (s.freeCtr * 65536 + k)

/-- The launch with a number. -/
def State.launchOf (s : State) (n : Nat) : Option Launch := s.launches.find? fun l => l.num == n

/-- A launch as a die knows it: with the packet that the die read (R319). -/
def Launch.on (l : Launch) (die : Nat) : Launch :=
  match l.reads.find? fun r => r.1 == die with
  | some r => { l with packet := r.2 }
  | none => l

/-- The launch with a number, as a die knows it. -/
def State.launchOn (s : State) (n die : Nat) : Option Launch := (s.launchOf n).map fun l => l.on die

/-- Change a launch. -/
def State.onLaunch (s : State) (n : Nat) (f : Launch → Launch) : State :=
  { s with launches := s.launches.map fun l => if l.num = n then f l else l }

/-- A die. -/
def State.die (s : State) (d : Nat) : Die := SMap.get Die.reset s.dies d

/-- Change a die. -/
def State.onDie (s : State) (d : Nat) (f : Die → Die) : State := { s with dies := SMap.set Die.reset s.dies d (f (s.die d)) }

/-- The world of a partition (R358, R373). -/
def State.worldOf (s : State) (part : Nat) : Nat := SMap.get 0 s.worlds part

/-- A thread runs privileged (R268, R344). -/
def Thread.priv (t : Thread) : Bool := t.mode != .user

end Sys2Proof.Machine
end

