-- ==== Sys2Proof/Machine/Flags.lean ====
section
/-! DEFINITION. The sticky flags of a thread (R50, R51, R56) and the STATUS register that shows them (R360). -/

namespace Sys2Proof.Machine

/-- The flags of one step, in the order of STATUS [4:0] (R360: nv, dz, of, uf, nx; nv is bit 4). -/
structure FFlags where
  nv : Bool := false
  dz : Bool := false
  ovf : Bool := false
  uf : Bool := false
  nx : Bool := false
  deriving DecidableEq, Repr

/-- No flag. -/
def FFlags.clear : FFlags := {}

/-- Flags of either step. -/
def FFlags.or (a b : FFlags) : FFlags :=
  { nv := a.nv || b.nv, dz := a.dz || b.dz, ovf := a.ovf || b.ovf, uf := a.uf || b.uf, nx := a.nx || b.nx }

/-- The flags as STATUS [4:0]: the field lists nv, dz, of, uf, nx, the first in bit 4 (assumption 9). -/
def FFlags.bits (f : FFlags) : BitVec 5 :=
  BitVec.ofNat 5 (bit f.nv * 16 + bit f.dz * 8 + bit f.ovf * 4 + bit f.uf * 2 + bit f.nx)

/-- Raise flags in a thread: they are sticky (R50, R51). -/
def Thread.raise (t : Thread) (f : FFlags) : Thread := { t with fflags := t.fflags ||| f.bits }

/-- Record that a reserved dyad code was decoded (R56). -/
def Thread.sawReserved (t : Thread) (b : Bool) : Thread := { t with dyReserved := t.dyReserved || b }

/-- STATUS: priv [15], dy_reserved [5], fflags [4:0] (R360). -/
def Thread.status (t : Thread) : Word := word (bit t.priv * 2 ^ 15 + bit t.dyReserved * 2 ^ 5 + t.fflags.toNat)

/-- A write of STATUS: only fflags and dy_reserved take it (R348, R360). -/
def Thread.setStatus (t : Thread) (v : Word) : Thread :=
  { t with fflags := BitVec.ofNat 5 v.toNat, dyReserved := Word.flag v 5 }

end Sys2Proof.Machine
end

