-- ==== Sys2Proof/Machine/Float.lean ====
section
/-! DEFINITION. Number formats and rounding (R45 to R59, R169 to R174): every value is decoded to an exact dyadic number, every step is
formed exactly and rounded once. -/

namespace Sys2Proof.Machine

/-- A format: exponent bits, fraction bits, and whether it is K8, which has no infinity and no negative zero (R46, R52). -/
structure Fmt where
  eb : Nat
  mb : Nat
  k8 : Bool := false
  deriving DecidableEq, Repr

def Fmt.f64 : Fmt := { eb := 11, mb := 52 }
def Fmt.f32 : Fmt := { eb := 8, mb := 23 }
def Fmt.f16 : Fmt := { eb := 5, mb := 10 }
def Fmt.bf16 : Fmt := { eb := 8, mb := 7 }
def Fmt.kay8 : Fmt := { eb := 4, mb := 3, k8 := true }

/-- The format of a type; only the IEEE types, BF16 and K8 have one. -/
def Fmt.of : Ty → Fmt
  | .f64 => .f64
  | .f16 => .f16
  | .bf16 => .bf16
  | .k8 => .kay8
  | _ => .f32

/-- The exponent bias (R46, R52: 7 for K8). -/
def Fmt.bias (f : Fmt) : Nat := 2 ^ (f.eb - 1) - 1
/-- The width in bits. -/
def Fmt.width (f : Fmt) : Nat := 1 + f.eb + f.mb
/-- The exponent of the unit in the last place of subnormals. -/
def Fmt.qmin (f : Fmt) : Int := 1 - (f.bias : Int) - f.mb
/-- The bits of infinity, or one more than the largest finite code of K8. -/
def Fmt.infBits (f : Fmt) : Nat := if f.k8 then 2 ^ (f.eb + f.mb) else (2 ^ f.eb - 1) * 2 ^ f.mb
/-- The sign bit. -/
def Fmt.signBit (f : Fmt) (neg : Bool) : Nat := if neg then 2 ^ (f.eb + f.mb) else 0
/-- The canonical NaN (R47); 0x80 for K8 (R52). -/
def Fmt.nan (f : Fmt) : Nat := if f.k8 then 0x80 else f.infBits + 2 ^ (f.mb - 1)
/-- A zero of a sign; K8 has only one (R52). -/
def Fmt.zero (f : Fmt) (neg : Bool) : Nat := if f.k8 then 0 else f.signBit neg
/-- An infinity; the saturated code for K8 (R54). -/
def Fmt.inf (f : Fmt) (neg : Bool) : Nat := f.signBit neg + (if f.k8 then f.infBits - 1 else f.infBits)
/-- The largest finite value of a sign. -/
def Fmt.largest (f : Fmt) (neg : Bool) : Nat := f.signBit neg + f.infBits - 1

/-- A decoded value: a NaN, an infinity, or (−1)^neg · m · 2^e exactly (m = 0: a zero of that sign). -/
inductive FV where
  | nan (signalling : Bool)
  | inf (neg : Bool)
  | fin (neg : Bool) (m : Nat) (e : Int)
  deriving DecidableEq, Repr

/-- Decode an element of a format (R46, R52). -/
def Fmt.decode (f : Fmt) (bits : Nat) : FV :=
  let b := bits % 2 ^ f.width
  let neg := 2 ^ (f.eb + f.mb) ≤ b
  let ex := b / 2 ^ f.mb % 2 ^ f.eb
  let fr := b % 2 ^ f.mb
  if f.k8 then
    if b = 0x80 then .nan false
    else if ex = 0 then .fin neg fr f.qmin else .fin neg (2 ^ f.mb + fr) (f.qmin + (ex - 1 : Nat))
  else if ex = 2 ^ f.eb - 1 then
    if fr = 0 then .inf neg else .nan (fr < 2 ^ (f.mb - 1))
  else if ex = 0 then .fin neg fr f.qmin
  else .fin neg (2 ^ f.mb + fr) (f.qmin + (ex - 1 : Nat))

/-- One term of a DY8 byte in units of 1/64 (R55); the reserved code 0xF counts as zero (R56). -/
def dyTerm (c : Nat) : Int :=
  let v : Int := if c % 8 = 7 then 0 else (2 ^ (6 - c % 8) : Nat)
  if 8 ≤ c % 16 then -v else v

/-- A DY8 byte: the exact sum of its terms (R55). -/
def dyDecode (b : Nat) : FV :=
  let v := dyTerm (b / 16 % 16) + dyTerm (b % 16)
  .fin (v < 0) v.natAbs (-6)

/-- A DY8 byte holds a reserved term code (R56). -/
def dyReserved (b : Nat) : Bool := b % 16 == 15 || b / 16 % 16 == 15

/-- An E8S byte: the scale 2^(e−127), or a quiet NaN (R59). -/
def e8sDecode (b : Nat) : FV := if b % 256 = 0xFF then .nan false else .fin false 1 ((b % 256 : Nat) - 127 : Int)

/-- Sub-element k of a word, of width w (R30). -/
def sub (v : Word) (w k : Nat) : Nat := v.toNat / 2 ^ (w * k) % 2 ^ w

/-- Decode an element of a type: integers by their signedness, DY8, E8S and the formats (R45 to R59). -/
def decodeTy (t : Ty) (bits : Nat) : FV :=
  match t with
  | .dy8 => dyDecode bits
  | .e8s => e8sDecode bits
  | .i8 | .i16 | .i32 | .i64 =>
    let b := bits % 2 ^ t.width
    if 2 ^ (t.width - 1) ≤ b then .fin true (2 ^ t.width - b) 0 else .fin false b 0
  | .n8 | .n16 | .n32 | .n64 | .b64 => .fin false (bits % 2 ^ t.width) 0
  | _ => (Fmt.of t).decode bits

/-- The number of bits of a natural number. -/
def bitLen (n : Nat) : Nat := if n = 0 then 0 else Nat.log2 n + 1

/-- Shift a natural number left by an integer count; a right shift drops bits. -/
def shiftInt (m : Nat) (n : Int) : Nat := if 0 ≤ n then m * 2 ^ n.toNat else m / 2 ^ (-n).toNat

/-- Whether a remainder of a division by 2^sh rounds the quotient up (R33). -/
def roundsUp (r : Rnd) (neg : Bool) (quot rem half : Nat) : Bool :=
  match r with
  | .rne => half < rem || (rem == half && rem != 0 && quot % 2 == 1)
  | .rtz => false
  | .rdn => neg && rem != 0
  | .rup => !neg && rem != 0

/-- Round m · 2^e once, or a value strictly between m · 2^e and (m+1) · 2^e when sticky is set (R49, R50, R54). A sticky m must have at
least mb + 2 bits more than the format keeps. -/
def Fmt.round (f : Fmt) (r : Rnd) (sat neg : Bool) (m : Nat) (e : Int) (sticky : Bool) : Nat × FFlags :=
  let m4 := 4 * m + bit sticky
  let e4 := e - 2
  let q := max (e4 + (bitLen m4 : Int) - 1 - f.mb) f.qmin
  let sh := (q - e4).toNat
  let scaled := shiftInt m4 (e4 - q)
  let rem := if e4 < q then m4 % 2 ^ sh else 0
  let n := scaled + bit (roundsUp r neg scaled rem (2 ^ sh / 2))
  let n' := if n = 2 ^ (f.mb + 1) then 2 ^ f.mb else n
  let q' := if n = 2 ^ (f.mb + 1) then q + 1 else q
  let mag := if n' < 2 ^ f.mb then n' else (q' - f.qmin + 1).toNat * 2 ^ f.mb + (n' - 2 ^ f.mb)
  let nx := rem != 0
  if f.infBits ≤ mag then
    let away := match r with
      | .rne => true
      | .rtz => false
      | .rdn => neg
      | .rup => !neg
    (if sat || f.k8 || !away then f.largest neg else f.inf neg, { ovf := true, nx := true })
  else
    (if mag = 0 then f.zero neg else f.signBit neg + mag, { nx := nx, uf := nx && decide (n' < 2 ^ f.mb) })

/-- Deliver an exact value in a format: NaN, infinity, zero, or one rounding (R47, R49). Infinity into K8 overflows (R54). -/
def Fmt.deliver (f : Fmt) (r : Rnd) (sat : Bool) : FV → Nat × FFlags
  | .nan sg => (f.nan, { nv := sg })
  | .inf neg => (f.inf neg, if f.k8 then { ovf := true, nx := true } else {})
  | .fin neg m e => if m = 0 then (f.zero neg, {}) else f.round r sat neg m e false

/-- A signed dyadic number as an integer multiple of 2^e. -/
def FV.signed (neg : Bool) (m : Nat) : Int := if neg then -(m : Int) else m

/-- The value is a signalling NaN. -/
def FV.snan : FV → Bool
  | .nan s => s
  | _ => false

/-- The value is a NaN. -/
def FV.isNan : FV → Bool
  | .nan _ => true
  | _ => false

/-- The sign (of a NaN: clear). -/
def FV.neg : FV → Bool
  | .nan _ => false
  | .inf n => n
  | .fin n _ _ => n

/-- Negate a value. -/
def FV.negate : FV → FV
  | .nan s => .nan s
  | .inf n => .inf !n
  | .fin n m e => .fin (!n) m e

/-- The exact product; an infinity times a zero is invalid: a signalling NaN stands for it (R170). -/
def FV.mul : FV → FV → FV
  | .nan s, y => .nan (s || y.snan)
  | x, .nan s => .nan (x.snan || s)
  | .inf a, .inf b => .inf (a != b)
  | .inf a, .fin b m _ => if m = 0 then .nan true else .inf (a != b)
  | .fin a m _, .inf b => if m = 0 then .nan true else .inf (a != b)
  | .fin a m e, .fin b n f => .fin (a != b) (m * n) (e + f)

/-- The exact sum of two finite values, with the sign of a zero sum (R170, R410). -/
def addFin (r : Rnd) (a : Bool) (m : Nat) (e : Int) (b : Bool) (n : Nat) (f : Int) : FV :=
  let g := min e f
  let v := FV.signed a (shiftInt m (e - g)) + FV.signed b (shiftInt n (f - g))
  if v = 0 then .fin (if m = 0 ∧ n = 0 ∧ a = b then a else r == .rdn) 0 0 else .fin (v < 0) v.natAbs g

/-- The exact sum; ∞ − ∞ is invalid (R170). -/
def FV.add (r : Rnd) : FV → FV → FV
  | .nan s, y => .nan (s || y.snan)
  | x, .nan s => .nan (x.snan || s)
  | .inf a, .inf b => if a = b then .inf a else .nan true
  | .inf a, .fin _ _ _ => .inf a
  | .fin _ _ _, .inf b => .inf b
  | .fin a m e, .fin b n f => addFin r a m e b n f

/-- The exact product of two operands: a zero product with an operand of a type without a negative zero is +0 (R410). -/
def productOf (t : Ty) (x y : FV) : FV :=
  match x.mul y with
  | .fin n m e => if m = 0 ∧ !t.isFloat then .fin false 0 0 else .fin n m e
  | v => v

/-- The exact sum of a list of values, its zero sign decided over all its terms (R61, R62, R65, R410): terms that are zeros of one sign
give that sign, anything else that sums to zero is +0, or −0 in RDN. -/
def sumAll (r : Rnd) (vs : List FV) : FV :=
  let infs := vs.filterMap fun v => match v with | .inf n => some n | _ => none
  if vs.any FV.isNan then .nan (vs.any FV.snan || infs.contains true && infs.contains false)
  else
    match infs with
    | n :: ns => if ns.all (· == n) then .inf n else .nan true
    | [] =>
      let g := vs.foldl (fun g v => match v with | .fin _ _ e => min g e | _ => g) 0
      let total := vs.foldl (fun acc v => match v with | .fin n m e => acc + FV.signed n (shiftInt m (e - g)) | _ => acc) (0 : Int)
      if total = 0 then
        let zero := fun (want : Bool) => vs.all fun v => match v with | .fin n m _ => m == 0 && n == want | _ => false
        .fin (if zero true then !vs.isEmpty else if zero false then false else r == .rdn) 0 0
      else .fin (total < 0) total.natAbs g

/-- Compare two values that are not NaN, −0 below +0 only when asked (R48, R187). -/
def FV.lt (zeros : Bool) : FV → FV → Bool
  | .inf a, .inf b => a && !b
  | .inf a, _ => a
  | _, .inf b => !b
  | .fin a m e, .fin b n f =>
    let g := min e f
    let x := FV.signed a (shiftInt m (e - g))
    let y := FV.signed b (shiftInt n (f - g))
    if x = 0 ∧ y = 0 then zeros && a && !b else decide (x < y)
  | _, _ => false

/-- Equality of two values that are not NaN, −0 equal to +0 (R187). -/
def FV.same (x y : FV) : Bool := !x.lt false y && !y.lt false x

/-- Divide once-rounded (R169, R170): ∞/∞ and 0/0 are invalid, a finite nonzero value by zero raises dz. -/
def Fmt.div (f : Fmt) (r : Rnd) (sat : Bool) (x y : FV) : Nat × FFlags :=
  match x, y with
  | .nan s, y => (f.nan, { nv := s || y.snan })
  | x, .nan s => (f.nan, { nv := x.snan || s })
  | .inf _, .inf _ => (f.nan, { nv := true })
  | .inf a, .fin b _ _ => (f.inf (a != b), {})
  | .fin a _ _, .inf b => (f.zero (a != b), {})
  | .fin a m e, .fin b n g =>
    if n = 0 then (if m = 0 then (f.nan, { nv := true }) else (f.inf (a != b), { dz := true }))
    else if m = 0 then (f.zero (a != b), {})
    else
      let k := bitLen n + f.mb + 6
      f.round r sat (a != b) (m * 2 ^ k / n) (e - g - k) (m * 2 ^ k % n != 0)

/-- Square root once-rounded (R169, R170). -/
def Fmt.sqrt (f : Fmt) (r : Rnd) (sat : Bool) (x : FV) : Nat × FFlags :=
  match x with
  | .nan s => (f.nan, { nv := s })
  | .inf neg => if neg then (f.nan, { nv := true }) else (f.inf false, {})
  | .fin neg m e =>
    if m = 0 then (f.zero neg, {})
    else if neg then (f.nan, { nv := true })
    else
      let k := 2 * (f.mb + 6) + (e % 2).toNat
      let v := m * 2 ^ k
      f.round r sat false (Nat.sqrt v) ((e - k) / 2) (Nat.sqrt v * Nat.sqrt v != v)

/-- FRCP (R171): rounded once in RNE; a result below the smallest normal magnitude gives a zero. -/
def Fmt.rcp (f : Fmt) (sat : Bool) (x : FV) : Nat × FFlags :=
  match x with
  | .nan s => (f.nan, { nv := s })
  | .inf neg => (f.zero neg, {})
  | .fin neg m e =>
    if m = 0 then (f.inf neg, { dz := true })
    else
      let k := bitLen m + f.mb + 6
      -- 1/a = (2^k / m) · 2^(−e−k); it is below the smallest normal 2^(qmin + mb) exactly when 2^(k) < m · 2^(qmin + mb + e + k)
      let below := (-e - (f.qmin + f.mb) : Int) < 0 || decide (2 ^ (-e - (f.qmin + f.mb)).toNat < m)
      if below then (f.zero neg, { uf := true, nx := true })
      else f.round .rne sat neg (2 ^ k / m) (-e - k) (2 ^ k % m != 0)

/-- FRSQ (R171). -/
def Fmt.rsq (f : Fmt) (sat : Bool) (x : FV) : Nat × FFlags :=
  match x with
  | .nan s => (f.nan, { nv := s })
  | .inf neg => if neg then (f.nan, { nv := true }) else (f.zero false, {})
  | .fin neg m e =>
    if m = 0 then (f.inf neg, { dz := true })
    else if neg then (f.nan, { nv := true })
    else
      let k := bitLen m + 2 * (f.mb + 6)
      let j := k + (k + (e % 2).toNat) % 2
      -- j + e is even; 1/√(m·2^e) = √(2^j / m) · 2^(−(j+e)/2)
      let v := 2 ^ j / m
      f.round .rne sat false (Nat.sqrt v) (-(j + e) / 2) (2 ^ j % m != 0 || Nat.sqrt v * Nat.sqrt v != v)

/-- Round to an integral value (R172): the magnitude and whether it changed. -/
def integral (r : Rnd) (neg : Bool) (m : Nat) (e : Int) : Nat × Bool :=
  if 0 ≤ e then (m * 2 ^ e.toNat, false)
  else
    let sh := (-e).toNat
    let q := m / 2 ^ sh
    let rem := m % 2 ^ sh
    (q + bit (roundsUp r neg q rem (2 ^ sh / 2)), rem != 0)

/-- FRND (R172). -/
def Fmt.rint (f : Fmt) (r : Rnd) (x : FV) : Nat × FFlags :=
  match x with
  | .nan s => (f.nan, { nv := s })
  | .inf neg => (f.inf neg, {})
  | .fin neg m e =>
    let (n, nx) := integral r neg m e
    if n = 0 then (f.zero neg, { nx := nx }) else ((f.round r false neg n 0 false).1, { nx := nx })

/-- FTOI of one element: clamped to the destination, nv alone for a NaN or a value out of range (R173). -/
def toInt (t : Ty) (r : Rnd) (x : FV) : Nat × FFlags :=
  let w := t.width
  let lo : Int := if t.signed then -(2 ^ (w - 1) : Nat) else 0
  let hi : Int := if t.signed then (2 ^ (w - 1) : Nat) - 1 else (2 ^ w : Nat) - 1
  let wrap := fun (v : Int) => (v % (2 ^ w : Nat)).toNat
  match x with
  | .nan _ => (0, { nv := true })
  | .inf neg => (wrap (if neg then lo else hi), { nv := true })
  | .fin neg m e =>
    if 80 < e + bitLen m then (wrap (if m = 0 then 0 else if neg then lo else hi), { nv := m != 0 })
    else
      let (n, nx) := integral r neg m e
      let v := FV.signed neg n
      if v < lo then (wrap lo, { nv := true })
      else if hi < v then (wrap hi, { nv := true })
      else (wrap v, { nx := nx })

/-- FSCALE (R174): the count is clamped where every result is the same. -/
def Fmt.scale (f : Fmt) (r : Rnd) (sat : Bool) (x : FV) (b : Int) : Nat × FFlags :=
  let c : Int := max (-8000) (min 8000 b)
  match x with
  | .fin neg m e => f.deliver r sat (.fin neg m (e + c))
  | v => f.deliver r sat v

/-- FCLASS (R174): one bit of a natural number. -/
def Fmt.classify (f : Fmt) (bits : Nat) : Nat :=
  match f.decode bits with
  | .nan s => if s then 2 ^ 8 else 2 ^ 9
  | .inf neg => if neg then 2 ^ 0 else 2 ^ 7
  | .fin neg m _ =>
    if m = 0 then (if neg then 2 ^ 3 else 2 ^ 4)
    else if m < 2 ^ f.mb then (if neg then 2 ^ 2 else 2 ^ 5)
    else (if neg then 2 ^ 1 else 2 ^ 6)

/-- FGETEXP (R174), as bits of width w. -/
def Fmt.getExp (f : Fmt) (x : FV) : Nat × FFlags :=
  let w := f.width
  match x with
  | .nan s => (2 ^ (w - 1) - 1, { nv := s })
  | .inf _ => (2 ^ (w - 1) - 1, {})
  | .fin _ m e =>
    if m = 0 then (2 ^ (w - 1), { dz := true })
    else (((e + bitLen m - 1) % (2 ^ w : Nat)).toNat, {})

/-- FMIN and FMAX (R48). -/
def Fmt.pick (f : Fmt) (isMax : Bool) (a b : Nat) : Nat × FFlags :=
  let x := f.decode a
  let y := f.decode b
  if x.isNan || y.isNan then (f.nan, { nv := x.snan || y.snan })
  else (if (if isMax then x.lt true y else y.lt true x) then b else a, {})

end Sys2Proof.Machine
end

