-- ==== Sys2Proof/Machine/Moments.lean ====
section
/-! DEFINITION. Moments of package time (R5): the energy windows of a die (R324, R325) and the refresh windows of its weight store (R96). -/

namespace Sys2Proof.Machine

/-- A step of a unit that happens at a moment brings package time there (R5). -/
def State.bring (s : State) (t : Nat) : State := { s with gtime := max s.gtime t }

/-- The moment that the 64 bits of a time name, as seen from a moment: package time has 64 bits (R1), and beyond their end they begin again. 0 names the
beginning: it is what a thread that has written nothing has in hzn (R100). -/
def momentOf (now : Nat) (t : Word) : Nat :=
  let m := now / 2 ^ 64 * 2 ^ 64 + t.toNat
  if t = 0 then 0
  else if m + 2 ^ 64 ≤ now + 2 ^ 32 then m + 2 ^ 64 else if now + 2 ^ 63 < m ∧ 2 ^ 64 ≤ m then m - 2 ^ 64 else m

/-- A write completion time enters a thread's hzn (R157, R217). -/
def Thread.horizon (t : Thread) (w : Nat) : Thread := { t with hzn := word (max (momentOf w t.hzn) w) }

/-- The latest write completion time that the threads of a core stand at (R196, R205). -/
def State.coreHorizon (s : State) (core : Nat) : Nat :=
  (s.gangs.filter fun g => coreOf g.key == core).foldl
    (fun n g => (List.range 32).foldl (fun n k => max n (momentOf s.gtime (g.lane k).hzn)) n) (SMap.get 0 s.coreHzn core)

/-- What a core's threads have stored so far happens before a thread that goes on (R112, R138, R139, R152, R154, R196, R201): a release of the thread
publishes it too. -/
def Thread.sync (t : Thread) (clock horizon : Nat) : Thread := { t with synced := clock, seen := max t.seen horizon }

/-- A global write of a core is performed: releases that it happens before wait for its completion time (R196). -/
def State.performed (s : State) (core issued w : Nat) : State :=
  { s with recent := (core, issued, w) :: s.recent.filter fun e => decide (s.gtime < e.2.2 + 2 ^ 16) }

/-- The number of the energy window that holds a moment (R324). -/
def windowOf (t : Nat) : Nat := t / 1000000

/-- What a die has drawn in the window of a moment (R324). -/
def Die.usedAt (d : Die) (t : Nat) : Word := if d.enUsed = 0 then 0 else if d.enWindow = windowOf t then d.enUsed else 0

/-- ENUSED of a die (R324): 0 from the moment at which a window starts. -/
def State.enUsed (s : State) (die : Nat) : Word := (s.die die).usedAt s.gtime

/-- A die issues nothing (R325): ENUSED has reached ENBUDGET in this window. -/
def State.issueStopped (s : State) (die : Nat) : Bool :=
  let d := s.die die
  (d.issueStopped && d.enWindow == windowOf s.gtime) || decide (d.enBudget.toNat ≤ (s.enUsed die).toNat)

/-- ENBUDGET of a die changes (R325, R362): a die that had reached the old value stays stopped until the next window. -/
def State.setBudget (s : State) (die : Nat) (v : Word) : State :=
  s.onDie die fun d =>
    { d with enBudget := v, enUsed := s.enUsed die, issueStopped := s.issueStopped die, enWindow := windowOf s.gtime }

/-- How far a moment lies past another, if that has been reached. -/
def past (gtime start : Nat) : Option Nat := if start ≤ gtime then some (gtime - start) else none

/-- The weight store of a die is in a refresh window (R96). -/
def State.refreshNow (s : State) (die : Nat) : Bool :=
  let d := s.die die
  d.inWindow || (d.refreshValid && match past s.gtime d.nextStart with
    | some n => decide (n % d.refreshPeriod.toNat < d.refreshLen.toNat)
    | none => false)

/-- next_start as WSREFR shows it, bits [31:0] (R96): it advances by the period at each window start. -/
def State.nextStart (s : State) (die : Nat) : BitVec 32 :=
  let d := s.die die
  BitVec.ofNat 32 (if !d.refreshValid then d.nextStart
    else match past s.gtime d.nextStart with
      | some n => d.nextStart + (n / d.refreshPeriod.toNat + 1) * d.refreshPeriod.toNat
      | none => d.nextStart)

end Sys2Proof.Machine
end

