-- ==== Sys2Proof/Machine/Memory.lean ====
section
/-! DEFINITION. Global memory by physical address: bytes, the view of a core's L1, the home of a line, and the violation logs of
the blocks that refuse accesses. Every write of global memory goes through State.poke. -/

namespace Sys2Proof.Machine

/-- The canonical form of memory: addresses strictly rising, no cell equal to what an unlisted address reads as (0, assumption 1). -/
def Memory.wf (m : List Host.Cell) : Bool := SMap.wf 0 m

/-- The byte of memory at a physical address (R194). -/
def State.peek (s : State) (pa : Nat) : Byte := SMap.get 0 s.mem pa

/-- n bytes of memory from a physical address, lowest first (R4). -/
def State.peekList (s : State) (pa n : Nat) : List Byte := SMap.getList 0 s.mem pa n

/-- Write bytes of memory from a physical address. While a group reduction is open, the bytes written are noted (R250). -/
def State.poke (s : State) (pa : Nat) (bs : List Byte) : State :=
  { s with
    mem := SMap.setList 0 s.mem pa bs
    dirty := if s.greds.isEmpty then [] else (pa, bs.length, s.clock) :: s.dirty }

/-- Write cells of memory. -/
def State.pokeCells (s : State) : List Host.Cell → State
  | [] => s
  | c :: cs => (s.poke c.1 [c.2]).pokeCells cs

/-- The 8 bytes of memory at a physical address as a word (R4). -/
def State.peekWord (s : State) (pa : Nat) : Word := word (leNat (s.peekList pa 8))

/-- The 128-byte line of a physical address. -/
def lineOf (pa : Nat) : Nat := pa / 128

/-- The owning service gang of a word, as a cluster of the package (R242): the die whose stacks hold the line, and c. The manual
gives the die of TSM lines no map of its own, so n mod 4 serves for every line (assumption 8). -/
def ownerOf (pa : Nat) : Nat :=
  let n := pa / 128 % 2 ^ 41
  12 * (n % 4) + (n % 4096 ^^^ (n / 4096 % 4096) ^^^ (n / 2 ^ 24 % 4096)) % 12

/-- An address lies in one of some ranges, each an address with a length. -/
def inSpans (rs : List (Nat × Nat)) (pa : Nat) : Bool := rs.any fun r => decide (r.1 ≤ pa) && decide (pa < r.1 + r.2)

/-- An address of another device's memory, reached over Wilkan links: no L1 and no L2 of this package holds it (R211). -/
def State.remoteAt (s : State) (pa : Nat) : Bool := inSpans s.platform.remote pa

/-- A line of CXL pool memory (R216, R279). -/
def State.poolLine (s : State) (line : Nat) : Bool := inSpans s.platform.pool (line * 128)

/-- The device pages (R364, R366): the hub's control page, and the page of each port's interface controller; who refuses an access there, and where it
begins. -/
def Platform.pages (p : Platform) : List (LogOwner × Nat) :=
  (p.control.toList.map fun a => (LogOwner.hub, a)) ++ p.windows.zipIdx.map fun w => (.tdisp w.2, w.1)

/-- The device page of an address, and the offset in it. -/
def State.ioPage (s : State) (pa : Nat) : Option (LogOwner × Nat) :=
  (s.platform.pages.find? fun p => decide (p.2 ≤ pa) && decide (pa < p.2 + 4096)).map fun p => (p.1, pa - p.2)

/-- A device page refuses a load or store (R364, R367): of a world other than 0; on the control page also of user mode, and any that is not 8 bytes
naturally aligned. A controller page takes every naturally aligned size (DESIGN CHOICE, assumption 59). -/
def pageRefuses (owner : LogOwner) (world : Nat) (priv : Bool) (off n : Nat) : Bool :=
  world != 0 || off % n != 0 || (owner == .hub && (!priv || n != 8))

/-- Who logs an error response of a line: its home, or the block of a device page. -/
def State.lineOwner (s : State) (line : Nat) : LogOwner :=
  match s.ioPage (line * 128) with
  | some p => p.1
  | none => .home (ownerOf (line * 128))

/-- A store of a thread to a device page has not completed (R367). -/
def State.pageStoring (s : State) (key k : Nat) : Bool := s.stores.any fun t => t.gang == key && t.lane == k && !t.bank && (s.ioPage t.pa).isSome

/-- Two ranges of bytes meet. -/
def meets (a n b m : Nat) : Bool := decide (a < b + m) && decide (b < a + n)

/-- A store takes its place at the present GTIME, or, where another store already has on one of its bytes, at the next: no two stores to one
location share a perform time (R205). -/
def State.placeAt (s : State) (pa n : Nat) : State :=
  if s.placedAt.any fun r => meets r.2.1 r.2.2 pa n && r.1 == s.gtime then
    { s with gtime := s.gtime + 1, placedAt := [(s.gtime + 1, pa, n)] }
  else { s with placedAt := (s.gtime, pa, n) :: s.placedAt }

/-- A line lies in a frame of a page that the migration engine moves: stores are held (R275). -/
def State.inMove (s : State) (line : Nat) : Bool :=
  s.migrations.any fun m =>
    m.holdUntil.isNone && (meets (m.source * 4096) (2 ^ m.bits) (line * 128) 128 || meets (m.dest * 4096) (2 ^ m.bits) (line * 128) 128)

/-- A store that is on its way shows its bytes at an address to the agents of a core (R201). -/
def PStore.shows (t : PStore) (core pa : Nat) : Bool :=
  !t.bank && t.core == core && decide (t.pa ≤ pa) && decide (pa < t.pa + t.bytes.length)

/-- The value of a byte as a core's L1 shows it: the core's latest store that is not yet at the home, else memory (R201); of another device's
memory, which no L1 holds, what its home has (R211). -/
def State.view (s : State) (core pa : Nat) : Byte :=
  if s.remoteAt pa then s.peek pa
  else s.stores.foldl (fun b t => if t.shows core pa then t.bytes.getD (pa - t.pa) 0 else b) (s.peek pa)

/-- Append a record to the violation log of a block: a ring of 64 entries that counts what it overwrites (R389). -/
def VLog.push (l : VLog) (v : Violation) : VLog :=
  if l.entries.length < Config.violationEntries then { l with entries := l.entries ++ [{ v with overwritten := l.overwritten }] }
  else { l with entries := l.entries.drop 1 ++ [{ v with overwritten := l.overwritten + 1 }], overwritten := l.overwritten + 1 }

/-- Log a refusal (R389, R390). -/
def State.violate (s : State) (owner : LogOwner) (address : Word) (requester : BitVec 32) (kind fromW toW : Nat) : State :=
  let v : Violation :=
    { gtime := word s.gtime, address := address, requester := requester, kind := BitVec.ofNat 8 kind,
      fromWorld := BitVec.ofNat 8 fromW, toWorld := BitVec.ofNat 8 toW, overwritten := 0 }
  if s.vlogs.any (·.owner == owner) then
    { s with vlogs := s.vlogs.map fun l => if l.owner = owner then l.push v else l }
  else { s with vlogs := s.vlogs ++ [VLog.push { owner := owner, entries := [], overwritten := 0 } v] }

/-- The requester field of a device partition (R387, R389): die [15:14], core [13:8], partition [7:5]. -/
def requesterOf (part : Nat) : BitVec 32 :=
  BitVec.ofNat 32 (part / 384 * 2 ^ 14 + part / 8 % 48 * 2 ^ 8 + part % 8 * 2 ^ 5)

/-- An uncorrectable error of the weight store, or of the memory that holds a line, is logged (R389, kind 0x0A). The manual does not say which log holds it:
that of the slice that is home to the address (assumption 61). -/
def State.uncorrectable (s : State) (address : Nat) (req : BitVec 32) (world : Nat) : State :=
  s.violate (.home (ownerOf address)) (word address) req 0x0A world world

/-- The requester field of a host core (R389). -/
def hostRequester (host : Nat) : BitVec 32 := BitVec.ofNat 32 (2 ^ 31 + host % 64)

/-- The requester field of a PCIe or Wilkan port (R389). -/
def portRequester (port : Nat) : BitVec 32 := BitVec.ofNat 32 (2 ^ 30 + port % 32)

/-- The world tag of a line; 0 for lines that are neither sealed nor tagged (R377). -/
def State.tag (s : State) (line : Nat) : Nat := SMap.get 0 s.lineWorld line

/-- The MAC of a line of a protected world does not verify (R376, R377): its bits are not as they were sealed, it was sealed at another address or
under another world's keys, or the world's working keys are erased (R382). -/
def State.macFails (s : State) (line : Nat) : Bool :=
  s.tag line != 0 && (s.sec.keysGone.contains (s.tag line)
    || match SMap.get none s.seals line with | some z => !z.intact || z.line != line || z.world != s.tag line | none => false)

/-- Why a read of a line for an agent of a world gets an error response: the kind of R389, or none (R377). Of a device page this is every access but
the loads and stores that the page takes (R364). -/
def State.readError (s : State) (world line : Nat) : Option Nat :=
  if (s.ioPage (line * 128)).isSome then some 0x04
  else if s.tag line ≠ world ∧ s.tag line ≠ 0 then some 0x02 else if s.macFails line then some 0x03 else none

/-- A protected world owns a way of an L2 slice (R376): a byte above 64 owns none, and ways 0 to 3 are always shared. -/
def State.ownsWay (s : State) (world slice : Nat) : Bool :=
  (List.range 12).any fun k => SMap.get 0 s.sec.l2wmap (16 * slice + 4 + k) == BitVec.ofNat 8 world

/-- How a line that holds data of a world stands (R376): in plaintext in a way that the world owns, sealed anywhere else; lines of world 0 are not
sealed. -/
def State.sealOf (s : State) (world line : Nat) : Option Seal :=
  if world = 0 ∨ s.ownsWay world (ownerOf (line * 128)) then none else some { line := line, world := world, intact := true }

/-- A byte of a line reads as poison for an agent of a world (R278, R377, R390). -/
def State.poisoned (s : State) (world pa : Nat) : Bool :=
  SMap.get false s.poisonLines (lineOf pa) || (s.readError world (lineOf pa)).isSome

/-- The lines that a range of bytes touches. -/
def linesOf (pa n : Nat) : List Nat :=
  if n = 0 then [] else (List.range (lineOf (pa + n - 1) - lineOf pa + 1)).map (lineOf pa + ·)

/-- Log the error responses that a read of some lines receives (R377). -/
def State.logReads (s : State) (world : Nat) (req : BitVec 32) : List Nat → State
  | [] => s
  | l :: ls =>
    match s.readError world l with
    | some k => (s.violate (s.lineOwner l) (word (l * 128)) req k world (s.tag l)).logReads world req ls
    | none => s.logReads world req ls

/-- The latest expiry of the unexpired leases on a line, and now where there is none (R205). -/
def State.leaseEnd (s : State) (line : Nat) : Nat :=
  s.leases.foldl (fun w l => if l.line = line ∧ s.gtime < l.expiry ∧ w < l.expiry then l.expiry else w) s.gtime

/-- Some lease on a line is unexpired: the line is in state L (R213). -/
def State.leased (s : State) (line : Nat) : Bool := s.leases.any fun l => l.line == line && decide (s.gtime < l.expiry)

/-- The words that the home registers as owned by a core's L1 after a store by that core, or that lose their owner after a store
by another agent (R207). -/
def State.ownWords (s : State) (core : Option Nat) (pa n : Nat) : State :=
  let owner := match core with | some c => c + 1 | none => 0
  let words := (List.range ((pa + n - 1) / 4 - pa / 4 + 1)).map (pa / 4 + ·)
  { s with owned := words.foldl (fun o w => SMap.set 0 o w owner) s.owned }

/-- The LR reservations on a line are broken (R294). -/
def State.breakLine (s : State) (line : Nat) : State :=
  { s with
    hostCores := SMap.mapv HostCore.reset (fun c => if c.reserved = some line then { c with reserved := none } else c) s.hostCores }

/-- A store takes its place at the home of its line (R205): host copies are invalidated (R213 DS), ownership changes (R207), the
bytes reach memory, a line written for a protected world takes its tag (R376), a write of all 128 bytes clears poison (R278), and LR reservations
on the line are broken (R294).
A write of a part of a line that another protected world sealed, or whose MAC does not verify, gets an error response and is dropped (R377,
R390), and so does a write of a device page (R364). The home of another device's memory is that device's (R211). -/
def State.homeStore (s : State) (core : Option Nat) (req : BitVec 32) (world pa : Nat) (bs : List Byte) : State :=
  let line := lineOf pa
  if s.remoteAt pa then ((s.placeAt pa bs.length).poke pa bs).breakLine line
  else match if bs.length < 128 ∨ (s.ioPage pa).isSome then s.readError world line else none with
  | some kind => s.violate (s.lineOwner line) (word pa) req kind world (s.tag line)
  | none =>
    let s := (((s.placeAt pa bs.length).poke pa bs).ownWords core pa bs.length).breakLine line
    { s with
      hostLines := SMap.set none s.hostLines line none
      lineWorld := SMap.set 0 s.lineWorld line world
      seals := SMap.set none s.seals line (s.sealOf world line)
      poisonLines := if bs.length = 128 then SMap.set false s.poisonLines line false else s.poisonLines }

/-- A table walker changes an entry, as one compare-and-swap at system scope that nothing refuses (R265): copies of the line in host caches are
invalidated, its words lose their owner, and LR reservations on it are broken (R207, R213, R294). -/
def State.walkerStore (s : State) (pa : Nat) (bs : List Byte) : State :=
  let s := ((s.poke pa bs).ownWords none pa bs.length).breakLine (lineOf pa)
  { s with hostLines := SMap.set none s.hostLines (lineOf pa) none }

/-- The bytes at the home of a word as an agent of a world reads them without a trap of its own: undefined where the read gets poison (R278, R377,
R390; assumption 93). -/
def State.openList (s : State) (world pa n : Nat) : List Byte :=
  if s.poisoned world pa then (List.range n).map fun j => BitVec.ofNat 8 (s.free (61000 + j)).toNat else s.peekList pa n

/-- Bytes at physical addresses as a unit of a world reads them that has no thread to trap: undefined where the read gets poison (assumption 93). -/
def State.openBytes (s : State) (world : Nat) (read : Nat → Byte) (pas : List Nat) : List Byte :=
  pas.map fun pa => if s.poisoned world pa then BitVec.ofNat 8 (s.free (61000 + pa % 4096)).toNat else read pa

/-- Write bytes at the homes of their lines, line by line (engines, copies, the hub). -/
def State.homeWrite (s : State) (core : Option Nat) (req : BitVec 32) (world : Nat) : Nat → Nat → List Byte → State
  | 0, _, _ => s
  | _ + 1, _, [] => s
  | fuel + 1, pa, b :: bs =>
    let n := min (128 - pa % 128) (bs.length + 1)
    (s.homeStore core req world pa ((b :: bs).take n)).homeWrite core req world fuel (pa + n) ((b :: bs).drop n)

/-- The write of an agent that has no lane, of system world: the hub, the scheduler, firmware. -/
def State.hubWrite (s : State) (pa : Nat) (bs : List Byte) : State := s.homeWrite none 0 0 (bs.length + 1) pa bs

/-- Bytes that a core's L1 stores, as it shows them to its own later loads, also under a lease that it holds (R198, R201). -/
def Lease.stored (l : Lease) (core pa : Nat) (bs : List Byte) : Lease :=
  match l.data with
  | none => l
  | some d =>
    if l.core = core ∧ l.line * 128 ≤ pa ∧ pa < l.line * 128 + 128 then
      { l with data := some (d.take (pa - l.line * 128) ++ bs ++ d.drop (pa - l.line * 128 + bs.length)) }
    else l

/-- A store of a thread that sets out for its home. -/
def State.newStore (s : State) (key lane world pa : Nat) (bs : List Byte) (piece : Bool) : PStore :=
  { gang := key, lane := lane, core := coreOf key, world := world, pa := pa, bytes := bs, issued := s.clock, bank := false, piece := piece,
    begun := false, priv := ((s.gangAt key).lane lane).priv, accepted := false }

/-- A thread's store is performed in its core's L1 and set off to its home (R201, R205). -/
def State.pushStore (s : State) (key lane world pa : Nat) (bs : List Byte) (piece : Bool) : State :=
  { s with
    stores := s.stores ++ [s.newStore key lane world pa bs piece]
    leases := s.leases.map fun l => l.stored (coreOf key) pa bs }

/-- Store bytes at a list of physical addresses: as one when they are one naturally aligned access, else byte by byte (R194); a device page receives it
whole (R364). -/
def State.pushCells (s : State) (key lane world : Nat) (pas : List Nat) (bs : List Byte) : State :=
  if pas.headD 0 % bs.length = 0 ∨ (s.ioPage (pas.headD 0)).isSome then s.pushStore key lane world (pas.headD 0) bs false
  else (pas.zip bs).foldl (fun s c => s.pushStore key lane world c.1 [c.2] true) s

/-- The acquire part of R157 for a thread of a core, at a scope by its code (R156: 0 gang, 1 core, 2 cluster, 3 die, 4 package,
5 system): at cluster scope and wider the core's L1 serves no later load under a lease it already holds (R208). -/
def State.acquireAt (s : State) (core scope : Nat) : State :=
  if scope < 2 then s
  else { s with leases := s.leases.map fun l => if l.core = core then { l with data := none } else l }

/-- A scratch access of a thread has not reached its bank (R200). -/
def State.inBanks (s : State) (key k : Nat) : Bool :=
  (s.stores.any fun t => t.bank && t.gang == key && t.lane == k)
  || s.loads.any fun l => l.gang == key && l.lane == k && l.spots != []

/-- What other threads of the core stored, and what happens before a lane (R196), is complete at a scope wider than the core: performed, with its
completion time passed by the margin. -/
def State.matesDone (s : State) (key k scope : Nat) : Bool :=
  let t := (s.gangAt key).lane k
  let core := coreOf key
  let past := fun (w : Nat) => decide (w + s.marginNs.toNat ≤ s.gtime)
  !(s.stores.any fun x => x.core == core && !x.bank && decide (x.issued ≤ t.synced) && (scope == 5 || !s.remoteAt x.pa))
  && past t.seen && s.recent.all fun e => e.1 != core || decide (t.synced < e.2.1) || past e.2.2

/-- The release part of R157 is complete for a lane, at a scope: its atomics and reductions have been applied, and at cluster scope and wider every earlier
store, atomic and reduction has its completion time and GTIME has passed hzn by the margin, and so for what happens before it (R196). At gang and core
scope the L1 already holds its global stores. Its stores to device pages have completed (R367). Its scratch accesses have reached their banks (R200).
Accesses to another device's memory are ordered by system scope only (R211). -/
def State.releaseDone (s : State) (key k scope : Nat) : Bool :=
  let near := fun (pa : Nat) => scope == 5 || !s.remoteAt pa
  if s.inBanks key k || s.pageStoring key k then false
  else if scope < 2 then !(s.atoms.any fun a => a.gang == key && a.lane == k && a.applied.isNone && near a.pa)
  else
    !(s.stores.any fun t => t.gang == key && t.lane == k && (t.bank || near t.pa))
      && !(s.atoms.any fun a => a.gang == key && a.lane == k && near a.pa)
      && !(s.acks.any fun a => a.1 == key && a.2.1 == k)
      && decide (momentOf s.gtime ((s.gangAt key).lane k).hzn + s.marginNs.toNat ≤ s.gtime)
      && s.matesDone key k scope

end Sys2Proof.Machine
end

