-- ==== Sys2Proof/Machine/Translate.lean ====
section
/-! DEFINITION. Address translation: the page-table entry, the Sv48 walk, the checks of R266, the cached translations (R263 to
R268, R273). -/

namespace Sys2Proof.Machine

/-- The access kinds of R266; a reduction is an atomic that does not read (R246), a probe needs no permission (R235). -/
inductive Access where
  | load | store | atomic | reduction | fetch | probe
  deriving DecidableEq, Repr

/-- The kinds in order, by which a fault item names one. -/
def Access.all : List Access := [.load, .store, .atomic, .reduction, .fetch, .probe]
def Access.index (a : Access) : Nat := (Access.all.findIdx? (· == a)).getD 0
def Access.ofIndex (n : Nat) : Access := Access.all.getD n .load

/-- The access kind in TRAPINFO [1:0] (R266). -/
def Access.code : Access → Nat
  | .load => 0 | .probe => 0 | .store => 1 | .atomic => 2 | .reduction => 2 | .fetch => 3

/-- The access reads its data (R266 step 5). -/
def Access.reads : Access → Bool
  | .load | .atomic => true
  | _ => false

/-- The access writes (R266 steps 6 and 8). -/
def Access.writes : Access → Bool
  | .store | .atomic | .reduction => true
  | _ => false

/-- The access is an atomic for R266 step 7. -/
def Access.isAtomic : Access → Bool
  | .atomic | .reduction => true
  | _ => false

/-- A translation fault: its cause, the address, and TRAPINFO (R266). -/
structure PageFault where
  cause : Cause
  va : Word
  info : Nat
  deriving DecidableEq, Repr

/-- The fields of an entry (R263). -/
def Pte.v (e : Word) : Bool := Word.flag e 0
def Pte.r (e : Word) : Bool := Word.flag e 1
def Pte.w (e : Word) : Bool := Word.flag e 2
def Pte.x (e : Word) : Bool := Word.flag e 3
def Pte.u (e : Word) : Bool := Word.flag e 4
def Pte.a (e : Word) : Bool := Word.flag e 6
def Pte.d (e : Word) : Bool := Word.flag e 7
def Pte.ppn (e : Word) : Nat := Word.field e 53 10
def Pte.isa (e : Word) : Nat := Word.field e 55 54
def Pte.aa (e : Word) : Bool := Word.flag e 56
def Pte.cls (e : Word) : Nat := Word.field e 58 57
def Pte.ml (e : Word) : Bool := Word.flag e 59
def Pte.t (e : Word) : Bool := Word.flag e 60
def Pte.pbmt (e : Word) : Nat := Word.field e 62 61
def Pte.n (e : Word) : Bool := Word.flag e 63

/-- An entry with r, w and x clear points to the next level, as in Sv48. -/
def Pte.leaf (e : Word) : Bool := Pte.r e || Pte.w e || Pte.x e

/-- The malformed entries of R264, met at a level (3 the root, 0 a 4 KiB leaf). -/
def Pte.malformed (e : Word) (level : Nat) : Bool :=
  Pte.pbmt e == 3 || (Pte.w e && !Pte.r e)
  || (if Pte.leaf e then
        Pte.isa e == 3 || 2 ≤ Pte.cls e || (Pte.n e && (level != 0 || Pte.ppn e % 16 != 8)) || Pte.ppn e % 2 ^ (9 * level) != 0
      else Word.field e 60 54 != 0 || Pte.n e)

/-- Bits [63:47] of an address are all equal (R266 step 1). -/
def canonical (va : Word) : Bool := Word.field va 63 47 == 0 || Word.field va 63 47 == 0x1FFFF

/-- The ASID and the root page of a translation (R317 xlate). -/
def asidOf (xlate : Word) : Nat := Word.field xlate 59 44
def rootOf (xlate : Word) : Nat := Word.field xlate 43 0 * 4096

/-- A leaf found by a walk: what it grants and where it leads, its level, and the entry that names the frame, with its address. Where that
is a G-stage leaf, the VS-stage leaf stands beside it, with its address and level (R292). -/
structure Leaf where
  pte : Word
  level : Nat
  at' : Nat
  own : Word := pte
  ownLevel : Nat := level
  stage : Option (Nat × Word) := none
  stageLevel : Nat := 0
  deriving DecidableEq, Repr

/-- The G-stage of an address space: the hgatp of its virtual machine, 0 where it has none (R292). -/
def State.guestOf (s : State) (asid : Nat) : Word := SMap.get 0 s.guests asid

/-- The root table of satp, vsatp or hgatp, and how many levels its mode has: Sv39, else Sv48 (R292). -/
def levelsOf (satp : Word) : Nat := if Word.field satp 63 60 = 8 then 3 else 4

/-- A host walker's entry, of which it ignores bits [60:54] (R264, R293). -/
def Pte.plain (e : Word) : Word := word (e.toNat / 2 ^ 61 * 2 ^ 61 + e.toNat % 2 ^ 54)

/-- The bits of an address below a leaf's size: 4 KiB pages, 64 KiB with n, 2 MiB, 1 GiB, 512 GiB (R263). -/
def leafBits (pte : Word) (level : Nat) : Nat := if Pte.n pte then 16 else 12 + 9 * level

/-- The physical address of an address under a leaf. -/
def leafPa (pte : Word) (level : Nat) (va : Word) : Nat :=
  let b := leafBits pte level
  Pte.ppn pte * 4096 / 2 ^ b * 2 ^ b + va.toNat % 2 ^ b

/-- The G-stage walk (Sv48x4, R292) of a guest physical address, from a table, levels left: the root has 2,048 entries. A device honours
only t and ml of bits [60:54] of its leaves (R293), a host only t, so that those bits make none malformed. Where there is no leaf, whether an entry was
malformed (R264). -/
def State.guestFrom (s : State) (gpa : Nat) : Nat → Nat → Except Bool Leaf
  | 0, _ => .error false
  | level + 1, table =>
    let at' := table + 8 * (gpa / 2 ^ (12 + 9 * level) % (if level = 3 then 2048 else 512))
    let e := s.peekWord at'
    if !Pte.v e then .error false
    else if Pte.malformed (Pte.plain e) level then .error true
    else if Pte.leaf e then .ok { pte := e, level := level, at' := at' }
    else s.guestFrom gpa level (Pte.ppn e * 4096)

/-- The G-stage leaf of a guest physical address under an hgatp. -/
def State.guestLeaf (s : State) (hgatp : Word) (gpa : Nat) : Except Bool Leaf :=
  if 2 ^ 50 ≤ gpa then .error false else s.guestFrom gpa 4 (rootOf hgatp)

/-- Where a walker finds a table entry: at its physical address, or under the G-stage of an hgatp. -/
def State.tablePa (s : State) (hgatp : Word) (a : Nat) : Except Bool Nat :=
  if hgatp = 0 then .ok a else (s.guestLeaf hgatp a).map fun l => leafPa l.pte l.level (word a)

/-- A VS-stage leaf over the G-stage leaf of its frame (R292, R293): the smaller page, with the rights that both grant; of the device's fields, t and
ml of either, and the others of the VS-stage leaf. -/
def Leaf.over (v g : Leaf) (va : Word) : Leaf :=
  let small := decide (leafBits g.pte g.level < leafBits v.pte v.level)
  let level := if small then g.level else v.level
  let n := if small then Pte.n g.pte else Pte.n v.pte
  let pa := leafPa g.pte g.level (word (leafPa v.pte v.level va))
  let b := if n then 16 else 12 + 9 * level
  let both := v.pte &&& (g.pte ||| ~~~(word 0xE))
  { pte := word (bit n * 2 ^ 63 + both.toNat / 2 ^ 54 % 2 ^ 9 * 2 ^ 54 + (pa / 2 ^ b * 2 ^ b / 4096 + 8 * bit n) % 2 ^ 44 * 2 ^ 10 + both.toNat % 2 ^ 10)
      ||| (g.pte &&& word (2 ^ 60 + 2 ^ 59))
    level := level, at' := g.at', own := g.pte, ownLevel := g.level, stage := some (v.at', v.own), stageLevel := v.level }

/-- The walk from a table, levels left (R263): a leaf, or the level and whether an entry was malformed. Under an hgatp the tables lie at guest
physical addresses, and the leaf's frame has a G-stage leaf. -/
def State.walkFrom (s : State) (hgatp va : Word) : Nat → Nat → Except (Nat × Bool) Leaf
  | 0, _ => .error (0, false)
  | level + 1, table =>
    match s.tablePa hgatp (table + 8 * Word.field va (12 + 9 * level + 8) (12 + 9 * level)) with
    | .error malformed => .error (level, malformed)
    | .ok at' =>
      let e := s.peekWord at'
      if !Pte.v e then .error (level, false)
      else if Pte.malformed e level then .error (level, true)
      else if Pte.leaf e then
        let l : Leaf := { pte := e, level := level, at' := at' }
        if hgatp = 0 then .ok l
        else match s.guestLeaf hgatp (leafPa e level va) with
          | .error malformed => .error (level, malformed)
          | .ok g => .ok (l.over g va)
      else s.walkFrom hgatp va level (Pte.ppn e * 4096)

/-- The walk of an address through a translation. -/
def State.walk (s : State) (xlate va : Word) : Except (Nat × Bool) Leaf :=
  s.walkFrom (s.guestOf (asidOf xlate)) va (levelsOf xlate) (rootOf xlate)

/-- TRAPINFO of a page fault: access kind [1:0], malformed [10], level [13:11] (R266). -/
def faultInfo (acc : Access) (malformed : Bool) (level : Nat) : Nat := acc.code + bit malformed * 2 ^ 10 + level * 2 ^ 11

/-- Steps 3 to 8 of R266 on a leaf, with the privilege of R268: the first failure. -/
def checkLeaf (pte : Word) (acc : Access) (priv : Bool) : Option Cause :=
  if acc == .probe then none
  else if (if priv then acc == .fetch && Pte.u pte else !Pte.u pte) then some .pfPriv
  else if acc == .fetch && (!Pte.x pte || Pte.isa pte != 1) then some .pfExec
  else if acc.reads && !Pte.r pte then some .pfRead
  else if acc.writes && !Pte.w pte then some .pfWrite
  else if acc.isAtomic && !Pte.aa pte then some .pfAtomic
  else if acc.writes && Pte.t pte then some .pfWriteInTransit
  else none

/-- A cached translation covers an address. -/
def TlbEntry.covers (e : TlbEntry) (core asid : Nat) (va : Word) : Bool :=
  e.core == core && e.asid == asid && e.vpage / 2 ^ (leafBits e.pte e.level - 12) == va.toNat / 2 ^ leafBits e.pte e.level

/-- The leaf for an address on a core: cached, or walked. A store or atomic through a cached leaf whose d is clear walks again, to
set it (R265). -/
def State.lookup (s : State) (core : Nat) (xlate va : Word) (acc : Access) : Except (Nat × Bool) (Leaf × Bool) :=
  match s.tlb.find? fun e => e.covers core (asidOf xlate) va with
  | some e =>
    if acc.writes && !Pte.d e.pte then (s.walk xlate va).map fun l => (l, false)
    else .ok ({ pte := e.pte, level := e.level, at' := 0 }, true)
  | none => (s.walk xlate va).map fun l => (l, false)

/-- An entry with a, and d for a store or atomic, set. -/
def Pte.used (e : Word) (writes : Bool) : Word := e ||| word (2 ^ 6 + (if writes then 2 ^ 7 else 0))

/-- An entry in memory gets a, and d for a store or atomic (R265; Svadu, R292). -/
def State.markUsed (s : State) (at' : Nat) (e : Word) (writes : Bool) : State :=
  if Pte.used e writes = e then s else s.walkerStore at' (leBytes 8 (Pte.used e writes).toNat)

/-- A walker sets a, and d for a store or atomic, in the entries of a leaf (R265, R292). -/
def State.markLeaf (s : State) (l : Leaf) (writes : Bool) : State :=
  let s := s.markUsed l.at' l.own writes
  match l.stage with
  | some (a, e) => s.markUsed a e writes
  | none => s

/-- The walker sets a, and d for a store or atomic, in the entry in memory (R265), and the core keeps the translation (R273). -/
def State.fill (s : State) (core : Nat) (xlate va : Word) (acc : Access) (l : Leaf) : State :=
  let pte := Pte.used l.pte acc.writes
  let s := s.markLeaf l acc.writes
  { s with
    tlb := { core := core, asid := asidOf xlate, vpage := va.toNat / 4096, pte := pte, level := l.level }
      :: s.tlb.filter fun e => !e.covers core (asidOf xlate) va }

/-- Translate one address for an access (R266): its physical address and its leaf, or the first failure. -/
def State.translate (s : State) (core : Nat) (xlate va : Word) (acc : Access) (priv : Bool) :
    Except PageFault (State × Nat × Word) :=
  if !canonical va then .error { cause := .pfNotPresent, va := va, info := faultInfo acc false 3 }
  else match s.lookup core xlate va acc with
    | .error (level, malformed) => .error { cause := .pfNotPresent, va := va, info := faultInfo acc malformed level }
    | .ok (l, cached) =>
      match checkLeaf l.pte acc priv with
      | some c => .error { cause := c, va := va, info := faultInfo acc false l.level }
      | none => .ok (if cached then s else s.fill core xlate va acc l, leafPa l.pte l.level va, l.pte)

/-- Translate n consecutive addresses: the page of each, once for each page, and their physical addresses. -/
def State.translateRange (s : State) (core : Nat) (xlate va : Word) (acc : Access) (priv : Bool) :
    Nat → Except PageFault (State × List Nat)
  | 0 => .ok (s, [])
  | n + 1 =>
    match s.translateRange core xlate va acc priv n with
    | .error f => .error f
    | .ok (s, pas) =>
      let b := va + word n
      if n ≠ 0 ∧ b.toNat % 4096 ≠ 0 then .ok (s, pas ++ [pas.getLastD 0 + 1])
      else match s.translate core xlate b acc priv with
        | .error f => .error f
        | .ok (s, pa, _) => .ok (s, pas ++ [pa])

/-- The hub's own translations are kept under this core number (R353: the hub's walkers and engines). -/
def hubCore : Nat := 192

end Sys2Proof.Machine
end

