-- ==== Sys2Proof/Machine/Ops.lean ====
section
/-! DEFINITION. The shared operations of an issue: advancing, splitting a bundle, posting a record, taking a trap (R333, R334) and
returning from one (R335). -/

namespace Sys2Proof.Machine

/-- The code of a cause (R359). -/
def Cause.code : Cause → Nat
  | .illegalInsn => 0x01 | .illegalLength => 0x02 | .fetchBoundary => 0x03 | .stallUndersized => 0x04
  | .regIndexBounds => 0x05 | .nonuniformOperand => 0x06 | .maskDisagree => 0x07 | .scratchBounds => 0x08
  | .uninitRead => 0x09 | .misaligned => 0x0A
  | .pfNotPresent => 0x10 | .pfRead => 0x11 | .pfWrite => 0x12 | .pfExec => 0x13 | .pfAtomic => 0x14 | .pfPriv => 0x15
  | .pfWriteInTransit => 0x16 | .transitTarget => 0x17 | .heapBounds => 0x18 | .heapStaleRef => 0x19 | .pinLimit => 0x1A
  | .queueQuota => 0x20 | .cbuOverflow => 0x21 | .weightStoreWrite => 0x22 | .poison => 0x28
  | .breakpoint => 0x30 | .singleStep => 0x31 | .watchpoint => 0x32 | .preempt => 0x38 | .trapInsn => 0x3E
  | .machineCheck => 0x3F

/-- The causes, in the order of their codes. -/
def Cause.all : List Cause :=
  [.illegalInsn, .illegalLength, .fetchBoundary, .stallUndersized, .regIndexBounds, .nonuniformOperand, .maskDisagree,
   .scratchBounds, .uninitRead, .misaligned, .pfNotPresent, .pfRead, .pfWrite, .pfExec, .pfAtomic, .pfPriv, .pfWriteInTransit,
   .transitTarget, .heapBounds, .heapStaleRef, .pinLimit, .queueQuota, .cbuOverflow, .weightStoreWrite, .poison, .breakpoint,
   .singleStep, .watchpoint, .preempt, .trapInsn, .machineCheck]

/-- The cause of a code (R359); a code outside the table names no cause. -/
def Cause.ofCode (n : Nat) : Option Cause := Cause.all.find? fun c => c.code == n

/-- A trap to be taken: its cause, the trapping lanes, TRAPADDR and TRAPINFO (R333). -/
structure TrapReq where
  cause : Cause
  mask : Mask
  addr : Word := 0
  info : Word := 0
  /-- lines whose reads were answered with an error response, which the home logs (R377) -/
  lines : List Nat := []
  /-- reads that a scratch bank refused, which it logs: its partition, and the address (R375) -/
  banks : List (Nat × Word) := []
  /-- addresses of device pages whose loads were answered with an error response, which the page's block logs (R364, R367) -/
  pages : List Nat := []
  /-- the lanes stop for the debugger instead of entering a handler: no frame, no record (R345, R361) -/
  debug : Bool := false
  deriving DecidableEq, Repr

/-- What an issue does to each of its threads besides its effect: the stall count (R26), the yield (R29), the clock of issue (R331);
a watchpoint passed over once is checked again from the next instruction on (R361). -/
def Thread.issued (t : Thread) (clock stall : Nat) (yld : Bool) : Thread :=
  { t with readyAt := clock + 1 + stall, lastIssue := clock, yields := yld, skipWatch := false }

/-- Every thread of the bundle goes on to the next instruction (R106). -/
def State.advance (s : State) (stall : Nat) (yld : Bool) : State :=
  s.onLanes s.cur.gang s.cur.lanes fun _ t => { t.issued s.clock stall yld with pc := t.pc + word s.cur.len }

/-- A thread is in a bundle: it is runnable, waits in no instruction, and a regrouping has given it one (R103, R105). -/
def Thread.grouped (t : Thread) : Bool := t.cond == .runnable && t.wait == .no && t.bundle.isSome

/-- The lanes of a mask with all that share a bundle with one of them. -/
def Gang.mates (g : Gang) (m : Mask) : Mask :=
  those (BitVec.allOnes 32) fun j =>
    m.getLsbD j || ((g.lane j).bundle.isSome && (lanes m).any fun k => (g.lane k).bundle == (g.lane j).bundle)

/-- Of the bundles whose lanes a mask holds: threads of one bundle whose pcs, or privileges, differ no longer share it; a thread that is not
runnable, or waits in an instruction, belongs to none; no bundles merge (R105). The tag of a bundle is its lowest lane. -/
def Gang.split (g : Gang) (m : Mask) : Gang :=
  g.onLanes m fun _ t =>
    { t with
      bundle :=
        if t.grouped then
          some (lowest (those m fun j =>
            let u := g.lane j
            u.grouped && u.bundle == t.bundle && u.pc == t.pc && u.priv == t.priv))
        else none }

/-- Split the issuing bundle (R105). -/
def State.split (s : State) : State := s.onGang s.cur.gang fun g => g.split s.cur.lanes

/-- A fault or trap record of 64 bytes (R269). -/
def recordBytes (va pc : Word) (launch block tid : Nat) (mask : Mask) (cause info loc asid : Nat) (priv : Bool) : List Byte :=
  leBytes 8 va.toNat ++ leBytes 8 pc.toNat ++ leBytes 4 launch ++ leBytes 4 block ++ leBytes 4 tid ++ leBytes 4 mask.toNat
  ++ leBytes 1 cause ++ leBytes 1 info ++ leBytes 2 loc ++ leBytes 2 asid ++ leBytes 1 (bit priv) ++ leBytes 25 0

/-- The location halfword of a record: die [15:14], core [13:8], partition [7:5], then the operand-log entry, or bit 4 (R269). -/
def locationOf (key : Nat) (entry : Option Nat) : Nat :=
  dieOf key * 2 ^ 14 + coreOf key % 48 * 2 ^ 8 + partOf key % 8 * 2 ^ 5 + (match entry with | some e => e % 16 | none => 16)

/-- A record about lanes of a gang, named by the lowest of them (R269). -/
def State.laneRecord (s : State) (key : Nat) (r : TrapReq) (pc : Word) (entry : Option Nat) (priv : Bool) : List Byte :=
  let g := s.gangAt key
  let t := g.lane (lowest r.mask)
  recordBytes r.addr pc t.launch t.block t.tid r.mask r.cause.code (r.info.toNat % 256) (locationOf key entry) (asidOf g.xlate) priv

/-- Hand a record to the hub, which posts it to the fault queue when it can (R334, R363). -/
def State.post (s : State) (record : List Byte) : State :=
  { s with
    faults := s.faults ++
      [{ who := .record, cause := .trapInsn, va := 0, pc := 0, info := 0, access := 0, priv := false, xlate := 0,
         record := record, entry := none, transit := false, posted := none }] }

/-- Step 1 of R333: the trap registers of one thread. -/
def Thread.trapRegs (t : Thread) (r : TrapReq) (pc : Word) (entry : Option Nat) : Thread :=
  { t with
    trapCause := BitVec.ofNat 8 r.cause.code
    trapPc := pc
    trapAddr := r.addr
    trapMask := r.mask
    trapInfo := r.info
    oplogValid := entry.isSome
    oplogEntry := BitVec.ofNat 4 (entry.getD 0)
    hit := r.cause == .watchpoint }

/-- The trap frame of a lane (R333 step 2). -/
def State.frameOf (s : State) (key k : Nat) : Word :=
  match s.launchOn (s.gangAt key).launch (dieOf key) with
  | some l => l.packet.trapFrames + word (128 * (k + 32 * key))
  | none => 0

/-- The stored words of a frame: d1, d2, the PMOV.get value, the resume point (R333 step 2). -/
def frameBytes (t : Thread) (resume : Word) : List Byte :=
  leBytes 8 (t.getD 1).toNat ++ leBytes 8 (t.getD 2).toNat ++ leBytes 8 t.preds.toNat ++ leBytes 8 resume.toNat

/-- Stop a thread (R103, R334). -/
def Thread.stopBy (t : Thread) (why : StopBy) : Thread :=
  { t with cond := .stopped why, bundle := none, wait := match t.cond with | .held k => .mask k | _ => t.wait }

/-- A stopped thread goes on: held again where it was held (R124), else runnable, and in a bundle at the next regrouping (R105). -/
def Thread.resume (t : Thread) : Thread :=
  match t.wait with
  | .mask k => { t with cond := .held k, wait := .no, bundle := none }
  | _ => { t with cond := .runnable, bundle := none }

/-- The registers that the core sets at a handler's entry (R333 step 3). -/
def isFrameReg : Dest → Bool
  | .d 1 | .d 2 => true
  | _ => false

/-- A result on its way to d1 or d2 belongs to the frame, which holds the thread's d1 and d2, and no longer to the register. -/
def Dest.toFrame : Dest → Dest
  | .d 1 => .frame 1
  | .d 2 => .frame 2
  | r => r

/-- The results of a lane on their way to d1 and d2 go to its trap frame: those of the loads and of the atomics from two places of their lists on
(R26, R333, assumption 21). -/
def State.divert (s : State) (key k loads atoms : Nat) : State :=
  { s with
    loads := s.loads.mapIdx fun i l => if loads ≤ i ∧ l.gang = key ∧ l.lane = k then { l with dst := l.dst.toFrame } else l
    atoms := s.atoms.mapIdx fun i a =>
      if atoms ≤ i ∧ a.gang = key ∧ a.lane = k ∧ (a.dst = some 1 ∨ a.dst = some 2) then { a with framed := true } else a }

/-- d1 and d2 of a lane no longer wait on the scoreboard, whose later value the core sets. -/
def Thread.frameFree (t : Thread) : Thread :=
  { t with
    pending := t.pending.filter fun r => !isFrameReg r
    tracked := t.tracked.filter fun x => !isFrameReg x.reg }

/-- A lane enters its handler: what is on its way to d1 and d2 is the frame's. -/
def State.lateResults (s : State) (key k : Nat) : State :=
  let s1 := s.divert key k 0 0
  State.onThread
    { s1 with oplog := s1.oplog.map fun e => if e.gang = key ∧ e.lanes.getLsbD k then { e with late := e.late ||| laneMask k } else e }
    key k Thread.frameFree

/-- A result arrives for a word of a lane's trap frame: what a function makes of the word. A frame that can no longer be written loses it. -/
def State.frameResult (s : State) (key k n : Nat) (f : Word → Word) : State :=
  let g := s.gangAt key
  match s.translateRange (coreOf key) g.xlate ((g.lane k).frame + word (8 * (n - 1))) .store true 8 with
  | .error _ => s
  | .ok (s, pas) => s.pushCells key k g.world pas (leBytes 8 (f (word (leNat (pas.map (s.view (coreOf key)))))).toNat)

/-- A thread takes a trap (R333), or stops where it may not enter a handler (R334). The flag says whether it stopped with no record of
its own. -/
def State.trapLane (s : State) (key k : Nat) (r : TrapReq) (pc resume : Word) (entry : Option Nat) : State × Bool :=
  let g := s.gangAt key
  let t := g.lane k
  let t1 := t.trapRegs r pc entry
  if r.debug then (s.onThread key k fun _ => { t1.stopBy .debugger with pc := resume }, false)
  else if g.trapVec = 0 ∨ t.priv then (s.onThread key k fun _ => t1.stopBy .trap, true)
  else
    let frame := s.frameOf key k
    match s.translateRange (coreOf key) g.xlate frame .store true 32 with
    | .error f =>
      let rec' := s.laneRecord key { cause := f.cause, mask := laneMask k, addr := f.va, info := word f.info } pc none true
      ((s.onThread key k fun _ => t1.stopBy .trap).post rec', false)
    | .ok (s, pas) =>
      let s := s.pushCells key k g.world pas (frameBytes t resume)
      ((s.lateResults key k).onThread key k fun _ =>
        { (t1.frameFree.setD 1 frame).setD 2 (frame + 128) with
          mode := .handler, pc := g.trapVec, frame := frame, wait := .no, cond := .runnable }, false)

/-- The lanes of a list take a trap, each with its own resume point; one record describes those that stop (R334). -/
def State.trapLanes (s : State) (key : Nat) (r : TrapReq) (pc : Word) (resume : Nat → Word) (entry : Option Nat) :
    List Nat → Bool → State × Bool
  | [], stopped => (s, stopped)
  | k :: ks, stopped =>
    let (s', st) := s.trapLane key k r pc (resume k) entry
    s'.trapLanes key r pc resume entry ks (stopped || st)

/-- Scratch banks log what they refuse (R375, R389). -/
def State.logBanks (s : State) (world : Nat) (req : BitVec 32) : List (Nat × Word) → State
  | [] => s
  | (p, a) :: bs => (s.violate (.bank p) a req 0x01 world (s.worldOf p)).logBanks world req bs

/-- The blocks of device pages log what they refuse (R364, R367, R389). -/
def State.logPages (s : State) (world : Nat) (req : BitVec 32) : List Nat → State
  | [] => s
  | pa :: ps => (s.violate (s.lineOwner (lineOf pa)) (word pa) req 0x04 world 0).logPages world req ps

/-- A sampled instruction traps (R387). -/
def State.sampleTrapped (s : State) (key : Nat) (m : Mask) (pc : Word) : State :=
  { s with
    samples := s.samples.map fun x => if x.gang = key ∧ x.pc = pc ∧ x.lanes &&& m ≠ 0 then { x with flags := x.flags ||| 1 } else x }

/-- TAKING A TRAP (R333, R334): the lanes of TRAPMASK of the gang at a key take it, with the address of the trapping instruction, each
lane's resume point, and the operand-log entry of a replay-precise trap. -/
def State.trapAt (s : State) (key : Nat) (r : TrapReq) (pc : Word) (resume : Nat → Word) (entry : Option Nat) : State :=
  let priv := (lanes r.mask).any fun k => ((s.gangAt key).lane k).priv
  let mates := (s.gangAt key).mates r.mask
  let s := s.logReads (s.gangAt key).world (requesterOf (partOf key)) r.lines
  let s := s.logBanks (s.gangAt key).world (requesterOf (partOf key)) r.banks
  let s := s.logPages (s.gangAt key).world (requesterOf (partOf key)) r.pages
  let (s', stopped) := s.trapLanes key r pc resume entry (lanes r.mask) false
  let s' := (s'.onGang key fun g => g.split mates).sampleTrapped key r.mask pc
  if stopped then s'.post (s'.laneRecord key r pc entry priv) else s'

/-- The issuing bundle's instruction traps: the trapping lanes take the trap, the others keep their pc and issue it again (R333). The
trapping lanes leave the bundle (R105). -/
def State.trap (s : State) (r : TrapReq) : State := s.trapAt s.cur.gang r s.cur.pc (fun _ => s.cur.pc) none

/-- Threads of a gang that wait in an instruction take a trap there, each at the address of its own: one trap for each address. -/
def State.trapWaiting (s : State) (key : Nat) (m : Mask) (r : TrapReq) : State :=
  let at' := fun (k : Nat) => ((s.gangAt key).lane k).pc
  (((lanes m).map at').dedup).foldl
    (fun u pc =>
      let here := those m fun k => at' k == pc
      (u.onLanes key here fun _ t => { t with wait := .no, waitLen := 0 }).trapAt key { r with mask := here } pc (fun _ => pc) none) s

/-- The same for TRAP and BKPT, whose resume point is the next instruction (R345). -/
def State.trapNext (s : State) (r : TrapReq) : State :=
  s.trapAt s.cur.gang r s.cur.pc (fun _ => s.cur.pc + word s.cur.len) none

/-- An ILLEGAL_INSN trap: TRAPINFO holds the instruction as fetched (R43), TRAPADDR why it was refused (R344). -/
def State.illegal (s : State) (m : Mask) (why : Word) : TrapReq :=
  { cause := .illegalInsn, mask := m, addr := why, info := s.cur.raw }

/-- A thread leaves its handler with what its frame holds (R335); a watched instruction is then performed once without its check
(R361). It joins a bundle at the next regrouping. -/
def Thread.leaveHandler (t : Thread) (bytes : List Byte) : Thread :=
  let w := fun i => word (leNat ((bytes.drop i).take 8))
  { (t.setD 1 (w 0)).setD 2 (w 8) with
    p := BitVec.ofNat 7 (w 16).toNat, pc := w 24, mode := .user, bundle := none,
    tracked := t.tracked.filter fun x => !(isFrameReg x.reg || (match x.reg with | .p _ => true | _ => false)),
    skipWatch := t.hit && w 24 == t.trapPc, hit := false }

/-- A thread leaves a save or restore routine (R335, R312). -/
def Thread.leaveRoutine (t : Thread) : Thread := { t with pc := t.trapPc, mode := .user, bundle := none }

/-- RETURNING FROM A TRAP in one lane (R335). A frame that cannot be read is a trap inside the handler (R334, assumption 10). -/
def State.eretLane (s : State) (k : Nat) : Except TrapReq State :=
  let g := s.cg
  let t := g.lane k
  match t.mode with
  | .handler =>
    match s.translateRange (coreOf g.key) g.xlate t.frame .load true 32 with
    | .error f => .error { cause := f.cause, mask := laneMask k, addr := f.va, info := word f.info }
    | .ok (s, pas) => .ok (s.onThread s.cur.gang k fun t => t.leaveHandler (pas.map (s.view (coreOf g.key))))
  | _ => .ok (s.onThread s.cur.gang k fun t => t.leaveRoutine)

end Sys2Proof.Machine
end

