-- ==== Sys2Proof/Machine/Operands.lean ====
section
/-! DEFINITION. Operands: widening a literal, reading registers and predicates, the checks of R44 that every instruction shares, the
guard, and writing a result back (R11, R22 to R28, R31 to R36, R72 to R77). -/

namespace Sys2Proof.Machine

/-- Repeat an element of width w in every sub-element of a word. -/
def spread (w v : Nat) : Word := word ((List.range (64 / w)).foldl (fun n k => n + v % 2 ^ w * 2 ^ (w * k)) 0)

/-- A number of w bits, sign-extended to 64. -/
def sext (w v : Nat) : Word :=
  if 2 ^ (w - 1) ≤ v % 2 ^ w then word (v % 2 ^ w + (2 ^ 64 - 2 ^ w)) else word (v % 2 ^ w)

/-- A binary32 value converted exactly to binary64 (R36): a NaN keeps its sign and its payload, its quiet bit with it. -/
def widenF32 (l : Nat) : Nat :=
  if l / 2 ^ 23 % 256 = 255 then l / 2 ^ 31 % 2 * 2 ^ 63 + 2047 * 2 ^ 52 + l % 2 ^ 23 * 2 ^ 29
  else (Fmt.f64.deliver .rne false (Fmt.f32.decode l)).1

/-- The value of a literal for a type: every sub-element the same (R36). -/
def widenLit (t : Ty) (l : BitVec 32) : Word :=
  match t with
  | .i64 => sext 32 l.toNat
  | .n64 | .b64 => word l.toNat
  | .f64 => word (widenF32 l.toNat)
  | _ => spread t.width l.toNat

/-- A register number of a field. -/
def regCode : Dest → Nat
  | .d n => n
  | .g n => 128 + n
  | .p n => 256 + n
  | .h n => 264 + n
  | .frame n => 280 + n
  | .none => 0

/-- A fixed-latency result of a register that a read at this clock would come too early for (R26), the latest first. -/
def Thread.early (t : Thread) (r : Dest) (clock : Nat) : Option Tracked :=
  t.tracked.find? fun x => x.reg == r && decide (clock < x.ready)

/-- What a read of a register yields: a read before its producer's latency has passed yields the old value or the new one, and which is
left open (R26, assumption 2). -/
def State.pick (s : State) (k : Nat) (t : Thread) (r : Dest) (v : Word) : Word :=
  match t.early r s.clock with
  | none => v
  | some x => if s.freeBool (k * 512 + regCode r) then x.old else v

/-- A result of a g register that a read by the issuing bundle would come too early for, as the lowest lane that issued its producer tracks it. DESIGN
CHOICE (assumption 84): a bundle that did not issue the producer reads old or new as well. -/
def State.earlyG (s : State) (n : Nat) : Option Tracked := (List.range 32).findSome? fun k => (s.cl k).early (.g n) s.clock

/-- Read a d register in a lane. -/
def State.regD (s : State) (k : Nat) (t : Thread) (n : Nat) : Word := s.pick k t (.d n) (t.getD n)
/-- Read a g register: an issue supplies the same 64 bits to every lane (R23), also where it reads too early. -/
def State.regG (s : State) (n : Nat) : Word :=
  match s.earlyG n with
  | none => s.cg.getG n
  | some x => if s.freeBool (regCode (.g n)) then x.old else s.cg.getG n
/-- Read a predicate in a lane. -/
def State.regP (s : State) (k : Nat) (t : Thread) (n : Nat) : Bool :=
  s.pick k t (.p n) (word (bit (t.getP n))) == 1

/-- A value operand: a g register under its class bit, else a d register (R22, R23). -/
def State.operand (s : State) (k : Nat) (t : Thread) (cls : Bool) (n : Nat) : Word :=
  if cls then s.regG n else s.regD k t n

/-- The number of the d register that srcA names, indexed by ix when the ix bit is set (R35). -/
def aNum (o : Ops) (t : Thread) : Nat := if o.ix then o.a.toNat + t.ix.toNat else o.a.toNat

/-- srcA, srcB with its literal, srcC, and the register of dst, in a lane. -/
def State.opA (s : State) (o : Ops) (k : Nat) : Word := s.operand k (s.cl k) o.clsA (aNum o (s.cl k))
def State.opB (s : State) (o : Ops) (k : Nat) : Word :=
  match o.lit with
  | some l => widenLit o.ty l
  | none => s.operand k (s.cl k) o.clsB o.b.toNat
def State.opC (s : State) (o : Ops) (k : Nat) : Word := s.operand k (s.cl k) o.clsC o.c.toNat
def State.opDst (s : State) (o : Ops) (k : Nat) : Word := s.operand k (s.cl k) o.clsD o.dst.toNat
/-- srcB as a register, where a literal has another use (R36). -/
def State.opBReg (s : State) (o : Ops) (k : Nat) : Word := s.operand k (s.cl k) o.clsB o.b.toNat
/-- srcB as a natural 32-bit literal, zero-extended (R125, R144, R343). -/
def State.opBNat (s : State) (o : Ops) (k : Nat) : Word :=
  match o.lit with
  | some l => word l.toNat
  | none => s.operand k (s.cl k) o.clsB o.b.toNat
/-- srcB as an index or a signed literal offset of 64 bits (R227, R144). -/
def State.opBSigned (s : State) (o : Ops) (k : Nat) : Word :=
  match o.lit with
  | some l => sext 32 l.toNat
  | none => s.operand k (s.cl k) o.clsB o.b.toNat

/-- A thread as an instruction reads its whole register state at its issue: a result that is not yet delivered reads as R26 says, and is delivered then. -/
def State.settled (s : State) (k : Nat) (t : Thread) : Thread :=
  { t.tracked.foldl (fun u x => match x.reg with
      | .d n => u.setD n (s.regD k t n)
      | .p n => u.setP n (s.regP k t n)
      | _ => u) t with tracked := [] }

/-- The lanes of the issuing bundle whose guard is true (R11). -/
def State.guarded (s : State) (g : Guard) : Mask :=
  those s.cur.lanes fun k => s.regP k (s.cl k) g.p.toNat != g.neg

/-- TRAPADDR and TRAPINFO of a cause whose rule states none: free values (assumption 2). -/
def State.freeAddr (s : State) : Word := s.free 65534
def State.freeInfo (s : State) : Word := s.free 65535

/-- The register that a field of a kind names. -/
def kindRegs (k : Kind) (f : Nat) (cls : Bool) : List Dest :=
  match k with
  | .d | .v => if cls then [.g f] else [.d f]
  | .g => [.g f]
  | .pred => [.p f]
  | .pair => [.p (f % 8), .p (f / 8)]
  | .href => [.h f]
  | _ => []

/-- The dst field of a store, or of an ISUBS chain, is read (R164, R230). -/
def dstIsData (op : Nat) : Bool := [0x101, 0x103, 0x105, 0x107, 0x10F, 0x111].contains op

/-- Registers that an instruction reads besides its fields: d1 of a C32 RET is a field of its S64 form; every p of PMOV.get; the pair
of a conjoining compare; the second register of a shape or stride pair (R91, R188, R250). -/
def extraReads (op : Nat) (o : Ops) : List Dest :=
  match op with
  | 0xAD => if o.opmod.toNat = 1 then (List.range 7).map .p else []
  | 0xA7 | 0xA8 => if 4 ≤ o.opmod.toNat then [.p (o.dst.toNat % 8), .p (o.dst.toNat / 8)] else []
  | 0x14C | 0x161 => if o.c.toNat < 127 then [.g (o.c.toNat + 1)] else []
  | _ => []

/-- The g register that MOVG chooses in a lane (R166). -/
def State.movgNum (s : State) (o : Ops) (k : Nat) : Nat := o.a.toNat + (s.opB o k).toNat

/-- MOVL, XSHFL and XBCAST read srcA in other lanes than their own (R183). -/
def crossLane (op : Nat) : Bool := op == 0x27 || op == 0xA0 || op == 0xA1

/-- The registers that an instruction reads by its fields, in the order srcA, srcB, srcC, dst (R22). An indexed srcA is found per lane; the
predicates of QPOP and MELECT are destinations. -/
def readsOf (op : Nat) (o : Ops) : List Dest :=
  match rowOf op o with
  | none => []
  | some r =>
    (if o.ix || op == 0x18D then [] else kindRegs r.a o.a.toNat o.clsA)
    ++ (if (o.lit.isSome && r.lit == .b) || op == 0x16B then [] else kindRegs r.b o.b.toNat o.clsB)
    ++ kindRegs r.c o.c.toNat o.clsC
    ++ (if dstIsData op then kindRegs r.dst o.dst.toNat o.clsD else [])
    ++ extraReads op o

/-- The registers that an instruction reads in its own lane, whose valid bits it needs there (R73, R183). -/
def ownReads (op : Nat) (o : Ops) : List Dest :=
  if crossLane op then (match rowOf op o with
    | none => []
    | some r => (if o.lit.isSome then [] else kindRegs r.b o.b.toNat o.clsB) ++ if o.clsA then [.g o.a.toNat] else [])
  else readsOf op o

/-- The registers that an instruction writes by its fields. -/
def writesOf (op : Nat) (o : Ops) : List Dest :=
  match rowOf op o with
  | none => []
  | some r =>
    (if dstIsData op then [] else kindRegs r.dst o.dst.toNat o.clsD)
    ++ (if op = 0x0D ∨ op = 0x0E then [.p o.c.toNat] else [])
    ++ (if op = 0x16B then [.p o.b.toNat] else [])
    ++ (if op = 0x18D then [.p o.a.toNat] else [])
    ++ (if op = 0xC2 ∨ op = 0xC3 then [.d 1] else [])
    ++ (if r.a == .href then [.h o.a.toNat] else [])
    ++ (if r.b == .href then [.h o.b.toNat] else [])

/-- A d register number at or above the allotment (R24). -/
def Dest.beyond (r : Dest) (allot : Nat) : Bool :=
  match r with
  | .d n => allot ≤ n
  | _ => false

/-- A valid bit is clear (R73). -/
def State.invalid (s : State) (k : Nat) (r : Dest) : Bool :=
  match r with
  | .d n => n != 0 && !(s.cl k).dValid.getLsbD n
  | .g n => n != 0 && !s.cg.gValid.getLsbD n
  | _ => false

/-- TRAPINFO of UNINIT_READ for a register (R73). -/
def uninitInfo : Dest → Word
  | .d n => word n
  | .g n => word (n + 128)
  | _ => 0

/-- The first register of a list that some guarded lane may not read while uninit_chk is set (R73). -/
def State.uninit (s : State) (L : Mask) : List Dest → Option TrapReq
  | [] => none
  | r :: rs =>
    let bad := those L fun k => s.invalid k r
    if bad ≠ 0 then some { cause := .uninitRead, mask := bad, addr := s.freeAddr, info := uninitInfo r } else s.uninit L rs

/-- A g register that holds a failed token, which its first reader may not read (R77). -/
def State.failedToken (s : State) (L : Mask) : List Dest → Option TrapReq
  | [] => none
  | .g n :: rs =>
    match s.cg.gFailed.find? fun e => e.1 == n with
    | some (_, addr) =>
      match Cause.ofCode (Word.field (s.cg.getG n) 62 56) with
      | some c => some { cause := c, mask := L, addr := addr, info := s.cg.getG n }
      | none => s.failedToken L rs
    | none => s.failedToken L rs
  | _ :: rs => s.failedToken L rs

/-- An instruction that a shadow thread may execute (R123). -/
def shadowOk (op : Nat) (o : Ops) : Bool :=
  (op < 0x29 && !([0x06, 0x07, 0x26].contains op))
  || [0xA7, 0xA9, 0xAA, 0xAB, 0xAC, 0xAD, 0xA4, 0xC0, 0xC1, 0xC5, 0xC6, 0xC7, 0xC8, 0xC9, 0xCA, 0xCB, 0xCC, 0xCF, 0xD0, 0xD1,
      0x100, 0x102, 0x104, 0x108, 0x109, 0x10A, 0x16A, 0x16C, 0x1C0, 0x1C1].contains op
  || (op == 0xC9 && o.opmod.toNat == 1)

/-- Step 5 of R44: a direct d field at or above the allotment, for the whole bundle (R24, R25); GBARP's cd (R155). -/
def State.directBounds (s : State) (op : Nat) (o : Ops) : Option TrapReq :=
  let a := s.cg.allot
  if (readsOf op o ++ writesOf op o).any (·.beyond a) || (op == 0xE6 && a < 8 * o.a.toNat) then
    some { cause := .regIndexBounds, mask := s.cur.lanes, addr := s.freeAddr, info := s.freeInfo }
  else none

/-- The registers that a lane reads by what its registers hold, beside those that its fields name: an indexed srcA, the g register that MOVG chooses;
of a WIDEN that spreads the thread, its whole register state (R138), so every result that is on its way to it. -/
def State.indirectReads (s : State) (op : Nat) (o : Ops) (k : Nat) : List Dest :=
  let t := s.cl k
  (if o.ix then [Dest.d (aNum o t)] else []) ++ (if op = 0x26 then [Dest.g (s.movgNum o k)] else [])
  ++ if op = 0xCD ∧ s.cg.eligible then (t.tracked.map (·.reg)).filter fun r => match r with | .d _ | .p _ => true | _ => false else []

/-- Step 6 of R44: a read of a result before its latency has passed, while checking is enabled (R28). DESIGN CHOICE (assumption 83): of several such
results TRAPADDR names the producer of the lowest lane's first, in the order indexed srcA or MOVG's choice, guard, srcA, srcB, srcC, dst. -/
def State.stallCheck (s : State) (op : Nat) (o : Ops) : Option TrapReq :=
  if !s.cg.stallChk then none
  else
    let regs := .p o.guard.p.toNat :: readsOf op o
    let hits := (lanes s.cur.lanes).flatMap fun k =>
      (s.indirectReads op o k ++ regs).filterMap fun r => ((s.cl k).early r s.clock).map (·.producer)
    match hits with
    | [] => none
    | p :: _ => some { cause := .stallUndersized, mask := s.cur.lanes, addr := p, info := s.freeInfo }

/-- Step 8 of R44: an indexed srcA at or above the allotment in a guarded lane (R24, R35). -/
def State.indirectBounds (s : State) (o : Ops) (L : Mask) : Option TrapReq :=
  let bad := those L fun k => o.ix && decide (s.cg.allot ≤ aNum o (s.cl k))
  if bad ≠ 0 then some { cause := .regIndexBounds, mask := bad, addr := s.freeAddr, info := s.freeInfo } else none

/-- The checks of step 9 that instructions share, in guarded lanes: a shadow thread's instruction (R123), valid bits (R73), failed
tokens (R77). -/
def State.sharedChecks (s : State) (op : Nat) (o : Ops) (L : Mask) : Option TrapReq :=
  if L = 0 then none
  else if s.cg.shadowOf.isSome && !shadowOk op o then some (s.illegal L 0)
  else
    let ixBad := if o.ix && !crossLane op then those L fun k => s.invalid k (.d (aNum o (s.cl k))) else 0
    if s.cg.uninitChk && ixBad ≠ 0 then
      some { cause := .uninitRead, mask := ixBad, addr := s.freeAddr, info := uninitInfo (.d (aNum o (s.cl (lowest ixBad)))) }
    else
      match if s.cg.uninitChk then s.uninit L (ownReads op o) else none with
      | some t => some t
      | none => s.failedToken L (readsOf op o)

/-- Steps 5 to 8 of R44 and the shared checks of step 9: the guarded lanes, or the trap to take. -/
def State.checks (s : State) (op : Nat) (o : Ops) : Except TrapReq Mask :=
  match s.directBounds op o with
  | some t => .error t
  | none =>
    match s.stallCheck op o with
    | some t => .error t
    | none =>
      let L := s.guarded o.guard
      match s.indirectBounds o L with
      | some t => .error t
      | none =>
        match s.sharedChecks op o L with
        | some t => .error t
        | none => .ok L

/-- AN ISSUE: the shared checks, then the instruction's own checks and effect in the guarded lanes, then every thread of the bundle goes
on (R44, R106). A trap on the way is taken instead, and nothing else happens. -/
def State.issue (s : State) (op : Nat) (o : Ops) (body : Mask → Except TrapReq State) : State :=
  match s.checks op o with
  | .error t => s.trap t
  | .ok L =>
    match body L with
    | .error t => s.trap t
    | .ok s' => s'.advance o.stall.toNat o.yld

/-- The same for an instruction that itself says where its threads go on (transfers, waits, exits). -/
def State.issueFlow (s : State) (op : Nat) (o : Ops) (body : Mask → Except TrapReq State) : State :=
  match s.checks op o with
  | .error t => s.trap t
  | .ok L =>
    match body L with
    | .error t => s.trap t
    | .ok s' => s'

/-- The same for an instruction for whose issue its guarded lanes may have to wait (R103, R106): while one of them waits, nothing
happens. -/
def State.issueWhen (s : State) (op : Nat) (o : Ops) (waits : Nat → Bool) (body : Mask → Except TrapReq State) : State :=
  s.issueFlow op o fun L =>
    if those L waits ≠ 0 then .ok s else (body L).map fun s' => s'.advance o.stall.toNat o.yld

/-- What a lane computes: a value, the flags it raises, a reserved dyad code seen. -/
structure LaneOut where
  val : Word
  flags : FFlags := {}
  dy : Bool := false
  deriving DecidableEq, Repr

/-- The bits of a destination under lo: sub-element 0 new, the rest as it was (R32). -/
def mergeLo (o : Ops) (old new : Word) : Word :=
  if o.lo && o.ty.width < 64 then word (old.toNat / 2 ^ o.ty.width * 2 ^ o.ty.width + new.toNat % 2 ^ o.ty.width) else new

/-- Note a fixed-latency result of latency L, or none for an interlocked one (R26, R28), and forget what has been delivered. -/
def Thread.track (t : Thread) (r : Dest) (old : Word) (lat clock : Nat) (producer : Word) : Thread :=
  let rest := t.tracked.filter fun x => x.reg != r && decide (clock < x.ready)
  { t with tracked := if lat = 0 then rest else { reg := r, ready := clock + lat, producer := producer, old := old } :: rest }

/-- Write a d register as a result (R26, R32). -/
def Thread.resultD (t : Thread) (o : Ops) (lat clock : Nat) (pc : Word) (x : LaneOut) : Thread :=
  let n := o.dst.toNat
  let t' := ((t.setD n (mergeLo o (t.getD n) x.val)).raise x.flags).sawReserved x.dy
  if n = 0 then t' else t'.track (.d n) (t.getD n) lat clock pc

/-- Write a predicate as a result (R26). -/
def Thread.resultP (t : Thread) (n : Nat) (b : Bool) (lat clock : Nat) (pc : Word) : Thread :=
  if 7 ≤ n then t else (t.setP n b).track (.p n) (word (bit (t.getP n))) lat clock pc

/-- The lanes whose result differs from the lowest lane's (R23). -/
def differing (L : Mask) (f : Nat → Word) : Mask := those L fun k => f k != f (lowest L)

/-- A NONUNIFORM_OPERAND trap (R23, R74). -/
def State.nonuniform (s : State) (m : Mask) : TrapReq :=
  { cause := .nonuniformOperand, mask := m, addr := s.freeAddr, info := s.freeInfo }

/-- WRITING A RESULT (R22, R23, R32): to the d register in each guarded lane, or once to a g register on whose value all guarded lanes
agree; the producer of a g register is issued by every thread of the bundle (R26). -/
def State.writeBack (s : State) (o : Ops) (lat : Nat) (L : Mask) (f : Nat → LaneOut) : Except TrapReq State :=
  if !o.clsD then .ok (s.onLanes s.cur.gang L fun k t => t.resultD o lat s.clock s.cur.pc (f k))
  else if L = 0 then .ok s
  else
    let n := o.dst.toNat
    let val := fun k => mergeLo o (s.cg.getG n) (f k).val
    let diff := differing L val
    if diff ≠ 0 then .error (s.nonuniform diff)
    else
      let old := s.cg.getG n
      .ok (((s.onGang s.cur.gang fun g => g.resultG n (val (lowest L))).onLanes s.cur.gang s.cur.lanes fun _ t =>
        if n = 0 then t else t.track (.g n) old lat s.clock s.cur.pc).onLanes s.cur.gang L fun k t => (t.raise (f k).flags).sawReserved (f k).dy)

/-- A LANE INSTRUCTION (R160): each guarded lane computes its result from its own operands, and writes it with a latency (R27). -/
def State.laneStep (s : State) (op : Nat) (o : Ops) (lat : Nat) (f : Nat → LaneOut) : State :=
  s.issue op o fun L => s.writeBack o lat L f

/-- Sub-elements computed one by one and put together, or sub-element 0 alone under lo (R30, R32, R160). -/
def perSub (o : Ops) (f : Nat → Nat × FFlags) : LaneOut :=
  let w := o.ty.width
  let n := if o.lo then 1 else o.ty.count
  let xs := (List.range n).map f
  { val := word (xs.foldr (fun x acc => acc * 2 ^ w + x.1 % 2 ^ w) 0), flags := xs.foldl (fun acc x => acc.or x.2) {} }

/-- A d operand that a gang operation reads, uniform over its guarded lanes (R74). -/
def State.uniform (s : State) (L : Mask) (f : Nat → Word) : Except TrapReq Word :=
  let diff := differing L f
  if diff ≠ 0 then .error (s.nonuniform diff) else .ok (f (lowest L))

end Sys2Proof.Machine
end

