-- ==== Sys2Proof/Machine/Faulting.lean ====
section
/-! DEFINITION. Sending a page fault to fault service, and the operand log of a partition (R269 to R271). -/

namespace Sys2Proof.Machine

/-- A fault of a transfer holds its own operand-log entry; a logged access has its entry in the log (R127, R269). -/
def Faulter.transfers : Faulter → Bool
  | .insn _ _ t => t.isSome
  | _ => false

/-- Send a page fault of a gang's instruction to fault service (R269). -/
def State.sendFault (s : State) (who : Faulter) (key : Nat) (mask : Mask) (f : PageFault) (acc : Access) (pc : Word) (priv : Bool)
    (entry : Option Nat) : State :=
  let r : TrapReq := { cause := f.cause, mask := mask, addr := f.va, info := word f.info }
  { s with
    faults := s.faults ++
      [{ who := who, cause := f.cause, va := f.va, pc := pc, info := word f.info, access := acc.index, priv := priv,
         xlate := (s.gangAt key).xlate, record := s.laneRecord key r pc entry priv, entry := if who.transfers then entry else none,
         transit := false, posted := none }] }

/-- A thread has an entry in its partition's operand log (R271). -/
def State.logged (s : State) (key k : Nat) : Bool := s.oplog.any fun e => e.gang == key && e.lanes.getLsbD k

/-- A transfer of a partition whose fault is being serviced holds an operand-log entry (R127, R269). -/
def FaultItem.holdsEntry (f : FaultItem) (part n : Nat) : Bool :=
  f.entry == some n && match f.who with | .insn g _ _ => partOf g == part | _ => false

/-- The free entries of a partition's operand log (R270: 16 entries), lowest first. -/
def State.freeEntry (s : State) (part : Nat) : Option Nat :=
  (List.range Config.opLogEntries).find? fun n =>
    !(s.oplog.any fun e => e.partition == part && e.entry == n) && !(s.faults.any fun f => f.holdsEntry part n)

/-- A bundle's issue whose fault is being serviced: the faulting lanes wait to issue it again; nothing else happens, and the other
lanes issue it again as well (R127, R351). A transfer names its lowest faulting target, and holds an entry of the operand log, where one is free
(R127, R269; assumption 67). -/
def State.serviceInsn (s : State) (m : Mask) (f : PageFault) (acc : Access) (transfer : Option Word) : State :=
  let key := s.cur.gang
  let priv := (s.cl (lowest m)).priv
  ((s.onLanes key m fun _ t => { t with wait := .logged, bundle := none }).split).sendFault
    (.insn key m transfer) key m f acc s.cur.pc priv (transfer.bind fun _ => s.freeEntry (partOf key))

end Sys2Proof.Machine
end

