-- ==== Sys2Proof/Machine/Approx.lean ====
section
/-! DEFINITION. FEXP2, FLOG2, FSIN, FCOS and FTANH (R171): the exact value of a function, rounded once in RNE. The value is computed
in fixed point with 256 fraction bits, and the exact cases of R171 apart; the truncation of the series is far below what any F32, F16
or BF16 result needs to be rounded (assumption 11). -/

namespace Sys2Proof.Machine

/-- Fraction bits of the fixed-point computation. -/
def fixBits : Nat := 256
/-- One, in fixed point. -/
def fixOne : Nat := 2 ^ 256

/-- Product of fixed-point numbers. -/
def fixMul (a b : Nat) : Nat := a * b / fixOne

/-- n terms of the series z + z³/3 + z⁵/5 + … from power p, odd number k: artanh of a fixed-point number below 1. -/
def atanhTerms (z2 : Nat) : Nat → Nat → Nat → Nat
  | 0, _, _ => 0
  | n + 1, p, k => p / k + atanhTerms z2 n (fixMul p z2) (k + 2)

/-- n terms of the series z − z³/3 + z⁵/5 − … : arctan of 1/q, from power p = 1/q. -/
def atanTerms (q2 : Nat) : Nat → Nat → Nat → Int
  | 0, _, _ => 0
  | n + 1, p, k => (p / k : Nat) - atanTerms q2 n (p / q2) (k + 2)

/-- ln 2 = 2 artanh(1/3). -/
def fixLn2 : Nat := 2 * atanhTerms (fixOne / 9) 85 (fixOne / 3) 1

/-- π by Machin's formula. -/
def fixPi : Nat := (16 * atanTerms 25 60 (fixOne / 5) 1 - 4 * atanTerms 57121 20 (fixOne / 239) 1).toNat

/-- n terms of Σ y^i / i!, from a term t at index i. -/
def expTerms (y : Nat) : Nat → Nat → Nat → Nat
  | 0, _, _ => 0
  | n + 1, t, i => t + expTerms y n (fixMul t y / (i + 1)) (i + 1)

/-- 2^f for a fixed-point fraction f below 1. -/
def fixExp2 (f : Nat) : Nat := expTerms (fixMul f fixLn2) 64 fixOne 0

/-- n terms of the alternating series with term ratio −y²/((i+1)(i+2)): cosine from 1 at i = 0, sine from y at i = 1. -/
def trigTerms (y2 : Nat) : Nat → Nat → Nat → Int
  | 0, _, _ => 0
  | n + 1, t, i => (t : Int) - trigTerms y2 n (fixMul t y2 / ((i + 1) * (i + 2))) (i + 2)

/-- sin of a fixed-point angle in radians. -/
def fixSin (y : Nat) : Nat := (trigTerms (fixMul y y) 50 y 1).toNat
/-- cos of a fixed-point angle in radians. -/
def fixCos (y : Nat) : Nat := (trigTerms (fixMul y y) 50 fixOne 0).toNat

/-- log2 of a fixed-point number of [1, 2). -/
def fixLog2 (x : Nat) : Nat :=
  let z := (x - fixOne) * fixOne / (x + fixOne)
  2 * atanhTerms (fixMul z z) 85 z 1 * fixOne / fixLn2

/-- Round an inexact fixed-point magnitude, scaled by 2^e, whose last 16 bits the truncation may have touched. -/
def Fmt.roundFix (f : Fmt) (neg : Bool) (v : Nat) (e : Int) : Nat × FFlags :=
  f.round .rne false neg (v / 2 ^ 16) (e - 240) true

/-- FEXP2 (R171): a fraction of a is exact in fixed point, since no operand has a bit below 2^(−149). -/
def Fmt.exp2 (f : Fmt) (x : FV) : Nat × FFlags :=
  match x with
  | .nan s => (f.nan, { nv := s })
  | .inf neg => (if neg then f.zero false else f.inf false, {})
  | .fin neg m e =>
    if 12 < e + bitLen m then f.round .rne false false 1 (if neg then -4000 else 4000) false
    else
      let v := FV.signed neg (shiftInt m (e + 256))
      let n := v / (fixOne : Int)
      let fr := (v % (fixOne : Int)).toNat
      if fr = 0 then f.round .rne false false 1 n false else f.roundFix false (fixExp2 fr) n

/-- FLOG2 (R171). -/
def Fmt.log2 (f : Fmt) (x : FV) : Nat × FFlags :=
  match x with
  | .nan s => (f.nan, { nv := s })
  | .inf neg => if neg then (f.nan, { nv := true }) else (f.inf false, {})
  | .fin neg m e =>
    if m = 0 then (f.inf true, { dz := true })
    else if neg then (f.nan, { nv := true })
    else
      let n : Int := e + bitLen m - 1
      if m = 2 ^ (bitLen m - 1) then f.deliver .rne false (.fin (n < 0) n.natAbs 0)
      else
        let v := n * (fixOne : Int) + fixLog2 (m * 2 ^ (257 - bitLen m))
        if v < 0 then f.roundFix true ((-v).toNat - 2 ^ 16) 0 else f.roundFix false v.toNat 0

/-- |a| modulo 2 in fixed point: exact (R171). -/
def halfTurns (m : Nat) (e : Int) : Nat := if 0 ≤ e then m * 2 ^ (min e.toNat 300) * fixOne % (2 * fixOne) else shiftInt m (e + 256) % (2 * fixOne)

/-- sin(πr) for a fixed-point r of (0, 1), and cos(πr) for r of (0, 1/2): of at most a quarter turn from an axis. -/
def fixSinPi (r : Nat) : Nat :=
  let q := if fixOne < 2 * r then fixOne - r else r
  if 4 * q ≤ fixOne then fixSin (fixMul fixPi q) else fixCos (fixMul fixPi (fixOne / 2 - q))

/-- FSIN (R171). -/
def Fmt.sinPi (f : Fmt) (x : FV) : Nat × FFlags :=
  match x with
  | .nan s => (f.nan, { nv := s })
  | .inf _ => (f.nan, { nv := true })
  | .fin neg m e =>
    let t := halfTurns m e
    let low := t % fixOne
    let flip := decide (fixOne ≤ t)
    if low = 0 then (f.zero neg, {})
    else if 2 * low = fixOne then f.round .rne false (neg != flip) 1 0 false
    else f.roundFix (neg != flip) (fixSinPi low) 0

/-- FCOS (R171). -/
def Fmt.cosPi (f : Fmt) (x : FV) : Nat × FFlags :=
  match x with
  | .nan s => (f.nan, { nv := s })
  | .inf _ => (f.nan, { nv := true })
  | .fin _ m e =>
    let t := halfTurns m e
    if t % fixOne = 0 then f.round .rne false (t != 0) 1 0 false
    else if 2 * t % (2 * fixOne) = fixOne then (f.zero false, {})
    else
      -- cos(πt) = sin(π(t + 1/2)) for the first three quarter turns, and sin(π(t − 3/2)) for the last
      let u := (t + fixOne / 2) % (2 * fixOne)
      f.roundFix (decide (fixOne ≤ u)) (fixSinPi (u % fixOne)) 0

/-- FTANH (R171): a − a³/3 … below 2^(−80), 1 − 2/(e^(2a) + 1) above. -/
def Fmt.tanh (f : Fmt) (x : FV) : Nat × FFlags :=
  match x with
  | .nan s => (f.nan, { nv := s })
  | .inf neg => f.round .rne false neg 1 0 false
  | .fin neg m e =>
    if m = 0 then (f.zero neg, {})
    else if e + bitLen m < -80 then f.round .rne false neg (m * 2 ^ 100 - 1) (e - 100) true
    else if 7 < e + bitLen m then f.round .rne false neg (2 ^ 200 - 1) (-200) true
    else
      let a := shiftInt m (e + 256)
      let t := 2 * a * fixOne / fixLn2
      -- e^(−2a) = 2^(−t) = 2^(1 − fraction) / 2^(whole + 1)
      let n := t / fixOne
      let u := if t % fixOne = 0 then fixOne / 2 ^ n else fixExp2 (fixOne - t % fixOne) / 2 ^ (n + 1)
      f.roundFix neg ((fixOne - u) * fixOne / (fixOne + u)) 0

end Sys2Proof.Machine
end

