-- ==== Sys2Proof/Machine/Int.lean ====
section
/-! DEFINITION. The integer and address block 0x000 (R160 to R168). -/

namespace Sys2Proof.Machine

/-- An element as a signed number of w bits. -/
def signedOf (w v : Nat) : Int := if 2 ^ (w - 1) ≤ v % 2 ^ w then (v % 2 ^ w : Nat) - (2 ^ w : Nat) else (v % 2 ^ w : Nat)

/-- The number that an element of a type stands for (R45, R160). -/
def valueOf (t : Ty) (v : Nat) : Int := if t.signed then signedOf t.width v else (v % 2 ^ t.width : Nat)

/-- A number wrapped modulo 2^w (R45). -/
def wrapTo (w : Nat) (x : Int) : Nat := (x % (2 ^ w : Nat)).toNat

/-- The bounds of a type of width w and signedness (R34). -/
def lowBound (signed : Bool) (w : Nat) : Int := if signed then -(2 ^ (w - 1) : Nat) else 0
def highBound (signed : Bool) (w : Nat) : Int := if signed then (2 ^ (w - 1) : Nat) - 1 else (2 ^ w : Nat) - 1

/-- Deliver an exact integer: wrapped, or saturated at the nearest bound (R34, R45). -/
def narrowTo (signed : Bool) (w : Nat) (sat : Bool) (x : Int) : Nat :=
  if sat then wrapTo w (max (lowBound signed w) (min (highBound signed w) x)) else wrapTo w x

/-- The same for a type. -/
def deliverInt (t : Ty) (sat : Bool) (x : Int) : Nat := narrowTo t.signed t.width sat x

/-- A lane's result, sub-element by sub-element, from the elements of srcA, srcB and srcC (R160). -/
def State.elems (s : State) (o : Ops) (f : Nat → Nat → Nat → Nat) (k : Nat) : LaneOut :=
  let a := s.opA o k
  let b := s.opB o k
  let c := s.opC o k
  perSub o fun j => (f (sub a o.ty.width j) (sub b o.ty.width j) (sub c o.ty.width j), {})

/-- The same, over the numbers that the elements stand for, delivered as the type and sat say. -/
def State.nums (s : State) (o : Ops) (f : Int → Int → Int → Int) : Nat → LaneOut :=
  s.elems o fun a b c => deliverInt o.ty o.sat (f (valueOf o.ty a) (valueOf o.ty b) (valueOf o.ty c))

/-- IADD (R161). -/
def execIadd (o : Ops) (s : State) : Host.Outcome State Fault Refusal :=
  .next (s.laneStep 0x00 o 4 (s.nums o fun a b _ => a + b))

/-- ISUB (R161). -/
def execIsub (o : Ops) (s : State) : Host.Outcome State Fault Refusal :=
  .next (s.laneStep 0x01 o 4 (s.nums o fun a b _ => a - b))

/-- IMUL (R161): sat saturates the exact product. -/
def execImul (o : Ops) (s : State) : Host.Outcome State Fault Refusal :=
  .next (s.laneStep 0x02 o 6 (s.nums o fun a b _ => a * b))

/-- IMULH (R161): bits [2w−1:w] of the exact product. -/
def execImulh (o : Ops) (s : State) : Host.Outcome State Fault Refusal :=
  .next (s.laneStep 0x03 o 6 (s.nums o fun a b _ => a * b / (2 ^ o.ty.width : Nat)))

/-- IMAD (R161): formed exactly, then wrapped or saturated once. -/
def execImad (o : Ops) (s : State) : Host.Outcome State Fault Refusal :=
  .next (s.laneStep 0x04 o 6 (s.nums o fun a b c => a * b + c))

/-- IMADW of one lane (R163): even sub-elements multiplied into sub-elements of twice the width. -/
def imadwLane (t : Ty) (sat : Bool) (a b c : Word) : LaneOut :=
  let w := t.width
  let xs := (List.range (t.count / 2)).map fun k =>
    let ext := fun (v : Nat) (w : Nat) => if t.signed then signedOf w v else (v : Int)
    narrowTo t.signed (2 * w) sat (ext (sub a w (2 * k)) w * ext (sub b w (2 * k)) w + ext (sub c (2 * w) k) (2 * w))
  { val := word (xs.foldr (fun x acc => acc * 2 ^ (2 * w) + x) 0) }

/-- IMADW (R163). -/
def execImadw (o : Ops) (s : State) : Host.Outcome State Fault Refusal :=
  .next (s.laneStep 0x05 o 6 fun k => imadwLane o.ty o.sat (s.opA o k) (s.opB o k) (s.opC o k))

/-- The quotient truncated toward zero; all ones for a zero divisor (R162). The wrap gives the most negative value its own quotient
by −1. -/
def quotient (t : Ty) (a b : Nat) : Nat :=
  if valueOf t b = 0 then 2 ^ t.width - 1 else wrapTo t.width ((valueOf t a).tdiv (valueOf t b))

/-- The remainder, with the sign of a; a for a zero divisor (R162). -/
def remainder (t : Ty) (a b : Nat) : Nat :=
  if valueOf t b = 0 then a else wrapTo t.width ((valueOf t a).tmod (valueOf t b))

/-- IDIV (R162): interlocked (R26). -/
def execIdiv (o : Ops) (s : State) : Host.Outcome State Fault Refusal :=
  .next (s.laneStep 0x06 o 0 (s.elems o fun a b _ => quotient o.ty a b))

/-- IREM (R162): interlocked (R26). -/
def execIrem (o : Ops) (s : State) : Host.Outcome State Fault Refusal :=
  .next (s.laneStep 0x07 o 0 (s.elems o fun a b _ => remainder o.ty a b))

/-- IMIN (R161). -/
def execImin (o : Ops) (s : State) : Host.Outcome State Fault Refusal :=
  .next (s.laneStep 0x08 o 4 (s.nums o fun a b _ => min a b))

/-- IMAX (R161). -/
def execImax (o : Ops) (s : State) : Host.Outcome State Fault Refusal :=
  .next (s.laneStep 0x09 o 4 (s.nums o fun a b _ => max a b))

/-- IABS (R161): the most negative value gives itself, or the largest with sat. -/
def execIabs (o : Ops) (s : State) : Host.Outcome State Fault Refusal :=
  .next (s.laneStep 0x0A o 4 (s.nums o fun a _ _ => (a.natAbs : Int)))

/-- INEG (R161): with sat a natural number gives 0. -/
def execIneg (o : Ops) (s : State) : Host.Outcome State Fault Refusal :=
  .next (s.laneStep 0x0B o 4 (s.nums o fun a _ _ => -a))

/-- ICLAMP (R161): min(max(a, b), c), so c when b > c. -/
def execIclamp (o : Ops) (s : State) : Host.Outcome State Fault Refusal :=
  .next (s.laneStep 0x0C o 4 (s.nums o fun a b c => min (max a b) c))

/-- A sum or difference with a carry predicate (R164): the value and the carry out. -/
def carryStep (subtract : Bool) (a b : Word) (cin : Bool) : Word × Bool :=
  if subtract then (a - b - word (bit cin), decide (a.toNat < b.toNat + bit cin))
  else (a + b + word (bit cin), decide (2 ^ 64 ≤ a.toNat + b.toNat + bit cin))

/-- IADDS and ISUBS: the result, then the carry predicate in each guarded lane (R164). -/
def State.carryChain (s : State) (op : Nat) (subtract : Bool) (o : Ops) : State :=
  s.issue op o fun L =>
    let r := fun k => carryStep subtract (s.opA o k) (s.opB o k) (s.regP k (s.cl k) o.c.toNat)
    (s.writeBack o 4 L fun k => { val := (r k).1 }).map fun s' =>
      s'.onLanes s.cur.gang L fun k t => t.resultP o.c.toNat (r k).2 4 s.clock s.cur.pc

/-- IADDS (R164). -/
def execIadds (o : Ops) (s : State) : Host.Outcome State Fault Refusal := .next (s.carryChain 0x0D false o)

/-- ISUBS (R164). -/
def execIsubs (o : Ops) (s : State) : Host.Outcome State Fault Refusal := .next (s.carryChain 0x0E true o)

/-- AND (R161). -/
def execAnd (o : Ops) (s : State) : Host.Outcome State Fault Refusal :=
  .next (s.laneStep 0x0F o 4 (s.elems o fun a b _ => a &&& b))

/-- OR (R161). -/
def execOr (o : Ops) (s : State) : Host.Outcome State Fault Refusal :=
  .next (s.laneStep 0x10 o 4 (s.elems o fun a b _ => a ||| b))

/-- XOR (R161). -/
def execXor (o : Ops) (s : State) : Host.Outcome State Fault Refusal :=
  .next (s.laneStep 0x11 o 4 (s.elems o fun a b _ => a ^^^ b))

/-- The complement of an element of width w. -/
def notOf (w a : Nat) : Nat := 2 ^ w - 1 - a % 2 ^ w

/-- ANDN (R161): a AND NOT b. -/
def execAndn (o : Ops) (s : State) : Host.Outcome State Fault Refusal :=
  .next (s.laneStep 0x12 o 4 (s.elems o fun a b _ => a &&& notOf o.ty.width b))

/-- NOT (R161). -/
def execNot (o : Ops) (s : State) : Host.Outcome State Fault Refusal :=
  .next (s.laneStep 0x13 o 4 (s.elems o fun a _ _ => notOf o.ty.width a))

/-- Shifts and rotations of an element of width w (R165). -/
def shl (w a b : Nat) : Nat := if w ≤ b then 0 else a * 2 ^ b % 2 ^ w
def shr (w a b : Nat) : Nat := if w ≤ b then 0 else a / 2 ^ b
def sar (w a b : Nat) : Nat := wrapTo w (signedOf w a / (2 ^ min b w : Nat))
def rol (w a b : Nat) : Nat := (a * 2 ^ (b % w) + a / 2 ^ (w - b % w)) % 2 ^ w
def ror (w a b : Nat) : Nat := (a / 2 ^ (b % w) + a * 2 ^ (w - b % w)) % 2 ^ w

/-- SHL (R165). -/
def execShl (o : Ops) (s : State) : Host.Outcome State Fault Refusal :=
  .next (s.laneStep 0x14 o 4 (s.elems o fun a b _ => shl o.ty.width a b))

/-- SHR (R165). -/
def execShr (o : Ops) (s : State) : Host.Outcome State Fault Refusal :=
  .next (s.laneStep 0x15 o 4 (s.elems o fun a b _ => shr o.ty.width a b))

/-- SAR (R165). -/
def execSar (o : Ops) (s : State) : Host.Outcome State Fault Refusal :=
  .next (s.laneStep 0x16 o 4 (s.elems o fun a b _ => sar o.ty.width a b))

/-- ROL (R165). -/
def execRol (o : Ops) (s : State) : Host.Outcome State Fault Refusal :=
  .next (s.laneStep 0x17 o 4 (s.elems o fun a b _ => rol o.ty.width a b))

/-- ROR (R165). -/
def execRor (o : Ops) (s : State) : Host.Outcome State Fault Refusal :=
  .next (s.laneStep 0x18 o 4 (s.elems o fun a b _ => ror o.ty.width a b))

/-- The number of one bits among the low w. -/
def popCount (w a : Nat) : Nat := ((List.range w).filter fun i => a.testBit i).length
/-- Leading zeros within w; w of 0. -/
def leadingZeros (w a : Nat) : Nat := w - bitLen (a % 2 ^ w)
/-- Trailing zeros within w; w of 0. -/
def trailingZeros (w a : Nat) : Nat := ((List.range w).find? fun i => a.testBit i).getD w
/-- The low w bits in reverse order. -/
def reverseBits (w a : Nat) : Nat := (List.range w).foldl (fun n i => 2 * n + bit (a.testBit i)) 0
/-- The low n bytes in reverse order. -/
def reverseBytes (n a : Nat) : Nat := (List.range n).foldl (fun m i => 256 * m + a / 256 ^ i % 256) 0

/-- POPC (R161). -/
def execPopc (o : Ops) (s : State) : Host.Outcome State Fault Refusal :=
  .next (s.laneStep 0x19 o 4 (s.elems o fun a _ _ => popCount o.ty.width a))

/-- CLZ (R161). -/
def execClz (o : Ops) (s : State) : Host.Outcome State Fault Refusal :=
  .next (s.laneStep 0x1A o 4 (s.elems o fun a _ _ => leadingZeros o.ty.width a))

/-- CTZ (R161). -/
def execCtz (o : Ops) (s : State) : Host.Outcome State Fault Refusal :=
  .next (s.laneStep 0x1B o 4 (s.elems o fun a _ _ => trailingZeros o.ty.width a))

/-- BREV (R161). -/
def execBrev (o : Ops) (s : State) : Host.Outcome State Fault Refusal :=
  .next (s.laneStep 0x1C o 4 (s.elems o fun a _ _ => reverseBits o.ty.width a))

/-- BSWAP (R161). -/
def execBswap (o : Ops) (s : State) : Host.Outcome State Fault Refusal :=
  .next (s.laneStep 0x1D o 4 (s.elems o fun a _ _ => reverseBytes (o.ty.width / 8) a))

/-- The position and the clipped length of a field; none where it is empty (R165). -/
def fieldOf (w b : Nat) : Option (Nat × Nat) :=
  let pos := b % 256
  let len := b / 256 % 256
  if len = 0 ∨ w ≤ pos then none else some (pos, min len (w - pos))

/-- BFX of an element (R165). -/
def bfx (t : Ty) (a b : Nat) : Nat :=
  match fieldOf t.width b with
  | none => 0
  | some (pos, len) =>
    let v := a / 2 ^ pos % 2 ^ len
    if t.signed then wrapTo t.width (signedOf len v) else v

/-- BFI of an element (R165). -/
def bfi (t : Ty) (a b c : Nat) : Nat :=
  match fieldOf t.width b with
  | none => c
  | some (pos, len) => c - c / 2 ^ pos % 2 ^ len * 2 ^ pos + a % 2 ^ len * 2 ^ pos

/-- BFX (R165). -/
def execBfx (o : Ops) (s : State) : Host.Outcome State Fault Refusal :=
  .next (s.laneStep 0x1E o 4 (s.elems o fun a b _ => bfx o.ty a b))

/-- BFI (R165). -/
def execBfi (o : Ops) (s : State) : Host.Outcome State Fault Refusal :=
  .next (s.laneStep 0x1F o 4 (s.elems o fun a b c => bfi o.ty a b c))

/-- Extension from bit b − 1 (R165). -/
def extendFrom (signed : Bool) (w a b : Nat) : Nat :=
  if b = 0 then 0 else if w ≤ b then a else if signed then wrapTo w (signedOf b a) else a % 2 ^ b

/-- SEXT (R165). -/
def execSext (o : Ops) (s : State) : Host.Outcome State Fault Refusal :=
  .next (s.laneStep 0x20 o 4 (s.elems o fun a b _ => extendFrom true o.ty.width a b))

/-- ZEXT (R165). -/
def execZext (o : Ops) (s : State) : Host.Outcome State Fault Refusal :=
  .next (s.laneStep 0x21 o 4 (s.elems o fun a b _ => extendFrom false o.ty.width a b))

/-- LEA (R161): a + (b << s), with s in srcC. -/
def execLea (o : Ops) (s : State) : Host.Outcome State Fault Refusal :=
  .next (s.laneStep 0x22 o 4 fun k => { val := s.opA o k + word ((s.opB o k).toNat * 2 ^ o.c.toNat) })

/-- SEL (R161): a lane with its guard true and p false takes b. -/
def execSel (o : Ops) (s : State) : Host.Outcome State Fault Refusal :=
  .next (s.laneStep 0x23 o 4 fun k =>
    { val := if s.regP k (s.cl k) o.c.toNat then s.opA o k else s.opB o k })

/-- MOV (R166). -/
def execMov (o : Ops) (s : State) : Host.Outcome State Fault Refusal :=
  .next (s.laneStep 0x24 o 4 fun k => { val := s.opA o k })

/-- MOV ix, dN (R35). -/
def execMovIx (o : Ops) (s : State) : Host.Outcome State Fault Refusal :=
  .next (s.issue 0x24 o fun L =>
    .ok (s.onLanes s.cur.gang L fun k t => { t with ix := BitVec.ofNat 7 (s.opA o k).toNat }))

/-- MOVI (R161): the widened literal. -/
def execMovi (o : Ops) (s : State) : Host.Outcome State Fault Refusal :=
  .next (s.laneStep 0x25 o 4 fun k => { val := s.opB o k })

/-- MOVG (R166): a g register chosen per lane. DESIGN CHOICE (assumption 89): its bounds are checked in step 9 of R44, after the checks of b. -/
def State.movg (s : State) (o : Ops) : State :=
  s.issue 0x26 o fun L =>
    let j := s.movgNum o
    let past := those L fun k => 127 < j k
    let bad := those L fun k => s.cg.uninitChk && s.invalid k (.g (j k))
    if past ≠ 0 then .error { cause := .regIndexBounds, mask := past, addr := s.freeAddr, info := s.freeInfo }
    else if bad ≠ 0 then
      .error { cause := .uninitRead, mask := bad, addr := s.freeAddr, info := uninitInfo (.g (j (lowest bad))) }
    else
      match s.failedToken L ((lanes L).map fun k => .g (j k)) with
      | some t => .error t
      | none => s.writeBack o 4 L fun k => { val := s.regG (j k) }

/-- MOVG (R166). -/
def execMovg (o : Ops) (s : State) : Host.Outcome State Fault Refusal := .next (s.movg o)

/-- The checks of a read of srcA in another lane: its indexed number against the allotment, its valid bit (R24, R73, R183). Reading lane
k reads the lanes src k. DESIGN CHOICE (assumption 90): a number beyond the allotment of a lane that is read traps in the reading lanes. -/
def State.crossChecks (s : State) (o : Ops) (L : Mask) (src : Nat → List Nat) : Option TrapReq :=
  let num := fun j => aNum o (s.cl j)
  let unset := fun j => s.cg.uninitChk && !o.clsA && s.invalid j (.d (num j))
  let past := those L fun k => o.ix && (src k).any fun j => decide (s.cg.allot ≤ num j)
  let bad := those L fun k => (src k).any unset
  if past ≠ 0 then some { cause := .regIndexBounds, mask := past, addr := s.freeAddr, info := s.freeInfo }
  else if bad ≠ 0 then
    some { cause := .uninitRead, mask := bad, addr := s.freeAddr, info := uninitInfo (.d (num (((src (lowest bad)).find? unset).getD 0))) }
  else none

/-- The lane that MOVL reads (R167). -/
def State.movlLane (s : State) (o : Ops) (L : Mask) : Nat :=
  match o.opmod.toNat % 4 with
  | 0 => (s.opB o (lowest L)).toNat % 32
  | 1 => lowest L
  | _ => (lanes L).getLastD 0

/-- MOVL (R167): one lane's value for every guarded lane; never NONUNIFORM_OPERAND. -/
def State.movl (s : State) (o : Ops) : State :=
  s.issue 0x27 o fun L =>
    let src := s.movlLane o L
    match s.crossChecks o L fun _ => [src] with
    | some t => .error t
    | none => s.writeBack o 8 L fun _ => { val := s.opA o src }

/-- MOVL (R167). -/
def execMovl (o : Ops) (s : State) : Host.Outcome State Fault Refusal := .next (s.movl o)

/-- Threads per block of a thread's launch; 0 of a thread that belongs to no block (R168, R409). -/
def State.blockDim (s : State) (launch die : Nat) : Nat :=
  match s.launchOn launch die with
  | some l => l.packet.blockdim
  | none => 0

/-- The special values (R168, R323, R409). -/
def State.special (s : State) (code k : Nat) : Word :=
  let g := s.cg
  let t := s.cl k
  match code with
  | 0 => word k
  | 1 => word g.idx
  | 2 => word (partOf g.key % 8)
  | 3 => word (coreOf g.key % 48)
  | 4 => word (clusterOf (coreOf g.key) % 12)
  | 5 => word (dieOf g.key)
  | 6 => word t.block
  | 7 => word (s.blockDim t.launch (dieOf s.cur.gang))
  | 8 => word t.tid
  | 9 => word t.launch
  | 10 => word s.gtime
  | _ => word (s.worldOf (partOf g.key))

/-- SPEC (R168). -/
def execSpec (o : Ops) (s : State) : Host.Outcome State Fault Refusal :=
  .next (s.laneStep 0x28 o 8 fun k => { val := s.special o.a.toNat k })

end Sys2Proof.Machine
end

