-- ==== Sys2Proof/Machine/FloatBlock.lean ====
section
/-! DEFINITION. The floating-point block 0x040 (R169 to R174). -/

namespace Sys2Proof.Machine

/-- The latency of the float classes (R27): 8 where F64 takes part, else 6. -/
def floatLat (t : Ty) : Nat := if t = .f64 then 8 else 6

/-- A lane's result from the elements' bits (R160). -/
def State.felems (s : State) (o : Ops) (f : Nat → Nat → Nat → Nat × FFlags) (k : Nat) : LaneOut :=
  let a := s.opA o k
  let b := s.opB o k
  let c := s.opC o k
  perSub o fun j => f (sub a o.ty.width j) (sub b o.ty.width j) (sub c o.ty.width j)

/-- An arithmetic step: the exact value of the decoded operands, rounded once (R49, R169). -/
def State.fstep (s : State) (o : Ops) (f : FV → FV → FV → FV) : Nat → LaneOut :=
  let fmt := Fmt.of o.ty
  s.felems o fun a b c => fmt.deliver o.rnd o.sat (f (fmt.decode a) (fmt.decode b) (fmt.decode c))

/-- FADD (R169). -/
def execFadd (o : Ops) (s : State) : Host.Outcome State Fault Refusal :=
  .next (s.laneStep 0x40 o (floatLat o.ty) (s.fstep o fun a b _ => a.add o.rnd b))

/-- FSUB (R169). -/
def execFsub (o : Ops) (s : State) : Host.Outcome State Fault Refusal :=
  .next (s.laneStep 0x41 o (floatLat o.ty) (s.fstep o fun a b _ => a.add o.rnd b.negate))

/-- FMUL (R169). -/
def execFmul (o : Ops) (s : State) : Host.Outcome State Fault Refusal :=
  .next (s.laneStep 0x42 o (floatLat o.ty) (s.fstep o fun a b _ => a.mul b))

/-- FFMA (R169): the product is never rounded. -/
def execFfma (o : Ops) (s : State) : Host.Outcome State Fault Refusal :=
  .next (s.laneStep 0x43 o (floatLat o.ty) (s.fstep o fun a b c => (a.mul b).add o.rnd c))

/-- FFMS (R169). -/
def execFfms (o : Ops) (s : State) : Host.Outcome State Fault Refusal :=
  .next (s.laneStep 0x44 o (floatLat o.ty) (s.fstep o fun a b c => (a.mul b).add o.rnd c.negate))

/-- FNMA (R169). -/
def execFnma (o : Ops) (s : State) : Host.Outcome State Fault Refusal :=
  .next (s.laneStep 0x45 o (floatLat o.ty) (s.fstep o fun a b c => c.add o.rnd (a.mul b).negate))

/-- FMIN (R48). -/
def execFmin (o : Ops) (s : State) : Host.Outcome State Fault Refusal :=
  .next (s.laneStep 0x46 o (floatLat o.ty) (s.felems o fun a b _ => (Fmt.of o.ty).pick false a b))

/-- FMAX (R48). -/
def execFmax (o : Ops) (s : State) : Host.Outcome State Fault Refusal :=
  .next (s.laneStep 0x47 o (floatLat o.ty) (s.felems o fun a b _ => (Fmt.of o.ty).pick true a b))

/-- The magnitude bits of an element. -/
def magnitude (w a : Nat) : Nat := a % 2 ^ (w - 1)

/-- FABS (R47, R169): the sign cleared, other bits kept. -/
def execFabs (o : Ops) (s : State) : Host.Outcome State Fault Refusal :=
  .next (s.laneStep 0x48 o (floatLat o.ty) (s.felems o fun a _ _ => (magnitude o.ty.width a, {})))

/-- FNEG (R47, R169): the sign inverted. -/
def execFneg (o : Ops) (s : State) : Host.Outcome State Fault Refusal :=
  .next (s.laneStep 0x49 o (floatLat o.ty) (s.felems o fun a _ _ => (a ^^^ 2 ^ (o.ty.width - 1), {})))

/-- FCPYS (R47, R169): the magnitude of a with the sign of b. -/
def execFcpys (o : Ops) (s : State) : Host.Outcome State Fault Refusal :=
  .next (s.laneStep 0x4A o (floatLat o.ty) (s.felems o fun a b _ =>
    (magnitude o.ty.width a + b / 2 ^ (o.ty.width - 1) * 2 ^ (o.ty.width - 1), {})))

/-- FDIV (R169, R170): interlocked (R26). -/
def execFdiv (o : Ops) (s : State) : Host.Outcome State Fault Refusal :=
  .next (s.laneStep 0x4B o 0 (s.felems o fun a b _ =>
    let f := Fmt.of o.ty
    f.div o.rnd o.sat (f.decode a) (f.decode b)))

/-- FSQRT (R169, R170): interlocked (R26). -/
def execFsqrt (o : Ops) (s : State) : Host.Outcome State Fault Refusal :=
  .next (s.laneStep 0x4C o 0 (s.felems o fun a _ _ =>
    let f := Fmt.of o.ty
    f.sqrt o.rnd o.sat (f.decode a)))

/-- A function of one decoded operand (R171). -/
def State.fone (s : State) (o : Ops) (f : Fmt → FV → Nat × FFlags) : Nat → LaneOut :=
  s.felems o fun a _ _ => f (Fmt.of o.ty) ((Fmt.of o.ty).decode a)

/-- FRCP (R171). -/
def execFrcp (o : Ops) (s : State) : Host.Outcome State Fault Refusal :=
  .next (s.laneStep 0x4D o 12 (s.fone o fun f x => f.rcp o.sat x))

/-- FRSQ (R171). -/
def execFrsq (o : Ops) (s : State) : Host.Outcome State Fault Refusal :=
  .next (s.laneStep 0x4E o 12 (s.fone o fun f x => f.rsq o.sat x))

/-- FEXP2 (R171). -/
def execFexp2 (o : Ops) (s : State) : Host.Outcome State Fault Refusal :=
  .next (s.laneStep 0x4F o 12 (s.fone o Fmt.exp2))

/-- FLOG2 (R171). -/
def execFlog2 (o : Ops) (s : State) : Host.Outcome State Fault Refusal :=
  .next (s.laneStep 0x50 o 12 (s.fone o Fmt.log2))

/-- FSIN (R171). -/
def execFsin (o : Ops) (s : State) : Host.Outcome State Fault Refusal :=
  .next (s.laneStep 0x51 o 12 (s.fone o Fmt.sinPi))

/-- FCOS (R171). -/
def execFcos (o : Ops) (s : State) : Host.Outcome State Fault Refusal :=
  .next (s.laneStep 0x52 o 12 (s.fone o Fmt.cosPi))

/-- FTANH (R171). -/
def execFtanh (o : Ops) (s : State) : Host.Outcome State Fault Refusal :=
  .next (s.laneStep 0x53 o 12 (s.fone o Fmt.tanh))

/-- FRND (R172). -/
def execFrnd (o : Ops) (s : State) : Host.Outcome State Fault Refusal :=
  .next (s.laneStep 0x54 o (floatLat o.ty) (s.fone o fun f x => f.rint o.rnd x))

/-- A conversion of part h of the source: n elements converted, the rest of dst zero (R173). -/
def State.convert (s : State) (o : Ops) (f : Nat → Nat × FFlags) (k : Nat) : LaneOut :=
  let src := o.ty2
  let n := min src.count o.ty.count
  let a := s.opA o k
  let el := fun j => sub a src.width (o.sel2 * n + j)
  let r := perSub o fun j => if j < n then f (el j) else (0, {})
  { r with dy := src == .dy8 && (List.range (if o.lo then 1 else n)).any fun j => dyReserved (el j) }

/-- The latency of a conversion: 8 when either type is F64 (R27). -/
def convLat (o : Ops) : Nat := if o.ty = .f64 ∨ o.ty2 = .f64 then 8 else 6

/-- FCVT (R173). -/
def execFcvt (o : Ops) (s : State) : Host.Outcome State Fault Refusal :=
  .next (s.laneStep 0x55 o (convLat o) (s.convert o fun x => (Fmt.of o.ty).deliver o.rnd o.sat (decodeTy o.ty2 x)))

/-- FTOI (R173): always saturates. -/
def execFtoi (o : Ops) (s : State) : Host.Outcome State Fault Refusal :=
  .next (s.laneStep 0x56 o (convLat o) (s.convert o fun x => toInt o.ty o.rnd (decodeTy o.ty2 x)))

/-- ITOF (R173). -/
def execItof (o : Ops) (s : State) : Host.Outcome State Fault Refusal :=
  .next (s.laneStep 0x57 o (convLat o) (s.convert o fun x => (Fmt.of o.ty).deliver o.rnd o.sat (decodeTy o.ty2 x)))

/-- The counts of FSCALE: sub-elements of srcB, or the literal sign-extended to the integer width (R169, R174). -/
def State.scaleCounts (s : State) (o : Ops) (k : Nat) : Word :=
  match o.lit with
  | some l => spread o.ty.width (sext 32 l.toNat).toNat
  | none => s.opB o k

/-- FSCALE (R174). -/
def execFscale (o : Ops) (s : State) : Host.Outcome State Fault Refusal :=
  .next (s.laneStep 0x58 o (floatLat o.ty) fun k =>
    let f := Fmt.of o.ty
    let w := o.ty.width
    let a := s.opA o k
    let b := s.scaleCounts o k
    perSub o fun j => f.scale o.rnd o.sat (f.decode (sub a w j)) (signedOf w (sub b w j)))

/-- FCLASS (R174). -/
def execFclass (o : Ops) (s : State) : Host.Outcome State Fault Refusal :=
  .next (s.laneStep 0x59 o (floatLat o.ty) (s.felems o fun a _ _ => ((Fmt.of o.ty).classify a, {})))

/-- FGETEXP (R174). -/
def execFgetexp (o : Ops) (s : State) : Host.Outcome State Fault Refusal :=
  .next (s.laneStep 0x5A o (floatLat o.ty) (s.fone o Fmt.getExp))

end Sys2Proof.Machine
end

