-- ==== Sys2Proof/Machine/Packed.lean ====
section
/-! DEFINITION. The packed block 0x080 (R175 to R179). -/

namespace Sys2Proof.Machine

/-- The exact integer dot product (R65, R176). -/
def intDot (t : Ty) (a b : Word) : Int :=
  (List.range t.count).foldl (fun acc j => acc + valueOf t (sub a t.width j) * valueOf t (sub b t.width j)) 0

/-- The products of a floating-point dot product (R65, R176). -/
def floatProducts (t : Ty) (a b : Word) : List FV :=
  (List.range t.count).map fun j => productOf t ((Fmt.of t).decode (sub a t.width j)) ((Fmt.of t).decode (sub b t.width j))

/-- VDOT and VDOTA of one lane, with the addend if any: wrapped, saturated or rounded once (R65, R176). -/
def dotLane (o : Ops) (a b : Word) (addend : Option Word) : LaneOut :=
  if o.ty.isInt then
    let c := match addend with
      | some c => if o.ty.signed then signedOf 64 c.toNat else (c.toNat : Int)
      | none => 0
    { val := word (narrowTo o.ty.signed 64 o.sat (intDot o.ty a b + c)) }
  else
    let c := match addend with
      | some c => [Fmt.f32.decode (sub c 32 0)]
      | none => []
    let (v, fl) := Fmt.f32.deliver o.rnd o.sat (sumAll o.rnd (floatProducts o.ty a b ++ c))
    { val := word v, flags := fl }

/-- VDOT (R176). -/
def execVdot (o : Ops) (s : State) : Host.Outcome State Fault Refusal :=
  .next (s.laneStep 0x80 o 6 fun k => dotLane o (s.opA o k) (s.opB o k) none)

/-- VDOTA (R176). -/
def execVdota (o : Ops) (s : State) : Host.Outcome State Fault Refusal :=
  .next (s.laneStep 0x81 o 6 fun k => dotLane o (s.opA o k) (s.opB o k) (some (s.opC o k)))

/-- Put elements of width w together, sub-element 0 first. -/
def packElems (w : Nat) (xs : List Nat) : Word := word (xs.foldr (fun x acc => acc * 2 ^ w + x % 2 ^ w) 0)

/-- VPACK of one lane (R177). -/
def vpackLane (t : Ty) (sat : Bool) (a b : Word) : Word :=
  let w := t.width
  let n := 64 / (2 * w)
  let narrow := fun (v : Word) (k : Nat) =>
    let x := sub v (2 * w) k
    narrowTo t.signed w sat (if t.signed then signedOf (2 * w) x else (x : Int))
  packElems w ((List.range n).map (narrow a) ++ (List.range n).map (narrow b))

/-- VPACK (R177). -/
def execVpack (o : Ops) (s : State) : Host.Outcome State Fault Refusal :=
  .next (s.laneStep 0x82 o 6 fun k => { val := vpackLane o.ty o.sat (s.opA o k) (s.opB o k) })

/-- VUNPK of one lane (R177). -/
def vunpkLane (t : Ty) (h : Nat) (a : Word) : Word :=
  let w := t.width
  let n := 64 / (2 * w)
  packElems (2 * w) ((List.range n).map fun k => wrapTo (2 * w) (valueOf t (sub a w (h * n + k))))

/-- VUNPK (R177). -/
def execVunpk (o : Ops) (s : State) : Host.Outcome State Fault Refusal :=
  .next (s.laneStep 0x83 o 6 fun k => { val := vunpkLane o.ty (o.opmod.toNat % 2) (s.opA o k) })

/-- One byte of VPERM (R178). -/
def permByte (a b : Word) (sel : Nat) : Nat :=
  if 128 ≤ sel then 0 else if sel % 16 < 8 then sub a 8 (sel % 16) else sub b 8 (sel % 16 - 8)

/-- VPERM (R178). -/
def execVperm (o : Ops) (s : State) : Host.Outcome State Fault Refusal :=
  .next (s.laneStep 0x84 o 6 fun k =>
    let c := s.opC o k
    { val := packElems 8 ((List.range 8).map fun m => permByte (s.opA o k) (s.opB o k) (sub c 8 m)) })

/-- VSAD of one lane (R175): differences exact, the sum modulo 2^64. -/
def vsadLane (t : Ty) (a b c : Word) : Word :=
  word ((List.range t.count).foldl
    (fun acc j => acc + (valueOf t (sub a t.width j) - valueOf t (sub b t.width j)).natAbs) c.toNat)

/-- VSAD (R175). -/
def execVsad (o : Ops) (s : State) : Host.Outcome State Fault Refusal :=
  .next (s.laneStep 0x85 o 6 fun k => { val := vsadLane o.ty (s.opA o k) (s.opB o k) (s.opC o k) })

/-- VAVG (R175): ⌊(a + b + 1) / 2⌋, or ⌊(a + b) / 2⌋ with .fl. -/
def execVavg (o : Ops) (s : State) : Host.Outcome State Fault Refusal :=
  .next (s.laneStep 0x86 o 6 (s.nums o fun a b _ => (a + b + (if o.opmod.toNat % 2 = 1 then 0 else 1)) / 2))

/-- The destination register as it stands in a lane, from which an instruction keeps bits. DESIGN CHOICE (assumption 72): a result of an earlier
producer that is not yet delivered counts as in it. -/
def State.oldDst (s : State) (o : Ops) (k : Nat) : Word :=
  if o.clsD then s.cg.getG o.dst.toNat else (s.cl k).getD o.dst.toNat

/-- Replace sub-element j of a word (R179). -/
def insertSub (w j : Nat) (old : Word) (v : Nat) : Word :=
  word (old.toNat - sub old w j * 2 ^ (w * j) + v % 2 ^ w * 2 ^ (w * j))

/-- VINS (R179). -/
def execVins (o : Ops) (s : State) : Host.Outcome State Fault Refusal :=
  .next (s.laneStep 0x87 o 6 fun k =>
    { val := insertSub o.ty.width o.b.toNat (s.oldDst o k) (sub (s.opA o k) o.ty.width 0) })

/-- An element extended to 64 bits: sign-extended for I types, else with zeros (R179, R231, R244). -/
def extended (t : Ty) (v : Nat) : Word := if t.signed then sext t.width v else word (v % 2 ^ t.width)

/-- VEXT (R179). -/
def execVext (o : Ops) (s : State) : Host.Outcome State Fault Refusal :=
  .next (s.laneStep 0x88 o 6 fun k => { val := extended o.ty (sub (s.opA o k) o.ty.width o.b.toNat) })

end Sys2Proof.Machine
end

