-- ==== Sys2Proof/Machine/Pages.lean ====
section
/-! DEFINITION. The device pages as a load finds them: the hub's control page (R363, R364, R379) and the page of a port's interface controller (R366,
R367). -/

namespace Sys2Proof.Machine

/-- HEAPCOL of an address space (R280). -/
def State.heapOf (s : State) (asid : Nat) : Heap :=
  (s.heaps.find? fun h => h.asid == asid).getD { asid := asid, colour := false, active := false, desc := 0 }

/-- HEAPCOL as CSRR reads it (R280). -/
def Heap.word (h : Heap) : Word :=
  Sys2Proof.word (bit h.colour * 2 ^ 63 + bit h.active * 2 ^ 62 + Word.field h.desc 47 6 * 2 ^ 6)

/-- The controller of a port. -/
def State.ctrl (s : State) (port : Nat) : Ctrl := SMap.get Ctrl.reset s.ctrls port

/-- Change the controller of a port. -/
def State.onCtrl (s : State) (port : Nat) (f : Ctrl → Ctrl) : State := { s with ctrls := SMap.set Ctrl.reset s.ctrls port (f (s.ctrl port)) }

/-- A TDI of a controller. -/
def Ctrl.tdiAt (c : Ctrl) (k : Nat) : Tdi := SMap.get Tdi.reset c.tdis k

/-- Change a TDI. -/
def Ctrl.onTdi (c : Ctrl) (k : Nat) (f : Tdi → Tdi) : Ctrl := { c with tdis := SMap.set Tdi.reset c.tdis k (f (c.tdiAt k)) }

/-- The state byte (R367). -/
def TdiState.byte : TdiState → Byte
  | .unlocked => 0 | .locked => 1 | .run => 2 | .error => 3

/-- A word of the page that names a die: its die. -/
def dieWord (base off : Nat) : Option Nat := if base ≤ off ∧ off < base + 32 ∧ off % 8 = 0 then some ((off - base) / 8) else none

/-- The bytes of an entry of a violation log (R389). -/
def Violation.bytes (v : Violation) : List Byte :=
  leBytes 8 v.gtime.toNat ++ leBytes 8 v.address.toNat ++ leBytes 4 v.requester.toNat ++ [v.kind, v.fromWorld, v.toWorld, 0]
  ++ leBytes 4 v.overwritten ++ leBytes 4 0

/-- The block that view_sel names (R364): its kind, and its unit in the package. -/
def viewKind (v : BitVec 32) : Nat := Word.field (word v.toNat) 7 0
def viewUnit (v : BitVec 32) : Nat :=
  let perDie := match viewKind v with
    | 0 => 384 | 1 => 12 | 2 => 12 | 6 => 384 | 7 => 48 | 9 => 1 | 8 => 1 | _ => 0
  Word.field (word v.toNat) 23 22 * perDie + (if perDie ≤ 1 then 0 else Word.field (word v.toNat) 21 8) + (if perDie = 0 then Word.field (word v.toNat) 21 8 else 0)

/-- The owner of a violation log that view_sel names. -/
def viewOwner (v : BitVec 32) : LogOwner :=
  match viewKind v with
  | 0 => .bank (viewUnit v)
  | 1 => .home (viewUnit v)
  | 2 => .service (viewUnit v)
  | 3 => .migration
  | 4 => .wilkan (viewUnit v)
  | 5 => .tdisp (viewUnit v)
  | _ => .hub

/-- The bytes of the selected view (R364): 64 entries of a log, or a snapshot, which reads zero for a partition of a protected world, and where it latched
in one (R388). -/
def State.viewBytes (s : State) : List Byte :=
  let v := s.hub.viewSel
  if Word.flag (word v.toNat) 31 then
    if viewKind v = 6 ∧ s.worldOf (viewUnit v) ≠ 0 then []
    else match s.snaps.find? fun x => x.kind == viewKind v && x.unit == viewUnit v && x.world == 0 with
      | some x => leBytes 8 x.gtime.toNat ++ x.values.flatMap fun w => leBytes 8 w.toNat
      | none => []
  else match s.vlogs.find? fun l => l.owner == viewOwner v with
    | some l => (List.range l.entries.length).flatMap fun j =>
        match l.entries[(j + 64 - l.overwritten % 64) % 64]? with
        | some v => v.bytes
        | none => []
    | none => []

/-- A load of a word of the control page by a reader: a host core by its number, the cores of the device from 64 on (R364). -/
def State.controlRead (s : State) (host off : Nat) : Word :=
  let h := s.hub
  match off with
  | 0x000 => h.fqBase
  | 0x008 => h.fqSize
  | 0x010 => word h.fqTail
  | 0x018 => h.fqHead
  | 0x040 => h.regRing
  | 0x050 => word (bit h.regBusy + 2 * bit h.regFailed)
  | 0x060 => word h.ccAsid.toNat
  | 0x068 => h.ccTable
  | 0x070 => h.ccCount
  | 0x078 => word (bit h.ccRunning + 2 * bit h.ccRefused)
  | 0x080 => word h.hcAsid.toNat
  | 0x088 => (s.heapOf h.hcAsid.toNat).word
  | 0x098 => word (SMap.get 0 h.hlLast host)
  | 0x0A0 => h.msImage
  | 0x0A8 => h.msLen
  | 0x0B8 => word (2 * bit h.msRefused)
  | 0x120 => word h.viewSel.toNat
  | _ =>
    match dieWord 0x0C0 off, dieWord 0x0E0 off, dieWord 0x100 off with
    | some d, _, _ => word (s.die d).sampleShift.toNat
    | _, some d, _ => (s.die d).sampleBase
    | _, _, some d => (s.die d).sampleSize
    | _, _, _ =>
      if 0x800 ≤ off ∧ off < 0x1000 then
        word (leNat ((s.viewBytes.drop (2048 * Word.field (word h.viewSel.toNat) 27 24 + (off - 0x800) / 8 * 8)).take 8))
      else 0

/-- The first 80 bytes of a window (R366). -/
def Ctrl.header (c : Ctrl) : List Byte :=
  leBytes 8 c.seq.toNat ++ leBytes 2 c.tdi ++ [c.code, c.checks] ++ leBytes 4 c.lockFlags.toNat ++ leBytes 8 c.mmioOffset.toNat
  ++ leBytes 8 c.evAddr.toNat ++ List.replicate 32 0 ++ leBytes 8 c.rseq.toNat ++ leBytes 8 c.rword.toNat

/-- A byte of a controller page (R366, R367): the window, then a record of 64 bytes for each TDI, whose command reads zero. -/
def Ctrl.pageByte (c : Ctrl) (off : Nat) : Byte :=
  if off < 0x100 then c.header.getD off 0
  else if off < 0x400 then SMap.get 0 c.payload (off - 0x100)
  else
    let t := c.tdiAt (off / 64 - 16)
    if off % 64 = 0 then t.state.byte else if 0x10 ≤ off % 64 then t.snapshot.getD (off % 64 - 0x10) 0 else 0

/-- The bytes that a load of a device page gives a reader (R364, R366). -/
def State.pageBytes (s : State) (reader : Nat) (owner : LogOwner) (off n : Nat) : List Byte :=
  match owner with
  | .tdisp p => (List.range n).map fun j => (s.ctrl p).pageByte (off + j)
  | _ => leBytes n (s.controlRead reader off).toNat

/-- The reader that a core of the device is. -/
def coreReader (core : Nat) : Nat := 64 + core

end Sys2Proof.Machine
end

