-- ==== Sys2Proof/Machine/Access.lean ====
section
/-! DEFINITION. Per-lane accesses to global memory: operands as read at issue, translation lane by lane, watchpoints, poison, loads on
their way to a register, leases, the operand log and its replay (R202, R205 to R208, R227 to R231, R266, R270 to R272, R278, R361). -/

namespace Sys2Proof.Machine

/-- A memory instruction at its issue, or an entry of the operand log at its replay: who makes it, and the operands of its lanes in
ascending order (R202, R270). -/
structure MemCtx where
  key : Nat
  pc : Word
  insn : Instr
  raw : Word
  priv : Bool
  ops : List LaneOps
  /-- the log entry, when it is a replay -/
  entry : Option Nat
  /-- a g destination has been written by other lanes of the issue -/
  others : Bool
  deriving DecidableEq, Repr

/-- The core of a context. -/
def MemCtx.core (x : MemCtx) : Nat := coreOf x.key

/-- The lanes of a list of operands. -/
def maskOfOps (ops : List LaneOps) : Mask := maskOf fun k => ops.any fun p => p.lane == k

/-- The lanes of a context. -/
def MemCtx.mask (x : MemCtx) : Mask := maskOfOps x.ops

/-- The context of an issue, from what its guarded lanes read. -/
def State.issueCtx (s : State) (i : Instr) (L : Mask) (a b c : Nat → Word) : MemCtx where
  key := s.cur.gang
  pc := s.cur.pc
  insn := i
  raw := s.cur.raw
  priv := (s.cl (lowest L)).priv
  ops := (lanes L).map fun k => { lane := k, a := a k, b := b k, c := c k }
  entry := none
  others := false

/-- One lane's access: its operands and the virtual addresses of its bytes, lowest first. -/
structure LaneAcc where
  ops : LaneOps
  vas : List Word
  deriving DecidableEq, Repr

/-- Consecutive addresses. -/
def vaRange (va : Word) (n : Nat) : List Word := (List.range n).map fun j => va + word j

/-- The address that the operands of a plain memory operand give: base + index, or base + literal, modulo 2^64 (R227). -/
def LaneOps.at (p : LaneOps) : Word := p.a + p.b

/-- The bytes of an access of a type at the address of its operands. -/
def LaneOps.plain (p : LaneOps) (n : Nat) : LaneAcc := { ops := p, vas := vaRange p.at n }

/-- The width of a type in bytes (R229). -/
def accWidth (t : Ty) : Nat := t.width / 8

/-- Translate the bytes of one access, once for each page that consecutive bytes share. -/
def State.translateVas (s : State) (core : Nat) (xlate : Word) (acc : Access) (priv : Bool) :
    Option (Word × Nat) → List Word → Except PageFault (State × List Nat)
  | _, [] => .ok (s, [])
  | prev, va :: vas =>
    let step : Except PageFault (State × Nat) :=
      match prev with
      | some (pva, ppa) =>
        if va = pva + 1 ∧ va.toNat % 4096 ≠ 0 then .ok (s, ppa + 1)
        else (s.translate core xlate va acc priv).map fun r => (r.1, r.2.1)
      | none => (s.translate core xlate va acc priv).map fun r => (r.1, r.2.1)
    match step with
    | .error f => .error f
    | .ok (s, pa) =>
      match s.translateVas core xlate acc priv (some (va, pa)) vas with
      | .error f => .error f
      | .ok (s, pas) => .ok (s, pa :: pas)

/-- What translation makes of the lanes of an access: those that go on, with physical addresses, and those that fault (R270). -/
structure Translated where
  s : State
  good : List (LaneAcc × List Nat)
  bad : List (Nat × PageFault)

/-- Translate every lane of an access, ascending. The info bits are those that the space adds to TRAPINFO (R266, R228). -/
def State.translateLanes (s : State) (x : MemCtx) (acc : Access) (info : Nat) : List LaneAcc → Translated
  | [] => { s := s, good := [], bad := [] }
  | l :: ls =>
    match s.translateVas x.core (s.gangAt x.key).xlate acc x.priv none l.vas with
    | .ok (s, pas) =>
      let t := s.translateLanes x acc info ls
      { t with good := (l, pas) :: t.good }
    | .error f =>
      let t := s.translateLanes x acc info ls
      { t with bad := (l.ops.lane, { f with info := f.info + info }) :: t.bad }

/-- A watched range, from its first byte on, is touched by a byte at an address: the first such byte of a list (R361). -/
def watchHit (addr : Word) (ctl : BitVec 10) (vas : List Word) : Option Word :=
  let size := min 12 (ctl.toNat / 8 % 32)
  vas.find? fun va => decide ((va - addr).toNat < 2 ^ size)

/-- The watchpoint check of R361 for the lanes of an access: kind 1 load, 2 store, 3 returning atomic, 4 reduction; space 0 global, 1
scratch. -/
def State.watch (s : State) (key kind space : Nat) (ls : List (Nat × List Word)) : Option TrapReq :=
  let g := s.gangAt key
  let armed := fun (ctl : BitVec 10) =>
    ctl.getLsbD 0 && ctl.getLsbD 8 == (space == 1) && ((ctl.getLsbD 1 && (kind == 1 || kind == 3)) || (ctl.getLsbD 2 && kind != 1))
  let watched := ls.filter fun e => !(g.lane e.1).priv && !(g.lane e.1).skipWatch
  let hit := fun (addr : Word) (ctl : BitVec 10) (e : Nat × List Word) => if armed ctl then watchHit addr ctl e.2 else none
  let hit0 := hit g.wpAddr0 g.wpCtl0
  let hit1 := hit g.wpAddr1 g.wpCtl1
  let touched := fun (e : Nat × List Word) => e.2.find? fun va => hit0 (e.1, [va]) != none || hit1 (e.1, [va]) != none
  let hits := watched.filter fun e => (hit0 e).isSome || (hit1 e).isSome
  match hits with
  | [] => none
  | e :: _ =>
    let first := hits.any fun e => (hit0 e).isSome
    some
      { cause := .watchpoint
        mask := maskOf fun k => hits.any fun e => e.1 == k
        addr := (touched e).getD 0
        info := word (bit (!first) + min kind 3 * 2 + space * 8)
        debug := if first then g.wpCtl0.getLsbD 9 else g.wpCtl1.getLsbD 9 }

/-- A POISON trap of the lanes whose bytes read as poison (R278, R377, R390). -/
def State.poisonTrap (s : State) (x : MemCtx) (ls : List (LaneAcc × List Nat)) : Option TrapReq :=
  let world := (s.gangAt x.key).world
  let pages := fun (e : LaneAcc × List Nat) => e.2.filter fun pa => (s.ioPage pa).isSome
  let bad := ls.filter fun e => e.2.any fun pa => s.poisoned world pa
  match bad with
  | [] => none
  | e :: _ =>
    some
      { cause := .poison
        mask := maskOf fun k => bad.any fun e => e.1.ops.lane == k
        addr := e.1.vas.headD 0
        info := s.freeInfo
        lines := ((bad.flatMap fun e => (e.2.filter fun pa => (s.ioPage pa).isNone).map lineOf)).dedup
        pages := bad.filterMap fun e => (pages e).head? }

/-- A load of a device page that the page takes (R364, R367). -/
def State.pageTakes (s : State) (x : MemCtx) (pas : List Nat) : Bool :=
  match s.ioPage (pas.headD 0) with
  | some p => !pageRefuses p.1 (s.gangAt x.key).world x.priv p.2 pas.length
  | none => false

/-- A MISALIGNED trap of the lanes whose address is no multiple of the width (R229). -/
def State.misalignedTrap (s : State) (n : Nat) (ls : List (Nat × Word)) : Option TrapReq :=
  let bad := ls.filter fun e => e.2.toNat % n != 0
  match bad with
  | [] => none
  | e :: _ => some { cause := .misaligned, mask := maskOf fun k => bad.any fun e => e.1 == k, addr := e.2, info := s.freeInfo }

/-- A device lease is granted on a line (R213 DL): host copies become clean and shared. -/
def leaseHost : Option HostLine → Option HostLine
  | some (.e h) => some (.s [h])
  | some (.m h) => some (.s [h])
  | some (.o h hs) => some (.s (h :: hs))
  | l => l

/-- A core's L1 serves no later load of a line under a lease that it already holds (R198, R234). -/
def State.giveUpLeases (s : State) (core line : Nat) : State :=
  { s with leases := s.leases.map fun l => if l.core = core ∧ l.line = line then { l with data := none } else l }

/-- The snoop filter of a die tracks its limit of pool lines, and not this one (R279). -/
def State.filterFull (s : State) (die line : Nat) : Bool :=
  !(s.die die).poolLines.contains line && decide (Config.poolLines ≤ (s.die die).poolLines.length)

/-- The pool line that a die granted least recently is to be released under R216: no new lease is granted on it (R279). -/
def State.releaseOldest (s : State) (die : Nat) : State :=
  match (s.die die).poolLines with
  | [] => s
  | l :: _ => if s.releasing.contains l then s else { s with releasing := l :: s.releasing }

/-- The home grants no new lease on a line: a host write waits on it (R213), a back-invalidate snoop does (R216), its die is to release it
(R279). -/
def State.noLease (s : State) (line : Nat) : Bool := s.hostWaiting.contains line || s.snooping.contains line || s.releasing.contains line

/-- A core's L1 gives up the lease that it has held longest where it holds as many lines as it has room for (R1). -/
def State.roomInL1 (s : State) (core : Nat) : State :=
  let held := s.leases.filter fun l => l.core == core && l.data.isSome
  if held.length < Config.l1Lines then s
  else match held.getLast? with
    | some o => s.giveUpLeases core o.line
    | none => s

/-- A die tracks a pool line, the most recently granted last (R279). -/
def State.trackPool (s : State) (die line : Nat) : State :=
  s.onDie die fun d => { d with poolLines := (d.poolLines.filter (· ≠ line)) ++ [line] }

/-- A line served at its home is granted a lease, with its bytes as the core's L1 then shows them, unless the home grants none on it (R206,
R213); a line of another device's memory is never leased (R211), nor is a device page (R364). DESIGN CHOICE (assumption 91): a load that is served without
a lease moves the host copies as one with a lease does. -/
def State.grantLease (s : State) (core line : Nat) : State :=
  if s.remoteAt (line * 128) || (s.ioPage (line * 128)).isSome then s
  else
  let s := { s with hostLines := SMap.set none s.hostLines line (leaseHost (SMap.get none s.hostLines line)) }
  if s.noLease line then s.giveUpLeases core line
  else if s.poolLine line && s.filterFull (core / 48) line then (s.giveUpLeases core line).releaseOldest (core / 48)
  else
    let s := s.roomInL1 core
    let s := if s.poolLine line then s.trackPool (core / 48) line else s
    let l : Lease :=
      { core := core, line := line, granted := s.gtime, expiry := s.gtime + s.leaseNs.toNat,
        data := some ((List.range 128).map fun j => s.view core (line * 128 + j)) }
    { s with
      leases := l :: (s.leases.filter fun o => !(o.core == core && o.line == line && decide (o.expiry ≤ l.expiry))).map fun o =>
        if o.core = core ∧ o.line = line then { o with data := none } else o }

/-- A line's lease that a core's L1 may still serve: unexpired, and not given up (R206, R208). -/
def State.heldLease (s : State) (core line : Nat) : Option (List Byte) :=
  match s.leases.find? fun l => l.core == core && l.line == line && decide (s.gtime < l.expiry) && l.data.isSome with
  | some l => l.data
  | none => none

/-- A byte as a lease shows it, and as the home does where the core holds none. -/
def State.leasedByte (s : State) (core pa : Nat) : Byte :=
  match s.heldLease core (lineOf pa) with
  | some d => d.getD (pa % 128) 0
  | none => s.view core pa

/-- Bytes of global memory as a weak load of an engine finds them: under leases that its L1 holds, or at their homes, with new leases (R193, R206); which,
the manual leaves open (assumption 15). -/
def State.engineBytes (s : State) (core : Nat) (pas : List Nat) : State × List Byte :=
  if (pas.any fun pa => (s.heldLease core (lineOf pa)).isSome) && s.freeBool 60002 then (s, pas.map (s.leasedByte core))
  else (((pas.map lineOf).dedup).foldl (fun s line => s.grantLease core line) s, pas.map (s.view core))

/-- The number that the bytes at some physical addresses hold, at the home with the core's own stores (R201, R206); of a device page,
what a load gives there (R364). -/
def State.homeValue (s : State) (core : Nat) (pas : List Nat) : Word :=
  match s.ioPage (pas.headD 0) with
  | some p => word (leNat (s.pageBytes (coreReader core) p.1 p.2 pas.length))
  | none => word (leNat (pas.map (s.view core)))

/-- The same under the leases that the core's L1 holds, if it holds one on any of the lines (R206). -/
def State.leaseValue (s : State) (core : Nat) (pas : List Nat) : Option Word :=
  if pas.any fun pa => (s.heldLease core (lineOf pa)).isSome then some (word (leNat (pas.map (s.leasedByte core)))) else none

/-- A loaded value widened for its type (R231). -/
def loadExt (t : Ty) (v : Word) : Word :=
  match t with
  | .i8 | .i16 | .i32 => sext t.width v.toNat
  | _ => word (v.toNat % 2 ^ t.width)

/-- The new contents of a destination that receives a load (R231): all of it, or its low element under lo. -/
def loadInto (t : Ty) (lo : Bool) (old v : Word) : Word :=
  if lo && t.width < 64 then word (old.toNat / 2 ^ t.width * 2 ^ t.width + v.toNat % 2 ^ t.width) else loadExt t v

/-- A register becomes pending on the scoreboard; d0 never does. -/
def Thread.pend (t : Thread) (r : Dest) : Thread :=
  match r with
  | .d 0 => t
  | .none => t
  | r => { t with pending := r :: t.pending }

/-- A register is no longer pending. -/
def Thread.unpend (t : Thread) (r : Dest) : Thread := { t with pending := t.pending.erase r }

/-- A pending register of a lane of a gang, or of the gang. -/
def State.pend (s : State) (key k : Nat) (r : Dest) : State :=
  match r with
  | .g n => if n = 0 then s else s.onGang key fun g => { g with gPending := n :: g.gPending }
  | r => s.onThread key k fun t => t.pend r

/-- The register is no longer pending on that account. -/
def State.unpend (s : State) (key k : Nat) (r : Dest) : State :=
  match r with
  | .g n => s.onGang key fun g => { g with gPending := g.gPending.erase n }
  | r => s.onThread key k fun t => t.unpend r

/-- What a memory instruction does in its lanes: a trap in which nothing takes effect, or the state after the lanes that complete, with the
faults of the others (R228, R270). -/
abbrev MemResult := Except TrapReq (State × List (Nat × PageFault))

/-- A weak load or LDA sets out for a d register: its values are those of this moment (R206). -/
def State.sendLoad (s : State) (x : MemCtx) (o : Ops) (lane : Nat) (pas : List Nat) : State :=
  let dst := Dest.d o.dst.toNat
  let load : PLoad :=
    { gang := x.key, lane := lane, core := x.core, dst := dst, lines := (pas.map lineOf).dedup, ty := o.ty, lo := o.lo,
      home := s.homeValue x.core pas, lease := s.leaseValue x.core pas,
      owned := pas.all fun pa => SMap.get 0 s.owned (pa / 4) == x.core + 1, spots := [], issued := s.clock }
  State.pend { s with loads := s.loads ++ [load] } x.key lane dst

/-- A load of a lane of a line is on its way: what it returns a later load of the thread may not precede (R198). -/
def State.loading (s : State) (key k : Nat) (pas : List Nat) : Bool :=
  s.loads.any fun l => l.gang == key && l.lane == k && l.lines.any fun line => pas.any fun pa => lineOf pa == line

/-- Loads into a g register are served at once, all lanes in one way (R23, R206): at the homes, with new leases, or under leases; which, the
manual leaves open (assumption 15). -/
def State.serveG (s : State) (x : MemCtx) (o : Ops) (ls : List (LaneAcc × List Nat)) : Except TrapReq State :=
  let under := s.freeBool 60000 && !(ls.any fun e => s.loading x.key e.1.ops.lane e.2)
  let val := fun (e : LaneAcc × List Nat) =>
    match s.leaseValue x.core e.2 with
    | some v => if under then v else s.homeValue x.core e.2
    | none => s.homeValue x.core e.2
  let old := (s.gangAt x.key).getG o.dst.toNat
  let new := fun e => loadInto o.ty o.lo old (val e)
  let v := if x.others then old else match ls with | e :: _ => new e | [] => old
  let diff := ls.filter fun e => new e != v
  if diff ≠ [] then .error (s.nonuniform (maskOf fun k => diff.any fun e => e.1.ops.lane == k))
  else
    let s1 := if ls = [] then s else
      s.onGang x.key fun g => g.resultG o.dst.toNat v
    .ok (if under then s1
      else ((ls.flatMap fun e => e.2.map lineOf).dedup).foldl (fun s line => s.grantLease x.core line) s1)

/-- A LOAD of global memory (R228, R231) of the lanes of a list; a load of the HEAPCOL word of the control page is an acquire (R364). -/
def State.loadLanes (s : State) (x : MemCtx) (o : Ops) (info : Nat) (ls : List LaneAcc) : MemResult :=
  let t := s.translateLanes x .load info ls
  match s.watch x.key 1 0 (t.good.map fun e => (e.1.ops.lane, e.1.vas)) with
  | some r => .error r
  | none =>
    match t.s.poisonTrap x (t.good.filter fun e => !t.s.pageTakes x e.2) with
    | some r => .error r
    | none =>
      let colour := t.good.any fun e => t.s.ioPage (e.2.headD 0) == some (.hub, 0x088)
      let acquired := fun (s : State) => if colour then s.acquireAt x.core 5 else s
      if o.clsD then (t.s.serveG x o t.good).map fun s => (acquired s, t.bad)
      else .ok (acquired (t.good.foldl (fun s e => s.sendLoad x o e.1.ops.lane e.2) t.s), t.bad)

/-- A STORE to global memory (R228, R231, R202): ascending lanes, each into its core's L1. -/
def State.storeLanes (s : State) (x : MemCtx) (n : Nat) (data : LaneOps → Word) (ls : List LaneAcc) : MemResult :=
  let t := s.translateLanes x .store 0 ls
  match s.watch x.key 2 0 (t.good.map fun e => (e.1.ops.lane, e.1.vas)) with
  | some r => .error r
  | none =>
    .ok (t.good.foldl
      (fun s e => s.pushCells x.key e.1.ops.lane (s.gangAt x.key).world e.2 (leBytes n (data e.1.ops).toNat)) t.s, t.bad)

/-- Faulting lanes enter the operand log and fault service, and their destinations and return slots stay pending (R269, R270). A fault of the reference
barrier is a load fault, whatever the access (R287); one of the pin count that PIN or UNPIN changes is a store fault (R262). -/
def State.logFaults (s : State) (x : MemCtx) (n : Nat) (acc : Access) (dst : List Dest) (bad : List (Nat × PageFault)) : State :=
  let m := maskOf fun k => bad.any fun e => e.1 == k
  match bad with
  | [] => s
  | (_, f) :: _ =>
    let entry : OpLogEntry :=
      { partition := partOf x.key, entry := n, gang := x.key, lanes := m, insn := x.insn, raw := x.raw, pc := x.pc,
        ops := x.ops.filter fun p => m.getLsbD p.lane, others := x.others || x.mask != m, priv := x.priv, late := 0 }
    let s1 := bad.foldl (fun s e => dst.foldl (fun s r => s.pend x.key e.1 r) s) { s with oplog := s.oplog ++ [entry] }
    let s2 := if acc = .atomic then s1.onLanes x.key m fun _ t => { t with slots := t.slots + 1 } else s1
    let acc := if f.info % 4 = acc.code then acc else if f.info % 4 = 1 then .store else .load
    s2.sendFault (.logged (partOf x.key) n) x.key m f acc x.pc x.priv (some n)

/-- A MEMORY INSTRUCTION AT ITS ISSUE: the shared checks, the waits of its own, its effect in the lanes that do not fault, and the operand
log for those that do. With no free log entry it waits (R270), and where its effect answers none, for room in a queue (R330). An issue without
a guarded lane has no effect (R11). -/
def State.memIssueRoom (s : State) (op : Nat) (o : Ops) (i : Instr) (acc : Access) (dst : List Dest) (a b c : Nat → Word)
    (waits : Nat → Bool) (f : State → MemCtx → Option MemResult) : State :=
  s.issueFlow op o fun L =>
    if L = 0 then .ok (s.advance o.stall.toNat o.yld)
    else if those L waits ≠ 0 then .ok s
    else
      let x := s.issueCtx i L a b c
      match f s x with
      | none => .ok s
      | some (.error t) => .error t
      | some (.ok (s1, [])) => .ok (s1.advance o.stall.toNat o.yld)
      | some (.ok (s1, e :: es)) =>
        match s.freeEntry (partOf x.key) with
        | none => .ok s
        | some n => .ok ((s1.logFaults x n acc dst (e :: es)).advance o.stall.toNat o.yld)

/-- The same for an instruction that needs no queue. -/
def State.memIssue (s : State) (op : Nat) (o : Ops) (i : Instr) (acc : Access) (dst : List Dest) (a b c : Nat → Word) (waits : Nat → Bool)
    (f : State → MemCtx → MemResult) : State :=
  s.memIssueRoom op o i acc dst a b c waits fun s x => some (f s x)

end Sys2Proof.Machine
end

