-- ==== Sys2Proof/Machine/Resident.lean ====
section
/-! DEFINITION. Residence: accesses of units that have no lane of their own, the areas of a launch's phase-record ring (R310), and
what happens when a gang leaves its partition (R101, R118, R309, R313, R378). -/

namespace Sys2Proof.Machine

/-- Bytes at physical addresses, as runs of consecutive bytes of one line each. -/
def lineRuns : List Nat → List Byte → List (Nat × List Byte)
  | pa :: pas, b :: bs =>
    match lineRuns pas bs with
    | (q, cs) :: rest => if q = pa + 1 ∧ q % 128 ≠ 0 then (pa, b :: cs) :: rest else (pa, [b]) :: (q, cs) :: rest
    | [] => [(pa, [b])]
  | _, _ => []

/-- Write bytes at physical addresses at their homes: one store for the bytes of each line (R205, R278). -/
def State.writePas (s : State) (core : Option Nat) (req : BitVec 32) (world : Nat) (pas : List Nat) (bs : List Byte) : State :=
  (lineRuns pas bs).foldl (fun s r => s.homeStore core req world r.1 r.2) s

/-- The physical address of the first byte that a write of these would find refused: one of a part of a line whose home answers with an error response
(R377, R390). -/
def State.writeRefused (s : State) (world : Nat) (pas : List Nat) : Option Nat :=
  ((lineRuns pas (pas.map fun _ => 0)).find? fun r => decide (r.2.length < 128) && (s.readError world (lineOf r.1)).isSome).map (·.1)

/-- A unit of the hub or a die's scheduler writes bytes at a virtual address through a translation. -/
def State.writeVa (s : State) (xlate va : Word) (priv : Bool) (world : Nat) (bs : List Byte) : Except PageFault State :=
  match s.translateRange hubCore xlate va .store priv bs.length with
  | .error f => .error f
  | .ok (s, pas) => .ok (s.writePas none 0 world pas bs)

/-- A unit of the hub or a die's scheduler reads bytes at a virtual address through a translation, for a world (R377). -/
def State.readVa (s : State) (xlate va : Word) (priv : Bool) (world n : Nat) : Except PageFault (State × List Byte) :=
  match s.translateRange hubCore xlate va .load priv n with
  | .error f => .error f
  | .ok (s, pas) => .ok (s.logReads world 0 (pas.map lineOf).dedup, s.openBytes world s.peek pas)

/-- The number of a gang of a launch: 512 × block + gang index (R114). -/
def gangNumber (block idx : Nat) : Nat := 512 * block + idx

/-- The lowest offset of the phase-record ring, a multiple of 128, at which an area fits beside those in use (R310). -/
def freeArea (ring : Nat) (areas : List (Nat × Nat)) (size : Nat) : Option Nat :=
  let fits := fun o => o + size ≤ ring && areas.all fun a => o + size ≤ a.1 || a.1 + a.2 ≤ o
  let candidates := 0 :: areas.map fun a => (a.1 + a.2 + 127) / 128 * 128
  (candidates.filter fits).foldl (fun best o => match best with | none => some o | some b => some (min b o)) none

/-- An area of the phase-record ring comes into use. -/
def Launch.useArea (l : Launch) (off size : Nat) : Launch := { l with areas := l.areas ++ [(off, size)] }

/-- An area of the phase-record ring is free again (R310). -/
def Launch.dropArea (l : Launch) (off : Nat) : Launch := { l with areas := l.areas.filter fun a => a.1 ≠ off }

/-- The scratch allocation of a block on a core (R70). -/
def State.allocAt (s : State) (launch block core : Nat) : Option Alloc :=
  s.allocs.find? fun a => a.launch == launch && a.block == block && a.core == core

/-- Change the scratch allocation of a block on a core. -/
def State.onAlloc (s : State) (launch block core : Nat) (f : Alloc → Alloc) : State :=
  { s with
    allocs := s.allocs.map fun a => if a.launch = launch ∧ a.block = block ∧ a.core = core then f a else a }

/-- The bank, and the row of it among those that it gives, that hold a row of an allocation: the rows of the banks in rising order (R70: the
scheduler's choice, assumption 68). -/
def bankIn : SMap Nat → Nat → Option (Nat × Nat)
  | [], _ => none
  | (p, n) :: bs, r => if r < n then some (p, r) else bankIn bs (r - n)

/-- The partition whose bank holds a byte of an allocation refuses a requester of another world (R375). -/
def State.refusing (s : State) (launch block world core off : Nat) : Option Nat :=
  match (s.allocAt launch block core).bind fun a => bankIn a.banks (off / 256) with
  | some (p, _) => if s.worldOf p = world then none else some p
  | none => none

/-- The cluster scratch address that names a byte of a core of the cluster (R69). -/
def spotVa (core off : Nat) : Word := word ((4 + core % 4) * 2 ^ 20 + off)

/-- The bytes of a write that their banks refuse are dropped and logged (R375): the offsets of the others remain. -/
def State.bankWrite (s : State) (launch block world core off n : Nat) (req : BitVec 32) : State × List Nat :=
  (List.range n).foldl
    (fun acc j =>
      match s.refusing launch block world core (off + j) with
      | some p => (if j = 0 ∨ (off + j) % 256 = 0 then acc.1.logBanks world req [(p, spotVa core (off + j))] else acc.1, acc.2)
      | none => (acc.1, acc.2 ++ [j])) (s, [])

/-- A saved gang holds a claim on the allocation of its block on a core (R313). -/
def State.claimed (s : State) (launch block core : Nat) : Bool :=
  s.saved.any fun v => v.launch == launch && v.block == block && v.core == core && !v.carrier && v.group.isNone

/-- Rows of banks that an allocation gives back: those of a protected world are cleared, the others keep what they hold (R71, R378). -/
def Alloc.giveBack (a : Alloc) (m : SMap Nat) : SMap Nat :=
  if a.world ≠ 0 then m else a.banks.foldl (fun m b => SMap.set 0 m b.1 (SMap.get 0 m b.1 + b.2)) m

/-- The core frees the allocation of a block once no gang of the block is resident on it and no saved gang holds a claim (R313). -/
def State.freeAlloc (s : State) (launch block core : Nat) : State :=
  if (s.gangs.any fun g => g.launch == launch && g.block == block && coreOf g.key == core && !g.byCrossing)
      || s.claimed launch block core then s
  else
    let freed := fun (a : Alloc) => a.launch == launch && a.block == block && a.core == core
    { s with
      allocs := s.allocs.filter fun a => !freed a
      dirtyRows := (s.allocs.filter freed).foldl (fun m a => a.giveBack m) s.dirtyRows }

/-- The clearing sequencer of a partition starts (R378): towards a world that the partition is to be assigned, or for another event, which leaves a
standing assignment, or the world, as it is. -/
def State.startClearing (s : State) (part : Nat) (world : Option Nat) : State :=
  let old := match s.clearing.find? fun c => c.partition == part with | some c => c.world | none => s.worldOf part
  { s with clearing := s.clearing.filter (fun c => c.partition ≠ part) ++ [{ partition := part, world := world.getD old }] }

/-- A gang, with its shadow, leaves its partition: registers and slots are released, the allocation is freed when it was the block's
last there, and a partition that it leaves empty is cleared where it is of a protected world, or took a machine check (R101, R337, R378). -/
def State.vacate (s : State) (key : Nat) : State :=
  let g := s.gangAt key
  let s := { s with
    coreHzn := SMap.set 0 s.coreHzn (coreOf key) (s.coreHorizon (coreOf key))
    gangs := s.gangs.filter fun h => h.key ≠ key ∧ some h.key ≠ g.shadow }
  let s := s.freeAlloc g.launch g.block (coreOf key)
  if s.gangs.any fun h => partOf h.key == partOf key then s
  else if s.checked.contains (partOf key) then
    State.startClearing { s with checked := s.checked.filter (· ≠ partOf key) } (partOf key) none
  else if g.world ≠ 0 then s.startClearing (partOf key) none
  else s

/-- An asynchronous operation of a gang is outstanding: a copy, a matrix instruction, a group reduction (R101, R309). -/
def State.busyAsync (s : State) (key : Nat) : Bool :=
  (s.copies.any fun c => c.gang == key)
  || (s.arrays.any fun a => a.2.queue.any fun e => e.gang == key)
  || (s.greds.any fun r => r.parts.any fun p => p.gang == key)

/-- Every operation that a gang issued has completed: asynchronous ones, loads, stores, atomics and logged accesses too (R101). -/
def State.quiet (s : State) (key : Nat) : Bool :=
  !s.busyAsync key && !(s.loads.any fun l => l.gang == key) && !(s.stores.any fun t => t.gang == key)
  && !(s.atoms.any fun a => a.gang == key) && !(s.acks.any fun a => a.1 == key) && !(s.oplog.any fun e => e.gang == key)

end Sys2Proof.Machine
end

