-- ==== Sys2Proof/Machine/Heap.lean ====
section
/-! DEFINITION. The managed heap: HEAPCOL, the object table, resolving a reference, where an object's bytes lie while it moves (R236 to
R240, R280 to R287). -/

namespace Sys2Proof.Machine

/-- The fields of a reference (R236). -/
def refIndex (r : Word) : Nat := Word.field r 61 24
def refOffset (r : Word) : Nat := Word.field r 23 0
def refPinned (r : Word) : Bool := Word.flag r 62

/-- A reference with its colour bit replaced: healing (R236). -/
def refHeal (r : Word) (colour : Bool) : Word := word (r.toNat % 2 ^ 63 + bit colour * 2 ^ 63)

/-- A reference with its pinned bit replaced. -/
def refPin (r : Word) (pinned : Bool) : Word :=
  word (r.toNat / 2 ^ 63 * 2 ^ 63 + bit pinned * 2 ^ 62 + r.toNat % 2 ^ 62)

/-- The heap descriptor's address: bits [47:6], with bit 47 copied upwards. -/
def Heap.descAt (h : Heap) : Word := sext 48 (Word.field h.desc 47 6 * 64)

/-- The compaction cycle of an address space, if one runs. -/
def State.cycleOf (s : State) (asid : Nat) : Option Cycle := s.cycles.find? fun c => c.asid == asid

/-- A live object as the barrier finds it: its present copy, its size, the address of its table entry, the current colour (R285). -/
structure Obj where
  index : Nat
  copy : Word
  size : Nat
  entry : Word
  colour : Bool
  deriving DecidableEq, Repr

/-- Why a reference does not resolve: a precise trap, poison in a word of the descriptor or the table (R278), with the lines that were read, or a page
fault met on the way, which is a load fault with TRAPINFO [14] set (R287). -/
inductive RefStop where
  | trap (cause : Cause) (addr info : Word)
  | poison (addr : Word) (lines : List Nat)
  | fault (f : PageFault)
  deriving DecidableEq, Repr

/-- The barrier's reads of the descriptor and the table, for a world, through the launch's translation with the thread's privilege. -/
def State.tableRead (s : State) (core world : Nat) (xlate va : Word) (priv : Bool) (n : Nat) : Except RefStop (State × Nat) :=
  match s.translateVas core xlate .load priv none (vaRange va n) with
  | .error f => .error (.fault { f with info := f.info + 2 ^ 14 })
  | .ok (s, pas) =>
    if pas.any (s.poisoned world) then .error (.poison va ((pas.map lineOf).dedup)) else .ok (s, leNat (pas.map (s.view core)))

/-- The page that holds an object's copy is not of class managed (R285). -/
def State.unmanaged (s : State) (core : Nat) (xlate copy : Word) : Bool :=
  match s.lookup core xlate copy .load with
  | .ok (l, _) => Pte.cls l.pte != 1
  | .error _ => false

/-- RESOLVING a reference (R236, R285). -/
def State.resolve (s : State) (core world : Nat) (xlate : Word) (priv : Bool) (r : Word) : Except RefStop (State × Obj) := do
  let i := refIndex r
  let h := s.heapOf (asidOf xlate)
  if i = 0 then .error (.trap .heapBounds r 0)
  else
    let (s, table) ← s.tableRead core world xlate h.descAt priv 8
    let (s, count) ← s.tableRead core world xlate (h.descAt + 8) priv 8
    if count ≤ i then .error (.trap .heapStaleRef r 0)
    else
      let entry := word table + word (16 * i)
      let (s, copy) ← s.tableRead core world xlate entry priv 8
      let (s, size) ← s.tableRead core world xlate (entry + 8) priv 4
      if copy % 2 = 0 then .error (.trap .heapStaleRef r 0)
      else
        let copy := word (copy / 16 * 16)
        if s.unmanaged core xlate copy then .error (.trap .heapStaleRef copy 3)
        else .ok (s, { index := i, copy := copy, size := size, entry := entry, colour := h.colour })

/-- The address of a byte of an object: in the new copy where the engine has copied its old line, else in the present copy (R285). -/
def State.objByte (s : State) (asid : Nat) (ob : Obj) (off : Nat) : Word :=
  let old := ob.copy + word off
  match s.cycleOf asid with
  | none => old
  | some c =>
    match c.moving.find? fun m => m.1 == ob.index with
    | some (_, _, new, _, copied) => if copied.contains (old.toNat / 128) then word (new + off) else old
    | none => old

/-- The byte offset of a heap access: the reference's offset plus the signed index or literal (R238). -/
def heapOffset (r b : Word) : Int := (refOffset r : Int) + b.toInt

/-- One lane's access to an object: its bytes' addresses and the healed base, or why it stops (R238). -/
structure RefAcc where
  acc : LaneAcc
  base : Word
  deriving DecidableEq, Repr

/-- A lane's bounded access of n bytes through its base reference (R238). -/
def State.objAccess (s : State) (x : MemCtx) (p : LaneOps) (n : Nat) : Except RefStop (State × RefAcc) := do
  let xlate := (s.gangAt x.key).xlate
  let (s, ob) ← s.resolve x.core (s.gangAt x.key).world xlate x.priv p.a
  let o := heapOffset p.a p.b
  if o < 0 ∨ (ob.size : Int) < o + n then .error (.trap .heapBounds p.a (BitVec.ofInt 64 o))
  else
    let vas := (List.range n).map fun j => s.objByte (asidOf xlate) ob (o.toNat + j)
    .ok (s, { acc := { ops := p, vas := vas }, base := refHeal p.a ob.colour })

/-- What a step of a heap instruction makes of its lanes: results, faults, the lanes that trap with their cause, and the lines that they read as poison. -/
structure RefLanes (α : Type) where
  s : State
  good : List (LaneOps × α)
  bad : List (Nat × PageFault)
  traps : List (Nat × Cause × Word × Word)
  lines : List Nat

/-- A step of a heap instruction, lane by lane, ascending. -/
def State.refLanes {α : Type} (s : State) (f : State → LaneOps → Except RefStop (State × α)) : List LaneOps → RefLanes α
  | [] => { s := s, good := [], bad := [], traps := [], lines := [] }
  | p :: ps =>
    match f s p with
    | .ok (s, v) =>
      let r := s.refLanes f ps
      { r with good := (p, v) :: r.good }
    | .error (.fault pf) =>
      let r := s.refLanes f ps
      { r with bad := (p.lane, pf) :: r.bad }
    | .error (.poison a ls) =>
      let r := s.refLanes f ps
      { r with traps := (p.lane, .poison, a, s.freeInfo) :: r.traps, lines := ls ++ r.lines }
    | .error (.trap c a i) =>
      let r := s.refLanes f ps
      { r with traps := (p.lane, c, a, i) :: r.traps }

/-- The trap of the lowest lane that traps, with every lane of that cause (R287). -/
def RefLanes.trap {α : Type} (r : RefLanes α) : Option TrapReq :=
  match r.traps with
  | [] => none
  | (_, c, a, i) :: _ =>
    some { cause := c, mask := maskOf fun k => r.traps.any fun t => t.1 == k && t.2.1 == c, addr := a, info := i,
           lines := if c = .poison then r.lines.dedup else [] }

/-- The healed reference goes back into the register unless software has written it since (R236). -/
def State.healReg (s : State) (key n : Nat) (p : LaneOps) (v : Word) (old : Word) : State :=
  s.onThread key p.lane fun t => if t.getH n = old then t.setH n v else t

/-- LDH (R238). -/
def State.ldhLanes (o : Ops) (s : State) (x : MemCtx) : MemResult :=
  let n := accWidth o.ty
  let r := s.refLanes (fun s p => s.objAccess x p n) x.ops
  match r.trap with
  | some t => .error t
  | none =>
    (r.s.loadLanes x o 0 (r.good.map fun e => e.2.acc)).map fun (s, bad) =>
      (r.good.foldl (fun s e => s.healReg x.key o.a.toNat e.1 e.2.base e.1.a) s, r.bad ++ bad)

/-- STH (R238): the data stands in operand c. -/
def State.sthLanes (o : Ops) (s : State) (x : MemCtx) : MemResult :=
  let n := accWidth o.ty
  let r := s.refLanes (fun s p => s.objAccess x p n) x.ops
  match r.trap with
  | some t => .error t
  | none =>
    (r.s.storeLanes x n (fun p => p.c) (r.good.map fun e => e.2.acc)).map fun (s, bad) =>
      (r.good.foldl (fun s e => s.healReg x.key o.a.toNat e.1 e.2.base e.1.a) s, r.bad ++ bad)

/-- The location of an LDREF or STREF: raw, or in an object through its base (R237). -/
def State.refPlace (s : State) (x : MemCtx) (h : Bool) (p : LaneOps) : Except RefStop (State × RefAcc) :=
  if h then s.objAccess x p 8 else .ok (s, { acc := p.plain 8, base := p.a })

/-- An LDREF or LWAIT.try is served under a lease that its L1 holds and not at the home; which, the manual leaves open (assumption 15), but where an
earlier load of the thread of the line is on its way, it is served at the home (R198). -/
def State.refUnder (s : State) (x : MemCtx) (lane : Nat) (pas : List Nat) : Bool :=
  (s.leaseValue x.core pas).isSome && s.freeBool (60001 + lane) && !s.loading x.key lane pas

/-- The value that it loads. -/
def State.refValue (s : State) (x : MemCtx) (lane : Nat) (pas : List Nat) : Word :=
  if s.refUnder x lane pas then (s.leaseValue x.core pas).getD 0 else s.homeValue x.core pas

/-- The lines of the lanes that were served at the home are leased (R206). -/
def State.refLeases (s : State) (x : MemCtx) (es : List (LaneAcc × List Nat)) : State :=
  ((es.flatMap fun e => if s.refUnder x e.1.ops.lane e.2 then [] else e.2.map lineOf).dedup).foldl (fun s line => s.grantLease x.core line) s

/-- The core's L1 shows bytes that one of its threads has written at the home to its later loads (R198, R201). -/
def State.showStored (s : State) (core pa : Nat) (bs : List Byte) : State :=
  { s with leases := s.leases.map fun l => l.stored core pa bs }

/-- The write-back of a healed reference (R237): one compare-and-swap at the home, dropped on any fault or refusal, and where the core's
own store is still on its way. -/
def State.writeBackRef (s : State) (x : MemCtx) (e : LaneAcc) (pas : List Nat) (old new : Word) : State :=
  let g := s.gangAt x.key
  if old = new then s
  else match s.translateVas x.core g.xlate .store x.priv none e.vas with
    | .error _ => s
    | .ok (s1, _) =>
      let pa := pas.headD 0
      let own := s1.stores.any fun t => t.core == x.core && decide (t.pa < pa + 8) && decide (pa < t.pa + t.bytes.length)
      if own || word (leNat (pas.map s1.peek)) != old || (s1.readError g.world (lineOf pa)).isSome then s
      else
        let s2 := s1.homeStore (some x.core) (requesterOf (partOf x.key)) g.world pa (leBytes 8 new.toNat)
        let w := max (s1.leaseEnd (lineOf pa)) s2.gtime
        (s2.showStored x.core pa (leBytes 8 new.toNat)).onThread x.key e.ops.lane fun t => t.horizon w

/-- The alignment check of an LDREF or STREF comes before its range (R228, R237): objects lie at multiples of 16 (R282), so a lane's offset decides it.
TRAPADDR is the address of the lowest such lane, a free value where its reference does not resolve. -/
def State.refAligned (s : State) (x : MemCtx) (h : Bool) : Option TrapReq :=
  let low := fun (p : LaneOps) => if h then ((heapOffset p.a p.b) % 8).toNat else p.at.toNat % 8
  let addr := fun (p : LaneOps) =>
    if !h then p.at
    else match s.resolve x.core (s.gangAt x.key).world (s.gangAt x.key).xlate x.priv p.a with
      | .ok (_, ob) => ob.copy + BitVec.ofInt 64 (heapOffset p.a p.b)
      | .error _ => s.freeAddr
  match x.ops.filter fun p => low p != 0 with
  | [] => none
  | p :: ps => some { cause := .misaligned, mask := maskOfOps (p :: ps), addr := addr p, info := s.freeInfo }

/-- LDREF (R237): load, resolve a value that is not null, heal, write back. -/
def State.ldrefLanes (o : Ops) (s : State) (x : MemCtx) : MemResult :=
  let h := o.opmod.toNat = 1
  let r := s.refLanes (fun s p => s.refPlace x h p) x.ops
  match s.refAligned x h with
  | some t => .error t
  | none =>
    match r.trap with
    | some t => .error t
    | none =>
      let t := r.s.translateLanes x .load 0 (r.good.map fun e => e.2.acc)
      match s.watch x.key 1 0 (t.good.map fun e => (e.1.ops.lane, e.1.vas)) with
      | some w => .error w
      | none =>
        match t.s.poisonTrap x t.good with
        | some w => .error w
        | none =>
          let xlate := (s.gangAt x.key).xlate
          let loaded := t.good.map fun e => (e, t.s.refValue x e.1.ops.lane e.2)
          let pick := fun (k : Nat) => (loaded.find? fun e => e.1.1.ops.lane == k).map (·.2)
          let q := (t.s.refLeases x t.good).refLanes
            (fun s p =>
              let v := (pick p.lane).getD 0
              if refIndex v = 0 then .ok (s, v) else (s.resolve x.core (s.gangAt x.key).world xlate x.priv v).map fun (s, ob) => (s, refHeal v ob.colour))
            (t.good.map fun e => e.1.ops)
          match q.trap with
          | some w => .error w
          | none =>
            let s1 := if h then r.good.foldl (fun s e => s.healReg x.key o.a.toNat e.1 e.2.base e.1.a) q.s else q.s
            let s2 := q.good.foldl
              (fun s e =>
                let s := s.onThread x.key e.1.lane fun t => t.setH o.dst.toNat (refPin e.2 false)
                match loaded.find? fun l => l.1.1.ops.lane == e.1.lane with
                | some l => s.writeBackRef x l.1.1 l.1.2 l.2 e.2
                | none => s) s1
            .ok (s2, r.bad ++ t.bad ++ q.bad)

/-- STREF (R237): the reference stored is resolved and healed unless it is null; it stands in operand c. -/
def State.strefLanes (o : Ops) (s : State) (x : MemCtx) : MemResult :=
  let h := o.opmod.toNat = 1
  let xlate := (s.gangAt x.key).xlate
  let r := s.refLanes
    (fun s p => do
      let (s, a) ← s.refPlace x h p
      if refIndex p.c = 0 then .ok (s, (a, (0 : Word)))
      else
        let (s, ob) ← s.resolve x.core (s.gangAt x.key).world xlate x.priv p.c
        .ok (s, (a, refHeal p.c ob.colour))) x.ops
  match s.refAligned x h with
  | some t => .error t
  | none =>
    match r.trap with
    | some t => .error t
    | none =>
      let value := fun (p : LaneOps) => match r.good.find? fun e => e.1.lane == p.lane with
        | some e => refPin e.2.2 false
        | none => 0
      (r.s.storeLanes x 8 value (r.good.map fun e => e.2.1.acc)).map fun (s, bad) =>
        (r.good.foldl
          (fun s e =>
            let s := if h then s.healReg x.key o.a.toNat e.1 e.2.1.base e.1.a else s
            if refIndex e.1.c = 0 then s else s.healReg x.key o.dst.toNat e.1 e.2.2 e.1.c) s, r.bad ++ bad)

/-- Change the pin count of an object's entry (R239, R262): like a store of the thread. -/
def State.setPins (s : State) (x : MemCtx) (lane : Nat) (ob : Obj) (count : Nat) : State :=
  let g := s.gangAt x.key
  match s.translateVas x.core g.xlate .store x.priv none (vaRange (ob.entry + 12) 2) with
  | .error _ => s
  | .ok (s, pas) =>
    let s1 := s.writePas (some x.core) (requesterOf (partOf x.key)) g.world pas (leBytes 2 count)
    let w := pas.foldl (fun w pa => max w (s.leaseEnd (lineOf pa))) s1.gtime
    (s1.showStored x.core (pas.headD 0) (leBytes 2 count)).onThread x.key lane fun t => t.horizon w

/-- The lanes of PIN and UNPIN with their objects and the pin counts in memory (R239). Where a lane changes the count, it is checked as a store of
the thread (R262, R266). -/
def State.pinRefs (s : State) (x : MemCtx) (changes : Word → Bool) : RefLanes (Obj × Nat) :=
  s.refLanes
    (fun s p => do
      let (s, ob) ← s.resolve x.core (s.gangAt x.key).world (s.gangAt x.key).xlate x.priv p.a
      let (s, n) ← s.tableRead x.core (s.gangAt x.key).world (s.gangAt x.key).xlate (ob.entry + 12) x.priv 2
      if !changes p.a then .ok (s, (ob, n)) else match s.translateVas x.core (s.gangAt x.key).xlate .store x.priv none (vaRange (ob.entry + 12) 2) with
      | .error f => .error (.fault { f with info := f.info + 2 ^ 14 })
      | .ok (s, _) => .ok (s, (ob, n))) x.ops

/-- The count that a lane changes is still being stored to by its core: the change follows those stores (R198, R201, R262). -/
def State.pinWaits (s : State) (x : MemCtx) (changes : Word → Bool) : Bool :=
  x.ops.any fun p => changes p.a &&
    match s.resolve x.core (s.gangAt x.key).world (s.gangAt x.key).xlate x.priv p.a with
    | .ok (_, ob) => match s.translateVas x.core (s.gangAt x.key).xlate .probe x.priv none (vaRange (ob.entry + 12) 2) with
      | .ok (_, pas) => s.stores.any fun t => t.core == x.core && !t.bank && meets t.pa t.bytes.length (pas.headD 0) 2
      | .error _ => false
    | .error _ => false

/-- How many earlier lanes of a list name the same object. -/
def earlierPins (ls : List (LaneOps × Obj × Nat)) (lane index : Nat) : Nat :=
  (ls.filter fun e => e.1.lane < lane && e.2.1.index == index).length

/-- PIN (R239): h register in operand a. -/
def State.pinLanes (o : Ops) (s : State) (x : MemCtx) : MemResult :=
  let r := s.pinRefs x fun _ => true
  match r.trap with
  | some t => .error t
  | none =>
    let excess := r.good.filter fun e => 65535 ≤ e.2.2 + earlierPins r.good e.1.lane e.2.1.index
    match excess with
    | e :: _ => .error { cause := .pinLimit, mask := maskOf fun k => excess.any fun e => e.1.lane == k, addr := e.1.a, info := 0 }
    | [] =>
      .ok (r.good.foldl
        (fun s e =>
          (s.setPins x e.1.lane e.2.1 (e.2.2 + earlierPins r.good e.1.lane e.2.1.index + 1)).onThread x.key e.1.lane fun t =>
            t.setH o.dst.toNat (refPin (refHeal e.1.a e.2.1.colour) true)) r.s, r.bad)

/-- UNPIN (R239): a register that is not pinned is only healed. -/
def State.unpinLanes (o : Ops) (s : State) (x : MemCtx) : MemResult :=
  let r := s.pinRefs x refPinned
  match r.trap with
  | some t => .error t
  | none =>
    let held := r.good.filter fun e => refPinned e.1.a
    .ok (r.good.foldl
      (fun s e =>
        let v := refHeal e.1.a e.2.1.colour
        if refPinned e.1.a then
          (s.setPins x e.1.lane e.2.1 (e.2.2 - earlierPins held e.1.lane e.2.1.index - 1)).onThread x.key e.1.lane fun t =>
            t.setH o.dst.toNat (refPin v false)
        else s.onThread x.key e.1.lane fun t => t.setH o.dst.toNat v) r.s, r.bad)

/-- REFADDR (R239). -/
def State.refaddrLanes (o : Ops) (s : State) (x : MemCtx) : MemResult :=
  let r := s.refLanes
    (fun s p => do
      let (s, ob) ← s.resolve x.core (s.gangAt x.key).world (s.gangAt x.key).xlate x.priv p.a
      if refPinned p.a then .ok (s, ob) else .error (.trap .heapStaleRef p.a 2)) x.ops
  match r.trap with
  | some t => .error t
  | none =>
    .ok (r.good.foldl
      (fun s e =>
        (s.healReg x.key o.a.toNat e.1 (refHeal e.1.a e.2.colour) e.1.a).onThread x.key e.1.lane fun t =>
          t.setD o.dst.toNat (e.2.copy + word (refOffset e.1.a))) r.s, r.bad)

/-- REFCMP (R240): hX in operand a, hY in operand b. -/
def State.refcmpLanes (o : Ops) (s : State) (x : MemCtx) : MemResult :=
  let one := fun (s : State) (r : Word) =>
    if refIndex r = 0 then (.ok (s, r) : Except RefStop (State × Word))
    else (s.resolve x.core (s.gangAt x.key).world (s.gangAt x.key).xlate x.priv r).map fun (s, ob) => (s, refHeal r ob.colour)
  let r := s.refLanes
    (fun s p => do
      let (s, a) ← one s p.a
      let (s, b) ← one s p.b
      .ok (s, (a, b))) x.ops
  match r.trap with
  | some t => .error t
  | none =>
    .ok (r.good.foldl
      (fun s e =>
        let nul := refIndex e.1.a = 0 ∧ refIndex e.1.b = 0
        let eq := decide (nul ∨ refIndex e.1.a = refIndex e.1.b ∧ refOffset e.1.a = refOffset e.1.b)
        ((s.healReg x.key o.a.toNat e.1 e.2.1 e.1.a).healReg x.key o.b.toNat e.1 e.2.2 e.1.b).onThread x.key e.1.lane fun t =>
          (t.setP (o.dst.toNat % 8) eq).setP (o.dst.toNat / 8 % 8) (!eq)) r.s, r.bad)

end Sys2Proof.Machine
end

