-- ==== Sys2Proof/Machine/Overflow.lean ====
section
/-! DEFINITION. The overflow engine: spilling to and refilling from a launch's ring on a die (R327 to R330). The spilled entries themselves
stay in their queues' lists, marked; the ring holds the slots that software can read. -/

namespace Sys2Proof.Machine

/-- The ring of a launch on a die, empty until it is used. -/
def State.ringOf (s : State) (launch die : Nat) : Ring :=
  (s.rings.find? fun r => r.launch == launch && r.die == die).getD
    { launch := launch, die := die, head := 64, tail := 64, high := 0, live := [] }

/-- Keep a ring. -/
def State.setRing (s : State) (r : Ring) : State :=
  { s with rings := r :: s.rings.filter fun q => !(q.launch == r.launch && q.die == r.die) }

/-- A launch's ring quota in bytes, and the base of its ring on a die (R317, R327). -/
def State.quotaOf (s : State) (launch die : Nat) : Nat := match s.launchOn launch die with | some l => l.packet.quota | none => 0
def State.ringBase (s : State) (launch die : Nat) : Word :=
  match s.launchOn launch die with | some l => l.packet.ring + word (die * l.packet.quota) | none => 0

/-- The slot after one (R328). -/
def nextSlot (quota off : Nat) : Nat := if quota < off + 64 then 64 else off + 32

/-- How many entries of a queue lie in a launch's ring. -/
def Ring.count (r : Ring) (kind queue : Nat) : Nat := (r.live.filter fun e => e.kind == kind && e.queue == queue).length

/-- The rings of a die hold spilled entries of a queue: a new entry for it is spilled behind them (R329). -/
def State.spilledAny (s : State) (die kind queue : Nat) : Bool := s.rings.any fun r => r.die == die && r.count kind queue != 0

/-- A spill breaches the quota (R330). -/
def State.breaches (s : State) (launch die : Nat) : Bool :=
  let q := s.quotaOf launch die
  q == 0 || nextSlot q (s.ringOf launch die).tail == (s.ringOf launch die).head

/-- How many entries a launch can spill on a die before it breaches its quota (R328, R330). -/
def State.ringRoom (s : State) (launch die : Nat) : Nat :=
  let n := (s.quotaOf launch die - 64) / 32
  let r := s.ringOf launch die
  n - 1 - (r.tail + 32 * n - r.head) / 32 % n

/-- The engine writes a part of a ring with a weak store through the launch's translation. A write that faults is dropped (assumption 17). -/
def State.ringWrite (s : State) (launch die off : Nat) (bs : List Byte) : State :=
  match s.launchOn launch die with
  | none => s
  | some l =>
    match s.writeVa l.packet.xlate (s.ringBase launch die + word off) true l.world bs with
    | .ok s => s
    | .error _ => s

/-- The header of a ring (R328). -/
def Ring.header (r : Ring) : List Byte := leBytes 8 r.head ++ leBytes 8 r.tail ++ leBytes 8 r.live.length ++ leBytes 8 r.high ++ List.replicate 32 0

/-- The place of the next spill in the order of all spills (R329). -/
def State.nextStamp (s : State) : Nat := s.rings.foldl (fun n r => r.live.foldl (fun n e => max n (e.stamp + 1)) n) 0

/-- A spill (R327, R328), where it does not breach the quota: the slot is written at the tail, with the queue's identity in the device's
own form. -/
def State.spill (s : State) (launch die kind queue : Nat) (item : Nat × Nat) (payload : List Byte) : State :=
  let r := s.ringOf launch die
  let live := r.live ++ [{ offset := r.tail, kind := kind, queue := queue, item := item, stamp := s.nextStamp }]
  let r' := { r with tail := nextSlot (s.quotaOf launch die) r.tail, live := live, high := max r.high live.length }
  let id := (List.range 6).map fun j => Config.ringFormat (queue * 8 + j)
  let bytes := (payload ++ List.replicate 24 0).take 24 ++ id ++ leBytes 1 (min kind 4) ++ leBytes 1 1
  ((s.setRing r').ringWrite launch die r.tail bytes).ringWrite launch die 0 r'.header

/-- A slot's entry has gone back to its queue (R329): its live bit is cleared and the head passes cleared slots. -/
def State.unspill (s : State) (launch die : Nat) (e : RingSlot) : State :=
  let r := s.ringOf launch die
  let live := r.live.erase e
  let r' := { r with live := live, head := match live with | f :: _ => f.offset | [] => r.tail }
  ((s.setRing r').ringWrite launch die (e.offset + 31) [0]).ringWrite launch die 0 r'.header

/-- The kinds of R328. -/
def kindWindow : Nat := 0
def kindConstraint : Nat := 1
def kindService : Nat := 2
def kindRedseq : Nat := 3
def kindLaunch : Nat := 4
/-- A spilled phase (R327): R328 gives it no kind of its own. DESIGN CHOICE (assumption 64): in memory it is of kind 4, with its record's address. -/
def kindPhase : Nat := 5

/-- The word of a sequence in a ring's slots: its address with its width (R247). -/
def seqKey (pa : Nat) (t : Ty) : Nat := 2 * pa + bit (t.width == 64)

/-- Words of sequences lie at other addresses, also those whose contributions lie in rings (R224, R286). -/
def State.moveSeqs (s : State) (move : Nat → Nat) : State :=
  { s with
    redseqs := s.redseqs.map fun q => { q with pa := move q.pa }
    rings := s.rings.map fun r =>
      { r with
        live := r.live.map fun e =>
          if e.kind = kindRedseq then { e with item := (2 * move (e.item.1 / 2) + e.item.1 % 2, e.item.2) } else e } }

/-- A QUEUE_QUOTA trap (R330). -/
def State.quotaTrap (s : State) (m : Mask) (launch die kind : Nat) : TrapReq :=
  { cause := .queueQuota, mask := m, addr := s.ringBase launch die, info := word kind }

end Sys2Proof.Machine
end

