-- ==== Sys2Proof/Machine/Cross.lean ====
section
/-! DEFINITION. The cross-lane and predicate block 0x0A0 (R180 to R188), and the trees of R66 to R68. -/

namespace Sys2Proof.Machine

/-- The operations of trees and group reductions (R180, R241): ADD, MIN, MAX. -/
def combine (t : Ty) (op : Nat) (r : Rnd) (sat : Bool) (a b : Nat) : Nat × FFlags :=
  if t.isFloat then
    let f := Fmt.of t
    match op with
    | 0 => f.deliver r false ((f.decode a).add r (f.decode b))
    | 1 => f.pick false a b
    | _ => f.pick true a b
  else
    let x := valueOf t a
    let y := valueOf t b
    (match op with
      | 0 => deliverInt t sat (x + y)
      | 1 => wrapTo t.width (min x y)
      | _ => wrapTo t.width (max x y), {})

/-- The identities (R66). -/
def identity (t : Ty) (op : Nat) : Nat :=
  if t.isFloat then
    let f := Fmt.of t
    match op with
    | 0 => f.zero true
    | 1 => f.inf false
    | _ => f.inf true
  else
    match op with
    | 0 => 0
    | 1 => wrapTo t.width (highBound t.signed t.width)
    | _ => wrapTo t.width (lowBound t.signed t.width)

/-- One level of a pairwise tree: element 2i with element 2i + 1 (R66). -/
def treeLevel (f : Nat → Nat → Nat × FFlags) : List Nat → List Nat × FFlags
  | a :: b :: xs =>
    let (v, fl) := f a b
    let (vs, fls) := treeLevel f xs
    (v :: vs, fl.or fls)
  | xs => (xs, {})

/-- n levels of a pairwise tree, with the flags of every step (R66, R182). -/
def treeReduce (f : Nat → Nat → Nat × FFlags) : Nat → List Nat → List Nat × FFlags
  | 0, xs => (xs, {})
  | n + 1, xs =>
    let (ys, fl) := treeLevel f xs
    let (zs, fl') := treeReduce f n ys
    (zs, fl.or fl')

/-- One step of a scan over the lanes: lane k combines with lane k − d, the lower lane on the left (R67). -/
def scanStep (f : Nat → Nat → Nat × FFlags) (d : Nat) (v : List Nat) : List Nat × FFlags :=
  let xs := (List.range v.length).map fun k => if d ≤ k then f (v.getD (k - d) 0) (v.getD k 0) else (v.getD k 0, {})
  (xs.map (·.1), xs.foldl (fun acc x => acc.or x.2) {})

/-- The five steps of a scan (R67). -/
def scanAll (f : Nat → Nat → Nat × FFlags) (v : List Nat) : List Nat × FFlags :=
  [1, 2, 4, 8, 16].foldl (fun acc d => let r := scanStep f d acc.1; (r.1, acc.2.or r.2)) (v, {})

/-- The elements that the 32 lanes bring to a position: the identity of a lane that takes no part (R66, R181). -/
def State.position (s : State) (o : Ops) (L : Mask) (op j : Nat) : List Nat :=
  (List.range 32).map fun k => if L.getLsbD k then sub (s.opA o k) o.ty.width j else identity o.ty op

/-- XRED (R66, R182). -/
def State.xred (s : State) (o : Ops) : State :=
  let op := o.opmod.toNat % 4
  s.issue 0xA2 o fun L =>
    let out := perSub o fun j =>
      let (v, fl) := treeReduce (combine o.ty op o.rnd o.sat) 5 (s.position o L op j)
      (v.headD 0, fl)
    s.writeBack o 16 L fun _ => out

/-- XRED (R182). -/
def execXred (o : Ops) (s : State) : Host.Outcome State Fault Refusal := .next (s.xred o)

/-- XSCAN (R67, R182): inclusive, or exclusive with op_mod [63]. -/
def State.xscan (s : State) (o : Ops) : State :=
  let op := o.opmod.toNat % 4
  let excl := 4 ≤ o.opmod.toNat
  s.issue 0xA3 o fun L =>
    let cols := (List.range (if o.lo then 1 else o.ty.count)).map fun j =>
      scanAll (combine o.ty op o.rnd o.sat) (s.position o L op j)
    let fl := cols.foldl (fun acc c => acc.or c.2) {}
    let at' := fun (c : List Nat × FFlags) (k : Nat) =>
      if excl then (if k = 0 then identity o.ty op else c.1.getD (k - 1) 0) else c.1.getD k 0
    s.writeBack o 16 L fun k => { perSub o fun j => (at' (cols.getD j ([], {})) k, {}) with flags := fl }

/-- XSCAN (R182). -/
def execXscan (o : Ops) (s : State) : Host.Outcome State Fault Refusal := .next (s.xscan o)

/-- The lane and sub-element that XSHFL reads for sub-element j of lane k (R184). -/
def shflSource (o : Ops) (k j idx : Nat) : Nat × Nat :=
  let d := idx % 32
  match o.opmod.toNat % 4 with
  | 0 => (d, idx / 32 % o.ty.count)
  | 1 => if k < d then (k, j) else (k - d, j)
  | 2 => if 32 ≤ k + d then (k, j) else (k + d, j)
  | _ => (k ^^^ d, j)

/-- XSHFL (R183, R184). The valid bits of every lane read are checked. -/
def State.xshfl (s : State) (o : Ops) : State :=
  s.issue 0xA0 o fun L =>
    let n := if o.lo then 1 else o.ty.count
    let src := fun k j => shflSource o k j (sub (s.opB o k) o.ty.width j)
    match s.crossChecks o L fun k => (List.range n).map fun j => (src k j).1 with
    | some t => .error t
    | none => s.writeBack o 8 L fun k => perSub o fun j => (sub (s.opA o (src k j).1) o.ty.width (src k j).2, {})

/-- XSHFL (R184). -/
def execXshfl (o : Ops) (s : State) : Host.Outcome State Fault Refusal := .next (s.xshfl o)

/-- XBCAST (R185): a uniform index; its literal is its 32 bits. -/
def State.xbcast (s : State) (o : Ops) : State :=
  s.issue 0xA1 o fun L =>
    match s.uniform L fun k => s.opBNat o k with
    | .error t => .error t
    | .ok idx =>
      let src := idx.toNat % 32
      match s.crossChecks o L fun _ => [src] with
      | some t => .error t
      | none =>
        let v := s.opA o src
        let el := sub v o.ty.width (Word.field idx 10 8 % o.ty.count)
        s.writeBack o 8 L fun _ => { val := if o.opmod.toNat % 2 = 1 then spread o.ty.width el else v }

/-- XBCAST (R185). -/
def execXbcast (o : Ops) (s : State) : Host.Outcome State Fault Refusal := .next (s.xbcast o)

/-- XBALLOT (R186). -/
def execXballot (o : Ops) (s : State) : Host.Outcome State Fault Refusal :=
  .next (s.issue 0xA4 o fun L =>
    let m := those L fun k => s.regP k (s.cl k) o.a.toNat != (o.opmod.toNat % 2 == 1)
    s.writeBack o 8 L fun _ => { val := word m.toNat })

/-- Write a predicate pair in the lanes of a mask, pB after pA (R187). -/
def State.writePair (s : State) (o : Ops) (m : Mask) (lat : Nat) (f : Nat → Bool × Bool) : State :=
  s.onLanes s.cur.gang m fun k t =>
    (t.resultP (o.dst.toNat % 8) (f k).1 lat s.clock s.cur.pc).resultP (o.dst.toNat / 8 % 8) (f k).2 lat s.clock s.cur.pc

/-- XVOTE (R186). -/
def execXvote (o : Ops) (s : State) : Host.Outcome State Fault Refusal :=
  .next (s.issue 0xA5 o fun L =>
    let p := fun k => s.regP k (s.cl k) o.a.toNat
    let all := (lanes L).all p
    let any := (lanes L).any p
    let c := match o.opmod.toNat % 4 with
      | 0 => all
      | 1 => any
      | _ => all || !any
    .ok (s.writePair o L 8 fun _ => (c, !c)))

/-- XMATCH (R186). -/
def execXmatch (o : Ops) (s : State) : Host.Outcome State Fault Refusal :=
  .next (s.laneStep 0xA6 o 8 fun k =>
    { val := word (those (s.guarded o.guard) fun j => s.opA o j == s.opA o k).toNat })

/-- The condition of ICMP (R187). -/
def icmpCond (cond : Nat) (a b : Int) : Bool :=
  match cond with
  | 0 => a == b
  | 1 => a != b
  | 2 => decide (a < b)
  | 3 => decide (a ≤ b)
  | 4 => decide (b < a)
  | _ => decide (b ≤ a)

/-- The condition of FCMP and the flags it raises (R187). -/
def fcmpCond (cond : Nat) (x y : FV) : Bool × FFlags :=
  let un := x.isNan || y.isNan
  let c := match cond with
    | 0 => !un && x.same y
    | 1 => un || !x.same y
    | 2 => !un && x.lt false y
    | 3 => !un && !y.lt false x
    | 4 => !un && y.lt false x
    | 5 => !un && !x.lt false y
    | 6 => un
    | _ => !un
  (c, { nv := x.snan || y.snan || (un && 2 ≤ cond && cond ≤ 5) })

/-- The new pair under a combining type, for a lane whose guard is true (R187). -/
def combinePair (kind : Nat) (c : Bool) (pa pb : Bool) : Bool × Bool :=
  let d := if kind % 2 = 1 then !c else c
  match kind / 2 with
  | 0 | 1 => (d, !d)
  | 2 => (pa && d, pb || !d)
  | _ => (pa || d, pb && !d)

/-- A compare (R187): the pair in guarded lanes, and under the zeroing kinds cleared in the bundle's other lanes. DESIGN CHOICE (assumption 71): under
the guard ?!p7, which is false in every lane, a zeroing compare clears the pair. -/
def State.compare (s : State) (op : Nat) (o : Ops) (f : Nat → Bool × FFlags) : State :=
  s.issue op o fun L =>
    let kind := o.opmod.toNat
    let old := fun k => (s.regP k (s.cl k) (o.dst.toNat % 8), s.regP k (s.cl k) (o.dst.toNat / 8 % 8))
    let s1 := (s.writePair o L 4 fun k => combinePair kind (f k).1 (old k).1 (old k).2).onLanes s.cur.gang L
      fun k t => t.raise (f k).2
    .ok (if kind / 2 = 1 then s1.writePair o (s.cur.lanes &&& ~~~L) 4 fun _ => (false, false) else s1)

/-- ICMP (R187). -/
def execIcmp (o : Ops) (s : State) : Host.Outcome State Fault Refusal :=
  .next (s.compare 0xA7 o fun k =>
    (icmpCond o.c.toNat (valueOf o.ty (sub (s.opA o k) o.ty.width 0)) (valueOf o.ty (sub (s.opB o k) o.ty.width 0)), {}))

/-- FCMP (R187). -/
def execFcmp (o : Ops) (s : State) : Host.Outcome State Fault Refusal :=
  .next (s.compare 0xA8 o fun k =>
    let f := Fmt.of o.ty
    fcmpCond o.c.toNat (f.decode (sub (s.opA o k) o.ty.width 0)) (f.decode (sub (s.opB o k) o.ty.width 0)))

/-- A predicate operation (R188), with the complements that op_mod names. -/
def State.predOp (s : State) (op : Nat) (o : Ops) (f : Bool → Bool → Bool) : State :=
  s.issue op o fun L =>
    let pa := fun k => s.regP k (s.cl k) o.a.toNat != (o.opmod.toNat % 2 == 1)
    let pb := fun k => s.regP k (s.cl k) o.b.toNat != (o.opmod.toNat / 2 % 2 == 1)
    .ok (s.onLanes s.cur.gang L fun k t => t.resultP o.dst.toNat (f (pa k) (pb k)) 4 s.clock s.cur.pc)

/-- PAND (R188). -/
def execPand (o : Ops) (s : State) : Host.Outcome State Fault Refusal := .next (s.predOp 0xA9 o (· && ·))

/-- POR (R188). -/
def execPor (o : Ops) (s : State) : Host.Outcome State Fault Refusal := .next (s.predOp 0xAA o (· || ·))

/-- PXOR (R188). -/
def execPxor (o : Ops) (s : State) : Host.Outcome State Fault Refusal := .next (s.predOp 0xAB o (· != ·))

/-- PNOT (R188). -/
def execPnot (o : Ops) (s : State) : Host.Outcome State Fault Refusal := .next (s.predOp 0xAC o fun a _ => !a)

/-- p0 to p6 of a lane as bits (R188). -/
def State.predBits (s : State) (k : Nat) : Nat :=
  (List.range 7).foldl (fun n j => n + bit (s.regP k (s.cl k) j) * 2 ^ j) 0

/-- PMOV (R188): between predicates, .get into a value operand, .set from one. -/
def State.pmov (s : State) (o : Ops) : State :=
  match o.opmod.toNat with
  | 0 => s.issue 0xAD o fun L =>
      .ok (s.onLanes s.cur.gang L fun k t => t.resultP o.dst.toNat (s.regP k (s.cl k) o.a.toNat) 4 s.clock s.cur.pc)
  | 1 => s.issue 0xAD o fun L => s.writeBack o 4 L fun k => { val := word (s.predBits k + 128) }
  | _ => s.issue 0xAD o fun L =>
      .ok (s.onLanes s.cur.gang L fun k t =>
        (List.range 7).foldl (fun t j => t.resultP j (Word.flag (s.opA o k) j) 4 s.clock s.cur.pc) t)

/-- PMOV (R188). -/
def execPmov (o : Ops) (s : State) : Host.Outcome State Fault Refusal := .next (s.pmov o)

end Sys2Proof.Machine
end

