-- ==== Sys2Proof/Machine/Groups.lean ====
section
/-! DEFINITION. Groups: rounds of group barriers, phase ends and per-thread group reductions, which an arrival or an exit completes
(R114 to R120, R153 to R155, R248, R249). -/

namespace Sys2Proof.Machine

/-- The entry of a launch's group table (R114); an unused entry is none. -/
def State.groupOf (s : State) (launch grp : Nat) : Option Group :=
  match s.launchOf launch with
  | some l => l.groups.find? fun e => e.number == grp && !e.members.isEmpty
  | none => none

/-- Change an entry of a launch's group table. -/
def State.onGroup (s : State) (launch grp : Nat) (f : Group → Group) : State :=
  s.onLaunch launch fun l => { l with groups := l.groups.map fun e => if e.number = grp then f e else e }

/-- A gang's number in its launch. -/
def Gang.number (g : Gang) : Nat := gangNumber g.block g.idx

/-- A gang is a member of a group: it was launched, and its number is in the entry (R115). -/
def State.isMember (s : State) (g : Gang) (grp : Nat) : Bool :=
  !g.byCrossing && g.shadowOf.isNone &&
    match s.groupOf g.launch grp with
    | some e => e.members.contains g.number
    | none => false

/-- The resident gang of a launch with a number. -/
def State.gangNamed (s : State) (launch num : Nat) : Option Gang :=
  s.gangs.find? fun g => g.launch == launch && g.number == num && !g.byCrossing && g.shadowOf.isNone

/-- A member gang's place in its group's list. -/
def Group.place (e : Group) (num : Nat) : Nat := (e.members.findIdx? (· == num)).getD 0

/-- This device's rank in a remote group (R248). -/
def Group.rank (e : Group) : Nat := (e.peers.findIdx? (· == Config.node)).getD 0

/-- The narrowest scope that holds every member gang, as the code of R156 (R154). A member that is not resident counts as lying on
every die of the launch's mask. -/
def State.groupScope (s : State) (launch grp : Nat) : Nat :=
  match s.groupOf launch grp, s.launchOf launch with
  | some e, some l =>
    if e.remote then 5
    else
      let dieMask := Word.field (word l.packet.flags.toNat) 11 8
      let homes := e.members.map fun num =>
        match s.gangNamed launch num with
        | some g => some (coreOf g.key)
        | none => none
      let dies := (List.range 4).filter fun d => homes.any fun h =>
        match h with
        | some c => c / 48 == d
        | none => dieMask.testBit d
      let cores := homes.filterMap id
      if homes.any Option.isNone then (if dies.length ≤ 1 then 3 else 4)
      else if cores.all (· == cores.headD 0) then 1
      else if cores.all fun c => clusterOf c == clusterOf (cores.headD 0) then 2
      else if dies.length ≤ 1 then 3 else 4
  | _, _ => 4

/-- What the gangs of a launch that have left their partitions keep: saved ones, and those that wait for their next phase (R118, R309). -/
def State.awayGangs (s : State) (launch : Nat) : List (Nat × Kept) :=
  ((s.saved.filter fun v => v.launch == launch).map fun v => (gangNumber v.block v.idx, v.kept))
  ++ (List.range Config.dies).flatMap fun d => ((s.die d).phases.flatMap fun q => q.2).filterMap fun e =>
      match e with
      | .phase l b idx _ _ _ _ kept => if l = launch then some (gangNumber b idx, kept) else none
      | _ => none

/-- Every thread of a member gang has arrived in a round, or has exited; a gang that has ended takes no part. Threads of one that is saved, or between
two phases, have arrived where they did before (R116). -/
def State.memberDone (s : State) (launch num : Nat) (arrived : List (Nat × Nat)) : Bool :=
  match s.gangNamed launch num with
  | some g => (List.range 32).all fun k => (g.lane k).cond == .exited || arrived.contains (num, k)
  | none => match s.launchOf launch with
    | some l => l.gone.contains num || (s.awayGangs launch).any fun a => a.1 == num && (lanes a.2.live).all fun k => arrived.contains (num, k)
    | none => true

/-- The round of a group barrier: its record, or a fresh one. -/
def State.roundOf (s : State) (launch grp : Nat) : GroupRound :=
  (s.groupRounds.find? fun r => r.launch == launch && r.grp == grp).getD
    { launch := launch, grp := grp, round := 0, arrived := [], phaseOf := [], plain := [], peers := [] }

/-- Keep a round. -/
def State.setRound (s : State) (r : GroupRound) : State :=
  { s with groupRounds := r :: s.groupRounds.filter fun q => !(q.launch == r.launch && q.grp == r.grp) }

/-- A thread that waited in an instruction goes on to the next; it joins a bundle at the next regrouping (R105, R150). -/
def Thread.release (t : Thread) : Thread :=
  { t with wait := .no, pc := t.pc + word t.waitLen, waitLen := 0, bundle := none }

/-- The carry set with which a gang ends its phase in a round: every thread that has not exited waits in GBARP with one cd and cg, none
of the gang arrived otherwise, and it has no shadow (R118, R155). -/
def phaseSet (g : Gang) (grp : Nat) (r : GroupRound) : Option (Nat × Nat) :=
  let waits := (lanes g.live).map fun k => (g.lane k).wait
  match waits with
  | .phase q cd cg :: _ =>
    if q = grp ∧ waits.all (· == .phase grp cd cg) ∧ !r.plain.contains g.number ∧ g.shadow.isNone then some (cd, cg) else none
  | _ => none

/-- The valid bits that a record keeps: those of the first n registers (R119). -/
def carriedValid (v : BitVec 128) (n : Nat) : Nat := v.toNat % 2 ^ n

/-- The phase record (R119). -/
def phaseRecord (g : Gang) (grp cd cg : Nat) : List Byte :=
  let all := List.range 32
  leBytes 8 g.phase ++ leBytes 2 grp ++ leBytes 1 cd ++ leBytes 1 cg ++ leBytes 4 g.exited.toNat
  ++ (List.range 12).flatMap (fun n => leBytes 4 (g.getM n).toNat)
  ++ (List.range 12).flatMap (fun n => leBytes 4 (g.getA n).toNat)
  ++ leBytes 16 (carriedValid g.gValid cg)
  ++ all.flatMap (fun k =>
      let t := g.lane k
      leBytes 8 (t.pc + word t.waitLen).toNat ++ leBytes 8 t.meet.toNat ++ leBytes 8 t.hzn.toNat ++ leBytes 1 t.p.toNat
        ++ leBytes 1 t.ix.toNat ++ leBytes 6 0)
  ++ all.flatMap (fun k => (List.range 16).flatMap fun n => leBytes 8 ((g.lane k).getH n).toNat)
  ++ all.flatMap (fun k => leBytes 16 (carriedValid (g.lane k).dValid cd))
  ++ (List.range cg).flatMap (fun n => leBytes 8 (g.getG n).toNat)
  ++ (List.range cd).flatMap fun n => all.flatMap fun k => leBytes 8 ((g.lane k).getD n).toNat

/-- The size of a phase record (R119). -/
def phaseSize (cd cg : Nat) : Nat := 0x1680 + 8 * cg + 256 * cd

/-- The priority of a launch (R317). -/
def Launch.priority (l : Launch) : Nat := l.packet.flags.toNat % 8

/-- What a gang keeps beside its areas in memory (R51, R87, R116, R153). -/
def Gang.kept (g : Gang) : Kept where
  flags := (List.range 32).map fun k => ((g.lane k).fflags, (g.lane k).dyReserved)
  scacc := g.scaccError
  live := g.live
  arrivals := (List.range 32).map fun k => (g.lane k).arrivals

/-- A thread with the sticky flags and the recorded arrivals that it had (R51, R153). -/
def Kept.thread (c : Kept) (k : Nat) (t : Thread) : Thread :=
  let f := c.flags.getD k (0, false)
  { t with fflags := f.1, dyReserved := f.2, arrivals := c.arrivals.getD k [] }

/-- The phase queue of a priority of a die is full, or holds spilled entries (R327, R329). -/
def State.phaseQueueFull (s : State) (die q : Nat) : Bool :=
  s.spilledAny die kindPhase q || decide (Config.phaseQueue ≤ (SMap.get [] (s.die die).phases q).length)

/-- A gang ends its phase: its record is written, it leaves its partition, and its next phase is queued on its die (R118, R119, R321).
With no room for the record, or none that can be written, it cannot (R321, assumption 13). Where the phase queue is full the entry is spilled
(R327); it cannot end where the launch's ring has no room either (assumption 64). -/
def State.endPhase (s : State) (g : Gang) (grp cd cg : Nat) : Option State :=
  match s.launchOn g.launch (dieOf g.key) with
  | none => none
  | some l =>
    match freeArea l.packet.phaseRingSize l.areas (phaseSize cd cg) with
    | none => none
    | some off =>
      let at' := l.packet.phaseRing + word off
      match s.writeVa g.xlate at' true g.world (phaseRecord g grp cd cg) with
      | .error _ => none
      | .ok s1 =>
        let die := dieOf g.key
        let full := s.phaseQueueFull die l.priority
        let s2 := (s1.onLaunch g.launch fun l => l.useArea off (phaseSize cd cg)).vacate g.key
        let s3 := s2.onDie die fun d =>
          { d with
            phases := SMap.set [] d.phases l.priority
              (SMap.get [] d.phases l.priority ++ [.phase g.launch g.block g.idx at' cd cg l.priority g.kept]) }
        if !full then some s3
        else if s.breaches g.launch die then none
        else some (s3.spill g.launch die kindPhase l.priority (at'.toNat, 0) (leBytes 8 at'.toNat))

/-- A member gang's waiting threads leave a round: an acquire at the group's scope (R153, R154). -/
def State.leaveRound (s : State) (r : GroupRound) (scope : Nat) (g : Gang) : State :=
  (s.onLanes g.key g.live fun _ t =>
    match t.wait with
    | .group q => if q = r.grp then t.release else t
    | .phase q _ _ => if q = r.grp then t.release else t
    | .gwait q => if q = r.grp then { t.release with arrivals := SMap.set 0 t.arrivals q 0 } else t
    | _ => t).acquireAt (coreOf g.key) scope

/-- At completion, a member gang's waiting threads go on, or, where phases end, the gang ends its phase (R118, R155); none where it cannot. -/
def State.releaseMember (s : State) (r : GroupRound) (scope : Nat) (ends : Bool) (num : Nat) : Option State :=
  match s.gangNamed r.launch num with
  | none => some s
  | some g =>
    match if ends then phaseSet g r.grp r else none with
    | some (cd, cg) => s.endPhase g r.grp cd cg
    | none => some (s.leaveRound r scope g)

/-- The member gangs leave a completed round. Where one that ends its phase cannot, every GBARP arrival of the round acts as GBAR (R321). -/
def State.releaseRound (s : State) (r : GroupRound) (scope : Nat) (members : List Nat) : State :=
  (members.foldlM (fun (s : State) num => s.releaseMember r scope true num) s).getD
    (members.foldl (fun (s : State) num => (s.releaseMember r scope false num).getD s) s)

/-- A member gang that would end its phase has none of its asynchronous operations outstanding (R118, step 1): one that a lane issued after others had
arrived holds the round too. -/
def State.phaseDrained (s : State) (r : GroupRound) (num : Nat) : Bool :=
  match s.gangNamed r.launch num with
  | some g => (phaseSet g r.grp r).isNone || !s.busyAsync g.key
  | none => true

/-- The completion check of a group barrier, after an arrival, an exit, a peer's arrival or the end of an operation (R116, R118, R153). -/
def State.groupCheck (s : State) (launch grp : Nat) : State :=
  match s.groupOf launch grp with
  | none => s
  | some e =>
    let r := s.roundOf launch grp
    let peersIn := !e.remote || (List.range e.peers.length).all fun k => k == e.rank || r.peers.contains k
    if !r.arrived.isEmpty && peersIn && e.members.all fun num => s.memberDone launch num r.arrived && s.phaseDrained r num then
      (s.setRound { r with round := r.round + 1, arrived := [], phaseOf := [], plain := [], peers := [] }).releaseRound r
        (s.groupScope launch grp) e.members
    else s

/-- A group reduction's local tree over positions, padded with identities to a power of two (R248). DESIGN CHOICE
(assumption 73): the roundings raise no flag in any thread. -/
def treeOf (t : Ty) (op : Nat) (xs : List Nat) : Nat :=
  let depth := bitLen (xs.length - 1)
  ((treeReduce (combine t op .rne false) depth (xs ++ List.replicate (2 ^ depth - xs.length) (identity t op))).1).headD 0

/-- The result of a GREDW round at a sub-element position, without the other devices (R248, R249). -/
def GredRound.local (r : GredRound) (members j : Nat) : Nat :=
  treeOf r.ty r.op ((List.range (32 * members)).map fun p =>
    if r.given.contains p then sub (SMap.get 0 r.values p) r.ty.width j else identity r.ty r.op)

/-- The result of a GREDW round: the local tree, then the tree of the devices by rank, with the identity for one that failed (R248,
R251). -/
def GredRound.result (r : GredRound) (e : Group) : Word :=
  let el := fun j =>
    if e.remote then
      treeOf r.ty r.op ((List.range e.peers.length).map fun k =>
        if k = e.rank then r.local e.members.length j
        else if r.failed.contains k then identity r.ty r.op
        else sub ((SMap.get [] r.peers k).headD 0) r.ty.width j)
    else r.local e.members.length j
  packElems r.ty.width ((List.range r.ty.count).map el)

/-- Deliver a GREDW result to the threads of a gang that wait for it (R249); a g destination is written once (R23). -/
def State.deliverGredw (s : State) (grp : Nat) (ty : Ty) (v : Word) (g : Gang) : State :=
  (lanes g.live).foldl (fun s k =>
    match ((s.gangAt g.key).lane k).wait with
    | .gredw q dst isG lo =>
      if q ≠ grp then s
      else
        let merge := fun (old : Word) => if lo && ty.width < 64 then insertSub ty.width 0 old (sub v ty.width 0) else v
        let s := if isG then s.onGang g.key fun h => h.resultG dst (merge (h.getG dst)) else s
        s.onThread g.key k fun t => (if isG then t else t.setD dst (merge (t.getD dst))).release
    | _ => s) s

/-- The completion check of a GREDW round (R249, R251). -/
def State.gredwCheck (s : State) (launch grp : Nat) : State :=
  match s.groupOf launch grp, s.gredws.find? fun r => r.launch == launch && r.grp == grp with
  | some e, some r =>
    let given := fun num k => r.given.contains (32 * e.place num + k)
    let done := fun num => match s.gangNamed launch num with
      | some g => (List.range 32).all fun k => (g.lane k).cond == .exited || given num k
      | none => s.memberDone launch num []
    let peersIn := !e.remote || (List.range e.peers.length).all fun k =>
      k == e.rank || r.failed.contains k || r.peers.any (·.1 == k)
    if peersIn && e.members.all done then
      let v := r.result e
      let scope := s.groupScope launch grp
      let s := { s with gredws := s.gredws.filter fun q => !(q.launch == launch && q.grp == grp) }
      e.members.foldl (fun s num =>
        match s.gangNamed launch num with
        | some g => (s.deliverGredw grp r.ty v g).acquireAt (coreOf g.key) scope
        | none => s) s
    else s
  | _, _ => s

/-- The groups of a gang (R115: at most four). -/
def State.groupsOf (s : State) (g : Gang) : List Nat :=
  match s.launchOf g.launch with
  | some l => (l.groups.filter fun e => e.members.contains g.number && !g.byCrossing && g.shadowOf.isNone).map (·.number)
  | none => []

/-- After threads of a gang have exited, the rounds of its groups are checked (R116, R117, R132). -/
def State.checkGroups (s : State) (launch : Nat) (grps : List Nat) : State :=
  grps.foldl (fun s q => (s.groupCheck launch q).gredwCheck launch q) s

/-- An asynchronous operation of a gang has ended: a round whose phases its gang ends may complete (R118). -/
def State.opEnded (s : State) (key : Nat) : State :=
  let g := s.gangAt key
  if (lanes g.live).any fun k => match (g.lane k).wait with | .phase _ _ _ => true | _ => false then s.checkGroups g.launch (s.groupsOf g) else s

end Sys2Proof.Machine
end

