-- ==== Sys2Proof/Machine/Save.lean ====
section
/-! DEFINITION. Stopping at safe points and taking PREEMPT (R308, R310, R338). -/

namespace Sys2Proof.Machine

/-- A bit of FUNCMODE of a die (R362). -/
def State.funcBit (s : State) (die n : Nat) : Bool := (s.die die).funcMode.getLsbD n

/-- The live mask of a SAFE (R350) in the layout of TRAPINFO (R308). -/
def safeMask (ix : BitVec 7) (acc : Bool) (masks ggroups dgroups : Nat) : Word :=
  word (ix.toNat * 2 ^ 40 + bit acc * 2 ^ 36 + masks % 4096 * 2 ^ 24 + ggroups % 256 * 2 ^ 16 + dgroups % 65536)

/-- The size of a gang's save area (R310). -/
def State.areaSize (s : State) (g : Gang) : Nat :=
  4096 + 256 * g.allot + (match s.allocAt g.launch g.block (coreOf g.key) with | some a => a.size | none => 0)

/-- A gang can be saved (R308, R310): it was launched, in software mode its launch names a save routine, and its area fits. -/
def State.savable (s : State) (g : Gang) : Bool :=
  !g.byCrossing && match s.launchOn g.launch (dieOf g.key) with
    | none => false
    | some l =>
      (s.funcBit (dieOf g.key) 3 || l.packet.saveRoutine != 0)
      && (freeArea l.packet.phaseRingSize l.areas (s.areaSize g)).isSome

/-- SAFE stops threads of the gang now (R308): a request stands, no thread is held, no arrival mask holds a lane, and it can be saved. -/
def State.safeStops (s : State) (key : Nat) : Bool :=
  let g := s.gangAt key
  g.request.isSome && !g.taken
  && ((lanes g.live).all fun k => match (g.lane k).cond with | .held _ => false | _ => true)
  && ((List.range 12).all fun K => g.getA K == 0) && s.savable g

/-- A thread is stopped at a SAFE (R308). -/
def Thread.atSafe (t : Thread) : Bool := t.cond == .stopped .safePoint

/-- The threads stopped at SAFEs go on (R308). -/
def Gang.releaseStops (g : Gang) : Gang :=
  if g.taken then g
  else g.onLanes (BitVec.allOnes 32) fun _ t => if t.atSafe then { t with cond := .runnable, bundle := none } else t

/-- The trap registers of a thread at PREEMPT (R308): TRAPINFO is the live mask of its SAFE, with its ix as it is now. -/
def Thread.preempted (t : Thread) (m : Mask) : Thread :=
  { t with
    trapCause := BitVec.ofNat 8 (Cause.code .preempt), trapPc := t.pc, trapAddr := t.meet, trapMask := m
    trapInfo := word (t.safeInfo.toNat % 2 ^ 40 + t.ix.toNat * 2 ^ 40)
    hit := false
    oplogValid := false, oplogEntry := 0 }

/-- The gang takes PREEMPT once every thread that has not exited is stopped at a SAFE (R308, R310): its area is assigned, and in software mode
the threads enter the save routine. A gang with a shadow partner, and a parked one, does not (R338, R342). -/
def State.preemptCheck (s : State) (key : Nat) : State :=
  let g := s.gangAt key
  let live := g.live
  let ready := g.request.isSome && !g.taken && !g.parked && live != 0 && ((lanes live).all fun k => (g.lane k).atSafe)
    && !(match g.shadow with | some sh => s.resident sh | none => false) && s.savable g
  if !ready then s
  else match s.launchOn g.launch (dieOf key) with
    | none => s
    | some l =>
      match freeArea l.packet.phaseRingSize l.areas (s.areaSize g) with
      | none => s
      | some off =>
        let area := l.packet.phaseRing + word off
        let hardware := s.funcBit (dieOf key) 3
        let enter := fun (_ : Nat) (t : Thread) =>
          let t := t.preempted live
          if hardware then t
          else { t with cond := .runnable, mode := .save, pc := l.packet.saveRoutine, bundle := none, wait := .no }
        (s.onLaunch g.launch fun l => l.useArea off (s.areaSize g)).onGang key fun g =>
          { g.onLanes live enter with saveArea := area, inArea := true, taken := true, request := none }

/-- Gangs of a launch that wait for room for their areas take PREEMPT when there is some (R310). -/
def State.preemptWaiting (s : State) (launch : Nat) : State :=
  (s.gangs.filter fun g => g.launch == launch && g.request.isSome).foldl (fun s g => s.preemptCheck g.key) s

/-- The area of a gang's save or restore is no longer in use (R310), and SAVEAREA reads 0. -/
def State.endArea (s : State) (key : Nat) : State :=
  let g := s.gangAt key
  let ring := match s.launchOn g.launch (dieOf key) with | some l => l.packet.phaseRing | none => 0
  let s1 := (s.onLaunch g.launch fun l => l.dropArea (g.saveArea - ring).toNat).onGang key fun g =>
    { g with saveArea := 0, inArea := false, taken := false, carrier := false }
  s1.preemptWaiting g.launch

/-- A gang is in a save or restore routine while some thread of it is. -/
def Gang.inRoutine (g : Gang) : Bool := (lanes g.live).any fun k => (g.lane k).mode == .save || (g.lane k).mode == .restore

/-- The gang is in a save or a restore: by routine, or by the sequencer (R308, R314, R342). -/
def Gang.saving (g : Gang) : Bool := g.inRoutine || g.taken

/-- After an ERET: when every thread has left the routine, the area's use ends (R310). -/
def State.routineCheck (s : State) (key : Nat) : State :=
  let g := s.gangAt key
  if g.inArea ∧ !g.inRoutine ∧ !g.taken then s.endArea key else s

end Sys2Proof.Machine
end

