-- ==== Sys2Proof/Machine/Control.lean ====
section
/-! DEFINITION. The control block 0x0C0: branches, transfers and crossings, exits, meeting addresses, masks, widening, hints (R101 to
R143, R295 to R301). -/

namespace Sys2Proof.Machine

/-- Threads held at a WAIT on a mask register are released (R108): they go on after the WAIT and join a bundle at the next regrouping. -/
def Gang.releaseHeld (g : Gang) (K : Nat) (m : Mask) : Gang :=
  g.onLanes m fun _ t => if t.cond = .held K then { t.release with cond := .runnable } else if t.wait = .mask K then t.release else t

/-- A round of mK would complete with these masks (R108). -/
def completes (a m : Mask) : Bool := a != 0 && a == m

/-- The completion check of R108. -/
def Gang.maskCheck (g : Gang) (K : Nat) : Gang :=
  if completes (g.getA K) (g.getM K) then (g.setA K 0).releaseHeld K (BitVec.allOnes 32) else g

/-- JOIN and LEAVE (R109). -/
def Gang.join (g : Gang) (K : Nat) (L : Mask) : Gang := (g.setM K (g.getM K ||| L)).maskCheck K
def Gang.leave (g : Gang) (K : Nat) (L : Mask) : Gang :=
  ((g.setM K (g.getM K &&& ~~~L)).setA K (g.getA K &&& ~~~L)).maskCheck K

/-- A write of a member mask by MSET or MOP (R109): arrivals outside it are dropped, held threads removed from it are released. -/
def Gang.newMask (g : Gang) (K : Nat) (v : Mask) : Gang :=
  (((g.setM K v).setA K (g.getA K &&& v)).releaseHeld K (~~~v)).maskCheck K

/-- The bits of exited threads are cleared from every mask and arrival mask, each with its completion check (R109). -/
def Gang.dropLanes (g : Gang) (m : Mask) : Gang := (List.range 12).foldl (fun g K => g.leave K m) g

/-- A thread has exited (R103). -/
def Thread.exit (t : Thread) : Thread := { t with cond := .exited, bundle := none, wait := .no, waitLen := 0 }

/-- Lane 0 in NARROW goes on once the other lanes of the widening have exited (R139). -/
def Gang.narrowCheck (g : Gang) : Gang :=
  if g.widened.isSome && (g.lane 0).wait == .narrow && g.alone then
    { g.onLanes (laneMask 0) fun _ t => t.release with widened := none }
  else g

/-- Threads end (R132): masks, arrival masks, open rounds of their groups, the widening, a gang whose other threads are stopped for a
pre-emption. -/
def State.exitLanes (s : State) (key : Nat) (m : Mask) : State :=
  let grps := s.groupsOf (s.gangAt key)
  let s := s.onGang key fun g => ((g.onLanes m fun _ t => t.exit).dropLanes m).narrowCheck
  (s.checkGroups (s.gangAt key).launch grps).preemptCheck key

/-- Where the threads of an issue go on: those of a mask at their own targets, the others at the next instruction; the bundle splits where
pcs now differ (R105, R106). -/
def State.goTo (s : State) (o : Ops) (m : Mask) (target : Nat → Word) : State :=
  (s.onLanes s.cur.gang s.cur.lanes fun k t =>
    { t.issued s.clock o.stall.toNat o.yld with
      pc := if m.getLsbD k then target k else t.pc + word s.cur.len }).split

/-- A label's address: that of the instruction plus 4 × the signed literal (R37). -/
def State.label (s : State) (o : Ops) : Word := s.cur.pc + 4 * sext 32 ((o.lit.getD 0).toNat)

/-- BRA (R126). -/
def State.branch (s : State) (o : Ops) : State := s.issueFlow 0xC0 o fun L => .ok (s.goTo o L fun _ => s.label o)

/-- BRA (R126). -/
def execBra (o : Ops) (s : State) : Host.Outcome State Fault Refusal := .next (s.branch o)

/-- What step 2 of R127 finds for a target: a Flidan page, an RV64 page to which the thread migrates under the leaf it carries, a failure
at once with TRAPINFO (R123, R300), or a fault. -/
inductive Landing where
  | stay
  | away (pte : Word) (level : Nat)
  | refuse (info : Nat)
  | fault (f : PageFault)
  deriving DecidableEq, Repr

/-- The target's leaf is an executable RV64 page. -/
def Pte.rv64 (e : Word) : Bool := Pte.x e && Pte.isa e == 2

/-- Step 2 of R127 for one lane's target. -/
def State.landing (s : State) (core : Nat) (xlate target : Word) (priv shadow : Bool) : State × Landing :=
  match s.translate core xlate target .fetch priv with
  | .ok (s, _, _) => (s, .stay)
  | .error f =>
    match s.lookup core xlate target .fetch with
    | .error _ => (s, .fault f)
    | .ok (l, cached) =>
      if !canonical target || !Pte.rv64 l.pte then (s, .fault f)
      else if priv then (s, .refuse (if Pte.u l.pte then 0x15 else 0x13))
      else if f.cause != .pfExec then (s, .fault f)
      else if shadow then (s, .refuse 0x13)
      else (if cached then s else s.fill core xlate target .fetch l, .away l.pte l.level)

/-- Step 2 of R127 for the lanes of a list. -/
def State.landings (s : State) (target : Nat → Word) : List Nat → State × List (Nat × Landing)
  | [] => (s, [])
  | k :: ks =>
    let (s1, l) := s.landing (coreOf s.cur.gang) s.cg.xlate (target k) (s.cl k).priv s.cg.shadowOf.isSome
    let (s2, ls) := s1.landings target ks
    (s2, (k, l) :: ls)

/-- The lanes of a landing list that satisfy a test. -/
def landed (ls : List (Nat × Landing)) (p : Landing → Bool) : Mask := maskOf fun k => ls.any fun e => e.1 == k && p e.2

/-- The landing of a lane. -/
def landingOf (ls : List (Nat × Landing)) (k : Nat) : Landing :=
  match ls.find? fun e => e.1 == k with
  | some (_, l) => l
  | none => .stay

/-- A departing thread may begin its crossing (R140, R271, R297): everything it stored is performed and past the margin, its results have
arrived, it has no logged access, and lane 0 of a widening is alone. -/
def State.departReady (s : State) (key k : Nat) : Bool :=
  let g := s.gangAt key
  let t := g.lane k
  s.releaseDone key k 5 && t.slots == 0 && t.pending.isEmpty && !s.logged key k && (g.widened.isNone || g.alone)

/-- The code of a crossing kind (R298). -/
def crossCode : CrossKind → Nat
  | .jump => 0 | .call => 1 | .return => 2

/-- The header of a migration record (R298): kind, direction (1 towards the device, 2 towards the host), fcsr, target. -/
def recordHeader (kind : CrossKind) (dir : Nat) (fcsr : BitVec 8) (target : Word) : Word :=
  word (crossCode kind * 2 ^ 58 + dir * 2 ^ 56 + fcsr.toNat * 2 ^ 48 + Word.field target 47 0)

/-- The register image of a device thread (R295, R298): d1 to d63, 0 beyond its allotment. -/
def Thread.image (t : Thread) (allot : Nat) : SMap Word :=
  SMap.setList 0 [] 1 ((List.range 63).map fun n => if n + 1 < allot then t.getD (n + 1) else 0)

/-- The bytes of a migration record (R298). -/
def recordOf (header : Word) (image : SMap Word) : List Byte :=
  leBytes 8 header.toNat ++ (SMap.getList 0 image 1 63).flatMap fun v => leBytes 8 v.toNat

/-- The hub's context of a thread (R299). -/
def State.hostThread (s : State) (launch block tid : Nat) : Option HostThread :=
  s.hostThreads.find? fun h => h.launch == launch && h.block == block && h.tid == tid

/-- Change the hub's context of a thread. -/
def State.onHostThread (s : State) (launch block tid : Nat) (f : HostThread → HostThread) : State :=
  { s with
    hostThreads := s.hostThreads.map fun h => if h.launch = launch ∧ h.block = block ∧ h.tid = tid then f h else h }

/-- The address of a thread's next migration record (R299): record k at ring + 512 × ((k − 1) mod 16). -/
def HostThread.recordAt (h : HostThread) : Word := h.ring + word (512 * (h.records % 16))

/-- The record of a departing thread is written (R298, R299): into its ring through its translation, or kept by the hub for a thread of a
launch, which has a context there from its first crossing on. -/
def State.writeRecord (s : State) (core : Nat) (world : Nat) (launch block tid : Nat) (xlate : Word) (bytes : List Byte) :
    Except PageFault State :=
  if launch ≠ 0 then .ok (s.onHostThread launch block tid fun h => { h with kept := h.kept ++ [bytes], records := h.records + 1 })
  else match s.hostThread launch block tid with
    | none => .ok s
    | some h =>
      match s.translateRange core xlate h.recordAt .store false 512 with
      | .error f => .error f
      | .ok (s, pas) =>
        .ok ((s.writePas (if core = hubCore then none else some core) 0 world pas bytes).onHostThread launch block tid fun h =>
          { h with records := h.records + 1 })

/-- The context that the hub provides for a thread of a launch (R299): user mode, under the launch's translation. -/
def hubContext (launch block tid gangIdx : Nat) (xlate : Word) : HostThread where
  launch := launch
  block := block
  tid := tid
  gangIdx := gangIdx
  host := 0
  xlate := xlate
  hgatp := 0
  ring := 0
  records := 0
  away := true
  image := []
  fcsr := 0
  pc := 0
  registered := true
  mode := .user
  vec := HostVector.arrived
  kept := []
  pending := []
  first := none
  loads := []
  stores := []
  stopped := false
  stepping := false

/-- A thread of a launch has a context at the hub. -/
def State.withContext (s : State) (launch block tid gangIdx : Nat) (xlate : Word) : State :=
  if (s.hostThread launch block tid).isSome then s
  else { s with hostThreads := s.hostThreads ++ [hubContext launch block tid gangIdx xlate] }

/-- A device thread leaves for a host core (R296): its record is written, its crossing begins, its lane exits its gang, and a launch
counts it as away. On which host core it lands is left open (R291): a free value. -/
def State.depart (s : State) (k : Nat) (kind : CrossKind) (target : Word) (link : Option Word) (pte : Word) (level : Nat) :
    Except PageFault State :=
  let key := s.cur.gang
  let g := s.cg
  let t := match link with | some r => (g.lane k).setD 1 r | none => g.lane k
  let fcsr := BitVec.ofNat 8 (t.frm.toNat * 32 + t.fflags.toNat)
  let image := t.image g.allot
  let s0 := s.withContext t.launch t.block t.tid g.idx g.xlate
  match s0.writeRecord (coreOf key) g.world t.launch t.block t.tid g.xlate (recordOf (recordHeader kind 2 fcsr target) image) with
  | .error f => .error f
  | .ok s =>
    let host := (s.free (512 + k)).toNat % Config.hosts
    let s := s.onLaunch t.launch fun l => { l with away := l.away + 1 }
    let c : Crossing :=
      { toDevice := false, kind := kind, launch := t.launch, block := t.block, tid := t.tid, xlate := g.xlate,
        target := target, image := image, fcsr := fcsr, host := host, gangIdx := g.idx, pte := pte, level := level, issued := s.clock,
        stepping := t.stepping != 0, held := false }
    .ok (State.exitLanes { s with crossings := s.crossings ++ [c] } key (laneMask k))

/-- The lanes of a list depart, each under the leaf that its landing carries. -/
def State.departAll (s : State) (kind : CrossKind) (target : Nat → Word) (link : Option Word) :
    List (Nat × Landing) → Except (Nat × PageFault) State
  | [] => .ok s
  | (k, .away pte level) :: ls =>
    match s.depart k kind (target k) link pte level with
    | .error f => .error (k, f)
    | .ok s => s.departAll kind target link ls
  | _ :: ls => s.departAll kind target link ls

/-- The target of the lowest lane of a mask as TRAPADDR. -/
def transitTrap (m : Mask) (target : Nat → Word) (info : Nat) : TrapReq :=
  { cause := .transitTarget, mask := m, addr := target (lowest m), info := word info }

/-- A TRANSFER (R127 to R130, R140, R300) in the guarded lanes, with the return address that CALL and CALLI write. -/
def State.transfer (s : State) (o : Ops) (kind : CrossKind) (link : Bool) (target : Nat → Word) (L : Mask) : Except TrapReq State :=
  let key := s.cur.gang
  let ret := s.cur.pc + word s.cur.len
  let bad := those L fun k => (target k).toNat % 4 ≠ 0
  if bad ≠ 0 then .error { cause := .misaligned, mask := bad, addr := target (lowest bad), info := s.freeInfo }
  else
    let (s1, ls) := s.landings target (lanes L)
    let refused := landed ls fun l => match l with | .refuse _ => true | _ => false
    let faulted := landed ls fun l => match l with | .fault _ => true | _ => false
    let cross := landed ls fun l => match l with | .away _ _ => true | _ => false
    let inner := if s.cg.widened.isSome then cross &&& ~~~(laneMask 0) else 0
    if refused ≠ 0 then
      match landingOf ls (lowest refused) with
      | .refuse info => .error (transitTrap refused target info)
      | _ => .error (transitTrap refused target 0)
    else if faulted ≠ 0 then
      match landingOf ls (lowest faulted) with
      | .fault f => .ok (s1.serviceInsn faulted f .fetch (some (target (lowest faulted))))
      | _ => .ok s1
    else if inner ≠ 0 then .error (s.illegal inner 0)
    else
      let early := those cross fun k => !s.departReady key k
      match s1.departAll kind target (if link then some ret else none) (ls.filter fun e => !early.getLsbD e.1) with
      | .error (k, f) => .ok (s1.serviceInsn (laneMask k) f .store (some (target k)))
      | .ok s2 =>
        let here := L &&& ~~~cross
        let s3 := if link then s2.onLanes key here fun _ t => t.setD 1 ret else s2
        let rest := s.cur.lanes &&& ~~~cross
        let s4 := s3.onLanes key early fun _ t => { t with wait := .cross, bundle := none }
        .ok ((s4.onLanes key rest fun k t =>
          { t.issued s.clock o.stall.toNat o.yld with
            pc := if here.getLsbD k then target k else t.pc + word s.cur.len
            wait := .no }).split)

/-- The operand of a transfer, read in each lane. -/
def State.transferOp (s : State) (op : Nat) (o : Ops) (kind : CrossKind) (link : Bool) (target : Nat → Word) : State :=
  s.issueFlow op o (s.transfer o kind link target)

/-- BRX (R128). -/
def execBrx (o : Ops) (s : State) : Host.Outcome State Fault Refusal := .next (s.transferOp 0xC1 o .jump false (s.opA o))

/-- CALL (R129). -/
def execCall (o : Ops) (s : State) : Host.Outcome State Fault Refusal :=
  .next (s.transferOp 0xC2 o .call true fun _ => s.label o)

/-- CALLI (R129). -/
def execCalli (o : Ops) (s : State) : Host.Outcome State Fault Refusal := .next (s.transferOp 0xC3 o .call true (s.opA o))

/-- RET (R130). -/
def execRet (o : Ops) (s : State) : Host.Outcome State Fault Refusal := .next (s.transferOp 0xC4 o .return false (s.opA o))

/-- EXIT (R132). -/
def State.exitOp (s : State) (o : Ops) : State :=
  s.issueFlow 0xC5 o fun L =>
    .ok (((s.onLanes s.cur.gang (s.cur.lanes &&& ~~~L) fun _ t =>
      { t.issued s.clock o.stall.toNat o.yld with pc := t.pc + word s.cur.len }).exitLanes s.cur.gang L).split)

/-- EXIT (R132). -/
def execExit (o : Ops) (s : State) : Host.Outcome State Fault Refusal := .next (s.exitOp o)

/-- MEET (R133). -/
def State.meetOp (s : State) (o : Ops) : State :=
  s.issue 0xC6 o fun L =>
    .ok (s.onLanes s.cur.gang L fun k t => { t with meet := if o.lit.isSome then s.label o else s.opA o k })

/-- MEET (R133). -/
def execMeet (o : Ops) (s : State) : Host.Outcome State Fault Refusal := .next (s.meetOp o)

/-- JOIN (R109, R134). -/
def State.joinOp (s : State) (o : Ops) : State :=
  s.issue 0xC7 o fun L => .ok (s.onGang s.cur.gang fun g => g.join o.dst.toNat L)

/-- JOIN (R109, R134). -/
def execJoin (o : Ops) (s : State) : Host.Outcome State Fault Refusal := .next (s.joinOp o)

/-- LEAVE (R109, R134). -/
def State.leaveOp (s : State) (o : Ops) : State :=
  s.issue 0xC8 o fun L => .ok (s.onGang s.cur.gang fun g => g.leave o.dst.toNat L)

/-- LEAVE (R109, R134). -/
def execLeave (o : Ops) (s : State) : Host.Outcome State Fault Refusal := .next (s.leaveOp o)

/-- The lanes that an arrival holds (R109): members at their meeting address, unless the arrival completes the round. -/
def Gang.holds (g : Gang) (K : Nat) (L : Mask) : Mask :=
  if completes (g.getA K ||| (L &&& g.getM K)) (g.getM K) then 0
  else those (L &&& g.getM K) fun k => (g.lane k).meet != 0 && (g.lane k).pc == (g.lane k).meet

/-- A WAIT's arrival (R109): the arrivers enter the arrival mask, and the completion check is made. -/
def Gang.arriveAt (g : Gang) (K : Nat) (L : Mask) : Gang := (g.setA K (g.getA K ||| (L &&& g.getM K))).maskCheck K

/-- WAIT mK by the lanes of a mask (R109): the held lanes stay at the WAIT, every other lane of the bundle goes on. An arrival releases the
threads stopped at a SAFE (R308). -/
def State.waitAt (s : State) (o : Ops) (K : Nat) (L : Mask) : State :=
  let key := s.cur.gang
  let held := s.cg.holds K L
  let s0 := if L = 0 then s else s.onGang key Gang.releaseStops
  let s1 := s0.onGang key fun g => g.arriveAt K L
  (s1.onLanes key s.cur.lanes fun k t =>
    let t := t.issued s.clock o.stall.toNat o.yld
    if held.getLsbD k then { t with cond := .held K, waitLen := s.cur.len, bundle := none }
    else { t with pc := t.pc + word s.cur.len }).split

/-- The member mask of WAIT mK, dN (R111): fixed when no round is open, and equal to mK otherwise. -/
def State.fixMask (s : State) (K : Nat) (L : Mask) (f : Nat → Word) : Except TrapReq State :=
  let low := fun k => word ((f k).toNat % 2 ^ 32)
  let diff := differing L low
  let disagree := fun m => { cause := .maskDisagree, mask := m, addr := s.freeAddr, info := s.freeInfo : TrapReq }
  if L = 0 then .ok s
  else if diff ≠ 0 then .error (disagree diff)
  else
    let v := BitVec.ofNat 32 (low (lowest L)).toNat
    if s.cg.getA K ≠ 0 then if v ≠ s.cg.getM K then .error (disagree L) else .ok s
    else .ok (s.onGang s.cur.gang fun g => g.setM K v)

/-- WAIT (R109, R111, R134). -/
def State.waitOp (s : State) (o : Ops) : State :=
  s.issueFlow 0xC9 o fun L =>
    let s1 := if o.opmod.toNat = 1 then s.fixMask o.dst.toNat L (s.opA o) else .ok s
    s1.map fun s1 => s1.waitAt o o.dst.toNat L

/-- WAIT (R109, R111, R134). -/
def execWait (o : Ops) (s : State) : Host.Outcome State Fault Refusal := .next (s.waitOp o)

/-- MSET (R135). -/
def State.msetOp (s : State) (o : Ops) : State :=
  s.issue 0xCA o fun L =>
    if L = 0 then .ok s
    else (s.uniform L fun k => s.opBNat o k).map fun v =>
      s.onGang s.cur.gang fun g => g.newMask o.dst.toNat (BitVec.ofNat 32 v.toNat)

/-- MSET (R135). -/
def execMset (o : Ops) (s : State) : Host.Outcome State Fault Refusal := .next (s.msetOp o)

/-- MGET (R135). -/
def execMget (o : Ops) (s : State) : Host.Outcome State Fault Refusal :=
  .next (s.laneStep 0xCB o 0 fun _ => { val := word (s.cg.getM o.a.toNat).toNat })

/-- The mask that MOP computes (R136). -/
def Gang.mopMask (g : Gang) (o : Ops) : Mask :=
  let a := g.getM o.a.toNat
  let b := g.getM o.b.toNat
  match o.opmod.toNat with
  | 0 => a &&& b
  | 1 => a ||| b
  | 2 => a ^^^ b
  | 3 => a &&& ~~~b
  | 4 => a
  | 5 => ~~~a
  | _ => a &&& g.live

/-- MOP (R136): once per issue, when some lane's guard is true. -/
def State.mopOp (s : State) (o : Ops) : State :=
  s.issue 0xCC o fun L =>
    .ok (if L = 0 then s else s.onGang s.cur.gang fun g => g.newMask o.dst.toNat (g.mopMask o))

/-- MOP (R136). -/
def execMop (o : Ops) (s : State) : Host.Outcome State Fault Refusal := .next (s.mopOp o)

/-- Lane k of a widening at its start (R138). DESIGN CHOICE (assumption 88): it runs in the mode of lane 0. -/
def Thread.widened (t : Thread) (k : Nat) (stride pc : Word) : Thread :=
  let u := { Thread.start pc t.launch t.block t.tid .runnable with
    d := t.d, dValid := t.dValid, p := t.p, ix := t.ix, h := t.h, fflags := t.fflags, hzn := t.hzn, frm := t.frm, mode := t.mode }
  u.setD 2 (t.getD 2 - word k * stride)

/-- WIDEN (R138). -/
def State.widenOp (s : State) (o : Ops) : State :=
  s.issue 0xCD o fun L =>
    let count := fun k => (s.opA o k).toNat
    let stride := fun k => s.opBNat o k
    let badCount := those L fun k => count k = 0 ∨ 32 < count k
    let badStride := those L fun k => (stride k).toNat % 16 ≠ 0
    if badCount ≠ 0 then .error (s.illegal badCount 0)
    else if badStride ≠ 0 then
      .error { cause := .misaligned, mask := badStride, addr := stride (lowest badStride), info := s.freeInfo }
    else if L = 0 then .ok s
    else if !s.cg.eligible then .ok (s.onLanes s.cur.gang L fun _ t => t.setP o.dst.toNat false)
    else
      let n := count 0
      let pc := s.cur.pc + word s.cur.len
      let t0 := s.settled 0 (s.cl 0)
      .ok (s.onGang s.cur.gang fun g =>
        { (g.onLanes (maskOf (· < n)) fun k t =>
            (if k = 0 then t else t0.widened k (stride 0) pc).setP o.dst.toNat true) with widened := some n })

/-- WIDEN (R138). -/
def execWiden (o : Ops) (s : State) : Host.Outcome State Fault Refusal := .next (s.widenOp o)

/-- NARROW (R139): lanes other than lane 0 exit; lane 0 waits until they have gone. -/
def State.narrowOp (s : State) (o : Ops) : State :=
  s.issueFlow 0xCE o fun L =>
    let key := s.cur.gang
    let next := fun (t : Thread) => { t.issued s.clock o.stall.toNat o.yld with pc := t.pc + word s.cur.len }
    if s.cg.widened.isNone then .ok (s.advance o.stall.toNat o.yld)
    else
      let zero := L &&& laneMask 0
      let out := L &&& ~~~(laneMask 0)
      let s1 := s.onLanes key (s.cur.lanes &&& ~~~L) fun _ t => next t
      let s2 := s1.onLanes key zero fun _ t =>
        { t.issued s.clock o.stall.toNat o.yld with wait := .narrow, waitLen := s.cur.len, bundle := none }
      .ok (((s2.exitLanes key out).onGang key Gang.narrowCheck).split)

/-- NARROW (R139). -/
def execNarrow (o : Ops) (s : State) : Host.Outcome State Fault Refusal := .next (s.narrowOp o)

/-- YIELD (R141). DESIGN CHOICE (assumption 77): the bundle gives up its next slot also where the guard is false in every lane. -/
def State.yieldOp (s : State) (o : Ops) : State := s.issue 0xCF { o with yld := true } fun _ => .ok s

/-- YIELD (R141). -/
def execYield (o : Ops) (s : State) : Host.Outcome State Fault Refusal := .next (s.yieldOp o)

/-- PAUSE (R142): every thread of the bundle is lowered for n clocks, counted from its issue. DESIGN CHOICE (assumption 78): a later PAUSE
replaces the end of an earlier one. -/
def State.pauseOp (s : State) (o : Ops) : State :=
  s.issue 0xD0 o fun L =>
    let n := match o.lit with | some l => l.toNat | none => o.a.toNat
    .ok (if L = 0 ∨ n = 0 then s else s.onLanes s.cur.gang s.cur.lanes fun _ t => { t with pauseUntil := s.clock + n })

/-- PAUSE (R142). -/
def execPause (o : Ops) (s : State) : Host.Outcome State Fault Refusal := .next (s.pauseOp o)

/-- NOP (R143). -/
def execNop (o : Ops) (s : State) : Host.Outcome State Fault Refusal := .next (s.issue 0xD1 o fun _ => .ok s)

end Sys2Proof.Machine
end

