-- ==== Sys2Proof/Machine/Barriers.lean ====
section
/-! DEFINITION. Core barriers: their state, the completion check, failure (R145 to R152). -/

namespace Sys2Proof.Machine

/-- A barrier at the allocation of its block on a core (R145). -/
def Bar.start (threads : Nat) : Bar := { expected := threads, arrivals := 0, pending := 0, gen := 0, failed := none, w := 0 }

/-- A barrier of an allocation. -/
def Alloc.bar (a : Alloc) (n : Nat) : Bar := SMap.get (Bar.start a.threads) a.bars n

/-- Write a barrier. -/
def Alloc.setBar (a : Alloc) (n : Nat) (b : Bar) : Alloc := { a with bars := SMap.set (Bar.start a.threads) a.bars n b }

/-- The allocation that the issuing gang's scratch and barrier instructions use (R69, R145). -/
def State.ownAlloc (s : State) : Option Alloc := s.allocAt s.cg.launch s.cg.block (coreOf s.cur.gang)

/-- A gang belongs to a block on a core (R145); a gang that came by a crossing belongs to none. -/
def Gang.inBlock (g : Gang) (launch block core : Nat) : Bool :=
  g.launch == launch && g.block == block && coreOf g.key == core && !g.byCrossing

/-- The threads of a gang that wait in BARW at a barrier. -/
def Gang.waitingAt (g : Gang) (n : Nat) : Mask := those g.live fun k => (g.lane k).wait == .bar n

/-- How many threads of a block on a core wait in BARW at a barrier (R146). -/
def State.barWaiters (s : State) (launch block core n : Nat) : Nat :=
  s.gangs.foldl (fun c g => if g.inBlock launch block core then c + (lanes (g.waitingAt n)).length else c) 0

/-- Every thread that waits in BARW at a barrier of a block on a core goes on, ordered after the bytes posted to it (R152). -/
def State.releaseBar (s : State) (launch block core n w : Nat) : State :=
  { s with
    gangs := s.gangs.map fun g =>
      if g.inBlock launch block core then g.onLanes (g.waitingAt n) fun _ t => t.release.horizon w else g }

/-- The completion check of R148. -/
def State.barCheck (s : State) (launch block core n : Nat) : State :=
  match s.allocAt launch block core with
  | none => s
  | some a =>
    let b := a.bar n
    if b.expected ≤ b.arrivals ∧ b.pending = 0 ∧ b.failed = none then
      (s.onAlloc launch block core fun a => a.setBar n { b with arrivals := 0, gen := b.gen + 1 }).releaseBar launch block core n b.w
    else s

/-- A failing CPYM marks its barrier failed, and every thread that waits there raises the cause (R94, R151). -/
def State.failBar (s : State) (launch block core n : Nat) (cause : Cause) (addr : Word) : State :=
  let s := s.onAlloc launch block core fun a => a.setBar n { a.bar n with failed := some (cause, addr) }
  s.gangs.foldl (fun s g =>
    let m := g.waitingAt n
    if g.inBlock launch block core && m != 0 then s.trapWaiting g.key m { cause := cause, mask := m, addr := addr, info := s.freeInfo }
    else s) s

end Sys2Proof.Machine
end

