-- ==== Sys2Proof/Machine/Scratch.lean ====
section
/-! DEFINITION. The scratchpad: addresses, bounds, bytes with their valid and poison bits, full/empty lines (R69 to R72, R200, R203, R233).
A weak access is performed when it reaches its bank, in a step of its own (R200); every other access when it issues (assumption 16). -/

namespace Sys2Proof.Machine

/-- The core that a cluster scratch address names for a gang (R69): its own core, or one of its cluster; none for a malformed address. -/
def scratchCore (core : Nat) (a : Word) : Option Nat :=
  let sel := Word.field a 22 20
  if Word.field a 63 23 ≠ 0 ∨ Word.flag a 19 then none
  else if sel = 0 then some core
  else if 4 ≤ sel then some (core / 4 * 4 + sel - 4)
  else none

/-- The byte of an allocation that a cluster scratch address names for a block on a core: the core and the offset (R70). -/
def State.spot (s : State) (launch block core : Nat) (a : Word) : Option (Nat × Nat) :=
  match scratchCore core a with
  | none => none
  | some c =>
    match s.allocAt launch block c with
    | none => none
    | some al => if Word.field a 18 0 < al.size then some (c, Word.field a 18 0) else none

/-- The same for a gang; one that came by a crossing belongs to no block with an allocation (R296), and a shadow gang addresses the one on its own
core (R123). -/
def State.gangSpot (s : State) (key : Nat) (a : Word) : Option (Nat × Nat) :=
  let g := s.gangAt key
  if g.byCrossing then none
  else match s.spot g.launch g.block (coreOf key) a with
    | some (c, off) => if g.shadowOf.isSome ∧ c ≠ coreOf key then none else some (c, off)
    | none => none

/-- The clearing sequencer zeroed the row of a byte before the allocation took it (R71, R378). -/
def Alloc.zeroed (a : Alloc) (off : Nat) : Bool :=
  match bankIn a.banks (off / 256) with
  | some (p, r) => decide (r < SMap.get 0 a.clean p)
  | none => false

/-- A byte of an allocation; one that was never written holds undefined contents, or zero in a row that was cleared (R71). -/
def Alloc.byte (a : Alloc) (off : Nat) : Byte :=
  (SMap.get none a.bytes off).getD (if a.zeroed off then 0 else Config.scratchByte a.seed off)

/-- The valid and poison bits of the word that holds a byte (R71). -/
def Alloc.validAt (a : Alloc) (off : Nat) : Bool := SMap.get false a.valid (off / 4)
def Alloc.poisonAt (a : Alloc) (off : Nat) : Bool := SMap.get false a.poison (off / 4)

/-- Write a byte: its word becomes valid, and poisoned or not as the write says (R71). -/
def Alloc.put (a : Alloc) (off : Nat) (b : Byte) (poison : Bool) : Alloc :=
  { a with
    bytes := SMap.set none a.bytes off (some b)
    valid := SMap.set false a.valid (off / 4) true
    poison := SMap.set false a.poison (off / 4) poison }

/-- Write consecutive bytes. -/
def Alloc.puts (a : Alloc) (off : Nat) : List Byte → Bool → Alloc
  | [], _ => a
  | b :: bs, p => (a.put off b p).puts (off + 1) bs p

/-- The allocation of a gang's block on a core. -/
def State.gangAlloc (s : State) (key core : Nat) : Option Alloc := s.allocAt (s.gangAt key).launch (s.gangAt key).block core

/-- A byte lies in one of a list of scratch ranges: core, offset, bytes. -/
def inRanges (rs : List (Nat × Nat × Nat)) (core off : Nat) : Bool :=
  rs.any fun r => r.1 == core && decide (r.2.1 ≤ off) && decide (off < r.2.1 + r.2.2)

/-- An unretired matrix instruction of another array than one's own writes the byte: reading it yields an undefined value (R81). -/
def State.unretired (s : State) (launch block core off : Nat) (own : Option Nat) : Bool :=
  s.arrays.any fun a =>
    some a.1 != own && a.2.queue.any fun e => e.launch == launch && e.block == block && inRanges e.writes core off

/-- A write spoils the unretired matrix instructions, but those of one's own array, that read or write its bytes (R81). -/
def State.spoil (s : State) (launch block core off n : Nat) (own : Option Nat) : State :=
  let hits := fun (e : MatrixEntry) => ((List.range n).filter fun j => inRanges (e.reads ++ e.writes) core (off + j)).map fun j => (core, off + j)
  { s with
    arrays := s.arrays.map fun a =>
      if some a.1 = own then a
      else (a.1, { a.2 with
        queue := a.2.queue.map fun e =>
          if e.launch = launch ∧ e.block = block then { e with spoiled := e.spoiled ++ hits e } else e }) }

/-- A byte of scratch of a gang's block on a core, as a lane reads it. -/
def State.scratchByte (s : State) (key lane core off : Nat) : Byte :=
  if s.unretired (s.gangAt key).launch (s.gangAt key).block core off none then
    BitVec.ofNat 8 (s.free (32768 + lane * 256 + off % 256)).toNat
  else match s.gangAlloc key core with
  | some a => a.byte off
  | none => 0

/-- Change the allocation of a gang's block on a core. -/
def State.onScratch (s : State) (key core : Nat) (f : Alloc → Alloc) : State :=
  s.onAlloc (s.gangAt key).launch (s.gangAt key).block core f

/-- A byte of scratch refuses the threads of a gang (R375): the partition of its bank. -/
def State.refused (s : State) (key : Nat) (p : Nat × Nat) : Option Nat :=
  s.refusing (s.gangAt key).launch (s.gangAt key).block (s.gangAt key).world p.1 p.2

/-- Write consecutive bytes of scratch of a gang's block on a core, as a thread's store does; a bank of another world drops them (R375). -/
def State.scratchPut (s : State) (key core off : Nat) (bs : List Byte) : State :=
  match s.refused key (core, off) with
  | some p => s.logBanks (s.gangAt key).world (requesterOf (partOf key)) [(p, spotVa core off)]
  | none =>
    (s.onScratch key core fun a => a.puts off bs false).spoil (s.gangAt key).launch (s.gangAt key).block core off bs.length none

/-- Write bytes at a list of places, as a thread's store does. -/
def State.scratchPuts (s : State) (key : Nat) : List (Nat × Nat) → List Byte → State
  | p :: ps, b :: bs => (s.scratchPut key p.1 p.2 [b]).scratchPuts key ps bs
  | _, _ => s

/-- The first byte of a range that is out of bounds (R70). -/
def State.outside (s : State) (key : Nat) (a : Word) (n : Nat) : Option Word :=
  ((List.range n).map fun j => a + word j).find? fun b => (s.gangSpot key b).isNone

/-- A SCRATCH_BOUNDS trap of the lanes whose access is out of bounds (R70); srcA is the operand that failed. -/
def State.boundsTrap (s : State) (key n : Nat) (ls : List (Nat × Word)) : Option TrapReq :=
  let bad := ls.filter fun e => (s.outside key e.2 n).isSome
  match bad with
  | [] => none
  | e :: _ =>
    some { cause := .scratchBounds, mask := maskOf fun k => bad.any fun e => e.1 == k, addr := (s.outside key e.2 n).getD 0, info := 0 }

/-- The places of the bytes of an access in bounds. -/
def State.spots (s : State) (key : Nat) (a : Word) (n : Nat) : List (Nat × Nat) :=
  ((List.range n).map fun j => a + word j).filterMap (s.gangSpot key)

/-- UNINIT_READ, while checking is enabled, and then POISON of the lanes that read such a word (R72), or one that its bank refuses (R375). -/
def State.scratchReadTrap (s : State) (key n : Nat) (ls : List (Nat × Word)) : Option TrapReq :=
  let g := s.gangAt key
  let bitOf := fun (f : Alloc → Nat → Bool) (p : Nat × Nat) => match s.gangAlloc key p.1 with | some a => f a p.2 | none => false
  let no := fun (p : Nat × Nat) => (s.refused key p).isSome
  let uninit := ls.filter fun e => g.uninitChk && (s.spots key e.2 n).any fun p => !no p && !(bitOf Alloc.validAt p)
  let poison := ls.filter fun e => (s.spots key e.2 n).any fun p => no p || bitOf Alloc.poisonAt p
  match uninit, poison with
  | e :: es, _ =>
    some { cause := .uninitRead, mask := maskOf fun k => (e :: es).any fun e => e.1 == k, addr := e.2, info := s.freeInfo }
  | [], e :: es =>
    some { cause := .poison, mask := maskOf fun k => (e :: es).any fun e => e.1 == k, addr := e.2, info := s.freeInfo,
           banks := (e :: es).filterMap fun e => (((s.spots key e.2 n).filterMap (s.refused key)).head?).map fun p => (p, e.2) }
  | [], [] => none

/-- The first traps of a scratch access in order: alignment where the instruction needs it, then bounds (R228, R229). -/
def State.scratchPlace (s : State) (key n : Nat) (aligned : Bool) (ls : List (Nat × Word)) : Option TrapReq :=
  match if aligned then s.misalignedTrap n ls else none with
  | some t => some t
  | none => s.boundsTrap key n ls

/-- The later ones: watchpoints, and for a read the bits of the data (R228, R361). -/
def State.scratchTouch (s : State) (key n : Nat) (read : Bool) (ls : List (Nat × Word)) : Option TrapReq :=
  match s.watch key (if read then 1 else 2) 1 (ls.map fun e => (e.1, vaRange e.2 n)) with
  | some t => some t
  | none => if read then s.scratchReadTrap key n ls else none

/-- All of them. -/
def State.scratchTraps (s : State) (key n : Nat) (aligned read : Bool) (ls : List (Nat × Word)) : Option TrapReq :=
  match s.scratchPlace key n aligned ls with
  | some t => some t
  | none => s.scratchTouch key n read ls

/-- The number that the bytes of a lane's scratch access hold. -/
def State.scratchLoad (s : State) (key lane : Nat) (a : Word) (n : Nat) : Word :=
  word (leNat ((s.spots key a n).map fun p => s.scratchByte key lane p.1 p.2))

/-- A lane's scratch store. -/
def State.scratchStore (s : State) (key : Nat) (a : Word) (n : Nat) (v : Word) : State :=
  s.scratchPuts key (s.spots key a n) (leBytes n v.toNat)

/-- The address of a memory operand in a lane (R227). -/
def State.memAddr (s : State) (o : Ops) (k : Nat) : Word := s.opA o k + s.opBSigned o k

/-- The lanes of a mask with their addresses. -/
def State.addrs (s : State) (o : Ops) (L : Mask) : List (Nat × Word) := (lanes L).map fun k => (k, s.memAddr o k)

/-- A core and offset of scratch as one number, above every physical address, and its parts. -/
def bankAddr (p : Nat × Nat) : Nat := 2 ^ 64 + p.1 * 2 ^ 19 + p.2
def bankCore (n : Nat) : Nat := (n - 2 ^ 64) / 2 ^ 19
def bankOff (n : Nat) : Nat := n % 2 ^ 19

/-- A scratch store reaches its bank (R200). -/
def State.performBank (s : State) (t : PStore) : State := s.scratchPut t.gang (bankCore t.pa) (bankOff t.pa) t.bytes

/-- The value of a scratch load as its bytes stand in their banks now (R200). -/
def State.bankValue (s : State) (l : PLoad) : Word := word (leNat (l.spots.map fun p => s.scratchByte l.gang l.lane p.1 p.2))

/-- A load's value goes to its register, or to the word of the trap frame that stands for it (R231, R333). -/
def State.deliver (s : State) (l : PLoad) (v : Word) : State :=
  match l.dst with
  | .frame n => s.frameResult l.gang l.lane n fun old => loadInto l.ty l.lo old v
  | .d n => s.onThread l.gang l.lane fun t => (t.setD n (loadInto l.ty l.lo (t.getD n) v)).unpend l.dst
  | _ => s.onThread l.gang l.lane fun t => t.unpend l.dst

/-- A scratch store touches bytes of a set. -/
def PStore.inBank (t : PStore) (within : Nat → Nat → Bool) : Bool :=
  t.bank && (List.range t.bytes.length).any fun j => within (bankCore t.pa) (bankOff t.pa + j)

/-- Of two stores to one byte the earlier goes first: those of a core, whose agents see them in one order (R201), and in scratch those of a
thread and of one issue (R198, R202). -/
def PStore.first (e t : PStore) : Bool :=
  !e.accepted && meets e.pa e.bytes.length t.pa t.bytes.length
  && if t.bank then e.gang == t.gang && (e.lane == t.lane || e.issued == t.issued) else e.core == t.core

/-- The stores of a list that a test picks, with those that go before one of them. -/
def withFirst (pick : PStore → Bool) : List PStore → List PStore
  | [] => []
  | t :: ts =>
    let rest := withFirst pick ts
    if pick t || rest.any t.first then t :: rest else rest

/-- The scratch stores of a thread to bytes of a set, with those that go before them, reach their banks (R198, R202). -/
def State.settleStores (s : State) (key k : Nat) (within : Nat → Nat → Bool) : State :=
  let due := withFirst (fun t => t.gang == key && t.lane == k && t.inBank within) s.stores
  due.foldl State.performBank { s with stores := s.stores.filter fun t => !due.contains t }

/-- The scratch loads of a thread of bytes of a set are served (R198). -/
def State.settleLoads (s : State) (key k : Nat) (within : Nat → Nat → Bool) : State :=
  let hit := fun (l : PLoad) => l.gang == key && l.lane == k && l.spots.any fun p => within p.1 p.2
  (s.loads.filter hit).foldl (fun s l => s.deliver l (s.bankValue l)) { s with loads := s.loads.filter fun l => !hit l }

/-- The scratch loads of a thread of bytes of a set read their banks now, before a later access of the thread that reads them at once; their values are
on their way (R198, R200). -/
def State.readLoads (s : State) (key k : Nat) (within : Nat → Nat → Bool) : State :=
  { s with
    loads := s.loads.map fun l =>
      if l.gang = key ∧ l.lane = k ∧ l.spots.any fun p => within p.1 p.2 then { l with home := s.bankValue l, spots := [] } else l }

/-- Bytes of a list of places. -/
def atSpots (ps : List (Nat × Nat)) (core off : Nat) : Bool := ps.contains (core, off)

/-- Before the lanes of an issue read scratch, their earlier stores to those bytes are performed; before they write it, their earlier loads of
those bytes too, and before they read it at once those loads have read (R198). -/
def State.settle (s : State) (key n : Nat) (write atOnce : Bool) (ls : List (Nat × Word)) : State :=
  ls.foldl
    (fun s e =>
      let within := atSpots (s.spots key e.2 n)
      let s := s.settleStores key e.1 within
      if write then s.settleLoads key e.1 within else if atOnce then s.readLoads key e.1 within else s) s

/-- A weak scratch load sets out for its bank (R200). -/
def State.sendBank (s : State) (o : Ops) (k : Nat) (a : Word) : State :=
  let key := s.cur.gang
  let load : PLoad :=
    { gang := key, lane := k, core := coreOf key, dst := .d o.dst.toNat, lines := [], ty := o.ty, lo := o.lo, home := 0, lease := none,
      owned := false, spots := s.spots key a (accWidth o.ty), issued := s.clock }
  State.pend { s with loads := s.loads ++ [load] } key k (.d o.dst.toNat)

/-- A scratch load (LDS): R228, R231. A g destination is written once, at the issue (R23). -/
def State.scratchLoadOp (s : State) (op : Nat) (o : Ops) : State :=
  s.issue op o fun L =>
    let ls := s.addrs o L
    let s1 := s.settle s.cur.gang (accWidth o.ty) false o.clsD ls
    match s1.scratchTraps s.cur.gang (accWidth o.ty) false true ls with
    | some t => .error t
    | none =>
      if o.clsD then s1.writeBack o 0 L fun k => { val := loadExt o.ty (s1.scratchLoad s.cur.gang k (s.memAddr o k) (accWidth o.ty)) }
      else .ok (ls.foldl (fun s e => s.sendBank o e.1 e.2) s1)

/-- A store of a thread sets out for its bank (R200): as one where it is naturally aligned, else byte by byte (R194). -/
def State.pushBank (s : State) (key k : Nat) (a : Word) (n : Nat) (v : Word) : State :=
  let ps := s.spots key a n
  let new := fun (p : Nat × Nat) (bs : List Byte) (piece : Bool) =>
    { s.newStore key k (s.gangAt key).world (bankAddr p) bs piece with bank := true }
  { s with
    stores := s.stores ++
      (if a.toNat % n = 0 then (ps.head?.toList).map fun p => new p (leBytes n v.toNat) false
       else (ps.zip (leBytes n v.toNat)).map fun e => new e.1 [e.2] true) }

/-- A scratch store (STS, STL.S) in ascending lane order, with its release part (R228, R231, R232). -/
def State.scratchStoreOp (s : State) (op : Nat) (o : Ops) (aligned : Bool) (waits : Nat → Bool) : State :=
  s.issueWhen op o waits fun L =>
    let ls := s.addrs o L
    let n := accWidth o.ty
    let s1 := s.settle s.cur.gang n true true ls
    match s1.scratchTraps s.cur.gang n aligned false ls with
    | some t => .error t
    | none => .ok (ls.foldl (fun s' e => s'.pushBank s.cur.gang e.1 e.2 n (s.opDst o e.1)) s1)

/-- The 128-byte line of a scratch access is full (R233). -/
def State.fullAt (s : State) (key : Nat) (a : Word) : Bool :=
  match s.gangSpot key a with
  | none => false
  | some (c, off) => match s.gangAlloc key c with
    | some al => SMap.get false al.full (off / 128)
    | none => false

/-- Set a line full or empty. -/
def State.setFull (s : State) (key : Nat) (a : Word) (b : Bool) : State :=
  match s.gangSpot key a with
  | none => s
  | some (c, off) =>
    if (s.refused key (c, off)).isSome then s else s.onScratch key c fun al => { al with full := SMap.set false al.full (off / 128) b }

/-- A lane waits for its line (R233): LDSX for a full one, STSF for an empty one. A bank that refuses the access answers at once (R375). -/
def State.lineWaits (s : State) (key : Nat) (a : Word) (fill : Bool) : Bool :=
  s.fullAt key a == fill && match s.gangSpot key a with | some p => (s.refused key p).isNone | none => true

/-- Serve the lanes of a list in turn (R233): LDSX drains a full line, STSF fills an empty one. The state, and the lanes served with the
values they read. -/
def State.serveLines (s : State) (key n : Nat) (fill : Bool) (data : Nat → Word) : List (Nat × Word) → State × List (Nat × Word)
  | [] => (s, [])
  | (k, a) :: ls =>
    if s.lineWaits key a fill then s.serveLines key n fill data ls
    else
      let v := s.scratchLoad key k a n
      let s1 := (if fill then s.scratchStore key a n (data k) else s).setFull key a fill
      let (s2, served) := s1.serveLines key n fill data ls
      (s2, (k, v) :: served)

/-- An LDSX or STSF must lie in one line, besides its alignment, which ensures it (R229). Lanes that were not served keep their pc and
leave the bundle. -/
def State.lineOp (s : State) (op : Nat) (o : Ops) (fill : Bool) : State :=
  s.issueFlow op o fun L =>
    let key := s.cur.gang
    let n := accWidth o.ty
    match s.scratchPlace key n true (s.addrs o L) with
    | some t => .error t
    | none =>
      let u := s.settle key n fill true (s.addrs o L)
      let ready := (s.addrs o L).filter fun e => !u.lineWaits key e.2 fill
      match u.scratchTouch key n (!fill) ready with
      | some t => .error t
      | none =>
        let (s1, served) := u.serveLines key n fill (s.opDst o) (s.addrs o L)
        let done := maskOf fun k => served.any fun e => e.1 == k
        let val := fun k => match served.find? fun e => e.1 == k with | some e => loadExt o.ty e.2 | none => 0
        (if fill then .ok s1 else s1.writeBack o 0 done fun k => { val := val k }).map fun s2 =>
          (s2.onLanes key (s.cur.lanes &&& ~~~(L &&& ~~~done)) fun _ t =>
            { t.issued s.clock o.stall.toNat o.yld with pc := t.pc + word s.cur.len }).split

end Sys2Proof.Machine
end

