-- ==== Sys2Proof/Machine/MemoryBlock.lean ====
section
/-! DEFINITION. The memory block 0x100 (R227 to R240). -/

namespace Sys2Proof.Machine

/-- No lane waits. -/
def never : Nat → Bool := fun _ => false

/-- The line of a lane's plain address, where it translates. -/
def State.laneLine (s : State) (o : Ops) (acc : Access) (k : Nat) : Option Nat :=
  match s.translate (coreOf s.cur.gang) s.cg.xlate (s.memAddr o k) acc (s.cl k).priv with
  | .ok (_, pa, _) => some (lineOf pa)
  | .error _ => none

/-- A load of a device page waits for the thread's earlier stores to such pages (R367). -/
def State.pageHold (s : State) (o : Ops) (k : Nat) : Bool :=
  s.pageStoring s.cur.gang k && match s.laneLine o .load k with
    | some line => (s.ioPage (line * 128)).isSome
    | none => false

/-- LD (R231). -/
def State.ldLanes (o : Ops) (s : State) (x : MemCtx) : MemResult :=
  s.loadLanes x o 0 (x.ops.map fun p => p.plain (accWidth o.ty))

/-- The destination of a load by its class bit. -/
def loadDst (o : Ops) : Dest := if o.clsD then .g o.dst.toNat else .d o.dst.toNat

/-- LD (R231). -/
def execLd (o : Ops) (s : State) : Host.Outcome State Fault Refusal :=
  .next (s.memIssue 0x100 o (.ld o) .load [loadDst o] (s.opA o) (s.opBSigned o) (fun _ => 0) (s.pageHold o) (State.ldLanes o))

/-- ST (R231): the data stands in operand c. -/
def State.stLanes (o : Ops) (s : State) (x : MemCtx) : MemResult :=
  s.storeLanes x (accWidth o.ty) (fun p => p.c) (x.ops.map fun p => p.plain (accWidth o.ty))

/-- ST (R231). -/
def execSt (o : Ops) (s : State) : Host.Outcome State Fault Refusal :=
  .next (s.memIssue 0x101 o (.st o) .store [] (s.opA o) (s.opBSigned o) (s.opDst o) never (State.stLanes o))

/-- The lanes of a context with their plain addresses. -/
def MemCtx.places (x : MemCtx) : List (Nat × Word) := x.ops.map fun p => (p.lane, p.at)

/-- LDA in global space (R232): the load, then the acquire part at its scope. -/
def State.ldaLanes (o : Ops) (s : State) (x : MemCtx) : MemResult :=
  match s.misalignedTrap (accWidth o.ty) x.places with
  | some t => .error t
  | none => (State.ldLanes o s x).map fun (s, bad) => (s.acquireAt x.core o.opmod.toNat, bad)

/-- LDA.S (R232): the acquire part orders global accesses too. -/
def State.ldaScratch (s : State) (o : Ops) : State :=
  s.issue 0x102 o fun L =>
    let s := s.settle s.cur.gang (accWidth o.ty) false true (s.addrs o L)
    match s.scratchTraps s.cur.gang (accWidth o.ty) true true (s.addrs o L) with
    | some t => .error t
    | none =>
      (s.writeBack o 0 L fun k => { val := loadExt o.ty (s.scratchLoad s.cur.gang k (s.memAddr o k) (accWidth o.ty)) }).map fun s' =>
        if L = 0 then s' else s'.acquireAt (coreOf s.cur.gang) o.opmod.toNat

/-- LDA (R232). -/
def execLda (o : Ops) (s : State) : Host.Outcome State Fault Refusal :=
  .next (if o.c.toNat = 1 then s.ldaScratch o
    else s.memIssue 0x102 o (.lda o) .load [loadDst o] (s.opA o) (s.opBSigned o) (fun _ => 0) (s.pageHold o) (State.ldaLanes o))

/-- The release part at the instruction's scope is not complete for a lane (R157). -/
def State.releaseHold (s : State) (o : Ops) (k : Nat) : Bool := !s.releaseDone s.cur.gang k o.opmod.toNat

/-- STL in global space (R232): the store, once the release part at its scope is complete. -/
def State.stlLanes (o : Ops) (s : State) (x : MemCtx) : MemResult :=
  match s.misalignedTrap (accWidth o.ty) x.places with
  | some t => .error t
  | none => State.stLanes o s x

/-- STL (R232). -/
def execStl (o : Ops) (s : State) : Host.Outcome State Fault Refusal :=
  .next (if o.c.toNat = 1 then s.scratchStoreOp 0x103 o true (s.releaseHold o)
    else s.memIssue 0x103 o (.stl o) .store [] (s.opA o) (s.opBSigned o) (s.opDst o) (s.releaseHold o) (State.stlLanes o))

/-- LDS (R231). -/
def execLds (o : Ops) (s : State) : Host.Outcome State Fault Refusal := .next (s.scratchLoadOp 0x104 o)

/-- STS (R231). -/
def execSts (o : Ops) (s : State) : Host.Outcome State Fault Refusal := .next (s.scratchStoreOp 0x105 o false never)

/-- LDSX (R203, R233). -/
def execLdsx (o : Ops) (s : State) : Host.Outcome State Fault Refusal := .next (s.lineOp 0x106 o false)

/-- STSF (R203, R233). -/
def execStsf (o : Ops) (s : State) : Host.Outcome State Fault Refusal := .next (s.lineOp 0x107 o true)

/-- The offset of the first byte of a range that lies outside a space of a size (R228). -/
def firstOutside (size : Nat) (off : Word) (n : Nat) : Option Word :=
  ((List.range n).map fun j => off + word j).find? fun b => decide (size ≤ b.toNat)

/-- PF_NOT_PRESENT of the lanes that lie outside the weight store or the bank (R228). -/
def spaceTrap (size n info : Nat) (ls : List (Nat × Word)) : Option TrapReq :=
  let bad := ls.filter fun e => (firstOutside size e.2 n).isSome
  match bad with
  | [] => none
  | e :: _ =>
    some { cause := .pfNotPresent, mask := maskOf fun k => bad.any fun e => e.1 == k, addr := (firstOutside size e.2 n).getD 0,
           info := word info }

/-- The number that bytes of a die's weight store hold. -/
def State.weightLoad (s : State) (die off n : Nat) : Word := word (leNat (SMap.getList 0 (s.die die).weight off n))

/-- POISON of the lanes that load a byte of the weight store that a copy brought poisoned. DEDUCED (assumption 61): R72 has a copy pass the poison on,
and a lane that reads poison raises POISON. -/
def State.weightPoisonTrap (s : State) (die n : Nat) (ls : List (Nat × Word)) : Option TrapReq :=
  let bad := ls.filter fun e => (SMap.getList false (s.die die).weightPoison e.2.toNat n).any id
  match bad with
  | [] => none
  | e :: _ => some { cause := .poison, mask := maskOf fun k => bad.any fun e => e.1 == k, addr := e.2, info := s.freeInfo }

/-- LDW (R96, R228, R231): in a refresh window it waits. -/
def State.ldw (s : State) (o : Ops) : State :=
  s.issueWhen 0x108 o (fun _ => s.refreshNow (dieOf s.cur.gang)) fun L =>
    let n := accWidth o.ty
    match spaceTrap Config.weightBytes n (2 ^ 8) (s.addrs o L) with
    | some t => .error t
    | none =>
      match s.weightPoisonTrap (dieOf s.cur.gang) n (s.addrs o L) with
      | some t => .error t
      | none => s.writeBack o 0 L fun k => { val := loadExt o.ty (s.weightLoad (dieOf s.cur.gang) (s.memAddr o k).toNat n) }

/-- LDW (R231). -/
def execLdw (o : Ops) (s : State) : Host.Outcome State Fault Refusal := .next (s.ldw o)

/-- The address of a launch's constant bank; 0 where there is none (R228). -/
def State.bankOf (s : State) (launch die : Nat) : Word :=
  match s.launchOn launch die with | some l => l.packet.constAddr | none => 0

/-- LDC (R228): a load of the bank through the launch's translation. -/
def State.ldcLanes (o : Ops) (s : State) (x : MemCtx) : MemResult :=
  let n := accWidth o.ty
  let bank := s.bankOf (s.gangAt x.key).launch (dieOf x.key)
  match x.places with
  | [] => .ok (s, [])
  | (k, a) :: ls =>
    if bank = 0 then .error { cause := .pfNotPresent, mask := maskOf fun j => ((k, a) :: ls).any fun e => e.1 == j, addr := a, info := word (2 ^ 9) }
    else match spaceTrap Config.constBytes n (2 ^ 9) x.places with
      | some t => .error t
      | none => s.loadLanes x o (2 ^ 9) (x.ops.map fun p => { ops := p, vas := vaRange (bank + p.at) n })

/-- LDC (R228). -/
def execLdc (o : Ops) (s : State) : Host.Outcome State Fault Refusal :=
  .next (s.memIssue 0x109 o (.ldc o) .load [loadDst o] (s.opA o) (s.opBSigned o) (fun _ => 0) never (State.ldcLanes o))

/-- PREF (R234): it changes no value that any agent can see, and its faults are dropped. -/
def execPref (o : Ops) (s : State) : Host.Outcome State Fault Refusal := .next (s.issue 0x10A o fun _ => .ok s)

/-- A core's L1 gives up its lease on a line and its ownership of every word in it (R234). -/
def State.giveUp (s : State) (core line : Nat) : State :=
  { s with
    leases := s.leases.map fun l => if l.core = core ∧ l.line = line then { l with data := none } else l
    owned := (List.range 32).foldl
      (fun o j => if SMap.get 0 o (line * 32 + j) = core + 1 then SMap.set 0 o (line * 32 + j) 0 else o) s.owned }

/-- CINV (R234). -/
def State.cinvLanes (s : State) (x : MemCtx) : MemResult :=
  let t := s.translateLanes x .load 0 (x.ops.map fun p => p.plain 1)
  .ok (t.good.foldl (fun s e => s.giveUp x.core (lineOf (e.2.headD 0))) t.s, t.bad)

/-- CINV (R234). -/
def execCinv (o : Ops) (s : State) : Host.Outcome State Fault Refusal :=
  .next (s.memIssue 0x10B o (.cinv o) .load [] (s.opA o) (s.opBSigned o) (fun _ => 0) never State.cinvLanes)

/-- A store to a line is on its way to the home. -/
def State.storing (s : State) (line : Nat) (p : PStore → Bool) : Bool :=
  s.stores.any fun t => !t.bank && p t && (linesOf t.pa t.bytes.length).contains line

/-- Some cache of the package still has to write a line back or to let its leases run out (R234). -/
def State.flushHold (s : State) (o : Ops) (k : Nat) : Bool :=
  match s.laneLine o .load k with
  | some line => s.leased line || s.storing line fun _ => true
  | none => false

/-- The same for a CFLUSH that is replayed (R270), of any of its lanes. -/
def State.flushWaits (s : State) (x : MemCtx) : Bool :=
  x.ops.any fun p => match s.translate x.core (s.gangAt x.key).xlate p.at .load x.priv with
    | .ok (_, pa, _) => s.leased (lineOf pa) || s.storing (lineOf pa) fun _ => true
    | .error _ => false

/-- Every cache has dropped a line (R234). -/
def State.dropLine (s : State) (line : Nat) : State :=
  { s with
    leases := s.leases.map fun l => if l.line = line then { l with data := none } else l
    owned := (List.range 32).foldl (fun o j => SMap.set 0 o (line * 32 + j) 0) s.owned
    hostLines := SMap.set none s.hostLines line none }

/-- CFLUSH (R234). -/
def State.cflushLanes (s : State) (x : MemCtx) : MemResult :=
  let t := s.translateLanes x .load 0 (x.ops.map fun p => p.plain 1)
  .ok (t.good.foldl (fun s e => s.dropLine (lineOf (e.2.headD 0))) t.s, t.bad)

/-- CFLUSH (R234). -/
def execCflush (o : Ops) (s : State) : Host.Outcome State Fault Refusal :=
  .next (s.memIssue 0x10C o (.cflush o) .load [] (s.opA o) (s.opBSigned o) (fun _ => 0) (s.flushHold o) State.cflushLanes)

/-- A core lies within a scope of another (R7, R156). -/
def inScope (scope core other : Nat) : Bool :=
  match scope with
  | 0 | 1 => other == core
  | 2 => clusterOf other == clusterOf core
  | 3 => other / Config.coresPerDie == core / Config.coresPerDie
  | _ => true

/-- The thread's earlier stores to the line are not performed at the scope (R235). -/
def State.icinvHold (s : State) (o : Ops) (k : Nat) : Bool :=
  match s.laneLine o .probe k with
  | some line => decide (2 ≤ o.opmod.toNat) && s.storing line fun t => t.gang == s.cur.gang && t.lane == k
  | none => false

/-- The same for an ICINV that is replayed (R270), of any of its lanes. -/
def State.icinvWaits (s : State) (o : Ops) (x : MemCtx) : Bool :=
  x.ops.any fun p => match s.translate x.core (s.gangAt x.key).xlate p.at .probe x.priv with
    | .ok (_, pa, _) => decide (2 ≤ o.opmod.toNat) && s.storing (lineOf pa) fun t => t.gang == x.key && t.lane == p.lane
    | .error _ => false

/-- ICINV of lines (R235). -/
def State.icinvLanes (o : Ops) (s : State) (x : MemCtx) : MemResult :=
  let t := s.translateLanes x .probe 0 (x.ops.map fun p => p.plain 1)
  let ls := t.good.map fun e => lineOf (e.2.headD 0)
  .ok ({ t.s with
    icache := t.s.icache.filter fun b => !(inScope o.opmod.toNat x.core b.core && ls.contains (lineOf b.pa)) }, t.bad)

/-- ICINV.all (R235). -/
def State.icinvAll (s : State) (o : Ops) : State :=
  s.issue 0x10D o fun L =>
    .ok (if L = 0 then s
      else { s with icache := s.icache.filter fun b => !inScope o.opmod.toNat (coreOf s.cur.gang) b.core })

/-- ICINV (R235). -/
def execIcinv (o : Ops) (s : State) : Host.Outcome State Fault Refusal :=
  .next (if o.c.toNat = 1 then s.icinvAll o
    else s.memIssue 0x10D o (.icinv o) .probe [] (s.opA o) (s.opBSigned o) (fun _ => 0) (s.icinvHold o) (State.icinvLanes o))

/-- The base of an LDREF or STREF in a lane: a value, or a reference register under .h (R230). -/
def State.refBase (s : State) (o : Ops) (k : Nat) : Word := if o.opmod.toNat = 1 then (s.cl k).getH o.a.toNat else s.opA o k

/-- The h register of a field in a lane. -/
def State.opH (s : State) (n : Nat) (k : Nat) : Word := (s.cl k).getH n

/-- LDREF (R237). -/
def execLdref (o : Ops) (s : State) : Host.Outcome State Fault Refusal :=
  .next (s.memIssue 0x10E o (.ldref o) .load [.h o.dst.toNat] (s.refBase o) (s.opBSigned o) (fun _ => 0) never (State.ldrefLanes o))

/-- STREF (R237). -/
def execStref (o : Ops) (s : State) : Host.Outcome State Fault Refusal :=
  .next (s.memIssue 0x10F o (.stref o) .store [] (s.refBase o) (s.opBSigned o) (s.opH o.dst.toNat) never (State.strefLanes o))

/-- LDH (R238). -/
def execLdh (o : Ops) (s : State) : Host.Outcome State Fault Refusal :=
  .next (s.memIssue 0x110 o (.ldh o) .load [.d o.dst.toNat] (s.opH o.a.toNat) (s.opBSigned o) (fun _ => 0) never (State.ldhLanes o))

/-- STH (R238). -/
def execSth (o : Ops) (s : State) : Host.Outcome State Fault Refusal :=
  .next (s.memIssue 0x111 o (.sth o) .store [] (s.opH o.a.toNat) (s.opBSigned o) (s.opDst o) never (State.sthLanes o))

/-- The same of a PIN or UNPIN at its issue. -/
def State.pinHold (s : State) (o : Ops) (changes : Word → Bool) (k : Nat) : Bool :=
  s.pinWaits (s.issueCtx (.pin o) (laneMask k) (s.opH o.dst.toNat) (fun _ => 0) fun _ => 0) changes

/-- PIN (R239). -/
def execPin (o : Ops) (s : State) : Host.Outcome State Fault Refusal :=
  .next (s.memIssue 0x112 o (.pin o) .load [.h o.dst.toNat] (s.opH o.dst.toNat) (fun _ => 0) (fun _ => 0) (s.pinHold o fun _ => true)
    (State.pinLanes o))

/-- UNPIN (R239). -/
def execUnpin (o : Ops) (s : State) : Host.Outcome State Fault Refusal :=
  .next (s.memIssue 0x113 o (.unpin o) .load [.h o.dst.toNat] (s.opH o.dst.toNat) (fun _ => 0) (fun _ => 0) (s.pinHold o refPinned)
    (State.unpinLanes o))

/-- REFADDR (R239). -/
def execRefaddr (o : Ops) (s : State) : Host.Outcome State Fault Refusal :=
  .next (s.memIssue 0x114 o (.refaddr o) .load [.d o.dst.toNat] (s.opH o.a.toNat) (fun _ => 0) (fun _ => 0) never (State.refaddrLanes o))

/-- REFCMP (R240). -/
def execRefcmp (o : Ops) (s : State) : Host.Outcome State Fault Refusal :=
  .next (s.memIssue 0x115 o (.refcmp o) .load [.p (o.dst.toNat % 8), .p (o.dst.toNat / 8 % 8)] (s.opH o.a.toNat) (s.opH o.b.toNat) (fun _ => 0) never
    (State.refcmpLanes o))

/-- LWAIT.try (R352): the completion word as it stands, at its home or under a lease that the L1 holds (assumption 15); an acquire at system
scope where it reads done = 1. A g destination is written once (R23). -/
def State.lwaitLanes (o : Ops) (s : State) (x : MemCtx) : MemResult :=
  match s.misalignedTrap 8 x.places with
  | some t => .error t
  | none =>
    let t := s.translateLanes x .load 0 (x.ops.map fun p => p.plain 8)
    match s.watch x.key 1 0 (t.good.map fun e => (e.1.ops.lane, e.1.vas)) with
    | some w => .error w
    | none =>
      match t.s.poisonTrap x t.good with
      | some w => .error w
      | none =>
        let val := fun (e : LaneAcc × List Nat) => t.s.refValue x e.1.ops.lane e.2
        let old := (s.gangAt x.key).getG o.dst.toNat
        let v := if x.others then old else match t.good with | e :: _ => val e | [] => old
        let diff := t.good.filter fun e => val e != v
        let s0 := t.s.refLeases x t.good
        let s1 := if t.good.any fun e => Word.flag (val e) 63 then s0.acquireAt x.core 5 else s0
        if !o.clsD then
          .ok (t.good.foldl (fun s e => s.onThread x.key e.1.ops.lane fun u => u.setD o.dst.toNat (val e)) s1, t.bad)
        else if diff ≠ [] then .error (s.nonuniform (maskOf fun k => diff.any fun e => e.1.ops.lane == k))
        else
          .ok (if t.good = [] then s1
            else s1.onGang x.key fun g => g.resultG o.dst.toNat v, t.bad)

end Sys2Proof.Machine
end

