-- ==== Sys2Proof/Machine/Sync.lean ====
section
/-! DEFINITION. The synchronisation block 0x0E0: core barriers, group barriers, phases and fences (R144 to R158). -/

namespace Sys2Proof.Machine

/-- A gang that came by a crossing has no barriers (R145, R296): naming one is ILLEGAL_INSN (assumption 14). -/
def State.withBar (s : State) (n : Nat) (L : Mask) (f : Alloc → Bar → Except TrapReq State) : Except TrapReq State :=
  if L = 0 then .ok s
  else match (if s.cg.byCrossing then none else s.ownAlloc) with
    | none => .error (s.illegal L 0)
    | some a => f a (a.bar n)

/-- The trap of an arrival or a test at a failed barrier (R151). -/
def State.barFailure (s : State) (b : Bar) (L : Mask) : Option TrapReq :=
  b.failed.map fun (cause, addr) => { cause := cause, mask := L, addr := addr, info := s.freeInfo }

/-- Change a barrier of the issuing gang's allocation, and make the completion check. -/
def State.setBarrier (s : State) (n : Nat) (b : Bar) : State :=
  let g := s.cg
  let core := coreOf s.cur.gang
  (s.onAlloc g.launch g.block core fun a => a.setBar n b).barCheck g.launch g.block core n

/-- BARI (R146). -/
def State.bari (s : State) (o : Ops) : State :=
  s.issue 0xE0 o fun L =>
    s.withBar o.dst.toNat L fun _ b =>
      (s.uniform L (s.opBNat o)).bind fun v =>
        if v.toNat = 0 ∨ 2048 < v.toNat then .error (s.illegal L 0)
        else
          let waiting := s.barWaiters s.cg.launch s.cg.block (coreOf s.cur.gang) o.dst.toNat
          .ok (s.setBarrier o.dst.toNat { b with expected := v.toNat, arrivals := waiting, pending := 0, failed := none })

/-- BARI (R146). -/
def execBari (o : Ops) (s : State) : Host.Outcome State Fault Refusal := .next (s.bari o)

/-- The state after lanes arrive at a barrier (R148): arrivals are a count of 12 bits (R145). -/
def State.barArrive (s : State) (n : Nat) (b : Bar) (L : Mask) : State :=
  s.setBarrier n { b with arrivals := (b.arrivals + (lanes L).length) % 2 ^ 12 }

/-- BARA (R148): the generation at the arrival, then the arrival. -/
def State.bara (s : State) (o : Ops) : State :=
  s.issue 0xE1 o fun L =>
    s.withBar o.a.toNat L fun _ b =>
      match s.barFailure b L with
      | some t => .error t
      | none => (s.writeBack o 0 L fun _ => { val := word b.gen.toNat }).map fun s' => s'.barArrive o.a.toNat b L

/-- BARA (R148). -/
def execBara (o : Ops) (s : State) : Host.Outcome State Fault Refusal := .next (s.bara o)

/-- The lanes of a mask begin to wait in the instruction, the others of the bundle go on (R106, R150). -/
def State.waitIn (s : State) (o : Ops) (L : Mask) (w : Nat → Wait) : State :=
  s.onLanes s.cur.gang s.cur.lanes fun k t =>
    let t := t.issued s.clock o.stall.toNat o.yld
    if L.getLsbD k then { t with wait := w k, waitLen := s.cur.len, bundle := none } else { t with pc := t.pc + word s.cur.len }

/-- BARW (R148). -/
def State.barw (s : State) (o : Ops) : State :=
  s.issueFlow 0xE2 o fun L =>
    let n := o.dst.toNat
    if L = 0 then .ok (s.advance o.stall.toNat o.yld)
    else s.withBar n L fun _ b =>
      match s.barFailure b L with
      | some t => .error t
      | none => .ok (((s.waitIn o L fun _ => .bar n).split).barArrive n b L)

/-- BARW (R148). -/
def execBarw (o : Ops) (s : State) : Host.Outcome State Fault Refusal := .next (s.barw o)

/-- BARX (R147). -/
def State.barx (s : State) (o : Ops) : State :=
  s.issue 0xE3 o fun L =>
    s.withBar o.dst.toNat L fun _ b =>
      (s.uniform L (s.opBSigned o)).map fun v => s.setBarrier o.dst.toNat { b with pending := b.pending + v }

/-- BARX (R147). -/
def execBarx (o : Ops) (s : State) : Host.Outcome State Fault Refusal := .next (s.barx o)

/-- BART (R149). -/
def State.bart (s : State) (o : Ops) : State :=
  s.issue 0xE4 o fun L =>
    s.withBar o.a.toNat L fun _ b =>
      match s.barFailure b L with
      | some t => .error t
      | none =>
        let done := fun k => b.gen.toNat != (s.opBNat o k).toNat % 65536
        .ok ((s.writePair o L 0 fun k => (done k, !done k)).onLanes s.cur.gang L fun k t => if done k then t.horizon b.w else t)

/-- BART (R149). -/
def execBart (o : Ops) (s : State) : Host.Outcome State Fault Refusal := .next (s.bart o)

/-- The group that an instruction names: uniform, at most 255, in use, with the gang a member (R115, R144). -/
def State.groupNumber (s : State) (o : Ops) (L : Mask) : Except TrapReq Nat :=
  let v := (s.opBNat o (lowest L)).toNat
  if v ≤ 255 ∧ s.isMember s.cg v then .ok v else .error (s.illegal L 0)

/-- Threads of the issuing gang arrive in the open round of a group (R116, R153); an arrival that is no GBARP is noted (R155). -/
def State.groupArrive (s : State) (grp : Nat) (L : Mask) (plain : Bool) : State :=
  let g := s.cg
  let r := s.roundOf g.launch grp
  let new := ((lanes L).map fun k => (g.number, k)).filter fun e => !r.arrived.contains e
  let gangs := if plain && !r.plain.contains g.number then r.plain ++ [g.number] else r.plain
  s.setRound { r with arrived := r.arrived ++ new, plain := gangs }

/-- The release part of an arrival at a group is not complete for a lane (R154). -/
def State.groupHold (s : State) (o : Ops) (k : Nat) : Bool :=
  !s.releaseDone s.cur.gang k (s.groupScope s.cg.launch (s.opBNat o k).toNat)

/-- A recorded arrival at a group (R153): kept as its round's number plus 1. -/
def Thread.record (t : Thread) (grp round : Nat) : Thread :=
  if SMap.get 0 t.arrivals grp = 0 then { t with arrivals := SMap.set 0 t.arrivals grp (round + 1) } else t

/-- GBAR and GBAR.arrive (R153, R154). -/
def State.gbar (s : State) (o : Ops) : State :=
  s.issueFlow 0xE5 o fun L =>
    if L = 0 then .ok (s.advance o.stall.toNat o.yld)
    else (s.groupNumber o L).map fun q =>
      if those L (s.groupHold o) ≠ 0 then s
      else if o.opmod.toNat = 1 then
        let round := (s.roundOf s.cg.launch q).round
        (((s.groupArrive q L true).onLanes s.cur.gang L fun _ t => t.record q round).advance o.stall.toNat o.yld).groupCheck
          s.cg.launch q
      else (((s.groupArrive q L true).waitIn o L fun _ => .group q).split).groupCheck s.cg.launch q

/-- GBAR (R153, R154). -/
def execGbar (o : Ops) (s : State) : Host.Outcome State Fault Refusal := .next (s.gbar o)

/-- A GBARP waits for the gang's asynchronous operations (R118); one of a gang with a shadow partner acts as GBAR, which waits for none (R155). -/
def State.phaseHold (s : State) (key : Nat) : Bool := (s.gangAt key).shadow.isNone && s.busyAsync key

/-- GBARP (R118, R155): the gang's asynchronous operations have completed before it arrives. -/
def State.gbarp (s : State) (o : Ops) : State :=
  s.issueFlow 0xE6 o fun L =>
    if L = 0 then .ok (s.advance o.stall.toNat o.yld)
    else (s.groupNumber o L).map fun q =>
      if those L (s.groupHold o) ≠ 0 ∨ s.phaseHold s.cur.gang then s
      else
        (((s.groupArrive q L false).waitIn o L fun _ => .phase q (8 * o.a.toNat) (8 * o.c.toNat)).split).groupCheck s.cg.launch q

/-- GBARP (R118, R155). -/
def execGbarp (o : Ops) (s : State) : Host.Outcome State Fault Refusal := .next (s.gbarp o)

/-- The release part of a FENCE is not complete for a lane (R157). -/
def State.fenceHold (s : State) (o : Ops) (k : Nat) : Bool :=
  o.a.toNat % 4 != 1 && !s.releaseDone s.cur.gang k o.opmod.toNat

/-- A core discards its fetch buffers and its instruction cache (R158). -/
def State.dropBlocks (s : State) (core : Nat) : State := { s with icache := s.icache.filter fun b => b.core ≠ core }

/-- FENCE (R156 to R158). -/
def State.fence (s : State) (o : Ops) : State :=
  s.issueWhen 0xE7 o (s.fenceHold o) fun L =>
    let core := coreOf s.cur.gang
    let s1 := if L ≠ 0 ∧ o.a.toNat % 4 ≠ 2 then s.acquireAt core o.opmod.toNat else s
    .ok (if L ≠ 0 ∧ 4 ≤ o.a.toNat then s1.dropBlocks core else s1)

/-- FENCE (R156 to R158). -/
def execFence (o : Ops) (s : State) : Host.Outcome State Fault Refusal := .next (s.fence o)

/-- The round of a thread's recorded arrival at a group has completed, or there is no record (R153). -/
def State.roundDone (s : State) (grp k : Nat) : Bool :=
  decide (SMap.get 0 (s.cl k).arrivals grp ≤ (s.roundOf s.cg.launch grp).round)

/-- GWAIT (R153, R154). -/
def State.gwait (s : State) (o : Ops) : State :=
  s.issueFlow 0xE8 o fun L =>
    if L = 0 then .ok (s.advance o.stall.toNat o.yld)
    else (s.groupNumber o L).map fun q =>
      let done := those L (s.roundDone q)
      let left := those done fun k => SMap.get 0 (s.cl k).arrivals q != 0
      let s1 := if left ≠ 0 then s.acquireAt (coreOf s.cur.gang) (s.groupScope s.cg.launch q) else s
      ((s1.onLanes s.cur.gang done fun _ t => { t with arrivals := SMap.set 0 t.arrivals q 0 }).waitIn o (L &&& ~~~done)
        fun _ => .gwait q).split

/-- GWAIT (R153, R154). -/
def execGwait (o : Ops) (s : State) : Host.Outcome State Fault Refusal := .next (s.gwait o)

end Sys2Proof.Machine
end

