-- ==== Sys2Proof/Machine/Atomics.lean ====
section
/-! DEFINITION. The atomics and reductions block 0x140 (R241 to R251). Requests travel to the service gang that owns their word; their
application and their replies are steps of their own (Machine/MemEvents.lean). -/

namespace Sys2Proof.Machine

/-- The word that an operation leaves (R244, R246): integer additions wrap, F32 and F64 round once in RNE. -/
def AtomOp.apply (op : AtomOp) (t : Ty) (old v : Word) : Word :=
  let a := old.toNat % 2 ^ t.width
  let b := v.toNat % 2 ^ t.width
  match op with
  | .add => word (combine t 0 .rne false a b).1
  | .and => word (a &&& b)
  | .or => word (a ||| b)
  | .xor => word (a ^^^ b)
  | .min => word (combine t 1 .rne false a b).1
  | .max => word (combine t 2 .rne false a b).1
  | .xchg => word b
  | .cas c => if a = c.toNat % 2 ^ t.width then word b else word a

/-- The requests in the queue of a service gang; those to another device's memory lie in that device's queues (R242). -/
def State.serviceLoad (s : State) (owner : Nat) : Nat :=
  (s.atoms.filter fun r => r.applied.isNone && !r.spilled && !s.remoteAt r.pa && ownerOf r.pa == owner).length

/-- A request finds its service gang's queue full, or entries of that queue spilled (R329). -/
def State.serviceFull (s : State) (owner : Nat) : Bool :=
  Config.serviceQueue ≤ s.serviceLoad owner || s.spilledAny (owner / 12) kindService owner

/-- How many requests of a launch a service gang can take now, in its queue and the launch's ring (R242, R330). -/
def State.serviceRoom (s : State) (launch owner : Nat) : Nat :=
  s.ringRoom launch (owner / 12)
  + if s.spilledAny (owner / 12) kindService owner then 0 else Config.serviceQueue - s.serviceLoad owner

/-- Send a request to its service gang: into the queue, or into the launch's ring; none where neither has room (R242, R330). One to another device's
memory travels there (R242). -/
def State.sendAtom (s : State) (r : AtomReq) : Option State :=
  let owner := ownerOf r.pa
  if s.remoteAt r.pa || !s.serviceFull owner then some { s with atoms := s.atoms ++ [r] }
  else if s.breaches r.launch (owner / 12) then none
  else
    let payload := (List.range 24).map fun j => Config.ringFormat (2 ^ 20 + j)
    some ({ s with atoms := s.atoms ++ [{ r with spilled := true }] }.spill r.launch (owner / 12) kindService owner (0, 0) payload)

/-- Fold over lanes while there is room. -/
def foldRoom {α : Type} (f : State → α → Option State) : State → List α → Option State
  | s, [] => some s
  | s, a :: as =>
    match f s a with
    | some s => foldRoom f s as
    | none => none

/-- A request of one lane. -/
def State.atomReq (s : State) (x : MemCtx) (o : Ops) (op : AtomOp) (ret : Bool) (scope lane : Nat) (pas : List Nat) (v : Word) : AtomReq where
  gang := x.key
  lane := lane
  launch := (s.gangAt x.key).launch
  core := x.core
  world := (s.gangAt x.key).world
  dst := if ret then some o.dst.toNat else none
  op := op
  ty := o.ty
  pa := pas.headD 0
  value := v
  scope := scope
  applied := none
  issued := s.clock
  spilled := false
  framed := false

/-- A returning atomic claims a return slot and its register is pending (R243). -/
def State.claimSlot (s : State) (x : MemCtx) (o : Ops) (lane : Nat) : State :=
  s.onThread x.key lane fun t => { t.pend (.d o.dst.toNat) with slots := t.slots + 1 }

/-- ATOMICS AND REDUCTIONS (R244, R246): alignment, translation and permission, then the requests in ascending lane order (R202). -/
def State.atomLanes (o : Ops) (ret : Bool) (addr : LaneOps → Word) (op : LaneOps → AtomOp) (s : State) (x : MemCtx) : Option MemResult :=
  let n := accWidth o.ty
  match s.misalignedTrap n (x.ops.map fun p => (p.lane, addr p)) with
  | some t => some (.error t)
  | none =>
    let t := s.translateLanes x (if ret then .atomic else .reduction) 0 (x.ops.map fun p => { ops := p, vas := vaRange (addr p) n })
    match s.watch x.key (if ret then 3 else 4) 0 (t.good.map fun e => (e.1.ops.lane, e.1.vas)) with
    | some w => some (.error w)
    | none =>
      match if ret then t.s.poisonTrap x t.good else none with
      | some w => some (.error w)
      | none =>
        (foldRoom
          (fun s e =>
            let r := s.atomReq x o (op e.1.ops) ret o.opmod.toNat e.1.ops.lane e.2 e.1.ops.c
            (if ret then s.claimSlot x o e.1.ops.lane else s).sendAtom r) t.s t.good).map fun s => .ok (s, t.bad)

/-- A lane waits for a return slot (R243), or for the release part at its scope. -/
def State.atomHold (s : State) (o : Ops) (k : Nat) : Bool := decide (Config.returnSlots ≤ (s.cl k).slots) || s.releaseHold o k

/-- A returning atomic with base and index or literal (R241, R244). -/
def State.atomOp (s : State) (code : Nat) (o : Ops) (i : Instr) (op : AtomOp) : State :=
  s.memIssueRoom code o i .atomic [.d o.dst.toNat] (s.opA o) (s.opBSigned o) (s.opC o) (s.atomHold o)
    (State.atomLanes o true LaneOps.at fun _ => op)

/-- AADD (R244). -/
def execAadd (o : Ops) (s : State) : Host.Outcome State Fault Refusal := .next (s.atomOp 0x140 o (.aadd o) .add)
/-- AAND (R244). -/
def execAand (o : Ops) (s : State) : Host.Outcome State Fault Refusal := .next (s.atomOp 0x141 o (.aand o) .and)
/-- AOR (R244). -/
def execAor (o : Ops) (s : State) : Host.Outcome State Fault Refusal := .next (s.atomOp 0x142 o (.aor o) .or)
/-- AXOR (R244). -/
def execAxor (o : Ops) (s : State) : Host.Outcome State Fault Refusal := .next (s.atomOp 0x143 o (.axor o) .xor)
/-- AMIN (R244). -/
def execAmin (o : Ops) (s : State) : Host.Outcome State Fault Refusal := .next (s.atomOp 0x144 o (.amin o) .min)
/-- AMAX (R244). -/
def execAmax (o : Ops) (s : State) : Host.Outcome State Fault Refusal := .next (s.atomOp 0x145 o (.amax o) .max)
/-- AXCHG (R244). -/
def execAxchg (o : Ops) (s : State) : Host.Outcome State Fault Refusal := .next (s.atomOp 0x146 o (.axchg o) .xchg)

/-- ACAS (R244, R245): srcB is the compare value, so the address is its base alone. -/
def execAcas (o : Ops) (s : State) : Host.Outcome State Fault Refusal :=
  .next (s.memIssueRoom 0x147 o (.acas o) .atomic [.d o.dst.toNat] (s.opA o) (s.opBReg o) (s.opC o) (s.atomHold o)
    (State.atomLanes o true (fun p => p.a) fun p => .cas p.b))

/-- A reduction that does not return (R246). -/
def State.redOp (s : State) (code : Nat) (o : Ops) (i : Instr) (op : AtomOp) : State :=
  s.memIssueRoom code o i .reduction [] (s.opA o) (s.opBSigned o) (s.opC o) never (State.atomLanes o false LaneOps.at fun _ => op)

/-- REDADD (R246). -/
def execRedadd (o : Ops) (s : State) : Host.Outcome State Fault Refusal := .next (s.redOp 0x148 o (.redadd o) .add)
/-- REDMIN (R246). -/
def execRedmin (o : Ops) (s : State) : Host.Outcome State Fault Refusal := .next (s.redOp 0x149 o (.redmin o) .min)
/-- REDMAX (R246). -/
def execRedmax (o : Ops) (s : State) : Host.Outcome State Fault Refusal := .next (s.redOp 0x14A o (.redmax o) .max)

/-- The sequence of a launch on a word (R247): an 8-byte word and the 4-byte word at its address have one each. -/
def State.seqOf (s : State) (launch pa : Nat) (t : Ty) : RedSeq :=
  (s.redseqs.find? fun q => q.launch == launch && q.pa == pa && accWidth q.ty == accWidth t).getD
    { launch := launch, pa := pa, ty := t, next := 0, held := [], stamps := [], spilled := [] }

/-- Keep a sequence. -/
def State.setSeq (s : State) (q : RedSeq) : State :=
  { s with redseqs := q :: s.redseqs.filter fun r => !(r.launch == q.launch && r.pa == q.pa && accWidth r.ty == accWidth q.ty) }

/-- The contributions in the reorder buffer of a service gang (R247). -/
def State.seqLoad (s : State) (owner : Nat) : Nat :=
  s.redseqs.foldl (fun n q => if ownerOf q.pa = owner ∧ !s.remoteAt q.pa then n + (q.held.length - q.spilled.length) else n) 0

/-- How many early contributions of a launch a service gang can take now (R247, R330). -/
def State.seqRoom (s : State) (launch owner : Nat) : Nat :=
  s.ringRoom launch (owner / 12) + if s.spilledAny (owner / 12) kindRedseq owner then 0 else Config.redseqBuffer - s.seqLoad owner

/-- A contribution needs room: it is neither its sequence's next nor a duplicate (R247). -/
def State.seqWaits (s : State) (launch pa : Nat) (t : Ty) (index : Nat) : Bool :=
  let q := s.seqOf launch pa t
  decide (q.next < index) && !(SMap.get none q.held index).isSome

/-- A contribution arrives at its owner (R247): duplicates are discarded and logged, early ones are held, or spilled where the buffer is
full; none where neither has room. The owner of a word of another device's memory is that device's, which logs for itself (R242). -/
def State.contribute (s : State) (launch world part pa : Nat) (t : Ty) (index : Nat) (v : Word) : Option State :=
  let owner := ownerOf pa
  let q := s.seqOf launch pa t
  if index < q.next ∨ (SMap.get none q.held index).isSome then
    some <| if s.remoteAt pa then s else (s.violate (.service owner) (word pa) (requesterOf part) 0x06 world (s.tag (lineOf pa)))
  else
    let q' := { q with held := SMap.set none q.held index (some v), stamps := SMap.set 0 q.stamps index s.clock }
    if s.remoteAt pa ∨ index = q.next ∨ (s.seqLoad owner < Config.redseqBuffer ∧ !s.spilledAny (owner / 12) kindRedseq owner) then some (s.setSeq q')
    else if s.breaches launch (owner / 12) then none
    else
      let payload := (List.range 24).map fun j => Config.ringFormat (2 ^ 21 + j)
      some ((s.setSeq { q' with spilled := q.spilled ++ [index] }).spill launch (owner / 12) kindRedseq owner (seqKey pa t, index) payload)

/-- REDSEQ (R247): value in srcC, index in srcB. -/
def State.redseqLanes (o : Ops) (s : State) (x : MemCtx) : Option MemResult :=
  let n := accWidth o.ty
  let wrong := x.ops.filter fun p => p.b.toNat / 2 ^ 32 != 0
  if wrong ≠ [] then some (.error { cause := .illegalInsn, mask := maskOfOps wrong, addr := 0, info := x.raw })
  else match s.misalignedTrap n (x.ops.map fun p => (p.lane, p.a)) with
    | some t => some (.error t)
    | none =>
      let t := s.translateLanes x .reduction 0 (x.ops.map fun p => { ops := p, vas := vaRange p.a n })
      match s.watch x.key 4 0 (t.good.map fun e => (e.1.ops.lane, e.1.vas)) with
      | some w => some (.error w)
      | none =>
        let g := s.gangAt x.key
        (foldRoom
          (fun s e => s.contribute g.launch g.world (partOf x.key) (e.2.headD 0) o.ty (e.1.ops.b.toNat % 2 ^ 32) e.1.ops.c) t.s t.good).map
          fun s => .ok (s, t.bad)

/-- REDSEQ (R247). -/
def execRedseq (o : Ops) (s : State) : Host.Outcome State Fault Refusal :=
  .next (s.memIssueRoom 0x14B o (.redseq o) .reduction [] (s.opA o) (s.opBReg o) (s.opC o) never (State.redseqLanes o))

/-- The shape pair of GRED (R250): count, group, status address, and whether a reserved field or the register number is wrong. -/
structure GredShape where
  count : Nat
  group : Nat
  status : Word
  bad : Bool
  deriving DecidableEq, Repr

/-- Read the shape pair. -/
def gredShape (n : Nat) (a b : Word) : GredShape where
  count := Word.field a 31 0
  group := Word.field b 7 0
  status := sext 48 (Word.field b 63 19 * 8)
  bad := Word.field a 31 0 % 4096 != 0 || decide (2 ^ 28 < Word.field a 31 0) || Word.field a 63 32 != 0 || Word.field b 18 8 != 0
    || n % 2 == 1 || n == 127

/-- Add a member's part to the first GRED of its group that does not have one of its own yet, or begin a new one. DESIGN CHOICE (assumption 92): a GRED
whose members name different operations, types or counts follows its first member's. -/
def addPart (launch grp op count : Nat) (t : Ty) (p : GredPart) : List Gred → List Gred
  | [] => [{ launch := launch, grp := grp, op := op, ty := t, count := count, parts := [p], next := 0, peers := [], failed := [], failedAt := 0 }]
  | r :: rs =>
    if r.launch = launch ∧ r.grp = grp ∧ !(r.parts.any fun q => q.num == p.num) then { r with parts := r.parts ++ [p] } :: rs
    else r :: addPart launch grp op count t p rs

/-- GRED (R250): a gang operation; its contribution is a release at the group's scope (R221). -/
def State.gred (s : State) (o : Ops) : State :=
  s.issueFlow 0x14C o fun L =>
    let n := o.c.toNat
    let sh := gredShape n (s.cg.getG n) (s.cg.getG (n + 1))
    let w := accWidth o.ty
    if L = 0 then .ok (s.advance o.stall.toNat o.yld)
    else if sh.bad ∨ !s.isMember s.cg sh.group then .error (s.illegal L 0)
    else (s.uniform L (s.opA o)).bind fun dst => (s.uniform L (s.opB o)).bind fun src =>
      if dst.toNat % w ≠ 0 ∨ src.toNat % w ≠ 0 then
        .error { cause := .misaligned, mask := L, addr := if dst.toNat % w ≠ 0 then dst else src, info := s.freeInfo }
      else if those L (fun k => !s.releaseDone s.cur.gang k (s.groupScope s.cg.launch sh.group)) ≠ 0 then .ok s
      else
        let g := s.cg
        let part : GredPart :=
          { gang := g.key, num := g.number, lanes := L, pc := s.cur.pc, token := o.dst.toNat, src := src, dst := dst,
            status := sh.status, xlate := g.xlate, world := g.world, issued := s.clock, w := 0,
            priv := (s.cl (lowest L)).priv }
        let s1 := { s with greds := addPart g.launch sh.group (o.opmod.toNat % 4) sh.count o.ty part s.greds }
        .ok ((s1.pend g.key 0 (.g o.dst.toNat)).advance o.stall.toNat o.yld)

/-- GRED (R250). -/
def execGred (o : Ops) (s : State) : Host.Outcome State Fault Refusal := .next (s.gred o)

/-- A contribution under lo: identities in every position but 0 (R249). -/
def contribution (o : Ops) (op : Nat) (v : Word) : Word :=
  if o.lo then packElems o.ty.width ((List.range o.ty.count).map fun j => if j = 0 then sub v o.ty.width 0 else identity o.ty op) else v

/-- GREDW (R249): the round's operation and type are those of its first arrival. -/
def State.gredw (s : State) (o : Ops) : State :=
  s.issueFlow 0x14D o fun L =>
    if L = 0 then .ok (s.advance o.stall.toNat o.yld)
    else (s.groupNumber o L).bind fun q =>
      let g := s.cg
      let op := o.opmod.toNat % 4
      let r := (s.gredws.find? fun r => r.launch == g.launch && r.grp == q).getD
        { launch := g.launch, grp := q, op := op, ty := o.ty, lo := o.lo, values := [], given := [], peers := [], failed := [] }
      if (s.groupOf g.launch q).any fun e => e.badGredw == some true then
        .ok ((s.onGroup g.launch q fun e => { e with badGredw := some false }).trap (s.illegal L 0))
      else if r.op ≠ op ∨ r.ty ≠ o.ty then .error (s.nonuniform L)
      else if those L (s.groupHold o) ≠ 0 then .ok s
      else
        let place := match s.groupOf g.launch q with | some e => e.place g.number | none => 0
        let r' := (lanes L).foldl
          (fun (r : GredRound) k =>
            { r with
              values := SMap.set 0 r.values (32 * place + k) (contribution o op (s.opA o k))
              given := r.given ++ [32 * place + k] }) r
        let s1 := { s with gredws := r' :: s.gredws.filter fun r => !(r.launch == g.launch && r.grp == q) }
        .ok (((s1.waitIn o L fun _ => .gredw q o.dst.toNat o.clsD o.lo).split).gredwCheck g.launch q)

/-- GREDW (R249). -/
def execGredw (o : Ops) (s : State) : Host.Outcome State Fault Refusal := .next (s.gredw o)

/-- What a logged memory instruction does again at its replay (R270); other instructions are never logged. -/
def memoryOp (i : Instr) (s : State) (x : MemCtx) : Option MemResult :=
  match i with
  | .ld o => some (State.ldLanes o s x)
  | .st o => some (State.stLanes o s x)
  | .lda o => some (State.ldaLanes o s x)
  | .stl o => some (State.stlLanes o s x)
  | .ldc o => some (State.ldcLanes o s x)
  | .cinv _ => some (s.cinvLanes x)
  | .cflush _ => if s.flushWaits x then none else some (s.cflushLanes x)
  | .icinv o => if s.icinvWaits o x then none else some (State.icinvLanes o s x)
  | .ldref o => some (State.ldrefLanes o s x)
  | .stref o => some (State.strefLanes o s x)
  | .ldh o => some (State.ldhLanes o s x)
  | .sth o => some (State.sthLanes o s x)
  | .pin o => if s.pinWaits x (fun _ => true) then none else some (State.pinLanes o s x)
  | .unpin o => if s.pinWaits x refPinned then none else some (State.unpinLanes o s x)
  | .refaddr o => some (State.refaddrLanes o s x)
  | .refcmp o => some (State.refcmpLanes o s x)
  | .aadd o => State.atomLanes o true LaneOps.at (fun _ => .add) s x
  | .aand o => State.atomLanes o true LaneOps.at (fun _ => .and) s x
  | .aor o => State.atomLanes o true LaneOps.at (fun _ => .or) s x
  | .axor o => State.atomLanes o true LaneOps.at (fun _ => .xor) s x
  | .amin o => State.atomLanes o true LaneOps.at (fun _ => .min) s x
  | .amax o => State.atomLanes o true LaneOps.at (fun _ => .max) s x
  | .axchg o => State.atomLanes o true LaneOps.at (fun _ => .xchg) s x
  | .acas o => State.atomLanes o true (fun p => p.a) (fun p => .cas p.b) s x
  | .redadd o => State.atomLanes o false LaneOps.at (fun _ => .add) s x
  | .redmin o => State.atomLanes o false LaneOps.at (fun _ => .min) s x
  | .redmax o => State.atomLanes o false LaneOps.at (fun _ => .max) s x
  | .redseq o => State.redseqLanes o s x
  | .lwait o => some (State.lwaitLanes o s x)
  | _ => some (.ok (s, []))

/-- The access kind and the destinations of a logged memory instruction. -/
def memoryMeta (i : Instr) : Access × List Dest :=
  match i with
  | .ld o | .lda o | .ldc o | .lwait o => (.load, [loadDst o])
  | .st _ | .stl _ | .stref _ | .sth _ => (.store, [])
  | .icinv _ => (.probe, [])
  | .ldref o => (.load, [.h o.dst.toNat])
  | .ldh o => (.load, [.d o.dst.toNat])
  | .pin o | .unpin o => (.load, [.h o.dst.toNat])
  | .refaddr o => (.load, [.d o.dst.toNat])
  | .refcmp o => (.load, [.p (o.dst.toNat % 8), .p (o.dst.toNat / 8 % 8)])
  | .aadd o | .aand o | .aor o | .axor o | .amin o | .amax o | .axchg o | .acas o => (.atomic, [.d o.dst.toNat])
  | .redadd _ | .redmin _ | .redmax _ | .redseq _ => (.reduction, [])
  | _ => (.load, [])

end Sys2Proof.Machine
end

