-- ==== Sys2Proof/Machine/Copy.lean ====
section
/-! DEFINITION. Copies (R90 to R96): the operands and checks at issue, the pieces in which the bytes land, posting to a barrier, tokens and
failures (R74 to R78). -/

namespace Sys2Proof.Machine

/-- The space of one end of a copy (R90). -/
inductive Side where
  | scratch | global | weight
  deriving DecidableEq, Repr

/-- The destination and source of a direction (R90). -/
def copySides (weightWrite : Bool) (dir : Nat) : Side × Side :=
  if weightWrite then (.weight, if dir = 0 then .global else .scratch)
  else match dir with
    | 0 => (.scratch, .global)
    | 1 => (.global, .scratch)
    | 2 => (.scratch, .scratch)
    | _ => (.scratch, .weight)

/-- One contiguous run of a copy: its destination and source addresses, and its length. -/
structure CopyRow where
  dst : Word
  src : Word
  size : Nat
  deriving DecidableEq, Repr

/-- A copy as its operands give it: the spaces of its ends, the bases of its ends, its rows in order, an address table with its length
(CPYX), a barrier (CPYM). -/
structure CopyReq where
  dst : Side
  src : Side
  base : Word
  srcBase : Word
  rows : List CopyRow
  table : Option (Word × Nat)
  bar : Option Nat
  weightWrite : Bool
  deriving DecidableEq, Repr

/-- The bytes that a copy moves. -/
def CopyReq.total (r : CopyReq) : Nat := r.rows.foldl (fun n x => n + x.size) 0

/-- The first byte of a scratch range of a gang that is out of bounds, where a core stands for the issuing one (R69, R70); of a range of no
bytes, its base where that names no allocation of the block (R91). -/
def State.beyond (s : State) (key core : Nat) (a : Word) (n : Nat) : Option Word :=
  let g := s.gangAt key
  let al := if g.byCrossing then none else (scratchCore core a).bind fun c => s.allocAt g.launch g.block c
  match al with
  | none => some a
  | some al => if Word.field a 18 0 + n ≤ al.size ∨ n = 0 then none else some (a + word (al.size - Word.field a 18 0))

/-- The SCRATCH_BOUNDS trap of ranges in order, for a core, with the operand field that holds them (R70). -/
def State.endTrap (s : State) (L : Mask) (core operand : Nat) (ranges : List (Word × Nat)) : Option TrapReq :=
  match ranges.filterMap fun r => s.beyond s.cur.gang core r.1 r.2 with
  | [] => none
  | a :: _ => some { cause := .scratchBounds, mask := L, addr := a, info := word operand }

/-- PF_NOT_PRESENT of a weight range past 256 MiB, an engine access in weight space (R84, R91, R266). DESIGN CHOICE (assumption 74):
TRAPADDR is the offset at which the first row or run that passes the end begins. -/
def weightTrap (L : Mask) (acc : Access) (ranges : List (Word × Nat)) : Option TrapReq :=
  match ranges.filter fun r => decide (Config.weightBytes < r.1.toNat + r.2) with
  | [] => none
  | r :: _ => some { cause := .pfNotPresent, mask := L, addr := r.1, info := word (acc.code + 2 ^ 8 + 2 ^ 14) }

/-- The window of a die's weight store is open for a launch (R95). -/
def State.windowOpen (s : State) (die launch : Nat) : Bool :=
  (match s.launchOn launch die with | some l => l.packet.flags.getLsbD 3 | none => false)
  && !(s.gangs.any fun g => dieOf g.key == die && g.launch != launch && !g.byCrossing)

/-- The checks of R91 after NONUNIFORM_OPERAND and ILLEGAL_INSN, with the alignment of CPYX's table (R92), which DESIGN CHOICE (assumption 75)
puts before SCRATCH_BOUNDS. A copy of no bytes makes only
those that concern its operands. -/
def State.copyChecks (s : State) (L : Mask) (r : CopyReq) : Option TrapReq :=
  let live := r.total ≠ 0
  let die := dieOf s.cur.gang
  let dsts := if live then r.rows.map fun x => (x.dst, x.size) else [(r.base, 0)]
  let srcs := if live then (match r.table with | some (t, n) => [(t, 8 * n)] | none => r.rows.map fun x => (x.src, x.size))
    else [(r.srcBase, 0)]
  let misaligned := match r.table with
    | some (t, _) => if live ∧ t.toNat % 8 ≠ 0 then some { cause := .misaligned, mask := L, addr := t, info := s.freeInfo } else none
    | none => none
  let bounds := fun (side : Side) operand ranges => if side = .scratch then s.endTrap L (coreOf s.cur.gang) operand ranges else none
  let checks : List (Option TrapReq) :=
    [ misaligned,
      bounds r.dst 0 dsts,
      bounds r.src 1 srcs,
      if live ∧ r.dst = .weight then weightTrap L .store dsts else none,
      if live ∧ r.src = .weight then weightTrap L .load srcs else none,
      if r.weightWrite ∧ !s.windowOpen die s.cg.launch then
        some { cause := .weightStoreWrite, mask := L, addr := r.base, info := s.freeInfo }
      else none ]
  checks.findSome? id

/-- The place that an address of a side names (R91). -/
def State.placeOf (s : State) (key : Nat) (side : Side) (a : Word) : Place :=
  match side with
  | .global => .global a
  | .weight => .weight (dieOf key) a.toNat
  | .scratch => match s.gangSpot key a with
    | some (c, off) => .scratch c off
    | none => .scratch (coreOf key) 0

/-- The place n bytes further. -/
def Place.plus (p : Place) (n : Nat) : Place :=
  match p with
  | .scratch c off => .scratch c (off + n)
  | .global va => .global (va + word n)
  | .weight d off => .weight d (off + n)

/-- A place as a number, whose multiples of 128 begin a piece. -/
def Place.index : Place → Nat
  | .scratch _ off => off
  | .global va => va.toNat
  | .weight _ off => off

/-- Cut a run into pieces of at most 128 bytes of the destination (R94). -/
def cutRun : Nat → Place → Place → Nat → List Chunk
  | 0, _, _, _ => []
  | _ + 1, _, _, 0 => []
  | fuel + 1, d, src, n + 1 =>
    let k := min (128 - d.index % 128) (n + 1)
    { dst := d, src := src, size := k, overlap := [], held := [], done := [] } :: cutRun fuel (d.plus k) (src.plus k) (n + 1 - k)

/-- The bytes of an S2S piece that also lie in a source range of the copy (R91). -/
def markOverlap (ranges : List (Place × Nat)) (c : Chunk) : Chunk :=
  match c.dst with
  | .scratch core off =>
    let inside := fun j => ranges.any fun r =>
      match r.1 with
      | .scratch core' o => core' == core && decide (o ≤ off + j) && decide (off + j < o + r.2)
      | _ => false
    { c with overlap := (List.range c.size).filter inside }
  | _ => c

/-- The pieces of a copy. -/
def State.chunksOf (s : State) (key : Nat) (r : CopyReq) : List Chunk :=
  let runs := r.rows.map fun x => (s.placeOf key r.dst x.dst, s.placeOf key r.src x.src, x.size)
  let cs := runs.flatMap fun x => cutRun (x.2.2 + 1) x.1 x.2.1 x.2.2
  if r.dst = .scratch ∧ r.src = .scratch then cs.map (markOverlap (runs.map fun x => (x.2.1, x.2.2))) else cs

/-- The copies that a partition has outstanding (R78). -/
def State.outstanding (s : State) (part : Nat) : Nat := (s.copies.filter fun c => partOf c.gang == part).length

/-- The lanes in which a d register operand of a gang operation differs from the lowest one's (R74). -/
def gangDiffers (L : Mask) (fs : List (Nat → Word)) : Mask := fs.foldl (fun m f => m ||| differing L f) 0

/-- A GANG OPERATION (R74): nothing happens in an issue without a guarded lane; operands must be uniform; while the operation must wait at
issue, its body answers none and nothing happens. -/
def State.gangOp (s : State) (op : Nat) (o : Ops) (operands : List (Nat → Word)) (body : Mask → Except TrapReq (Option State)) : State :=
  s.issueFlow op o fun L =>
    if L = 0 then .ok (s.advance o.stall.toNat o.yld)
    else
      let diff := gangDiffers L operands
      if diff ≠ 0 then .error (s.nonuniform diff)
      else match body L with
        | .error t => .error t
        | .ok none => .ok s
        | .ok (some s') => .ok (s'.advance o.stall.toNat o.yld)

/-- A copy observes the earlier stores of its lanes to scratch ranges that it reads (R93). -/
def State.settleRanges (s : State) (L : Mask) (ranges : List (Word × Nat)) : State :=
  let key := s.cur.gang
  let places := ranges.map fun r => (s.placeOf key .scratch r.1, r.2)
  let within := fun (core off : Nat) => places.any fun x => match x.1 with
    | .scratch c o => c == core && decide (o ≤ off) && decide (off < o + x.2)
    | _ => false
  (lanes L).foldl (fun s k => s.settleStores key k within) s

/-- The sources of a copy, settled. -/
def State.settleSources (s : State) (L : Mask) (r : CopyReq) : State :=
  if r.src = .scratch then s.settleRanges L (r.rows.map fun x => (x.src, x.size)) else s

/-- A token register takes the value of an operation that has ended at its issue. -/
def Gang.endAtOnce (g : Gang) (n : Nat) (v : Word) : Gang := g.resultG n v

/-- Start a copy, or end one of no bytes at once (R91). It observes the earlier stores of its lanes to its source (R93). -/
def State.startCopy (s : State) (o : Ops) (L : Mask) (r : CopyReq) : Except TrapReq (Option State) :=
  match s.copyChecks L r with
  | some t => .error t
  | none =>
    let g := s.cg
    let token := o.dst.toNat
    if r.total = 0 then .ok (some (s.onGang g.key fun g => g.endAtOnce token 0))
    else if Config.copyLimit ≤ s.outstanding (partOf g.key) then .ok none
    else
      let s := s.settleSources L r
      let c : Copy :=
        { id := s.clock, gang := g.key, launch := g.launch, block := g.block, core := coreOf g.key, world := g.world, xlate := g.xlate,
          lanes := L, token := token, bar := r.bar, weightWrite := r.weightWrite, chunks := s.chunksOf g.key r, delivered := 0,
          priv := (s.cl (lowest L)).priv, w := 0, pc := s.cur.pc }
      .ok (some (State.pend { s with copies := s.copies ++ [c] } g.key 0 (.g token)))

/-- The destination address with its literal offset (R90). -/
def State.copyDst (s : State) (o : Ops) (L : Mask) : Word := s.opA o (lowest L) + (match o.lit with | some l => sext 32 l.toNat | none => 0)

/-- A copy of one run (R92, R94, R95). -/
def State.plainCopy (s : State) (op : Nat) (o : Ops) (bar : Option Nat) (weightWrite : Bool) : State :=
  s.gangOp op o [s.opA o, s.opBReg o, s.opC o] fun L =>
    let dst := s.copyDst o L
    let src := s.opBReg o (lowest L)
    let n := (s.opC o (lowest L)).toNat
    let sides := copySides weightWrite (o.opmod.toNat % 4)
    if bar.isSome ∧ (s.cg.byCrossing ∨ s.ownAlloc = none) then .error (s.illegal L 0)
    else s.startCopy o L
      { dst := sides.1, src := sides.2, base := dst, srcBase := src, rows := [{ dst := dst, src := src, size := n }], table := none,
        bar := bar, weightWrite := weightWrite }

/-- CPY (R92). -/
def execCpy (o : Ops) (s : State) : Host.Outcome State Fault Refusal := .next (s.plainCopy 0x160 o none false)

/-- CPYM (R94): the barrier in the type field and op_mod [63]. -/
def execCpym (o : Ops) (s : State) : Host.Outcome State Fault Refusal :=
  .next (s.plainCopy 0x162 o (some (o.ty.code + o.opmod.toNat / 4 * 16)) false)

/-- CPYW (R95). -/
def execCpyw (o : Ops) (s : State) : Host.Outcome State Fault Refusal := .next (s.plainCopy 0x164 o none true)

/-- The shape pair of CPY2D, or the shape register of CPYX (R92): rows, bytes of a row, and whether a field that must be zero is not. -/
def shapeBad (v : Word) : Bool := Word.field v 31 24 != 0 || Word.field v 63 48 != 0

/-- CPY2D (R92). -/
def State.copy2d (s : State) (o : Ops) : State :=
  s.gangOp 0x161 o [s.opA o, s.opBReg o] fun L =>
    let k := lowest L
    let n := o.c.toNat
    let a := s.regG n
    let b := s.regG (n + 1)
    if n % 2 = 1 ∨ shapeBad a then .error (s.illegal L 0)
    else
      let dst := s.copyDst o L
      let src := s.opBReg o k
      let sides := copySides false (o.opmod.toNat % 4)
      let row := fun i =>
        { dst := dst + word (i * Word.field b 31 0), src := src + word (i * Word.field b 63 32), size := Word.field a 23 0 : CopyRow }
      s.startCopy o L
        { dst := sides.1, src := sides.2, base := dst, srcBase := src,
          rows := if Word.field a 23 0 = 0 then [] else (List.range (Word.field a 47 32)).map row,
          table := none, bar := none, weightWrite := false }

/-- CPY2D (R92). -/
def execCpy2d (o : Ops) (s : State) : Host.Outcome State Fault Refusal := .next (s.copy2d o)

/-- The bytes that a copy of an opcode would move, as its operands give them: a copy of none needs no engine (R91). -/
def State.copyBytes (s : State) (op : Nat) (o : Ops) (k : Nat) : Nat :=
  if op = 0x161 ∨ op = 0x163 then
    let a := s.regG o.c.toNat
    Word.field a 23 0 * Word.field a 47 32
  else (s.opC o k).toNat

/-- CPYX (R92): the table is read at issue. -/
def State.copyx (s : State) (o : Ops) : State :=
  s.gangOp 0x163 o [s.opA o, s.opBReg o] fun L =>
    let k := lowest L
    let a := s.regG o.c.toNat
    if shapeBad a then .error (s.illegal L 0)
    else
      let pack := s.copyDst o L
      let tab := s.opBReg o k
      let gather := o.opmod.toNat % 4 == 0
      let size := Word.field a 23 0
      let rows := if size = 0 then 0 else Word.field a 47 32
      let u := s.settleRanges L [(tab, 8 * rows)]
      let row := fun i =>
        let packed := pack + word (i * size)
        let addr := u.scratchLoad s.cur.gang k (tab + word (8 * i)) 8
        { dst := if gather then packed else addr, src := if gather then addr else packed, size := size : CopyRow }
      match s.copyChecks L
          { dst := .scratch, src := .scratch, base := pack, srcBase := tab, table := some (tab, rows), bar := none, weightWrite := false,
            rows := (List.range rows).map fun i => { dst := pack + word (i * size), src := 0, size := size } } with
      | some t => .error t
      | none =>
        if rows = 0 then .ok (some (s.onGang s.cur.gang fun g => g.endAtOnce o.dst.toNat 0))
        else u.startCopy o L
          { dst := if gather then .scratch else .global, src := if gather then .global else .scratch, base := pack, srcBase := tab,
            rows := (List.range rows).map row, table := none, bar := none, weightWrite := false }

/-- CPYX (R92). -/
def execCpyx (o : Ops) (s : State) : Host.Outcome State Fault Refusal := .next (s.copyx o)

/-- Read the source of a piece (R91, R93); global bytes as weak loads (R193), with poison and error responses (R278, R377). -/
def State.fetchChunk (s : State) (c : Copy) (k : Chunk) : Except PageFault (State × List Carried) :=
  match k.src with
  | .scratch core off =>
    .ok (s, (List.range k.size).map fun j =>
      match s.allocAt c.launch c.block core with
      | some a =>
        let undef := s.unretired c.launch c.block core (off + j) none
        { val := if undef then BitVec.ofNat 8 (s.free (59000 + j)).toNat else a.byte (off + j), valid := a.validAt (off + j), poison := a.poisonAt (off + j) }
      | none => { val := 0, valid := true, poison := false })
  | .weight die off =>
    .ok (s, (List.range k.size).map fun j =>
      { val := SMap.get 0 (s.die die).weight (off + j), valid := true, poison := SMap.get false (s.die die).weightPoison (off + j) })
  | .global va =>
    match s.translateRange c.core c.xlate va .load c.priv k.size with
    | .error f => .error f
    | .ok (s, pas) =>
      let s := s.logReads c.world (requesterOf (partOf c.gang)) ((pas.map lineOf).dedup)
      let (s1, bs) := s.engineBytes c.core pas
      .ok (s1, (pas.zip bs).map fun e => { val := e.2, valid := true, poison := s.poisoned c.world e.1 })

/-- The words of scratch that a list of bytes touches. -/
def wordsOf (off n : Nat) : List Nat := (List.range ((off + n + 3) / 4 - off / 4)).map (off / 4 + ·)

/-- The byte that stands at a byte of a piece's destination now. -/
def State.landedByte (s : State) (c : Copy) (k : Chunk) (j : Nat) : Byte :=
  match k.dst with
  | .scratch core off => match s.allocAt c.launch c.block core with | some a => a.byte (off + j) | none => 0
  | .weight die off => SMap.get 0 (s.die die).weight (off + j)
  | .global va => match s.translate c.core c.xlate (va + word j) .load c.priv with | .ok (_, pa, _) => s.peek pa | .error _ => 0

/-- Write a piece into scratch with the bits of R71: an S2S copy carries them, any other copy sets valid and writes poison. -/
def Alloc.land (a : Alloc) (off : Nat) (bs : List Carried) (carry : Bool) : Alloc :=
  let inWord := fun w => (List.range bs.length).filter fun j => (off + j) / 4 == w
  let src := fun j => bs.getD j { val := 0, valid := true, poison := false }
  let part := fun w => (inWord w).length < 4
  let valid := fun w => !carry || ((inWord w).all fun j => (src j).valid) && (!part w || SMap.get false a.valid w)
  let poison := fun w => ((inWord w).any fun j => (src j).poison) || (carry && part w && SMap.get false a.poison w)
  let ws := wordsOf off bs.length
  { a with
    bytes := (List.range bs.length).foldl (fun m j => SMap.set none m (off + j) (some (src j).val)) a.bytes
    valid := ws.foldl (fun m w => SMap.set false m w (valid w)) a.valid
    poison := ws.foldl (fun m w => SMap.set false m w (poison w)) a.poison }

/-- The bytes of a copy or a tile store of a gang take their place at the homes of their lines: its core's L1 gives up what it holds of
them, and poisoned bytes poison their line (R72, R93, R278). -/
def State.landGlobal (s : State) (key world : Nat) (pas : List Nat) (bs : List Carried) : State :=
  let lines := (pas.map lineOf).dedup
  let s1 := s.writePas none (requesterOf (partOf key)) world pas (bs.map (·.val))
  let bad := ((pas.zip bs).filter fun e => e.2.poison && s1.tag (lineOf e.1) == world).map fun e => lineOf e.1
  { s1 with
    poisonLines := bad.foldl (fun m l => SMap.set false m l true) s1.poisonLines
    leases := s1.leases.map fun l => if l.core = coreOf key ∧ lines.contains l.line then { l with data := none } else l }

/-- Write a piece at its destination; the write completion time of a global one (R205). -/
def State.storeChunk (s : State) (c : Copy) (k : Chunk) (bs : List Carried) : Except PageFault (State × Nat) :=
  match k.dst with
  | .scratch core off =>
    let carry := match k.src with | .scratch _ _ => true | _ => false
    let (s, js) := s.bankWrite c.launch c.block c.world core off bs.length (requesterOf (partOf c.gang))
    if js.length = bs.length then
      .ok ((s.onAlloc c.launch c.block core fun a => a.land off bs carry).spoil c.launch c.block core off bs.length none, 0)
    else
      .ok (js.foldl
        (fun s j =>
          (s.onAlloc c.launch c.block core fun a => a.land (off + j) (bs.drop j |>.take 1) carry).spoil c.launch c.block core (off + j) 1 none) s, 0)
  | .weight die off =>
    .ok (s.onDie die fun d =>
      { d with
        weight := SMap.setList 0 d.weight off (bs.map (·.val))
        weightPoison := SMap.setList false d.weightPoison off (bs.map (·.poison)) }, 0)
  | .global va =>
    match s.translateRange c.core c.xlate va .store c.priv k.size with
    | .error f => .error f
    | .ok (s, pas) =>
      let s1 := s.landGlobal c.gang c.world pas bs
      .ok (s1, pas.foldl (fun w pa => max w (s.leaseEnd (lineOf pa))) s1.gtime)

/-- Change a copy, by its name. -/
def State.onCopy (s : State) (id : Nat) (f : Copy → Copy) : State :=
  { s with copies := s.copies.map fun c => if c.id = id then f c else c }

/-- A barrier is posted the bytes of a piece (R94). -/
def State.postChunk (s : State) (c : Copy) (n w : Nat) : State :=
  match c.bar with
  | none => s
  | some b =>
    (s.onAlloc c.launch c.block c.core fun a =>
      a.setBar b { a.bar b with pending := (a.bar b).pending - word n, w := max (a.bar b).w w }).barCheck c.launch c.block c.core b

/-- A copy waits for fault service (R77). -/
def State.copyHeld (s : State) (id : Nat) : Bool := s.faults.any fun f => f.who == .copy id

/-- A read of the weight store in a refresh window waits (R96). -/
def State.refreshing (s : State) (k : Chunk) : Bool :=
  match k.src with
  | .weight die _ => s.refreshNow die
  | _ => false

/-- A step of the device takes a fresh number for the free values that follow. -/
def State.fresh (s : State) : State := { s with freeCtr := s.freeCtr + 1 }

/-- A register's asynchronous operation ends: the token is written, with the write completion time that its readers take over (R76, R217). -/
def Gang.writeToken (g : Gang) (n : Nat) (v : Word) (w : Nat) : Gang :=
  let g := { g.resultG n v with gPending := g.gPending.erase n }
  let g := if w = 0 then g else { g with tokenEnd := SMap.set 0 g.tokenEnd 128 (max w (SMap.get 0 g.tokenEnd 128)) }
  if n = 0 ∨ w = 0 then g else { g with tokenEnd := SMap.set 0 g.tokenEnd n w }

/-- The token value of a completed operation, and of a failed one (R76). -/
def tokenOf (bytes : Nat) : Word := word (bytes % 2 ^ 48)
def failedOf (c : Cause) (bytes : Nat) : Word := word (2 ^ 63 + c.code * 2 ^ 56 + bytes % 2 ^ 48)

/-- A failed operation's token, with its operation record (R77). -/
def Gang.writeFailed (g : Gang) (n : Nat) (c : Cause) (bytes : Nat) (addr : Word) (w : Nat) : Gang :=
  let g := g.writeToken n (failedOf c bytes) w
  if n = 0 then g else { g with gFailed := (n, addr) :: g.gFailed }

/-- A copy finishes (R76). -/
def State.endCopy (s : State) (c : Copy) : State :=
  (State.onGang { s with copies := s.copies.filter fun d => d.id ≠ c.id } c.gang fun g => g.writeToken c.token (tokenOf c.delivered) c.w).opEnded
    c.gang

/-- Undefined bytes at the destination of a piece that never landed, in memory byte by byte where they can be written (R77). -/
def State.spoilChunk (s : State) (c : Copy) (k : Chunk) : State :=
  let vals := (List.range k.size).map fun j => BitVec.ofNat 8 (s.free j).toNat
  match k.dst with
  | .scratch core off =>
    (s.onAlloc c.launch c.block core fun a =>
      { a with bytes := (List.range k.size).foldl (fun m j => SMap.set none m (off + j) (some (vals.getD j 0))) a.bytes }).fresh
  | .weight die off => (s.onDie die fun d => { d with weight := SMap.setList 0 d.weight off vals }).fresh
  | .global va =>
    ((List.range k.size).foldl
      (fun s j =>
        match s.translateRange c.core c.xlate (va + word j) .store c.priv 1 with
        | .error _ => s
        | .ok (s, pas) => s.writePas none (requesterOf (partOf c.gang)) c.world pas [vals.getD j 0]) s).fresh

/-- A copy fails (R77): its token takes the cause, its record the address, the rest of its destination undefined values, and the barrier of
a CPYM fails with it (R94). -/
def State.failCopy (s : State) (id : Nat) (cause : Cause) (addr : Word) : State :=
  match s.copies.find? fun c => c.id == id with
  | none => s
  | some c =>
    let s := c.chunks.foldl (fun s k => s.spoilChunk c k) s
    let s := State.onGang { s with copies := s.copies.filter fun d => d.id ≠ id } c.gang fun g =>
      g.writeFailed c.token cause c.delivered addr c.w
    match c.bar with
    | none => s.opEnded c.gang
    | some b => (s.failBar c.launch c.block c.core b cause addr).opEnded c.gang

/-- The fault of an engine's access (R266). -/
def engineFault (f : PageFault) : PageFault := { f with info := f.info + 2 ^ 14 }

/-- The address of the first byte of a global range whose read gets an error response (R377, R390). -/
def State.errorAt (s : State) (world : Nat) (va : Word) (pas : List Nat) : Option Word :=
  ((List.range pas.length).find? fun j => (s.readError world (lineOf (pas.getD j 0))).isSome).map fun j => va + word j

/-- The error response that a piece of a copy meets when it reads its source, or when it writes a part of a line of another protected world
(R377, R390). -/
def State.chunkError (s : State) (c : Copy) (va : Word) (n : Nat) (store : Bool) : Option Word :=
  match s.translateRange c.core c.xlate va (if store then .store else .load) c.priv n with
  | .error _ => none
  | .ok (s, pas) => if store && n == 128 && va.toNat % 128 == 0 then none else s.errorAt c.world va pas

/-- The bank of scratch that refuses a read of a piece's source (R375), with the address that it refuses. -/
def State.chunkRefused (s : State) (c : Copy) (k : Chunk) : Option (Nat × Word) :=
  match k.src with
  | .scratch core off =>
    (List.range k.size).findSome? fun j => (s.refusing c.launch c.block c.world core (off + j)).map fun p => (p, spotVa core (off + j))
  | _ => none

/-- One byte of a piece, as a piece of its own. -/
def Chunk.byte (k : Chunk) (j : Nat) : Chunk :=
  { dst := k.dst.plus j, src := k.src.plus j, size := 1, overlap := if k.overlap.contains j then [0] else [], held := [], done := [] }

/-- The bytes that a piece brings (R91, R93): those that were read ahead as they were then, those that were written ahead as they stand in place
now, the others as they were just read; undefined where source and destination overlap. -/
def State.chunkBytes (s : State) (c : Copy) (k : Chunk) (read : List Carried) : List Carried :=
  (List.range k.size).map fun j =>
    let b := match k.held.find? fun h => h.1 == j with
      | some h => h.2
      | none => read.getD j { val := 0, valid := true, poison := false }
    if k.done.contains j then { b with val := s.landedByte c k j }
    else if k.overlap.contains j then { b with val := BitVec.ofNat 8 (s.free (60000 + j)).toNat }
    else b

/-- The cause of a read of the weight store that meets an uncorrectable error: the manual names none (assumption 61). -/
def weightCause : Cause := .poison

/-- A byte of a piece is read, or written, ahead of the others (R93). One that meets a fault or an error response is left to the whole piece. -/
def State.landByte (s : State) (id i j : Nat) (write : Bool) : State :=
  match s.copies.find? fun c => c.id == id with
  | none => s
  | some c =>
    match c.chunks[i]? with
    | none => s
    | some k =>
      let b := k.byte j
      if k.size ≤ j ∨ s.copyHeld id ∨ s.refreshing k ∨ k.done.contains j ∨ (s.chunkRefused c b).isSome then s
      else match s.fetchChunk c b with
        | .error _ => s
        | .ok (s1, bs) =>
          let v := match k.held.find? fun h => h.1 == j with
            | some h => h.2
            | none => (s.chunkBytes c b bs).headD { val := 0, valid := true, poison := false }
          let readErr := match b.src with | .global va => (s.chunkError c va 1 false).isSome | _ => false
          let writeErr := match b.dst with | .global va => (s.chunkError c va 1 true).isSome | _ => false
          let keep := fun (k : Chunk) => if k.held.any (·.1 == j) then k else { k with held := (j, v) :: k.held }
          if readErr then s
          else if !write then s1.onCopy id fun c => { c with chunks := c.chunks.modify i keep }
          else if writeErr then s
          else match s1.storeChunk c b [v] with
            | .error _ => s
            | .ok (s2, w) =>
              s2.onCopy id fun c =>
                { c with chunks := c.chunks.modify i fun k => { keep k with done := j :: k.done }, w := max c.w w }

/-- A piece of a copy lands: it is read, written, counted and posted; a fault goes to fault service, and the copy waits (R77, R93, R94). An
error response fails the copy (R390). -/
def State.landChunk (s : State) (id : Nat) (i : Nat) : State :=
  match s.copies.find? fun c => c.id == id with
  | none => s
  | some c =>
    match c.chunks[i]? with
    | none => s
    | some k =>
      if s.copyHeld id ∨ s.refreshing k then s
      else match s.chunkRefused c k with
      | some r => (s.logBanks c.world (requesterOf (partOf c.gang)) [r]).failCopy id .poison r.2
      | none => match s.fetchChunk c k with
        | .error f => s.sendFault (.copy id) c.gang c.lanes (engineFault f) .load c.pc c.priv none
        | .ok (s1, bs) =>
          let bs := s.chunkBytes c k bs
          let readErr := match k.src with | .global va => s.chunkError c va k.size false | _ => none
          let writeErr := match k.dst with | .global va => s.chunkError c va k.size true | _ => none
          match s1.storeChunk c k bs with
          | .error f => s1.sendFault (.copy id) c.gang c.lanes (engineFault f) .store c.pc c.priv none
          | .ok (s2, w) =>
            match readErr, writeErr with
            | some va, _ => s1.failCopy id .poison va
            | none, some va => s2.failCopy id .poison va
            | none, none =>
              (s2.onCopy id fun c =>
                { c with chunks := c.chunks.eraseIdx i, delivered := c.delivered + k.size, w := max c.w w }).postChunk c k.size w

/-- Land the pieces that are left, first first. -/
def State.landAll (s : State) (id : Nat) : Nat → State
  | 0 => s
  | n + 1 => ((s.landChunk id 0).fresh).landAll id n

/-- A read of the weight store meets an uncorrectable error: the copy fails (R77). -/
def State.weightFails (s : State) (id i : Nat) : State :=
  match (s.copies.find? fun c => c.id == id).bind fun c => c.chunks[i]? with
  | some k => match k.src with
    | .weight _ off =>
      if s.copyHeld id ∨ s.refreshing k then s
      else match s.copies.find? fun c => c.id == id with
        | some c => (s.uncorrectable off (requesterOf (partOf c.gang)) c.world).failCopy id weightCause (word off)
        | none => s
    | _ => s
  | none => s

/-- CPYM_CHUNK_POSTED (R93, R94): a piece of a copy lands, or a byte of it ahead of the others; the manual fixes no order among them. -/
def execCpymChunkPosted (copy : Nat) (chunk : Nat × Portion) (s : State) : Host.Outcome State Fault Refusal :=
  .next (match s.copies[copy]? with
    | none => s
    | some c => match chunk with
      | (i, .whole) => s.landChunk c.id i
      | (i, .readByte j) => s.landByte c.id i j false
      | (i, .writeByte j) => s.landByte c.id i j true
      | (i, .uncorrectable) => s.weightFails c.id i)

/-- COPY_COMPLETION (R76): the pieces that are left land, and the token is written when the last one has. -/
def execCopyCompletion (copy : Nat) (s : State) : Host.Outcome State Fault Refusal :=
  .next (match s.copies[copy]? with
    | none => s
    | some c =>
      let s := s.landAll c.id c.chunks.length
      match s.copies.find? fun d => d.id == c.id with
      | some d => if d.chunks.isEmpty then s.endCopy d else s
      | none => s)

end Sys2Proof.Machine
end

