-- ==== Sys2Proof/Machine/Measure.lean ====
section
/-! DEFINITION. Measurement slots and the configuration image (R379, R380, R385), and the two registers whose every change is measured:
FUNCMODE and LEASECTL (R209, R362). -/

namespace Sys2Proof.Machine

/-- A measurement slot; its digest is held as the number whose lowest byte is the first (R379). -/
def State.slot (s : State) (i : Nat) : BitVec 256 := SMap.get 0 s.sec.ms i

/-- A digest as bytes. -/
def digestBytes (d : BitVec 256) : List Byte := leBytes 32 d.toNat

/-- The value of a slot after an extension (R379). -/
def extended256 (old : BitVec 256) (image : List Byte) : BitVec 256 :=
  Config.sm3 (digestBytes old ++ digestBytes (Config.sm3 image))

/-- Extend a slot with an image (R379). -/
def State.extend (s : State) (i : Nat) (image : List Byte) : State :=
  { s with sec := { s.sec with ms := SMap.set 0 s.sec.ms i (extended256 (s.slot i) image) } }

/-- LEASECTL as a word (R362). -/
def State.leasectl (s : State) : Word := word (s.leaseNs.toNat + s.marginNs.toNat * 2 ^ 16)

/-- The way maps of the 48 slices, 16 bytes each, and the 64 allow-lists (R376, R384). -/
def State.wayMaps (s : State) : List Byte := SMap.getList 0 s.sec.l2wmap 0 768
def State.allowLists (s : State) : List Byte := (SMap.getList 0 s.sec.allow 1 64).flatMap fun v => leBytes 4 v.toNat

/-- The configuration image (R380). -/
def State.configImage (s : State) : List Byte :=
  ((List.range 4).flatMap fun d => leBytes 8 (s.die d).funcMode.toNat) ++ leBytes 8 s.leasectl.toNat ++ leBytes 8 0
  ++ digestBytes (Config.sm3 s.wayMaps) ++ digestBytes (Config.sm3 s.allowLists) ++ leBytes 16 0

/-- Extend MS3 with the present configuration and keep the image (R379, R380). -/
def State.extendConfig (s : State) : State :=
  let s1 := s.extend 3 s.configImage
  { s1 with sec := { s1.sec with images := s1.sec.images ++ [s.configImage] } }

/-- The values that the configuration image covers (R380), as bytes: of the way maps and the allow-lists themselves, not their digests. -/
def State.covered (s : State) : List Byte :=
  ((List.range 4).flatMap fun d => leBytes 8 (s.die d).funcMode.toNat) ++ leBytes 8 s.leasectl.toNat ++ s.wayMaps ++ s.allowLists

/-- MS3 is extended when a change altered a value that the configuration image covers (R379). -/
def State.measured (old new : State) : State := if new.covered = old.covered then new else new.extendConfig

/-- A write of FUNCMODE of a die (R349, R362). -/
def State.writeFuncmode (s : State) (die : Nat) (v : Word) : State :=
  s.measured (s.onDie die fun d => { d with funcMode := BitVec.ofNat 8 v.toNat })

/-- The fields that a write of LEASECTL stores (R209). -/
def clampLease (v : Word) : Nat := max 50 (min 4000 (Word.field v 11 0))
def clampMargin (v : Word) : Nat := max 4 (Word.field v 23 16)

/-- A write of LEASECTL (R209). -/
def State.writeLeasectl (s : State) (v : Word) : State :=
  s.measured { s with leaseNs := BitVec.ofNat 12 (clampLease v), marginNs := BitVec.ofNat 8 (clampMargin v) }

/-- Append an entry to a world's audit log: a ring of 512 that counts what was ever appended (R385). -/
def AuditLog.push (l : AuditLog) (a : Audit) : AuditLog :=
  { l with
    entries := (if l.entries.length < Config.auditEntries then l.entries else l.entries.drop 1) ++ [a]
    appended := l.appended + 1 }

/-- A world's audit log. -/
def State.auditLog (s : State) (world : Nat) : AuditLog :=
  (s.sec.audit.find? fun l => l.world == world).getD { world := world, entries := [], appended := 0 }

/-- Append to a world's audit log (R371, R384). -/
def State.audit (s : State) (world : Nat) (a : Audit) : State :=
  { s with
    sec := { s.sec with audit := (s.auditLog world).push a :: s.sec.audit.filter fun l => l.world ≠ world } }

end Sys2Proof.Machine
end

