-- ==== Sys2Proof/Machine/Boot.lean ====
section
/-! DEFINITION. From the release of the reset pin to the first launch (R96, R379, R393). -/

namespace Sys2Proof.Machine

/-- RESET_RELEASE (R393 step 1): GTIME starts at 0 on every die. -/
def execResetRelease (s : State) : Host.Outcome State Fault Refusal :=
  .next (if s.released then s else { s with released := true, gtime := 0, bootStep := 1 })

/-- A die's refresh schedule as boot sets it (R96): its phase is the die's own, a free value. -/
def State.refreshDie (s : State) (d : Nat) : State :=
  s.onDie d fun x =>
    { x with
      refreshValid := true, refreshLen := 350, refreshPeriod := 7800
      nextStart := s.gtime + 1 + (s.free d).toNat % 7800 }

/-- The context in which a host core leaves reset (R393 step 9): machine mode, at the hub firmware's entry. It is no thread that may migrate. -/
def firmwareContext (host : Nat) : HostThread :=
  { hubContext 0 0 (2 ^ 24 + host) 0 0 with
    host := host, away := false, registered := false, mode := .machine, pc := Config.firmwareEntry, vec := { HostVector.arrived with vtype := 0 } }

/-- The host cores leave reset (R393 step 9). -/
def State.startHosts (s : State) : State :=
  { s with
    hostThreads := (List.range Config.hosts).map firmwareContext
    hostCores := (List.range Config.hosts).map fun h => (h, { HostCore.reset with running := some (0, 0, 2 ^ 24 + h) }) }

/-- What a completed step does (R393). -/
def State.bootDo (s : State) (n : Nat) : State :=
  match n with
  | 2 => s.extend 0 (Config.firmware 0)
  | 3 => s.extend 1 (Config.firmware 1)
  | 5 => s.extend 2 (Config.firmware 2)
  | 6 => (List.range Config.dies).foldl State.refreshDie { s with worlds := [], arrays := [], clearing := [] }
  | 7 =>
    State.extendConfig
      { s with
        dies := (List.range Config.dies).foldl (fun m d => SMap.set Die.reset m d { s.die d with funcMode := 0xFF }) s.dies
        sec := { s.sec with l2wmap := [] }
        leaseNs := 400, marginNs := 6 }
  | 8 => s.extend 4 (Config.firmware 4)
  | 9 =>
    { s.startHosts with
        platform := { control := Config.controlPage, windows := Config.windowPages, pool := Config.poolMemory, remote := Config.remoteMemory } }
  | _ => s

/-- BOOT_STEP (R393): a step completes; a signature that fails in step 2, 3 or 5 stops the sequence there, with its image measured. -/
def execBootStep (ok : Bool) (s : State) : Host.Outcome State Fault Refusal :=
  .next (
    let n := s.bootStep + 1
    if !s.released ∨ s.bootFailed ∨ 9 < n then s
    else
      let s1 := s.bootDo n
      if !ok && (n == 2 || n == 3 || n == 5) then { s1 with bootFailed := true } else { s1 with bootStep := n })

end Sys2Proof.Machine
end

