-- ==== Sys2Proof/Machine/Compact.lean ====
section
/-! DEFINITION. The compact instructions (R38 to R40): each has exactly the effect of the S64 instruction listed for it (R39). -/

namespace Sys2Proof.Machine

/-- The type that ctype names (R38). -/
def compactTy (c : C32) : Ty :=
  match c.ctype.toNat with
  | 0 => .i64
  | 1 => .i32
  | 2 => .f32
  | _ => .f64

/-- The S64 fields of a compact instruction (R39): mod 0, class bits clear, yld 0. -/
def compactOps (c : C32) (ty : Ty) (dst a b : BitVec 7) (lit : Option (BitVec 32)) : Ops where
  guard := c.guard
  stall := BitVec.ofNat 4 c.stall.toNat
  yld := false
  dst := dst
  a := a
  b := b
  c := 0
  clsD := false
  clsA := false
  clsB := false
  clsC := false
  ty := ty
  opmod := 0
  ix := false
  sat := false
  rnd := .rne
  lo := false
  lit := lit

/-- dst, srcA = dst, srcB (R40). -/
def compactArith (c : C32) : Ops := compactOps c (compactTy c) c.dst c.dst c.b none

/-- No operands, type 0 (R40). -/
def compactBare (c : C32) : Ops := compactOps c .i8 0 0 0 none

/-- A mask register, WAIT, JOIN, LEAVE (R40). -/
def compactMask (c : C32) : Ops := compactOps c .i8 c.dst 0 0 none

/-- A number of w bits as a signed 32-bit literal. -/
def compactLit (w v : Nat) : BitVec 32 := BitVec.ofNat 32 (sext w v).toNat

/-- IADD (R40). -/
def execIaddC32 (c : C32) (s : State) : Host.Outcome State Fault Refusal :=
  .next (s.laneStep 0x00 (compactArith c) 4 (s.nums (compactArith c) fun a b _ => a + b))

/-- ISUB (R40). -/
def execIsubC32 (c : C32) (s : State) : Host.Outcome State Fault Refusal :=
  .next (s.laneStep 0x01 (compactArith c) 4 (s.nums (compactArith c) fun a b _ => a - b))

/-- AND (R40). -/
def execAndC32 (c : C32) (s : State) : Host.Outcome State Fault Refusal :=
  .next (s.laneStep 0x0F (compactArith c) 4 (s.elems (compactArith c) fun a b _ => a &&& b))

/-- OR (R40). -/
def execOrC32 (c : C32) (s : State) : Host.Outcome State Fault Refusal :=
  .next (s.laneStep 0x10 (compactArith c) 4 (s.elems (compactArith c) fun a b _ => a ||| b))

/-- XOR (R40). -/
def execXorC32 (c : C32) (s : State) : Host.Outcome State Fault Refusal :=
  .next (s.laneStep 0x11 (compactArith c) 4 (s.elems (compactArith c) fun a b _ => a ^^^ b))

/-- SHL (R40). -/
def execShlC32 (c : C32) (s : State) : Host.Outcome State Fault Refusal :=
  .next (s.laneStep 0x14 (compactArith c) 4 (s.elems (compactArith c) fun a b _ => shl (compactTy c).width a b))

/-- SHR (R40). -/
def execShrC32 (c : C32) (s : State) : Host.Outcome State Fault Refusal :=
  .next (s.laneStep 0x15 (compactArith c) 4 (s.elems (compactArith c) fun a b _ => shr (compactTy c).width a b))

/-- SAR (R40). -/
def execSarC32 (c : C32) (s : State) : Host.Outcome State Fault Refusal :=
  .next (s.laneStep 0x16 (compactArith c) 4 (s.elems (compactArith c) fun a b _ => sar (compactTy c).width a b))

/-- MOV.B64 of srcB (R40). -/
def execMovC32 (c : C32) (s : State) : Host.Outcome State Fault Refusal :=
  .next (s.laneStep 0x24 (compactOps c .b64 c.dst c.b 0 none) 4 fun k => { val := s.opA (compactOps c .b64 c.dst c.b 0 none) k })

/-- MOVI of the 7-bit immediate, sign-extended (R40). -/
def execMoviC32 (c : C32) (s : State) : Host.Outcome State Fault Refusal :=
  .next (s.laneStep 0x25 (compactOps c (compactTy c) c.dst 0 0 (some (compactLit 7 c.b.toNat))) 4 fun _ =>
    { val := widenLit (compactTy c) (compactLit 7 c.b.toNat) })

/-- FADD, RNE (R40). -/
def execFaddC32 (c : C32) (s : State) : Host.Outcome State Fault Refusal :=
  .next (s.laneStep 0x40 (compactArith c) (floatLat (compactTy c)) (s.fstep (compactArith c) fun a b _ => a.add .rne b))

/-- FMUL, RNE (R40). -/
def execFmulC32 (c : C32) (s : State) : Host.Outcome State Fault Refusal :=
  .next (s.laneStep 0x42 (compactArith c) (floatLat (compactTy c)) (s.fstep (compactArith c) fun a b _ => a.mul b))

/-- FMIN (R40). -/
def execFminC32 (c : C32) (s : State) : Host.Outcome State Fault Refusal :=
  .next (s.laneStep 0x46 (compactArith c) (floatLat (compactTy c)) (s.felems (compactArith c) fun a b _ =>
    (Fmt.of (compactTy c)).pick false a b))

/-- FMAX (R40). -/
def execFmaxC32 (c : C32) (s : State) : Host.Outcome State Fault Refusal :=
  .next (s.laneStep 0x47 (compactArith c) (floatLat (compactTy c)) (s.felems (compactArith c) fun a b _ =>
    (Fmt.of (compactTy c)).pick true a b))

/-- BRA by the 14-bit signed offset in [29:16] (R40). -/
def execBraC32 (c : C32) (s : State) : Host.Outcome State Fault Refusal :=
  .next (s.branch (compactOps c .i8 0 0 0 (some (compactLit 14 (c.b.toNat * 128 + c.dst.toNat)))))

/-- NOP (R40). -/
def execNopC32 (c : C32) (s : State) : Host.Outcome State Fault Refusal :=
  .next (s.issue 0xD1 (compactBare c) fun _ => .ok s)

/-- YIELD (R40). -/
def execYieldC32 (c : C32) (s : State) : Host.Outcome State Fault Refusal :=
  .next (s.yieldOp (compactBare c))

/-- PAUSE of the count in [29:23] (R40). -/
def execPauseC32 (c : C32) (s : State) : Host.Outcome State Fault Refusal :=
  .next (s.pauseOp (compactOps c .i8 0 c.b 0 none))

/-- WAIT (R40). -/
def execWaitC32 (c : C32) (s : State) : Host.Outcome State Fault Refusal :=
  .next (s.waitOp (compactMask c))

/-- JOIN (R40). -/
def execJoinC32 (c : C32) (s : State) : Host.Outcome State Fault Refusal :=
  .next (s.joinOp (compactMask c))

/-- LEAVE (R40). -/
def execLeaveC32 (c : C32) (s : State) : Host.Outcome State Fault Refusal :=
  .next (s.leaveOp (compactMask c))

/-- EXIT (R40). -/
def execExitC32 (c : C32) (s : State) : Host.Outcome State Fault Refusal :=
  .next (s.exitOp (compactBare c))

/-- RET through d1 (R40). -/
def execRetC32 (c : C32) (s : State) : Host.Outcome State Fault Refusal :=
  .next (s.transferOp 0xC4 (compactOps c .i8 0 1 0 none) .return false (s.opA (compactOps c .i8 0 1 0 none)))

end Sys2Proof.Machine
end

