-- ==== Sys2Proof/Machine/Launching.lean ====
section
/-! DEFINITION. Launches: the packet and the group table as read, the checks that reject them, numbers, distribution to the dies' queues, and
the completion word (R114, R115, R317 to R321, R327, R351). -/

namespace Sys2Proof.Machine

/-- A field of a packet's bytes. -/
def packetField (bs : List Byte) (off n : Nat) : Nat := leNat ((bs.drop off).take n)

/-- The packet of 128 bytes (R317). -/
def Packet.parse (bs : List Byte) : Packet :=
  let w := fun off => word (packetField bs off 8)
  { entry := w 0x00, blocks := packetField bs 0x08 4, blockdim := packetField bs 0x0C 2, gangregs := packetField bs 0x0E 1,
    shadowregs := packetField bs 0x0F 1, scratch := packetField bs 0x10 4, flags := BitVec.ofNat 32 (packetField bs 0x14 4),
    constAddr := w 0x18, groupTable := w 0x20, xlate := w 0x28, sliceEntry := w 0x30, trapHandler := w 0x38, saveRoutine := w 0x40,
    restoreRoutine := w 0x48, trapFrames := w 0x50, ring := w 0x58, quota := packetField bs 0x60 4, estimate := packetField bs 0x64 4,
    phaseRing := w 0x68, completion := w 0x70, phaseRingSize := packetField bs 0x78 4, zero := packetField bs 0x7C 4 }

/-- Fields of the packet's flags (R317). -/
def Packet.flag (p : Packet) (hi lo : Nat) : Nat := Word.field (word p.flags.toNat) hi lo
def Packet.priority (p : Packet) : Nat := p.flag 2 0
def Packet.system (p : Packet) : Bool := p.flag 4 4 == 1
def Packet.placement (p : Packet) : Nat := p.flag 6 5
def Packet.dieMask (p : Packet) : Nat := p.flag 11 8

/-- The gangs of one block (R102). -/
def Packet.gangs (p : Packet) : Nat := (p.blockdim + 31) / 32

/-- The register-bank rows of one block with its shadow gangs: a row of 256 bytes holds one d register of a gang (R24, R378). -/
def Packet.rows (p : Packet) : Nat := p.gangs * (8 * p.gangregs + 8 * p.shadowregs)

/-- The dies of the mask, ascending (R320). -/
def Packet.dies (p : Packet) : List Nat := (List.range Config.dies).filter fun d => p.dieMask.testBit d

/-- The packet is malformed, but for its group table (R318). -/
def Packet.malformed (p : Packet) : Bool :=
  p.entry.toNat % 4 != 0 || p.trapHandler.toNat % 4 != 0 || p.saveRoutine.toNat % 4 != 0 || p.restoreRoutine.toNat % 4 != 0
  || p.trapFrames.toNat % 128 != 0 || p.phaseRing.toNat % 128 != 0 || p.phaseRingSize % 128 != 0
  || p.ring.toNat % 4096 != 0 || p.quota % 4096 != 0
  || p.blocks == 0 || p.blockdim == 0 || 16384 < p.blockdim || p.gangregs == 0 || 16 < p.gangregs || 16 < p.shadowregs
  || 524288 < p.scratch || p.flag 7 7 != 0 || p.flag 31 12 != 0 || p.zero != 0 || Word.field p.xlate 63 60 != 9
  || p.dieMask == 0 || (p.shadowregs == 0) != (p.sliceEntry == 0)
  || 2 ≤ p.placement || (p.placement == 1 && 48 < p.gangs)
  || (p.saveRoutine == 0) != (p.restoreRoutine == 0)
  || 384 * 256 < p.rows

/-- The bytes at a virtual address as a core reads them through a translation, and where they lie. -/
def State.readAt (s : State) (core : Nat) (xlate va : Word) (priv : Bool) (n : Nat) : Except PageFault (State × List Byte × List Nat) :=
  match s.translateRange core xlate va .load priv n with
  | .error f => .error f
  | .ok (s, pas) => .ok (s, pas.map (s.view core), pas)

/-- A list of 4-byte numbers in memory, and the lines that it lies in. -/
def State.readList (s : State) (core : Nat) (xlate va : Word) (priv : Bool) (n : Nat) : Except PageFault (State × List Nat × List Nat) :=
  match s.readAt core xlate va priv (4 * n) with
  | .error f => .error f
  | .ok (s, bs, pas) => .ok (s, (List.range n).map fun k => packetField bs (4 * k) 4, pas.map lineOf)

/-- An entry of the group table breaks a zero-field or a range of R114. -/
def entryBad (e : List Byte) : Bool :=
  12288 < packetField e 0 4 || 1 < packetField e 4 4 || 4095 < packetField e 24 4 || packetField e 28 4 != 0
  || (packetField e 4 4 == 0 && packetField e 16 8 != 0)

/-- The numbers of a list rise strictly. -/
def strictlyUp : List Nat → Bool
  | a :: b :: t => decide (a < b) && strictlyUp (b :: t)
  | _ => true

/-- Read the member and peer lists of the used entries of a table, numbered from n (R114), with the lines that the lists lie in. -/
def State.readGroups (s : State) (core : Nat) (xlate : Word) (priv : Bool) : Nat → List (List Byte) → Except PageFault (State × List Group × List Nat)
  | _, [] => .ok (s, [], [])
  | n, e :: es =>
    let count := min 12288 (packetField e 0 4)
    let remote := packetField e 4 4 % 2 == 1
    if count = 0 then s.readGroups core xlate priv (n + 1) es
    else match s.readList core xlate (word (packetField e 8 8)) priv count with
      | .error f => .error f
      | .ok (s, members, ms) =>
        match s.readList core xlate (word (packetField e 16 8)) priv (if remote then packetField e 24 4 % 4096 else 0) with
        | .error f => .error f
        | .ok (s, peers, ps) =>
          match s.readGroups core xlate priv (n + 1) es with
          | .error f => .error f
          | .ok (s, gs, ls) =>
            .ok (s, { number := n, remote := remote, members := members, peers := peers, badGred := none, badGredw := none } :: gs, ms ++ ps ++ ls)

/-- The group table is rejected (R115), given its entries and the lists read. -/
def groupsBad (p : Packet) (entries : List (List Byte)) (gs : List Group) : Bool :=
  let all := gs.flatMap (·.members)
  (p.groupTable != 0 && decide (8388608 < p.blocks))
  || entries.any entryBad
  || (gs.any fun g => !strictlyUp g.members)
  || (all.any fun n => decide (p.blocks ≤ n / 512) || decide (p.gangs ≤ n % 512))
  || (all.any fun n => decide (4 < (all.filter (· == n)).length))

/-- A launch as its packet and tables were read, with the status code that rejects it, or 0 (R318). -/
structure Planned where
  packet : Packet
  address : Word
  place : Nat
  groups : List Group
  status : Nat
  /-- the lines of its group table and lists, which must not be poisoned (R278, R377) -/
  lines : List Nat
  deriving DecidableEq, Repr

/-- Read the tables of a packet and judge it (R115, R318, R351). -/
def State.plan (s : State) (core : Nat) (priv sysOk : Bool) (p : Packet) (address : Word) (place : Nat) : Except PageFault (State × Planned) :=
  let refuse := fun st => { packet := p, address := address, place := place, groups := [], status := st, lines := [] : Planned }
  if p.malformed then .ok (s, refuse 1)
  else
    let table := if p.groupTable = 0 then .ok (s, [], []) else s.readAt core p.xlate p.groupTable priv 8192
    match table with
    | .error f => .error f
    | .ok (s1, bs, pas) =>
      let entries := if p.groupTable = 0 then [] else (List.range 256).map fun k => (bs.drop (32 * k)).take 32
      match s1.readGroups core p.xlate priv 0 entries with
      | .error f => .error f
      | .ok (s2, gs, ls) =>
        .ok (s2, { (if groupsBad p entries gs then refuse 2 else if p.system && !sysOk then refuse 3
            else { packet := p, address := address, place := place, groups := gs, status := 0, lines := [] }) with
          lines := (pas.map lineOf ++ ls).dedup })

/-- The queue that holds a launch's blocks on a die, as a number: its priority, or 8 for the system queue (R321). -/
def Packet.queue (p : Packet) : Nat := if p.system then 8 else p.priority

/-- The entries of a die's block or system queue. -/
def Die.queue (d : Die) (q : Nat) : List QueueEntry := if q = 8 then d.system else SMap.get [] d.blocks q

/-- Write a die's block or system queue. -/
def Die.setQueue (d : Die) (q : Nat) (xs : List QueueEntry) : Die :=
  if q = 8 then { d with system := xs } else { d with blocks := SMap.set [] d.blocks q xs }

/-- How many launches a queue holds, and how many of them lie in overflow rings (R327, R329). -/
def State.queuedLaunches (s : State) (die q : Nat) : Nat :=
  ((s.die die).queue q).foldl (fun n e => match e with | .block _ _ => n + 1 | _ => n) 0
def State.spilledLaunches (s : State) (die q : Nat) : Nat :=
  s.rings.foldl (fun n r => if r.die = die then n + r.count kindLaunch q else n) 0

/-- A launch queue is full: a new entry is spilled (R327, R329). -/
def State.launchQueueFull (s : State) (die q : Nat) : Bool :=
  s.spilledLaunches die q != 0 || decide ((if q = 8 then Config.systemQueue else Config.blockQueue) ≤ s.queuedLaunches die q)

/-- The first block of a launch on a die of its mask (R320): its place in the mask. -/
def Packet.firstBlock (p : Packet) (die : Nat) : Nat := (p.dies.findIdx? (· == die)).getD 0

/-- The dies on which a launch has blocks. -/
def Packet.busyDies (p : Packet) : List Nat := p.dies.filter fun d => decide (p.firstBlock d < p.blocks)

/-- The first die on which a launch's spill breaches its quota (R330). -/
def State.launchBreach (s : State) (p : Planned) : Option Nat :=
  if p.status ≠ 0 then none else p.packet.busyDies.find? fun d => s.launchQueueFull d p.packet.queue && p.packet.quota == 0

/-- A die reads the packet of a launch, once (R319): where its bytes are no longer those that the issuing core read, the die acts on what it reads. A
read whose bytes are malformed gives the die no blocks. -/
def State.readPacket (s : State) (die : Nat) (l : Launch) : State :=
  let p := Packet.parse (s.openBytes l.world s.peek ((List.range 128).map fun j => l.place + j))
  let s1 := s.onLaunch l.num fun l => { l with unread := l.unread.erase die, reads := if p = l.packet then l.reads else (die, p) :: l.reads }
  if p = l.packet then s1
  else
    let keep := fun (q : List QueueEntry) => q.filter fun e => match e with | .block n _ => decide (n ≠ l.num) | _ => true
    let s2 := s1.onDie die fun d => { d with system := keep d.system, blocks := SMap.mapv [] keep d.blocks }
    if p.malformed ∨ !p.busyDies.contains die then s2
    else s2.onDie die fun d => d.setQueue p.queue (d.queue p.queue ++ [.block l.num (p.firstBlock die)])

/-- A die reads every packet that it has been sent (R319). -/
def State.readPackets (s : State) (die : Nat) : State :=
  (s.launches.filter fun l => l.unread.contains die).foldl (fun s l => s.readPacket die l) s

/-- Every die of the mask enqueues its own blocks (R320). -/
def State.distribute (s : State) (num : Nat) (p : Planned) : State :=
  p.packet.busyDies.foldl
    (fun s d =>
      let q := p.packet.queue
      let full := s.launchQueueFull d q
      let s1 := s.onDie d fun x => x.setQueue q (x.queue q ++ [.block num (p.packet.firstBlock d)])
      if full then s1.spill num d kindLaunch q (0, 0) (leBytes 8 p.address.toNat) else s1) s

/-- The completion word (R318). -/
def completionWord (status count : Nat) : Word := word (2 ^ 63 + status * 2 ^ 56 + count % 2 ^ 32)

/-- A launch is no longer known. -/
def State.forget (s : State) (num : Nat) : State :=
  { s with
    launches := s.launches.filter fun l => l.num ≠ num
    rings := s.rings.filter fun r => r.launch ≠ num
    redseqs := s.redseqs.filter fun q => q.launch ≠ num
    groupRounds := s.groupRounds.filter fun r => r.launch ≠ num
    gredws := s.gredws.filter fun r => r.launch ≠ num }

/-- The record of a fault on a completion word: an access of no lane (R269). -/
def completionRecord (l : Launch) (f : PageFault) : List Byte :=
  recordBytes f.va 0 l.num 0xFFFFFFFF 0xFFFFFFFF 0 f.cause.code (f.info % 256) 16 (asidOf l.packet.xlate) true

/-- Write a launch's completion word through its translation (R318); a fault goes to fault service. -/
def State.complete (s : State) (num : Nat) : State :=
  match s.launchOf num with
  | none => s
  | some l =>
    match s.writeVa l.packet.xlate l.packet.completion true l.world (leBytes 8 (completionWord l.status l.ended).toNat) with
    | .ok s => s.forget num
    | .error f =>
      State.onLaunch
        { s with
          faults := s.faults ++
            [{ who := .completion num, cause := f.cause, va := f.va, pc := 0, info := word f.info, access := Access.store.index,
               priv := true, xlate := l.packet.xlate, record := completionRecord l f, entry := none, transit := false, posted := none }] }
        num fun l => { l with completing := true }

/-- The number after one: 0 is skipped (R319). -/
def nextNumber (n : BitVec 32) : BitVec 32 := if n + 1 = 0 then 1 else n + 1

/-- Start a planned launch (R319): its number, and its blocks queued or its rejection reported at once. -/
def State.startLaunch (s : State) (world : Nat) (p : Planned) : State × Nat :=
  let num := s.hub.nextLaunch.toNat
  let l : Launch :=
    { num := num, packet := p.packet, world := world, groups := p.groups, ended := 0, running := [], away := 0, status := p.status,
      charged := [], areas := [], gone := [], hzn := 0, place := p.place, unread := p.packet.dies, reads := [], completing := false }
  let s1 := { s with hub := { s.hub with nextLaunch := nextNumber s.hub.nextLaunch }, launches := s.launches ++ [l] }
  (if p.status = 0 then s1.distribute num p else s1.complete num, num)

end Sys2Proof.Machine
end

