-- ==== Sys2Proof/Machine/Queues.lean ====
section
/-! DEFINITION. The conflict-batching unit and the queue windows (R122, R204, R222, R252 to R259). -/

namespace Sys2Proof.Machine

/-- A context of a die's unit (R252): cb0 to cb15. -/
def State.ctxOf (s : State) (die n : Nat) : Option CbCtx := SMap.get none s.cbs (die * 16 + n)

/-- Write a context. -/
def State.setCtx (s : State) (die n : Nat) (c : Option CbCtx) : State := { s with cbs := SMap.set none s.cbs (die * 16 + n) c }

/-- The context of the issuing gang's die, if it is open for the gang's launch. -/
def State.openCtx (s : State) (n : Nat) : Option CbCtx :=
  match s.ctxOf (dieOf s.cur.gang) n with
  | some c => if c.launch = s.cg.launch then some c else none
  | none => none

/-- Constraints done, in flight, and not yet released (R258). -/
def CbCtx.done (c : CbCtx) : Nat := (c.items.filter (·.finished)).length
def CbCtx.inFlight (c : CbCtx) : Nat := (c.items.filter fun i => i.released && !i.finished).length
def CbCtx.pendingCount (c : CbCtx) : Nat := (c.items.filter fun i => !i.released).length

/-- A context has reached its end (R256): count constraints are done. -/
def CbCtx.ended (c : CbCtx) : Bool := c.done == c.count

/-- The bodies that a body word names (R254). -/
def bodiesOf (w : Word) : List Nat :=
  [Word.field w 63 48, Word.field w 47 32, Word.field w 31 16, Word.field w 15 0].filter (· != 0xFFFF)

/-- A CBU_OVERFLOW trap (R253 to R257). -/
def State.cbuTrap (s : State) (m : Mask) (code : Nat) : TrapReq :=
  { cause := .cbuOverflow, mask := m, addr := s.freeAddr, info := word code }

/-- CBINIT (R253). -/
def State.cbinit (s : State) (o : Ops) : State :=
  s.issue 0x165 o fun L =>
    if L = 0 then .ok s
    else (s.uniform L (s.opA o)).bind fun count => (s.uniform L (s.opB o)).bind fun bodies =>
      let n := o.dst.toNat
      let die := dieOf s.cur.gang
      if count.toNat = 0 ∨ 2 ^ 32 ≤ count.toNat ∨ bodies.toNat = 0 ∨ 2 ^ 16 ≤ bodies.toNat then .error (s.illegal L 0)
      else
        let fresh : CbCtx := { launch := s.cg.launch, count := count.toNat, bodies := bodies.toNat, items := [] }
        match s.ctxOf die n with
        | some c => if c.launch = s.cg.launch ∧ c.ended then .ok (s.setCtx die n (some fresh)) else .error (s.cbuTrap L 3)
        | none => .ok (s.setCtx die n (some fresh))

/-- CBINIT (R253). -/
def execCbinit (o : Ops) (s : State) : Host.Outcome State Fault Refusal := .next (s.cbinit o)

/-- The constraint with push index i may be released (R255). -/
def CbCtx.eligible (c : CbCtx) (i : Nat) : Bool :=
  match c.items[i]? with
  | none => false
  | some it =>
    let bs := bodiesOf it.body
    !it.released && !it.spilled
    && ((List.range i).all fun j => match c.items[j]? with
        | some jt => jt.finished || !(bodiesOf jt.body).any bs.contains
        | none => true)
    && (i < 256 || match c.items[i - 256]? with | some jt => !(jt.released && !jt.finished) | none => true)

/-- The first eligible constraint. -/
def CbCtx.first (c : CbCtx) : Option Nat := (List.range c.items.length).find? c.eligible

/-- A CBPOP that waits: clock of its beginning, logical thread number, gang, lane, destination. -/
structure Popper where
  since : Nat
  block : Nat
  tid : Nat
  gang : Nat
  lane : Nat
  dst : Nat
  deriving DecidableEq, Repr

/-- One waits before another (R255): earlier clock, then lower logical thread number. -/
def Popper.before (a b : Popper) : Bool :=
  decide (a.since < b.since) || (a.since == b.since && (decide (a.block < b.block) || (a.block == b.block && decide (a.tid < b.tid))))

/-- The CBPOPs that wait at a context of a die. -/
def State.poppers (s : State) (die n launch : Nat) : List Popper :=
  s.gangs.flatMap fun g =>
    if dieOf g.key = die ∧ g.launch = launch then
      (List.range 32).filterMap fun k =>
        let t := g.lane k
        match t.wait with
        | .cbpop c dst since =>
          if c = n ∧ t.cond = .runnable then
            some { since := since, block := t.block, tid := t.tid, gang := g.key, lane := k, dst := dst }
          else none
        | _ => none
    else []

/-- The first of them. -/
def firstPopper : List Popper → Option Popper
  | [] => none
  | p :: ps => match firstPopper ps with | some q => some (if q.before p then q else p) | none => some p

/-- Deliver a value to a waiting CBPOP (R256): an acquire at die scope (R222). -/
def State.deliverPop (s : State) (p : Popper) (v : Word) : State :=
  (s.onThread p.gang p.lane fun t => (t.setD p.dst v).release).acquireAt (coreOf p.gang) 3

/-- The value that a constraint is received as (R256). -/
def popValue (i : Nat) (tag : BitVec 48) : Word := word (i % 256 * 2 ^ 48 + tag.toNat)

/-- The end value (R256). -/
def endValue : Word := word (2 ^ 63)

/-- Mark a constraint. -/
def CbCtx.mark (c : CbCtx) (i : Nat) (f : Constraint → Constraint) : CbCtx := { c with items := c.items.modify i f }

/-- THE UNIT'S RELEASES (R255, R256): eligible constraints go to waiting CBPOPs, in push order and waiting order; after the end every
waiting CBPOP receives the end value. -/
def State.cbAssign (s : State) (die n : Nat) : Nat → State
  | 0 => s
  | fuel + 1 =>
    match s.ctxOf die n with
    | none => s
    | some c =>
      match firstPopper (s.poppers die n c.launch) with
      | none => s
      | some p =>
        if c.ended then (s.deliverPop p endValue).cbAssign die n fuel
        else match c.first with
          | none => s
          | some i =>
            let tag := match c.items[i]? with | some it => it.tag | none => 0
            ((s.setCtx die n (some (c.mark i fun it => { it with released := true }))).deliverPop p (popValue i tag)).cbAssign die n fuel

/-- Run the unit until nothing more can be assigned: at most one assignment for each waiting CBPOP. -/
def State.cbRun (s : State) (die n : Nat) : State :=
  match s.ctxOf die n with
  | none => s
  | some c => s.cbAssign die n (s.poppers die n c.launch).length

/-- The release part at die scope is not complete for a lane (R222). -/
def State.dieHold (s : State) (k : Nat) : Bool := !s.releaseDone s.cur.gang k 3

/-- The pending constraints in the input queue of a die (R254). -/
def State.inputLoad (s : State) (die : Nat) : Nat :=
  (List.range 16).foldl
    (fun n i => match s.ctxOf die i with
      | some c => n + (c.items.filter fun it => !it.released && !it.spilled).length
      | none => n) 0

/-- Push one constraint (R254), spilling it where the input queue is full; none on a breach of the quota (R330). -/
def State.pushOne (s : State) (die n : Nat) (body : Word) (tag : BitVec 48) : Option State :=
  match s.ctxOf die n with
  | none => some s
  | some c =>
    let full := Config.batchQueue ≤ s.inputLoad die || s.spilledAny die kindConstraint die
    let it : Constraint := { body := body, tag := tag, released := false, finished := false, spilled := full }
    if full && s.breaches c.launch die then none
    else
      let s1 := s.setCtx die n (some { c with items := c.items ++ [it] })
      some (if full then
          s1.spill c.launch die kindConstraint die (n, c.items.length) (leBytes 8 body.toNat ++ leBytes 6 tag.toNat ++ leBytes 1 n ++ [0])
        else s1)

/-- Push the lanes of a list in turn. -/
def State.pushAll (s : State) (die n : Nat) : List (Word × BitVec 48) → Option State
  | [] => some s
  | (b, t) :: ls =>
    match s.pushOne die n b t with
    | some s => s.pushAll die n ls
    | none => none

/-- CBPUSH (R254). -/
def State.cbpush (s : State) (o : Ops) : State :=
  s.issueWhen 0x166 o s.dieHold fun L =>
    let n := o.dst.toNat
    let die := dieOf s.cur.gang
    if L = 0 then .ok s
    else match s.openCtx n with
      | none => .error (s.cbuTrap L 3)
      | some c =>
        let ls := lanes L
        let excess := maskOf fun k => ls.contains k && decide (c.count ≤ c.items.length + ls.idxOf k)
        let wrong := those L fun k => (bodiesOf (s.opA o k)).any fun b => decide (c.bodies ≤ b)
        if excess ≠ 0 then .error (s.cbuTrap excess 0)
        else if wrong ≠ 0 then .error (s.cbuTrap wrong 1)
        else match s.pushAll die n (ls.map fun k => (s.opA o k, BitVec.ofNat 48 (s.opB o k).toNat)) with
          | none => .error (s.quotaTrap L c.launch die kindConstraint)
          | some s' => .ok (s'.cbRun die n)

/-- CBPUSH (R254). -/
def execCbpush (o : Ops) (s : State) : Host.Outcome State Fault Refusal := .next (s.cbpush o)

/-- CBPOP (R255, R256). -/
def State.cbpop (s : State) (o : Ops) : State :=
  s.issueFlow 0x167 o fun L =>
    let n := o.a.toNat
    if L = 0 then .ok (s.advance o.stall.toNat o.yld)
    else match s.openCtx n with
      | none => .error (s.cbuTrap L 3)
      | some _ => .ok (((s.waitIn o L fun _ => .cbpop n o.dst.toNat s.clock).split).cbRun (dieOf s.cur.gang) n)

/-- CBPOP (R255, R256). -/
def execCbpop (o : Ops) (s : State) : Host.Outcome State Fault Refusal := .next (s.cbpop o)

/-- The constraint in flight whose slot and tag a value names (R257). -/
def CbCtx.named (c : CbCtx) (v : Word) : Option Nat :=
  (List.range c.items.length).find? fun i =>
    match c.items[i]? with
    | some it => it.released && !it.finished && i % 256 == Word.field v 55 48 && it.tag.toNat == Word.field v 47 0
    | none => false

/-- Mark done what the lanes of a list name, ascending; the lanes that match nothing. -/
def CbCtx.finish (c : CbCtx) : List (Nat × Word) → CbCtx × List Nat
  | [] => (c, [])
  | (k, v) :: ls =>
    match c.named v with
    | some i => (c.mark i fun it => { it with finished := true }).finish ls
    | none =>
      let (c', ks) := c.finish ls
      (c', k :: ks)

/-- CBDONE (R257). -/
def State.cbdone (s : State) (o : Ops) : State :=
  s.issueWhen 0x168 o s.dieHold fun L =>
    let n := o.dst.toNat
    if L = 0 then .ok s
    else match s.openCtx n with
      | none => .error (s.cbuTrap L 3)
      | some c =>
        match c.finish ((lanes L).map fun k => (k, s.opA o k)) with
        | (c', []) => .ok ((s.setCtx (dieOf s.cur.gang) n (some c')).cbRun (dieOf s.cur.gang) n)
        | (_, ks) => .error (s.cbuTrap (maskOf ks.contains) 2)

/-- CBDONE (R257). -/
def execCbdone (o : Ops) (s : State) : Host.Outcome State Fault Refusal := .next (s.cbdone o)

/-- CBSTAT (R258): on a context that is not open for the launch every selector reads 0. -/
def State.cbstatValue (s : State) (o : Ops) : Nat :=
  match s.openCtx o.a.toNat with
  | none => 0
  | some c =>
    match o.opmod.toNat with
    | 0 => c.items.length
    | 1 => c.done
    | 2 => c.inFlight
    | 3 => c.pendingCount
    | _ => 1 + bit c.ended * 2

/-- CBSTAT (R258). -/
def execCbstat (o : Ops) (s : State) : Host.Outcome State Fault Refusal :=
  .next (s.laneStep 0x169 o 0 fun _ => { val := word (s.cbstatValue o) })

/-- The number by which a ring names a queue window. -/
def windowId (key lane w : Nat) : Nat := (key * 32 + lane) * 8 + w

/-- A window of a compute lane, oldest entry first, spilled entries last (R122). -/
def State.window (s : State) (key lane w : Nat) : List Word := SMap.get [] ((s.gangAt key).lane lane).windows w

/-- Entries of a window that lie in the ring. -/
def State.windowSpilled (s : State) (key lane w : Nat) : Nat :=
  (s.ringOf (s.gangAt key).launch (dieOf key)).count kindWindow (windowId key lane w)

/-- Entries in the window itself. -/
def State.windowHeld (s : State) (key lane w : Nat) : Nat := (s.window key lane w).length - s.windowSpilled key lane w

/-- Write a window. -/
def State.setWindow (s : State) (key lane w : Nat) (xs : List Word) : State :=
  s.onThread key lane fun t => { t with windows := SMap.set [] t.windows w xs }

/-- The shadow thread of a compute lane has exited (R122), or there is none. -/
def State.shadowGone (s : State) (key lane : Nat) : Bool :=
  match (s.gangAt key).shadow with
  | some sh => !s.resident sh || ((s.gangAt sh).lane lane).cond == .exited
  | none => true

/-- Append to a window (R122, R259), spilling where it is full; none on a breach of the quota (R330). -/
def State.pushWindow (s : State) (key lane w : Nat) (v : Word) : Option State :=
  let launch := (s.gangAt key).launch
  let die := dieOf key
  let full := Config.windowEntries ≤ s.windowHeld key lane w || s.windowSpilled key lane w != 0
  if full && s.breaches launch die then none
  else
    let s1 := s.setWindow key lane w (s.window key lane w ++ [v])
    some (if full then s1.spill launch die kindWindow (windowId key lane w) (0, 0) (leBytes 8 v.toNat) else s1)

/-- Push the lanes of a list. -/
def State.pushWindows (s : State) (key w : Nat) : List (Nat × Word) → Option State
  | [] => some s
  | (k, v) :: ls =>
    match s.pushWindow key k w v with
    | some s => s.pushWindows key w ls
    | none => none

/-- QPUSH (R259). -/
def State.qpush (s : State) (o : Ops) : State :=
  s.issue 0x16A o fun L =>
    if L = 0 then .ok s
    else match s.cg.shadowOf with
      | none => .error (s.illegal L 0)
      | some key =>
        match s.pushWindows key o.dst.toNat ((lanes L).map fun k => (k, s.opA o k)) with
        | some s' => .ok s'
        | none => .error (s.quotaTrap L s.cg.launch (dieOf key) kindWindow)

/-- QPUSH (R259). -/
def execQpush (o : Ops) (s : State) : Host.Outcome State Fault Refusal := .next (s.qpush o)

/-- A lane waits for an entry of its window (R122, R259). -/
def State.qpopHold (s : State) (o : Ops) (k : Nat) : Bool :=
  let key := s.cur.gang
  s.cg.shadowOf.isNone && s.windowHeld key k o.a.toNat == 0 && !((s.window key k o.a.toNat).isEmpty && s.shadowGone key k)

/-- QPOP (R259). -/
def State.qpop (s : State) (o : Ops) : State :=
  s.issueWhen 0x16B o (s.qpopHold o) fun L =>
    if L = 0 then .ok s
    else if s.cg.shadowOf.isSome then .error (s.illegal L 0)
    else
      let w := o.a.toNat
      .ok (s.onLanes s.cur.gang L fun k t =>
        match s.window s.cur.gang k w with
        | v :: vs => ({ t with windows := SMap.set [] t.windows w vs }.setD o.dst.toNat v).setP o.b.toNat false
        | [] => t.setP o.b.toNat true)

/-- QPOP (R259). -/
def execQpop (o : Ops) (s : State) : Host.Outcome State Fault Refusal := .next (s.qpop o)

/-- QSTAT (R259): either side sees the compute lane's window. -/
def State.qstatValue (s : State) (o : Ops) (k : Nat) : Word :=
  let key := s.cg.shadowOf.getD s.cur.gang
  let w := o.a.toNat
  word (min 8 (s.windowHeld key k w) + s.windowSpilled key k w % 2 ^ 32 * 2 ^ 4 + bit (s.shadowGone key k) * 2 ^ 63)

/-- QSTAT (R259). -/
def execQstat (o : Ops) (s : State) : Host.Outcome State Fault Refusal :=
  .next (s.laneStep 0x16C o 0 fun k => { val := s.qstatValue o k })

end Sys2Proof.Machine
end

