-- ==== Sys2Proof/Machine/Observe.lean ====
section
/-! DEFINITION. Snapshots: what each block latches, and the trigger (R354, R386). -/

namespace Sys2Proof.Machine

/-- A pre-emption request stands on a die (R362 pending, R326). -/
def State.requestStands (s : State) (die : Nat) : Bool := s.gangs.any fun g => dieOf g.key == die && g.request.isSome

/-- The condition of a thread as a number, in the order of R103; the code with which a snapshot shows it is the device's own. -/
def Cond.index : Cond → Nat
  | .runnable => 0 | .held _ => 1 | .stopped _ => 2 | .exited => 3

/-- What a partition latches of one gang: its threads in lane order, then its masks (R364, R386). -/
def Gang.latched (g : Gang) : List Word :=
  ((lanes g.live).flatMap fun k =>
    let t := g.lane k
    [t.pc, t.meet, Config.condCode t.cond.index, word t.launch, word t.block, word t.tid])
  ++ ((List.range 12).map fun n => word (g.getM n).toNat) ++ (List.range 12).map fun n => word (g.getA n).toNat

/-- The resident gangs of a partition, in slot order. -/
def State.gangsOf (s : State) (part : Nat) : List Gang :=
  (List.range Config.slotsPerPart).filterMap fun j => s.gangs.find? fun g => g.key == 8 * part + j

/-- Entries of one kind and queue of a die that lie in overflow rings (R329). -/
def State.ringCount (s : State) (die kind q : Nat) : Nat := s.rings.foldl (fun n r => if r.die = die then n + r.count kind q else n) 0

/-- The lengths of a die's queues (R327): block queues by priority, system queue, phase queues by priority, batching input, each without what lies in an
overflow ring. -/
def State.queueLengths (s : State) (die : Nat) : List Nat :=
  ((List.range 9).map fun q => s.queuedLaunches die q - s.spilledLaunches die q)
  ++ ((List.range 8).map fun q => (SMap.get [] (s.die die).phases q).length - s.ringCount die kindPhase q)
  ++ [s.inputLoad die]

/-- The entries of a core's operand logs: logged accesses, and transfers in fault service (R127, R270). -/
def State.logOccupancy (s : State) (core : Nat) : Nat :=
  (s.oplog.filter fun e => e.partition / 8 == core).length
  + (s.faults.filter fun f => f.entry.isSome && match f.who with | .insn g _ _ => coreOf g == core | _ => false).length

/-- The five values of CBSTAT for a context that is open (R258). -/
def CbCtx.stats (c : CbCtx) : List Nat := [c.items.length, c.done, c.inFlight, c.pendingCount, 1 + bit c.ended * 2]

/-- The clusters' service gangs: requests that wait, and contributions in the reorder buffer (R242, R247). -/
def State.serviceOccupancy (s : State) (cluster : Nat) : List Nat :=
  [(s.atoms.filter fun a => ownerOf a.pa == cluster && a.applied.isNone && !a.spilled).length,
   s.redseqs.foldl (fun n q => if ownerOf q.pa = cluster then n + (q.held.length - q.spilled.length) else n) 0]

/-- Unexpired leases on lines of an L2 slice (R213 state L). -/
def State.leasedLines (s : State) (slice : Nat) : Nat :=
  ((s.leases.filter fun l => ownerOf (l.line * 128) == slice && decide (s.gtime < l.expiry)).map (·.line)).dedup.length

/-- What a block latches (R386), by the block kinds of view_sel (R364). The misses of an L2 slice are no state of this model: a free value. -/
def State.latch (s : State) (kind unit : Nat) : List Word :=
  match kind with
  | 1 => [s.free (1024 + unit), word (s.leasedLines unit)]
  | 2 => (s.serviceOccupancy unit).map word
  | 6 => (s.gangsOf unit).flatMap Gang.latched ++ [word (SMap.get 0 s.issues unit)]
  | 7 =>
    [word (s.copies.filter fun c => c.core == unit).length,
     word (s.arrays.foldl (fun n a => if a.1 / 8 = unit then n + a.2.queue.length else n) 0),
     word (s.logOccupancy unit)]
  | 8 => (List.range 16).flatMap fun n => match s.ctxOf unit n with | some c => c.stats.map word | none => []
  | 9 => [s.enUsed unit, word (s.die unit).clockMHz] ++ (s.queueLengths unit).map word
  | 10 => [s.hub.fqHead, word s.hub.fqTail, word (s.migrations.filter fun m => m.holdUntil.isNone).length]
  | _ => []

/-- The blocks that latch: their kinds and how many units of each the package has. -/
def snapBlocks : List (Nat × Nat) :=
  [(1, Config.clusters), (2, Config.clusters), (6, Config.partitions), (7, Config.cores), (8, Config.dies), (9, Config.dies), (10, 1)]

/-- Every block latches. -/
def State.latchAll (s : State) : List Snap :=
  snapBlocks.flatMap fun b =>
    (List.range b.2).map fun u => { kind := b.1, unit := u, gtime := word s.gtime, values := s.latch b.1 u, world := if b.1 = 6 then s.worldOf u else 0 }

/-- THE SNAPSHOT TRIGGER (R354): when armed, every block latches, armed is cleared and count goes up. -/
def State.fireSnapshot (s : State) : State :=
  if s.snapArmed then { s with snaps := s.latchAll, snapArmed := false, snapCount := s.snapCount + 1 } else s

end Sys2Proof.Machine
end

