-- ==== Sys2Proof/Machine/Replay.lean ====
section
/-! DEFINITION. The operand log after its fault has been answered: replay, release of an entry (R270 to R272, R346, R360). -/

namespace Sys2Proof.Machine

/-- The entry of a partition's operand log with a number. -/
def State.logEntry (s : State) (part n : Nat) : Option OpLogEntry := s.oplog.find? fun e => e.partition == part && e.entry == n

/-- An entry leaves the log: its destinations and return slots are no longer pending, and no thread's OPLOG names it (R270, R360). -/
def State.freeLogged (s : State) (e : OpLogEntry) : State :=
  let (acc, dst) := memoryMeta e.insn
  let s1 := { s with oplog := s.oplog.filter fun x => !(x.partition == e.partition && x.entry == e.entry) }
  let s2 := (lanes e.lanes).foldl
    (fun s k => dst.foldl (fun s r => if e.late.getLsbD k && isFrameReg r then s else s.unpend e.gang k r) s) s1
  s2.onLanes e.gang (BitVec.allOnes 32) fun k t =>
    let t := if e.lanes.getLsbD k && acc == .atomic then { t with slots := t.slots - 1 } else t
    if t.oplogValid && t.oplogEntry.toNat == e.entry then { t with oplogValid := false, oplogEntry := 0 } else t

/-- The entry as a memory instruction to perform again. -/
def OpLogEntry.ctx (e : OpLogEntry) : MemCtx :=
  { key := e.gang, pc := e.pc, insn := e.insn, raw := e.raw, priv := e.priv, ops := e.ops, entry := some e.entry, others := e.others }

/-- After a replay, the results for lanes that entered a handler while the entry stood belong to their trap frames, unless it is the entry that ERET
replays (R333, R346); an entry that faulted again remembers it. -/
def State.replayLate (s : State) (e : OpLogEntry) (own : Nat → Bool) (loads atoms : Nat) : State :=
  (lanes (e.lanes &&& e.late)).foldl
    (fun s k =>
      if own k then s
      else
        let s1 := s.divert e.gang k loads atoms
        let s2 := ((memoryMeta e.insn).2.filter isFrameReg).foldl (fun s r => s.unpend e.gang k r) s1
        { s2 with
          oplog := s2.oplog.map fun x =>
            if x.partition = e.partition ∧ x.entry = e.entry ∧ x.lanes.getLsbD k then { x with late := x.late ||| laneMask k } else x })
    s

/-- A sampled instruction is replayed (R387). -/
def State.sampleReplayed (s : State) (e : OpLogEntry) : State :=
  { s with
    samples := s.samples.map fun x =>
      if x.gang = e.gang ∧ x.pc = e.pc ∧ x.lanes &&& e.lanes ≠ 0 then { x with flags := x.flags ||| 2 } else x }

/-- REPLAY (R270): the instruction is performed again for its logged lanes from its logged operands, and the entry is freed; lanes that fault
again are logged again. A trap of the replay is replay-precise, with the entry held (R272). While a queue that it needs is full, it waits. -/
def State.replay (s : State) (e : OpLogEntry) : Option State :=
  let s1 := (s.sampleReplayed e).freeLogged e
  let own := fun k => let t := (s.gangAt e.gang).lane k; t.oplogValid && t.oplogEntry.toNat == e.entry
  match memoryOp e.insn s1 e.ctx with
  | none => none
  | some (.error t) => some (s.trapAt e.gang t e.pc (fun k => ((s.gangAt e.gang).lane k).pc) (some e.entry))
  | some (.ok (s2, bad)) =>
    some ((s2.logFaults e.ctx e.entry (memoryMeta e.insn).1 (memoryMeta e.insn).2 bad).replayLate e own s.loads.length s.atoms.length)

/-- The entries that the OPLOGs of some lanes of a gang hold (R346, R360). -/
def State.heldEntries (s : State) (key : Nat) (m : Mask) : List OpLogEntry :=
  s.oplog.filter fun e =>
    e.gang == key && ((lanes m).any fun k =>
      let t := (s.gangAt key).lane k
      t.oplogValid && t.oplogEntry.toNat == e.entry)

/-- Replay a list of entries; none while one of them waits. -/
def State.replayAll (s : State) : List OpLogEntry → Option State
  | [] => some s
  | e :: es => match s.replay e with
    | none => none
    | some s => s.replayAll es

/-- A write of 1 to OPLOG.free by a thread (R272, R360): the destination keeps its old value. -/
def State.freeHeld (s : State) (key k : Nat) : State := (s.heldEntries key (laneMask k)).foldl State.freeLogged s

end Sys2Proof.Machine
end

