-- ==== Sys2Proof/Machine/Fetch.lean ====
section
/-! DEFINITION. Fetching an instruction: one translation, one 32-byte fetch block taken as a snapshot and kept until it is discarded, and
the decoding of the parcel at the pc (R17 to R20, R43, R44, R225, R226). -/

namespace Sys2Proof.Machine

/-- What a fetch finds: an instruction with its length and its first 64 bits, or the trap of the first cause of R44. -/
inductive Fetched where
  | instr (i : Instr) (len : Nat) (raw : Word)
  | trap (r : TrapReq)
  deriving DecidableEq, Repr

/-- Bits [63:0] of an instruction as fetched: a C32 parcel zero-extended, or two parcels (R43). -/
def rawOf (bytes : List Byte) : Word :=
  let p := leNat (bytes.take 4)
  if p % 4 = 0 then word p else word (leNat (bytes.take 8))

/-- A byte as a fetch takes it: as a core's L1 shows it (R201), but a store some bytes of which have been performed shows all of them (R225). -/
def State.fetchByte (s : State) (core pa : Nat) : Byte :=
  s.stores.foldl (fun b t => if t.begun && !t.bank && decide (t.pa ≤ pa) && decide (pa < t.pa + t.bytes.length) then t.bytes.getD (pa - t.pa) 0 else b)
    (s.view core pa)

/-- The 32 bytes of a fetch block as one snapshot of this moment (R225). -/
def State.freshBlock (s : State) (core pa : Nat) : List Byte := (List.range 32).map fun n => s.fetchByte core (pa / 32 * 32 + n)

/-- The copies of the fetch block that holds a physical address in a core's instruction cache and fetch buffers, for a world's gangs, the latest
first. -/
def State.keptBlocks (s : State) (core world pa : Nat) : List FetchBlock :=
  s.icache.filter fun b => b.core == core && b.world == world && b.pa == pa / 32 * 32

/-- The bytes of the fetch block that holds a physical address, as a core has them: kept from an earlier fetch, or read now. Of several
copies any may be executed (R225, R226); which, the manual leaves open (assumption 2). -/
def State.blockAt (s : State) (core world pa : Nat) : List Byte :=
  match s.keptBlocks core world pa with
  | [] => s.freshBlock core pa
  | [b] => b.bytes
  | b :: bs => ((b :: bs).getD ((s.free 60500).toNat % (bs.length + 1)) b).bytes

/-- A core's instruction cache takes a fetch block in; where it is full, the block that it has kept longest leaves (R1). -/
def State.takeBlock (s : State) (core world asid pa : Nat) : State :=
  let own := s.icache.filter fun b => b.core == core
  let rest := if own.length < Config.fetchBlocks then s.icache else
    match own.getLast? with
    | some o => s.icache.filter (· ≠ o)
    | none => s.icache
  { s with icache := { core := core, world := world, asid := asid, pa := pa / 32 * 32, bytes := s.freshBlock core pa } :: rest }

/-- Keep a fetch block in a core's instruction cache. -/
def State.keepBlock (s : State) (core world asid pa : Nat) : State :=
  if s.keptBlocks core world pa = [] then s.takeBlock core world asid pa else s

/-- The fetch unit reads a block again that the core has kept: the new copy stands beside the old one until they are discarded (R226). -/
def State.refetch (s : State) (core world asid pa : Nat) : State :=
  if (s.keptBlocks core world pa).any fun b => b.bytes == s.freshBlock core pa then s else s.takeBlock core world asid pa

/-- Decode the parcel at a pc of a block (R17, R19, R43). -/
def decodeBlock (m : Mask) (pc : Word) (block : List Byte) : Fetched :=
  let off := pc.toNat % 32
  let bytes := block.drop off
  let first := word (leNat (bytes.take 4))
  let last := word (pc.toNat / 32 * 32 + 31)
  match decodeAt off bytes with
  | .ok (i, n) => .instr i n (rawOf bytes)
  | .error .illegalLength => .trap { cause := .illegalLength, mask := m, addr := last, info := first }
  | .error .fetchBoundary => .trap { cause := .fetchBoundary, mask := m, addr := last, info := first }
  | .error _ => .trap { cause := .illegalInsn, mask := m, addr := 0, info := rawOf bytes }

/-- The fetch block of a pc by its physical address, and what stands in it. -/
def State.fetchAt (s : State) (key : Nat) (m : Mask) (pc : Word) (pa : Nat) : State × Fetched :=
  let g := s.gangAt key
  if s.keptBlocks (coreOf key) g.world pa = [] ∧ s.poisoned g.world pa then
    (s.logReads g.world (requesterOf (partOf key)) [lineOf pa],
      .trap { cause := .poison, mask := m, addr := pc, info := s.freeInfo })
  else (s.keepBlock (coreOf key) g.world (asidOf g.xlate) pa, decodeBlock m pc (s.blockAt (coreOf key) g.world pa))

/-- Where a fetch for the lanes of a bundle at a pc finds its block (R44 steps 1 to 3): one translation of the pc, or the leaf that a thread carried for
its first fetch after a crossing (R301). A pc that is not a multiple of 4 is assumption 12. -/
def State.fetchPlace (s : State) (key : Nat) (m : Mask) (pc : Word) (priv : Bool) : Except TrapReq (State × Nat) :=
  let walked : Except TrapReq (State × Nat) :=
    match s.translate (coreOf key) (s.gangAt key).xlate pc .fetch priv with
    | .error f => .error { cause := f.cause, mask := m, addr := f.va, info := word f.info }
    | .ok (s', pa, _) => .ok (s', pa)
  if pc.toNat % 4 ≠ 0 then .error { cause := .misaligned, mask := m, addr := pc, info := s.freeInfo }
  else match (s.gangAt key).firstFetch with
    | some (at', pa) => if at' = pc then .ok (s.onGang key fun g => { g with firstFetch := none }, pa) else walked
    | none => walked

/-- The lanes of a bundle whose fetch is decided first (R266, R268): a page gives itself to privileged or to user code, so in a bundle of both the
lanes that it refuses take their trap, PF_PRIV before another cause, and the others fetch when they issue again. -/
def State.fetchLanes (s : State) (key : Nat) (m : Mask) (pc : Word) : Mask :=
  let pm := those m fun k => ((s.gangAt key).lane k).priv
  let um := m &&& ~~~pm
  if pm = 0 ∨ um = 0 then m
  else match s.fetchPlace key pm pc true, s.fetchPlace key um pc false with
    | .error a, .error b => if a.cause = b.cause then m else if a.cause = .pfPriv then pm else um
    | .error _, _ => pm
    | _, _ => um

/-- FETCHING for the lanes of a bundle at a pc (R44 steps 1 to 4): the state after the translation and the fill, and what was found. -/
def State.fetch (s : State) (key : Nat) (m : Mask) (pc : Word) (priv : Bool) : State × Fetched :=
  match s.fetchPlace key m pc priv with
  | .error r => (s, .trap r)
  | .ok (s', pa) => s'.fetchAt key m pc pa

end Sys2Proof.Machine
end

