-- ==== Sys2Proof/Machine/MemEvents.lean ====
section
/-! DEFINITION. What the memory system does between instructions: replies to loads, stores at their homes, service gangs, sequences, group
reductions (R202, R205 to R208, R219, R220, R242 to R251). A step that names nothing pending, or something that must still wait, leaves the
state as it is. -/

namespace Sys2Proof.Machine

/-- A load must wait for an earlier load of its thread of the same line, or of the same bytes of scratch (R198). -/
def loadBlocked (ls : List PLoad) (i : Nat) (l : PLoad) : Bool :=
  (ls.take i).any fun e => e.gang == l.gang && e.lane == l.lane && (e.lines.any l.lines.contains || e.spots.any l.spots.contains)

/-- Loads that a core issued later are no longer served under an older lease of a line, once one has been served at the home or from owned words (R198). -/
def PLoad.forget (core : Nat) (lines : List Nat) (l : PLoad) : PLoad :=
  if l.core = core ∧ l.lines.any lines.contains then { l with lease := none } else l

/-- How a load can be served: under a lease or from owned words only where its L1 had one, or them (R206, R207). -/
def PLoad.serve (l : PLoad) (how : Served) : Served :=
  match how with
  | .lease => if l.lease.isSome then .lease else .home
  | .owned => if l.owned then .owned else .home
  | .home => .home

/-- The value with which a load is served. -/
def PLoad.value (l : PLoad) (how : Served) : Word :=
  match how with
  | .lease => l.lease.getD l.home
  | _ => l.home

/-- A load's data returns to its register (R206, R231); served at the home, its lines are leased. A scratch load reads its bank now (R200). -/
def State.loadReply (s : State) (i : Nat) (how : Served) : State :=
  match s.loads[i]? with
  | none => s
  | some l =>
    if loadBlocked s.loads i l then s
    else
      let how := l.serve how
      let s1 := { s with loads := (s.loads.eraseIdx i).map fun m => if how = Served.lease then m else m.forget l.core l.lines }
      if l.spots != [] then s1.deliver l (s.bankValue l)
      else
      let s2 := if how = .home then l.lines.foldl (fun s line => s.grantLease l.core line) s1 else s1
      s2.deliver l (l.value how)

/-- GLOBAL_LOAD_REPLY (R206). -/
def execGlobalLoadReply (load : Nat) (how : Served) (s : State) : Host.Outcome State Fault Refusal := .next (s.loadReply load how)

/-- A store must wait: for an earlier store that goes first, for an earlier atomic of its thread on its bytes (R198). -/
def State.storeBlocked (s : State) (i : Nat) (st : PStore) : Bool :=
  ((s.stores.take i).any fun e => e.first st)
  || s.atoms.any fun a => a.gang == st.gang && a.lane == st.lane && a.applied.isNone && decide (a.issued < st.issued)
      && meets a.pa (accWidth a.ty) st.pa st.bytes.length

/-- Two stores are bytes of one store that is not naturally aligned (R194). -/
def PStore.siblings (a b : PStore) : Bool := a.piece && b.piece && a.gang == b.gang && a.lane == b.lane && a.issued == b.issued

/-- The write completion time of a store at the home of its line (R205): the end of every lease, and not before its perform time. -/
def State.doneTime (before after : State) (line : Nat) : Nat := max (before.leaseEnd line) after.gtime

/-- A store takes its place at its home, and its write completion time enters its thread's hzn (R205). A scratch store reaches its bank (R200).
A store to another device's memory is performed there first; its completion returns in a later step (R211). -/
def State.performStore (s : State) (i : Nat) : State :=
  match s.stores[i]? with
  | none => s
  | some st =>
    let rest := (s.stores.eraseIdx i).map fun t => if t.siblings st then { t with begun := true } else t
    if st.accepted then
      (State.onThread { s with stores := s.stores.eraseIdx i } st.gang st.lane fun t => t.horizon s.gtime).performed st.core st.issued s.gtime
    else if s.storeBlocked i st then s
    else if st.bank then State.performBank { s with stores := rest } st
    else if s.remoteAt st.pa then
      State.homeStore { s with stores := s.stores.set i { st with accepted := true } } (some st.core) (requesterOf (partOf st.gang)) st.world
        st.pa st.bytes
    else
      let s1 := State.homeStore { s with stores := rest } (some st.core) (requesterOf (partOf st.gang)) st.world st.pa st.bytes
      let w := State.doneTime s s1 (lineOf st.pa)
      (s1.onThread st.gang st.lane fun t => t.horizon w).performed st.core st.issued w

/-- A request must wait: it lies in a ring; an earlier request of its gang on the word (R202), or a store of its core that other agents of
the core already see (R201), comes first. DESIGN CHOICE (assumption 76): requests of one gang on one word from separate issues are applied in the order
of their issues. -/
def State.atomBlocked (s : State) (i : Nat) (r : AtomReq) : Bool :=
  r.spilled || r.applied.isSome
  || ((s.atoms.take i).any fun e => e.gang == r.gang && e.applied.isNone && e.pa == r.pa)
  || s.stores.any fun t => t.core == r.core && decide (t.issued ≤ r.issued) && meets t.pa t.bytes.length r.pa (accWidth r.ty)

/-- The service gang applies a request (R219, R244, R246); a compare that fails writes nothing, nor does a request on a line that gives its world an error
response, which its home logs (R377, R390). The write completion time of a request to another device's memory is the package time at which its
completion returns (R211). -/
def State.applyAtom (s : State) (i : Nat) : State :=
  match s.atoms[i]? with
  | none => s
  | some r =>
    if s.atomBlocked i r then s
    else
      let n := accWidth r.ty
      let remote := s.remoteAt r.pa
      let refused := !remote && (s.readError r.world (lineOf r.pa)).isSome
      let old := word (leNat (s.openList r.world r.pa n))
      let fails := refused || match r.op with | .cas c => old.toNat % 2 ^ r.ty.width != c.toNat % 2 ^ r.ty.width | _ => false
      let s1 := if refused then s.logReads r.world (requesterOf (partOf r.gang)) [lineOf r.pa]
        else if fails then s
        else s.homeStore none (requesterOf (partOf r.gang)) r.world r.pa (leBytes n (r.op.apply r.ty old r.value).toNat)
      let w := if remote then 0 else if fails then s.gtime else State.doneTime s s1 (lineOf r.pa)
      let s2 := (s1.giveUpLeases r.core (lineOf r.pa)).performed r.core r.issued w
      match r.dst with
      | some _ => { s2 with atoms := s2.atoms.set i { r with applied := some (old, word w) } }
      | none => { s2 with atoms := s2.atoms.eraseIdx i, acks := s2.acks ++ [(r.gang, r.lane, w)] }

/-- ATOMIC_APPLY (R244, R246). -/
def execAtomicApply (request : Nat) (s : State) : Host.Outcome State Fault Refusal := .next (s.applyAtom request)

/-- A reply writes the old value into the return register and frees the slot; w enters hzn, and the acquire part at the atomic's scope
follows (R219, R243, R244). -/
def State.replyAtom (s : State) (i : Nat) : State :=
  match s.atoms[i]? with
  | none => s
  | some r =>
    match r.applied, r.dst with
    | some (old, w), some n =>
      let w := if s.remoteAt r.pa then s.gtime else momentOf s.gtime w
      let s0 : State := { s with atoms := s.atoms.eraseIdx i }
      let s1 := if r.framed then s0.frameResult r.gang r.lane n fun _ => loadExt r.ty old
        else s0.onThread r.gang r.lane fun t => (t.setD n (loadExt r.ty old)).unpend (.d n)
      (s1.onThread r.gang r.lane fun t =>
        { (t.horizon w).sync s.clock (s.coreHorizon r.core) with slots := t.slots - 1 }).acquireAt r.core r.scope
    | _, _ => s

/-- ATOMIC_REPLY (R243). -/
def execAtomicReply (request : Nat) (s : State) : Host.Outcome State Fault Refusal := .next (s.replyAtom request)

/-- REDUCTION_ACKNOWLEDGEMENT (R219, R246); from another device's memory its completion time is that of its return, for which the entry holds 0 (R211). -/
def State.ackReduction (s : State) (i : Nat) : State :=
  match s.acks[i]? with
  | none => s
  | some (key, k, w) => State.onThread { s with acks := s.acks.eraseIdx i } key k fun t => t.horizon (if w = 0 then s.gtime else w)

/-- REDUCTION_ACKNOWLEDGEMENT (R219). -/
def execReductionAcknowledgement (request : Nat) (s : State) : Host.Outcome State Fault Refusal := .next (s.ackReduction request)

/-- A queue entry of a launch. -/
def QueueEntry.launch : QueueEntry → Nat
  | .block l _ => l
  | .phase l _ _ _ _ _ _ _ => l
  | .saved l _ => l

/-- Every entry of a die's queues. -/
def Die.entries (d : Die) : List QueueEntry := d.system ++ d.blocks.flatMap (·.2) ++ d.phases.flatMap (·.2)

/-- A launch has no thread left: none resident, none queued, none saved, none on a host core or on its way (R247, R318). -/
def State.noThreads (s : State) (launch : Nat) : Bool :=
  !(s.gangs.any fun g => g.launch == launch) && !(s.saved.any fun v => v.launch == launch)
  && !(s.crossings.any fun c => c.launch == launch)
  && ((List.range Config.dies).all fun d => (s.die d).entries.all fun e => e.launch != launch)
  && match s.launchOf launch with
    | some l => l.away == 0 && l.running.isEmpty
    | none => true

/-- Contributions that are held in the buffer itself, lowest index first. -/
def RedSeq.ready (q : RedSeq) : List (Nat × Option Word) := q.held.filter fun e => !q.spilled.contains e.1

/-- The index that a sequence applies next: the next in order, or past a gap once its launch has no thread left and nothing of it lies in
the ring (R247). -/
def State.seqNext (s : State) (q : RedSeq) : Option (Nat × Word × Bool) :=
  match q.ready with
  | [] => none
  | (i, v) :: _ =>
    if i = q.next then some (i, v.getD 0, false)
    else if q.spilled.isEmpty ∧ s.noThreads q.launch then some (i, v.getD 0, true)
    else none

/-- The owner applies the next contribution of a sequence; a gap is logged (R220, R247). While the page of its word moves it waits (R275). One on a line
that gives its launch's world an error response is dropped and logged (R390). -/
def State.applySeq (s : State) (i : Nat) : State :=
  match s.redseqs[i]? with
  | none => s
  | some q =>
    match if s.inMove (lineOf q.pa) then none else s.seqNext q with
    | none => s
    | some (j, v, gap) =>
      let n := accWidth q.ty
      let world := match s.launchOf q.launch with | some l => l.world | none => 0
      let refused := !s.remoteAt q.pa && (s.readError world (lineOf q.pa)).isSome
      let old := word (leNat (s.openList world q.pa n))
      let s1 := if gap ∧ !s.remoteAt q.pa then s.violate (.service (ownerOf q.pa)) (word q.pa) 0 0x07 world (s.tag (lineOf q.pa)) else s
      let s2 := if refused then s1.logReads world 0 [lineOf q.pa] else s1.homeStore none 0 world q.pa (leBytes n (AtomOp.add.apply q.ty old v).toNat)
      s2.setSeq { q with next := j + 1, held := SMap.set none q.held j none }

/-- REDSEQ_APPLY (R247). -/
def execRedseqApply (sequence : Nat) (s : State) : Host.Outcome State Fault Refusal := .next (s.applySeq sequence)

/-- The bytes of a chunk of a group reduction. -/
def gredChunk : Nat := 4096

/-- The elements of a member's chunk (R250): an element of which a byte changed since the member's issue is undefined. -/
def State.gredElems (s : State) (r : Gred) (p : GredPart) : Except PageFault (State × List Nat × Option Word) :=
  let va := p.src + word (gredChunk * r.next)
  match s.translateRange (coreOf p.gang) p.xlate va .load p.priv gredChunk with
  | .error f => .error f
  | .ok (s, pas) =>
    let w := accWidth r.ty
    let changed := fun pa => s.dirty.any fun d => meets d.1 d.2.1 pa 1 && decide (p.issued ≤ d.2.2)
    let el := fun j =>
      let own := (pas.drop (w * j)).take w
      if own.any changed then (s.free j).toNat % 2 ^ r.ty.width else leNat (own.map (s.view (coreOf p.gang)))
    let bad := (List.range pas.length).find? fun j => s.poisoned p.world (pas.getD j 0)
    .ok ((s.logReads p.world (requesterOf (partOf p.gang)) ((pas.map lineOf).dedup)).fresh, (List.range (gredChunk / w)).map el, bad.map fun j => va + word j)

/-- What a group reduction meets in a member: a fault, or poison (R77). -/
inductive GredStop where
  | fault (p : GredPart) (f : PageFault) (acc : Access)
  | poison (s : State) (key : Nat) (va : Word)

/-- The chunks of every member that takes part. -/
def State.gredSources (s : State) (r : Gred) : List GredPart → Except GredStop (State × List (Nat × List Nat))
  | [] => .ok (s, [])
  | p :: ps =>
    match s.gredElems r p with
    | .error f => .error (.fault p f .load)
    | .ok (s, _, some va) => .error (.poison s p.gang va)
    | .ok (s, els, none) => (s.gredSources r ps).map fun q => (q.1, (p.num, els) :: q.2)

/-- An element of a peer's words. -/
def peerElem (t : Ty) (ws : List Word) (j : Nat) : Nat := sub (ws.getD (j / t.count) 0) t.width (j % t.count)

/-- The results of a chunk (R248): the members' tree, then the devices'. -/
def Gred.results (r : Gred) (e : Group) (src : List (Nat × List Nat)) : List Nat :=
  (List.range (gredChunk / accWidth r.ty)).map fun j =>
    let own := treeOf r.ty r.op (e.members.map fun num =>
      match src.find? fun x => x.1 == num with
      | some x => x.2.getD j 0
      | none => identity r.ty r.op)
    if e.remote then
      treeOf r.ty r.op ((List.range e.peers.length).map fun k =>
        if k = e.rank then own
        else if r.failed.contains k then identity r.ty r.op
        else peerElem r.ty ((SMap.get [] r.peers k).drop (gredChunk / 8 * r.next)) j)
    else own

/-- Every member has contributed or is gone (R117, R250). -/
def State.gredMembers (s : State) (r : Gred) (e : Group) : Bool :=
  e.members.all fun num =>
    (r.parts.any fun p => p.num == num) ||
      match s.gangNamed r.launch num with
      | some g => g.live == 0
      | none => s.memberDone r.launch num []

/-- Every peer that has not failed has delivered its next chunk (R250, R251). -/
def Gred.peersReady (r : Gred) (e : Group) : Bool :=
  !e.remote || r.count == 0 || (List.range e.peers.length).all fun k =>
    k == e.rank || r.failed.contains k || decide (gredChunk / 8 * (r.next + 1) ≤ (SMap.get [] r.peers k).length)

/-- Write bytes of a member's destination or status word. An error response fails the reduction (R390). -/
def State.gredWrite (s : State) (p : GredPart) (va : Word) (bs : List Byte) : Except GredStop (State × Nat) :=
  match s.translateRange (coreOf p.gang) p.xlate va .store p.priv bs.length with
  | .error f => .error (.fault p f .store)
  | .ok (s, pas) =>
    let s1 := s.landGlobal p.gang p.world pas (bs.map fun b => { val := b, valid := true, poison := false })
    match s.writeRefused p.world pas with
    | some pa => .error (.poison s1 p.gang (va + word (pas.findIdx (· == pa))))
    | none => .ok (s1, pas.foldl (fun w pa => max w (s.leaseEnd (lineOf pa))) s1.gtime)

/-- Write one chunk to every member (R250). -/
def State.gredDeliver (s : State) (r : Gred) (bs : List Byte) : List GredPart → Except GredStop (State × List GredPart)
  | [] => .ok (s, [])
  | p :: ps =>
    match s.gredWrite p (p.dst + word (gredChunk * r.next)) bs with
    | .error e => .error e
    | .ok (s, w) => (s.gredDeliver r bs ps).map fun q => (q.1, { p with w := max p.w w } :: q.2)

/-- The status word (R251). -/
def Gred.statusWord (r : Gred) : Word :=
  match r.failed with
  | [] => 0
  | k :: ks => word (2 ^ 63 + ks.foldl min k * 2 ^ 32 + r.failedAt)

/-- The status words are written, where there are any (R251). -/
def State.gredStatus (s : State) (r : Gred) : List GredPart → Except GredStop State
  | [] => .ok s
  | p :: ps =>
    if p.status = 0 then s.gredStatus r ps
    else match s.gredWrite p p.status (leBytes 8 r.statusWord.toNat) with
      | .error e => .error e
      | .ok (s, _) => s.gredStatus r ps

/-- The tokens receive the count, and delivery is an acquire (R76, R221, R250). -/
def State.gredTokens (s : State) (r : Gred) (scope : Nat) (ps : List GredPart) : State :=
  ps.foldl (fun s p => (s.onGang p.gang fun g => g.writeToken p.token (tokenOf r.count) p.w).acquireAt (coreOf p.gang) scope) s

/-- One chunk more, or the end of a reduction without any. -/
def State.gredAdvance (s : State) (r : Gred) (e : Group) : Except GredStop (State × Option Gred) := do
  let (s, r) ← (if r.count = 0 then .ok (s, r)
    else do
      let (s, src) ← s.gredSources r r.parts
      let bs := (r.results e src).flatMap fun v => leBytes (accWidth r.ty) v
      let (s, ps) ← s.gredDeliver r bs r.parts
      .ok (s, { r with parts := ps, next := r.next + 1 }) :
        Except GredStop (State × Gred))
  if r.count ≤ gredChunk * r.next then
    let s ← s.gredStatus r r.parts
    .ok (s.gredTokens r (s.groupScope r.launch r.grp) r.parts, none)
  else .ok (s, some r)

/-- A group reduction fails for every member (R77; that one member's failure fails them all is this model's reading, assumption 19). -/
def State.failGred (s : State) (key : Nat) (cause : Cause) (addr : Word) : State :=
  match s.greds.findIdx? fun r => r.parts.any fun p => p.gang == key with
  | none => s
  | some i =>
    match s.greds[i]? with
    | none => s
    | some r =>
      let spoilAt := fun (p : GredPart) (s : State) (k : Nat) =>
        match s.gredWrite p (p.dst + word (gredChunk * k)) ((List.range gredChunk).map fun j => BitVec.ofNat 8 (s.free j).toNat) with
        | .ok (s, _) => s.fresh
        | .error _ => s
      let rest := (List.range (r.count / gredChunk)).drop r.next
      let s1 := r.parts.foldl (fun s p => rest.foldl (spoilAt p) s) s
      let s2 := r.parts.foldl
        (fun s p => s.onGang p.gang fun g => g.writeFailed p.token cause (gredChunk * r.next) addr p.w)
        { s1 with greds := s1.greds.eraseIdx i }
      r.parts.foldl (fun s p => s.opEnded p.gang) s2

/-- A group reduction waits for fault service. -/
def State.gredHeld (s : State) (r : Gred) : Bool :=
  s.faults.any fun f => match f.who with | .gred key => r.parts.any fun p => p.gang == key | _ => false

/-- GRED_CHUNK_DONE (R250). -/
def State.gredStep (s : State) (i : Nat) : State :=
  match s.greds[i]? with
  | none => s
  | some r =>
    match s.groupOf r.launch r.grp with
    | none => s
    | some e =>
      if !s.gredMembers r e || s.gredHeld r then s
      else if e.badGred = some true then
        match r.parts with
        | p :: _ => (s.onGroup r.launch r.grp fun e => { e with badGred := some false }).failGred p.gang .illegalInsn p.dst
        | [] => s
      else if !r.peersReady e then s
      else match s.gredAdvance r e with
        | .ok (s, some r) => { s with greds := s.greds.set i r }
        | .ok (s, none) => r.parts.foldl (fun s p => s.opEnded p.gang) { s with greds := s.greds.eraseIdx i }
        | .error (.poison s1 key va) => s1.failGred key .poison va
        | .error (.fault p f acc) => s.sendFault (.gred p.gang) p.gang p.lanes (engineFault f) acc p.pc p.priv none

/-- GRED_CHUNK_DONE (R250). -/
def execGredChunkDone (round : Nat) (s : State) : Host.Outcome State Fault Refusal := .next (s.gredStep round)

/-- The peer list of the device of rank 0 becomes known with its first part: where this device's is another one, its first GRED and its first
GREDW fail (R248), also one in which threads wait already. -/
def State.peerList (s : State) (launch grp rank : Nat) (list : List Nat) : State :=
  match s.groupOf launch grp with
  | none => s
  | some e =>
    if rank ≠ 0 ∨ e.rank = 0 ∨ e.badGred.isSome then s
    else
      let bad := list != e.peers
      let waits := fun (t : Thread) => match t.wait with | .gredw q _ _ _ => q == grp | _ => false
      let m := fun (g : Gang) => those g.live fun k => g.launch == launch && waits (g.lane k)
      let stuck := bad && s.gangs.any fun g => m g != 0
      let s1 := s.onGroup launch grp fun e => { e with badGred := some bad, badGredw := some (bad && !stuck) }
      if !stuck then s1
      else
        s1.gangs.foldl
          (fun s g => if m g = 0 then s else s.trapWaiting g.key (m g) { cause := .illegalInsn, mask := m g, addr := 0, info := s.freeInfo })
          { s1 with gredws := s1.gredws.filter fun r => !(r.launch == launch && r.grp == grp) }

/-- A peer device's part reaches this device, with the peer list of that device (R248): its arrival at a remote group barrier; its local result for
the open round of a GREDW, one word; or words of its chunks for the open GRED. -/
def State.peerArrives (s : State) (launch grp rank : Nat) (list : List Nat) (reduction : Bool) (values : List Word) : State :=
  let s := s.peerList launch grp rank list
  if !reduction then
    let r := s.roundOf launch grp
    (s.setRound { r with peers := if r.peers.contains rank then r.peers else r.peers ++ [rank] }).groupCheck launch grp
  else if values.length = 1 then
    State.gredwCheck
      { s with
        gredws := s.gredws.map fun r =>
          if r.launch = launch ∧ r.grp = grp then { r with peers := SMap.set [] r.peers rank values } else r } launch grp
  else
    match s.greds.findIdx? fun (r : Gred) => r.launch == launch && r.grp == grp with
    | none => s
    | some i =>
      { s with greds := s.greds.modify i fun (r : Gred) => { r with peers := SMap.set [] r.peers rank (SMap.get [] r.peers rank ++ values) } }

/-- PEER_DEVICE_CONTRIBUTION (R248, R249): of a device by its rank, with its peer list. -/
def execPeerDeviceContribution (launch group : Nat) (peer : Nat × List Nat) (reduction : Bool) (values : List Word) (s : State) :
    Host.Outcome State Fault Refusal := .next (s.peerArrives launch group peer.1 peer.2 reduction values)

/-- The record of a machine check that no thread takes (R337). -/
def machineRecord (code : Nat) (addr : Word) : List Byte := recordBytes addr 0 0xFFFFFFFF 0xFFFFFFFF 0xFFFFFFFF 0 0x3F code 16 0 false

end Sys2Proof.Machine
end

