-- ==== Sys2Proof/Machine/Registers.lean ====
section
/-! DEFINITION. The control registers (R347 to R349, R358 to R362, R280, R96): who may read and write each, what a read gives, what a write
does. -/

namespace Sys2Proof.Machine

/-- The control registers of R348. -/
inductive Csr where
  | trapvec | trapcause | trappc | trapaddr | trapmask | trapinfo | oplog | savearea | status | stallchk | funcmode | preemptctl
  | snapctl | dbgctl | wpaddr0 | wpctl0 | wpaddr1 | wpctl1 | enbudget | enused | leasectl | heapcol | world | wsrefr
  deriving DecidableEq, Repr

/-- The register with a number (R348). -/
def Csr.ofNumber (n : Nat) : Option Csr :=
  match n with
  | 0x00 => some .trapvec
  | 0x01 => some .trapcause
  | 0x02 => some .trappc
  | 0x03 => some .trapaddr
  | 0x04 => some .trapmask
  | 0x05 => some .trapinfo
  | 0x06 => some .oplog
  | 0x07 => some .savearea
  | 0x10 => some .status
  | 0x11 => some .stallchk
  | 0x12 => some .funcmode
  | 0x13 => some .preemptctl
  | 0x18 => some .snapctl
  | 0x19 => some .dbgctl
  | 0x1A => some .wpaddr0
  | 0x1B => some .wpctl0
  | 0x1C => some .wpaddr1
  | 0x1D => some .wpctl1
  | 0x20 => some .enbudget
  | 0x21 => some .enused
  | 0x28 => some .leasectl
  | 0x29 => some .heapcol
  | 0x30 => some .world
  | 0x31 => some .wsrefr
  | _ => none

/-- User code may read a register (R348). -/
def Csr.userRead : Csr → Bool
  | .status | .stallchk | .funcmode | .preemptctl | .snapctl | .dbgctl | .enbudget | .enused | .leasectl | .heapcol | .world
  | .wsrefr => true
  | _ => false

/-- Who may write a register (R348). -/
inductive Writer where
  | nobody | user | priv | system
  deriving DecidableEq, Repr

/-- The write columns of R348. -/
def Csr.writer : Csr → Writer
  | .savearea | .enused | .world | .wsrefr => .nobody
  | .status | .stallchk => .user
  | .funcmode | .preemptctl | .enbudget | .leasectl | .heapcol => .system
  | _ => .priv

/-- A register held per thread (R348). -/
def Csr.perThread : Csr → Bool
  | .trapcause | .trappc | .trapaddr | .trapmask | .trapinfo | .oplog | .status => true
  | _ => false

/-- PREEMPTCTL of a die (R362). -/
def State.preemptctl (s : State) (die : Nat) : Word :=
  word ((s.die die).preemptLaunch.toNat * 2 ^ 32 + bit (s.requestStands die) * 2 ^ 17 + (s.die die).watchdogUs.toNat)

/-- SNAPCTL (R362). -/
def State.snapctl (s : State) : Word :=
  word (s.snapCount.toNat * 2 ^ 8 + bit s.snapMc * 8 + bit s.snapPin * 4 + bit s.snapUser * 2 + bit s.snapArmed)

/-- DBGCTL (R360). -/
def Gang.dbgctl (g : Gang) : Word := word (bit g.bkptDbg * 8 + g.stepMode.toNat * 2 + bit g.uninitChk)

/-- WSREFR (R96). -/
def State.wsrefr (s : State) (die : Nat) : Word :=
  let d := s.die die
  word (bit d.refreshValid * 2 ^ 63 + d.refreshLen.toNat * 2 ^ 48 + d.refreshPeriod.toNat * 2 ^ 32 + (s.nextStart die).toNat)

/-- OPLOG (R360). -/
def Thread.oplogWord (t : Thread) : Word := word (bit t.oplogValid * 16 + t.oplogEntry.toNat)

/-- READING a control register in a lane of a gang (R348). -/
def State.csrRead (s : State) (key k : Nat) (r : Csr) : Word :=
  let g := s.gangAt key
  let t := g.lane k
  let d := s.die (dieOf key)
  match r with
  | .trapvec => g.trapVec
  | .trapcause => word t.trapCause.toNat
  | .trappc => t.trapPc
  | .trapaddr => t.trapAddr
  | .trapmask => word t.trapMask.toNat
  | .trapinfo => t.trapInfo
  | .oplog => t.oplogWord
  | .savearea => g.saveArea
  | .status => t.status
  | .stallchk => word (bit g.stallChk)
  | .funcmode => word d.funcMode.toNat
  | .preemptctl => s.preemptctl (dieOf key)
  | .snapctl => s.snapctl
  | .dbgctl => g.dbgctl
  | .wpaddr0 => g.wpAddr0
  | .wpctl0 => word g.wpCtl0.toNat
  | .wpaddr1 => g.wpAddr1
  | .wpctl1 => word g.wpCtl1.toNat
  | .enbudget => d.enBudget
  | .enused => s.enUsed (dieOf key)
  | .leasectl => s.leasectl
  | .heapcol => (s.heapOf (asidOf g.xlate)).word
  | .world => word (s.worldOf (partOf key))
  | .wsrefr => s.wsrefr (dieOf key)

/-- The watchdog time of a die in ns: 0 µs is taken as 1 (R362). -/
def State.watchdogNs (s : State) (die : Nat) : Nat := max 1 (s.die die).watchdogUs.toNat * 1000

/-- A request of pre-emption for a gang, with its deadline (R338); one that stands, or a save under way, stays as it is. -/
def State.requestGang (s : State) (key : Nat) : State :=
  s.onGang key fun g =>
    if g.request.isSome || g.taken then g else { g with request := some (s.gtime + s.watchdogNs (dieOf key)) }

/-- Requests for the resident gangs of a launch on a die (R362). -/
def State.requestLaunch (s : State) (die launch : Nat) : State :=
  s.gangs.foldl (fun s g => if dieOf g.key = die ∧ g.launch = launch then s.requestGang g.key else s) s

/-- A write of PREEMPTCTL of a die (R338, R362): req is ignored while a request stands. -/
def State.writePreemptctl (s : State) (die : Nat) (v : Word) : State :=
  let stands := s.requestStands die
  let s1 := s.onDie die fun d =>
    { d with preemptLaunch := BitVec.ofNat 32 (Word.field v 63 32), watchdogUs := BitVec.ofNat 16 (max 1 (Word.field v 15 0)) }
  if Word.flag v 16 && !stands then s1.requestLaunch die (Word.field v 63 32) else s1

/-- A write of SNAPCTL (R362). -/
def State.writeSnapctl (s : State) (v : Word) : State :=
  { s with snapMc := Word.flag v 3, snapPin := Word.flag v 2, snapUser := Word.flag v 1, snapArmed := Word.flag v 0 }

/-- A write of DBGCTL (R360). -/
def Gang.setDbgctl (g : Gang) (v : Word) : Gang :=
  { g with
    bkptDbg := Word.flag v 3
    stepMode := if Word.flag v 2 then 0 else BitVec.ofNat 2 (Word.field v 2 1)
    uninitChk := Word.flag v 0 }

/-- What WPCTL stores (R361): a size above 12 is written as 12. -/
def wpctlOf (v : Word) : BitVec 10 :=
  BitVec.ofNat 10 (Word.field v 9 8 * 2 ^ 8 + min 12 (Word.field v 7 3) * 8 + Word.field v 2 0)

/-- What WPADDR stores (R361): its low size bits are written 0. -/
def wpaddrOf (v : Word) (ctl : BitVec 10) : Word :=
  let size := ctl.toNat / 8 % 32
  word (v.toNat / 2 ^ size * 2 ^ size)

/-- A translation of an address space, for the engines that work on it: that of a resident gang, a launch or a host thread. -/
def State.xlateOf (s : State) (asid : Nat) : Word :=
  match s.gangs.find? fun g => asidOf g.xlate == asid with
  | some g => g.xlate
  | none => match s.launches.find? fun l => asidOf l.packet.xlate == asid with
    | some l => l.packet.xlate
    | none => match s.hostThreads.find? fun h => asidOf h.xlate == asid with
      | some h => h.xlate
      | none => word (9 * 2 ^ 60 + asid * 2 ^ 44)

/-- A write of HEAPCOL of an address space (R280): setting active starts a cycle (R284), and is ignored while one runs. -/
def State.writeHeapcol (s : State) (asid : Nat) (v : Word) : State :=
  if (s.heapOf asid).active && Word.flag v 62 then s
  else
    let h : Heap := { asid := asid, colour := Word.flag v 63, active := Word.flag v 62, desc := word (Word.field v 47 6 * 64) }
    let c : Cycle :=
      { asid := asid, xlate := s.xlateOf asid, begun := false, cursor := 0, range := 0, limit := 0, destNext := 0, moved := 0,
        moving := [] }
    { s with
      heaps := h :: s.heaps.filter fun x => x.asid ≠ asid
      cycles := (s.cycles.filter fun x => x.asid ≠ asid) ++ if Word.flag v 62 then [c] else [] }

/-- WRITING a control register in a lane of a gang (R348). -/
def State.csrWrite (s : State) (key k : Nat) (r : Csr) (v : Word) : State :=
  let thread := s.onThread key k
  let gang := s.onGang key
  let die := dieOf key
  match r with
  | .trapvec => gang fun g => { g with trapVec := word (v.toNat / 4 * 4) }
  | .trapcause => thread fun t => { t with trapCause := BitVec.ofNat 8 v.toNat }
  | .trappc => thread fun t => { t with trapPc := v }
  | .trapaddr => thread fun t => { t with trapAddr := v }
  | .trapmask => thread fun t => { t with trapMask := BitVec.ofNat 32 v.toNat }
  | .trapinfo => thread fun t => { t with trapInfo := v }
  | .oplog => if Word.flag v 5 then s.freeHeld key k else s
  | .status => thread fun t => t.setStatus v
  | .stallchk => gang fun g => { g with stallChk := Word.flag v 0 }
  | .funcmode => s.writeFuncmode die v
  | .preemptctl => s.writePreemptctl die v
  | .snapctl => s.writeSnapctl v
  | .dbgctl => gang fun g => g.setDbgctl v
  | .wpaddr0 => gang fun g => { g with wpAddr0 := wpaddrOf v g.wpCtl0 }
  | .wpctl0 => gang fun g => { g with wpCtl0 := wpctlOf v }
  | .wpaddr1 => gang fun g => { g with wpAddr1 := wpaddrOf v g.wpCtl1 }
  | .wpctl1 => gang fun g => { g with wpCtl1 := wpctlOf v }
  | .enbudget => s.setBudget die v
  | .leasectl => s.writeLeasectl v
  | .heapcol => s.writeHeapcol (asidOf (s.gangAt key).xlate) v
  | .savearea | .enused | .world | .wsrefr => s

/-- Why an access is refused (R344, R347, R348): TRAPADDR of its ILLEGAL_INSN. -/
def csrRefused (r : Csr) (read write priv sysWorld : Bool) : Option Word :=
  if write && r.writer == .nobody then some 0
  else if read && !r.userRead && !priv then some 1
  else if write && r.writer != .user && !priv then some 1
  else if write && r.writer == .system && !sysWorld then some 2
  else none

/-- The register that a CSR instruction names, and that its guarded lanes may access as asked (R344, R348). -/
def State.csrFind (s : State) (o : Ops) (L : Mask) (read write : Bool) : Except TrapReq Csr :=
  match Csr.ofNumber o.a.toNat with
  | none => .error (s.illegal L 0)
  | some r =>
    match csrRefused r read write (s.cl (lowest L)).priv (s.worldOf (partOf s.cur.gang) == 0) with
    | some why => .error (s.illegal L why)
    | none => .ok r

/-- A write of new values, from the old ones and the operand: lane by lane for a register held per thread, once otherwise, where a d operand
must be uniform (R347, R74). -/
def State.csrUpdate (s : State) (o : Ops) (L : Mask) (r : Csr) (new : Word → Word → Word) : Except TrapReq State :=
  let key := s.cur.gang
  if r.perThread then
    .ok ((lanes L).foldl (fun t k => t.csrWrite key k r (new (s.csrRead key k r) (s.opBNat o k))) s)
  else (s.uniform L (s.opBNat o)).map fun v => s.csrWrite key (lowest L) r (new (s.csrRead key (lowest L) r) v)

/-- CSRR (R347, R349): HEAPCOL with active = 0 is an acquire at system scope. -/
def State.csrr (s : State) (o : Ops) : State :=
  s.issue 0x1C3 o fun L =>
    if L = 0 then .ok s
    else (s.csrFind o L true false).bind fun r =>
      (s.writeBack o 0 L fun k => { val := s.csrRead s.cur.gang k r }).map fun s1 =>
        if r = .heapcol ∧ !(s.heapOf (asidOf s.cg.xlate)).active then s1.acquireAt (coreOf s.cur.gang) 5 else s1

/-- CSRR (R347). -/
def execCsrr (o : Ops) (s : State) : Host.Outcome State Fault Refusal := .next (s.csrr o)

/-- CSRW (R347). -/
def State.csrw (s : State) (o : Ops) : State :=
  s.issue 0x1C4 o fun L =>
    if L = 0 then .ok s
    else (s.csrFind o L false true).bind fun r => s.csrUpdate o L r fun _ v => v

/-- CSRW (R347). -/
def execCsrw (o : Ops) (s : State) : Host.Outcome State Fault Refusal := .next (s.csrw o)

/-- The new value of a CSRX (R347). -/
def csrxNew (op : Nat) (old v : Word) : Word :=
  match op with
  | 0 => v
  | 1 => old ||| v
  | _ => old &&& ~~~v

/-- CSRX (R347): the old value goes to the destination; operation 0b11 is ILLEGAL_INSN (R343). -/
def State.csrx (s : State) (o : Ops) : State :=
  s.issue 0x1C5 o fun L =>
    if L = 0 then .ok s
    else if o.opmod.toNat = 3 then .error (s.illegal L 0)
    else (s.csrFind o L true true).bind fun r =>
      (s.csrUpdate o L r (csrxNew o.opmod.toNat)).bind fun s1 =>
        s1.writeBack o 0 L fun k => { val := s.csrRead s.cur.gang k r }

/-- CSRX (R347). -/
def execCsrx (o : Ops) (s : State) : Host.Outcome State Fault Refusal := .next (s.csrx o)

/-- A write of OPLOG.free of a thread (R272, R360). -/
def execOplogFree (gang lane : Nat) (s : State) : Host.Outcome State Fault Refusal := .next (s.freeHeld gang lane)

/-- A write of LEASECTL (R209, R362). -/
def execLeasectlWrite (value : Word) (s : State) : Host.Outcome State Fault Refusal := .next (s.writeLeasectl value)

/-- A write of FUNCMODE of a die (R362). -/
def execFuncmodeWrite (die : Nat) (value : Word) (s : State) : Host.Outcome State Fault Refusal := .next (s.writeFuncmode die value)

/-- A write of HEAPCOL of an address space at system privilege (R280). -/
def execHeapcolWrite (asid : Nat) (value : Word) (s : State) : Host.Outcome State Fault Refusal := .next (s.writeHeapcol asid value)

end Sys2Proof.Machine
end

