-- ==== Sys2Proof/Machine/HostEvents.lean ====
section
/-! DEFINITION. The host's coherent accesses, lease expiry, back-invalidation (R206, R212 to R216, R279, R294), and page migration (R224,
R275 to R277, R304, R305). -/

namespace Sys2Proof.Machine

/-- The home grants new leases on a line again (R213). -/
def State.endWait (s : State) (line : Nat) : State := { s with hostWaiting := s.hostWaiting.filter (· ≠ line) }

/-- The pool line is no longer tracked by any die, and has been released (R216, R279). -/
def State.untrack (s : State) (line : Nat) : State :=
  let s1 := (List.range Config.dies).foldl (fun s d => s.onDie d fun x => { x with poolLines := x.poolLines.filter (· ≠ line) }) s
  { s1 with releasing := s1.releasing.filter (· ≠ line) }

/-- LEASE_EXPIRY (R213 LX): leases on a line whose expiry GTIME has reached are gone; a pool line that its die was to release is dropped with
the last of them (R279). A host write or a snoop that waits on the line ends its own wait. -/
def State.expireLeases (s : State) (line : Nat) : State :=
  let s1 := { s with leases := s.leases.filter fun l => l.line != line || decide (s.gtime < l.expiry) }
  if s1.releasing.contains line && !s1.leased line then s1.untrack line else s1

/-- LEASE_EXPIRY (R213). -/
def execLeaseExpiry (line : Nat) (s : State) : Host.Outcome State Fault Refusal := .next (s.expireLeases line)

/-- The home state after a host core reads a line (R213 HR); one that holds it reads its own copy. -/
def hostReadLine (leased : Bool) (host : Nat) : Option HostLine → HostLine
  | none => if leased then .s [host] else .e host
  | some (.s hs) => .s (if hs.contains host then hs else hs ++ [host])
  | some (.e h) => if h = host then .e h else .s [h, host]
  | some (.m h) => if h = host then .m h else .o h [host]
  | some (.o h hs) => .o h (if h = host ∨ hs.contains host then hs else hs ++ [host])

/-- HOST_READ (R213, R377): a line that another world sealed answers with an error response. -/
def State.hostReads (s : State) (host line : Nat) : State :=
  match s.readError 0 line with
  | some kind => s.violate (.home (ownerOf (line * 128))) (word (line * 128)) (hostRequester host) kind 0 (s.tag line)
  | none =>
    { s with hostLines := SMap.set none s.hostLines line (some (hostReadLine (s.leased line) host (SMap.get none s.hostLines line))) }

/-- The host cores have left reset (R393 step 9): before, no access of one happens. -/
def State.hostsUp (s : State) : Bool := decide (9 ≤ s.bootStep)

/-- HOST_READ (R213, R393). -/
def execHostRead (host line : Nat) (s : State) : Host.Outcome State Fault Refusal := .next (if s.hostsUp then s.hostReads host line else s)

/-- A host core writes bytes of one line (R213 HW, R214): while a device lease on the line stands it waits, and no new lease is granted;
else the line reaches M and the store is performed. While its page moves it waits at the hub (R264, R275). A part of a line that another world
sealed is refused (R377). -/
def State.hostWrites (s : State) (host pa : Nat) (bytes : List Byte) : State :=
  let line := lineOf pa
  let bs := bytes.take (128 - pa % 128)
  if s.inMove line then s
  else if s.leased line then if s.hostWaiting.contains line then s else { s with hostWaiting := line :: s.hostWaiting }
  else
    let refused := (s.readError 0 line).isSome && decide (bs.length < 128)
    let s1 := (s.homeStore none (hostRequester host) 0 pa bs).endWait line
    if refused then s1 else { s1 with hostLines := SMap.set none s1.hostLines line (some (.m host)) }

/-- HOST_WRITE_PERMISSION (R213, R214, R393). -/
def execHostWritePermission (host address : Nat) (bytes : List Byte) (s : State) : Host.Outcome State Fault Refusal :=
  .next (if s.hostsUp then s.hostWrites host address bytes else s)

/-- The state that clean copies at some hosts give (R213): E for one, where no device lease stands. -/
def cleanLine (leased : Bool) : List Nat → Option HostLine
  | [] => none
  | [h] => some (if leased then .s [h] else .e h)
  | hs => some (.s hs)

/-- The home state after a host core evicts a line: dirty copies are written back, and what remains gives the state (R213). -/
def hostEvictLine (leased : Bool) (host : Nat) : Option HostLine → Option HostLine
  | some (.s hs) => if hs.contains host then cleanLine leased (hs.filter (· ≠ host)) else some (.s hs)
  | some (.e h) => if h = host then none else some (.e h)
  | some (.m h) => if h = host then none else some (.m h)
  | some (.o h hs) =>
    if h = host then cleanLine leased (hs.filter (· ≠ host))
    else match hs.filter (· ≠ host) with
      | [] => some (.m h)
      | rest => some (.o h rest)
  | none => none

/-- HOST_EVICTION (R213). -/
def execHostEviction (host line : Nat) (s : State) : Host.Outcome State Fault Refusal :=
  .next { s with hostLines := SMap.set none s.hostLines line (hostEvictLine (s.leased line) host (SMap.get none s.hostLines line)) }

/-- What a host AMO of a width writes, from the word it finds (RISC-V A; R294). -/
def HostAmo.result (op : HostAmo) (w old v : Nat) : Nat :=
  let sg := fun x => signedOf w x
  match op with
  | .swap => v
  | .add => old + v
  | .and => old &&& v
  | .or => old ||| v
  | .xor => old ^^^ v
  | .min => if sg old ≤ sg v then old else v
  | .max => if sg v ≤ sg old then old else v
  | .minu => min old v
  | .maxu => max old v
  | .cas e => if old = e.toNat % 2 ^ w then v else old

/-- HOST_AMO (R294): applied at the home once the line reaches M; a misaligned one is no operation of the home. -/
def State.hostAmo (s : State) (host pa size : Nat) (op : HostAmo) (value : Word) : State :=
  if pa % size ≠ 0 then s
  else
    let s := s.logReads 0 (hostRequester host) [lineOf pa]
    let old := leNat (s.openList 0 pa size)
    s.hostWrites host pa (leBytes size (HostAmo.result op (8 * size) old (value.toNat % 2 ^ (8 * size)) % 2 ^ (8 * size)))

/-- HOST_AMO (R294). -/
def execHostAmo (host address size : Nat) (op : HostAmo) (value : Word) (s : State) : Host.Outcome State Fault Refusal :=
  .next (if s.hostsUp then s.hostAmo host address size op value else s)

/-- BACK_INVALIDATE_SNOOP (R216): dirty copies are written back, the line is dropped and gets no new lease; once no lease stands the
answer is given, and the other host's store, if that is what the snoop was for, is visible from then on. While the line's page moves, a store waits
(R224, R275). -/
def State.snoop (s : State) (line : Nat) (bytes : Option (List Byte)) : State :=
  let s1 := { s with hostLines := SMap.set none s.hostLines line none }
  if s1.leased line || bytes.isSome && s1.inMove line then if s1.snooping.contains line then s1 else { s1 with snooping := line :: s1.snooping }
  else
    let s2 := State.untrack { s1 with snooping := s1.snooping.filter (· ≠ line) } line
    match bytes with
    | some bs => s2.homeStore none 0 0 (line * 128) (bs.take 128)
    | none => s2

/-- BACK_INVALIDATE_SNOOP (R216). -/
def execBackInvalidateSnoop (line : Nat) (bytes : Option (List Byte)) (s : State) : Host.Outcome State Fault Refusal :=
  .next (s.snoop line bytes)

/-- The hub discards every cached translation of a page of an address space (R273, R353). -/
def State.shootPage (s : State) (asid : Nat) (va : Word) : State :=
  { s with tlb := s.tlb.filter fun e => !e.covers e.core asid va }

/-- Cached translations to a frame of a size in address bits, of whatever address, are discarded (R273). -/
def State.shootFrame (s : State) (base bits : Nat) : State :=
  let size := fun (e : TlbEntry) => 2 ^ leafBits e.pte e.level
  { s with tlb := s.tlb.filter fun e => !meets (Pte.ppn e.pte * 4096 / size e * size e) (size e) base (2 ^ bits) }

/-- The hub rewrites a leaf and shoots the old one down (R273): every cached translation of it, in each address space that shares its table. -/
def State.setLeaf (s : State) (asid : Nat) (va : Word) (l : Leaf) (pte : Word) : State :=
  let bits := leafBits l.own l.ownLevel
  ((s.hubWrite l.at' (leBytes 8 pte.toNat)).shootPage asid va).shootFrame (Pte.ppn l.own * 4096 / 2 ^ bits * 2 ^ bits) bits

/-- A leaf with t set or clear (R263). -/
def Pte.setT (e : Word) (b : Bool) : Word := if b then e ||| word (2 ^ 60) else e &&& ~~~(word (2 ^ 60))

/-- A leaf with another frame. -/
def Pte.setPpn (e : Word) (ppn : Nat) : Word := word (e.toNat / 2 ^ 54 * 2 ^ 54 + ppn % 2 ^ 44 * 2 ^ 10 + e.toNat % 2 ^ 10)

/-- The address of a virtual page. -/
def pageVa (page : Nat) : Word := sext 48 (page * 4096)

/-- The size, in address bits, of the page that the entry of a leaf maps: of its G-stage leaf where it has one. -/
def Leaf.bits (l : Leaf) : Nat := leafBits l.own l.ownLevel

/-- The first frame number of a leaf's size that holds a frame. -/
def alignFrame (l : Leaf) (frame : Nat) : Nat := frame * 4096 / 2 ^ l.bits * 2 ^ l.bits / 4096

/-- The page of a migration, which its leaf gives its size, holds a 4 KiB page of an address space. -/
def Migration.holds (m : Migration) (asid page : Nat) : Bool :=
  m.asid == asid && m.page * 4096 / 2 ^ m.bits == page * 4096 / 2 ^ m.bits

/-- A migration of a page is in progress or held (R304, R305): of the whole page that one leaf maps. -/
def State.pageBusy (s : State) (asid page : Nat) : Bool :=
  s.migrations.any fun m => m.holds asid page && match m.holdUntil with | none => true | some h => decide (s.gtime < h)

/-- The request of the lowest requester of a list: the requester and the frame to which it would move the page. -/
def lowestRequest (r : Nat × Nat) (rs : List (Nat × Nat)) : Nat × Nat := rs.foldl (fun b x => if x.1 < b.1 then x else b) r

/-- Requests receive an error response (R276, R277). -/
def State.moveError (s : State) (asid page : Nat) (requesters : List Nat) : State :=
  { s with moveErrors := s.moveErrors ++ requesters.map fun r => (asid, page, r) }

/-- MIGRATION_REQUEST (R276, R304): the lowest requester of one hub cycle wins an idle page, and t is set and shot down; every other request
loses, and one for a locked page receives an error response. -/
def State.requestMigration (s : State) (asid page : Nat) (requesters : List (Nat × Nat)) : State :=
  match requesters with
  | [] => s
  | r :: rs =>
    let xlate := s.xlateOf asid
    let va := pageVa page
    match s.walk xlate va with
    | .error _ => s
    | .ok l =>
        if Pte.ml l.pte then s.moveError asid page (requesters.map (·.1))
        else if s.pageBusy asid page then s
        else
          let q := lowestRequest r rs
          let m : Migration :=
            { asid := asid, page := page, xlate := xlate, requester := q.1, source := alignFrame l (Pte.ppn l.own), dest := alignFrame l q.2,
              next := 0, bits := l.bits, relinked := false, failedLines := [], aborted := false, holdUntil := none }
          State.setLeaf { s with migrations := (s.migrations.filter fun x => !x.holds asid page) ++ [m] } asid va l (Pte.setT l.own true)

/-- MIGRATION_REQUEST (R304): requesters, each with the frame to which it would move the page. -/
def execMigrationRequest (asid page : Nat) (requesters frames : List Nat) (s : State) : Host.Outcome State Fault Refusal :=
  .next (s.requestMigration asid page (requesters.zip frames))

/-- The frame addresses of a migrating page: those of its leaf's size (R275). -/
def State.migrationLeaf (s : State) (m : Migration) : Option Leaf :=
  match s.walk m.xlate (pageVa m.page) with | .ok l => some l | .error _ => none

/-- A store or atomic translated before the shootdown has yet to be performed on the source frame (R273, R275). -/
def State.frameBusy (s : State) (base size : Nat) : Bool :=
  (s.stores.any fun t => meets t.pa t.bytes.length base size) || s.atoms.any fun a => a.applied.isNone && meets a.pa 8 base size

/-- The end of a migration: t is cleared in a leaf after a shootdown, and the hold begins (R275, R277, R305). -/
def State.endMigration (s : State) (i : Nat) (m : Migration) (l : Leaf) (pte : Word) (aborted : Bool) : State :=
  State.setLeaf
    { s with migrations := s.migrations.set i { m with aborted := aborted, holdUntil := some (s.gtime + Config.holdNs) } } m.asid
    (pageVa m.page) l (Pte.setT pte false)

/-- MIGRATION_LINE_COPY (R275, R277): the next line moves with its tag and its poison, once no lease stands on its new place; a copy that fails
poisons the source line, is logged, aborts the migration and answers its requester with an error. -/
def State.migrateLine (s : State) (i : Nat) (ok : Bool) : State :=
  match s.migrations[i]? with
  | none => s
  | some m =>
    match s.migrationLeaf m with
    | none => s
    | some l =>
      let size := 2 ^ l.bits
      let src := m.source * 4096 + 128 * m.next
      let dst := m.dest * 4096 + 128 * m.next
      if m.holdUntil.isSome ∨ size ≤ 128 * m.next ∨ s.frameBusy (m.source * 4096) size then s
      else if ok then
        if s.leased (lineOf dst) then s
        else
        let s1 := (((s.placeAt dst 128).poke dst (s.peekList src 128)).ownWords none dst 128).breakLine (lineOf dst)
        { s1 with
          migrations := s1.migrations.set i { m with next := m.next + 1 }
          lineWorld := SMap.set 0 s1.lineWorld (lineOf dst) (s.tag (lineOf src))
          seals := SMap.set none s1.seals (lineOf dst)
            ((s.sealOf (s.tag (lineOf src)) (lineOf dst)).map fun z => { z with intact := !s.macFails (lineOf src) })
          poisonLines := SMap.set false s1.poisonLines (lineOf dst) (SMap.get false s.poisonLines (lineOf src))
          hostLines := SMap.set none s1.hostLines (lineOf dst) none }
      else
        let s1 := State.uncorrectable { s with poisonLines := SMap.set false s.poisonLines (lineOf src) true } src 0 (s.tag (lineOf src))
        ((s1.violate .migration (word src) 0 0x08 0 (s.tag (lineOf src))).endMigration i { m with failedLines := [lineOf src] } l l.own true).moveError
          m.asid m.page [m.requester]

/-- MIGRATION_LINE_COPY (R275). -/
def execMigrationLineCopy (page : Nat) (ok : Bool) (s : State) : Host.Outcome State Fault Refusal := .next (s.migrateLine page ok)

/-- A physical address in a moved frame. -/
def movedPa (src dst size pa : Nat) : Nat := if src ≤ pa ∧ pa < src + size then pa - src + dst else pa

/-- MIGRATION_COMPLETE (R275): the leaf gets the new frame, still with t set, and is shot down; in a second step t is cleared, and contributions that
wait for their turn follow the page's words (R224). -/
def State.completeMigration (s : State) (i : Nat) : State :=
  match s.migrations[i]? with
  | none => s
  | some m =>
    match s.migrationLeaf m with
    | none => s
    | some l =>
      let size := 2 ^ l.bits
      if m.holdUntil.isSome ∨ 128 * m.next < size then s
      else if !m.relinked then
        State.setLeaf { s with migrations := s.migrations.set i { m with relinked := true } } m.asid (pageVa m.page) l
          (if Pte.n l.own then Pte.setPpn l.own (m.dest + 8) else Pte.setPpn l.own m.dest)
      else
        let move := movedPa (m.source * 4096) (m.dest * 4096) size
        State.endMigration (s.moveSeqs move) i m l l.own false

/-- MIGRATION_COMPLETE (R275). -/
def execMigrationComplete (page : Nat) (s : State) : Host.Outcome State Fault Refusal := .next (s.completeMigration page)

/-- MIGRATION_HOLD_EXPIRY (R305). -/
def execMigrationHoldExpiry (page : Nat) (s : State) : Host.Outcome State Fault Refusal :=
  .next (match s.migrations[page]? with
    | some m => match m.holdUntil with
      | some h => if h ≤ s.gtime then { s with migrations := s.migrations.eraseIdx page } else s
      | none => s
    | none => s)

end Sys2Proof.Machine
end

