-- ==== Sys2Proof/Machine/HostInsn.lean ====
section
/-! DEFINITION. The instructions of a host core and their encodings: RV64 with the extensions that the profile RVA23U64 makes mandatory, and those of its
privileged modes (R292). Their formats are the RISC-V standard's (assumption 66). -/

namespace Sys2Proof.Machine

/-- Integer operations: I, M, Zba, Zbb, Zbs, Zicond; a may-be-operation writes zero (Zimop). -/
inductive HostInt where
  | add | sub | sll | slt | sltu | xor | srl | sra | or | and
  | mul | mulh | mulhsu | mulhu | div | divu | rem | remu
  | andn | orn | xnor | clz | ctz | cpop | min | minu | max | maxu | sextB | sextH | zextH | rol | ror | orcB | rev8
  | shadd (n : Nat) | shaddUw (n : Nat) | sllUw
  | bclr | bext | binv | bset
  | czeroEqz | czeroNez | zero
  deriving DecidableEq, Repr

/-- Floating-point operations: F, D, Zfa, and the conversions of Zfhmin. Widths are those of the integer. -/
inductive HostFp where
  | add | sub | mul | div | sqrt
  | sgnj | sgnjn | sgnjx
  | min | max | minm | maxm
  | convert (from' : Nat)
  | round (exact : Bool)
  | le (quiet : Bool) | lt (quiet : Bool) | eq
  | toInt (w : Nat) (signed : Bool) | toMod | fromInt (w : Nat) (signed : Bool)
  | toX | fromX | classify | const
  | madd (negProduct negAddend : Bool)
  deriving DecidableEq, Repr

/-- The instructions of a host core; `illegal` is every encoding that they leave. -/
inductive HostInsn where
  | lui (rd : Nat) (v : Word) (pc : Bool)
  | jal (rd : Nat) (off : Word)
  | jalr (rd rs1 : Nat) (off : Word)
  | branch (f3 rs1 rs2 : Nat) (off : Word)
  | int (op : HostInt) (short : Bool) (rd rs1 : Nat) (rs2 : Option Nat) (imm : Word)
  | load (size : Nat) (signed : Bool) (rd rs1 : Nat) (off : Word)
  | store (size rs2 rs1 : Nat) (off : Word)
  | fp (op : HostFp) (fmt rm rd rs1 rs2 rs3 : Nat)
  | lr (size rd rs1 : Nat) (rl : Bool)
  | sc (size rd rs1 rs2 : Nat) (rl : Bool)
  | amo (f5 size rd rs1 rs2 : Nat) (rl : Bool)
  | fence (pr pw : Bool)
  | csr (f3 rd rs1 num : Nat)
  | ecall
  | ebreak
  | sret
  | mret
  | idle
  /-- sfence, sinval and hfence; of the H extension or not -/
  | fenceVma (hyp : Bool)
  /-- cbo.zero, or the clean, flush and inval of a block -/
  | block (zero : Bool) (rs1 : Nat)
  /-- hlv and hsv; of code -/
  | guestLoad (size : Nat) (signed code : Bool) (rd rs1 : Nat)
  | guestStore (size rs2 rs1 : Nat)
  /-- vsetvli, vsetivli, vsetvl: the length, of a register or immediate, and the type -/
  | vset (rd : Nat) (avl : Nat ⊕ Nat) (type : Nat ⊕ Nat)
  /-- vector loads and stores: mode of addressing, fields, element width, mask -/
  | vmem (store : Bool) (vd rs1 rs2 mop nf width : Nat) (masked : Bool)
  /-- vector arithmetic by funct3 and funct6 -/
  | varith (f3 f6 vd rs1 vs2 : Nat)
  | illegal
  deriving DecidableEq, Repr

/-- The bits [hi:lo] of an instruction. -/
def hostBits (n hi lo : Nat) : Nat := n / 2 ^ lo % 2 ^ (hi + 1 - lo)

/-- The immediates of the RISC-V formats. -/
def immI (n : Nat) : Word := sext 12 (hostBits n 31 20)
def immS (n : Nat) : Word := sext 12 (hostBits n 31 25 * 32 + hostBits n 11 7)
def immB (n : Nat) : Word :=
  sext 13 (hostBits n 31 31 * 4096 + hostBits n 7 7 * 2048 + hostBits n 30 25 * 32 + hostBits n 11 8 * 2)
def immJ (n : Nat) : Word :=
  sext 21 (hostBits n 31 31 * 2 ^ 20 + hostBits n 19 12 * 4096 + hostBits n 20 20 * 2048 + hostBits n 30 21 * 2)
def immU (n : Nat) : Word := sext 32 (n / 4096 * 4096)

/-- The offsets of c.j, and of c.beqz and c.bnez. -/
def immCj (n : Nat) : Word :=
  sext 12 (hostBits n 12 12 * 2048 + hostBits n 8 8 * 1024 + hostBits n 10 9 * 256 + hostBits n 6 6 * 128 + hostBits n 7 7 * 64
    + hostBits n 2 2 * 32 + hostBits n 11 11 * 16 + hostBits n 5 3 * 2)
def immCb (n : Nat) : Word :=
  sext 9 (hostBits n 12 12 * 256 + hostBits n 6 5 * 64 + hostBits n 2 2 * 32 + hostBits n 11 10 * 8 + hostBits n 4 3 * 2)

/-- The six-bit immediate of the compact format, unsigned and signed. -/
def immC (n : Nat) : Nat := hostBits n 12 12 * 32 + hostBits n 6 2
def immCi (n : Nat) : Word := sext 6 (immC n)

/-- The offsets of the compact loads and stores, of words and of doublewords: from a register, and from x2. -/
def immCw (n : Nat) : Word := word (hostBits n 5 5 * 64 + hostBits n 12 10 * 8 + hostBits n 6 6 * 4)
def immCd (n : Nat) : Word := word (hostBits n 6 5 * 64 + hostBits n 12 10 * 8)
def immCwsp (n : Nat) : Word := word (hostBits n 3 2 * 64 + hostBits n 12 12 * 32 + hostBits n 6 4 * 4)
def immCdsp (n : Nat) : Word := word (hostBits n 4 2 * 64 + hostBits n 12 12 * 32 + hostBits n 6 5 * 8)
def immCswsp (n : Nat) : Word := word (hostBits n 8 7 * 64 + hostBits n 12 9 * 4)
def immCsdsp (n : Nat) : Word := word (hostBits n 9 7 * 64 + hostBits n 12 10 * 8)

/-- Quadrant 0 of the compact instructions (C, Zcb). -/
def hostDecodeC0 (n : Nat) : HostInsn :=
  let a := 8 + hostBits n 9 7
  let r := 8 + hostBits n 4 2
  match hostBits n 15 13 with
  | 0 =>
    let imm := hostBits n 10 7 * 64 + hostBits n 12 11 * 16 + hostBits n 5 5 * 8 + hostBits n 6 6 * 4
    if imm = 0 then .illegal else .int .add false r 2 none (word imm)
  | 1 => .load 8 false (32 + r) a (immCd n)
  | 2 => .load 4 true r a (immCw n)
  | 3 => .load 8 false r a (immCd n)
  | 4 =>
    let byte := word (hostBits n 5 5 * 2 + hostBits n 6 6)
    let half := word (hostBits n 5 5 * 2)
    match hostBits n 12 10 with
    | 0 => .load 1 false r a byte
    | 1 => .load 2 (hostBits n 6 6 == 1) r a half
    | 2 => .store 1 r a byte
    | 3 => if hostBits n 6 6 = 0 then .store 2 r a half else .illegal
    | _ => .illegal
  | 5 => .store 8 (32 + r) a (immCd n)
  | 6 => .store 4 r a (immCw n)
  | _ => .store 8 r a (immCd n)

/-- Quadrant 1 of the compact instructions (C, Zcb, Zcmop). -/
def hostDecodeC1 (n : Nat) : HostInsn :=
  let rd := hostBits n 11 7
  let a := 8 + hostBits n 9 7
  let b := 8 + hostBits n 4 2
  match hostBits n 15 13 with
  | 0 => .int .add false rd rd none (immCi n)
  | 1 => if rd = 0 then .illegal else .int .add true rd rd none (immCi n)
  | 2 => .int .add false rd 0 none (immCi n)
  | 3 =>
    if immC n = 0 then (if rd % 2 = 1 ∧ rd < 16 ∧ hostBits n 6 2 = 0 then .idle else .illegal)
    else if rd = 2 then
      .int .add false 2 2 none (sext 10 (hostBits n 12 12 * 512 + hostBits n 4 3 * 128 + hostBits n 5 5 * 64 + hostBits n 2 2 * 32 + hostBits n 6 6 * 16))
    else .lui rd (sext 18 (immC n * 4096)) false
  | 4 =>
    match hostBits n 11 10, hostBits n 12 12, hostBits n 6 5 with
    | 0, _, _ => .int .srl false a a none (word (immC n))
    | 1, _, _ => .int .sra false a a none (word (immC n))
    | 2, _, _ => .int .and false a a none (immCi n)
    | _, 0, 0 => .int .sub false a a (some b) 0
    | _, 0, 1 => .int .xor false a a (some b) 0
    | _, 0, 2 => .int .or false a a (some b) 0
    | _, 0, _ => .int .and false a a (some b) 0
    | _, _, 0 => .int .sub true a a (some b) 0
    | _, _, 1 => .int .add true a a (some b) 0
    | _, _, 2 => .int .mul false a a (some b) 0
    | _, _, _ =>
      match hostBits n 4 2 with
      | 0 => .int .and false a a none 255
      | 1 => .int .sextB false a a none 0
      | 2 => .int .zextH false a a none 0
      | 3 => .int .sextH false a a none 0
      | 4 => .int (.shaddUw 0) false a a (some 0) 0
      | 5 => .int .xor false a a none (word (2 ^ 64 - 1))
      | _ => .illegal
  | 5 => .jal 0 (immCj n)
  | 6 => .branch 0 a 0 (immCb n)
  | _ => .branch 1 a 0 (immCb n)

/-- Quadrant 2 of the compact instructions; c.jalr links in x1. -/
def hostDecodeC2 (n : Nat) : HostInsn :=
  let rd := hostBits n 11 7
  let b := hostBits n 6 2
  match hostBits n 15 13 with
  | 0 => .int .sll false rd rd none (word (immC n))
  | 1 => .load 8 false (32 + rd) 2 (immCdsp n)
  | 2 => if rd = 0 then .illegal else .load 4 true rd 2 (immCwsp n)
  | 3 => if rd = 0 then .illegal else .load 8 false rd 2 (immCdsp n)
  | 4 =>
    if b ≠ 0 then (if hostBits n 12 12 = 0 then .int .add false rd 0 (some b) 0 else .int .add false rd rd (some b) 0)
    else if rd ≠ 0 then .jalr (hostBits n 12 12) rd 0
    else if hostBits n 12 12 = 1 then .ebreak else .illegal
  | 5 => .store 8 (32 + b) 2 (immCsdsp n)
  | 6 => .store 4 b 2 (immCswsp n)
  | _ => .store 8 b 2 (immCsdsp n)

/-- A 16-bit instruction. -/
def hostDecode16 (n : Nat) : HostInsn := if n % 4 = 0 then hostDecodeC0 n else if n % 4 = 1 then hostDecodeC1 n else hostDecodeC2 n

/-- Operations on a register and an immediate, of 64 bits. -/
def hostImmOp (n : Nat) : Option (HostInt × Word) :=
  let imm := hostBits n 31 20
  let shift := fun (op : HostInt) => some (op, word (hostBits n 25 20))
  match hostBits n 14 12 with
  | 0 => some (.add, immI n)
  | 2 => some (.slt, immI n)
  | 3 => some (.sltu, immI n)
  | 4 => some (.xor, immI n)
  | 6 => some (.or, immI n)
  | 7 => some (.and, immI n)
  | 1 =>
    match imm / 64 with
    | 0x00 => shift .sll
    | 0x0A => shift .bset
    | 0x12 => shift .bclr
    | 0x1A => shift .binv
    | _ =>
      match imm with
      | 0x600 => some (.clz, 0)
      | 0x601 => some (.ctz, 0)
      | 0x602 => some (.cpop, 0)
      | 0x604 => some (.sextB, 0)
      | 0x605 => some (.sextH, 0)
      | _ => none
  | _ =>
    match imm / 64 with
    | 0x00 => shift .srl
    | 0x10 => shift .sra
    | 0x12 => shift .bext
    | 0x18 => shift .ror
    | _ => if imm = 0x287 then some (.orcB, 0) else if imm = 0x6B8 then some (.rev8, 0) else none

/-- Operations on a register and an immediate, of 32 bits but for slli.uw: the operation and whether it is short. -/
def hostImmOp32 (n : Nat) : Option (HostInt × Bool × Word) :=
  let imm := hostBits n 31 20
  let shift := fun (op : HostInt) => some (op, true, word (hostBits n 24 20))
  match hostBits n 14 12, imm / 32 with
  | 0, _ => some (.add, true, immI n)
  | 1, 0x00 => shift .sll
  | 1, 0x04 | 1, 0x05 => some (.sllUw, false, word (hostBits n 25 20))
  | 1, 0x30 => match imm % 32 with | 0 => some (.clz, true, 0) | 1 => some (.ctz, true, 0) | 2 => some (.cpop, true, 0) | _ => none
  | 5, 0x00 => shift .srl
  | 5, 0x20 => shift .sra
  | 5, 0x30 => shift .ror
  | _, _ => none

/-- Operations on two registers, of 64 bits. -/
def hostRegOp (f7 f3 : Nat) : Option HostInt :=
  match f7, f3 with
  | 0x00, 0 => some .add
  | 0x00, 1 => some .sll
  | 0x00, 2 => some .slt
  | 0x00, 3 => some .sltu
  | 0x00, 4 => some .xor
  | 0x00, 5 => some .srl
  | 0x00, 6 => some .or
  | 0x00, _ => some .and
  | 0x20, 0 => some .sub
  | 0x20, 4 => some .xnor
  | 0x20, 5 => some .sra
  | 0x20, 6 => some .orn
  | 0x20, 7 => some .andn
  | 0x01, 0 => some .mul
  | 0x01, 1 => some .mulh
  | 0x01, 2 => some .mulhsu
  | 0x01, 3 => some .mulhu
  | 0x01, 4 => some .div
  | 0x01, 5 => some .divu
  | 0x01, 6 => some .rem
  | 0x01, _ => some .remu
  | 0x05, 4 => some .min
  | 0x05, 5 => some .minu
  | 0x05, 6 => some .max
  | 0x05, 7 => some .maxu
  | 0x07, 5 => some .czeroEqz
  | 0x07, 7 => some .czeroNez
  | 0x10, 2 => some (.shadd 1)
  | 0x10, 4 => some (.shadd 2)
  | 0x10, 6 => some (.shadd 3)
  | 0x14, 1 => some .bset
  | 0x24, 1 => some .bclr
  | 0x24, 5 => some .bext
  | 0x30, 1 => some .rol
  | 0x30, 5 => some .ror
  | 0x34, 1 => some .binv
  | _, _ => none

/-- Operations on two registers of opcode 0x3B: the operation and whether it is of 32 bits. -/
def hostRegOp32 (f7 f3 rs2 : Nat) : Option (HostInt × Bool) :=
  match f7, f3 with
  | 0x00, 0 => some (.add, true)
  | 0x00, 1 => some (.sll, true)
  | 0x00, 5 => some (.srl, true)
  | 0x20, 0 => some (.sub, true)
  | 0x20, 5 => some (.sra, true)
  | 0x01, 0 => some (.mul, true)
  | 0x01, 4 => some (.div, true)
  | 0x01, 5 => some (.divu, true)
  | 0x01, 6 => some (.rem, true)
  | 0x01, 7 => some (.remu, true)
  | 0x04, 0 => some (.shaddUw 0, false)
  | 0x04, 4 => if rs2 = 0 then some (.zextH, false) else none
  | 0x10, 2 => some (.shaddUw 1, false)
  | 0x10, 4 => some (.shaddUw 2, false)
  | 0x10, 6 => some (.shaddUw 3, false)
  | 0x30, 1 => some (.rol, true)
  | 0x30, 5 => some (.ror, true)
  | _, _ => none

/-- The width and signedness of an integer of a conversion. -/
def hostIntOf (rs2 : Nat) : Option (Nat × Bool) :=
  match rs2 with
  | 0 => some (32, true)
  | 1 => some (32, false)
  | 2 => some (64, true)
  | 3 => some (64, false)
  | _ => none

/-- A floating-point operation of opcode 0x53 by funct5, format (0 single, 1 double, 2 half), rs2 and rm. Half precision has conversions and moves. -/
def hostFpOp (f5 fmt rs2 rm : Nat) : Option HostFp :=
  let full := decide (fmt < 2)
  if 3 ≤ fmt then none
  else match f5 with
  | 0x00 => if full then some .add else none
  | 0x01 => if full then some .sub else none
  | 0x02 => if full then some .mul else none
  | 0x03 => if full then some .div else none
  | 0x0B => if full ∧ rs2 = 0 then some .sqrt else none
  | 0x04 => if !full then none else match rm with | 0 => some .sgnj | 1 => some .sgnjn | 2 => some .sgnjx | _ => none
  | 0x05 => if !full then none else match rm with | 0 => some .min | 1 => some .max | 2 => some .minm | 3 => some .maxm | _ => none
  | 0x08 =>
    if rs2 = 4 ∧ full then some (.round false)
    else if rs2 = 5 ∧ full then some (.round true)
    else if rs2 < 3 ∧ rs2 ≠ fmt then some (.convert rs2) else none
  | 0x14 =>
    if !full then none
    else match rm with | 0 => some (.le false) | 1 => some (.lt false) | 2 => some .eq | 4 => some (.le true) | 5 => some (.lt true) | _ => none
  | 0x18 => if !full then none else if rs2 = 8 ∧ fmt = 1 ∧ rm = 1 then some .toMod else (hostIntOf rs2).map fun x => .toInt x.1 x.2
  | 0x1A => if full then (hostIntOf rs2).map fun x => .fromInt x.1 x.2 else none
  | 0x1C => if rs2 ≠ 0 then none else if rm = 0 then some .toX else if rm = 1 ∧ full then some .classify else none
  | 0x1E => if rm ≠ 0 then none else if rs2 = 0 then some .fromX else if rs2 = 1 ∧ full then some .const else none
  | _ => none

/-- The operation rounds, so that its rm names a rounding mode. -/
def HostFp.rounds : HostFp → Bool
  | .add | .sub | .mul | .div | .sqrt | .convert _ | .round _ | .toInt _ _ | .fromInt _ _ | .madd _ _ => true
  | _ => false

/-- An instruction of opcode SYSTEM. -/
def hostDecodeSystem (n : Nat) : HostInsn :=
  let rd := hostBits n 11 7
  let f3 := hostBits n 14 12
  let rs1 := hostBits n 19 15
  let rs2 := hostBits n 24 20
  let f7 := hostBits n 31 25
  if f3 = 0 then
    if rd ≠ 0 then .illegal
    else match hostBits n 31 20 with
      | 0 => .ecall
      | 1 => .ebreak
      | 0x102 => .sret
      | 0x302 => .mret
      | 0x105 | 0x00D | 0x01D => .idle
      | _ => if f7 = 0x09 ∨ f7 = 0x0B ∨ f7 = 0x0C then .fenceVma false else if [0x11, 0x31, 0x13, 0x33].contains f7 then .fenceVma true else .illegal
  else if f3 ≠ 4 then .csr f3 rd rs1 (hostBits n 31 20)
  else if hostBits n 31 31 = 1 ∧ hostBits n 29 28 = 0 ∧ (hostBits n 25 25 = 1 ∨ hostBits n 25 22 = 7) then .int .zero false rd rs1 none 0
  else
    let size := 2 ^ (f7 / 2 % 4)
    if f7 / 8 ≠ 6 then .illegal
    else if f7 % 2 = 1 then (if rd = 0 then .guestStore size rs2 rs1 else .illegal)
    else if rs2 = 0 ∨ (rs2 = 1 ∧ size < 8) then .guestLoad size (rs2 == 0) false rd rs1
    else if rs2 = 3 ∧ (size = 2 ∨ size = 4) then .guestLoad size false true rd rs1 else .illegal

/-- A vector instruction of opcode 0x57. -/
def hostDecodeVector (n : Nat) : HostInsn :=
  let rd := hostBits n 11 7
  let rs1 := hostBits n 19 15
  if hostBits n 14 12 ≠ 7 then .varith (hostBits n 14 12) (hostBits n 31 26) rd rs1 (hostBits n 24 20)
  else if hostBits n 31 31 = 0 then .vset rd (.inl rs1) (.inr (hostBits n 30 20))
  else if hostBits n 30 30 = 1 then .vset rd (.inr rs1) (.inr (hostBits n 29 20))
  else if hostBits n 29 25 = 0 then .vset rd (.inl rs1) (.inl (hostBits n 24 20))
  else .illegal

/-- A load or store of opcode 0x07 or 0x27: of an f register, or of vectors. -/
def hostDecodeFloatMemory (store : Bool) (n : Nat) : HostInsn :=
  let rd := hostBits n 11 7
  let f3 := hostBits n 14 12
  let rs1 := hostBits n 19 15
  let rs2 := hostBits n 24 20
  if 1 ≤ f3 ∧ f3 ≤ 3 then (if store then .store (2 ^ f3) (32 + rs2) rs1 (immS n) else .load (2 ^ f3) false (32 + rd) rs1 (immI n))
  else if f3 = 4 ∨ hostBits n 28 28 = 1 then .illegal
  else if hostBits n 27 26 = 0 ∧ !(rs2 = 0 ∨ rs2 = 8 ∨ (rs2 = 11 ∧ f3 = 0) ∨ (rs2 = 16 ∧ !store)) then .illegal
  else .vmem store rd rs1 rs2 (hostBits n 27 26) (hostBits n 31 29 + 1) (if f3 = 0 then 8 else 2 ^ (f3 - 1)) (hostBits n 25 25 == 0)

/-- A 32-bit instruction. -/
def hostDecode32 (n : Nat) : HostInsn :=
  let rd := hostBits n 11 7
  let f3 := hostBits n 14 12
  let rs1 := hostBits n 19 15
  let rs2 := hostBits n 24 20
  let f7 := hostBits n 31 25
  let fma := fun (p a : Bool) => if f7 % 4 < 2 then HostInsn.fp (.madd p a) (f7 % 4) f3 (32 + rd) (32 + rs1) (32 + rs2) (32 + f7 / 4) else .illegal
  match n % 128 with
  | 0x37 => .lui rd (immU n) false
  | 0x17 => .lui rd (immU n) true
  | 0x6F => .jal rd (immJ n)
  | 0x67 => if f3 = 0 then .jalr rd rs1 (immI n) else .illegal
  | 0x63 => if f3 = 2 ∨ f3 = 3 then .illegal else .branch f3 rs1 rs2 (immB n)
  | 0x13 => match hostImmOp n with | some (op, imm) => .int op false rd rs1 none imm | none => .illegal
  | 0x1B => match hostImmOp32 n with | some (op, short, imm) => .int op short rd rs1 none imm | none => .illegal
  | 0x33 => match hostRegOp f7 f3 with | some op => .int op false rd rs1 (some rs2) 0 | none => .illegal
  | 0x3B => match hostRegOp32 f7 f3 rs2 with | some (op, short) => .int op short rd rs1 (some rs2) 0 | none => .illegal
  | 0x03 => if f3 = 7 then .illegal else .load (2 ^ (f3 % 4)) (f3 / 4 == 0) rd rs1 (immI n)
  | 0x23 => if 4 ≤ f3 then .illegal else .store (2 ^ f3) rs2 rs1 (immS n)
  | 0x07 => hostDecodeFloatMemory false n
  | 0x27 => hostDecodeFloatMemory true n
  | 0x43 => fma false false
  | 0x47 => fma false true
  | 0x4B => fma true false
  | 0x4F => fma true true
  | 0x53 =>
    match hostFpOp (f7 / 4) (f7 % 4) rs2 f3 with
    | none => .illegal
    | some op =>
      let toX := match op with | .le _ | .lt _ | .eq | .toInt _ _ | .toMod | .toX | .classify => true | _ => false
      let fromX := match op with | .fromInt _ _ | .fromX => true | _ => false
      .fp op (f7 % 4) f3 (if toX then rd else 32 + rd) (if fromX then rs1 else 32 + rs1) (32 + rs2) (32 + rs2)
  | 0x57 => hostDecodeVector n
  | 0x2F =>
    let rl := hostBits n 25 25 == 1
    if f3 ≠ 2 ∧ f3 ≠ 3 then .illegal
    else match f7 / 4 with
      | 2 => if rs2 = 0 then .lr (2 ^ f3) rd rs1 rl else .illegal
      | 3 => .sc (2 ^ f3) rd rs1 rs2 rl
      | f5 => if [0, 1, 4, 5, 8, 12, 16, 20, 24, 28].contains f5 then .amo f5 (2 ^ f3) rd rs1 rs2 rl else .illegal
  | 0x0F =>
    if f3 = 0 then
      if hostBits n 23 20 = 0 then .idle
      else .fence (hostBits n 25 25 == 1 || hostBits n 27 27 == 1) (hostBits n 24 24 == 1 || hostBits n 26 26 == 1)
    else if f3 = 1 then .fence true true
    else if f3 = 2 ∧ rd = 0 ∧ hostBits n 31 20 ≤ 4 ∧ hostBits n 31 20 ≠ 3 then .block (hostBits n 31 20 == 4) rs1
    else .illegal
  | 0x73 => hostDecodeSystem n
  | _ => .illegal

/-- The instruction of a parcel, and its length. -/
def hostDecode (n : Nat) : HostInsn × Nat := if n % 4 = 3 then (hostDecode32 n, 4) else (hostDecode16 (n % 65536), 2)

/-- The registers that an instruction reads or writes: it waits for loads on their way to them. -/
def HostInsn.regs : HostInsn → List Nat
  | .lui rd _ _ | .jal rd _ => [rd]
  | .jalr rd rs1 _ => [rd, rs1]
  | .branch _ a b _ => [a, b]
  | .int _ _ rd a b _ => [rd, a, b.getD 0]
  | .load _ _ rd a _ | .guestLoad _ _ _ rd a => [rd, a]
  | .store _ b a _ | .guestStore _ b a => [a, b]
  | .fp _ _ _ rd a b c => [rd, a, b, c]
  | .lr _ rd a _ => [rd, a]
  | .sc _ rd a b _ | .amo _ _ rd a b _ => [rd, a, b]
  | .csr _ rd a _ => [rd, a]
  | .block _ a => [a]
  | .vset rd a t => rd :: ((match a with | .inl r => [r] | .inr _ => []) ++ match t with | .inl r => [r] | .inr _ => [])
  | .vmem _ _ a b mop _ _ _ => if mop = 2 then [a, b] else [a]
  | .varith _ _ d a _ => [d, a, 32 + d, 32 + a]
  | _ => []

/-- Integer arithmetic of a width of 64 or 32 bits; a result of 32 bits is extended by its sign. -/
def hostInt (op : HostInt) (short : Bool) (a b : Word) : Word :=
  let w := if short then 32 else 64
  let x := a.toNat % 2 ^ w
  let y := b.toNat % 2 ^ w
  let n := b.toNat % w
  let sx := signedOf w x
  let sy := signedOf w y
  let wrap := wrapTo w
  let r : Nat := match op with
    | .add => x + y
    | .sub => x + 2 ^ w - y
    | .sll => x * 2 ^ n
    | .slt => bit (decide (sx < sy))
    | .sltu => bit (decide (x < y))
    | .xor => x ^^^ y
    | .srl => x / 2 ^ n
    | .sra => wrap (sx / (2 ^ n : Nat))
    | .or => x ||| y
    | .and => x &&& y
    | .mul => x * y
    | .mulh => wrap (sx * sy / (2 ^ 64 : Nat))
    | .mulhsu => wrap (sx * y / (2 ^ 64 : Nat))
    | .mulhu => x * y / 2 ^ 64
    | .div => if y = 0 then 2 ^ w - 1 else wrap (Int.tdiv sx sy)
    | .divu => if y = 0 then 2 ^ w - 1 else x / y
    | .rem => if y = 0 then x else wrap (Int.tmod sx sy)
    | .remu => if y = 0 then x else x % y
    | .andn => x &&& (2 ^ w - 1 - y)
    | .orn => x ||| (2 ^ w - 1 - y)
    | .xnor => 2 ^ w - 1 - (x ^^^ y)
    | .clz => w - bitLen x
    | .ctz => if x = 0 then w else bitLen (x ^^^ (x - 1)) - 1
    | .cpop => ((List.range w).filter x.testBit).length
    | .min => if sx ≤ sy then x else y
    | .minu => min x y
    | .max => if sx ≤ sy then y else x
    | .maxu => max x y
    | .sextB => (sext 8 (x % 256)).toNat
    | .sextH => (sext 16 (x % 65536)).toNat
    | .zextH => x % 65536
    | .rol => x * 2 ^ n + x / 2 ^ (w - n)
    | .ror => x / 2 ^ n + x * 2 ^ (w - n)
    | .orcB => (List.range 8).foldl (fun m k => if x / 256 ^ k % 256 = 0 then m else m + 255 * 256 ^ k) 0
    | .rev8 => (List.range 8).foldl (fun m k => m + x / 256 ^ k % 256 * 256 ^ (7 - k)) 0
    | .shadd k => x * 2 ^ k + y
    | .shaddUw k => x % 2 ^ 32 * 2 ^ k + y
    | .sllUw => x % 2 ^ 32 * 2 ^ n
    | .bclr => if x.testBit n then x - 2 ^ n else x
    | .bext => bit (x.testBit n)
    | .binv => x ^^^ 2 ^ n
    | .bset => x ||| 2 ^ n
    | .czeroEqz => if y = 0 then 0 else x
    | .czeroNez => if y = 0 then x else 0
    | .zero => 0
  if short then sext 32 (r % 2 ^ 32) else word r

/-- The condition of a branch. -/
def hostBranch (f3 : Nat) (a b : Word) : Bool :=
  match f3 with
  | 0 => a == b
  | 1 => a != b
  | 4 => decide (signedOf 64 a.toNat < signedOf 64 b.toNat)
  | 5 => decide (signedOf 64 b.toNat ≤ signedOf 64 a.toNat)
  | 6 => decide (a.toNat < b.toNat)
  | _ => decide (b.toNat ≤ a.toNat)

/-- What an AMO does by its funct5; cas compares with rd. -/
def hostAmoOf (f5 : Nat) (rd : Word) : HostAmo :=
  match f5 with
  | 0 => .add
  | 1 => .swap
  | 4 => .xor
  | 8 => .or
  | 12 => .and
  | 16 => .min
  | 20 => .max
  | 24 => .minu
  | 28 => .maxu
  | _ => .cas rd

/-- The formats of a host core: single, double, half. -/
def hostFmt (fmt : Nat) : Fmt := match fmt with | 0 => .f32 | 1 => .f64 | _ => .f16

/-- The element of an f register; a value that is not boxed in the format is the quiet NaN (RISC-V F). -/
def hostElem (f : Fmt) (v : Word) : Nat :=
  if v.toNat / 2 ^ f.width = 2 ^ (64 - f.width) - 1 then v.toNat % 2 ^ f.width else f.nan

/-- An element boxed in an f register. -/
def hostBox (f : Fmt) (b : Nat) : Word := word (2 ^ 64 - 2 ^ f.width + b % 2 ^ f.width)

/-- A result rounded in a mode of RISC-V: of the five the last, to the nearest with ties away from zero, is one more bit taken towards zero and then
half added. -/
def hostRound (f : Fmt) (rm : Nat) (op : Fmt → Rnd → Nat × FFlags) : Nat × FFlags :=
  match rm with
  | 0 => op f .rne
  | 1 => op f .rtz
  | 2 => op f .rdn
  | 3 => op f .rup
  | _ =>
    let r := op { f with mb := f.mb + 1 } .rtz
    let b := (r.1 + 1) / 2
    let past := r.2.ovf || (r.2.nx || r.1 % 2 == 1) && b % 2 ^ (f.eb + f.mb) == f.infBits
    (b, { r.2 with nx := r.2.nx || r.1 % 2 == 1, ovf := past })

/-- A magnitude rounded to an integer in a mode of RISC-V, and whether it changed. -/
def hostIntegral (rm : Nat) (neg : Bool) (m : Nat) (e : Int) : Nat × Bool :=
  match rm with
  | 0 => integral .rne neg m e
  | 1 => integral .rtz neg m e
  | 2 => integral .rdn neg m e
  | 3 => integral .rup neg m e
  | _ => let r := integral .rtz neg m (e + 1); ((r.1 + 1) / 2, r.2 || r.1 % 2 == 1)

/-- A conversion to an integer: a NaN and what is too large give the largest, what is too small the smallest. -/
def hostToInt (w : Nat) (signed : Bool) (rm : Nat) (x : FV) : Nat × FFlags :=
  let lo : Int := if signed then -(2 ^ (w - 1) : Nat) else 0
  let hi : Int := if signed then (2 ^ (w - 1) : Nat) - 1 else (2 ^ w : Nat) - 1
  match x with
  | .nan _ => (wrapTo w hi, { nv := true })
  | .inf neg => (wrapTo w (if neg then lo else hi), { nv := true })
  | .fin neg m e =>
    if m = 0 then (0, {})
    else if 80 < e + bitLen m then (wrapTo w (if neg then lo else hi), { nv := true })
    else
      let r := hostIntegral rm neg m e
      let v := FV.signed neg r.1
      if v < lo then (wrapTo w lo, { nv := true }) else if hi < v then (wrapTo w hi, { nv := true }) else (wrapTo w v, { nx := r.2 })

/-- fcvtmod.w.d: the integer part modulo 2^32. -/
def hostToMod (x : FV) : Nat × FFlags :=
  match x with
  | .fin neg m e =>
    if 1200 < e then (0, { nv := true })
    else
      let r := integral .rtz neg m e
      let v := FV.signed neg r.1
      (wrapTo 32 v, if v < -(2 ^ 31 : Nat) ∨ (2 ^ 31 : Nat) ≤ v then { nv := true } else { nx := r.2 })
  | _ => (0, { nv := true })

/-- fround and froundnx. -/
def hostRint (f : Fmt) (rm : Nat) (exact : Bool) (x : FV) : Nat × FFlags :=
  match x with
  | .fin neg m e =>
    let r := hostIntegral rm neg m e
    (if r.1 = 0 then f.zero neg else (f.round .rne false neg r.1 0 false).1, { nx := exact && r.2 })
  | v => f.deliver .rne false v

/-- The constants of fli, m · 2^e, from number 2 on but for the last two. -/
def hostConsts : List (Nat × Int) :=
  [(1, -16), (1, -15), (1, -8), (1, -7), (1, -4), (1, -3), (1, -2), (5, -4), (3, -3), (7, -4), (1, -1), (5, -3), (3, -2), (7, -3), (1, 0), (5, -2), (3, -1),
   (7, -2), (1, 1), (5, -1), (3, 0), (1, 2), (1, 3), (1, 4), (1, 7), (1, 8), (1, 15), (1, 16)]

/-- fli: −1, the smallest normal number, the constants, infinity, the NaN. -/
def hostConst (f : Fmt) (n : Nat) : Nat :=
  if n = 0 then (f.round .rne false true 1 0 false).1
  else if n = 1 then 2 ^ f.mb
  else if n = 30 then f.inf false
  else match hostConsts[n - 2]? with
    | some (m, e) => (f.round .rne false false m e false).1
    | none => f.nan

/-- fmin and fmax: of a NaN and a number the number; fminm and fmaxm give the NaN. -/
def hostPick (f : Fmt) (isMax nan : Bool) (a b : Nat) : Nat × FFlags :=
  let x := f.decode a
  let y := f.decode b
  let fl : FFlags := { nv := x.snan || y.snan }
  if x.isNan && y.isNan || nan && (x.isNan || y.isNan) then (f.nan, fl)
  else if x.isNan then (b, fl)
  else if y.isNan then (a, fl)
  else f.pick isMax a b

/-- A comparison: its result, and whether it is invalid. -/
def hostCompare (quiet : Bool) (x y : FV) (r : Bool) : Nat × FFlags :=
  let nan := x.isNan || y.isNan
  (bit (!nan && r), { nv := if quiet then x.snan || y.snan else nan })

/-- A FLOATING-POINT OPERATION of a host core: its result as it stands in its register, and its flags. -/
def hostFp (op : HostFp) (fmt rm : Nat) (a b c : Word) (rs1 : Nat) : Word × FFlags :=
  let f := hostFmt fmt
  let p := hostElem f a
  let q := hostElem f b
  let x := f.decode p
  let y := f.decode q
  let z := f.decode (hostElem f c)
  let sign := fun (s : Nat) => p % 2 ^ (f.eb + f.mb) + s % 2 * 2 ^ (f.eb + f.mb)
  let top := fun (n : Nat) => n / 2 ^ (f.eb + f.mb) % 2
  let box := fun (r : Nat × FFlags) => (hostBox f r.1, r.2)
  let int := fun (w : Nat) (r : Nat × FFlags) => (sext w r.1, r.2)
  let low := fun (r : Nat × FFlags) => (word r.1, r.2)
  match op with
  | .add => box (hostRound f rm fun f r => f.deliver r false (x.add r y))
  | .sub => box (hostRound f rm fun f r => f.deliver r false (x.add r y.negate))
  | .mul => box (hostRound f rm fun f r => f.deliver r false (x.mul y))
  | .div => box (hostRound f rm fun f r => f.div r false x y)
  | .sqrt => box (hostRound f rm fun f r => f.sqrt r false x)
  | .madd np na =>
    let t := (x.mul y)
    box (hostRound f rm fun f r => f.deliver r false ((if np then t.negate else t).add r (if na then z.negate else z)))
  | .sgnj => box (sign (top q), {})
  | .sgnjn => box (sign (top q + 1), {})
  | .sgnjx => box (sign (top p + top q), {})
  | .min => box (hostPick f false false p q)
  | .max => box (hostPick f true false p q)
  | .minm => box (hostPick f false true p q)
  | .maxm => box (hostPick f true true p q)
  | .convert from' => let g := hostFmt from'; box (hostRound f rm fun f r => f.deliver r false (g.decode (hostElem g a)))
  | .round exact => box (hostRint f rm exact x)
  | .le quiet => low (hostCompare quiet x y (!y.lt false x))
  | .lt quiet => low (hostCompare quiet x y (x.lt false y))
  | .eq => low (hostCompare true x y (x.same y))
  | .toInt w signed => int w (hostToInt w signed rm x)
  | .toMod => int 32 (hostToMod x)
  | .fromInt w signed =>
    let v : Int := if signed then signedOf w a.toNat else (a.toNat % 2 ^ w : Nat)
    box (hostRound f rm fun f r => f.deliver r false (.fin (v < 0) v.natAbs 0))
  | .toX => (sext f.width a.toNat, {})
  | .fromX => (hostBox f a.toNat, {})
  | .classify => low (f.classify p, {})
  | .const => box (hostConst f rs1, {})

end Sys2Proof.Machine
end

