-- ==== Sys2Proof/Machine/HostCsr.lean ====
section
/-! DEFINITION. The host cores' threads, modes, control registers and exceptions (R292, R293, R300). What the RISC-V standard says and this manual does not
is marked in assumption 66. -/

namespace Sys2Proof.Machine

/-- A host core. -/
def State.hostCore (s : State) (host : Nat) : HostCore := SMap.get HostCore.reset s.hostCores host

/-- Change a host core. -/
def State.onHostCore (s : State) (host : Nat) (f : HostCore → HostCore) : State :=
  { s with hostCores := SMap.set HostCore.reset s.hostCores host (f (s.hostCore host)) }

/-- Replace a host thread, by its place in the hub's list. -/
def State.setHost (s : State) (i : Nat) (h : HostThread) : State := { s with hostThreads := s.hostThreads.set i h }

/-- A register: x0 to x31 as 0 to 31, f0 to f31 as 32 to 63; x0 reads zero (R295). -/
def HostThread.reg (h : HostThread) (n : Nat) : Word := if n = 0 then 0 else SMap.get 0 h.image n

/-- Write a register; x0 discards it (R295). -/
def HostThread.setReg (h : HostThread) (n : Nat) (v : Word) : HostThread :=
  if n = 0 then h else { h with image := SMap.set 0 h.image n v }

/-- The thread's name in its core's record of what it runs. -/
def HostThread.name (h : HostThread) : Nat × Nat × Nat := (h.launch, h.block, h.tid)

/-- A mode of user code; a mode of a virtual machine; a mode in which sstatus.SPP is 1. -/
def HostMode.isUser : HostMode → Bool
  | .user | .virtUser => true
  | _ => false
def HostMode.isVirt : HostMode → Bool
  | .virtUser | .virtSupervisor => true
  | _ => false
def HostMode.isSup : HostMode → Bool
  | .supervisor | .virtSupervisor => true
  | _ => false

/-- The mode of a privilege (0 user, 1 supervisor, 3 machine) and a virtualisation bit. -/
def HostMode.of (level : Nat) (virt : Bool) : HostMode :=
  match level, virt with
  | 0, false => .user
  | 0, true => .virtUser
  | 1, false => .supervisor
  | 1, true => .virtSupervisor
  | _, _ => .machine

/-- The privilege of a mode as MPP holds it. -/
def HostMode.level : HostMode → Nat
  | .user | .virtUser => 0
  | .supervisor | .virtSupervisor => 1
  | .machine => 3

/-- A control register that has no field of its own. -/
def HostCore.csr (c : HostCore) (n : Nat) : Word := SMap.get 0 c.csrs n

/-- Write one. -/
def HostCore.setCsr (c : HostCore) (n : Nat) (v : Word) : HostCore := { c with csrs := SMap.set 0 c.csrs n v }

/-- A word with one bit set or clear. -/
def withBit (w : Word) (n : Nat) (b : Bool) : Word := if b then w ||| word (2 ^ n) else w &&& ~~~word (2 ^ n)

/-- A status register (0x200 vsstatus, 0x300 mstatus) on the entry to a handler: the enable, at a bit, moves to its previous value, 4 bits up, and is
cleared; on the return from one it comes back. -/
def statusEnter (w : Word) (ie : Nat) : Word := withBit (withBit w (ie + 4) (Word.flag w ie)) ie false
def statusLeave (w : Word) (ie : Nat) : Word := withBit (withBit w ie (Word.flag w (ie + 4))) (ie + 4) true

/-- The mode in which a trap of a thread is taken: machine mode unless medeleg or mideleg hands it down, and from a virtual mode the virtual supervisor
where hedeleg or hideleg hands it further down. Bit 63 of the cause marks an interrupt. -/
def HostCore.destination (c : HostCore) (mode : HostMode) (cause : Nat) : HostMode :=
  let intr := 2 ^ 63 ≤ cause
  let code := cause % 64
  if mode = .machine ∨ !Word.flag (c.csr (if intr then 0x303 else 0x302)) code then .machine
  else if mode.isVirt && Word.flag (c.csr (if intr then 0x603 else 0x602)) code then .virtSupervisor
  else .supervisor

/-- The exceptions whose value is an address of the thread's own space. -/
def causeOfAddress (cause : Nat) : Bool := [0, 1, 3, 4, 5, 6, 7, 12, 13, 15, 20, 21, 23].contains cause

/-- Where a vector register leads: its base, and for an interrupt in vectored mode 4 bytes for each cause. -/
def vectorPc (tvec : Word) (cause : Nat) : Word :=
  word (tvec.toNat / 4 * 4 + if tvec.toNat % 4 = 1 ∧ 2 ^ 63 ≤ cause then 4 * (cause % 64) else 0)

/-- A HOST TRAP (R293, R299, R300): the mode that its destination gives takes it: the cause, the value, the pc and the mode are saved, interrupts are
disabled, and the pc goes to the vector. A fault of the second stage brings its guest physical address. -/
def State.hostTrap (s : State) (i cause : Nat) (tval epc : Word) (gpa : Nat := 0) : State :=
  match s.hostThreads[i]? with
  | none => s
  | some h =>
    let c := s.hostCore h.host
    let mode := c.destination h.mode cause
    let gva := h.mode.isVirt && causeOfAddress cause
    let enter := fun (pc : Word) (f : HostCore → HostCore) => (s.onHostCore h.host f).setHost i { h with mode := mode, pc := pc, first := none }
    match mode with
    | .machine =>
      enter (vectorPc c.mtvec cause) fun c =>
        { (c.setCsr 0x300 (withBit (statusEnter (c.csr 0x300) 3) 38 gva)).setCsr 0x34B (word (gpa / 4)) with
          mepc := epc, mcause := word cause, mtval := tval, mprev := h.mode }
    | .virtSupervisor =>
      let code := if 2 ^ 63 ≤ cause ∧ (cause % 64 = 2 ∨ cause % 64 = 6 ∨ cause % 64 = 10) then cause - 1 else cause
      enter (vectorPc (c.csr 0x205) code) fun c =>
        (((c.setCsr 0x200 (withBit (statusEnter (c.csr 0x200) 1) 8 h.mode.isSup)).setCsr 0x241 epc).setCsr 0x242 (word code)).setCsr 0x243 tval
    | _ =>
      enter (vectorPc c.stvec cause) fun c =>
        let hs := withBit (c.csr 0x600) 6 gva
        { ((c.setCsr 0x300 (statusEnter (c.csr 0x300) 1)).setCsr 0x600 (if h.mode.isVirt then withBit hs 8 h.mode.isSup else hs)).setCsr 0x643
            (word (gpa / 4)) with
          sepc := epc, scause := word cause, stval := tval, sprev := h.mode }

/-- An interrupt that would be taken in a mode may be taken now: from a lower mode always, from that mode while its status enables it. -/
def HostCore.admits (c : HostCore) (mode dest : HostMode) : Bool :=
  match dest with
  | .machine => mode != .machine || Word.flag (c.csr 0x300) 3
  | .virtSupervisor => mode == .virtUser || Word.flag (c.csr 0x200) 1
  | _ => mode != .supervisor || Word.flag (c.csr 0x300) 1

/-- A host core takes up a thread's context: system software, which schedules contexts, puts its translation into satp, or vsatp and hgatp. -/
def State.hostTake (s : State) (h : HostThread) : State :=
  if (s.hostCore h.host).running = some h.name then s
  else s.onHostCore h.host fun c =>
    let c := { c with running := some h.name }
    if h.mode.isVirt then { c with vsatp := h.xlate, hgatp := h.hgatp } else if h.mode = .machine then c else { c with satp := h.xlate }

/-- The place of the context that a host core runs. -/
def State.hostRunning (s : State) (host : Nat) : Option Nat :=
  match (s.hostCore host).running with
  | none => none
  | some n => s.hostThreads.findIdx? fun h => h.name == n && h.host == host && !h.away

/-- A context may be taken up: what the core runs is user code, has left, or is this context. -/
def State.hostFree (s : State) (h : HostThread) : Bool :=
  match (s.hostCore h.host).running with
  | none => true
  | some n => n == h.name || !(s.hostThreads.any fun o => o.name == n && o.host == h.host && !o.away && !o.mode.isUser)

/-- A write of satp, vsatp or hgatp (R292): one that selects a mode that is not implemented, Sv57 among them, leaves the register unchanged. -/
def atpWrite (modes : List Nat) (old v : Word) : Word := if modes.contains (Word.field v 63 60) then v else old

/-- The register that a number names: in a virtual mode the supervisor's numbers name the virtual supervisor's registers. -/
def csrNumber (virt : Bool) (n : Nat) : Nat :=
  if virt && [0x100, 0x104, 0x105, 0x140, 0x141, 0x142, 0x143, 0x144, 0x14D, 0x180].contains n then n + 0x100 else n

/-- The bits of mstatus: those that sstatus shows, and those that software writes. -/
def sstatusBits : Word := 0x80000003000DE762
def mstatusBits : Word := 0x40007E66AA
def hstatusBits : Word := 0x300000073F360

/-- mstatus: SPP, MPP and MPV stand in the modes of the last traps, SD is 1 while FS or VS is dirty. -/
def HostCore.mstatus (c : HostCore) : Word :=
  let w := withBit (withBit (c.csr 0x300) 8 c.sprev.isSup) 39 c.mprev.isVirt ||| word (2 ^ 11 * c.mprev.level)
  withBit w 63 (Word.field w 14 13 == 3 || Word.field w 10 9 == 3)

/-- Bits of a register replaced by those of a value. -/
def mixBits (bits old v : Word) : Word := (old &&& ~~~bits) ||| (v &&& bits)

/-- A write of mstatus; MPP keeps its value where the new one names no mode. -/
def HostCore.setMstatus (c : HostCore) (v : Word) : HostCore :=
  let level := if Word.field v 12 11 = 2 then c.mprev.level else Word.field v 12 11
  { c.setCsr 0x300 (mixBits mstatusBits (c.csr 0x300) v) with
    sprev := .of (bit (Word.flag v 8)) c.sprev.isVirt, mprev := .of level (Word.flag v 39) }

/-- The counters and the identities of a core, whose values the manual leaves open. -/
def csrOpen (n : Nat) : Bool := (0xC00 ≤ n ∧ n < 0xC20) || (0xB00 ≤ n ∧ n < 0xB20) || [0xF11, 0xF12, 0xF13, 0xF15].contains n

/-- The control registers of a host core: those of the standard's machine, supervisor and hypervisor modes, and user code's. -/
def csrKnown (n : Nat) : Bool :=
  [0x001, 0x002, 0x003, 0x008, 0x009, 0x00A, 0x00F, 0xC20, 0xC21, 0xC22, 0x100, 0x104, 0x105, 0x106, 0x10A, 0x140, 0x141, 0x142, 0x143, 0x144, 0x14D,
   0x180, 0xDA0, 0x200, 0x204, 0x205, 0x240, 0x241, 0x242, 0x243, 0x244, 0x24D, 0x280, 0x300, 0x301, 0x302, 0x303, 0x304, 0x305, 0x306, 0x30A, 0x340,
   0x341, 0x342, 0x343, 0x344, 0x34A, 0x34B, 0x320, 0x600, 0x602, 0x603, 0x604, 0x605, 0x606, 0x607, 0x60A, 0x643, 0x644, 0x645, 0x64A, 0x680, 0xE12,
   0xF14].contains n || (0x323 ≤ n ∧ n < 0x340) || csrOpen n

/-- READING a control register of a host core, by the number that it has. -/
def State.hostCsr (s : State) (h : HostThread) (n : Nat) : Word :=
  let c := s.hostCore h.host
  match n with
  | 0x001 => word (h.fcsr.toNat % 32)
  | 0x002 => word (h.fcsr.toNat / 32)
  | 0x003 => word h.fcsr.toNat
  | 0x008 => h.vec.vstart
  | 0x009 => word (bit h.vec.vxsat)
  | 0x00A => word h.vec.vxrm.toNat
  | 0x00F => word (h.vec.vxrm.toNat * 2 + bit h.vec.vxsat)
  | 0xC20 => h.vec.vl
  | 0xC21 => h.vec.vtype
  | 0xC22 => 32
  | 0x180 => c.satp
  | 0x280 => c.vsatp
  | 0x680 => c.hgatp
  | 0x100 => c.mstatus &&& sstatusBits
  | 0x104 => c.csr 0x304 &&& c.csr 0x303
  | 0x144 => c.csr 0x344 &&& c.csr 0x303
  | 0x105 => c.stvec
  | 0x141 => c.sepc
  | 0x142 => c.scause
  | 0x143 => c.stval
  | 0x200 => let w := c.csr 0x200; withBit w 63 (Word.field w 14 13 == 3 || Word.field w 10 9 == 3)
  | 0x300 => c.mstatus
  | 0x301 => 0x80000000003411AF
  | 0x305 => c.mtvec
  | 0x341 => c.mepc
  | 0x342 => c.mcause
  | 0x343 => c.mtval
  | 0x600 => withBit (c.csr 0x600) 7 c.sprev.isVirt
  | 0xF14 => word h.host
  | _ => if csrOpen n then s.free 60400 else c.csr n

/-- WRITING a control register of a host core. -/
def State.hostCsrWrite (s : State) (i : Nat) (h : HostThread) (n : Nat) (v : Word) : State :=
  let core := s.onHostCore h.host
  let xrm := fun (a : Nat) (b : Bool) => s.setHost i { h with vec := { h.vec with vxrm := BitVec.ofNat 2 a, vxsat := b } }
  match n with
  | 0x001 => s.setHost i { h with fcsr := BitVec.ofNat 8 (h.fcsr.toNat / 32 * 32 + v.toNat % 32) }
  | 0x002 => s.setHost i { h with fcsr := BitVec.ofNat 8 (v.toNat % 8 * 32 + h.fcsr.toNat % 32) }
  | 0x003 => s.setHost i { h with fcsr := BitVec.ofNat 8 v.toNat }
  | 0x008 => s.setHost i { h with vec := { h.vec with vstart := word (v.toNat % 256) } }
  | 0x009 => xrm h.vec.vxrm.toNat (Word.flag v 0)
  | 0x00A => xrm v.toNat h.vec.vxsat
  | 0x00F => xrm (v.toNat / 2) (Word.flag v 0)
  | 0x180 =>
    let x := atpWrite [0, 8, 9] (s.hostCore h.host).satp v
    (core fun c => { c with satp := x }).setHost i { h with xlate := x }
  | 0x280 =>
    let x := atpWrite [0, 8, 9] (s.hostCore h.host).vsatp v
    let t := core fun c => { c with vsatp := x }
    if h.mode.isVirt then t.setHost i { h with xlate := x } else t
  | 0x680 => core fun c => { c with hgatp := atpWrite [0, 9] c.hgatp v }
  | 0x100 => core fun c => c.setMstatus (mixBits sstatusBits c.mstatus v)
  | 0x104 => core fun c => c.setCsr 0x304 (mixBits (c.csr 0x303) (c.csr 0x304) v)
  | 0x144 => core fun c => c.setCsr 0x344 (mixBits (c.csr 0x303 &&& 2) (c.csr 0x344) v)
  | 0x105 => core fun c => { c with stvec := v }
  | 0x141 => core fun c => { c with sepc := word (v.toNat / 2 * 2) }
  | 0x142 => core fun c => { c with scause := v }
  | 0x143 => core fun c => { c with stval := v }
  | 0x200 => core fun c => c.setCsr 0x200 (mixBits 0xDE762 (c.csr 0x200) v)
  | 0x241 => core fun c => c.setCsr 0x241 (word (v.toNat / 2 * 2))
  | 0x300 => core fun c => c.setMstatus v
  | 0x301 => s
  | 0x302 => core fun c => c.setCsr 0x302 (v &&& 0xF0B7FF)
  | 0x305 => core fun c => { c with mtvec := v }
  | 0x341 => core fun c => { c with mepc := word (v.toNat / 2 * 2) }
  | 0x342 => core fun c => { c with mcause := v }
  | 0x343 => core fun c => { c with mtval := v }
  | 0x600 => core fun c =>
    { c.setCsr 0x600 (mixBits hstatusBits (c.csr 0x600) v) with sprev := .of c.sprev.level (Word.flag v 7) }
  | 0x602 => core fun c => c.setCsr 0x602 (v &&& 0xB1FF)
  | 0x603 => core fun c => c.setCsr 0x603 (v &&& 0x444)
  | _ => if csrOpen n then s else core fun c => c.setCsr n v

/-- A mode may name a control register: bits [9:8] of its number give the lowest privilege. -/
def HostMode.mayUse (m : HostMode) (n : Nat) : Bool :=
  match n / 256 % 4 with
  | 0 => true
  | 1 => !m.isUser
  | 2 => m == .supervisor || m == .machine
  | _ => m == .machine

/-- A status register switches a unit off in a mode: FS at bit 13, VS at bit 9. -/
def HostCore.unitOff (c : HostCore) (mode : HostMode) (at' : Nat) : Bool :=
  Word.field (c.csr 0x300) (at' + 1) at' == 0 || mode.isVirt && Word.field (c.csr 0x200) (at' + 1) at' == 0

/-- Traps that virtual memory's controls set in a mode: TVM and VTVM, the cause of the exception. -/
def HostCore.translationTrap (c : HostCore) (mode : HostMode) : Option Nat :=
  if mode = .supervisor ∧ Word.flag (c.csr 0x300) 20 then some 2
  else if mode = .virtSupervisor ∧ Word.flag (c.csr 0x600) 20 then some 22 else none

/-- Why an access to a control register is an exception, and its cause (R292): its number, the mode, a write of a read-only one, a unit that is off. -/
def HostCore.csrTrap (c : HostCore) (mode : HostMode) (n : Nat) (writes : Bool) : Option Nat :=
  if !csrKnown n ∨ (writes ∧ n / 1024 = 3) then some 2
  else if !mode.mayUse n then some (if mode.isVirt ∧ n / 256 % 4 ≤ 2 then 22 else 2)
  else if (1 ≤ n ∧ n ≤ 3 ∧ c.unitOff mode 13) ∨ ((n = 8 ∨ n = 9 ∨ n = 0xA ∨ n = 0xF ∨ (0xC20 ≤ n ∧ n ≤ 0xC22)) ∧ c.unitOff mode 9) then some 2
  else if n = 0x180 ∨ (n = 0x680 ∧ mode = .supervisor) then c.translationTrap mode
  else none

/-- A read or write of a control register (R292). -/
def State.hostCsrOp (s : State) (i : Nat) (h : HostThread) (f3 rd rs1 num : Nat) (insn : Nat) (next : Word) : State :=
  let writes := decide (f3 % 4 = 1 ∨ rs1 ≠ 0)
  match (s.hostCore h.host).csrTrap h.mode num writes with
  | some cause => s.hostTrap i cause (word insn) h.pc
  | none =>
    let n := csrNumber h.mode.isVirt num
    let old := s.hostCsr h n
    let v := if 4 ≤ f3 then word rs1 else h.reg rs1
    let new := match f3 % 4 with | 1 => v | 2 => old ||| v | _ => old &&& ~~~v
    let h1 := { h.setReg rd old with pc := next }
    let s1 := s.setHost i h1
    if writes then s1.hostCsrWrite i h1 n new else s1

/-- sret (R292): from the handler of a supervisor or of a virtual supervisor. -/
def State.hostSret (s : State) (i : Nat) (h : HostThread) (insn : Nat) : State :=
  let c := s.hostCore h.host
  if h.mode.isUser then s.hostTrap i (if h.mode.isVirt then 22 else 2) (word insn) h.pc
  else if h.mode = .virtSupervisor then
    if Word.flag (c.csr 0x600) 22 then s.hostTrap i 22 (word insn) h.pc
    else (s.onHostCore h.host fun c => c.setCsr 0x200 (withBit (statusLeave (c.csr 0x200) 1) 8 false)).setHost i
      { h with pc := c.csr 0x241, mode := .of (bit (Word.flag (c.csr 0x200) 8)) true }
  else if h.mode = .supervisor ∧ Word.flag (c.csr 0x300) 22 then s.hostTrap i 2 (word insn) h.pc
  else (s.onHostCore h.host fun c => { c.setCsr 0x300 (withBit (statusLeave (c.csr 0x300) 1) 17 false) with sprev := .user }).setHost i
    { h with pc := c.sepc, mode := c.sprev }

/-- mret (R292). -/
def State.hostMret (s : State) (i : Nat) (h : HostThread) (insn : Nat) : State :=
  let c := s.hostCore h.host
  if h.mode ≠ .machine then s.hostTrap i 2 (word insn) h.pc
  else
    let w := statusLeave (c.csr 0x300) 3
    (s.onHostCore h.host fun c => { c.setCsr 0x300 (if c.mprev = .machine then w else withBit w 17 false) with mprev := .user }).setHost i
      { h with pc := c.mepc, mode := c.mprev }

end Sys2Proof.Machine
end

