-- ==== Sys2Proof/Machine/HostMem.lean ====
section
/-! DEFINITION. The host cores' accesses: translation in one and two stages, fetch, loads, store buffers under RVWMO, LR, SC and the AMOs (R212, R213,
R264, R292 to R294). What the RISC-V standard says and this manual does not is marked in assumption 66. -/

namespace Sys2Proof.Machine

/-- A fault of a host access: its cause, the address, the guest physical address of a fault of the second stage, and the lines whose reads got an error
response. -/
structure HostFault where
  cause : Nat
  va : Word
  gpa : Nat := 0
  lines : List Nat := []
  deriving DecidableEq, Repr

/-- The trap of a fault. -/
def State.hostFaulted (s : State) (i : Nat) (h : HostThread) (f : HostFault) (epc : Word) : State :=
  (s.logReads 0 (hostRequester h.host) f.lines).hostTrap i f.cause f.va epc f.gpa

/-- What a walk meets: a page fault, a fault of the second stage at a guest physical address, an entry of the table that cannot be read. -/
inductive HostMiss where
  | page
  | guest (gpa : Nat)
  | access (line : Nat)
  deriving DecidableEq, Repr

/-- The causes of an access that fetches, loads, or stores or is an AMO. -/
def hostCause (acc : Access) (page guest access : Nat → Nat) (m : HostMiss) : Nat :=
  let k := match acc with | .fetch => 0 | .load => 1 | _ => 3
  match m with
  | .page => page k
  | .guest _ => guest k
  | .access _ => access k

/-- The fault of a miss: 12, 13, 15 of a page, 20, 21, 23 of the second stage, 1, 5, 7 of an access. -/
def HostMiss.fault (m : HostMiss) (acc : Access) (va : Word) : HostFault where
  cause := hostCause acc (12 + ·) (20 + ·) (fun k => if k = 3 then 7 else 1 + 4 * k) m
  va := va
  gpa := match m with | .guest g => g | _ => 0
  lines := match m with | .access l => [l] | _ => []

/-- A host walker reads an entry; one in poison, or behind an error response, is an access fault (R377, assumption 66). -/
def State.hostEntry (s : State) (pa : Nat) : Except HostMiss Word :=
  if s.poisoned 0 pa then .error (.access (lineOf pa)) else .ok (s.peekWord pa)

/-- The walk of the second stage (Sv48x4, R292), from a table, levels left; a host walker ignores bits [60:54] (R264). -/
def State.hostGuestFrom (s : State) (gpa : Nat) : Nat → Nat → Except HostMiss Leaf
  | 0, _ => .error (.guest gpa)
  | level + 1, table =>
    let at' := table + 8 * (gpa / 2 ^ (12 + 9 * level) % (if level = 3 then 2048 else 512))
    match s.hostEntry at' with
    | .error m => .error m
    | .ok e =>
      if !Pte.v e || Pte.malformed (Pte.plain e) level then .error (.guest gpa)
      else if Pte.leaf e then .ok { pte := e, level := level, at' := at' }
      else s.hostGuestFrom gpa level (Pte.ppn e * 4096)

/-- The second stage's leaf of a guest physical address. -/
def State.hostGuest (s : State) (hgatp : Word) (gpa : Nat) : Except HostMiss Leaf :=
  if 2 ^ 50 ≤ gpa then .error (.guest gpa) else s.hostGuestFrom gpa 4 (rootOf hgatp)

/-- The walk of the first stage, over the second where there is one (R292, R293). -/
def State.hostWalkFrom (s : State) (hgatp va : Word) : Nat → Nat → Except HostMiss Leaf
  | 0, _ => .error .page
  | level + 1, table =>
    let a := table + 8 * Word.field va (12 + 9 * level + 8) (12 + 9 * level)
    match (if hgatp = 0 then .ok a else (s.hostGuest hgatp a).map fun l => leafPa l.pte l.level (word a)) with
    | .error m => .error m
    | .ok at' =>
      match s.hostEntry at' with
      | .error m => .error m
      | .ok e =>
        if !Pte.v e || Pte.malformed (Pte.plain e) level then .error .page
        else if Pte.leaf e then
          let l : Leaf := { pte := e, level := level, at' := at' }
          if hgatp = 0 then .ok l else (s.hostGuest hgatp (leafPa e level va)).map fun g => l.over g va
        else s.hostWalkFrom hgatp va level (Pte.ppn e * 4096)

/-- Bits above the translated ones are all equal: of Sv39, or of Sv48. -/
def hostCanonical (satp va : Word) : Bool :=
  if levelsOf satp = 3 then Word.field va 63 38 == 0 || Word.field va 63 38 == 0x3FFFFFF else canonical va

/-- The mode with whose rights a thread's data accesses are made: MPRV gives machine mode those of the mode it came from. -/
def State.dataMode (s : State) (h : HostThread) : HostMode :=
  let c := s.hostCore h.host
  if h.mode = .machine ∧ Word.flag (c.csr 0x300) 17 then c.mprev else h.mode

/-- The satp and hgatp of a mode of a core (R292): none in machine mode, vsatp and hgatp in a virtual mode. -/
def HostCore.roots (c : HostCore) (mode : HostMode) : Word × Word :=
  if mode = .machine then (0, 0)
  else if mode.isVirt then (c.vsatp, if Word.field c.hgatp 63 60 = 0 then 0 else c.hgatp)
  else (c.satp, 0)

/-- The leaf of an address under a satp and an hgatp (R292); none where they translate nothing. -/
def State.hostLeaf (s : State) (roots : Word × Word) (va : Word) : Except HostMiss (Option Leaf) :=
  if Word.field roots.1 63 60 = 0 then
    if roots.2 = 0 then .ok none else (s.hostGuest roots.2 va.toNat).map some
  else if !hostCanonical roots.1 va then .error .page
  else (s.hostWalkFrom roots.2 va (levelsOf roots.1) (rootOf roots.1)).map some

/-- A leaf denies an access (R293): user code needs u, a supervisor its absence, or SUM for its data; a fetch needs x and the RV64 tag; a load needs r, or x
where MXR, or an instruction that loads code, admits it. -/
def hostDenies (e : Word) (acc : Access) (user sum mxr code : Bool) : Bool :=
  (if user then !Pte.u e else Pte.u e && (acc == .fetch || !sum)) || (acc == .fetch && !Pte.rv64 e)
  || (acc.reads && !(if code then Pte.x e else Pte.r e || (mxr && Pte.x e))) || (acc.writes && !Pte.w e)

/-- A leaf of the second stage denies an access (H): each is made as by user code. -/
def guestDenies (e : Word) (acc : Access) (mxr code : Bool) : Bool :=
  !Pte.u e || (acc == .fetch && !Pte.x e) || (acc.reads && !(if code then Pte.x e else Pte.r e || (mxr && Pte.x e))) || (acc.writes && !Pte.w e)

/-- What of a leaf denies an access of a mode: the first stage's entry, then the second's; an address that only the second stage maps has its tag
there. -/
def HostCore.denies (c : HostCore) (mode : HostMode) (l : Leaf) (va : Word) (acc : Access) (code : Bool) : Option HostMiss :=
  let st := c.csr (if mode.isVirt then 0x200 else 0x300)
  let sum := Word.flag st 18
  let mxr := Word.flag st 19
  let mxrAll := Word.flag (c.csr 0x300) 19
  match l.stage with
  | some (_, v) =>
    if hostDenies v acc mode.isUser sum (mxr || mxrAll) code then some .page
    else if guestDenies l.own acc mxrAll code then some (.guest (leafPa v l.stageLevel va)) else none
  | none =>
    if mode.isVirt then
      if guestDenies l.own acc mxrAll code || (acc == .fetch && !Pte.rv64 l.own) then some (.guest va.toNat) else none
    else if hostDenies l.own acc mode.isUser sum mxr code then some .page else none

/-- TRANSLATE an address on a host core with the rights of a mode (R292, R293): the physical address and the leaf, or the fault. -/
def State.hostPlaceAs (s : State) (h : HostThread) (mode : HostMode) (va : Word) (acc : Access) (code : Bool) :
    Except HostFault (State × Nat × Option Leaf) :=
  let c := s.hostCore h.host
  match s.hostLeaf (c.roots mode) va with
  | .error m => .error (m.fault acc va)
  | .ok none => .ok (s, va.toNat % 2 ^ 56, none)
  | .ok (some l) =>
    match c.denies mode l va acc code with
    | some m => .error (m.fault acc va)
    | none => .ok (s.markLeaf l acc.writes, leafPa l.pte l.level va, some l)

/-- Translate for a thread in its own mode. -/
def State.hostPlace (s : State) (h : HostThread) (va : Word) (acc : Access) : Except HostFault (State × Nat × Option Leaf) :=
  s.hostPlaceAs h (if acc = .fetch then h.mode else s.dataMode h) va acc false

/-- A Flidan page (R293, R300): its leaf, where a host thread's translation has one for an address. -/
def State.flidanLeaf (s : State) (h : HostThread) (va : Word) : Option Leaf :=
  match s.hostLeaf ((s.hostCore h.host).roots h.mode) va with
  | .ok (some l) => if Pte.isa l.pte == 1 then some l else none
  | _ => none

/-- The address of user code's data (Supm): its upper bits are ignored as senvcfg says. -/
def State.hostAddr (s : State) (h : HostThread) (va : Word) : Word :=
  if !h.mode.isUser then va
  else match Word.field ((s.hostCore h.host).csr 0x10A) 33 32 with
    | 2 => sext 57 va.toNat
    | 3 => sext 48 va.toNat
    | _ => va

/-- The bytes of a host access, translated; within one page at a time. -/
def State.hostBytes (s : State) (h : HostThread) (mode : HostMode) (va : Word) (n : Nat) (acc : Access) (code : Bool) :
    Except HostFault (State × List Nat) :=
  match s.hostPlaceAs h mode va acc code with
  | .error f => .error f
  | .ok (s, pa, _) =>
    let k := min n (4096 - va.toNat % 4096)
    let here := (List.range k).map (pa + ·)
    if k = n then .ok (s, here)
    else (s.hostPlaceAs h mode (va + word k) acc code).map fun r => (r.1, here ++ (List.range (n - k)).map (r.2.1 + ·))

/-- A host load sets out (R212). -/
def State.hostLoad (s : State) (i : Nat) (h : HostThread) (mode : HostMode) (size : Nat) (signed code : Bool) (dst : Nat) (va next : Word) : State :=
  match s.hostBytes h mode va size .load code with
  | .error f => s.hostFaulted i h f h.pc
  | .ok (s, pas) =>
    s.setHost i { h with pc := next, loads := h.loads ++ [{ dst := dst, pas := pas, signed := signed, issued := s.clock }] }

/-- The stores of one access, one for each line that it touches. -/
def hostStoreRuns (issued : Nat) (roots : Word × Word) : List (Nat × Word × Byte) → List HostStore
  | [] => []
  | (pa, va, b) :: rest =>
    let one : HostStore := { pa := pa, va := va, bytes := [b], roots := roots, issued := issued }
    match hostStoreRuns issued roots rest with
    | t :: ts => if t.pa = pa + 1 ∧ t.pa % 128 ≠ 0 then { t with pa := pa, va := va, bytes := b :: t.bytes } :: ts else one :: t :: ts
    | [] => [one]

/-- A host store enters the store buffer (R212). -/
def State.hostStore (s : State) (i : Nat) (h : HostThread) (mode : HostMode) (va : Word) (bytes : List Byte) (next : Word) : State :=
  match s.hostBytes h mode va bytes.length .store false with
  | .error f => s.hostFaulted i h f h.pc
  | .ok (s, pas) =>
    let vas := (List.range bytes.length).map fun k => va + word k
    s.setHost i { h with
      pc := next, stores := h.stores ++ hostStoreRuns s.clock ((s.hostCore h.host).roots mode) (pas.zip (vas.zip bytes)) }

/-- Two lists of addresses have one in common. -/
def sharesByte (a b : List Nat) : Bool := a.any b.contains

/-- The addresses of a store in a buffer. -/
def HostStore.pas (t : HostStore) : List Nat := (List.range t.bytes.length).map (t.pa + ·)

/-- A byte as a host load reads it: the latest older store of its own core's buffer, else the home (R212). -/
def State.hostByte (s : State) (h : HostThread) (issued pa : Nat) : Byte :=
  h.stores.foldl (fun b t => if t.issued < issued ∧ t.pa ≤ pa ∧ pa < t.pa + t.bytes.length then t.bytes.getD (pa - t.pa) 0 else b) (s.peek pa)

/-- The value of a loaded word in its register: extended, or boxed in an f register. -/
def HostLoad.value (l : HostLoad) (v : Nat) : Word :=
  let n := l.pas.length
  if 32 ≤ l.dst then word (2 ^ 64 - 2 ^ (8 * n) + v) else if l.signed then sext (8 * n) v else word v

/-- A host load is served (R212, R213 HR): after every older load of the same bytes; a poisoned line gives a free value. -/
def State.hostServe (s : State) (i j : Nat) : State :=
  match s.hostThreads[i]? with
  | none => s
  | some h =>
    match h.loads[j]? with
    | none => s
    | some l =>
      if (h.loads.take j).any fun o => sharesByte o.pas l.pas then s
      else
        let s1 := ((l.pas.map lineOf).dedup).foldl (fun s n => s.hostReads h.host n) s
        let v := if l.pas.any (s.poisoned 0) then s.free 60401 else l.value (leNat (l.pas.map (s.hostByte h l.issued)))
        s1.setHost i { h.setReg l.dst v with loads := h.loads.eraseIdx j }

/-- Where a buffered store goes now: its leaf may have come to name another frame; none while t is 1 in a leaf of either stage (R264, R275, R293). -/
def State.hostStorePa (s : State) (t : HostStore) : Option Nat :=
  match s.hostLeaf t.roots t.va with
  | .ok (some l) => if Pte.t l.pte then none else some (leafPa l.pte l.level t.va)
  | _ => some t.pa

/-- A line of the home is not ready for a host write (R213, R275). -/
def State.hostBlocked (s : State) (line : Nat) : Bool := s.inMove line || s.leased line

/-- A buffered store of a host core is performed (R212, R213 HW, R264): after every older load and store of its thread on its bytes. -/
def State.hostPerform (s : State) (i j : Nat) : State :=
  match s.hostThreads[i]? with
  | none => s
  | some h =>
    match h.stores[j]? with
    | none => s
    | some t =>
      if (h.loads.any fun l => l.issued < t.issued && sharesByte l.pas t.pas) || ((h.stores.take j).any fun o => sharesByte o.pas t.pas) then s
      else match s.hostStorePa t with
        | none => s
        | some pa =>
          let s1 := s.hostWrites h.host pa t.bytes
          if s.hostBlocked (lineOf pa) then s1 else s1.setHost i { h with stores := h.stores.eraseIdx j }

/-- Earlier accesses of a thread to some bytes have been performed; or all, before a release. -/
def HostThread.drained (h : HostThread) (rl : Bool) (pas : List Nat) : Bool :=
  if rl then h.loads.isEmpty && h.stores.isEmpty
  else !(h.loads.any fun l => sharesByte l.pas pas) && !(h.stores.any fun t => sharesByte t.pas pas)

/-- A leaf is in transit (R264). -/
def inTransit (l : Option Leaf) : Bool := match l with | some l => Pte.t l.pte | none => false

/-- LR, SC and the AMOs (R294): performed at the home in one step; a leaf in transit holds SC and the AMOs (R264). What an unreadable line holds is
free (R377, assumption 66). -/
def State.hostAtomic (s : State) (i : Nat) (h : HostThread) (size rd : Nat) (va : Word) (rl write : Bool) (next : Word)
    (act : State → Nat → Word → Option (Word × Option Word)) : State :=
  if va.toNat % size ≠ 0 then s.hostTrap i (if write then 6 else 4) va h.pc
  else match s.hostPlace h va (if write then .atomic else .load) with
    | .error f => s.hostFaulted i h f h.pc
    | .ok (s1, pa, l) =>
      let pas := (List.range size).map (pa + ·)
      if !h.drained rl pas then s
      else if write && inTransit l then s
      else
        let old := sext (8 * size) (leNat (s1.openList 0 pa size))
        match act s1 pa old with
        | none => s
        | some (v, none) => (s1.hostReads h.host (lineOf pa)).setHost i { h.setReg rd v with pc := next }
        | some (v, some w) =>
          if s1.hostBlocked (lineOf pa) then s1.hostWrites h.host pa []
          else
            ((s1.logReads 0 (hostRequester h.host) [lineOf pa]).hostWrites h.host pa (leBytes size (w.toNat % 2 ^ (8 * size)))).setHost i
              { h.setReg rd v with pc := next }

/-- The bytes of a parcel: an error response to a fetch is an access fault (R377, assumption 66). -/
def State.hostCode (s : State) (va : Word) (pa n : Nat) : Except HostFault Nat :=
  if s.poisoned 0 pa then .error { cause := 1, va := va, lines := [lineOf pa] } else .ok (leNat (s.peekList pa n))

/-- Where a parcel lies: under the leaf that a crossing carried, or translated. -/
def State.hostParcel (s : State) (h : HostThread) (va : Word) (carried : Option (Word × Nat)) : Except HostFault (State × Nat) :=
  match carried with
  | some (pte, level) => .ok (s, leafPa pte level va)
  | none => (s.hostPlace h va .fetch).map fun r => (r.1, r.2.1)

/-- A HOST FETCH (R293, R301): the instruction at the pc, its first parcel through the leaf that a crossing carried. -/
def State.hostFetch (s : State) (h : HostThread) : Except HostFault (State × Nat) :=
  match s.hostParcel h h.pc h.first with
  | .error f => .error f
  | .ok (s, pa) =>
    match s.hostCode h.pc pa 2 with
    | .error f => .error f
    | .ok low =>
      if low % 4 ≠ 3 then .ok (s, low)
      else match s.hostParcel h (h.pc + 2) (if h.pc.toNat % 4096 = 4094 then none else h.first) with
        | .error f => .error f
        | .ok (s, qa) => (s.hostCode (h.pc + 2) qa 2).map fun high => (s, low + 65536 * high)

end Sys2Proof.Machine
end

