-- ==== Sys2Proof/Machine/HostVec.lean ====
section
/-! DEFINITION. The vector unit of a host core (R292: a vector length of 256 bits): its configuration, its loads and stores, and, as free values, the
results of its arithmetic (assumption 66). -/

namespace Sys2Proof.Machine

/-- The element width of a vtype, and its group multiplier in eighths. -/
def vtypeSew (v : Word) : Nat := 8 * 2 ^ Word.field v 5 3
def vtypeLmul (v : Word) : Nat := if Word.field v 2 0 < 4 then 8 * 2 ^ Word.field v 2 0 else 2 ^ Word.field v 2 0 / 32

/-- A vtype is supported: elements of at most 64 bits, no reserved multiplier or bit, and an element that fits its group. -/
def vtypeOk (v : Word) : Bool :=
  decide (v.toNat < 256) && Word.field v 2 0 != 4 && decide (Word.field v 5 3 < 4) && decide (vtypeSew v ≤ 8 * vtypeLmul v)

/-- The elements of a group: VLMAX. -/
def vtypeMax (v : Word) : Nat := 32 * vtypeLmul v / vtypeSew v

/-- Element n of a width in the group that begins at a register. -/
def vecGet (m : SMap (BitVec 256)) (r w n : Nat) : Nat := (SMap.get 0 m (r + n * w / 256)).toNat / 2 ^ (n * w % 256) % 2 ^ w

/-- Write an element. -/
def vecSet (m : SMap (BitVec 256)) (r w n v : Nat) : SMap (BitVec 256) :=
  let k := r + n * w / 256
  let at' := n * w % 256
  let old := (SMap.get 0 m k).toNat
  SMap.set 0 m k (BitVec.ofNat 256 (old - old / 2 ^ at' % 2 ^ w * 2 ^ at' + v % 2 ^ w * 2 ^ at'))

/-- vsetvli, vsetivli, vsetvl. -/
def HostThread.vset (h : HostThread) (rd : Nat) (avl type : Nat ⊕ Nat) : HostThread :=
  let t := match type with | .inl r => h.reg r | .inr k => word k
  let n := match avl with | .inr k => k | .inl 0 => if rd ≠ 0 then 2 ^ 64 - 1 else h.vec.vl.toNat | .inl r => (h.reg r).toNat
  let vl := if vtypeOk t then word (min n (vtypeMax t)) else 0
  { h.setReg rd vl with vec := { h.vec with vl := vl, vtype := if vtypeOk t then t else 0x8000000000000000, vstart := 0 } }

/-- The bytes of one element; a device page takes no vector access. -/
def State.hostVbytes (s : State) (h : HostThread) (store : Bool) (va : Word) (n : Nat) : Except HostFault (State × List Nat) :=
  match s.hostBytes h (s.dataMode h) va n (if store then .store else .load) false with
  | .error f => .error f
  | .ok (t, pas) => if pas.any fun p => (s.ioPage p).isSome then .error { cause := if store then 7 else 5, va := va } else .ok (t, pas)

/-- The elements of a vector load or store, in order: the element's number, the register of its field, its address. Where there is an element that
cannot be accessed, the instruction traps there, its vstart naming the element; a load of the fault-only-first kind ends before it. -/
def State.hostVrun (s : State) (i : Nat) (h : HostThread) (store first : Bool) (w : Nat) (next : Word) : List (Nat × Nat × Word) → State
  | [] => s.setHost i { h with pc := next, vec := { h.vec with vstart := 0 } }
  | (n, r, va) :: rest =>
    match s.hostVbytes h store va (w / 8) with
    | .error f =>
      if first && n != 0 then s.setHost i { h with pc := next, vec := { h.vec with vl := word n, vstart := 0 } }
      else (s.setHost i { h with vec := { h.vec with vstart := word n } }).hostFaulted i h f h.pc
    | .ok (t, pas) =>
      if store then
        let bytes := leBytes (w / 8) (vecGet h.vec.v r w n)
        let runs := hostStoreRuns t.clock ((t.hostCore h.host).roots (t.dataMode h)) (pas.zip (((List.range (w / 8)).map fun k => va + word k).zip bytes))
        t.hostVrun i { h with stores := h.stores ++ runs } store first w next rest
      else
        let v := if pas.any (t.poisoned 0) then (t.free 60401).toNat else leNat (pas.map (t.hostByte h (t.clock + 1)))
        ((pas.map lineOf).dedup.foldl (fun t l => t.hostReads h.host l) t).hostVrun i { h with vec := { h.vec with v := vecSet h.vec.v r w n v } }
          store first w next rest

/-- A VECTOR LOAD OR STORE: unit-stride, strided and indexed, of fields, of whole registers and of masks. -/
def State.hostVmem (s : State) (i : Nat) (h : HostThread) (insn : Nat) (store : Bool) (vd rs1 rs2 mop nf width : Nat) (masked : Bool) (next : Word) : State :=
  let t := h.vec.vtype
  let whole := decide (mop = 0 ∧ rs2 = 8)
  let bits := decide (mop = 0 ∧ rs2 = 11)
  let indexed := mop % 2 == 1
  let w := if indexed then vtypeSew t else width
  let index := width * vtypeLmul t / vtypeSew t
  let emul := if whole then 8 * nf else if bits then 8 else if indexed then vtypeLmul t else index
  let fields := if whole then 1 else nf
  let regs := max 1 (emul / 8)
  let bad := (!whole && Word.flag t 63) || (s.hostCore h.host).unitOff h.mode 9 || emul == 0 || decide (64 < emul) || vd % regs != 0
    || decide (32 < vd + fields * regs) || decide (8 < fields * regs) || (masked && !store && vd == 0)
    || (indexed && (index == 0 || decide (64 < index) || rs2 % max 1 (index / 8) != 0))
    || (whole && (!([1, 2, 4, 8].contains nf) || masked)) || (bits && (nf != 1 || masked))
  if bad then s.hostTrap i 2 (word insn) h.pc
  else if !h.loads.isEmpty then s
  else
    let vl := if whole then nf * 256 / width else if bits then (h.vec.vl.toNat + 7) / 8 else h.vec.vl.toNat
    let place := fun (n k : Nat) => match mop with
      | 0 => word ((n * fields + k) * w / 8)
      | 2 => word (n * (h.reg rs2).toNat + k * w / 8)
      | _ => word (vecGet h.vec.v rs2 width n + k * w / 8)
    let active := (List.range vl).filter fun n => decide (h.vec.vstart.toNat ≤ n) && (!masked || vecGet h.vec.v 0 1 n == 1)
    s.hostVrun i h store (mop == 0 && rs2 == 16) w next
      (active.flatMap fun n => (List.range fields).map fun k => (n, vd + k * regs, s.hostAddr h (h.reg rs1 + place n k)))

/-- VECTOR ARITHMETIC: moves of whole registers and of element 0 are as the standard says; of every other instruction the registers that it may write
become free values. -/
def State.hostVarith (s : State) (i : Nat) (h : HostThread) (insn f3 f6 vd rs1 vs2 : Nat) (next : Word) : State :=
  let t := h.vec.vtype
  let fp := f3 == 1 || f3 == 5
  let c := s.hostCore h.host
  if c.unitOff h.mode 9 || Word.flag t 63 || fp && c.unitOff h.mode 13 then s.hostTrap i 2 (word insn) h.pc
  else if !h.loads.isEmpty then s
  else
    let w := vtypeSew t
    let done := fun (h : HostThread) => s.setHost i { h with pc := next, vec := { h.vec with vstart := 0 } }
    let group := fun (n : Nat) (f : Nat → BitVec 256) =>
      { h.vec with v := (List.range n).foldl (fun m k => if vd + k < 32 then SMap.set 0 m (vd + k) (f k) else m) h.vec.v }
    if f3 = 3 ∧ f6 = 0x27 then done { h with vec := group (rs1 + 1) fun k => SMap.get 0 h.vec.v (vs2 + k) }
    else if f3 = 2 ∧ f6 = 0x10 then done (h.setReg vd (if rs1 = 0 then sext w (vecGet h.vec.v vs2 w 0) else s.free 60402))
    else if f3 = 1 ∧ f6 = 0x10 then done (h.setReg (32 + vd) (word (2 ^ 64 - 2 ^ w + vecGet h.vec.v vs2 w 0)))
    else
      let free := fun (k : Nat) => BitVec.ofNat 256 ((List.range 4).foldl (fun a j => a * 2 ^ 64 + (s.free (60480 + 4 * k + j)).toNat) 0)
      done { h with
        vec := { group (2 * max 1 (vtypeLmul t / 8)) free with vxsat := h.vec.vxsat || !fp && s.freeBool 60403 }
        fcsr := if fp then h.fcsr ||| BitVec.ofNat 8 ((s.free 60404).toNat % 32) else h.fcsr }

end Sys2Proof.Machine
end

