-- ==== Sys2Proof/Machine/HostCore.lean ====
section
/-! DEFINITION. What a host thread does (R292, R293, R297 to R300): its instructions, its interrupts, and the jump that begins a crossing. What the RISC-V
standard says and this manual does not is marked in assumption 66. -/

namespace Sys2Proof.Machine

/-- The kind of a crossing by a jal or jalr (R298). -/
def hostKind (rd : Nat) (rs1 : Option Nat) : CrossKind := if rd ≠ 0 then .call else if rs1 = some 1 then .return else .jump

/-- The record of a crossing towards the device (R298, R299): kept by the hub for a thread of a launch, else written to its ring through the
thread's own translation; its fault is a page fault, 15, or an access fault, 7. None: the store must wait (R264, R213). -/
def State.hostRecord (s : State) (i : Nat) (h : HostThread) (bytes : List Byte) : Except HostFault (Option State) :=
  if h.launch ≠ 0 then .ok (some (s.setHost i { h with kept := h.kept ++ [bytes], records := h.records + 1 }))
  else match s.hostPlace h h.recordAt .store with
    | .error f => .error { f with cause := if f.cause = 7 then 7 else 15 }
    | .ok (s, pa, l) =>
      if inTransit l then .ok none
      else match (linesOf pa 512).find? s.hostBlocked with
        | some n => .ok (some (s.hostWrites h.host (n * 128) []))
        | none =>
          .ok (some (((List.range 4).foldl (fun s n => s.hostWrites h.host (pa + 128 * n) ((bytes.drop (128 * n)).take 128)) s).setHost i
            { h with records := h.records + 1 }))

/-- A thread leaves a host core for the device (R297, R299): the crossing carries its registers and the leaf of its target; the hub marks its
context away. -/
def State.hostDepart (s : State) (i : Nat) (h : HostThread) (kind : CrossKind) (target : Word) (l : Leaf) : State :=
  let c : Crossing :=
    { toDevice := true, kind := kind, launch := h.launch, block := h.block, tid := h.tid, xlate := h.xlate, target := target,
      image := SMap.setList 0 [] 1 (SMap.getList 0 h.image 1 63), fcsr := h.fcsr, host := h.host, gangIdx := h.gangIdx, pte := l.pte, level := l.level,
      issued := s.clock, stepping := h.stepping, held := s.hub.ccRunning && s.hub.ccAsid.toNat == asidOf h.xlate }
  let s1 := { s with
    crossings := s.crossings ++ [c]
    guests := if h.mode.isVirt then SMap.set 0 s.guests (asidOf h.xlate) h.hgatp else s.guests }
  (s1.setHost i { h with away := true, stepping := false }).onHostCore h.host fun c => { c with running := none, reserved := none }

/-- A JUMP of a host thread (R293, R300): to a Flidan page, at a multiple of 4, where the page is executable, from user code of a registered thread or of a
launch, it is a crossing, once the thread's accesses have been performed (R297). A fault on translating any other target is that of its fetch. -/
def State.hostJump (s : State) (i : Nat) (h : HostThread) (rd : Nat) (kind : CrossKind) (target link : Word) : State :=
  match s.flidanLeaf h target with
  | none => s.setHost i { h.setReg rd link with pc := target }
  | some l =>
    if target.toNat % 4 ≠ 0 then s.hostTrap i 0 target h.pc
    else if !Pte.x l.pte || !h.mode.isUser || !Pte.u l.pte then (s.setHost i (h.setReg rd link)).hostTrap i 12 target target
    else if h.launch = 0 ∧ !h.registered then (s.setHost i (h.setReg rd link)).hostTrap i 1 target target
    else if !h.drained true [] then s
    else
      let h1 := h.setReg rd link
      match s.hostRecord i h1 (recordOf (recordHeader kind 1 h.fcsr target) h1.image) with
      | .error f => s.hostFaulted i h f h.pc
      | .ok none => s
      | .ok (some s1) =>
        match s1.hostThreads[i]? with
        | some h2 => if h2.records = h.records then s1 else (s1.markLeaf l false).hostDepart i h2 kind target l
        | none => s1

/-- A FLOATING-POINT INSTRUCTION: it needs its unit, and a rounding mode that exists. -/
def State.hostFloat (s : State) (i : Nat) (h : HostThread) (insn : Nat) (op : HostFp) (fmt rm rd a b c : Nat) (next : Word) : State :=
  let mode := if op.rounds ∧ rm = 7 then h.fcsr.toNat / 32 else rm
  if (s.hostCore h.host).unitOff h.mode 13 || op.rounds && decide (4 < mode) then s.hostTrap i 2 (word insn) h.pc
  else
    let r := hostFp op fmt mode (h.reg a) (h.reg b) (h.reg c) (a - 32)
    s.setHost i { h.setReg rd r.1 with pc := next, fcsr := h.fcsr ||| r.2.bits.setWidth 8 }

/-- The environment's controls admit an instruction that a bit of menvcfg, henvcfg and senvcfg enables, or the cause of its exception. -/
def HostCore.envTrap (c : HostCore) (mode : HostMode) (at' : Nat) : Option Nat :=
  if mode ≠ .machine ∧ !Word.flag (c.csr 0x30A) at' then some 2
  else if mode.isVirt ∧ !Word.flag (c.csr 0x60A) at' then some 22
  else if mode.isUser ∧ !Word.flag (c.csr 0x10A) at' then some (if mode.isVirt then 22 else 2)
  else none

/-- A CACHE-BLOCK INSTRUCTION: cbo.zero stores 64 zero bytes; what the others do no coherent access sees. -/
def State.hostBlock (s : State) (i : Nat) (h : HostThread) (insn : Nat) (zero : Bool) (a : Nat) (next : Word) : State :=
  let va := word ((s.hostAddr h (h.reg a)).toNat / 64 * 64)
  match (s.hostCore h.host).envTrap h.mode (if zero then 7 else 6) with
  | some cause => s.hostTrap i cause (word insn) h.pc
  | none =>
    if zero then s.hostStore i h (s.dataMode h) va (List.replicate 64 0) next
    else match s.hostPlace h va .load with
      | .error _ => match s.hostPlace h va .store with
        | .error f => s.hostFaulted i h f h.pc
        | .ok (s, _) => s.setHost i { h with pc := next }
      | .ok (s, _) => s.setHost i { h with pc := next }

/-- hlv, hlvx and hsv: an access with the rights of the virtual machine's mode in SPVP, or the cause of their exception. -/
def HostCore.guestTrap (c : HostCore) (mode : HostMode) : Option Nat :=
  if mode.isVirt then some 22 else if mode = .user ∧ !Word.flag (c.csr 0x600) 9 then some 2 else none

/-- The fences of virtual memory: no translation of a host core outlives its instruction, so that they only go on where the mode admits them. -/
def HostCore.fenceTrap (c : HostCore) (mode : HostMode) (hyp : Bool) : Option Nat :=
  if mode.isUser then some (if mode.isVirt then 22 else 2)
  else if hyp ∧ mode.isVirt then some 22
  else if hyp then none else c.translationTrap mode

/-- A load or store names a register of a unit that is off. -/
def HostCore.floatOff (c : HostCore) (mode : HostMode) (r : Nat) : Bool := decide (32 ≤ r) && c.unitOff mode 13

/-- The meaning of an instruction of a host thread. -/
def State.hostExec (s : State) (i : Nat) (h : HostThread) (insn : Nat) (x : HostInsn) (len : Nat) : State :=
  let next := h.pc + word len
  let go := fun (h : HostThread) => s.setHost i { h with pc := next }
  let c := s.hostCore h.host
  let illegal := s.hostTrap i 2 (word insn) h.pc
  let guard := fun (t : Option Nat) (k : State) => match t with | some cause => s.hostTrap i cause (word insn) h.pc | none => k
  let guest := HostMode.of (bit (Word.flag (c.csr 0x600) 8)) true
  if h.loads.any fun l => l.dst ≠ 0 && x.regs.contains l.dst then s
  else match x with
    | .lui rd v pc => go (h.setReg rd (if pc then h.pc + v else v))
    | .jal rd off => s.hostJump i h rd (hostKind rd none) (h.pc + off) next
    | .jalr rd rs1 off => s.hostJump i h rd (hostKind rd (some rs1)) (word ((h.reg rs1 + off).toNat / 2 * 2)) next
    | .branch f3 a b off => if hostBranch f3 (h.reg a) (h.reg b) then s.setHost i { h with pc := h.pc + off } else go h
    | .int op short rd a b imm => go (h.setReg rd (hostInt op short (h.reg a) (match b with | some b => h.reg b | none => imm)))
    | .load size signed rd a off =>
      if c.floatOff h.mode rd then illegal else s.hostLoad i h (s.dataMode h) size signed false rd (s.hostAddr h (h.reg a + off)) next
    | .store size b a off =>
      if c.floatOff h.mode b then illegal
      else s.hostStore i h (s.dataMode h) (s.hostAddr h (h.reg a + off)) (leBytes size ((h.reg b).toNat % 2 ^ (8 * size))) next
    | .fp op fmt rm rd a b d => s.hostFloat i h insn op fmt rm rd a b d next
    | .lr size rd a rl =>
      let va := s.hostAddr h (h.reg a)
      let t := s.hostAtomic i h size rd va rl false next fun _ _ old => some (old, none)
      match s.hostPlace h va .load with
      | .ok (_, pa, _) => if (t.hostThreads[i]?.map (·.pc)) = some next then t.onHostCore h.host fun c => { c with reserved := some (lineOf pa) } else t
      | .error _ => t
    | .sc size rd a b rl =>
      let t := s.hostAtomic i h size rd (s.hostAddr h (h.reg a)) rl true next fun _ pa _ =>
        if c.reserved = some (lineOf pa) then some (0, some (h.reg b)) else some (1, none)
      if (t.hostThreads[i]?.map (·.pc)) = some next then t.onHostCore h.host fun c => { c with reserved := none } else t
    | .amo f5 size rd a b rl =>
      s.hostAtomic i h size rd (s.hostAddr h (h.reg a)) rl true next fun _ _ old =>
        some (old, some (word (HostAmo.result (hostAmoOf f5 (h.reg rd)) (8 * size) (old.toNat % 2 ^ (8 * size)) ((h.reg b).toNat % 2 ^ (8 * size)))))
    | .fence pr pw => if (pr && !h.loads.isEmpty) || (pw && !h.stores.isEmpty) then s else go h
    | .csr f3 rd rs1 num => s.hostCsrOp i h f3 rd rs1 num insn next
    | .ecall =>
      s.hostTrap i (match h.mode with | .user | .virtUser => 8 | .supervisor => 9 | .virtSupervisor => 10 | .machine => 11) 0 h.pc
    | .ebreak => s.hostTrap i 3 h.pc h.pc
    | .sret => s.hostSret i h insn
    | .mret => s.hostMret i h insn
    | .idle => go h
    | .fenceVma hyp => guard (c.fenceTrap h.mode hyp) (go h)
    | .block zero a => s.hostBlock i h insn zero a next
    | .guestLoad size signed code rd a => guard (c.guestTrap h.mode) (s.hostLoad i h guest size signed code rd (h.reg a) next)
    | .guestStore size b a => guard (c.guestTrap h.mode) (s.hostStore i h guest (h.reg a) (leBytes size ((h.reg b).toNat % 2 ^ (8 * size))) next)
    | .vset rd avl type => if c.unitOff h.mode 9 then illegal else go (h.vset rd avl type)
    | .vmem store vd a b mop nf width masked => s.hostVmem i h insn store vd a b mop nf width masked next
    | .varith f3 f6 vd a b => s.hostVarith i h insn f3 f6 vd a b next
    | .illegal => illegal

/-- A host thread that can execute: it is on a core that may run its context, and is not stopped. -/
def State.hostReady (s : State) (h : HostThread) : Bool := !h.away && !h.stopped && s.hostFree h

/-- ONE INSTRUCTION of a host thread, or its exception. A stepped thread stops after it (R124). -/
def State.hostIssue (s : State) (i : Nat) : State :=
  match s.hostThreads[i]? with
  | none => s
  | some h =>
    if !s.hostReady h then s
    else
      let s0 := s.hostTake h
      let s1 := match s0.hostFetch h with
        | .error f => s0.hostFaulted i h f h.pc
        | .ok (s1, n) =>
          let h1 := { h with first := none }
          (s1.setHost i h1).hostExec i h1 n (hostDecode n).1 (hostDecode n).2
      match s1.hostThreads[i]? with
      | some h1 => if h.stepping && !h1.away && h1.pc != h.pc then s1.setHost i { h1 with stopped := true, stepping := false } else s1
      | none => s1

/-- The interrupt of a thread that its core may take now (R296): the oldest that is aimed at it. -/
def State.hostInterrupt (s : State) (i : Nat) : Option State :=
  match s.hostThreads[i]? with
  | none => none
  | some h =>
    match h.pending with
    | [] => none
    | p :: ps =>
      let c := s.hostCore h.host
      if s.hostReady h && c.admits h.mode (c.destination h.mode p.toNat) then
        some (((s.setHost i { h with pending := ps }).hostTake h).hostTrap i p.toNat 0 h.pc)
      else none

/-- A STEP of a host thread: an interrupt that is aimed at it (R296), or an instruction. -/
def State.hostStep (s : State) (i : Nat) : State := (s.hostInterrupt i).getD (s.hostIssue i)

/-- An interrupt or signal is aimed at a thread (R296): its cause is a free value. One that comes while the thread is on a device core waits in its
context. -/
def State.hostSignal (s : State) (i : Nat) : State :=
  match s.hostThreads[i]? with
  | none => s
  | some h => s.setHost i { h with pending := h.pending ++ [word (2 ^ 63 + (s.free 60405).toNat % 64)] }

/-- The jump that an instruction of a host thread makes: its kind (R298) and its target. -/
def HostThread.jumpOf (h : HostThread) : HostInsn → Option (CrossKind × Word)
  | .jal rd off => some (hostKind rd none, h.pc + off)
  | .jalr rd rs1 off => some (hostKind rd (some rs1), word ((h.reg rs1 + off).toNat / 2 * 2))
  | _ => none

/-- HOST_JALR_CROSSING (R300): a host thread, by its place in the hub's list, executes a jal or jalr. The step names the jump's kind and target, the
registers x1 to x31 and f0 to f31 and fcsr; it happens where these are what the thread's instruction and its registers give. -/
def State.hostJalr (s : State) (host i : Nat) (kind : CrossKind) (target : Word) (image : List Word) (fcsr : BitVec 8) : State :=
  match s.hostThreads[i]? with
  | none => s
  | some h =>
    if h.host ≠ host ∨ !s.hostReady h ∨ image ≠ SMap.getList 0 h.image 1 63 ∨ fcsr ≠ h.fcsr then s
    else match (s.hostTake h).hostFetch h with
      | .error _ => s
      | .ok (_, n) => if h.jumpOf (hostDecode n).1 = some (kind, target) then s.hostIssue i else s

/-- HOST_JALR_CROSSING (R300). -/
def execHostJalrCrossing (host thread : Nat) (kind : CrossKind) (target : Word) (image : List Word) (fcsr : BitVec 8) (s : State) :
    Host.Outcome State Fault Refusal := .next (s.hostJalr host thread kind target image fcsr)

end Sys2Proof.Machine
end

