-- ==== Sys2Proof/Machine/Crossings.lean ====
section
/-! DEFINITION. Crossings between host cores and device cores (R293 to R301), and the registration of host threads (R299). -/

namespace Sys2Proof.Machine

/-- The register-bank rows in use in a partition: one row of 256 bytes holds one d register of a gang (R24, R322). -/
def State.rowsUsed (s : State) (part : Nat) : Nat :=
  s.gangs.foldl (fun n g => if partOf g.key = part then n + g.allot else n)
    (s.saved.foldl (fun n v => match v.slot with | some k => if partOf k = part then n + v.allot else n | none => n) 0)

/-- The rows of a partition's register bank. -/
def bankRows : Nat := Config.bankBytes / 256

/-- A partition is being cleared, or has yet to be (R373, R378). -/
def State.partClearing (s : State) (part : Nat) : Bool := s.checked.contains part || s.clearing.any fun c => c.partition == part

/-- A crossing gang fits a slot: it is free, its partition has 64 rows, is of world 0, as a thread that comes from a host core is, and is not being
cleared (R296, R374). -/
def State.slotFits (s : State) (key : Nat) : Bool :=
  !s.resident key && !(s.saved.any fun v => v.slot == some key) && decide (s.rowsUsed (partOf key) + 64 ≤ bankRows) && s.worldOf (partOf key) == 0
  && !s.partClearing (partOf key)

/-- The registers d1 to d63 of a thread that arrives on a device core (R296). -/
def arrivedRegs (image : SMap Word) : SMap Word :=
  (List.range 63).foldl (fun m n => SMap.set 0 m (n + 1) (SMap.get 0 image (n + 1))) []

/-- Lane 0 of the gang of a crossing (R296). -/
def State.arrived (s : State) (c : Crossing) : Thread :=
  { Thread.start c.target c.launch c.block c.tid .runnable with
    hzn := word s.gtime
    d := arrivedRegs c.image
    dValid := BitVec.ofNat 128 (2 ^ 64 - 1)
    fflags := BitVec.ofNat 5 c.fcsr.toNat
    frm := BitVec.ofNat 3 (c.fcsr.toNat / 32)
    stepping := if c.stepping then 2 else 0 }

/-- A thread arrives on a device core (R296, R301): the core makes its first fetch through the leaf that it carries, where it carries one; later fetches
walk. -/
def State.arriveDevice (s : State) (c : Crossing) (key : Nat) : State :=
  let g := { Gang.start key c.launch c.block c.gangIdx 64 c.xlate 0 (s.arrived c :: List.replicate 31 Thread.absent) 0 with
    byCrossing := true, firstFetch := if c.pte = 0 then none else some (c.target, leafPa c.pte c.level c.target), lastGrant := s.clock, parked := s.hub.ccRunning && s.hub.ccAsid.toNat == asidOf c.xlate }
  let s1 := { s with gangs := s.gangs ++ [g] }
  let s2 := if c.pte = 0 then s1 else s1.keepBlock (coreOf key) (s1.gangAt key).world (asidOf c.xlate) (leafPa c.pte c.level c.target)
  (s2.onLaunch c.launch fun l => { l with away := l.away - 1 }).acquireAt (coreOf key) 5

/-- A thread arrives on a host core (R296): its registers come from the record, its vector state is cleared, and it runs in the mode it left in. It
fetches through the leaf that it carries (R301). A step of the debugger ends here (R124). -/
def HostThread.arrive (h : HostThread) (c : Crossing) : HostThread :=
  { h with
    host := c.host, away := false, image := c.image, fcsr := c.fcsr, pc := c.target, vec := HostVector.arrived, first := some (c.pte, c.level)
    loads := [], stores := [], stopped := c.stepping, stepping := false }

/-- The place of a thread's context in the hub's list. -/
def State.contextAt (s : State) (launch block tid : Nat) : Option Nat :=
  s.hostThreads.findIdx? fun h => h.launch == launch && h.block == block && h.tid == tid

/-- A thread arrives on a host core (R296): an interrupt or signal that was aimed at it meanwhile is delivered, the others of several as its core comes
to admit them. -/
def State.arriveHost (s : State) (c : Crossing) : State :=
  let s1 := (s.withContext c.launch c.block c.tid c.gangIdx c.xlate).onHostThread c.launch c.block c.tid fun h => h.arrive c
  match s1.contextAt c.launch c.block c.tid with
  | none => s1
  | some i => (s1.hostInterrupt i).getD s1

/-- CROSSING_ARRIVAL (R296): into the slot that the scheduler gives it, or on the host core of its context. -/
def State.arrive (s : State) (i key : Nat) : State :=
  match s.crossings[i]? with
  | none => s
  | some c =>
    let s1 := { s with crossings := s.crossings.eraseIdx i }
    if !c.toDevice then s1.arriveHost c
    else if !c.held && s.slotFits key then s1.arriveDevice c key
    else s

/-- CROSSING_ARRIVAL (R296). -/
def execCrossingArrival (crossing key : Nat) (s : State) : Host.Outcome State Fault Refusal := .next (s.arrive crossing key)

/-- The host thread that runs on a host core (R364), by its place: the one whose context the core has taken up, or one of its core that it has yet to
take up. -/
def State.hostWriter (s : State) (host : Nat) : Option Nat :=
  (s.hostRunning host).or (s.hostThreads.findIdx? fun h => h.host == host && !h.away && h.launch == 0)

/-- A command of reg_cmd is wrong (R364): a nonzero reserved bit, a writer that is no host thread but a thread of a launch or none, a number in use, a
thread that is not registered. -/
def State.regBad (s : State) (host : Nat) (thread : Bool) (v : Word) : Bool :=
  let n := Word.field v 23 0
  !thread || Word.field v 63 25 != 0 || ((s.hostWriter host).bind fun i => s.hostThreads[i]?).any (fun h => h.launch != 0)
  || (if Word.flag v 24 then (s.hostThread 0 0 n).isSome
      else match s.hostThread 0 0 n with
        | some h => h.host != host || h.away || !h.registered
        | none => true)

/-- A context that the hub has not known before (R289): a thread that system software created on a host core, in user mode; its registers and its
translation are free values. -/
def State.newContext (s : State) (host n : Nat) : HostThread :=
  { hubContext 0 0 n 0 (word (9 * 2 ^ 60 + (s.free 0).toNat % 2 ^ 60)) with
    host := host, away := false, image := SMap.setList 0 [] 1 ((List.range 63).map fun k => s.free (1 + k))
    fcsr := BitVec.ofNat 8 (s.free 64).toNat, pc := s.free 65 }

/-- REG_CMD (R299, R364): it acts on the thread that runs on the writing host core, with the ring of reg_ring; one that the hub has not known gets its
context here. -/
def State.regCmd (s : State) (host : Nat) (thread : Bool) (v : Word) : State :=
  let n := Word.field v 23 0
  let bad := s.regBad host thread v
  let s1 := { s with hub := { s.hub with regBusy := false, regFailed := bad } }
  if bad then s1
  else if Word.flag v 24 then
    match (s.hostWriter host).bind fun i => s.hostThreads[i]?.map fun h => (i, h) with
    | some (i, h) =>
      (s1.setHost i { h with tid := n, ring := s.hub.regRing, records := 0, registered := true }).onHostCore host
        fun c => { c with running := some (0, 0, n) }
    | none => { s1 with hostThreads := s1.hostThreads ++ [{ s.newContext host n with ring := s.hub.regRing }] }
  else s1.onHostThread 0 0 n fun h => { h with registered := false, tid := 2 ^ 24 + host }

/-- REG_CMD (R299). -/
def execRegCmd (host : Nat) (thread : Bool) (value : Word) (s : State) : Host.Outcome State Fault Refusal :=
  .next (s.regCmd host thread value)

end Sys2Proof.Machine
end

