-- ==== Sys2Proof/Machine/Matrix.lean ====
section
/-! DEFINITION. The matrix arrays (R79 to R89, R58 to R65): issue into an array's queue, retirement in order, products, semirings, scales, tile
loads and stores, and the instructions that wait for them. -/

namespace Sys2Proof.Machine

/-- The array of a partition at reset. -/
def Array8.reset : Array8 := { tiles := [], latch := [], latched := none, queue := [] }

/-- The array of a partition. -/
def State.array (s : State) (p : Nat) : Array8 := SMap.get Array8.reset s.arrays p

/-- Change the array of a partition. -/
def State.onArray (s : State) (p : Nat) (f : Array8 → Array8) : State :=
  { s with arrays := SMap.set Array8.reset s.arrays p (f (s.array p)) }

/-- An element of a tile as bits. -/
def Array8.elem (a : Array8) (tile e : Nat) : Nat := (SMap.get 0 a.tiles (64 * tile + e)).toNat

/-- Write an element of a tile. -/
def Array8.setElem (a : Array8) (tile e v : Nat) : Array8 := { a with tiles := SMap.set 0 a.tiles (64 * tile + e) (BitVec.ofNat 32 v) }

/-- An element of an accumulator of 8 or 4 bytes; F64 takes a pair of tiles, first bytes first (assumption 18). -/
def Array8.acc (a : Array8) (wide : Bool) (tile e : Nat) : Nat :=
  if wide then a.elem tile (2 * e) + a.elem tile (2 * e + 1) * 2 ^ 32 else a.elem tile e

/-- Write such an element. -/
def Array8.setAcc (a : Array8) (wide : Bool) (tile e v : Nat) : Array8 :=
  if wide then (a.setElem tile (2 * e) (v % 2 ^ 32)).setElem tile (2 * e + 1) (v / 2 ^ 32) else a.setElem tile e v

/-- The operation spans both arrays of a pair (R80). -/
def MatrixOp.paired : MatrixOp → Bool
  | .load own _ _ _ _ => !own
  | .mul p _ _ _ _ _ _ _ => p
  | .minPlus p _ _ _ _ => p
  | .maxTimes p _ _ _ _ => p
  | .orAnd p _ _ _ => p
  | _ => false

/-- The follower of a leader's partition: the same partition of the next core (R80). -/
def followerOf (p : Nat) : Nat := p + 8

/-- A core leads its pair (R69). -/
def leads (core : Nat) : Bool := core % 2 == 0

/-- A follower array refuses matrix issue while a paired operation of its leader is unretired (R80). -/
def State.refusesMatrix (s : State) (p : Nat) : Bool := !leads (p / 8) && (s.array (p - 8)).queue.any fun e => e.op.paired

/-- Why a paired operation is refused (R80, R374). -/
def State.pairRefused (s : State) : Bool :=
  let g := s.cg
  !leads (coreOf g.key)
  || !(s.gangs.any fun h => partOf h.key == followerOf (partOf g.key) && h.launch == g.launch && h.block == g.block && !h.byCrossing
        && h.world == g.world)

/-- A scratch range of an operand: the core it is relative to, its address, its bytes, the operand field. -/
structure OpRange where
  core : Nat
  addr : Word
  size : Nat
  field : Nat
  deriving DecidableEq, Repr

/-- Eight rows of an operand. -/
def rowsAt (core : Nat) (a stride : Word) (size : Nat) : List OpRange :=
  (List.range 8).map fun i => { core := core, addr := a + word i * stride, size := size, field := 0 }

/-- The base of the A operand of an array of a product, where the selector of a is that of the whole address a + off (R85). -/
def baseOf (follower : Bool) (a stride : Word) : Word := if follower && Word.field a 22 20 != 0 then a + 8 * stride else a

/-- The A operand of a product: its own array's rows, and the follower's (R85). -/
def productRows (core : Nat) (paired : Bool) (a stride : Word) : List OpRange :=
  rowsAt core a stride 64 ++ if paired then rowsAt (core + 1) (baseOf true a stride) stride 64 else []

/-- Bytes of an element of a tile in memory (R88). -/
def tileBytes (t : Ty) : Nat := if t = .f64 then 8 else 4

/-- The scratch ranges that an operation reads. -/
def MatrixOp.readRanges (op : MatrixOp) (core : Nat) : List OpRange :=
  match op with
  | .load _ weight _ a st => if weight then [] else rowsAt core a st 64
  | .mul p _ _ _ a st _ _ => productRows core p a st
  | .minPlus p _ a st _ => productRows core p a st
  | .maxTimes p _ a st _ => productRows core p a st
  | .orAnd p _ a st => productRows core p a st
  | .scale _ _ b r c _ _ =>
    [{ core := core, addr := b, size := 8, field := 0 }, { core := core, addr := r, size := 32, field := 1 },
     { core := core, addr := c, size := 32, field := 2 }]
  | .tileLoad scratch t _ a st => if scratch then rowsAt core a st (8 * tileBytes t) else []
  | _ => []

/-- The scratch ranges that an operation writes. -/
def MatrixOp.writeRanges (op : MatrixOp) (core : Nat) : List OpRange :=
  match op with
  | .tileStore scratch t _ a st => if scratch then rowsAt core a st (8 * tileBytes t) else []
  | _ => []

/-- The place of a range that is in bounds. -/
def State.rangePlace (s : State) (g : Gang) (r : OpRange) : List (Nat × Nat × Nat) :=
  match s.spot g.launch g.block r.core r.addr with
  | some (c, off) => [(c, off, r.size)]
  | none => []

/-- The values that must be multiples of a number, and the number (R84, R85, R87, R88). -/
def misalignedOf (n : Nat) (vs : List Word) (s : State) (L : Mask) : Option TrapReq :=
  match vs.filter fun v => v.toNat % n != 0 with
  | [] => none
  | v :: _ => some { cause := .misaligned, mask := L, addr := v, info := s.freeInfo }

/-- The first SCRATCH_BOUNDS of a list of ranges (R70). Where a product takes its core from the selector of a (R85), an address to which the literal or
the stride gives another selector lies outside that core's allocation. -/
def State.rangesTrap (s : State) (L : Mask) (sel : Option Nat) (rs : List OpRange) : Option TrapReq :=
  rs.findSome? fun r =>
    if sel.any fun n => Word.field r.addr 22 20 != n then some { cause := .scratchBounds, mask := L, addr := r.addr, info := word r.field }
    else s.endTrap L r.core r.field [(r.addr, r.size)]

/-- A MATRIX INSTRUCTION AT ITS ISSUE (R74, R78, R80, R82): its operands' checks, then a place in the queue of its partition's array, for which it
may have to wait; its token becomes pending. DESIGN CHOICE (assumption 62): its own checks come in the order pair refusal, MISALIGNED,
SCRATCH_BOUNDS, weight range. -/
def State.matrixIssue (s : State) (code : Nat) (o : Ops) (operands : List (Nat → Word)) (token : Bool) (align : Nat) (aligned : Mask → List Word)
    (sel : Mask → Option Nat) (mk : Mask → MatrixOp) : State :=
  s.gangOp code o operands fun L =>
    let g := s.cg
    let p := partOf g.key
    let core := coreOf g.key
    let op := mk L
    let weight := match op with
      | .load _ true _ a st => weightTrap L .load ((List.range 8).map fun i => (a + word i * st, 64))
      | _ => none
    if op.paired ∧ s.pairRefused then .error (s.illegal L 0)
    else match misalignedOf align (aligned L) s L with
      | some t => .error t
      | none =>
        match s.rangesTrap L (sel L) (op.readRanges core ++ op.writeRanges core) with
        | some t => .error t
        | none =>
          match weight with
          | some t => .error t
          | none =>
            if s.refusesMatrix p ∨ Config.matrixLimit ≤ (s.array p).queue.length then .ok none
            else
              let e : MatrixEntry :=
                { op := op, gang := g.key, launch := g.launch, block := g.block, world := g.world, xlate := g.xlate, lanes := L,
                  token := if token then some o.dst.toNat else none, priv := (s.cl (lowest L)).priv,
                  reads := (op.readRanges core).flatMap (s.rangePlace g), writes := (op.writeRanges core).flatMap (s.rangePlace g),
                  spoiled := [], moved := [], insn := s.cur.raw, pc := s.cur.pc }
              let s1 := s.onArray p fun a => { a with queue := a.queue ++ [e] }
              .ok (some (if token then s1.pend g.key 0 (.g o.dst.toNat) else s1))

/-- The literal byte offset of a matrix instruction (R82). -/
def offsetOf (o : Ops) : Word := match o.lit with | some l => sext 32 l.toNat | none => 0

/-- The address operand with its offset, and the stride, in the lowest guarded lane. -/
def State.matAddr (s : State) (o : Ops) (L : Mask) : Word := s.opA o (lowest L) + offsetOf o
def State.matStride (s : State) (o : Ops) (L : Mask) : Word := s.opBReg o (lowest L)

/-- The values that a product or MLDB needs as multiples of 64, in order: base, offset, stride (R84, R85). -/
def State.slabAligned (s : State) (o : Ops) (L : Mask) : List Word := [s.opA o (lowest L), offsetOf o, s.matStride o L]

/-- The selector of the address operand of a product, which names its core (R85). -/
def State.slabCore (s : State) (o : Ops) (L : Mask) : Option Nat := some (Word.field (s.opA o (lowest L)) 22 20)

/-- MZERO (R84). -/
def execMzero (o : Ops) (s : State) : Host.Outcome State Fault Refusal :=
  .next (s.matrixIssue 0x180 o [] false 1 (fun _ => []) (fun _ => none) fun _ => .zero o.dst.toNat)

/-- MLDB (R84). -/
def execMldb (o : Ops) (s : State) : Host.Outcome State Fault Refusal :=
  .next (s.matrixIssue 0x181 o [s.opA o, s.opBReg o] true 64 (s.slabAligned o) (fun _ => none) fun L =>
    .load (o.opmod.toNat % 2 == 1) (o.opmod.toNat / 4 == 1) o.ty (s.matAddr o L) (s.matStride o L))

/-- A product of one or both arrays (R85). -/
def State.product (s : State) (code : Nat) (o : Ops) (paired : Bool) : State :=
  s.matrixIssue code o [s.opA o, s.opBReg o] true 64 (s.slabAligned o) (s.slabCore o) fun L =>
    .mul paired o.ty o.ty2 (o.c.toNat % 8) (s.matAddr o L) (s.matStride o L) o.rnd o.sat

/-- MMA (R85). -/
def execMma (o : Ops) (s : State) : Host.Outcome State Fault Refusal := .next (s.product 0x182 o false)

/-- MMAP (R85). -/
def execMmap (o : Ops) (s : State) : Host.Outcome State Fault Refusal := .next (s.product 0x183 o true)

/-- A semiring product (R86). -/
def State.semiring (s : State) (code : Nat) (o : Ops) (mk : Bool → Nat → Word → Word → MatrixOp) : State :=
  s.matrixIssue code o [s.opA o, s.opBReg o] true 64 (s.slabAligned o) (s.slabCore o) fun L =>
    mk (o.opmod.toNat % 2 == 1) (o.c.toNat % 8) (s.matAddr o L) (s.matStride o L)

/-- MMINPLUS (R86). -/
def execMminplus (o : Ops) (s : State) : Host.Outcome State Fault Refusal :=
  .next (s.semiring 0x184 o fun p t a st => .minPlus p t a st o.rnd)

/-- MMAXTIMES (R86). -/
def execMmaxtimes (o : Ops) (s : State) : Host.Outcome State Fault Refusal :=
  .next (s.semiring 0x185 o fun p t a st => .maxTimes p t a st o.rnd)

/-- MORAND (R86). -/
def execMorand (o : Ops) (s : State) : Host.Outcome State Fault Refusal :=
  .next (s.semiring 0x186 o fun p t a st => .orAnd p t a st)

/-- SCACC (R87). -/
def execScacc (o : Ops) (s : State) : Host.Outcome State Fault Refusal :=
  .next (s.matrixIssue 0x187 o [s.opA o, s.opBReg o, s.opC o] false 4 (fun L => [s.opBReg o (lowest L), s.opC o (lowest L)]) (fun _ => none) fun L =>
    .scale o.dst.toNat (o.opmod.toNat % 4) (s.matAddr o L) (s.opBReg o (lowest L)) (s.opC o (lowest L)) o.rnd o.sat)

/-- The stride of a tile in memory (R88): a zero stands for 8 elements. -/
def State.tileStride (s : State) (o : Ops) (L : Mask) : Word :=
  if s.matStride o L = 0 then word (8 * tileBytes o.ty) else s.matStride o L

/-- A tile load or store (R88). -/
def State.tileMove (s : State) (code : Nat) (o : Ops) (mk : Word → Word → MatrixOp) : State :=
  s.matrixIssue code o [s.opA o, s.opBReg o] true (tileBytes o.ty) (fun L => [s.matAddr o L, s.tileStride o L]) (fun _ => none) fun L =>
    mk (s.matAddr o L) (s.tileStride o L)

/-- MACCLD (R88). -/
def execMaccld (o : Ops) (s : State) : Host.Outcome State Fault Refusal :=
  .next (s.tileMove 0x188 o fun a st => .tileLoad (o.opmod.toNat % 2 == 1) o.ty o.c.toNat a st)

/-- MACCST (R88). -/
def execMaccst (o : Ops) (s : State) : Host.Outcome State Fault Refusal :=
  .next (s.tileMove 0x189 o fun a st => .tileStore (o.opmod.toNat % 2 == 1) o.ty o.c.toNat a st)

/-- MPSST (R88). -/
def execMpsst (o : Ops) (s : State) : Host.Outcome State Fault Refusal :=
  .next (s.tileMove 0x18A o fun a st => .tileStore (o.opmod.toNat % 2 == 1) o.ty o.c.toNat a st)

/-- Unretired matrix instructions of a gang (R89). -/
def State.matrixBusy (s : State) (key : Nat) : Bool := s.arrays.any fun a => a.2.queue.any fun e => e.gang == key

/-- MREADY waits in a lane (R89): for the gang's matrix instructions, and for the thread's scratch stores. -/
def State.mreadyHold (s : State) (key k : Nat) : Bool := s.matrixBusy key || s.stores.any fun t => t.bank && t.gang == key && t.lane == k

/-- MREADY (R89): after its wait a recorded error of SCACC is raised and forgotten (R87). -/
def State.mready (s : State) (o : Ops) : State :=
  s.issueFlow 0x18B o fun L =>
    if L = 0 then .ok (s.advance o.stall.toNat o.yld)
    else if those L (s.mreadyHold s.cur.gang) ≠ 0 then .ok s
    else match s.cg.scaccError with
      | none => .ok (s.advance o.stall.toNat o.yld)
      | some e =>
        .ok ((s.onGang s.cur.gang fun g => { g with scaccError := none }).trap
          { cause := e.cause, mask := L, addr := e.address, info := e.insn })

/-- MREADY (R89). -/
def execMready (o : Ops) (s : State) : Host.Outcome State Fault Refusal := .next (s.mready o)

/-- MWAIT (R89): the read of a failed token raises its cause among the shared checks (R77). -/
def State.mwait (s : State) (o : Ops) : State :=
  s.issueWhen 0x18C o (fun _ => s.cg.gPending.contains o.a.toNat) fun _ => .ok s

/-- MWAIT (R89). -/
def execMwait (o : Ops) (s : State) : Host.Outcome State Fault Refusal := .next (s.mwait o)

/-- MELECT (R83). -/
def State.melect (s : State) (o : Ops) : State :=
  s.issue 0x18D o fun L =>
    (s.writeBack o 0 L fun _ => { val := word (coreOf s.cur.gang % 2) }).map fun s' =>
      s'.onLanes s.cur.gang L fun k t => t.resultP o.a.toNat (k == lowest L) 0 s.clock s.cur.pc

/-- MELECT (R83). -/
def execMelect (o : Ops) (s : State) : Host.Outcome State Fault Refusal := .next (s.melect o)

/-- A byte of an operand as an array reads it: undefined where another agent wrote it, or writes it, meanwhile (R81). -/
structure OpByte where
  val : Nat
  undef : Bool
  deriving DecidableEq, Repr

/-- A failure of an operation (R77): its cause and fault address. -/
abbrev MatrixFail := Cause × Word

/-- The word of an operand that fails: refused by its bank (R375), poisoned, or invalid while checking is enabled (R72). -/
def State.operandFail (s : State) (e : MatrixEntry) (core off : Nat) : Option Cause :=
  match s.allocAt e.launch e.block core with
  | none => none
  | some a =>
    if (s.refusing e.launch e.block e.world core off).isSome then some .poison
    else if (s.gangAt e.gang).uninitChk && !a.validAt off then some .uninitRead else if a.poisonAt off then some .poison else none

/-- The bank that refused an operand at an address logs it (R375). -/
def State.logOperand (s : State) (e : MatrixEntry) (p : Nat) (addr : Word) : State :=
  match (s.spot e.launch e.block (p / 8) addr).bind fun x => s.refusing e.launch e.block e.world x.1 x.2 with
  | some q => s.logBanks e.world (requesterOf (partOf e.gang)) [(q, addr)]
  | none => s

/-- A byte of scratch, numbered for its free value. -/
def State.operandByte (s : State) (e : MatrixEntry) (p core off : Nat) (n : Nat) : OpByte :=
  let undef := e.spoiled.contains (core, off) || s.unretired e.launch e.block core off (some p)
  let v := match s.allocAt e.launch e.block core with
    | some a => a.byte off
    | none => 0
  { val := if undef then (s.free n).toNat % 256 else v.toNat, undef := undef }

/-- Read a range of scratch as an operand (R77). -/
def State.operand8 (s : State) (e : MatrixEntry) (p : Nat) (r : OpRange) (n : Nat) : Except MatrixFail (List OpByte) :=
  match s.spot e.launch e.block r.core r.addr with
  | none => .ok ((List.range r.size).map fun j => { val := (s.free (n + j)).toNat % 256, undef := true })
  | some (c, off) =>
    match (List.range r.size).findSome? fun j => (s.operandFail e c (off + j)).map fun cause => (cause, r.addr + word (j - j % 4)) with
    | some f => .error f
    | none => .ok ((List.range r.size).map fun j => s.operandByte e p c (off + j) (n + j))

/-- Read a list of ranges, one after the other. -/
def State.operandRows (s : State) (e : MatrixEntry) (p n : Nat) : List OpRange → Except MatrixFail (List (List OpByte))
  | [] => .ok []
  | r :: rs =>
    match s.operand8 e p r n with
    | .error f => .error f
    | .ok b => (s.operandRows e p (n + r.size) rs).map fun bs => b :: bs

/-- The elements of a row of bytes. -/
def rowElems (t : Ty) (row : List Nat) : List Nat :=
  let w := t.width / 8
  (List.range (row.length / w)).map fun k => (row.drop (k * w)).take w |>.foldr (fun b n => b + 256 * n) 0

/-- The column of B that an array has latched: byte k of slab row j (R84). -/
def Array8.column (a : Array8) (j : Nat) : List Nat := (SMap.getList 0 a.latch (64 * j) 64).map (·.toNat)

/-- The products of a row of A and a column of B (R58). -/
def products (ta tb : Ty) (row col : List Nat) : List FV :=
  ((rowElems ta row).zip (rowElems tb col)).map fun x => productOf ta (decodeTy ta x.1) (decodeTy tb x.2)

/-- The exact integer that a sum of integer products is. -/
def intSum (vs : List FV) : Int :=
  vs.foldl (fun acc v => match v with | .fin n m e => acc + FV.signed n (shiftInt m e) | _ => acc) 0

/-- The new value of an accumulator element under a product (R62): exact, rounded or wrapped once. -/
def accumulate (ta : Ty) (rnd : Rnd) (sat : Bool) (ps : List FV) (old : Nat) : Nat × FFlags :=
  if ta.isInt then (narrowTo true 32 sat (intSum ps + signedOf 32 old), {})
  else
    let f := if ta = .f64 then Fmt.f64 else Fmt.f32
    f.deliver rnd sat (sumAll rnd (ps ++ [f.decode old]))

/-- A partial of one block (R61). -/
def partialOf (ta : Ty) (rnd : Rnd) (sat : Bool) (ps : List FV) : Nat × FFlags :=
  if ta.isInt then
    let v := intSum ps
    Fmt.f32.deliver rnd sat (.fin (v < 0) v.natAbs 0)
  else Fmt.f32.deliver rnd sat (sumAll rnd ps)

/-- Flags of a computation on undefined values. -/
def State.freeFlags (s : State) (n : Nat) : FFlags :=
  { nv := s.freeBool n, dz := false, ovf := s.freeBool (n + 1), uf := s.freeBool (n + 2), nx := s.freeBool (n + 3) }

/-- The elements of a tile, row by row. -/
def cells : List (Nat × Nat) := (List.range 8).flatMap fun i => (List.range 8).map fun j => (i, j)

/-- Write the elements of a tile of an array, each computed from its old value; a row of A that is undefined makes its elements free values
(R81). The flags of all of them. -/
def Array8.cellwise (a : Array8) (s : State) (n : Nat) (wide : Bool) (tile : Nat) (undef : Nat → Nat → Bool) (f : Nat → Nat → Nat → Nat × FFlags) :
    Array8 × FFlags :=
  cells.foldl
    (fun acc c =>
      let e := 8 * c.1 + c.2
      let r := if undef c.1 c.2 then ((s.free (n + e)).toNat, s.freeFlags (n + 64 + 4 * e)) else f c.1 c.2 (a.acc wide tile e)
      (acc.1.setAcc wide tile e (r.1 % 2 ^ (if wide then 64 else 32)), acc.2.or r.2)) (a, {})

/-- A row of operand bytes is undefined in some byte. -/
def rowUndef (rows : List (List OpByte)) (i : Nat) : Bool := (rows.getD i []).any (·.undef)

/-- The values of a row of operand bytes. -/
def rowVals (rows : List (List OpByte)) (i : Nat) : List Nat := (rows.getD i []).map (·.val)

/-- A product on one array (R85). -/
def Array8.multiply (a : Array8) (s : State) (n : Nat) (ta tb : Ty) (tile : Nat) (rnd : Rnd) (sat : Bool) (rows : List (List OpByte)) :
    Array8 × FFlags :=
  let ps := fun i j => products ta tb (rowVals rows i) (a.column j)
  let undef := fun i (_ : Nat) => rowUndef rows i
  if tile = 4 then
    (List.range 4).foldl
      (fun acc q =>
        let (b, fl) := acc.1.cellwise s (n + 400 * q) false (4 + q) undef fun i j _ =>
          partialOf ta rnd sat (((ps i j).drop (16 * q)).take 16)
        (b, acc.2.or fl)) (a, {})
  else a.cellwise s n (ta == .f64) tile undef fun i j old => accumulate ta rnd sat (ps i j) old

/-- A semiring product of F32 on one array (R64, R86). -/
def Array8.tropical (a : Array8) (s : State) (n tile : Nat) (isMax : Bool) (rnd : Rnd) (rows : List (List OpByte)) : Array8 × FFlags :=
  a.cellwise s n false tile (fun i _ => rowUndef rows i) fun i j old =>
    let pairs := (rowElems .f32 (rowVals rows i)).zip (rowElems .f32 (a.column j))
    pairs.foldl
      (fun acc x =>
        let p := Fmt.f32.deliver rnd false
          (if isMax then (Fmt.f32.decode x.1).mul (Fmt.f32.decode x.2) else (Fmt.f32.decode x.1).add rnd (Fmt.f32.decode x.2))
        let m := Fmt.f32.pick isMax acc.1 p.1
        (m.1, (acc.2.or p.2).or m.2)) (old, {})

/-- The or-and product on one array (R64, R86). -/
def Array8.orAnd (a : Array8) (s : State) (n tile : Nat) (rows : List (List OpByte)) : Array8 × FFlags :=
  a.cellwise s n false tile (fun i _ => rowUndef rows i) fun i j old =>
    (((rowElems .n32 (rowVals rows i)).zip (rowElems .n32 (a.column j))).foldl (fun acc x => acc ||| (x.1 &&& x.2)) old, {})

/-- One element of SCACC (R63, R87). -/
def foldScale (rnd : Rnd) (sat : Bool) (e srow scol p old : Nat) : Nat × FFlags :=
  let f := Fmt.f32
  let (sv, f1) := f.deliver rnd sat ((f.decode srow).mul (f.decode scol))
  let (t, f2) := if e = 0xFF then (f.nan, {})
    else f.deliver rnd sat (((f.decode sv).mul (e8sDecode e)).mul (f.decode p))
  let (v, f3) := f.deliver rnd sat ((f.decode old).add rnd (f.decode t))
  (v, (f1.or f2).or f3)

/-- What the execution of an operation comes to: done, with the bytes its token counts, flags for the issuing thread, a reserved dyad code, a
write completion time; or failed (R77). -/
inductive Retired where
  | done (s : State) (bytes : Nat) (flags : FFlags) (dy : Bool) (w : Nat)
  | failed (s : State) (cause : Cause) (addr : Word) (bytes : Word)
  | fault (f : PageFault) (acc : Access)

/-- The arrays of an operation: the own one, and the follower's. -/
def arraysOf (p : Nat) (paired : Bool) : List Nat := if paired then [p, followerOf p] else [p]

/-- A product or semiring on its arrays (R85, R86). Where an array's latches hold another type no tile is written. -/
def State.runProduct (s : State) (e : MatrixEntry) (p : Nat) (paired : Bool) (tb : Ty) (tile tiles : Nat) (a stride : Word)
    (f : Array8 → Nat → List (List OpByte) → Array8 × FFlags) : Retired :=
  let xs := arraysOf p paired
  let spoilTile := fun (s : State) (x : Nat) =>
    s.onArray x fun a => (List.range (64 * tiles)).foldl (fun a k => a.setElem tile k (s.free (x % 16 * 2000 + k)).toNat) a
  if xs.any fun x => (s.array x).latched != some tb then .failed s .illegalInsn s.freeAddr 0
  else
    match s.operandRows e p 0 (productRows (p / 8) paired a stride) with
    | .error (c, addr) => .failed (xs.foldl spoilTile s) c addr (word ((s.free 65000).toNat % 2 ^ 48))
    | .ok rows =>
      let (s1, fl) := xs.foldl
        (fun (acc : State × FFlags) x =>
          let own := if x = p then rows.take 8 else rows.drop 8
          let (b, fl) := f (s.array x) (2000 + 4000 * (x / 8 % 2)) own
          (acc.1.onArray x fun _ => { b with queue := (acc.1.array x).queue }, acc.2.or fl)) (s, {})
      let dy := tb == .dy8 && xs.any fun x => (SMap.getList 0 (s.array x).latch 0 512).any fun b => dyReserved b.toNat
      .done s1 (512 * xs.length) fl dy 0

/-- The first poisoned byte of eight rows of 64 bytes of a die's weight store (R72). -/
def State.weightPoisoned (s : State) (die : Nat) (a stride : Word) : Option Word :=
  ((List.range 8).flatMap fun i => (List.range 64).map fun j => a + word i * stride + word j).find? fun off =>
    SMap.get false (s.die die).weightPoison off.toNat

/-- MLDB (R84). A read of the weight store may meet an uncorrectable error (R77). DESIGN CHOICE (assumption 85): one that fails leaves T as the latched
type over undefined latches. -/
def State.runLoad (s : State) (e : MatrixEntry) (p : Nat) (own weight uncorrectable : Bool) (t : Ty) (a stride : Word) : Retired :=
  let rows : Except MatrixFail (List (List OpByte)) :=
    if weight then
      if uncorrectable then .error (weightCause, a)
      else match s.weightPoisoned (p / 384) a stride with
        | some off => .error (.poison, off)
        | none =>
          .ok ((List.range 8).map fun i =>
            (SMap.getList 0 (s.die (p / 384)).weight (a + word i * stride).toNat 64).map fun b => { val := b.toNat, undef := false })
    else s.operandRows e p 0 (rowsAt (p / 8) a stride 64)
  let put := fun (s : State) (bytes : List Byte) =>
    (arraysOf p !own).foldl (fun s x => s.onArray x fun a => { a with latch := SMap.setList 0 [] 0 bytes, latched := some t }) s
  match rows with
  | .error (c, addr) =>
    let s1 := if weight && uncorrectable then s.uncorrectable a.toNat (requesterOf p) e.world else s
    .failed (put s1 ((List.range 512).map fun k => BitVec.ofNat 8 (s.free k).toNat)) c addr (word ((s.free 65000).toNat % 2 ^ 48))
  | .ok rows => .done (put s ((rows.flatten).map fun b => BitVec.ofNat 8 b.val)) 512 {} false 0

/-- A scale operand of SCACC: its bytes, and the first word of each byte that fails (R87). -/
def State.scaleBytes (s : State) (e : MatrixEntry) (p n : Nat) (r : OpRange) : List (OpByte × Option MatrixFail) :=
  match s.spot e.launch e.block r.core r.addr with
  | none => (List.range r.size).map fun j => ({ val := (s.free (n + j)).toNat % 256, undef := true }, none)
  | some (c, off) =>
    (List.range r.size).map fun j =>
      let at' := r.addr + word j
      (s.operandByte e p c (off + j) (n + j),
        (s.operandFail e c (off + j)).map fun cause => (cause, at' - word (at'.toNat % 4)))

/-- SCACC (R63, R87). -/
def State.runScale (s : State) (e : MatrixEntry) (p acc ps : Nat) (b r c : Word) (rnd : Rnd) (sat : Bool) : Retired :=
  let rd := fun (a : Word) n k => s.scaleBytes e p k { core := p / 8, addr := a, size := n, field := 0 }
  let eb := rd b 8 0
  let rb := rd r 32 100
  let cb := rd c 32 200
  let none' : OpByte × Option MatrixFail := ({ val := 0, undef := true }, none)
  let word4 := fun (xs : List (OpByte × Option MatrixFail)) i => (List.range 4).map fun j => xs.getD (4 * i + j) none'
  let val4 := fun (xs : List (OpByte × Option MatrixFail)) i => (word4 xs i).foldr (fun x n => x.1.val + 256 * n) 0
  let parts := fun i j => [eb.getD i none'] ++ word4 rb i ++ word4 cb j
  let undef := fun i j => (parts i j).any fun x => x.1.undef || x.2.isSome
  let a := s.array p
  let (a1, fl) := a.cellwise s 1000 false acc undef fun i j old =>
    foldScale rnd sat (eb.getD i none').1.val (val4 rb i) (val4 cb j) (a.elem (4 + ps) (8 * i + j)) old
  let fails := cells.flatMap fun x => (parts x.1 x.2).filterMap (·.2)
  let s1 := s.onArray p fun _ => a1
  let s2 := match fails with
    | [] => s1
    | f :: _ => (s1.logOperand e p f.2).onGang e.gang fun g =>
      { g with scaccError := some (g.scaccError.getD { cause := f.1, address := f.2, pc := e.pc, insn := e.insn, lanes := e.lanes }) }
  .done s2 0 fl false 0

/-- The bytes of a row of a tile, and the tile with bytes of a row written (R88). -/
def Array8.rowBytes (a : Array8) (tile size i : Nat) : List Byte :=
  (List.range (2 * size)).flatMap fun k => leBytes 4 (a.elem tile (2 * size * i + k))
def Array8.setRow (a : Array8) (tile size i : Nat) (bs : List Nat) : Array8 :=
  (List.range (2 * size)).foldl
    (fun a k => a.setElem tile (2 * size * i + k) (((bs.drop (4 * k)).take 4).foldr (fun b n => b + 256 * n) 0)) a

/-- Undefined rows of a tile. -/
def State.spoilRows (s : State) (p tile size : Nat) (rows : List Nat) : State :=
  s.onArray p fun a => rows.foldl
    (fun a i => a.setRow tile size i ((List.range (8 * size)).map fun j => (s.free (i * 64 + j)).toNat % 256)) a

/-- A tile load from scratch, row by row (R88). -/
def State.tileFromScratch (s : State) (e : MatrixEntry) (p tile size : Nat) (a stride : Word) : Nat → List Nat → Retired
  | _, [] => .done s (64 * size) {} false 0
  | n, i :: is =>
    match s.operand8 e p { core := p / 8, addr := a + word i * stride, size := 8 * size, field := 0 } n with
    | .error (c, addr) => .failed (s.spoilRows p tile size (i :: is)) c addr (word (i * 8 * size))
    | .ok bs => (s.onArray p fun x => x.setRow tile size i (bs.map (·.val))).tileFromScratch e p tile size a stride (n + 64) is

/-- The values that a tile load brings to a row: the bytes that were read ahead as they were then, the others as they are read now (R93). -/
def MatrixEntry.tileRow (e : MatrixEntry) (size i : Nat) (bs : List Byte) : List Nat :=
  (List.range bs.length).map fun j =>
    match e.moved.find? fun m => m.1 == 8 * size * i + j with
    | some m => m.2.val.toNat
    | none => (bs.getD j 0).toNat

/-- A tile load from global memory (R88, R93): a fault before anything moves, with the row at which it lies; poison fails it (R77). -/
def State.tileFromGlobal (s : State) (e : MatrixEntry) (p tile size : Nat) (a stride : Word) : List Nat → Retired
  | [] => .done s (64 * size) {} false 0
  | i :: is =>
    match s.translateRange (coreOf e.gang) e.xlate (a + word i * stride) .load e.priv (8 * size) with
    | .error f => .fault f .load
    | .ok (s1, pas) =>
      match (List.range pas.length).find? fun j => s1.poisoned e.world (pas.getD j 0) with
      | some j =>
        let s2 := s1.logReads e.world (requesterOf (partOf e.gang)) [lineOf (pas.getD j 0)]
        .failed (s2.spoilRows p tile size (i :: is)) .poison (a + word i * stride + word j) (word (i * 8 * size))
      | none =>
        let (s2, bs) := s1.engineBytes (coreOf e.gang) pas
        (s2.onArray p fun x => x.setRow tile size i (e.tileRow size i bs)).tileFromGlobal e p tile size a stride is

/-- A tile store into scratch (R71, R88): bytes that another agent wrote meanwhile are undefined (R81). -/
def State.tileToScratch (s : State) (e : MatrixEntry) (p tile size : Nat) (a stride : Word) (rows : List Nat) : State :=
  rows.foldl
    (fun s' i =>
      match s'.spot e.launch e.block (p / 8) (a + word i * stride) with
      | none => s'
      | some (c, off) =>
        let bs := (s.array p).rowBytes tile size i
        let bs := (List.range bs.length).map fun j =>
          if e.spoiled.contains (c, off + j) then BitVec.ofNat 8 (s.free (i * 64 + j)).toNat else bs.getD j 0
        let (s', js) := s'.bankWrite e.launch e.block e.world c off bs.length (requesterOf (partOf e.gang))
        if js.length = bs.length then
          (s'.onAlloc e.launch e.block c fun al => al.puts off bs false).spoil e.launch e.block c off bs.length (some p)
        else
          js.foldl
            (fun s' j =>
              (s'.onAlloc e.launch e.block c fun al => al.put (off + j) (bs.getD j 0) false).spoil e.launch e.block c (off + j) 1 (some p)) s') s

/-- The places and bytes of rows of a tile store: those of the rows before the first one that faults, and that row and its fault (R88). A byte that
was written ahead stands as it is in place (R93). -/
def State.tilePlaces (s : State) (e : MatrixEntry) (p tile size : Nat) (a stride : Word) :
    List Nat → State × List (Nat × Byte) × Option (Nat × PageFault)
  | [] => (s, [], none)
  | i :: is =>
    match s.translateRange (coreOf e.gang) e.xlate (a + word i * stride) .store e.priv (8 * size) with
    | .error f => (s, [], some (i, f))
    | .ok (s1, pas) =>
      let row := (s1.array p).rowBytes tile size i
      let bs := (List.range pas.length).map fun j =>
        (pas.getD j 0, if e.moved.any (·.1 == 8 * size * i + j) then s1.peek (pas.getD j 0) else row.getD j 0)
      let (s2, rest, f) := s1.tilePlaces e p tile size a stride is
      (s2, bs ++ rest, f)

/-- The bytes that a list of places and bytes gives a line, by rising address. -/
def lineBytes (bs : List (Nat × Byte)) (line : Nat) : List (Nat × Byte) :=
  (List.range 128).filterMap fun j => (bs.reverse.find? fun b => b.1 == 128 * line + j)

/-- The lines that a tile store writes, each in one write: one that covers all 128 bytes of a line clears its poison (R278). -/
def State.landTile (s : State) (e : MatrixEntry) (bs : List (Nat × Byte)) : State :=
  ((bs.map fun b => lineOf b.1).dedup).foldl
    (fun s l =>
      let xs := lineBytes bs l
      s.landGlobal e.gang e.world (xs.map (·.1)) (xs.map fun b => { val := b.2, valid := true, poison := false })) s

/-- Undefined bytes in the rows of a tile store that failed before them, byte by byte where they can be written (R77). -/
def State.spoilPlaces (s : State) (e : MatrixEntry) (size : Nat) (a stride : Word) (rows : List Nat) : State :=
  ((rows.flatMap fun i => (List.range (8 * size)).map fun j => (i, j)).foldl
    (fun s x =>
      match s.translateRange (coreOf e.gang) e.xlate (a + word x.1 * stride + word x.2) .store e.priv 1 with
      | .error _ => s
      | .ok (s1, pas) => s1.landTile e [(pas.headD 0, BitVec.ofNat 8 (s.free (x.1 * 64 + x.2)).toNat)]) s).fresh

/-- The first byte of the rows of a tile store that meets an error response (R377, R390): none in a line that the store covers. -/
def State.tileError (s : State) (e : MatrixEntry) (bs : List (Nat × Byte)) : Option Nat :=
  (List.range bs.length).find? fun j =>
    let l := lineOf (bs.getD j (0, 0)).1
    (s.readError e.world l).isSome && decide ((lineBytes bs l).length < 128)

/-- A tile store to global memory (R88, R93): it fails at the first row that meets an error response, and the rows from there on are undefined. -/
def State.tileToGlobal (s : State) (e : MatrixEntry) (p tile size : Nat) (a stride : Word) (rows : List Nat) : Retired :=
  match s.tilePlaces e p tile size a stride rows with
  | (_, _, some (_, f)) => .fault f .store
  | (s1, bs, none) =>
    match s1.tileError e bs with
    | some j =>
      let i := j / (8 * size)
      let s2 := s1.landTile e (bs.take (8 * size * i))
      .failed (s2.spoilPlaces e size a stride (rows.drop i)) .poison (a + word (rows.getD i 0) * stride + word (j % (8 * size)))
        (word (8 * size * i))
    | none =>
      let s2 := s1.landTile e bs
      .done s2 (64 * size) {} false (bs.foldl (fun w b => max w (s1.leaseEnd (lineOf b.1))) s2.gtime)

/-- EXECUTION of an entry on its arrays (R79). -/
def State.runMatrix (s : State) (e : MatrixEntry) (p : Nat) (uncorrectable : Bool) : Retired :=
  match e.op with
  | .zero t => .done (s.onArray p fun a => (List.range 64).foldl (fun a k => a.setElem t k 0) a) 0 {} false 0
  | .load own weight t a st => s.runLoad e p own weight uncorrectable t a st
  | .mul paired ta tb tile a st rnd sat =>
    s.runProduct e p paired tb tile (if tile = 4 then 4 else if ta = .f64 then 2 else 1) a st fun x n rows =>
      x.multiply s n ta tb tile rnd sat rows
  | .minPlus paired tile a st rnd => s.runProduct e p paired .f32 tile 1 a st fun x n rows => x.tropical s n tile false rnd rows
  | .maxTimes paired tile a st rnd => s.runProduct e p paired .f32 tile 1 a st fun x n rows => x.tropical s n tile true rnd rows
  | .orAnd paired tile a st => s.runProduct e p paired .n32 tile 1 a st fun x n rows => x.orAnd s n tile rows
  | .scale acc ps b r c rnd sat => s.runScale e p acc ps b r c rnd sat
  | .tileLoad scratch t tile a st =>
    if scratch then s.tileFromScratch e p tile (tileBytes t) a st 0 (List.range 8) else s.tileFromGlobal e p tile (tileBytes t) a st (List.range 8)
  | .tileStore scratch t tile a st =>
    if scratch then .done (s.tileToScratch e p tile (tileBytes t) a st (List.range 8)) (64 * tileBytes t) {} false 0
    else s.tileToGlobal e p tile (tileBytes t) a st (List.range 8)

/-- The head of an array's queue must wait: for the follower's own instructions (R80), fault service (R77), or a refresh window (R96). -/
def State.matrixHeld (s : State) (e : MatrixEntry) (p : Nat) : Bool :=
  (e.op.paired && !(s.array (followerOf p)).queue.isEmpty) || (s.faults.any fun f => f.who == .matrix p)
  || (match e.op with | .load _ true _ _ _ => s.refreshNow (p / 384) | _ => false)

/-- The tiles that an operation writes (R85 to R88); F64 takes a pair of them (assumption 18). -/
def MatrixOp.tilesWritten : MatrixOp → List Nat
  | .zero t => [t]
  | .mul _ ta _ tile _ _ _ _ => if tile = 4 then [4, 5, 6, 7] else if ta = .f64 then [tile, tile + 1] else [tile]
  | .minPlus _ tile _ _ _ => [tile]
  | .maxTimes _ tile _ _ _ => [tile]
  | .orAnd _ tile _ _ => [tile]
  | .scale acc _ _ _ _ _ _ => [acc]
  | .tileLoad _ t tile _ _ => if t = .f64 then [tile, tile + 1] else [tile]
  | _ => []

/-- The tiles of a follower's array that an unretired paired operation of its leader writes: whoever else reads them meanwhile receives undefined values
(R81). -/
def State.overtaken (s : State) (p : Nat) : List Nat :=
  if leads (p / 8) then [] else ((s.array (p - 8)).queue.filter fun e => e.op.paired).flatMap fun e => e.op.tilesWritten

/-- The array with undefined elements in some tiles, as such a reader finds it. -/
def State.overtake (s : State) (p : Nat) (tiles : List Nat) : State :=
  s.onArray p fun a => tiles.foldl (fun a t => (List.range 64).foldl (fun a k => a.setElem t k (s.free (40000 + 64 * t + k)).toNat) a) a

/-- The tiles that the reader did not write are as they were. -/
def State.overtook (s : State) (p : Nat) (was : Array8) (tiles : List Nat) : State :=
  s.onArray p fun a => tiles.foldl (fun a t => (List.range 64).foldl (fun a k => a.setElem t k (was.elem t k)) a) a

/-- The oldest entry of an array's queue leaves it. -/
def State.popMatrix (s : State) (p : Nat) : State := s.onArray p fun a => { a with queue := a.queue.drop 1 }

/-- An operation fails (R77). -/
def State.failMatrix (s : State) (e : MatrixEntry) (p : Nat) (c : Cause) (addr : Word) (bytes : Nat) : State :=
  (match e.token with
    | some n => (s.popMatrix p).onGang e.gang fun g => g.writeFailed n c bytes addr 0
    | none => s.popMatrix p).opEnded e.gang

/-- A tile load or store: whether it stores, whether in scratch, its type, tile, address and stride. -/
def MatrixOp.tileMove : MatrixOp → Option (Bool × Bool × Ty × Nat × Word × Word)
  | .tileLoad scratch t tile a st => some (false, scratch, t, tile, a, st)
  | .tileStore scratch t tile a st => some (true, scratch, t, tile, a, st)
  | _ => none

/-- A tile move whose fault software answered with its cause (R77): the rows before the faulting one move, the others are undefined. Where those before
it cannot move either, none is defined. -/
def State.failTile (s : State) (p : Nat) (cause : Cause) (addr : Word) : State :=
  match (s.array p).queue with
  | [] => s
  | e :: _ =>
    match e.op.tileMove with
    | none => s.failMatrix e p cause addr 0
    | some (store, _, t, tile, a, st) =>
      let size := tileBytes t
      let n := ((List.range 8).find? fun i => decide ((addr - (a + word i * st)).toNat < 8 * size)).getD 0
      let rest := (List.range 8).drop n
      let spoiled := fun (s : State) rows => if store then s.spoilPlaces e size a st rows else s.spoilRows p tile size rows
      let moved := if store then s.tileToGlobal e p tile size a st (List.range n) else s.tileFromGlobal e p tile size a st (List.range n)
      match moved with
      | .done s1 _ _ _ w =>
        let s2 := spoiled s1 rest
        (match e.token with
          | some k => (s2.popMatrix p).onGang e.gang fun g => g.writeFailed k cause (n * 8 * size) addr w
          | none => s2.popMatrix p).opEnded e.gang
      | _ => (spoiled s (List.range 8)).failMatrix e p cause addr 0

/-- A byte of a tile load or store of global memory moves ahead of the others (R88, R93), by its position in the tile. One that meets a fault or an
error response is left to the whole. -/
def State.moveTileByte (s : State) (p n : Nat) (write : Bool) : State :=
  match (s.array p).queue with
  | [] => s
  | e :: es =>
    match e.op.tileMove with
    | some (store, false, t, tile, a, st) =>
      let size := tileBytes t
      let va := a + word (n / (8 * size)) * st + word (n % (8 * size))
      if 64 * size ≤ n ∨ store ≠ write ∨ s.matrixHeld e p ∨ (e.moved.any (·.1 == n)) then s
      else match s.translateRange (coreOf e.gang) e.xlate va (if store then .store else .load) e.priv 1 with
        | .error _ => s
        | .ok (s1, pas) =>
          let pa := pas.headD 0
          let (s1, read) := if store then (s1, []) else s1.engineBytes (coreOf e.gang) [pa]
          let v := if store then (((s.overtake p (s.overtaken p)).array p).rowBytes tile size (n / (8 * size))).getD (n % (8 * size)) 0 else read.headD 0
          let bad := if store then (s1.readError e.world (lineOf pa)).isSome else s1.poisoned e.world pa
          let s2 := if store then s1.landTile e [(pa, v)] else s1
          if bad then s
          else s2.onArray p fun x => { x with queue := { e with moved := (n, { val := v, valid := true, poison := false }) :: e.moved } :: es }
    | _ => s

/-- MATRIX_RETIRE (R79): the oldest instruction of an array's queue executes and retires. -/
def State.matrixRetire (s : State) (p : Nat) (uncorrectable : Bool) : State :=
  match (s.array p).queue with
  | [] => s
  | e :: _ =>
    if s.matrixHeld e p then s
    else
      let tiles := s.overtaken p
      let kept := fun (s1 : State) => s1.overtook p (s.array p) (tiles.filter fun t => !e.op.tilesWritten.contains t)
      match (s.overtake p tiles).runMatrix e p uncorrectable with
      | .fault f acc => s.sendFault (.matrix p) e.gang e.lanes (engineFault f) acc e.pc e.priv none
      | .failed s1 c addr bytes => (if c = .poison then (kept s1).logOperand e p addr else kept s1).failMatrix e p c addr bytes.toNat
      | .done s1 bytes fl dy w =>
        let s2 := ((kept s1).popMatrix p).onThread e.gang (lowest e.lanes) fun t => (t.raise fl).sawReserved dy
        (match e.token with
          | some n => s2.onGang e.gang fun g => g.writeToken n (tokenOf bytes) w
          | none => s2).opEnded e.gang

/-- MATRIX_RETIRE (R79): the oldest instruction of an array retires, or a byte of a tile move goes ahead of the others (R93). -/
def execMatrixRetire (partition : Nat × Portion) (s : State) : Host.Outcome State Fault Refusal :=
  .next (match partition with
    | (p, .whole) => s.matrixRetire p false
    | (p, .uncorrectable) => s.matrixRetire p true
    | (p, .readByte n) => s.moveTileByte p n false
    | (p, .writeByte n) => s.moveTileByte p n true)

end Sys2Proof.Machine
end

