-- ==== Sys2Proof/Machine/System.lean ====
section
/-! DEFINITION. The system block 0x1C0 but for the control registers (R343 to R346, R350 to R357). -/

namespace Sys2Proof.Machine

/-- The guarded lanes take a trap whose resume point is the next instruction (R345); with no guarded lane the bundle goes on. -/
def State.trapOp (s : State) (op : Nat) (o : Ops) (r : Mask → TrapReq) : State :=
  match s.checks op o with
  | .error t => s.trap t
  | .ok L => if L = 0 then s.advance o.stall.toNat o.yld else s.trapNext (r L)

/-- TRAP (R345). -/
def execTrap (o : Ops) (s : State) : Host.Outcome State Fault Refusal :=
  .next (s.trapOp 0x1C0 o fun L =>
    { cause := .trapInsn, mask := L, info := match o.lit with | some l => word (l.toNat % 65536) | none => 0 })

/-- BKPT (R345). -/
def execBkpt (o : Ops) (s : State) : Host.Outcome State Fault Refusal :=
  .next (s.trapOp 0x1C1 o fun L => { cause := .breakpoint, mask := L, debug := s.cg.bkptDbg })

/-- ERET in the lanes of a list (R335); one whose frame cannot be read stays where it is. -/
def State.eretLanes (s : State) (ks : List Nat) : State :=
  ks.foldl (fun s k => match s.eretLane k with | .ok s => s | .error _ => s) s

/-- The first lane of a list whose frame cannot be read (R334, assumption 10). -/
def State.eretFault (s : State) (ks : List Nat) : Option TrapReq :=
  ks.findSome? fun k => match s.eretLane k with | .ok _ => none | .error t => some t

/-- ERET (R335, R346): a held log entry is replayed first, and a thread that the replay stops stays in its handler (R334); a thread that returns joins a bundle at the next regrouping (R105). -/
def State.eret (s : State) (o : Ops) : State :=
  s.issueFlow 0x1C2 o fun L =>
    if L = 0 then .ok (s.advance o.stall.toNat o.yld)
    else if !(s.cl (lowest L)).priv then .error (s.illegal L 1)
    else match s.eretFault (lanes L) with
      | some t => .error t
      | none =>
        let handlers := those L fun k => (s.cl k).mode == .handler
        match s.replayAll (s.heldEntries s.cur.gang handlers) with
        | none => .ok s
        | some s1 =>
          let s2 := s1.onLanes s.cur.gang (s.cur.lanes &&& ~~~L) fun _ t =>
            { t.issued s.clock o.stall.toNat o.yld with pc := t.pc + word s.cur.len }
          let L := those L fun k => (s1.cl k).cond == .runnable
          let s3 := s2.onLanes s.cur.gang L fun _ t => t.issued s.clock o.stall.toNat o.yld
          .ok ((s3.eretLanes (lanes L)).routineCheck s.cur.gang).split

/-- ERET (R335, R346). -/
def execEret (o : Ops) (s : State) : Host.Outcome State Fault Refusal := .next (s.eret o)

/-- The live mask that a SAFE carries for a thread (R350). -/
def safeLive (o : Ops) (t : Thread) : Word :=
  let l := match o.lit with | some l => l.toNat | none => 0
  safeMask t.ix (o.c.toNat % 2 == 1) (o.dst.toNat + o.a.toNat * 128) (l / 2 ^ 16) l

/-- A thread of the gang may not pass a safe point yet: a logged access (R271), and at a stop an unfilled return slot (R308). -/
def State.safeHold (s : State) (k : Nat) : Bool := s.logged s.cur.gang k || (s.cl k).slots != 0

/-- SAFE (R308, R336, R350). -/
def State.safeOp (s : State) (o : Ops) : State :=
  s.issueFlow 0x1C6 o fun L =>
    if L ≠ 0 ∧ (32 ≤ o.a.toNat ∨ 2 ≤ o.c.toNat) then .error (s.illegal L 0)
    else if L = 0 ∨ (s.cl (lowest L)).priv ∨ !s.safeStops s.cur.gang then .ok (s.advance o.stall.toNat o.yld)
    else if those L s.safeHold ≠ 0 then .ok s
    else
      .ok ((((s.advance o.stall.toNat o.yld).onLanes s.cur.gang L fun _ t =>
        { t.stopBy .safePoint with safeInfo := safeLive o t }).preemptCheck s.cur.gang).split)

/-- SAFE (R350). -/
def execSafe (o : Ops) (s : State) : Host.Outcome State Fault Refusal := .next (s.safeOp o)

/-- What the reads of a LAUNCH find in a lane. -/
inductive LaneLaunch where
  | planned (p : Planned)
  /-- a fault of the packet, or under the packet's translation a fault of its tables -/
  | fault (f : PageFault) (xlate : Option Word)
  | poisoned (lines : List Nat)
  | misaligned (completion : Word)
  deriving DecidableEq, Repr

/-- Read and judge a packet in a lane (R351). -/
def State.planLane (s : State) (priv : Bool) (a : Word) : State × LaneLaunch :=
  let core := coreOf s.cur.gang
  let g := s.cg
  match s.readAt core g.xlate a priv 128 with
  | .error f => (s, .fault f none)
  | .ok (s1, bs, pas) =>
    let p := Packet.parse bs
    if pas.any fun pa => s1.poisoned g.world pa then (s1, .poisoned ((pas.map lineOf).dedup))
    else if p.completion.toNat % 8 ≠ 0 then (s1, .misaligned p.completion)
    else match s1.plan core priv (priv && s.worldOf (partOf s.cur.gang) == 0) p a (pas.headD 0) with
      | .error f => (s1, .fault f (some p.xlate))
      | .ok (s2, q) =>
        let bad := q.lines.filter fun l => s2.poisoned g.world (l * 128)
        (s2, if bad.isEmpty then .planned q else .poisoned bad)

/-- The packets of a list of lanes. -/
def State.planLanes (s : State) (priv : Bool) (a : Nat → Word) : List Nat → State × List (Nat × LaneLaunch)
  | [] => (s, [])
  | k :: ks =>
    let (s1, r) := s.planLane priv (a k)
    let (s2, rs) := s1.planLanes priv a ks
    (s2, (k, r) :: rs)

/-- The lanes of a list of results that satisfy a test. -/
def launchLanes (rs : List (Nat × LaneLaunch)) (p : LaneLaunch → Bool) : Mask := maskOf fun k => rs.any fun e => e.1 == k && p e.2

/-- The trap of the lowest lane that traps, with every lane of that cause (R351). -/
def State.launchTrap (s : State) (a : Nat → Word) (rs : List (Nat × LaneLaunch)) : Option TrapReq :=
  rs.findSome? fun e =>
    match e.2 with
    | .poisoned lines =>
      some { cause := .poison, mask := launchLanes rs fun r => (match r with | .poisoned _ => true | _ => false), addr := a e.1,
             info := s.freeInfo, lines := lines }
    | .misaligned c =>
      some { cause := .misaligned, mask := launchLanes rs fun r => (match r with | .misaligned _ => true | _ => false), addr := c,
             info := s.freeInfo }
    | _ => none

/-- A fault item of an access through another translation than its gang's: the item and its record name that one. -/
def FaultItem.under (f : FaultItem) (xlate : Word) : FaultItem :=
  { f with xlate := xlate, record := f.record.take 36 ++ leBytes 2 (asidOf xlate) ++ f.record.drop 38 }

/-- The faulting lanes of a LAUNCH wait for fault service, and every other guarded lane waits with them (R269, R351). -/
def State.launchFault (s : State) (L : Mask) (rs : List (Nat × LaneLaunch)) : Option State :=
  let bad := launchLanes rs fun r => match r with | .fault _ _ => true | _ => false
  rs.findSome? fun e =>
    match e.2 with
    | .fault f x =>
      let s1 := s.serviceInsn bad f .load none
      let s2 := match x with
        | some xlate => { s1 with faults := s1.faults.dropLast ++ (s1.faults.drop (s1.faults.length - 1)).map fun f => FaultItem.under f xlate }
        | none => s1
      some (s2.onLanes s.cur.gang (L &&& ~~~bad) fun _ t => { t with wait := .logged, bundle := none })
    | _ => none

/-- The lanes of a list start their launches in order; one whose spill breaches its quota stops them all (R330, R351). -/
def State.startAll (s : State) (L : Mask) (world : Nat) : List (Nat × LaneLaunch) → Except TrapReq (State × List (Nat × Nat))
  | [] => .ok (s, [])
  | (k, .planned p) :: rs =>
    match s.launchBreach p with
    | some d => .error { cause := .queueQuota, mask := L, addr := p.packet.ring + word (d * p.packet.quota), info := word kindLaunch }
    | none =>
      let (s1, num) := s.startLaunch world p
      (s1.startAll L world rs).map fun r => (r.1, (k, num) :: r.2)
  | _ :: rs => s.startAll L world rs

/-- LAUNCH (R319, R351). -/
def State.launchOp (s : State) (o : Ops) : State :=
  s.issueFlow 0x1C7 o fun L =>
    if L = 0 then .ok (s.advance o.stall.toNat o.yld)
    else if those L (fun k => !s.releaseDone s.cur.gang k 5) ≠ 0 then .ok s
    else
      let a := s.opA o
      match s.misalignedTrap 128 ((lanes L).map fun k => (k, a k)) with
      | some t => .error t
      | none =>
        let (s1, rs) := s.planLanes (s.cl (lowest L)).priv a (lanes L)
        match s1.launchTrap a rs, s1.launchFault L rs with
        | some t, _ => .error t
        | none, some s2 => .ok s2
        | none, none =>
          (s1.startAll L (s.worldOf (partOf s.cur.gang)) rs).bind fun (s2, nums) =>
            (s2.writeBack o 0 L fun k => { val := word (((nums.find? fun e => e.1 == k).map (·.2)).getD 0) }).map fun s3 =>
              s3.advance o.stall.toNat o.yld

/-- LAUNCH (R351). -/
def execLaunch (o : Ops) (s : State) : Host.Outcome State Fault Refusal := .next (s.launchOp o)

/-- Threads of the bundle that go on, while the others stay at the instruction (R106). -/
def State.goOn (s : State) (o : Ops) (m : Mask) : State :=
  (s.onLanes s.cur.gang m fun _ t =>
    { t.issued s.clock o.stall.toNat o.yld with pc := t.pc + word s.cur.len, wait := .no }).split

/-- LWAIT (R150, R352): a lane goes on with the word once it reads done = 1 at its home. -/
def State.lwaitOp (s : State) (o : Ops) : State :=
  s.issueFlow 0x1C8 o fun L =>
    let x := s.issueCtx (.lwait o) L (s.opA o) (fun _ => 0) fun _ => 0
    match s.misalignedTrap 8 x.places with
    | some t => .error t
    | none =>
      let t := s.translateLanes x .load 0 (x.ops.map fun p => p.plain 8)
      match t.bad with
      | (_, f) :: _ => .ok (t.s.serviceInsn (maskOf fun k => t.bad.any fun e => e.1 == k) f .load none)
      | [] =>
        match s.watch x.key 1 0 (t.good.map fun e => (e.1.ops.lane, e.1.vas)) with
        | some w => .error w
        | none =>
          match t.s.poisonTrap x t.good with
          | some w => .error w
          | none =>
            let val := fun k => match t.good.find? fun e => e.1.ops.lane == k with
              | some e => t.s.homeValue x.core e.2
              | none => 0
            let done := those L fun k => Word.flag (val k) 63
            (t.s.writeBack o 0 done fun k => { val := val k }).map fun s1 =>
              (if done ≠ 0 then s1.acquireAt x.core 5 else s1).goOn o (s.cur.lanes &&& ~~~(L &&& ~~~done))

/-- LWAIT (R352). -/
def execLwait (o : Ops) (s : State) : Host.Outcome State Fault Refusal :=
  .next (if o.opmod.toNat = 1 then
      s.memIssue 0x1C8 o (.lwait o) .load [loadDst o] (s.opA o) (fun _ => 0) (fun _ => 0) never (State.lwaitLanes o)
    else s.lwaitOp o)

/-- A TLBINV of an extent names a cached translation (R353). -/
def shoots (ext : Nat) (a : Word) (asid : Nat) (e : TlbEntry) : Bool :=
  match ext with
  | 0 => e.covers e.core asid a
  | 1 => e.asid == asid
  | _ => true

/-- Every access translated up to a clock has been performed, a contribution to a sequence too, and every crossing begun by then has made its first
fetch (R301, R353). -/
def State.shootDone (s : State) (since : Nat) : Bool :=
  !(s.loads.any fun l => decide (l.issued ≤ since)) && !(s.stores.any fun t => decide (t.issued ≤ since))
  && !(s.atoms.any fun a => decide (a.issued ≤ since)) && !(s.crossings.any fun c => decide (c.issued ≤ since))
  && !(s.hostThreads.any fun h => h.first.isSome)
  && !(s.redseqs.any fun q => q.held.any fun e => e.2.isSome && decide (SMap.get 0 q.stamps e.1 ≤ since))

/-- The operands of a TLBINV break its zero-fields (R353). -/
def tlbinvBad (ext : Nat) (a asid : Word) : Bool :=
  match ext with
  | 0 => Word.field asid 63 16 != 0
  | 1 => Word.field asid 63 16 != 0 || a != 0
  | 2 => a != 0 || asid != 0
  | _ => true

/-- A lane has made its discards and what it waits for has happened. -/
def State.shot (s : State) (k : Nat) : Bool :=
  match (s.cl k).wait with
  | .shoot since => s.shootDone since
  | _ => false

/-- TLBINV (R353): the discards, then a wait. -/
def State.tlbinv (s : State) (o : Ops) : State :=
  s.issueFlow 0x1C9 o fun L =>
    let bad := those L fun k => tlbinvBad o.opmod.toNat (s.opA o k) (s.opBReg o k)
    if L = 0 then .ok (s.advance o.stall.toNat o.yld)
    else if !(s.cl (lowest L)).priv then .error (s.illegal L 1)
    else if bad ≠ 0 then .error (s.illegal bad 0)
    else
      let fresh := those L fun k => (s.cl k).wait == .no
      let s1 := { s with
        tlb := s.tlb.filter fun e => !((lanes fresh).any fun k => shoots o.opmod.toNat (s.opA o k) (s.opBReg o k).toNat e) }
      let s2 := s1.onLanes s.cur.gang fresh fun _ t => { t with wait := .shoot s.clock }
      .ok (s2.goOn o (s.cur.lanes &&& ~~~L ||| those L s.shot))

/-- TLBINV (R353). -/
def execTlbinv (o : Ops) (s : State) : Host.Outcome State Fault Refusal := .next (s.tlbinv o)

/-- SNAP (R354). -/
def State.snapOp (s : State) (o : Ops) : State :=
  s.issue 0x1CA o fun L =>
    if L = 0 then .ok s
    else if !(s.cl (lowest L)).priv && !s.snapUser then .error (s.illegal L 1)
    else .ok s.fireSnapshot

/-- SNAP (R354). -/
def execSnap (o : Ops) (s : State) : Host.Outcome State Fault Refusal := .next (s.snapOp o)

/-- What ENRD reads (R355). -/
def State.energyValue (s : State) (sel : Nat) : Word :=
  let die := dieOf s.cur.gang
  match sel with
  | 0 => s.enUsed die
  | 1 => (s.die die).enBudget
  | 2 => word (match s.launchOf s.cg.launch with | some l => SMap.get 0 l.charged die | none => 0)
  | _ => word (s.die die).clockMHz

/-- ENRD (R355). -/
def State.enrd (s : State) (o : Ops) : State :=
  s.issue 0x1CB o fun L =>
    if L = 0 then .ok s
    else if 4 ≤ o.a.toNat then .error (s.illegal L 0)
    else s.writeBack o 0 L fun _ => { val := s.energyValue o.a.toNat }

/-- ENRD (R355). -/
def execEnrd (o : Ops) (s : State) : Host.Outcome State Fault Refusal := .next (s.enrd o)

/-- The partitions of a core that a WCLEAR mask names. -/
def clearParts (core mask : Nat) : List Nat := ((List.range 8).filter fun j => mask.testBit j).map fun j => 8 * core + j

/-- A WCLEAR request is refused (R356). -/
def State.clearBad (s : State) (core : Nat) (v : Word) : Bool :=
  Word.field v 15 8 != 0 || Word.field v 63 24 != 0 || Word.field v 7 0 == 0 || decide (Config.worlds < Word.field v 23 16)
  || (clearParts core (Word.field v 7 0)).any fun p =>
      (s.gangs.any fun g => partOf g.key == p) || s.allocs.any fun a => a.banks.any (·.1 == p)

/-- WCLEAR (R356): the clearings begin, and the lane waits for those that it names. -/
def State.wclear (s : State) (o : Ops) : State :=
  s.issueFlow 0x1CC o fun L =>
    let core := coreOf s.cur.gang
    let v := s.opBNat o
    let bad := those L fun k => s.clearBad core (v k)
    if L = 0 then .ok (s.advance o.stall.toNat o.yld)
    else if !(s.cl (lowest L)).priv then .error (s.illegal L 1)
    else if s.worldOf (partOf s.cur.gang) ≠ 0 then .error (s.illegal L 2)
    else if bad ≠ 0 then .error (s.illegal bad 0)
    else
      let s1 := (lanes L).foldl
        (fun s k => (clearParts core (Word.field (v k) 7 0)).foldl (fun s p => s.startClearing p (some (Word.field (v k) 23 16))) s) s
      .ok ((s1.waitIn o L fun k => .clear (Word.field (v k) 7 0)).split)

/-- WCLEAR (R356). -/
def execWclear (o : Ops) (s : State) : Host.Outcome State Fault Refusal := .next (s.wclear o)

/-- HALT (R309, R357): in a save routine the lane waits for the end of the save, once its gang's asynchronous operations have completed. -/
def State.haltOp (s : State) (o : Ops) : State :=
  s.issueFlow 0x1CD o fun L =>
    if L = 0 then .ok (s.advance o.stall.toNat o.yld)
    else if (s.cl (lowest L)).mode ≠ .save then .error (s.illegal L 0)
    else if s.busyAsync s.cur.gang then .ok s
    else .ok ((s.waitIn o L fun _ => .halt).split)

/-- HALT (R309, R357). -/
def execHalt (o : Ops) (s : State) : Host.Outcome State Fault Refusal := .next (s.haltOp o)

end Sys2Proof.Machine
end

