-- ==== Sys2Proof/Machine/Sched.lean ====
section
/-! DEFINITION. A die's scheduler: admission and placement of blocks and phases, the end of gangs and of launches, the overflow engine's refills,
clearing (R100 to R102, R118 to R121, R318, R320 to R324, R329, R378, R411). -/

namespace Sys2Proof.Machine

/-- What a gang of a block needs in its partition: slots and register-bank rows, its shadow gang's among them (R322). -/
structure Need where
  launch : Nat
  block : Nat
  world : Nat
  gangs : Nat
  slots : Nat
  rows : Nat
  scratchRows : Nat
  spread : Bool
  estimate : Nat
  deriving DecidableEq, Repr

/-- The needs of a block (R322). -/
def Launch.blockNeed (l : Launch) (block : Nat) : Need where
  launch := l.num
  block := block
  world := l.world
  gangs := l.packet.gangs
  slots := if l.packet.shadowregs = 0 then 1 else 2
  rows := 8 * l.packet.gangregs + 8 * l.packet.shadowregs
  scratchRows := (l.packet.scratch + 255) / 256
  spread := l.packet.placement == 1
  estimate := l.packet.estimate

/-- The needs of a next phase: one gang, where the scheduler chooses (R118, R411). -/
def Launch.phaseNeed (l : Launch) (block : Nat) : Need :=
  { l.blockNeed block with gangs := 1, slots := 1, rows := 8 * l.packet.gangregs, spread := false }

/-- A slot is kept for a saved gang, the rest of whose block has been admitted (R340). -/
def State.keptSlot (s : State) (key : Nat) : Bool := s.saved.any fun v => v.slot == some key

/-- The resident gangs of a partition, and the saved ones whose slots lie in it. -/
def State.slotsUsed (s : State) (part : Nat) : Nat :=
  (s.gangs.filter fun g => partOf g.key == part).length
  + (s.saved.filter fun v => match v.slot with | some k => partOf k == part | none => false).length

/-- How many gangs of a block fit in a partition (R322, R374, R378). -/
def State.partRoom (s : State) (n : Need) (part : Nat) : Nat :=
  if s.worldOf part ≠ n.world ∨ s.partClearing part then 0
  else min ((Config.slotsPerPart - s.slotsUsed part) / n.slots) ((bankRows - s.rowsUsed part) / n.rows)

/-- The free scratch rows of a partition's bank that a world's block may take (R70, R374). -/
def State.freeRows (s : State) (world part : Nat) : Nat :=
  if s.worldOf part ≠ world ∨ s.partClearing part then 0 else 256 - s.allocs.foldl (fun n a => n + SMap.get 0 a.banks part) 0

/-- The partitions of a core. -/
def partsOf (core : Nat) : List Nat := (List.range Config.partsPerCore).map fun p => 8 * core + p

/-- A core has an allocation of the block, or room for one (R70, R322). -/
def State.scratchFits (s : State) (n : Need) (core : Nat) : Bool :=
  (s.allocAt n.launch n.block core).isSome || decide (n.scratchRows ≤ (partsOf core).foldl (fun m p => m + s.freeRows n.world p) 0)

/-- How many gangs of a block fit on a core. -/
def State.coreRoom (s : State) (n : Need) (core : Nat) : Nat :=
  if s.scratchFits n core then (partsOf core).foldl (fun m p => m + s.partRoom n p) 0 else 0

/-- The cores of a die. -/
def coresOf (die : Nat) : List Nat := (List.range Config.coresPerDie).map (die * Config.coresPerDie + ·)

/-- A spread placement that begins at core c of the die and partition p (R411). -/
def State.spreadFits (s : State) (n : Need) (die c p : Nat) : Bool :=
  decide (c + n.gangs ≤ Config.coresPerDie)
  && (List.range n.gangs).all fun g =>
    let core := die * Config.coresPerDie + c + g
    s.scratchFits n core && decide (1 ≤ s.partRoom n (8 * core + p))

/-- The block fits on the die now (R322, R411). -/
def State.spaceFor (s : State) (n : Need) (die : Nat) : Bool :=
  if n.spread then (List.range 12).any fun q => (List.range 8).any fun p => s.spreadFits n die (4 * q) p
  else decide (n.gangs ≤ (coresOf die).foldl (fun m c => m + s.coreRoom n c) 0)

/-- The blocks resident on a die. -/
def State.residentBlocks (s : State) (die : Nat) : List (Nat × Nat) :=
  ((s.gangs.filter fun g => dieOf g.key == die && !g.byCrossing).map fun g => (g.launch, g.block)).dedup

/-- What a block has drawn on a die so far (R324). -/
def Die.drawnBy (d : Die) (launch block : Nat) : Nat :=
  match d.drawn.find? fun e => e.1 == launch && e.2.1 == block with
  | some e => e.2.2
  | none => 0

/-- The sum of what the resident blocks may still draw of their estimates (R324). -/
def State.committed (s : State) (die : Nat) : Nat :=
  (s.residentBlocks die).foldl
    (fun n b => match s.launchOn b.1 die with
      | some l => n + (l.packet.estimate - (s.die die).drawnBy b.1 b.2)
      | none => n) 0

/-- The energy margin (R324). -/
def State.energyFits (s : State) (n : Need) (die : Nat) : Bool :=
  let d := s.die die
  n.estimate == 0
  || (if d.enBudget.toNat < n.estimate then (s.residentBlocks die).all (· == (n.launch, n.block))
      else decide (n.estimate + (s.enUsed die).toNat + s.committed die ≤ d.enBudget.toNat))

/-- A launch has begun on a die and not ended there: one of its blocks runs, is saved or between phases, or one after its first is still to come (R95,
R320). -/
def State.underWay (s : State) (l : Launch) (die : Nat) : Bool :=
  (l.running.any fun r => r.1 == die)
  || (s.die die).entries.any fun e => match e with | .block num b => num == l.num && decide (l.packet.dies.length ≤ b) | _ => false

/-- The launch whose weight window is open on a die: from its start there to the exit of its last block (R95). -/
def State.loader (s : State) (die : Nat) : Option Nat :=
  (s.launches.find? fun l => s.underWay l die && s.windowOpen die l.num).map (·.num)

/-- While a weight window is open on the die, only the loading launch's blocks are admitted (R95). -/
def State.weightFits (s : State) (n : Need) (die : Nat) : Bool := (s.loader die).all (· == n.launch)

/-- A launch's entry in a queue lies in its overflow ring (R329). -/
def State.entrySpilled (s : State) (launch die q : Nat) : Bool := (s.ringOf launch die).count kindLaunch q != 0

/-- A phase's entry lies in an overflow ring (R327). -/
def State.phaseSpilled (s : State) (launch die : Nat) (record : Word) : Bool :=
  (s.ringOf launch die).live.any fun e => e.kind == kindPhase && e.item.1 == record.toNat

/-- A saved gang's needs in a partition (R312, R340). -/
def Launch.savedNeed (l : Launch) (block gangs : Nat) : Need :=
  { l.blockNeed block with gangs := gangs, slots := 1, rows := 8 * l.packet.gangregs, spread := false }

/-- The saved gangs of a block on a die that have yet to be admitted again. -/
def State.savedOf (s : State) (launch block die : Nat) : List Saved :=
  s.saved.filter fun v => v.launch == launch && v.block == block && v.die == die && v.slot.isNone

/-- How many gangs are restored on a core with a saved one (R313): a carrier and its group; a gang with a claim of its own, by itself. -/
def State.groupSize (s : State) (v : Saved) : Nat :=
  if v.carrier then
    1 + ((s.savedOf v.launch v.block v.die).filter fun w => !w.carrier && w.group == some v.area).length
  else 1

/-- A saved gang may be put in a slot (R312, R313), with the gangs of its block that have been given slots so far: a claim goes to the core of the
allocation that it claims, a member of a carrier's group to the carrier's core, a carrier to a core where its block has no allocation, a new one
fits, and its group has room. -/
def State.slotFor (s : State) (l : Launch) (given : List (Saved × Nat)) (v : Saved) (key : Nat) : Bool :=
  let n := l.savedNeed v.block 1
  let core := coreOf key
  dieOf key == v.die && !s.resident key && !s.keptSlot key && !(given.any fun e => e.2 == key)
  && decide (1 + (given.filter fun e => partOf e.2 == partOf key).length ≤ s.partRoom n (partOf key))
  && (if v.carrier then
        (s.allocAt v.launch v.block core).isNone && s.scratchFits n core && !(given.any fun e => e.1.carrier && coreOf e.2 == core)
        && decide (s.groupSize v ≤ s.coreRoom n core)
      else match v.group with
        | some area => given.any fun e => e.1.carrier && e.1.area == area && coreOf e.2 == core
        | none => core == v.core)

/-- Slots for the saved gangs of a block (R340), one after the other: the lowest that fit. DESIGN CHOICE (assumption 65): R312 leaves the cores to the
scheduler. -/
def State.slotsFor (s : State) (l : Launch) (given : List (Saved × Nat)) : List Saved → Option (List (Saved × Nat))
  | [] => some given
  | v :: vs =>
    match ((List.range 3072).map (3072 * v.die + ·)).find? (s.slotFor l given v) with
    | some k => s.slotsFor l (given ++ [(v, k)]) vs
    | none => none

/-- Put a saved gang before those with smaller groups. -/
def State.insertSaved (s : State) (v : Saved) : List Saved → List Saved
  | [] => [v]
  | w :: ws => if s.groupSize w ≤ s.groupSize v then v :: w :: ws else w :: s.insertSaved v ws

/-- The order in which the saved gangs of a block are given slots: claims, whose cores are fixed, then carriers, those of the largest groups first, then the
members of the groups. In that order the lowest fitting slots fit all of them where any do. -/
def State.savedOrder (s : State) (vs : List Saved) : List Saved :=
  (vs.filter fun v => !v.carrier && v.group.isNone) ++ (vs.filter fun v => v.carrier).foldr s.insertSaved []
  ++ vs.filter fun v => !v.carrier && v.group.isSome

/-- The block of a saved gang is admitted whole (R322, R324, R340), this one into a slot: the slots of all of them. -/
def State.restorePlan (s : State) (l : Launch) (v : Saved) (key : Nat) : Option (List (Saved × Nat)) :=
  if s.slotFor l [] v key then s.slotsFor l [(v, key)] (s.savedOrder ((s.savedOf v.launch v.block v.die).filter fun w => w != v)) else none

/-- Where the saved gangs of a block are put, when they are (R313, R340). -/
def State.savedPlan (s : State) (l : Launch) (block die : Nat) : Option (List (Saved × Nat)) :=
  s.slotsFor l [] (s.savedOrder (s.savedOf l.num block die))

/-- The needs of the entry at the head of a queue, where it can be admitted; a saved block is admitted by the step of its restore (R312, R340). -/
def State.headNeed (s : State) (die q : Nat) (e : QueueEntry) : Option Need :=
  match e with
  | .block l b => if s.entrySpilled l die q then none else (s.launchOn l die).map fun x => x.blockNeed b
  | .phase l b _ r _ _ _ _ => if s.phaseSpilled l die r then none else (s.launchOn l die).map fun x => x.phaseNeed b
  | .saved l b => (s.launchOn l die).map fun x => x.savedNeed b (s.savedOf l b die).length

/-- A die's queues in the order in which admission considers them (R321): 8 is the system queue, true marks a phase queue. -/
def queueOrder : List (Nat × Bool) := (8, false) :: (List.range 8).flatMap fun j => [(7 - j, true), (7 - j, false)]

/-- The entries of one of them. -/
def Die.queueOf (d : Die) (q : Nat × Bool) : List QueueEntry := if q.2 then SMap.get [] d.phases q.1 else d.queue q.1

/-- An entry has the space that it needs on its die now (R322): the gangs of a saved block where R313 lets them go. -/
def State.entrySpace (s : State) (die : Nat) (e : QueueEntry) (n : Need) : Bool :=
  match e with
  | .saved num b => match s.launchOn num die with
    | some l => (s.savedPlan l b die).isSome
    | none => false
  | _ => s.spaceFor n die

/-- A block has a gang on its die: the energy of what is still to come of it has been admitted (R324, R340). -/
def State.blockResident (s : State) (launch block : Nat) : Bool := s.gangs.any fun g => g.launch == launch && g.block == block && !g.byCrossing

/-- An entry's energy is admitted (R324), and no other launch's weight window is open (R95); of a saved block that has gangs on its die, both were. -/
def State.entryAdmitted (s : State) (die : Nat) (e : QueueEntry) (n : Need) : Bool :=
  (match e with | .saved num b => s.blockResident num b | _ => false) || (s.energyFits n die && s.weightFits n die)

/-- The head of a queue fits its die. -/
def State.headFits (s : State) (die : Nat) (q : Nat × Bool) : Option (Nat × Bool × QueueEntry × Need) :=
  match (s.die die).queueOf q with
  | [] => none
  | e :: _ =>
    match s.headNeed die q.1 e with
    | none => none
    | some n => if s.entrySpace die e n && s.entryAdmitted die e n then some (q.1, q.2, e, n) else none

/-- The entry that the die admits next (R321, R322): the first head that fits. -/
def State.nextAdmission (s : State) (die : Nat) : Option (Nat × Bool × QueueEntry × Need) := queueOrder.findSome? (s.headFits die)

/-- The slots of a block's gangs: each with its shadow's, in its own partition (R121). -/
def pairKeys (shadow : Bool) : List Nat → List (Nat × Option Nat)
  | [] => []
  | k :: ks =>
    if shadow then match ks with
      | sh :: rest => (k, some sh) :: pairKeys shadow rest
      | [] => [(k, none)]
    else (k, none) :: pairKeys shadow ks

/-- The slots are a placement of a block on a die (R322, R411). -/
def State.placed (s : State) (n : Need) (die : Nat) (ps : List (Nat × Option Nat)) : Bool :=
  let keys := ps.flatMap fun p => p.1 :: p.2.toList
  let part := fun (i : Nat) => partOf ((ps.getD i (0, none)).1)
  ps.length == n.gangs && keys.length == n.gangs * n.slots && keys.dedup.length == keys.length
  && (keys.all fun k => dieOf k == die && !s.resident k && !s.keptSlot k)
  && (ps.all fun p => match p.2 with | some sh => partOf sh == partOf p.1 | none => true)
  && ((ps.map fun p => partOf p.1).all fun q => decide ((ps.filter fun p => partOf p.1 == q).length ≤ s.partRoom n q))
  && ((ps.map fun p => coreOf p.1).all fun c => s.scratchFits n c)
  && (!n.spread || (part 0 / 8 % 48 % 4 == 0 && (List.range n.gangs).all fun g => part g == part 0 + 8 * g))

/-- Take rows of a core's banks for an allocation, from the lowest partition on (R70: which rows is the scheduler's choice). -/
def State.takeRows (s : State) (world : Nat) : Nat → List Nat → SMap Nat
  | _, [] => []
  | rows, p :: ps =>
    let n := min rows (s.freeRows world p)
    SMap.cons 0 p n (s.takeRows world (rows - n) ps)

/-- How many of the rows that a bank gives are zeroed, where it gives those first: all but the ones that dirty rows must make up (R71, R378;
assumption 68). -/
def State.cleanTaken (s : State) (world p n : Nat) : Nat := min n (s.freeRows world p - SMap.get 0 s.dirtyRows p)

/-- The allocation of a block on a core (R70, R71, R145), unless it has one there. -/
def State.allocate (s : State) (n : Need) (core threads : Nat) : State :=
  if (s.allocAt n.launch n.block core).isSome then s
  else
    let banks := s.takeRows n.world n.scratchRows (partsOf core)
    { s with
      dirtyRows := banks.foldl (fun m b => SMap.set 0 m b.1 (SMap.get 0 m b.1 - (b.2 - s.cleanTaken n.world b.1 b.2))) s.dirtyRows
      allocs := s.allocs ++
        [{ launch := n.launch, block := n.block, core := core, size := 256 * n.scratchRows, world := n.world,
           banks := banks, clean := SMap.mapv 0 (fun x => x) (banks.map fun b => (b.1, s.cleanTaken n.world b.1 b.2)), bytes := [], seed := s.freeCtr * 256 + core, valid := [],
           poison := [], full := [], bars := [], threads := threads }] }

/-- Lane k of gang idx of a block holds a thread (R102). -/
def Packet.hasLane (p : Packet) (idx k : Nat) : Bool := decide (32 * idx + k < p.blockdim)

/-- The threads of gang idx of a block at an entry address (R100, R102). -/
def Launch.startThreads (l : Launch) (block idx : Nat) (pc : Word) : List Thread :=
  (List.range 32).map fun k => Thread.start pc l.num block (32 * idx + k) (if l.packet.hasLane idx k then .runnable else .exited)

/-- The gang of a block in a slot, with its shadow gang (R121, R323). -/
def Launch.startGang (l : Launch) (block idx key : Nat) (sh : Option Nat) : List Gang :=
  let p := l.packet
  { Gang.start key l.num block idx (8 * p.gangregs) p.xlate l.world (l.startThreads block idx p.entry) p.trapHandler with shadow := sh }
  :: sh.toList.map fun k =>
    { Gang.start k l.num block idx (8 * p.shadowregs) p.xlate l.world (l.startThreads block idx p.sliceEntry) p.trapHandler with
      shadowOf := some key }

/-- How many threads of a block's gangs start on a core (R145). -/
def Launch.threadsOn (l : Launch) (ps : List (Nat × Option Nat)) (core : Nat) : Nat :=
  ((List.range ps.length).filter fun i => coreOf (ps.getD i (0, none)).1 == core).foldl
    (fun n i => n + min 32 (l.packet.blockdim - 32 * i)) 0

/-- A block's entry gives its place to the launch's next block on the die, or leaves the queue (R320). -/
def Die.nextBlock (d : Die) (q : Nat) (l : Launch) (b : Nat) : Die :=
  let next := b + l.packet.dies.length
  d.setQueue q ((if next < l.packet.blocks then [.block l.num next] else []) ++ (d.queue q).drop 1)

/-- Admit a block into slots (R100 to R102, R322, R323). Its start is ordered after the packet's read, an acquire (R319). -/
def State.admitBlock (s : State) (die q : Nat) (l : Launch) (b : Nat) (n : Need) (ps : List (Nat × Option Nat)) : State :=
  let cores := (ps.map fun p => coreOf p.1).dedup
  let s1 := cores.foldl (fun s c => (s.allocate n c (l.threadsOn ps c)).acquireAt c 5) s
  let gs := (List.range ps.length).flatMap fun i => l.startGang b i (ps.getD i (0, none)).1 (ps.getD i (0, none)).2
  let s2 := { s1 with gangs := s1.gangs ++ gs }
  let s3 := s2.onDie die fun d => { d.nextBlock q l b with drawn := d.drawn ++ [(l.num, b, 0)] }
  s3.onLaunch l.num fun l => { l with running := l.running ++ [(die, b)] }

/-- A number of a phase record. -/
def recField (bs : List Byte) (off n : Nat) : Nat := leNat ((bs.drop off).take n)

/-- The thread of lane k as a phase record carries it (R119, R120); its sticky flags and recorded arrivals stand (R51, R153; assumption 82). -/
def Launch.phaseThread (l : Launch) (bs : List Byte) (kept : Kept) (block idx cd cg k : Nat) : Thread :=
  let at' := 0x80 + 32 * k
  let gone := Word.flag (word (recField bs 0xC 4)) k
  let t := Thread.start (word (recField bs at' 8)) l.num block (32 * idx + k) (if gone then .exited else .runnable)
  { kept.thread k t with
    meet := word (recField bs (at' + 8) 8)
    hzn := word (recField bs (at' + 16) 8)
    p := BitVec.ofNat 7 (recField bs (at' + 24) 1)
    ix := BitVec.ofNat 7 (recField bs (at' + 25) 1)
    h := SMap.setList 0 [] 0 ((List.range 16).map fun n => word (recField bs (0x480 + 128 * k + 8 * n) 8))
    dValid := BitVec.ofNat 128 (recField bs (0x1480 + 16 * k) 16) ||| 1
    d := (List.range cd).foldl (fun m n => if n = 0 then m else SMap.set 0 m n (word (recField bs (0x1680 + 8 * cg + 256 * n + 8 * k) 8))) [] }

/-- The gang of a phase record (R119, R120). DESIGN CHOICE (assumption 86): a failed token that it carries is a value, and its operation record ends with
the phase. -/
def Launch.phaseGang (l : Launch) (bs : List Byte) (kept : Kept) (block idx cd cg key : Nat) : Gang :=
  let p := l.packet
  let g := Gang.start key l.num block idx (8 * p.gangregs) p.xlate l.world
    ((List.range 32).map fun k => l.phaseThread bs kept block idx cd cg k) p.trapHandler
  { g with
    phase := recField bs 0 8 + 1
    scaccError := kept.scacc
    m := SMap.setList 0 [] 0 ((List.range 12).map fun n => BitVec.ofNat 32 (recField bs (0x10 + 4 * n) 4))
    arrive := SMap.setList 0 [] 0 ((List.range 12).map fun n => BitVec.ofNat 32 (recField bs (0x40 + 4 * n) 4))
    gValid := BitVec.ofNat 128 (recField bs 0x70 16) ||| 1
    g := (List.range cg).foldl (fun m n => if n = 0 then m else SMap.set 0 m n (word (recField bs (0x1680 + 8 * n) 8))) [] }

/-- Admit a next phase into a slot (R118, R120): its record is read, and its area of the ring is free again. A record that cannot be read
leaves it waiting. -/
def State.admitPhase (s : State) (die q : Nat) (l : Launch) (block idx : Nat) (record : Word) (cd cg : Nat) (kept : Kept) (n : Need) (key : Nat) :
    State :=
  match s.readVa l.packet.xlate record true l.world (phaseSize cd cg) with
  | .error _ => s
  | .ok (s, bs) =>
    let s1 := (s.allocate n (coreOf key) (min 32 (l.packet.blockdim - 32 * idx))).acquireAt (coreOf key) 5
    let s2 := { s1 with gangs := s1.gangs ++ [l.phaseGang bs kept block idx cd cg key] }
    let s3 := s2.onDie die fun d => { d with phases := SMap.set [] d.phases q ((SMap.get [] d.phases q).drop 1) }
    (s3.onLaunch l.num fun x => x.dropArea (record - l.packet.phaseRing).toNat).preemptWaiting l.num

/-- BLOCK_ADMISSION (R319, R322): the die reads the packets that it has been sent, and admits what comes next in R321's order into slots that are a placement of it. -/
def State.admitNext (s0 : State) (die : Nat) (keys : List Nat) : State :=
  let s := s0.readPackets die
  match s.nextAdmission die with
  | none => s
  | some (q, _, e, n) =>
    match s.launchOn n.launch die with
    | none => s
    | some l =>
      let ps := pairKeys (n.slots == 2) keys
      if !s.placed n die ps then s
      else match e with
        | .block _ b => s.admitBlock die q l b n ps
        | .phase _ b idx record cd cg _ kept => s.admitPhase die q l b idx record cd cg kept n ((ps.getD 0 (0, none)).1)
        | .saved _ _ => s

/-- BLOCK_ADMISSION (R322). -/
def execBlockAdmission (die : Nat) (keys : List Nat) (s : State) : Host.Outcome State Fault Refusal := .next (s.admitNext die keys)

/-- A block has come to its end on a die: no gang of it is resident, saved, or queued for a next phase. -/
def State.blockOver (s : State) (launch block die : Nat) : Bool :=
  !(s.gangs.any fun g => g.launch == launch && g.block == block && !g.byCrossing)
  && !(s.saved.any fun v => v.launch == launch && v.block == block)
  && (s.die die).phases.all fun p => p.2.all fun e => match e with
      | .phase l b _ _ _ _ _ _ => !(l == launch && b == block)
      | _ => true

/-- Count a block that has come to its end (R318). -/
def State.endBlock (s : State) (launch block die : Nat) : State :=
  if !s.blockOver launch block die then s
  else
    (s.onLaunch launch fun l => { l with ended := l.ended + 1, running := l.running.filter (· ≠ (die, block)) }).onDie die fun d =>
      { d with drawn := d.drawn.filter fun e => !(e.1 == launch && e.2.1 == block) }

/-- The record of a SCACC error that no MREADY reported (R87): an access by an engine for the lanes of its issue (R269), with the TRAPINFO that
MREADY would give. -/
def State.scaccRecord (s : State) (key : Nat) (e : ScaccError) : List Byte :=
  s.laneRecord key { cause := e.cause, mask := e.lanes, addr := e.address, info := e.insn } e.pc none false

/-- The same of a gang that has left its partition (R87): it stands nowhere, and the record's location names its die alone (assumption 82). -/
def State.goneRecord (s : State) (die launch block idx : Nat) (e : ScaccError) : List Byte :=
  let xlate := match s.launchOf launch with | some l => l.packet.xlate | none => 0
  recordBytes e.address e.pc launch block (32 * idx + lowest e.lanes) e.lanes e.cause.code (e.insn.toNat % 256) (die * 2 ^ 14 + 16) (asidOf xlate) false

/-- The records that stand for a launch's gangs that are saved or wait for a next phase, which end with it (R87, R337). -/
def State.goneRecords (s : State) (launch : Nat) : List (List Byte) :=
  ((s.saved.filter fun v => v.launch == launch).filterMap fun v => v.kept.scacc.map (s.goneRecord v.die launch v.block v.idx))
  ++ (List.range Config.dies).flatMap fun d => (s.die d).entries.filterMap fun e =>
      match e with
      | .phase l b idx _ _ _ _ kept => if l = launch then kept.scacc.map (s.goneRecord d launch b idx) else none
      | _ => none

/-- A record of SCACC that stands when its gang ends is posted (R87). -/
def State.postScacc (s : State) (key : Nat) : State :=
  match (s.gangAt key).scaccError with
  | some e => s.post (s.scaccRecord key e)
  | none => s

/-- What a gang's slot leaves behind is no longer the machine's (R101): the pending loads and the logged accesses of a shadow gang. -/
def State.dropShadow (s : State) (sh : Option Nat) : State :=
  match sh with
  | none => s
  | some k => { s with loads := s.loads.filter fun l => l.gang ≠ k, oplog := s.oplog.filter fun e => e.gang ≠ k }

/-- The write completion times of a gang's writes, of its tokens' operations and of what its barriers were posted (R205, R318). -/
def State.lastWrite (s : State) (g : Gang) : Nat :=
  let own := (List.range 32).foldl (fun n k => max n (momentOf s.gtime (g.lane k).hzn)) 0
  let tokens := g.tokenEnd.foldl (fun n e => max n e.2) own
  match s.allocAt g.launch g.block (coreOf g.key) with
  | some a => a.bars.foldl (fun n b => max n b.2.w) tokens
  | none => tokens

/-- GANG_END (R101, R121): every thread has exited and every operation has completed; a shadow gang ends with its partner. -/
def State.endGang (s : State) (key : Nat) : State :=
  let g := s.gangAt key
  if !s.resident key || g.live != 0 || !s.quiet key || g.shadowOf.isSome then s
  else
    let s1 := s.postScacc key
    let grps := s1.groupsOf g
    let s2 := ((s1.dropShadow g.shadow).vacate key).onLaunch g.launch fun l => { l with hzn := max l.hzn (s.lastWrite g) }
    if g.byCrossing then s2
    else
      let s3 := s2.onLaunch g.launch fun l => { l with gone := l.gone ++ [g.number] }
      (s3.endBlock g.launch g.block (dieOf key)).checkGroups g.launch grps

/-- GANG_END (R101). -/
def execGangEnd (gang : Nat) (s : State) : Host.Outcome State Fault Refusal := .next (s.endGang gang)

/-- The batching contexts of a launch are no longer open (R253). -/
def State.closeCtxs (s : State) (launch : Nat) : State :=
  { s with cbs := s.cbs.filter fun e => match e.2 with | some c => c.launch ≠ launch | none => true }

/-- A launch has completed, but for its word (R318): no thread of it is left, and every die of its mask has read its packet (R319). -/
def State.launchOver (s : State) (launch : Nat) : Bool :=
  s.noThreads launch && (s.redseqs.all fun q => q.launch != launch || q.held.isEmpty)
  && match s.launchOf launch with
    | some l => !l.completing && l.unread.isEmpty
    | none => false

/-- LAUNCH_COMPLETION (R318): a release at system scope, so not before the margin after the last of its gangs' writes (R157). -/
def execLaunchCompletion (launch : Nat) (s : State) : Host.Outcome State Fault Refusal :=
  .next (if s.launchOver launch then
    let w := match s.launchOf launch with | some l => l.hzn | none => 0
    ((s.bring (w + s.marginNs.toNat)).closeCtxs launch).complete launch
  else s)

/-- ENERGY_WINDOW_RESET (R324, R325): at the end of a die's window a new one begins, at a multiple of 1,000,000 ns, with nothing drawn, and the die
issues again. -/
def execEnergyWindowReset (die : Nat) (s : State) : Host.Outcome State Fault Refusal :=
  let s1 := s.bring (1000000 * ((s.die die).enWindow + 1))
  .next (s1.onDie die fun d => { d with enUsed := 0, issueStopped := false, enWindow := windowOf s1.gtime })

/-- Charge a gang's draw to its block and its launch (R324). -/
def State.charge (s : State) (die : Nat) (c : Nat × Nat) : State :=
  let g := s.gangAt c.1
  if !s.resident c.1 then s
  else
    (s.onDie die fun d =>
      { d with drawn := d.drawn.map fun e => if e.1 = g.launch ∧ e.2.1 = g.block then (e.1, e.2.1, e.2.2 + c.2) else e }).onLaunch
      g.launch fun l => { l with charged := SMap.set 0 l.charged die (SMap.get 0 l.charged die + c.2) }

/-- The projected draw of the window (R325), in µJ. -/
def projected (used draw gtime : Nat) : Nat := used + draw * (1000000 - gtime % 1000000) / 10000

/-- The clock after a tick (R325). -/
def nextClock (mhz budget proj : Nat) : Nat :=
  if budget < proj then max 1000 (mhz - 100)
  else if 10 * proj < 9 * budget then min 3300 (mhz + 100)
  else mhz

/-- Draws in their order, within what the budget leaves (R3): the device never exceeds it, since it issues nothing once it is reached. -/
def clipDraws : Nat → List (Nat × Nat) → List (Nat × Nat)
  | _, [] => []
  | room, c :: cs => (c.1, min c.2 room) :: clipDraws (room - c.2) cs

/-- The moment of a die's next planner tick (R325): every 10 µs. DESIGN CHOICE (assumption 63): at multiples of 10,000 ns. -/
def Die.nextTick (d : Die) : Nat := 10000 * (d.planned + 1)

/-- Charge a share of the memory, link and fabric draw of a die to each block that requested bytes, and to its launch, in proportion to them (R324, R391).
DESIGN CHOICE (assumption 44): shares are whole µJ, rounded down, and what remains is charged to none. -/
def State.chargeBytes (s : State) (die fabric : Nat) : State :=
  let here := s.requested.filter fun e => e.1 == die
  let total := here.foldl (fun n e => n + e.2.2.2) 0
  let share := fun (e : Nat × Nat × Nat × Nat) => fabric * e.2.2.2 / total
  here.foldl
    (fun s e =>
      (s.onDie die fun d =>
        { d with drawn := d.drawn.map fun x => if x.1 = e.2.1 ∧ x.2.1 = e.2.2.1 then (x.1, x.2.1, x.2.2 + share e) else x }).onLaunch e.2.1
        fun l => { l with charged := SMap.set 0 l.charged die (SMap.get 0 l.charged die + share e) })
    { s with requested := s.requested.filter fun e => e.1 != die }

/-- ENERGY_PLANNER_TICK (R324, R325, R391): what the die drew in the last 10 µs is charged: by gang; memory, link and fabric by the bytes that were
requested; leakage and idle to none. The clock follows the projection; a die that has used its budget stops issuing. -/
def State.planEnergy (s : State) (die : Nat) (charges : List (Nat × Nat)) (idle fabric : Nat) : State :=
  let d0 := s.die die
  let t := d0.nextTick
  let budget := d0.enBudget.toNat
  let before := (d0.usedAt (t - 1)).toNat
  let room := budget - before
  let rest := min idle room
  let moved := min fabric (room - rest)
  let drawn := clipDraws (room - rest - moved) charges
  let draw := drawn.foldl (fun n c => n + c.2) (rest + moved)
  let s1 := s.bring t
  let same := windowOf (t - 1) = windowOf s1.gtime
  let used := if same then before + draw else (s1.enUsed die).toNat
  ((drawn.foldl (fun s c => s.charge die c) s1).chargeBytes die moved).onDie die fun d =>
    { d with
      enUsed := word used
      enWindow := windowOf s1.gtime
      planned := d.planned + 1
      lastDraw := draw
      clockMHz := nextClock d.clockMHz budget (projected used draw t)
      issueStopped := s1.issueStopped die || decide (budget ≤ used) }

/-- ENERGY_PLANNER_TICK (R325). -/
def execEnergyPlannerTick (die : Nat) (charges : List (Nat × Nat)) (idle : Nat × Nat) (s : State) : Host.Outcome State Fault Refusal :=
  .next (s.planEnergy die charges idle.1 idle.2)

/-- WEIGHT_REFRESH_START (R96): at next_start, which advances by the period. -/
def execWeightRefreshStart (die : Nat) (s : State) : Host.Outcome State Fault Refusal :=
  let d := s.die die
  .next (if !d.refreshValid then s
    else (s.bring d.nextStart).onDie die fun d =>
      { d with inWindow := true, nextStart := d.nextStart + d.refreshPeriod.toNat })

/-- The moment at which the window that is open ends (R96). -/
def Die.windowEnd (d : Die) : Nat := d.nextStart - d.refreshPeriod.toNat + d.refreshLen.toNat

/-- WEIGHT_REFRESH_END (R96): the length of the window after its start; reads that it held can complete. -/
def execWeightRefreshEnd (die : Nat) (s : State) : Host.Outcome State Fault Refusal :=
  let d := s.die die
  .next (if !d.inWindow then s
    else (s.bring d.windowEnd).onDie die fun d => { d with inWindow := false })

/-- A thread of a WCLEAR goes on when every partition that it named has been cleared (R356). -/
def State.clearWaiters (s : State) (core : Nat) : State :=
  { s with
    gangs := s.gangs.map fun g =>
      if coreOf g.key = core then
        g.onLanes g.live fun _ t =>
          match t.wait with
          | .clear mask => if (clearParts core mask).any s.partClearing then t else t.release
          | _ => t
      else g }

/-- A gang that is still resident when its partition is cleared (R378 steps 1, 3 and 4): registers, windows and return slots. -/
def Gang.cleared (g : Gang) : Gang :=
  { g.onLanes (BitVec.allOnes 32) fun _ t => { t with d := [], dValid := 1, windows := [], slots := 0 } with g := [], gValid := 1 }

/-- What is on its way to the registers of a partition's gangs has no register to come to any more (R378 step 4): loads are dropped, and a returning atomic is
performed without its reply (assumption 68). -/
def State.dropReplies (s : State) (part : Nat) : State :=
  let mine := fun (key : Nat) => partOf key == part
  let s1 := (s.loads.filter fun l => mine l.gang).foldl (fun s l => s.unpend l.gang l.lane l.dst) s
  let s2 := (s.atoms.filter fun a => mine a.gang).foldl (fun s a => match a.dst with | some n => s.unpend a.gang a.lane (.d n) | none => s) s1
  { s2 with
    loads := s2.loads.filter fun l => !mine l.gang
    atoms := s2.atoms.map fun a => if mine a.gang then { a with dst := none } else a }

/-- The end of a partition's clearing (R356, R378): the array is empty, windows, log entries and return slots of the partition are none, its unheld
scratch rows and its register bank hold zeros, and the partition is of its new world. -/
def State.clearedPart (s : State) (part : Nat) : State :=
  match s.clearing.find? fun c => c.partition == part with
  | none => s
  | some c =>
    let s := s.dropReplies part
    State.clearWaiters
      { s with
        gangs := s.gangs.map fun g => if partOf g.key = part then g.cleared else g
        arrays := SMap.set Array8.reset s.arrays part Array8.reset
        oplog := s.oplog.filter fun e => e.partition ≠ part
        worlds := SMap.set 0 s.worlds part c.world
        dirtyRows := SMap.set 0 s.dirtyRows part 0
        clearing := s.clearing.filter fun c => c.partition ≠ part } (part / 8)

/-- A spilled entry goes back before this one: one of the same queue, spilled earlier, in another launch's ring of the die (R329). -/
def State.laterSpill (s : State) (die launch : Nat) (e : RingSlot) : Bool :=
  s.rings.any fun r => r.die == die && r.launch != launch
    && r.live.any fun f => f.kind == e.kind && f.queue == e.queue && decide (f.stamp < e.stamp)

/-- The queue of a slot's entry has room for it (R327). -/
def State.refillRoom (s : State) (die : Nat) (e : RingSlot) : Bool :=
  if e.kind = kindWindow then
    decide (s.windowHeld (e.queue / 256) (e.queue / 8 % 32) (e.queue % 8) < Config.windowEntries)
  else if e.kind = kindConstraint then decide (s.inputLoad die < Config.batchQueue)
  else if e.kind = kindService then decide (s.serviceLoad e.queue < Config.serviceQueue)
  else if e.kind = kindPhase then
    decide ((SMap.get [] (s.die die).phases e.queue).length < Config.phaseQueue + (s.rings.foldl (fun n r => if r.die = die then n + r.count kindPhase e.queue else n) 0))
  else if e.kind = kindRedseq then
    decide (s.seqLoad e.queue < Config.redseqBuffer) || s.redseqs.any fun q => seqKey q.pa q.ty == e.item.1 && q.next == e.item.2
  else decide (s.queuedLaunches die e.queue - s.spilledLaunches die e.queue < (if e.queue = 8 then Config.systemQueue else Config.blockQueue))

/-- The first entry of a list that satisfies a test is changed. -/
def modifyFirst {α : Type} (p : α → Bool) (f : α → α) : List α → List α
  | [] => []
  | a :: as => if p a then f a :: as else a :: modifyFirst p f as

/-- The entry of a slot is back in its queue. -/
def State.refilled (s : State) (launch die : Nat) (e : RingSlot) : State :=
  if e.kind = kindConstraint then
    match s.ctxOf die e.item.1 with
    | some c => (s.setCtx die e.item.1 (some (c.mark e.item.2 fun it => { it with spilled := false }))).cbRun die e.item.1
    | none => s
  else if e.kind = kindService then
    { s with
      atoms := modifyFirst (fun a => a.spilled && a.launch == launch && ownerOf a.pa == e.queue) (fun a => { a with spilled := false }) s.atoms }
  else if e.kind = kindRedseq then
    { s with
      redseqs := s.redseqs.map fun q =>
        if q.launch = launch ∧ seqKey q.pa q.ty = e.item.1 then { q with spilled := q.spilled.filter (· ≠ e.item.2) } else q }
  else s

/-- OVERFLOW_REFILL (R329): the oldest entry of a ring whose queue has room goes back. -/
def State.refill (s : State) (launch die : Nat) : State :=
  let live := (s.ringOf launch die).live
  let first := fun (e : RingSlot) => (live.find? fun f => f.kind == e.kind && f.queue == e.queue) == some e
  match live.find? fun e => first e && s.refillRoom die e && !s.laterSpill die launch e with
  | none => s
  | some e => (s.unspill launch die e).refilled launch die e

/-- OVERFLOW_REFILL (R329). -/
def execOverflowRefill (launch die : Nat) (s : State) : Host.Outcome State Fault Refusal := .next (s.refill launch die)

/-- SYNCHRONISATION_MARGIN_REACHED (R157, R205): GTIME reaches the thread's hzn and the margin. -/
def execSynchronisationMarginReached (gang lane : Nat) (s : State) : Host.Outcome State Fault Refusal :=
  .next (s.bring (momentOf s.gtime ((s.gangAt gang).lane lane).hzn + s.marginNs.toNat))

end Sys2Proof.Machine
end

