-- ==== Sys2Proof/Machine/Faults.lean ====
section
/-! DEFINITION. Fault service and the fault queue, machine checks and link losses, and the end of a launch by system software (R127, R269 to R273,
R334, R337, R363). -/

namespace Sys2Proof.Machine

/-- THE SECOND WALK (R269, R273): an access is checked against the tables as they are, with its own privilege. -/
def State.rewalk (s : State) (f : FaultItem) : Option (Cause × Nat) :=
  let acc := Access.ofIndex f.access
  if !canonical f.va then some (.pfNotPresent, faultInfo acc false 3)
  else match s.walk f.xlate f.va with
    | .error (level, malformed) => some (.pfNotPresent, faultInfo acc malformed level)
    | .ok l => (checkLeaf l.pte acc f.priv).map fun c => (c, faultInfo acc false l.level)

/-- The leaf of a held access still has t set (R273). -/
def State.inTransit (s : State) (f : FaultItem) : Bool :=
  match s.walk f.xlate f.va with
  | .ok l => Pte.t l.pte
  | .error _ => false

/-- A legal fq_size (R363). -/
def legalSize (n : Nat) : Bool := decide (64 ≤ n ∧ n ≤ 65536) && n == 2 ^ (bitLen n - 1)

/-- The fault queue is configured and has room for one record (R363). -/
def State.queueRoom (s : State) : Bool :=
  s.hub.fqBase != 0 && legalSize s.hub.fqSize.toNat
  && decide ((word s.hub.fqTail - s.hub.fqHead).toNat < s.hub.fqSize.toNat)

/-- FAULT_POST (R269, R363): a record is written at the tail, which then advances. -/
def State.postRecord (s : State) (record : List Byte) : State :=
  let s1 := s.hubWrite (s.hub.fqBase.toNat + 64 * (s.hub.fqTail % s.hub.fqSize.toNat)) record
  { s1 with hub := { s1.hub with fqTail := s1.hub.fqTail + 1 } }

/-- Change a fault item. -/
def State.onFault (s : State) (i : Nat) (f : FaultItem → FaultItem) : State := { s with faults := s.faults.modify i f }

/-- A fault item is done with. -/
def State.dropFault (s : State) (i : Nat) : State := { s with faults := s.faults.eraseIdx i }

/-- Lanes of a gang that wait with fault service, and that no fault of the gang still names, issue again (R127, R351); a stepped one has its step still to
do (R124). -/
def State.releaseLogged (s : State) (key : Nat) : State :=
  let named := fun (k : Nat) => s.faults.any fun f => match f.who with | .insn g m _ => g == key && m.getLsbD k | _ => false
  s.onLanes key (s.gangAt key).live fun k t =>
    if t.wait = .logged ∧ !named k then
      (if t.stepping = 2 then { t with wait := .no, bundle := some k, stepping := 1 } else { t with wait := .no, bundle := none })
    else t

/-- The end of a launch by system software (R337, R367): its gangs are ended where they stand, what is queued, saved or on its way of it is dropped,
its weight window closes, and its word is written with status 0x04. -/
def State.endLaunch (s : State) (num : Nat) : State :=
  let keys := (s.gangs.filter fun g => g.launch == num).map (·.key)
  let mine := fun (k : Nat) => keys.contains k
  let keep := fun (q : List QueueEntry) => q.filter fun e => e.launch != num
  let s1 : State := { s with
    copies := s.copies.filter fun c => !mine c.gang
    arrays := SMap.mapv Array8.reset (fun a => { a with queue := a.queue.filter fun e => !mine e.gang }) s.arrays
    loads := s.loads.filter fun l => !mine l.gang
    stores := s.stores.filter fun t => !mine t.gang
    atoms := s.atoms.filter fun a => !mine a.gang
    acks := s.acks.filter fun a => !mine a.1
    oplog := s.oplog.filter fun e => !mine e.gang
    greds := s.greds.filter fun (r : Gred) => r.launch != num
    crossings := s.crossings.filter fun c => c.launch != num
    hostThreads := s.hostThreads.filter fun h => h.launch != num
    saved := s.saved.filter fun v => v.launch != num
    faults := s.faults.filter fun f =>
      match f.who with
      | .logged p e => s.oplog.any fun x => x.partition == p && x.entry == e && !mine x.gang
      | .insn g _ _ | .gred g | .save g | .machine g _ => !mine g
      | .copy id => s.copies.any fun c => c.id == id && !mine c.gang
      | .matrix p => ((s.array p).queue.head?.map fun (e : MatrixEntry) => !mine e.gang).getD false
      | .completion l => l != num
      | .hostLaunch _ _ | .record => true
    dies := SMap.mapv Die.reset
      (fun d =>
        { d with
          system := keep d.system
          blocks := SMap.mapv [] keep d.blocks
          phases := SMap.mapv [] keep d.phases
          drawn := d.drawn.filter fun e => e.1 != num }) s.dies }
  let s2 := (keys.foldl (fun s k => if s.resident k then (s.postScacc k).vacate k else s) s1).closeCtxs num
  let s2 := (s.goneRecords num).foldl State.post s2
  let s3 := { s2 with
    allocs := s2.allocs.filter fun a => a.launch != num
    dirtyRows := (s2.allocs.filter fun (a : Alloc) => a.launch == num).foldl (fun m (a : Alloc) => a.giveBack m) s2.dirtyRows }
  (s3.onLaunch num fun l => { l with status := 4, running := [], away := 0 }).complete num

/-- A thread that a machine check stopped goes on (R337): one that the sequencer was saving, at its safe point. -/
def State.resumeChecked (s : State) (key : Nat) : State :=
  let g := s.gangAt key
  s.onLanes key g.live fun _ t =>
    if t.cond ≠ .stopped .machineCheck then t
    else if g.taken ∧ t.mode = .user then { t.stopBy .safePoint with safeInfo := t.safeInfo }.preempted g.live
    else t.resume

/-- What hl_last of a host core reads (R364). -/
def State.setLast (s : State) (host : Nat) (v : Nat) : State := { s with hub := { s.hub with hlLast := SMap.set 0 s.hub.hlLast host v } }

/-- The record of a fault on a read of a launch that the hub starts: an access of no lane (R269). -/
def hostLaunchRecord (f : PageFault) (xlate : Word) : List Byte :=
  recordBytes f.va 0 0xFFFFFFFF 0xFFFFFFFF 0xFFFFFFFF 0 f.cause.code (f.info % 256) 16 (asidOf xlate) true

/-- HOST_LAUNCH (R351, R364): the hub acts as a LAUNCH in one lane, privileged in system world. The packet's address is physical. Where a LAUNCH
would trap nothing starts and hl_last reads 0; a page fault of its tables goes to fault service, and hl_last reads busy. -/
def State.hostLaunch (s : State) (host : Nat) (packet : Word) : State :=
  let pa := packet.toNat
  let p := Packet.parse ((List.range 128).map fun j => s.peek (pa + j))
  if pa % 128 ≠ 0 ∨ s.poisoned 0 pa ∨ p.completion.toNat % 8 ≠ 0 ∨ s.bootStep < 9 then s.setLast host 0
  else match s.plan hubCore true true p packet pa with
    | .error f =>
      State.setLast
        { s with
          faults := s.faults ++
            [{ who := .hostLaunch host packet, cause := f.cause, va := f.va, pc := 0, info := word f.info, access := Access.load.index,
               priv := true, xlate := p.xlate, record := hostLaunchRecord f p.xlate, entry := none, transit := false, posted := none }] } host (2 ^ 63)
    | .ok (s1, q) =>
      if (s1.launchBreach q).isSome ∨ (q.lines.any fun l => s1.poisoned 0 (l * 128)) then s1.setLast host 0
      else
        let (s2, num) := s1.startLaunch 0 q
        s2.setLast host num

/-- HOST_LAUNCH (R351). -/
def execHostLaunch (host : Nat) (packet : Word) (s : State) : Host.Outcome State Fault Refusal := .next (s.hostLaunch host packet)

/-- A RETRY answer, or a fault that no longer remains (R269, R270, R318, R337); none while a replay waits for room. -/
def State.retryFault (s : State) (i : Nat) : Option State :=
  match s.faults[i]? with
  | none => none
  | some f =>
    let s1 := s.dropFault i
    match f.who with
    | .logged p n => match s1.logEntry p n with
      | some e => s1.replay e
      | none => some s1
    | .insn key _ _ => some (s1.releaseLogged key)
    | .completion num => some (s1.complete num)
    | .machine key ok => some (if ok then s1.resumeChecked key else s1.endLaunch (s1.gangAt key).launch)
    | .hostLaunch host packet => some (s1.hostLaunch host packet)
    | .copy _ | .matrix _ | .gred _ | .save _ | .record => some s1

/-- A DELIVER answer with a cause (R127, R269, R272, R318, R337). -/
def State.deliverFault (s : State) (i : Nat) (cause : Cause) : State :=
  match s.faults[i]? with
  | none => s
  | some f =>
    let s1 := s.dropFault i
    match f.who with
    | .logged p n => match s1.logEntry p n with
      | some e =>
        s1.trapAt e.gang { cause := cause, mask := e.lanes, addr := f.va, info := f.info } e.pc
          (fun k => ((s1.gangAt e.gang).lane k).pc) (some e.entry)
      | none => s1
    | .insn key m transfer =>
      let s2 := (s1.onLanes key m fun _ t => { t with wait := .no }).releaseLogged key
      let r : TrapReq :=
        match transfer with
        | some target => { cause := .transitTarget, mask := m, addr := target, info := word f.cause.code }
        | none => { cause := cause, mask := m, addr := f.va, info := f.info }
      let pc := ((s1.gangAt key).lane (lowest m)).pc
      s2.trapAt key r pc (fun _ => pc) none
    | .copy id => s1.failCopy id cause f.va
    | .matrix p => s1.failTile p cause f.va
    | .gred key => s1.failGred key cause f.va
    | .completion num => s1.forget num
    | .machine key _ => s1.endLaunch (s1.gangAt key).launch
    | .hostLaunch host _ => s1.setLast host 0
    | .save _ | .record => s1

/-- A retry that waits for room is held, and tried again (R270). -/
def State.retryOrHold (s : State) (i : Nat) : State :=
  match s.retryFault i with
  | some s1 => s1
  | none => s.onFault i fun f => { f with transit := true, posted := none }

/-- A machine check, a trap record: posted as they are. -/
def Faulter.plain : Faulter → Bool
  | .record | .machine _ _ => true
  | _ => false

/-- The record that is posted: with the cause and TRAPINFO of the fault that remains (R269), in the space of the access (R228, R266). -/
def FaultItem.remaining (f : FaultItem) (c : Cause) (info : Nat) : FaultItem :=
  let i := f.info.toNat / 2 ^ 14 * 2 ^ 14 + bit (Word.flag f.info 9) * 2 ^ 9 + info
  { f with
    cause := c, info := word i
    record := f.record.take 0x20 ++ leBytes 1 c.code ++ leBytes 1 (i % 256) ++ f.record.drop 0x22 }

/-- FAULT_SERVICE (R269, R273): the second walk; a transit is held, a fault that is gone is retried, one that remains is posted when the queue
has room. Firmware and engine give the same results. -/
def State.serviceFault (s : State) (i : Nat) : State :=
  match s.faults[i]? with
  | none => s
  | some f =>
    if f.posted.isSome ∨ f.transit then s
    else if f.who.plain then
      if !s.queueRoom then s
      else if f.who = .record then (s.postRecord f.record).dropFault i
      else (s.postRecord f.record).onFault i fun f => { f with posted := some s.hub.fqTail }
    else match s.rewalk f with
      | none => s.retryOrHold i
      | some (.pfWriteInTransit, _) => s.onFault i fun f => { f with transit := true }
      | some (c, info) =>
        let g := f.remaining c info
        if !s.queueRoom then s
        else (s.postRecord g.record).onFault i fun _ => { g with posted := some s.hub.fqTail }

/-- FAULT_SERVICE (R269). -/
def execFaultService (fault : Nat) (s : State) : Host.Outcome State Fault Refusal := .next (s.serviceFault fault)

/-- TRANSIT_RETRY (R273): once t reads 0 the held access is retried. -/
def execTransitRetry (fault : Nat) (s : State) : Host.Outcome State Fault Refusal :=
  .next (match s.faults[fault]? with
    | some f => if f.transit ∧ !s.inTransit f then s.retryOrHold fault else s
    | none => s)

/-- FQ_ANSWER (R363): an answer to an outstanding record; any other is ignored. A cause code outside R359 delivers the fault's own cause. -/
def State.answer (s : State) (v : Word) : State :=
  let size := s.hub.fqSize.toNat
  match s.faults.findIdx? fun f => match f.posted with | some t => t % size == Word.field v 15 0 % size | none => false with
  | none => s
  | some i =>
    if Word.flag v 16 then
      s.deliverFault i ((Cause.ofCode (Word.field v 31 24)).getD (((s.faults[i]?).map (·.cause)).getD .pfNotPresent))
    else s.retryOrHold i

/-- FQ_ANSWER (R363). -/
def execFqAnswer (value : Word) (s : State) : Host.Outcome State Fault Refusal := .next (s.answer value)

/-- FQ_SIZE_WRITE (R363): a write of fq_size, or of fq_base; an illegal value is ignored. -/
def execFqSizeWrite (size : Bool) (value : Word) (s : State) : Host.Outcome State Fault Refusal :=
  .next (if size then (if legalSize value.toNat then { s with hub := { s.hub with fqSize := value } } else s)
    else if value.toNat % 4096 = 0 then { s with hub := { s.hub with fqBase := value } } else s)

/-- A machine check fires the snapshot trigger where SNAPCTL.mc_en is set (R337). -/
def State.checkSnapshot (s : State) : State := if s.snapMc then s.fireSnapshot else s

/-- The threads of a gang that take a machine check with a source code (R337). Which threads the failed row held something of, the event names by thread
numbers: 32 times the slot's key, plus the lane; with code 2, a gang depends on the array's contents as a whole. -/
def State.checkLanes (s : State) (code part : Nat) (named : List Nat) (g : Gang) : Mask :=
  let here := partOf g.key == part
  let partner := match g.shadowOf with | some k => k | none => (g.shadow).getD g.key
  let depends := named.any fun n => n / 32 == g.key
  those g.live fun k =>
    let isNamed := named.contains (32 * g.key + k)
    match code with
    | 1 => here
    | 2 => here && (((s.array part).queue.any fun e => e.gang == g.key) || depends)
    | 3 => isNamed || named.contains (32 * partner + k)
    | 4 => isNamed
    | _ => s.allocs.any fun a => a.launch == g.launch && a.block == g.block && !g.byCrossing && SMap.get 0 a.banks part != 0

/-- A gang's threads of a mask take a machine check (R337): they stop at once, with their trap registers, and one record is posted; the failed state
held something of the threads of `lost`. A thread that is stopped already stays as it is, but for a gang that the sequencer saves, which only a
machine check stops (R308). -/
def State.checkGang (s : State) (code : Nat) (address : Word) (lost : Mask) (key : Nat) (m : Mask) : State :=
  let recoverable := m &&& lost == 0
  let info := fun (ok : Bool) => word (code + bit ok * 2 ^ 8)
  let r := fun (ok : Bool) => ({ cause := .machineCheck, mask := m, addr := address, info := info ok } : TrapReq)
  let stop := fun (t : Thread) =>
    match t.cond with
    | .stopped .safePoint => t.stopBy .machineCheck
    | .stopped _ => t
    | _ => t.stopBy .machineCheck
  let s1 := s.onLanes key m fun k t => stop (t.trapRegs (r (!lost.getLsbD k)) t.pc none)
  let s2 := s1.onGang key fun g => g.split ((s.gangAt key).mates m)
  let rec' := s2.laneRecord key (r recoverable) ((s2.gangAt key).lane (lowest m)).pc none false
  { s2 with
    faults := s2.faults ++
      [{ who := .machine key recoverable, cause := .machineCheck, va := address, pc := 0, info := info recoverable, access := 0, priv := false,
         xlate := (s.gangAt key).xlate, record := rec', entry := none, transit := false, posted := none }] }

/-- MACHINE_CHECK (R337). A partition that took a source code is cleared once its gangs have gone, at once where it has none; during a clearing the
clearing begins again. -/
def State.machineCheck (s : State) (code part : Nat) (address : Word) (named : List Nat) (recoverable : Bool) : State :=
  let s1 := s.gangs.foldl
    (fun s g =>
      let m := s.checkLanes code part named g
      let lost := those m fun k => !recoverable && (named.isEmpty || named.any fun n => if code = 2 then n / 32 == g.key else n == 32 * g.key + k)
      if m = 0 then s else s.checkGang code address lost g.key m) s
  let s2 := if s1.slotsUsed part = 0 then s1.startClearing part none
    else { s1 with checked := if s1.checked.contains part then s1.checked else s1.checked ++ [part] }
  s2.checkSnapshot

/-- MACHINE_CHECK (R337). -/
def execMachineCheck (code partition : Nat) (address : Word) (named : List Nat) (recoverable : Bool) (s : State) :
    Host.Outcome State Fault Refusal := .next (s.machineCheck code partition address named recoverable)

/-- LINK_LOSS (R337): of a die-to-die link, or of a Wilkan port: a record only, with address 0. -/
def execLinkLoss (wilkan : Bool) (_link : Nat) (s : State) : Host.Outcome State Fault Refusal :=
  .next (s.post (machineRecord (if wilkan then 0x12 else 0x10) 0)).checkSnapshot

/-- A member device fails (R251): every chunk that is not at every survivor is replayed, with identities in its place, and the failure is logged and posted
(R337, R389). The step names the first chunk that some survivor lacks, which only the devices together know: where this device has delivered it, it is
delivered again from its sources. -/
def State.memberFails (s : State) (launch grp rank first : Nat) : State :=
  let world := match s.launchOf launch with | some l => l.world | none => 0
  let fail := fun (fs : List Nat) => if fs.contains rank then fs else fs ++ [rank]
  let open' := fun (l g : Nat) => decide (l = launch ∧ g = grp)
  let s1 := { s with
    greds := s.greds.map fun (r : Gred) =>
      if open' r.launch r.grp then
        { r with next := min first r.next, failedAt := if r.failed = [] then min first r.next else r.failedAt, failed := fail r.failed }
      else r
    gredws := s.gredws.map fun (r : GredRound) => if open' r.launch r.grp then { r with failed := fail r.failed } else r }
  ((s1.violate (.wilkan ((s.free 0).toNat % Config.wilkanPorts)) (word rank) 0 0x09 world 0).post (machineRecord 0x11 (word rank))).checkSnapshot.gredwCheck launch grp

/-- GROUP_MEMBER_FAILURE (R251): the rank that fails, and the first chunk that is not delivered to every survivor. -/
def execGroupMemberFailure (launch group : Nat) (rank : Nat × Nat) (s : State) : Host.Outcome State Fault Refusal :=
  .next (s.memberFails launch group rank.1 rank.2)

end Sys2Proof.Machine
end

