-- ==== Sys2Proof/Machine/Preempt.lean ====
section
/-! DEFINITION. Pre-emption: requests and victims, the watchdog, the end of a save by routine or sequencer, and restores (R308 to R314, R326, R338 to
R340). -/

namespace Sys2Proof.Machine

/-- The rank of a launch among victims (R326): a block of the system queue treats every priority as lower. -/
def Launch.rank (l : Launch) : Nat := if l.packet.system then 8 else l.priority

/-- The highest rank at which a block waits for lack of space on a die (R326). -/
def State.waitingRank (s : State) (die : Nat) : Option Nat :=
  (queueOrder.find? fun q => match (s.die die).queueOf q with
    | e :: _ => (match s.headNeed die q.1 e with
      | some n => !s.entrySpace die e n
      | none => false)
    | [] => false).map (·.1)

/-- One block is the victim before another (R326): lower priority, then the later launch, then the higher block number. -/
def victimBefore (a b : Nat × Nat × Nat) : Bool :=
  decide (a.1 < b.1) || (a.1 == b.1 && (decide (b.2.1 < a.2.1) || (a.2.1 == b.2.1 && decide (b.2.2 < a.2.2))))

/-- The victim on a die (R326): rank, launch, block. -/
def State.victim (s : State) (die : Nat) : Option (Nat × Nat × Nat) :=
  match s.waitingRank die with
  | none => none
  | some r =>
    let lower := (s.residentBlocks die).filterMap fun b =>
      match s.launchOf b.1 with
      | some l => if l.rank < r then some (l.rank, b.1, b.2) else none
      | none => none
    lower.foldl (fun best b => match best with | none => some b | some x => some (if victimBefore b x then b else x)) none

/-- PREEMPT_REQUEST (R326, R338, R362): by the scheduler of the die that the first gang names, for its victim block and only while no request
stands; by system software for the launch that PREEMPTCTL names; by the debugger for gangs. -/
def State.requestPreempt (s : State) (source : PreemptBy) (gangs : List Nat) : State :=
  let die := dieOf (gangs.headD 0)
  match source with
  | .debugger => gangs.foldl (fun s k => s.requestGang k) s
  | .control => if s.requestStands die then s else s.requestLaunch die (s.die die).preemptLaunch.toNat
  | .scheduler =>
    if s.requestStands die then s
    else match s.victim die with
      | none => s
      | some (_, launch, block) =>
        s.gangs.foldl (fun s g =>
          if dieOf g.key = die ∧ g.launch = launch ∧ g.block = block ∧ !g.byCrossing then s.requestGang g.key else s) s

/-- PREEMPT_REQUEST (R326). -/
def execPreemptRequest (source : PreemptBy) (gangs : List Nat) (s : State) : Host.Outcome State Fault Refusal :=
  .next (s.requestPreempt source gangs)

/-- PREEMPT_WATCHDOG (R338): GTIME reaches the deadline of a standing request: the request is withdrawn, threads stopped at a SAFE go on, and a
record with cause PREEMPT is posted. -/
def State.watchdog (s : State) (key : Nat) : State :=
  let g := s.gangAt key
  match g.request with
  | none => s
  | some deadline =>
    if !s.resident key ∨ g.taken then s
    else
      let s1 := s.bring deadline
      let s2 := s1.onGang key fun g => { g.releaseStops with request := none }
      let r : TrapReq := { cause := .preempt, mask := g.live, addr := 0, info := 0 }
      s2.post (s2.laneRecord key r (g.lane (lowest g.live)).pc none false)

/-- PREEMPT_WATCHDOG (R338). -/
def execPreemptWatchdog (gang : Nat) (s : State) : Host.Outcome State Fault Refusal := .next (s.watchdog gang)

/-- Bytes without poison. -/
def plainBytes (bs : List Byte) : List Carried := bs.map fun b => { val := b, valid := true, poison := false }

/-- Write fields of a save area, in order, through the gang's translation and with privilege. -/
def State.areaWrite (s : State) (key : Nat) (area : Word) : List (Nat × List Carried) → Except PageFault State
  | [] => .ok s
  | (off, bs) :: rest =>
    match s.translateRange (coreOf key) (s.gangAt key).xlate (area + word off) .store true bs.length with
    | .error f => .error f
    | .ok (s1, pas) => (s1.landGlobal key (s.gangAt key).world pas bs).areaWrite key area rest

/-- The image of a barrier (R311). -/
def Bar.image (b : Bar) : List Byte :=
  leBytes 8 b.pending.toNat ++ leBytes 2 b.expected ++ leBytes 2 b.arrivals ++ leBytes 2 b.gen.toNat
  ++ leBytes 1 (match b.failed with | some (c, _) => c.code | none => 0) ++ leBytes 1 0

/-- What is written when a save is complete (R310, R311, R339), in ascending order: the sequencer's fields, with the barrier images when it leaves
no gang of the block on the core; then the flags word. -/
def coreFields (alloc : Option Alloc) (last hardware : Bool) (fields : List (Nat × List Carried)) : List (Nat × List Carried) :=
  (fields.filter fun f => decide (f.1 < 0x480))
  ++ (match alloc with
    | some a => if last then (List.range 32).map fun n => (0x480 + 16 * n, plainBytes (a.bar n).image) else []
    | none => [])
  ++ (fields.filter fun f => decide (0x480 ≤ f.1))
  ++ [(0, plainBytes (leBytes 8 (bit last + 2 * bit hardware)))]

/-- The union of the live masks of a gang's threads (R310). -/
def Gang.liveMask (g : Gang) : Word := (lanes g.live).foldl (fun v k => v ||| (g.lane k).trapInfo) 0

/-- The registers that a live mask names (R308). -/
def liveDs (v : Word) (allot : Nat) : List Nat := (List.range allot).filter fun n => Word.flag v (n / 8)
def liveGs (v : Word) : List Nat := (List.range 128).filter fun n => Word.flag v (16 + n / 16)
def liveMs (v : Word) : List Nat := (List.range 12).filter fun n => Word.flag v (24 + n)

/-- The elements of acc0 to acc3, as they lie in an area (R310). -/
def Array8.accBytes (a : Array8) (K : Nat) : List Byte := (List.range 64).flatMap fun e => leBytes 4 (a.elem K e)

/-- Cut a list into pieces of 128 at rising offsets. -/
def pieces (off : Nat) : Nat → List Carried → List (Nat × List Carried)
  | 0, _ => []
  | n + 1, bs => if bs.isEmpty then [] else (off, bs.take 128) :: pieces (off + 128) n (bs.drop 128)

/-- The scratch image of an allocation, with its poison (R71, R310, R314). -/
def Alloc.imageFields (a : Alloc) (off : Nat) : List (Nat × List Carried) :=
  pieces off (a.size / 128) ((List.range a.size).map fun j => { val := a.byte j, valid := true, poison := a.poisonAt j })

/-- The fields that the sequencer writes (R310, R314), ascending. -/
def State.sequencerFields (s : State) (g : Gang) (alloc : Option Alloc) : List (Nat × List Carried) :=
  let v := g.liveMask
  let ks := lanes g.live
  [(8, plainBytes (leBytes 8 g.live.toNat))]
  ++ ((liveMs v).map fun n => (0x10 + 4 * n, plainBytes (leBytes 4 (g.getM n).toNat)))
  ++ (ks.map fun k =>
      let t := g.lane k
      (0x80 + 32 * k, plainBytes (leBytes 8 t.trapPc.toNat ++ leBytes 8 t.trapAddr.toNat ++ leBytes 8 t.trapInfo.toNat ++ leBytes 8 t.preds.toNat)))
  ++ (if Word.flag v 36 then (List.range 4).map fun K => (0x800 + 256 * K, plainBytes ((s.array (partOf g.key)).accBytes K)) else [])
  ++ ((liveGs v).map fun n => (0xC00 + 8 * n, plainBytes (leBytes 8 (g.getG n).toNat)))
  ++ ((List.range g.allot).flatMap fun n =>
      (ks.filter fun k => Word.flag (g.lane k).trapInfo (n / 8)).map fun k =>
        (0x1000 + 256 * n + 8 * k, plainBytes (leBytes 8 ((g.lane k).getD n).toNat)))
  ++ (match alloc with | some a => a.imageFields (0x1000 + 256 * g.allot) | none => [])

/-- Everything that a gang's threads and operations wrote is performed and past the margin (R309: a release at system scope). -/
def State.drained (s : State) (key : Nat) : Bool :=
  let g := s.gangAt key
  let past := fun (w : Nat) => decide (w + s.marginNs.toNat ≤ s.gtime)
  !s.busyAsync key && !(s.loads.any fun l => l.gang == key) && ((lanes g.live).all fun k => s.releaseDone key k 5) && (g.tokenEnd.all fun e => past e.2)
  && (match s.allocAt g.launch g.block (coreOf key) with
    | some a => a.bars.all fun b => past b.2.w
    | none => true)

/-- Other gangs of the block are resident on the core. -/
def State.siblings (s : State) (g : Gang) : Bool :=
  s.gangs.any fun h => h.inBlock g.launch g.block (coreOf g.key) && h.key != g.key

/-- A saved block stands at the head of its block queue (R321). -/
def Die.enqueueSaved (d : Die) (q launch block : Nat) : Die :=
  if (d.queue q).contains (.saved launch block) then d else d.setQueue q (.saved launch block :: d.queue q)

/-- The record of a fault on a save area: an access of no lane (R269), for the gang's launch and block. -/
def saveRecord (g : Gang) (f : PageFault) : List Byte :=
  recordBytes f.va 0 g.launch g.block 0xFFFFFFFF 0 f.cause.code (f.info % 256) 16 (asidOf g.xlate) true

/-- THE END OF A SAVE (R309, R311, R313): the core's own fields are written, claims of the block on the core pass to this save when it is the last
there (a claimant that has a slot already waits for this save's restore again), the gang leaves its partition. A fault on the area goes to fault
service, and the save waits. -/
def State.finishSave (s : State) (key : Nat) (fields : List (Nat × List Carried)) (hardware : Bool) : State :=
  let g := s.gangAt key
  let core := coreOf key
  let alloc := s.allocAt g.launch g.block core
  let last := !s.siblings g
  if s.faults.any fun f => f.who == .save key then s
  else match s.areaWrite key g.saveArea (coreFields alloc last hardware fields) with
    | .error f =>
      let e := engineFault f
      { s with
        faults := s.faults ++
          [{ who := .save key, cause := e.cause, va := e.va, pc := 0, info := word e.info, access := Access.store.index, priv := true,
             xlate := g.xlate, record := saveRecord g e, entry := none, transit := false, posted := none }] }
    | .ok s1 =>
      let v : Saved :=
        { launch := g.launch, block := g.block, idx := g.idx, die := dieOf key, core := core, allot := g.allot, area := g.saveArea,
          lanes := g.live, carrier := last, group := none, phase := g.phase,
          kept := g.kept, slot := none }
      let claims := s1.saved.map fun w =>
        if last && w.launch == g.launch && w.block == g.block && w.core == core && !w.carrier && w.group.isNone then
          { w with group := some g.saveArea, slot := none }
        else w
      let q := match s1.launchOn g.launch (dieOf key) with | some l => l.packet.queue | none => 0
      (State.onDie { s1 with saved := claims ++ [v] } (dieOf key) fun d => d.enqueueSaved q g.launch g.block).vacate key

/-- SAVE_COMPLETE (R309): every thread of TRAPMASK has issued HALT, and the gang's operations have completed. -/
def State.saveComplete (s : State) (key : Nat) : State :=
  let g := s.gangAt key
  let halted := (lanes g.live).all fun k => (g.lane k).mode == .save && (g.lane k).wait == .halt
  if g.taken && g.live != 0 && halted && s.drained key then s.finishSave key [] false else s

/-- SAVE_COMPLETE (R309). -/
def execSaveComplete (gang : Nat) (s : State) : Host.Outcome State Fault Refusal := .next (s.saveComplete gang)

/-- CTX_SEQUENCER_SAVE (R314, R339): the sequencer waits as HALT does, writes what a routine writes, and the flags word last. -/
def State.sequencerSave (s : State) (key : Nat) : State :=
  let g := s.gangAt key
  if g.taken && g.live != 0 && ((lanes g.live).all fun k => (g.lane k).atSafe) && s.drained key then
    s.finishSave key (s.sequencerFields g (s.allocAt g.launch g.block (coreOf key))) true
  else s

/-- CTX_SEQUENCER_SAVE (R314). -/
def execCtxSequencerSave (gang : Nat) (s : State) : Host.Outcome State Fault Refusal := .next (s.sequencerSave gang)

/-- A saved block's energy is admitted (R324, R340), unless gangs of it are resident, and no other launch's weight window is open. -/
def State.restoreAdmitted (s : State) (l : Launch) (v : Saved) : Bool :=
  let n := l.savedNeed v.block (s.savedOf v.launch v.block v.die).length
  s.entryAdmitted v.die (.saved v.launch v.block) n

/-- A saved block is the entry that the die considers next (R321). -/
def State.restoreTurn (s : State) (l : Launch) (v : Saved) : Bool :=
  let q := l.packet.queue
  (((s.die v.die).queue q).head? == some (.saved v.launch v.block))
  && match (queueOrder.takeWhile fun x => x != (q, false)).findSome? (s.headFits v.die) with
    | some _ => false
    | none => true

/-- The members of a carrier's group start once every thread of the carrier has issued ERET (R313). -/
def State.carrierGone (s : State) (v : Saved) : Bool :=
  v.carrier || (v.group.isNone && !(s.gangs.any fun g => g.inBlock v.launch v.block v.core && g.carrier))

/-- The barrier of an image (R311); the address of a failure is not in it. -/
def State.barOf (s : State) (bs : List Byte) (n : Nat) : Bar where
  pending := word (recField bs (16 * n) 8)
  expected := recField bs (16 * n + 8) 2
  arrivals := recField bs (16 * n + 10) 2
  gen := BitVec.ofNat 16 (recField bs (16 * n + 12) 2)
  failed := (Cause.ofCode (recField bs (16 * n + 14) 1)).map fun c => (c, s.freeAddr)
  w := 0

/-- The allocation of a restored gang, with the barrier images where the flags say that they are valid (R312). -/
def State.restoreAlloc (s : State) (l : Launch) (v : Saved) (core : Nat) (head : List Byte) : State :=
  if !v.carrier then s
  else
    let s1 := s.allocate (l.savedNeed v.block 1) core (lanes v.lanes).length
    if Word.flag (word (recField head 0 8)) 0 then
      s1.onAlloc v.launch v.block core fun a =>
        (List.range 32).foldl (fun a n => a.setBar n (s.barOf (head.drop 0x480) n)) a
    else s1

/-- The saved TRAPMASK: the word at 0x8 of the area, as the save routine or later software left it (R310, R312). -/
def savedMask (bs : List Byte) : Mask := BitVec.ofNat 32 (recField bs 8 8)

/-- A thread at its restore (R312), by the area's TRAPMASK; its sticky flags and recorded arrivals stand (R51, R153). -/
def Launch.restoreThread (l : Launch) (v : Saved) (m : Mask) (k : Nat) : Thread :=
  let t := Thread.start l.packet.restoreRoutine l.num v.block (32 * v.idx + k) (if m.getLsbD k then .runnable else .exited)
  v.kept.thread k (if m.getLsbD k then
    { t with
      mode := .restore, trapCause := BitVec.ofNat 8 (Cause.code .preempt), trapMask := m, trapInfo := word (bit v.carrier) }
  else t)

/-- A thread as the sequencer restores it (R314): its registers by its live mask, and its pc. -/
def Saved.resumeThread (v : Saved) (bs : List Byte) (k : Nat) (t : Thread) : Thread :=
  let f := fun (i : Nat) => word (recField bs (0x80 + 32 * k + 8 * i) 8)
  let ds := liveDs (f 2) v.allot
  let u := ds.foldl (fun t n => t.setD n (word (recField bs (0x1000 + 256 * n + 8 * k) 8))) t
  { u with
    pc := f 0, meet := f 1, ix := BitVec.ofNat 7 (Word.field (f 2) 46 40), p := BitVec.ofNat 7 (f 3).toNat, mode := .user, trapPc := f 0 }

/-- The union of the live masks in an area. -/
def Saved.liveMask (_v : Saved) (bs : List Byte) : Word :=
  (Machine.lanes (savedMask bs)).foldl (fun w k => w ||| word (recField bs (0x90 + 32 * k) 8)) 0

/-- The gang as the sequencer restores it (R314). -/
def Saved.resumeGang (v : Saved) (bs : List Byte) (g : Gang) : Gang :=
  let live := v.liveMask bs
  let g1 := (liveMs live).foldl (fun g n => g.setM n (BitVec.ofNat 32 (recField bs (0x10 + 4 * n) 4))) g
  let g2 := (liveGs live).foldl (fun g n => g.setG n (word (recField bs (0xC00 + 8 * n) 8))) g1
  g2.onLanes (savedMask bs) fun k t => v.resumeThread bs k t

/-- The accumulators of an area. -/
def restoreAcc (bs : List Byte) (a : Array8) : Array8 :=
  (List.range 256).foldl (fun a e => a.setElem (e / 64) (e % 64) (recField bs (0x800 + 4 * e) 4)) a

/-- A restored gang may begin: the members of a carrier's group have their claims on its new allocation (R313). -/
def State.groupClaims (s : State) (v : Saved) (core : Nat) : State :=
  { s with
    saved := s.saved.map fun w => if v.carrier && w.launch == v.launch && w.block == v.block && w.group == some v.area then { w with group := none, core := core } else w }

/-- A saved block that has been admitted leaves its queue: its other gangs have their slots, and its carriers their allocations (R312, R340). -/
def State.admitSaved (s : State) (l : Launch) (v : Saved) (plan : List (Saved × Nat)) : State :=
  let slot := fun (w : Saved) => (plan.find? fun e => e.1 == w).map (·.2)
  let s1 := { s with saved := s.saved.map fun w => match slot w with | some k => { w with slot := some k } | none => w }
  let s2 := (plan.filter fun e => e.1.carrier).foldl
    (fun s e => s.allocate (l.savedNeed v.block 1) (coreOf e.2) (lanes e.1.lanes).length) s1
  s2.onDie v.die fun d => d.setQueue l.packet.queue ((d.queue l.packet.queue).filter (· ≠ .saved v.launch v.block))

/-- The state in which a saved gang may begin its restore in a slot, not in a partition that has yet to be cleared (R337, R378): its block is admitted first,
where it has not been. -/
def State.restoreReady (s : State) (l : Launch) (v : Saved) (key : Nat) : Option State :=
  match v.slot with
  | some k => if k = key ∧ s.carrierGone v ∧ !s.partClearing (partOf key) then some s else none
  | none =>
    if s.restoreAdmitted l v && s.restoreTurn l v && s.carrierGone v then (s.restorePlan l v key).map (s.admitSaved l v) else none

/-- RESTORE_START (R312 to R314, R340): by the launch's restore routine, or by the sequencer, as FUNCMODE says now. An area that cannot be read
leaves the gang saved. -/
def State.restore (s : State) (i key : Nat) : State :=
  match s.saved[i]? with
  | none => s
  | some v =>
    match s.launchOn v.launch v.die with
    | none => s
    | some l =>
      match s.restoreReady l v key with
      | none => s
      | some u =>
        let core := coreOf key
        let hardware := u.funcBit (dieOf key) 3
        let size := match u.allocAt v.launch v.block core with | some a => a.size | none => 256 * ((l.packet.scratch + 255) / 256)
        let imageAt := 0x1000 + 256 * v.allot
        match u.translateRange core l.packet.xlate v.area .load true (if hardware then imageAt + size else 0x680) with
        | .error _ => u
        | .ok (s0, pas) =>
          let bs := s0.openBytes l.world (s0.view core) pas
          let s1 := (State.groupClaims { s0 with saved := s0.saved.eraseIdx i } v core).restoreAlloc l v core bs
          let g := { Gang.start key l.num v.block v.idx v.allot l.packet.xlate l.world ((List.range 32).map fun k => l.restoreThread v (savedMask bs) k)
              l.packet.trapHandler with
            phase := v.phase, saveArea := v.area, inArea := true, carrier := v.carrier, scaccError := v.kept.scacc }
          let s3 := State.acquireAt { s1 with gangs := s1.gangs ++ [g] } core 5
          if !hardware then s3
          else
            let s4 := s3.onGang key (v.resumeGang bs)
            let s5 := if Word.flag (v.liveMask bs) 36 then s4.onArray (partOf key) (restoreAcc bs) else s4
            let s6 := if !v.carrier then s5
              else s5.onAlloc v.launch v.block core fun a =>
                a.land 0 ((List.range size).map fun j =>
                  { val := bs.getD (imageAt + j) 0, valid := true, poison := s0.poisoned l.world (pas.getD (imageAt + j) 0) }) false
            (s6.endArea key).onGang key fun g => { g with carrier := false }

/-- RESTORE_START (R312). -/
def execRestoreStart (saved key : Nat) (s : State) : Host.Outcome State Fault Refusal := .next (s.restore saved key)

end Sys2Proof.Machine
end

