-- ==== Sys2Proof/Machine/Compaction.lean ====
section
/-! DEFINITION. The compaction engine of the managed heap (R280 to R288) and the compaction of code (R341, R342). -/

namespace Sys2Proof.Machine

/-- Bytes that an engine of the hub reads at a virtual address: it acts for the world whose line it finds (assumption 40). -/
def State.engineRead (s : State) (xlate va : Word) (n : Nat) : Except PageFault (State × List Byte) :=
  match s.translateRange hubCore xlate va .load true n with
  | .error f => .error f
  | .ok (s, pas) => .ok (s, s.openBytes (s.tag (lineOf (pas.headD 0))) s.peek pas)

/-- Bytes that an engine of the hub writes at a virtual address, for the world whose line it finds (assumption 40). -/
def State.engineWrite (s : State) (xlate va : Word) (bs : List Byte) : Except PageFault State :=
  match s.translateRange hubCore xlate va .store true bs.length with
  | .error f => .error f
  | .ok (s, pas) => .ok (s.writePas none 0 (s.tag (lineOf (pas.headD 0))) pas bs)

/-- A number that an engine of the hub reads at a virtual address. -/
def State.readNum (s : State) (xlate va : Word) (n : Nat) : Except PageFault (State × Nat) :=
  (s.engineRead xlate va n).map fun r => (r.1, leNat r.2)

/-- The heap descriptor as the engine reads it (R281). -/
structure HeapDesc where
  table : Nat
  count : Nat
  forward : Nat
  first : Nat
  last : Nat
  dest : Nat
  deriving DecidableEq, Repr

/-- Read the descriptor. -/
def State.readDesc (s : State) (c : Cycle) : Except PageFault (State × HeapDesc) :=
  (s.engineRead c.xlate (s.heapOf c.asid).descAt 64).map fun (s1, bs) =>
    let w := fun (i : Nat) => recField bs i 8
    (s1, { table := w 0, count := w 8, forward := w 0x10, first := w 0x20, last := w 0x28, dest := w 0x30 })

/-- Change a cycle. -/
def State.setCycle (s : State) (c : Cycle) : State := { s with cycles := s.cycles.map fun x => if x.asid = c.asid then c else x }

/-- The engine's walk starts at the source range's first line (R284). -/
def Cycle.begin (c : Cycle) (d : HeapDesc) : Cycle :=
  if c.begun then c else { c with begun := true, cursor := d.first, range := d.first, limit := d.last, destNext := d.dest }

/-- An entry of the object table as the engine reads it (R282): index, entry address, copy, size, pins, condemned. -/
structure TableEntry where
  index : Nat
  at' : Word
  copy : Nat
  live : Bool
  size : Nat
  pins : Nat
  condemned : Bool
  deriving DecidableEq, Repr

/-- Read the entries of a table from an index on. -/
def State.readTable (s : State) (c : Cycle) (d : HeapDesc) : Nat → Nat → Except PageFault (State × List TableEntry)
  | _, 0 => .ok (s, [])
  | i, n + 1 => do
    let at' := word (d.table + 16 * i)
    let (s, bs) ← s.engineRead c.xlate at' 16
    let e : TableEntry :=
      { index := i, at' := at', copy := recField bs 0 8 / 16 * 16, live := recField bs 0 1 % 2 == 1, size := recField bs 8 4,
        pins := recField bs 12 2, condemned := recField bs 14 1 % 2 == 1 }
    let (s, es) ← s.readTable c d (i + 1) n
    .ok (s, e :: es)

/-- Put an entry among others, by the address of its copy. -/
def insertByCopy (e : TableEntry) : List TableEntry → List TableEntry
  | [] => [e]
  | x :: xs => if e.copy ≤ x.copy then e :: x :: xs else x :: insertByCopy e xs

/-- The live objects whose first byte lies in a line of the range, ascending (R284). -/
def decidedIn (c : Cycle) (es : List TableEntry) : List TableEntry :=
  (es.filter fun e => e.live && decide (c.cursor ≤ e.copy ∧ e.copy < c.cursor + 128 ∧ c.range ≤ e.copy ∧ e.copy < c.limit)).foldr insertByCopy []

/-- The fates of objects (R284): condemned ones are freed, pinned ones stay, the others are to move. -/
def State.decideAll (s : State) (c : Cycle) : List TableEntry → Except PageFault (State × Cycle)
  | [] => .ok (s, c)
  | e :: es =>
    if e.condemned then do
      let s ← s.engineWrite c.xlate e.at' [BitVec.ofNat 8 (e.copy % 256)]
      s.decideAll c es
    else if e.pins ≠ 0 then s.decideAll c es
    else
      s.decideAll
        { c with moving := c.moving ++ [(e.index, e.copy, c.destNext, e.size, [])], destNext := c.destNext + (e.size + 15) / 16 * 16 } es

/-- The bytes of a moving object in the line at the cursor: offsets into the object. -/
def bytesInLine (c : Cycle) (old size : Nat) : List Nat :=
  (List.range 128).filterMap fun j => if old ≤ c.cursor + j ∧ c.cursor + j < old + size then some (c.cursor + j - old) else none

/-- Where a byte of the copied line lies now. -/
def movedByte (moves : List (Nat × Nat)) (pa : Nat) : Nat := match moves.find? fun m => m.1 == pa with | some m => m.2 | none => pa

/-- Stores and atomics on their way to copied bytes are refused at the old home and performed at the new copy (R286): whole, since one that is
naturally aligned, and each byte of any other, lies in one line. -/
def State.redirect (s : State) (moves : List (Nat × Nat)) : State :=
  State.moveSeqs
    { s with
      stores := s.stores.map fun t => if t.bank then t else { t with pa := movedByte moves t.pa }
      atoms := s.atoms.map fun a => if a.applied.isNone then { a with pa := movedByte moves a.pa } else a }
    (movedByte moves)

/-- What the engine does with one moving object in the line at the cursor; none while a line of the new copy is leased. -/
def State.copyObject (s : State) (c : Cycle) (m : Nat × Nat × Nat × Nat × List Nat) : Except PageFault (Option (State × (Nat × Nat × Nat × Nat × List Nat))) :=
  match m with
  | (i, old, new, size, lines) =>
    match bytesInLine c old size with
    | [] => .ok (some (s, m))
    | o :: os =>
      let n := os.length + 1
      match s.translateRange hubCore c.xlate (word (old + o)) .load true n with
      | .error f => .error f
      | .ok (s1, src) =>
        match s1.translateRange hubCore c.xlate (word (new + o)) .store true n with
        | .error f => .error f
        | .ok (s2, dst) =>
          if (dst.map lineOf).any s2.leased then .ok none
          else
            let line := lineOf (src.headD 0)
            let s3 := s2.writePas none 0 (s2.tag line) dst (src.map s2.peek)
            let s4 := { s3 with
              poisonLines := if SMap.get false s3.poisonLines line then
                  (dst.map lineOf).foldl (fun p l => SMap.set false p l true) s3.poisonLines else s3.poisonLines }
            .ok (some (s4.redirect (src.zip dst), (i, old, new, size, lines ++ [c.cursor / 128])))

/-- The engine copies the line at the cursor for every moving object that has bytes in it. -/
def State.copyObjects (s : State) (c : Cycle) : List (Nat × Nat × Nat × Nat × List Nat) →
    Except PageFault (Option (State × List (Nat × Nat × Nat × Nat × List Nat)))
  | [] => .ok (some (s, []))
  | m :: ms =>
    match s.copyObject c m with
    | .error f => .error f
    | .ok none => .ok none
    | .ok (some (s1, m1)) =>
      match s1.copyObjects c ms with
      | .error f => .error f
      | .ok none => .ok none
      | .ok (some (s2, ms2)) => .ok (some (s2, m1 :: ms2))

/-- An object's last line has been copied once the cursor passes it. -/
def movedWhole (c : Cycle) (m : Nat × Nat × Nat × Nat × List Nat) : Bool := decide (m.2.1 + m.2.2.2.1 ≤ c.cursor + 128)

/-- Objects whose last line has been copied get their new copy in their entry, and a forwarding entry (R283, R284). -/
def State.finishMoves (s : State) (c : Cycle) (d : HeapDesc) : List (Nat × Nat × Nat × Nat × List Nat) → Except PageFault (State × Cycle)
  | [] => .ok (s, c)
  | m :: ms =>
    if !movedWhole c m then s.finishMoves { c with moving := c.moving ++ [m] } d ms
    else do
      let s ← s.engineWrite c.xlate (word (d.table + 16 * m.1)) (leBytes 8 (m.2.2.1 + 1))
      let s ← s.engineWrite c.xlate (word (d.forward + 32 * c.moved))
        (leBytes 8 m.1 ++ leBytes 8 m.2.1 ++ leBytes 8 m.2.2.1 ++ leBytes 8 0)
      s.finishMoves { c with moved := c.moved + 1 } d ms

/-- The engine has handled every line (R284). -/
def Cycle.done (c : Cycle) : Bool := c.begun && decide (c.limit ≤ c.cursor) && c.moving.isEmpty

/-- One line of a cycle: decide, copy, finish, advance the cursor (R284, R286). -/
def State.compactLine (s : State) (c : Cycle) : Except PageFault (Option State) := do
  let (s, d) ← s.readDesc c
  let c := c.begin d
  if c.done then .ok (some (s.setCycle c))
  else
    let (s, es) ← s.readTable c d 1 (d.count - 1)
    let (s, c) ← s.decideAll c (decidedIn c es)
    match ← s.copyObjects c c.moving with
    | none => .ok none
    | some (s, ms) =>
      let (s, c) ← s.finishMoves { c with moving := [] } d ms
      .ok (some (s.setCycle { c with cursor := c.cursor + 128 }))

/-- COMPACTION_LINE_COPY (R286). While the engine cannot read or write what it needs, nothing happens. -/
def execCompactionLineCopy (asid : Nat) (s : State) : Host.Outcome State Fault Refusal :=
  .next (match s.cycleOf asid with
    | none => s
    | some c => match s.compactLine c with
      | .ok (some s1) => s1
      | _ => s)

/-- The end of a cycle (R284): cursor and forwarding count, then active is cleared. -/
def State.compactEnd (s : State) (c : Cycle) : Except PageFault State := do
  let (s, d) ← s.readDesc c
  let c := c.begin d
  if !c.done then .ok s
  else
    let at' := (s.heapOf c.asid).descAt
    let s ← s.engineWrite c.xlate (at' + 0x38) (leBytes 8 c.cursor)
    let s ← s.engineWrite c.xlate (at' + 0x18) (leBytes 8 c.moved)
    .ok { s with
      cycles := s.cycles.filter fun x => x.asid ≠ c.asid
      heaps := s.heaps.map fun h => if h.asid = c.asid then { h with active := false } else h }

/-- COMPACTION_COMPLETE (R284). -/
def execCompactionComplete (asid : Nat) (s : State) : Host.Outcome State Fault Refusal :=
  .next (match s.cycleOf asid with
    | none => s
    | some c => match s.compactEnd c with
      | .ok s1 => s1
      | .error _ => s)

/-- An entry of a forwarding table of code (R341). -/
structure CodeMove where
  old : Nat
  new : Nat
  len : Nat
  zero : Nat
  deriving DecidableEq, Repr

/-- The forwarding table at a physical address. -/
def State.codeTable (s : State) (pa n : Nat) : List CodeMove :=
  (List.range n).map fun k =>
    let w := fun (i : Nat) => leNat (s.openList 0 (pa + 32 * k + 8 * i) 8)
    { old := w 0, new := w 1, len := w 2, zero := w 3 }

/-- The entries are sorted and do not overlap. -/
def sortedMoves : List CodeMove → Bool
  | a :: b :: t => decide (a.old + a.len ≤ b.old) && sortedMoves (b :: t)
  | _ => true

/-- A table breaks R341. -/
def State.badTable (s : State) : Bool :=
  let n := s.hub.ccCount.toNat
  let t := s.codeTable s.hub.ccTable.toNat n
  n == 0 || decide (4096 < n) || s.hub.ccTable.toNat % 32 != 0
  || (t.any fun m => m.old % 32 != 0 || m.new % 32 != 0 || m.len % 32 != 0 || m.zero != 0) || !sortedMoves t

/-- fwd (R341). -/
def forward (t : List CodeMove) (v : Word) : Word :=
  match t.find? fun m => decide (m.old ≤ v.toNat ∧ v.toNat < m.old + m.len) with
  | some m => v - word m.old + word m.new
  | none => v

/-- Rewrite a word of memory at a virtual address. -/
def State.rewriteWord (s : State) (t : List CodeMove) (xlate va : Word) : State :=
  match s.readNum xlate va 8 with
  | .error _ => s
  | .ok (s1, n) => match s1.engineWrite xlate va (leBytes 8 (forward t (word n)).toNat) with
    | .ok s2 => s2
    | .error _ => s1

/-- The words of memory that a rewrite of an address space covers (R342 step 2): resume words of live trap frames, pc and meet of save areas and of
phase records. -/
def State.codeWords (s : State) (asid : Nat) : List (Word × Word) :=
  let frames := s.gangs.flatMap fun g =>
    if asidOf g.xlate = asid then
      (lanes g.live).filterMap fun k => if (g.lane k).mode = .handler then some (g.xlate, (g.lane k).frame + 24) else none
    else []
  let xl := fun (l : Nat) => match s.launchOf l with | some x => x.packet.xlate | none => 0
  let areas := s.saved.flatMap fun v =>
    if asidOf (xl v.launch) = asid then
      (lanes v.lanes).flatMap fun k => [(xl v.launch, v.area + word (0x80 + 32 * k)), (xl v.launch, v.area + word (0x88 + 32 * k))]
    else []
  let records := (List.range Config.dies).flatMap fun d => (s.die d).entries.flatMap fun e =>
    match e with
    | .phase l _ _ r _ _ _ _ =>
      if asidOf (xl l) = asid then (List.range 32).flatMap fun k => [(xl l, r + word (0x80 + 32 * k)), (xl l, r + word (0x88 + 32 * k))] else []
    | _ => []
  frames ++ areas ++ records

/-- A held crossing whose target moves (R342): its next fetch walks, since the leaf that it carries is of the old page (assumption 41). -/
def Crossing.moved (c : Crossing) (t : List CodeMove) : Crossing :=
  { c with target := forward t c.target, held := false, pte := if forward t c.target = c.target then c.pte else 0 }

/-- Steps 2 to 4 of R342. -/
def State.moveCode (s : State) : State :=
  let asid := s.hub.ccAsid.toNat
  let t := s.codeTable s.hub.ccTable.toNat s.hub.ccCount.toNat
  let s1 := (s.codeWords asid).foldl (fun s w => s.rewriteWord t w.1 w.2) s
  let move := fun (_ : Nat) (x : Thread) => { x with pc := forward t x.pc, meet := forward t x.meet, trapPc := forward t x.trapPc }
  let mine := fun (g : Gang) => asidOf g.xlate == asid
  let s2 : State := { s1 with
    gangs := s1.gangs.map fun g => if mine g then { g.onLanes (BitVec.allOnes 32) move with parked := false } else g
    crossings := s1.crossings.map fun c => if c.toDevice && asidOf c.xlate == asid then c.moved t else c
    icache := []
    hub := { s1.hub with ccRunning := false } }
  (s2.gangs.filter mine).foldl (fun s g => s.preemptCheck g.key) s2

/-- CODE_COMPACTION (R341, R342): a write of 1 to cc_go parks the gangs of the ASID; once no routine of it runs, the service rewrites, discards and
unparks, here or in a later step. -/
def State.codeCompaction (s : State) (v : Word) : State :=
  let asid := s.hub.ccAsid.toNat
  let mine := fun (g : Gang) => asidOf g.xlate == asid
  if !s.hub.ccRunning && !Word.flag v 0 then s
  else if !s.hub.ccRunning && s.badTable then { s with hub := { s.hub with ccRefused := true } }
  else
    let s1 : State := { s with
      gangs := s.gangs.map fun g => if mine g && !g.saving then { g with parked := true } else g
      hub := { s.hub with ccRunning := true, ccRefused := false } }
    if s1.gangs.any fun g => mine g && g.saving then s1 else s1.moveCode

/-- CODE_COMPACTION (R342). -/
def execCodeCompaction (value : Word) (s : State) : Host.Outcome State Fault Refusal := .next (s.codeCompaction value)

end Sys2Proof.Machine
end

