-- ==== Sys2Proof/Machine/Tdisp.lean ====
section
/-! DEFINITION. The TDISP interface controllers of the PCIe ports (R365 to R372), and the end of a clearing, on which a stop waits. -/

namespace Sys2Proof.Machine

/-- The error codes of R365. -/
def errBusy : BitVec 32 := 3
def errState : BitVec 32 := 4
def errUnsupported : BitVec 32 := 7
def errInterface : BitVec 32 := 0x101
def errNonce : BitVec 32 := 0x102

/-- The controller sends a message to the host. -/
def Ctrl.send (c : Ctrl) (code : Byte) (tdi : Nat) (err : BitVec 32) (payload : List Byte) : Ctrl :=
  { c with sent := c.sent ++ [(code, tdi, err, payload)] }

/-- TDISP_ERROR. -/
def Ctrl.refuse (c : Ctrl) (tdi : Nat) (err : BitVec 32) : Ctrl := c.send 0x7F tdi err []

/-- The PCIe ports are up (R393 step 8), and no signature has failed: before, and after a failure, a controller answers nothing. -/
def State.portsUp (s : State) : Bool := !s.bootFailed && decide (8 ≤ s.bootStep)

/-- A request that the controller answers itself (R365, R393); a TDI of 48 or above is no interface. -/
def State.serve (s : State) (port tdi : Nat) (f : Ctrl → Ctrl) : State :=
  if s.portsUp then s.onCtrl port fun c => if Config.tdis ≤ tdi then c.refuse tdi errInterface else f c else s

/-- GET_TDISP_VERSION (R365): one version, 1.0. -/
def execGetTdispVersion (port tdi : Nat) (s : State) : Host.Outcome State Fault Refusal :=
  .next (s.serve port tdi fun c => c.send 0x01 tdi 0 [1, 0x10])

/-- GET_TDISP_CAPABILITIES (R365). -/
def execGetTdispCapabilities (port tdi : Nat) (s : State) : Host.Outcome State Fault Refusal :=
  .next (s.serve port tdi fun c => c.send 0x02 tdi 0 Config.tdispCaps)

/-- GET_DEVICE_INTERFACE_STATE (R365): from the state byte, at any time. -/
def execGetDeviceInterfaceState (port tdi : Nat) (s : State) : Host.Outcome State Fault Refusal :=
  .next (s.serve port tdi fun c => c.send 0x05 tdi 0 [(c.tdiAt tdi).state.byte])

/-- P2P, MMIO attribute, VDM and unknown requests (R365). -/
def execUnsupportedTdispRequest (port tdi : Nat) (_code : Byte) (s : State) : Host.Outcome State Fault Refusal :=
  .next (if s.portsUp then s.onCtrl port fun c => c.refuse tdi errUnsupported else s)

/-- A request is posted to the service, one at a time (R365, R366). -/
def Ctrl.post (c : Ctrl) (tdi : Nat) (code : Byte) (f : Ctrl → Ctrl) : Ctrl :=
  if c.posted then c.refuse tdi errBusy
  else
    f { c with
      seq := c.seq + 1, tdi := tdi, code := code, checks := 0, lockFlags := 0, mmioOffset := 0, evAddr := 0, posted := true }

/-- LOCK_INTERFACE_REQUEST (R365, R366). -/
def execLockInterfaceRequest (port tdi : Nat) (flags : BitVec 32) (offset : Word) (s : State) : Host.Outcome State Fault Refusal :=
  .next (s.serve port tdi fun c => c.post tdi 0x83 fun c => { c with lockFlags := flags, mmioOffset := offset })

/-- GET_DEVICE_INTERFACE_REPORT (R365, R370): the answer is the portion that the request names. -/
def execGetDeviceInterfaceReport (port tdi : Nat) (offset length : Nat) (s : State) : Host.Outcome State Fault Refusal :=
  .next (s.serve port tdi fun c => c.post tdi 0x84 fun c => { c with reportOffset := offset, reportLength := length })

/-- START_INTERFACE_REQUEST (R365, R366): the controller compares the nonce. -/
def execStartInterfaceRequest (port tdi : Nat) (nonce : List Byte) (s : State) : Host.Outcome State Fault Refusal :=
  .next (s.serve port tdi fun c => c.post tdi 0x86 fun c =>
    { c with checks := if nonce = (c.tdiAt tdi).nonce then 1 else 0 })

/-- The binding of a TDI (R368): its partitions in the package, its world. -/
def boundParts (b : BitVec 32) : List Nat :=
  let w := word b.toNat
  ((List.range 8).filter fun j => Word.flag w (16 + j)).map fun j => 8 * (48 * Word.field w 7 0 + Word.field w 15 8) + j
def boundWorld (b : BitVec 32) : Nat := Word.field (word b.toNat) 31 24

/-- The address that a VF's BAR decodes (R368): its PF's pair with the flag bits cleared, one aperture per VF (R370: 64 KiB and 4 KiB). -/
def Ctrl.barAt (c : Ctrl) (port k i : Nat) : Word :=
  word ((SMap.get 0 c.pfRegs (8 * Config.pfOf port k + i)).toNat / 16 * 16 + Config.vfOf port k * (if i = 0 then 0x10000 else 0x1000))

/-- The snapshot of a lock (R367, R368): 24 bytes. -/
def Ctrl.snapshot (c : Ctrl) (port k : Nat) : List Byte :=
  leBytes 8 (c.barAt port k 0).toNat ++ leBytes 8 (c.barAt port k 1).toNat ++ leBytes 2 (c.tdiAt k).vfCommand.toNat
  ++ leBytes 2 (c.tdiAt k).msixControl.toNat ++ leBytes 4 (Config.binding port k).toNat

/-- A state change of a TDI, with its entry in the audit log of the world bound to it (R371). -/
def State.tdiMove (s : State) (port k : Nat) (next : TdiState) (kind : Byte) (address : Word) : State :=
  let old := ((s.ctrl port).tdiAt k).state
  (s.onCtrl port fun c => c.onTdi k fun t => { t with state := next }).audit (boundWorld (Config.binding port k))
    { gtime := word s.gtime, kind := kind, b9 := BitVec.ofNat 8 k, b10 := old.byte, b11 := next.byte, address := address }

/-- The register of a PF that an item is, as its place in the controller (R368). -/
def pfItem : Frozen → Option Nat
  | .bar01 => some 0 | .bar23 => some 1 | .sriovControl => some 2 | .numVFs => some 3 | .pageSize => some 4
  | _ => none

/-- The TDIs whose frozen items a write touches (R368): those of the PF, or the one TDI. -/
def frozenBy (port k : Nat) (item : Frozen) : List Nat :=
  if (pfItem item).isSome then (List.range Config.tdis).filter fun j => Config.pfOf port j == Config.pfOf port k else [k]

/-- The configuration offset of the register that a write names (R368): of a 64-bit pair the low or the high register, by the offset in the address;
none for the MSI-X table and PBA, which are written by MMIO. -/
def frozenOffset (item : Frozen) (address : Word) : Option Nat :=
  let high := fun (n : Nat) => if address.toNat % 4096 = n + 4 then n + 4 else n
  match item with
  | .bar01 => some (high 0x184)
  | .bar23 => some (high 0x18C)
  | .sriovControl => some 0x168
  | .numVFs => some 0x170
  | .pageSize => some 0x17C
  | .vfCommand => some 0x04
  | .msixControl => some 0xB2
  | .msixTable => none

/-- The bits of a register that a write replaces (R368): 32 of a BAR register and of the page size, else 16. -/
def frozenInto (item : Frozen) (offset : Nat) (old value : Word) : Word :=
  let low := value.toNat % 2 ^ 32
  match item with
  | .bar01 | .bar23 =>
    if offset % 8 = 4 then word (old.toNat / 2 ^ 32 * 2 ^ 32 + low) else word (low * 2 ^ 32 + old.toNat % 2 ^ 32)
  | .pageSize => word low
  | _ => word (value.toNat % 2 ^ 16)

/-- The address that a violation log and an event give for a write (R369): of a configuration write bit 63, the function's routing ID and the
register's offset; of an MMIO write the physical address in the page that the VF's BAR2 decodes. -/
def Ctrl.itemAddress (c : Ctrl) (port k : Nat) (item : Frozen) (address : Word) : Word :=
  match frozenOffset item address with
  | some off =>
    let id := if (pfItem item).isSome then Config.pfRouting port (Config.pfOf port k) else Config.vfRouting port k
    word (2 ^ 63 + id.toNat * 2 ^ 16 + off)
  | none => c.barAt port k 1 + word (address.toNat % 4096)

/-- A write that is performed (R369). -/
def Ctrl.writeItem (c : Ctrl) (port k : Nat) (item : Frozen) (address value : Word) : Ctrl :=
  match pfItem item with
  | some i =>
    let at' := 8 * Config.pfOf port k + i
    { c with pfRegs := SMap.set 0 c.pfRegs at' (frozenInto item ((frozenOffset item address).getD 0) (SMap.get 0 c.pfRegs at') value) }
  | none => c.onTdi k fun t =>
    match item with
    | .vfCommand => { t with vfCommand := BitVec.ofNat 16 value.toNat }
    | .msixControl => { t with msixControl := BitVec.ofNat 16 value.toNat }
    | _ => { t with msixTable := SMap.set 0 t.msixTable (address.toNat % 4096) value }

/-- A host's configuration write as the controller applies it (R368, R369): completed with Unsupported Request and logged where a touched TDI is not
unlocked; every such TDI not yet in ERROR goes there, with an event and an audit entry. -/
def State.applyWrite (s : State) (port k : Nat) (item : Frozen) (address value : Word) : State :=
  let touched := (frozenBy port k item).filter fun j => ((s.ctrl port).tdiAt j).state ≠ .unlocked
  let a := (s.ctrl port).itemAddress port k item address
  let done := fun (ok : Bool) (s : State) => s.onCtrl port fun c => { c with completed := c.completed ++ [(a, ok)] }
  if touched = [] then done true (s.onCtrl port fun c => c.writeItem port k item address value)
  else
    let s1 := (done false s).violate (.tdisp port) a (portRequester port) 0x05 0 (boundWorld (Config.binding port k))
    (touched.filter fun j => ((s.ctrl port).tdiAt j).state ≠ .error).foldl
      (fun s j => (s.tdiMove port j .error 0x11 a).onCtrl port fun c => { c with events := c.events ++ [(j, a)] }) s1

/-- A controller is applying a stop, whose clearing has not ended (R367): it applies nothing else meanwhile. -/
def Ctrl.stopping (c : Ctrl) : Bool := c.tdis.any fun e => e.2.stopping
def State.portStopping (s : State) (port : Nat) : Bool := (s.ctrl port).stopping

/-- What arrives at a controller while it applies a stop waits (R367). -/
def State.await (s : State) (port : Nat) (w : CtrlWait) : State := s.onCtrl port fun c => { c with waiting := c.waiting ++ [w] }

/-- The lock command (R367): the snapshot and a new nonce. -/
def State.tdiLock (s : State) (port k : Nat) : State :=
  let t := (s.ctrl port).tdiAt k
  if t.state ≠ .unlocked ∨ s.portStopping port then s
  else
    State.fresh
      ((s.onCtrl port fun c => c.onTdi k fun t =>
        { t with snapshot := c.snapshot port k, nonce := leBytes 32 (Config.nonce s.freeCtr).toNat, offset := c.mmioOffset }).tdiMove port k .locked 0x10 0)

/-- TDI_LOCK (R367). -/
def execTdiLock (port tdi : Nat) (s : State) : Host.Outcome State Fault Refusal := .next (s.tdiLock port tdi)

/-- The start command (R367). -/
def State.tdiStart (s : State) (port k : Nat) : State :=
  let t := (s.ctrl port).tdiAt k
  if t.state ≠ .locked ∨ s.portStopping port then s else s.tdiMove port k .run 0x10 0

/-- TDI_START (R367). -/
def execTdiStart (port tdi : Nat) (s : State) : Host.Outcome State Fault Refusal := .next (s.tdiStart port tdi)

/-- A stop whose clearing has ended (R367): the TDI is unlocked, its snapshot zero, and every stop request of it that waits is answered (R365). -/
def State.completeStop (s : State) (port k : Nat) : State :=
  let t := (s.ctrl port).tdiAt k
  if !t.stopping ∨ (boundParts (Config.binding port k)).any s.partClearing then s
  else
    (s.tdiMove port k .unlocked 0x10 0).onCtrl port fun c =>
      let c1 := c.onTdi k fun t => { t with snapshot := [], stopping := false, stopAnswer := 0 }
      (List.range t.stopAnswer).foldl (fun c _ => c.send 0x07 k 0 []) c1

/-- A launch holds a partition (R367): a resident gang, or rows of its bank. -/
def State.holders (s : State) (parts : List Nat) : List Nat :=
  (s.launches.filter fun l =>
    (s.gangs.any fun g => g.launch == l.num && parts.contains (partOf g.key))
    || s.allocs.any fun a => a.launch == l.num && a.banks.any fun b => parts.contains b.1).map (·.num)

/-- The stop command is applied (R367): launches on the bound partitions end, the partitions are cleared to world 0, and the state changes when the
clearing ends, at once where no partition is bound. -/
def State.beginStop (s : State) (port k : Nat) (answer : Bool) : State :=
  let parts := boundParts (Config.binding port k)
  let s1 := (s.holders parts).foldl State.endLaunch s
  let s2 := parts.foldl (fun s p => s.startClearing p (some 0)) s1
  (s2.onCtrl port fun c => c.onTdi k fun t => { t with stopping := true, stopAnswer := bit answer }).completeStop port k

/-- What waited for the end of a stop is applied in its order, up to the next stop whose clearing takes time (R367). -/
def State.drainPort (port : Nat) : List CtrlWait → State → State
  | [], s => s
  | w :: ws, s =>
    if s.portStopping port then s.onCtrl port fun c => { c with waiting := w :: ws }
    else match w with
      | .write k item address value => State.drainPort port ws (s.applyWrite port k item address value)
      | .stop k =>
        if ((s.ctrl port).tdiAt k).state = .unlocked then State.drainPort port ws (s.onCtrl port fun c => c.send 0x07 k 0 [])
        else State.drainPort port ws (s.beginStop port k true)

/-- The stops of a port whose clearings have ended, and what waited for them (R367). -/
def State.finishStops (s : State) (port : Nat) : State :=
  let s1 := (List.range Config.tdis).foldl (fun s k => s.completeStop port k) s
  if s1.portStopping port then s1 else State.drainPort port (s1.ctrl port).waiting (s1.onCtrl port fun c => { c with waiting := [] })

/-- CLEARING_DONE (R367, R378). -/
def execClearingDone (partition : Nat) (s : State) : Host.Outcome State Fault Refusal :=
  .next ((List.range Config.ports).foldl State.finishStops (s.clearedPart partition))

/-- The stop command (R367). One that arrives while the controller applies a stop is applied after it: a request waits, for its answer too. -/
def State.tdiStop (s : State) (port k : Nat) (answer : Bool) : State :=
  let t := (s.ctrl port).tdiAt k
  if t.state = .unlocked then s
  else if t.stopping then s.onCtrl port fun c => c.onTdi k fun t => { t with stopAnswer := t.stopAnswer + bit answer }
  else if s.portStopping port then (if answer then s.await port (.stop k) else s)
  else s.beginStop port k answer

/-- TDI_STOP (R367). -/
def execTdiStop (port tdi : Nat) (s : State) : Host.Outcome State Fault Refusal := .next (s.tdiStop port tdi false)

/-- STOP_INTERFACE_REQUEST (R365): the controller applies the stop; its answer follows the clearing. -/
def execStopInterfaceRequest (port tdi : Nat) (s : State) : Host.Outcome State Fault Refusal :=
  .next (if !s.portsUp then s
    else if Config.tdis ≤ tdi then s.onCtrl port fun c => c.refuse tdi errInterface
    else if ((s.ctrl port).tdiAt tdi).state = .unlocked then s.onCtrl port fun c => c.refuse tdi errState
    else s.tdiStop port tdi true)

/-- FROZEN_ITEM_WRITE (R368, R369, R393): one that arrives while the controller applies a stop is applied after it (R367). -/
def State.frozenWrite (s : State) (port k : Nat) (item : Frozen) (address value : Word) : State :=
  if !s.portsUp then s
  else if s.portStopping port then s.await port (.write k item address value)
  else s.applyWrite port k item address value

/-- FROZEN_ITEM_WRITE (R369). -/
def execFrozenItemWrite (port tdi : Nat) (item : Frozen) (address value : Word) (s : State) : Host.Outcome State Fault Refusal :=
  .next (s.frozenWrite port tdi item address value)

/-- The interface report (R370): 60 bytes. -/
def Tdi.report (t : Tdi) : List Byte :=
  let f := fun (off n : Nat) => leNat ((t.snapshot.drop off).take n)
  let page := fun (off : Nat) => (word (f off 8) + t.offset).toNat / 4096
  leBytes 2 7 ++ leBytes 2 0 ++ leBytes 2 (f 0x12 2) ++ leBytes 2 0 ++ leBytes 4 0 ++ leBytes 4 2
  ++ leBytes 8 (page 0) ++ leBytes 4 16 ++ leBytes 4 0 ++ leBytes 8 (page 8) ++ leBytes 4 1 ++ leBytes 4 0x00010003
  ++ leBytes 4 8 ++ leBytes 4 (f 0x14 4) ++ leBytes 4 0

/-- What the controller decides for its posted request, as the service of tdisp_tdi does, check by check (R365): the state after its command, the
response code, the error, the payload. None while a command waits for the stop that the controller applies (R367). -/
def State.decideTdisp (s : State) (port : Nat) : Option (State × Byte × BitVec 32 × List Byte) :=
  let c := s.ctrl port
  let t := c.tdiAt c.tdi
  let bad := fun (e : BitVec 32) => some (s, (0x7F : Byte), e, ([] : List Byte))
  match c.code.toNat with
  | 0x83 =>
    if t.state ≠ .unlocked then bad errState
    else if c.lockFlags.getLsbD 3 then bad errUnsupported
    else if c.stopping then none
    else some (s.tdiLock port c.tdi, 0x03, 0, [])
  | 0x84 => if t.state = .locked ∨ t.state = .run then some (s, 0x04, 0, t.report) else bad errState
  | _ =>
    if t.state ≠ .locked then bad errState
    else if c.checks.toNat % 2 = 0 then bad errNonce
    else if c.stopping then none
    else some (s.tdiStart port c.tdi, 0x06, 0, [])

/-- The answer to the host (R365): a lock's is followed by the nonce; a report's is the portion asked for. -/
def Ctrl.respond (c : Ctrl) (code : Byte) (err : BitVec 32) (payload : List Byte) : Ctrl :=
  let body :=
    if code = 0x03 then payload ++ (c.tdiAt c.tdi).nonce
    else if code = 0x04 then (payload.drop c.reportOffset).take c.reportLength
    else payload
  { c.send code c.tdi err body with rseq := c.seq, posted := false }

/-- rword (R366). -/
def rwordOf (code : Byte) (err : BitVec 32) (len : Nat) : Word := word (code.toNat + len * 2 ^ 16 + err.toNat * 2 ^ 32)

/-- TDISP_ANSWER (R366): in hardware mode (FUNCMODE.tdisp_svc of die 0) the controller decides a request itself and acknowledges an event; else it goes on
once it has acquired the service's rseq, which equals seq: an event is acknowledged, a request answered by rword and payload. -/
def State.tdispAnswer (s : State) (port : Nat) : State :=
  let c := s.ctrl port
  if !c.posted ∨ (!s.funcBit 0 7 ∧ c.rseq ≠ c.seq) then s
  else if c.code = 0xE0 then s.onCtrl port fun c => { c with rseq := c.seq, posted := false }
  else if s.funcBit 0 7 then
    match s.decideTdisp port with
    | none => s
    | some (s1, code, err, payload) =>
      s1.onCtrl port fun c =>
        { c with rword := rwordOf code err payload.length, payload := SMap.setList 0 c.payload 0 payload }.respond code err payload
  else
    s.onCtrl port fun c =>
      c.respond (BitVec.ofNat 8 (Word.field c.rword 7 0)) (BitVec.ofNat 32 (Word.field c.rword 63 32))
        (SMap.getList 0 c.payload 0 (Word.field c.rword 31 16))

/-- TDISP_ANSWER (R366). -/
def execTdispAnswer (port : Nat) (s : State) : Host.Outcome State Fault Refusal := .next (s.tdispAnswer port)

/-- TDISP_EVENT_POST (R365, R369): the oldest event that waits, once nothing is posted. -/
def execTdispEventPost (port : Nat) (s : State) : Host.Outcome State Fault Refusal :=
  .next (s.onCtrl port fun c =>
    match c.events with
    | [] => c
    | (k, a) :: es =>
      if c.posted then c else c.post k 0xE0 fun c => { c with evAddr := a, events := es })

end Sys2Proof.Machine
end

