-- ==== Sys2Proof/Machine/ControlPage.lean ====
section
/-! DEFINITION. The hub's control page (R363, R364, R379): what a store of a word does. Words with a step of their own (fq_answer,
reg_cmd, cc_go, hl_packet, ms_cmd) are written by it. Below, the accesses of threads and host cores to the device pages. -/

namespace Sys2Proof.Machine

/-- What sample_shift stores (R364): a value outside 8 to 20 is written as 20. -/
def shiftOf (v : Word) : BitVec 5 := if 8 ≤ Word.field v 4 0 ∧ Word.field v 4 0 ≤ 20 then BitVec.ofNat 5 (Word.field v 4 0) else 20

/-- A register of 8 bytes at an offset, after a store of some bytes from an offset on. -/
def patched (old : Word) (base off : Nat) (bs : List Byte) : Word :=
  word (leNat ((leBytes 8 old.toNat).zipIdx.map fun b => if off ≤ base + b.2 then bs.getD (base + b.2 - off) b.1 else b.1))

/-- The bytes of a store that fall into a field. -/
def storedIn (lo hi off : Nat) (bs : List Byte) : List (Nat × Byte) :=
  (bs.zipIdx.map fun b => (off + b.2, b.1)).filter fun b => decide (lo ≤ b.1) && decide (b.1 < hi)

/-- A store to the page of a port's controller (R366, R367): the service writes rseq, rword, the payload and the command of a TDI's record; a store to
any other field is ignored. -/
def State.windowStore (s : State) (port off : Nat) (bs : List Byte) : State :=
  if off < 0x400 then
    s.onCtrl port fun c =>
      { c with
        rseq := patched c.rseq 0x40 off bs
        rword := patched c.rword 0x48 off bs
        payload := (storedIn 0x100 0x400 off bs).foldl (fun m b => SMap.set 0 m (b.1 - 0x100) b.2) c.payload }
  else if off % 64 = 8 then
    let k := off / 64 - 16
    match leNat bs with
    | 1 => s.tdiLock port k
    | 2 => s.tdiStart port k
    | 3 => s.tdiStop port k false
    | _ => s
  else s

/-- Sampling of a die's partitions begins again (R387): the manual does not say from where the first interval counts (assumption 37). -/
def State.restartSampling (s : State) (die : Nat) : State :=
  { s with sampled := (s.issues.filter fun e => e.1 / 384 == die).foldl (fun m e => SMap.set 0 m e.1 e.2) s.sampled }

/-- CONTROL_REGISTER_WRITE (R362, R364, R366): a word of the hub's control page at its offset; a word of the page of port P's controller at 0x1000 × (1 + P)
and its offset; a register of die D by system privilege at 0x10000 + 0x100 × D and its number of R348. A store to an RO word is ignored. -/
def State.controlWrite (s : State) (off : Nat) (v : Word) : State :=
  let h := s.hub
  match off with
  | 0x000 => if v.toNat % 4096 = 0 then { s with hub := { h with fqBase := v } } else s
  | 0x008 => if legalSize v.toNat then { s with hub := { h with fqSize := v } } else s
  | 0x018 => { s with hub := { h with fqHead := v } }
  | 0x020 => s.answer v
  | 0x040 => { s with hub := { h with regRing := v } }
  | 0x060 => { s with hub := { h with ccAsid := BitVec.ofNat 16 v.toNat } }
  | 0x068 => { s with hub := { h with ccTable := v } }
  | 0x070 => { s with hub := { h with ccCount := v } }
  | 0x078 => s.codeCompaction v
  | 0x080 => { s with hub := { h with hcAsid := BitVec.ofNat 16 v.toNat } }
  | 0x088 => s.writeHeapcol h.hcAsid.toNat v
  | 0x0A0 => { s with hub := { h with msImage := v } }
  | 0x0A8 => { s with hub := { h with msLen := v } }
  | 0x120 => { s with hub := { h with viewSel := BitVec.ofNat 32 (Word.field v 31 31 * 2 ^ 31 + Word.field v 27 0) } }
  | _ =>
    match dieWord 0x0C0 off, dieWord 0x0E0 off, dieWord 0x100 off with
    | some d, _, _ => (s.onDie d fun d => { d with sampleShift := shiftOf v }).restartSampling d
    | _, some d, _ => (s.onDie d fun d => { d with sampleBase := word (v.toNat / 4096 * 4096) }).restartSampling d
    | _, _, some d => s.onDie d fun d => { d with sampleSize := word (v.toNat / 4096 * 4096) }
    | _, _, _ =>
      if 0x1000 ≤ off ∧ off < 0x1000 * (1 + Config.ports) then s.windowStore (off / 0x1000 - 1) (off % 0x1000) (leBytes 8 v.toNat)
      else if 0x10000 ≤ off ∧ off < 0x10400 then
        let die := (off - 0x10000) / 0x100
        match Csr.ofNumber (off % 0x100) with
        | some .funcmode => s.writeFuncmode die v
        | some .preemptctl => s.writePreemptctl die v
        | some .snapctl => s.writeSnapctl v
        | some .enbudget => s.setBudget die v
        | some .leasectl => s.writeLeasectl v
        | _ => s
      else s

/-- CONTROL_REGISTER_WRITE (R364). -/
def execControlRegisterWrite (offset : Nat) (value : Word) (s : State) : Host.Outcome State Fault Refusal := .next (s.controlWrite offset value)

/-- MEASURE_EXTEND (R364, R379): a write of ms_cmd with go; a slot below 5 or a length out of range is refused. -/
def State.measureImage (s : State) (v : Word) : State :=
  let slot := Word.field v 3 0
  let len := s.hub.msLen.toNat
  if !Word.flag v 63 then s
  else if slot < 5 ∨ len = 0 ∨ 2 ^ 24 < len then { s with hub := { s.hub with msRefused := true } }
  else
    let pas := (List.range len).map (s.hub.msImage.toNat + ·)
    State.extend { (s.logReads 0 0 (pas.map lineOf).dedup) with hub := { s.hub with msRefused := false } } slot (s.openBytes 0 s.peek pas)

/-- MEASURE_EXTEND (R379). -/
def execMeasureExtend (value : Word) (s : State) : Host.Outcome State Fault Refusal := .next (s.measureImage value)

/-- A store to the hub's control page (R364) by a writer: a host core by its number, a core of the device from 64 on, which is no host thread. -/
def State.pageWord (s : State) (writer off : Nat) (v : Word) : State :=
  match off with
  | 0x048 => s.regCmd writer (decide (writer < 64)) v
  | 0x090 => s.hostLaunch writer v
  | 0x0B0 => s.measureImage v
  | _ => if off < 0x1000 then s.controlWrite off v else s

/-- A store to a device page (R364, R366). -/
def State.pageStore (s : State) (writer : Nat) (owner : LogOwner) (off : Nat) (bs : List Byte) : State :=
  match owner with
  | .tdisp p => s.windowStore p off bs
  | _ => s.pageWord writer off (word (leNat bs))

/-- A store to a device page is a command to a TDI, which waits while its controller applies a stop (R367). -/
def State.commandWaits (s : State) (owner : LogOwner) (off : Nat) : Bool :=
  match owner with
  | .tdisp p => decide (0x400 ≤ off ∧ off % 64 = 8) && s.portStopping p
  | _ => false

/-- A thread's store to a device page is performed, after its earlier ones (R364, R367); one that the page refuses is logged and dropped (R390). A stop
command has completed once its clearing has ended: until then its store stands, with a value that has no effect any more. -/
def State.performPage (s : State) (i : Nat) (st : PStore) (owner : LogOwner) (off : Nat) : State :=
  let refused := pageRefuses owner st.world st.priv off st.bytes.length
  if State.pageStoring { s with stores := s.stores.take i } st.gang st.lane ∨ (!refused ∧ s.commandWaits owner off) then s
  else if !refused && (s.pageStore (coreReader st.core) owner off st.bytes).commandWaits owner off then
    State.pageStore { s with stores := s.stores.modify i fun t => { t with bytes := t.bytes.map fun _ => 0 } } (coreReader st.core) owner off st.bytes
  else
    let s1 := { s with stores := s.stores.eraseIdx i }
    let s2 := if refused then
        s1.violate owner (word st.pa) (requesterOf (partOf st.gang)) 0x04 st.world 0
      else s1.pageStore (coreReader st.core) owner off st.bytes
    s2.onThread st.gang st.lane fun t => t.horizon s.gtime

/-- HOME_STORE_PERFORM (R205): a store takes its place at its home, or at its device page. -/
def execHomeStorePerform (store : Nat) (s : State) : Host.Outcome State Fault Refusal :=
  .next (match s.stores[store]? with
    | none => s
    | some st => match if st.bank then none else s.ioPage st.pa with
      | some p => s.performPage store st p.1 p.2
      | none => s.performStore store)

/-- A host load of a device page is served (R364): of system software, as one aligned word; refused, it is logged and reads poison, which is a free value
in the register of a host core (assumption 66). -/
def State.hostServePage (s : State) (i j : Nat) (h : HostThread) (l : HostLoad) (owner : LogOwner) (off : Nat) : State :=
  if (h.loads.take j).any fun o => sharesByte o.pas l.pas then s
  else
    let n := l.pas.length
    let h1 := { h with loads := h.loads.eraseIdx j }
    if pageRefuses owner 0 (!h.mode.isUser) off n then
      (s.violate owner (word (l.pas.headD 0)) (hostRequester h.host) 0x04 0 0).setHost i (h1.setReg l.dst (s.free 60401))
    else s.setHost i (h1.setReg l.dst (l.value (leNat (s.pageBytes h.host owner off n))))

/-- HOST_LOAD_SERVED: at the home, or at its device page. -/
def State.hostServed (s : State) (i j : Nat) : State :=
  match s.hostThreads[i]?.bind fun h => h.loads[j]?.map fun l => (h, l) with
  | none => s
  | some (h, l) => match s.ioPage (l.pas.headD 0) with
    | some p => s.hostServePage i j h l p.1 p.2
    | none => s.hostServe i j

/-- A host store to a device page is performed (R364), after every older access of its thread: the page is mapped as I/O. -/
def State.hostPerformPage (s : State) (i j : Nat) (h : HostThread) (t : HostStore) (owner : LogOwner) (off : Nat) : State :=
  let refused := pageRefuses owner 0 (!h.mode.isUser) off t.bytes.length
  if j ≠ 0 ∨ (h.loads.any fun l => l.issued < t.issued) ∨ (!refused ∧ s.commandWaits owner off) then s
  else if !refused && (s.pageStore h.host owner off t.bytes).commandWaits owner off then
    State.pageStore (s.setHost i { h with stores := h.stores.modify j fun t => { t with bytes := t.bytes.map fun _ => 0 } }) h.host owner off t.bytes
  else
    let s1 := s.setHost i { h with stores := h.stores.eraseIdx j }
    if refused then s1.violate owner (word t.pa) (hostRequester h.host) 0x04 0 0
    else s1.pageStore h.host owner off t.bytes

/-- HOST_STORE_PERFORM: at the home, or at its device page. -/
def State.hostPerformed (s : State) (i j : Nat) : State :=
  match s.hostThreads[i]?.bind fun h => h.stores[j]?.map fun t => (h, t) with
  | none => s
  | some (h, t) => match s.ioPage t.pa with
    | some p => s.hostPerformPage i j h t p.1 p.2
    | none => s.hostPerform i j

end Sys2Proof.Machine
end

