-- ==== Sys2Proof/Machine/Ready.lean ====
section
/-! DEFINITION. Readiness (R103): whether a thread could issue its next instruction at this clock: its stall count, the scoreboard (R28, R76,
R183), and what its next instruction waits for at issue. -/

namespace Sys2Proof.Machine

/-- The S64 form of a compact instruction (R39, R40): its opcode and fields. -/
def compactForm (cop : Nat) (c : C32) : Nat × Ops :=
  match cop with
  | 0x00 => (0x00, compactArith c)
  | 0x01 => (0x01, compactArith c)
  | 0x02 => (0x0F, compactArith c)
  | 0x03 => (0x10, compactArith c)
  | 0x04 => (0x11, compactArith c)
  | 0x05 => (0x14, compactArith c)
  | 0x06 => (0x15, compactArith c)
  | 0x07 => (0x16, compactArith c)
  | 0x08 => (0x24, compactOps c .b64 c.dst c.b 0 none)
  | 0x09 => (0x25, compactOps c (compactTy c) c.dst 0 0 (some (compactLit 7 c.b.toNat)))
  | 0x0A => (0x40, compactArith c)
  | 0x0B => (0x42, compactArith c)
  | 0x0C => (0x46, compactArith c)
  | 0x0D => (0x47, compactArith c)
  | 0x0E => (0xC0, compactOps c .i8 0 0 0 (some (compactLit 14 (c.b.toNat * 128 + c.dst.toNat))))
  | 0x10 => (0xCF, compactBare c)
  | 0x11 => (0xD0, compactOps c .i8 0 c.b 0 none)
  | 0x12 => (0xC9, compactMask c)
  | 0x13 => (0xC7, compactMask c)
  | 0x14 => (0xC8, compactMask c)
  | 0x15 => (0xC5, compactBare c)
  | 0x16 => (0xC4, compactOps c .i8 0 1 0 none)
  | _ => (0xD1, compactBare c)

/-- The opcode and fields of an instruction in its S64 form; none for a step of the device. -/
def coreForm (i : Instr) : Option (Nat × Ops) :=
  match i.parts with
  | .op code o => some (code, o)
  | .compact cop c => some (compactForm cop c)
  | .event => none

/-- A per-lane access of global memory (R270, R271). -/
def isGlobal (op : Nat) (o : Ops) : Bool :=
  [0x100, 0x101, 0x109, 0x10B, 0x10C, 0x10E, 0x10F, 0x110, 0x111, 0x112, 0x113, 0x114, 0x115, 0x140, 0x141, 0x142, 0x143, 0x144, 0x145,
   0x146, 0x147, 0x148, 0x149, 0x14A, 0x14B, 0x1C8].contains op
  || ([0x102, 0x103, 0x10D].contains op && o.c.toNat != 1)

/-- An access of memory, for what an acquire-release access orders after itself (R193, R208). -/
def isAccess (op : Nat) : Bool :=
  (0x100 ≤ op && op ≤ 0x115) || (0x140 ≤ op && op ≤ 0x14D) || (0x160 ≤ op && op ≤ 0x168) || op == 0x16A || op == 0x16B || op == 0x1C7
  || op == 0x1C8

/-- What a thread with a logged access does not issue, whatever it touches (R271). -/
def isOrdered (op : Nat) : Bool :=
  [0x102, 0x103, 0x106, 0x107, 0x140, 0x141, 0x142, 0x143, 0x144, 0x145, 0x146, 0x147, 0x1C8, 0x1C7, 0x16A, 0x16B, 0x166, 0xE7, 0xE1, 0xE2,
   0xE4, 0xE5, 0xE6, 0xE8, 0xC9, 0xCD, 0xCE, 0x14C, 0x14D, 0x167, 0x168, 0x1C6, 0xC5].contains op

/-- An arrival or a release at gang or core scope, for which the thread's atomics and reductions have been applied (R112, R138, R139, R152, R203,
R204). -/
def isLocalRelease (op : Nat) : Bool := [0xC9, 0xCD, 0xCE, 0xE1, 0xE2, 0x107, 0x16A].contains op

/-- A register's result is on its way: the scoreboard holds its readers and its next writers. -/
def Gang.awaits (g : Gang) (k : Nat) (r : Dest) : Bool :=
  match r with
  | .g n => g.gPending.contains n
  | .none => false
  | r => (g.lane k).pending.contains r

/-- The lanes whose srcA an instruction reads in lane k (R183): its own, and where another is read, that one: its b operand, or
the guarded lanes of its bundle, say which. -/
def State.lanesRead (p : State) (op : Nat) (o : Ops) (k : Nat) : List Nat :=
  match op with
  | 0x27 =>
    let g := p.gangAt p.cur.gang
    let L := those (g.bundleOf k ||| laneMask k) fun j => (g.lane j).getP o.guard.p.toNat != o.guard.neg
    match o.opmod.toNat % 4 with
    | 0 => [(p.opB o (lowest L)).toNat % 32]
    | 1 => [lowest L]
    | _ => [(lanes L).getLastD 0]
  | 0xA0 => (List.range (if o.lo then 1 else o.ty.count)).map fun j => (shflSource o k j (sub (p.opB o k) o.ty.width j)).1
  | 0xA1 => [(p.opBNat o k).toNat % 32]
  | _ => [k]

/-- The scoreboard holds an instruction in a lane (R76, R103, R183): a register that it reads or writes is pending. GBARP reads every
register that it carries, but for one that acts as GBAR (R155), and a WIDEN that spreads its thread every register of it (R138). -/
def State.scoreHeld (p : State) (key k op : Nat) (o : Ops) : Bool :=
  let g := p.gangAt key
  let t := g.lane k
  (.p o.guard.p.toNat :: (ownReads op o ++ writesOf op o)).any (g.awaits k)
  || (o.ix && !crossLane op && g.awaits k (.d (aNum o t)))
  || (crossLane op && !o.clsA && (p.lanesRead op o k).any fun j => g.awaits j (.d (aNum o (g.lane j))))
  || (op == 0x26 && g.awaits k (.g (p.movgNum o k)))
  || (op == 0xE6 && g.shadow.isNone && (!t.pending.isEmpty || !g.gPending.isEmpty))
  || (op == 0xCD && g.eligible && !t.pending.isEmpty)

/-- The virtual addresses that a per-lane global access touches with its operands; none where a reference does not resolve. -/
def State.touched (s : State) (x : MemCtx) (op : Nat) (o : Ops) (p : LaneOps) : Option (List Word) :=
  let n := accWidth o.ty
  match op with
  | 0x147 | 0x14B => some (vaRange p.a n)
  | 0x109 => some (vaRange (s.bankOf (s.gangAt x.key).launch (dieOf x.key) + p.at) n)
  | 0x10B | 0x10C | 0x10D => some (vaRange p.at 1)
  | 0x10E | 0x10F =>
    match s.refPlace x (o.opmod.toNat == 1) p with
    | .ok (_, e) => some e.acc.vas
    | .error _ => none
  | 0x110 | 0x111 =>
    match s.objAccess x p n with
    | .ok (_, e) => some e.acc.vas
    | .error _ => none
  | 0x112 | 0x113 | 0x114 | 0x115 =>
    match s.resolve x.core (s.gangAt x.key).world (s.gangAt x.key).xlate x.priv p.a with
    | .ok (_, ob) => some (vaRange ob.entry 16)
    | .error _ => none
  | _ => some (vaRange p.at n)

/-- The operands of a per-lane access in a lane, as its issue reads them. -/
def State.laneOps (p : State) (op : Nat) (o : Ops) (k : Nat) : LaneOps :=
  let h := (op == 0x10E || op == 0x10F) && o.opmod.toNat == 1
  { lane := k
    a := if h || op == 0x110 || op == 0x111 || op == 0x114 || op == 0x115 then p.opH o.a.toNat k
      else if op == 0x112 || op == 0x113 then p.opH o.dst.toNat k
      else p.opA o k
    b := if op == 0x147 || op == 0x14B || op == 0x1C8 then 0 else p.opBSigned o k
    c := 0 }

/-- Two accesses touch a common 128-byte line; one whose place is unknown may touch any. -/
def shareLine (a b : Option (List Word)) : Bool :=
  match a, b with
  | some xs, some ys => xs.any fun x => ys.any fun y => x.toNat / 128 == y.toNat / 128
  | _, _ => true

/-- A logged access of the thread touches a line of this one (R271). -/
def State.loggedLine (s : State) (key k : Nat) (mine : Option (List Word)) : Bool :=
  s.oplog.any fun e => e.gang == key && e.lanes.getLsbD k
    && match coreForm e.insn, e.ops.find? fun p => p.lane == k with
      | some (op, o), some p =>
        let x : MemCtx := { key := key, pc := e.pc, insn := e.insn, raw := e.raw, priv := e.priv, ops := e.ops, entry := none, others := false }
        shareLine mine (s.touched x op o p)
      | _, _ => true

/-- CSRR of HEAPCOL is an acquire where it returns active = 0 (R284, R349). -/
def State.readsIdle (p : State) (key op : Nat) (o : Ops) : Bool :=
  op == 0x1C3 && Csr.ofNumber o.a.toNat == some .heapcol && !(p.heapOf (asidOf (p.gangAt key).xlate)).active

/-- The rows of global memory that a tile load or store touches in a lane (R88). -/
def State.tileSpans (p : State) (o : Ops) (k : Nat) : List (Word × Nat) :=
  let size := if o.ty = .f64 then 8 else 4
  let stride := if p.opBReg o k = 0 then word (8 * size) else p.opBReg o k
  let base := p.opA o k + (match o.lit with | some l => sext 32 l.toNat | none => 0)
  if o.opmod.toNat % 2 == 1 then [] else (List.range 8).map fun i => (base + word i * stride, 8 * size)

/-- The ranges of global memory that a copy, or a tile load or store, touches with its operands; of CPYX, whose table names them, every address. -/
def State.engineSpans (p : State) (op : Nat) (o : Ops) (k : Nat) : List (Word × Nat) :=
  let dst := p.opA o k + (match o.lit with | some l => sext 32 l.toNat | none => 0)
  let src := p.opBReg o k
  let sides := copySides (op == 0x164) (o.opmod.toNat % 4)
  let ends := fun (d s : Word) n => (if sides.1 = .global then [(d, n)] else []) ++ if sides.2 = .global then [(s, n)] else []
  match op with
  | 0x160 | 0x162 | 0x164 => ends dst src (p.opC o k).toNat
  | 0x161 =>
    let a := p.regG o.c.toNat
    let b := p.regG (o.c.toNat + 1)
    (List.range (Word.field a 47 32)).flatMap fun i =>
      ends (dst + word (i * Word.field b 31 0)) (src + word (i * Word.field b 63 32)) (Word.field a 23 0)
  | 0x163 => [(0, 2 ^ 64)]
  | 0x188 | 0x189 | 0x18A => p.tileSpans o k
  | _ => []

/-- A logged access of the thread touches a line of some ranges (R271). -/
def State.spansLogged (s : State) (key k : Nat) (spans : List (Word × Nat)) : Bool :=
  s.oplog.any fun e => e.gang == key && e.lanes.getLsbD k && !spans.isEmpty
    && match coreForm e.insn, e.ops.find? fun p => p.lane == k with
      | some (op, o), some p =>
        let x : MemCtx := { key := key, pc := e.pc, insn := e.insn, raw := e.raw, priv := e.priv, ops := e.ops, entry := none, others := false }
        match s.touched x op o p with
        | some vas => vas.any fun va => spans.any fun r =>
            r.2 != 0 && decide (r.1.toNat / 128 ≤ va.toNat / 128) && decide (va.toNat / 128 ≤ (r.1.toNat + r.2 - 1) / 128)
        | none => true
      | _, _ => true

/-- An atomic or reduction of the thread on a byte of this access has not been applied, or a store of it to such a byte of another device's memory has not
been accepted there (R198: its accesses of one location stay in order; R211). -/
def State.unapplied (s : State) (key k : Nat) (priv : Bool) (mine : Option (List Word)) : Bool :=
  let own := ((s.atoms.filter fun a => a.gang == key && a.lane == k && a.applied.isNone).map fun a => (a.pa, accWidth a.ty))
    ++ (s.stores.filter fun t => t.gang == key && t.lane == k && !t.bank && !t.accepted && s.remoteAt t.pa).map fun t => (t.pa, t.bytes.length)
  !own.isEmpty && match mine with
    | none => true
    | some vas => vas.any fun va => match s.translate (coreOf key) (s.gangAt key).xlate va .probe priv with
      | .ok (_, pa, _) => inSpans own pa
      | .error _ => false

/-- A returning atomic of the thread has not replied: accesses after it in program order wait for its acquire part (R193, R208). -/
def State.acquiring (s : State) (key k : Nat) : Bool := s.atoms.any fun a => a.gang == key && a.lane == k && a.dst.isSome

/-- The guarded lanes of a thread's bundle that come before it: the room of a queue is theirs first. -/
def State.aheadOf (s : State) (key k : Nat) (o : Ops) : List Nat :=
  let g := s.gangAt key
  (lanes (g.bundleOf k)).filter fun j => decide (j < k) && (g.lane j).getP o.guard.p.toNat != o.guard.neg

/-- The affine address engine can take no load of the lane (R123: 64 of a shadow gang, 512 of a core). -/
def State.engineFull (s : State) (key k : Nat) (o : Ops) : Bool :=
  let ahead := (s.aheadOf key k o).length
  (s.gangAt key).shadowOf.isSome
  && (decide (Config.shadowLoads ≤ (s.loads.filter fun l => l.gang == key).length + ahead)
    || decide (Config.engineLoads ≤ (s.loads.filter fun l => l.core == coreOf key && (s.gangAt l.gang).shadowOf.isSome).length + ahead))

/-- The owner at which an atomic or a reduction of a lane needs an entry of a queue (R242, R247); none where it needs none, or does not translate. -/
def State.requestOwner (p : State) (key op : Nat) (o : Ops) (i : Instr) (j : Nat) : Option Nat :=
  let x := p.issueCtx i (laneMask j) (p.opA o) (fun _ => 0) fun _ => 0
  match p.touched x op o (p.laneOps op o j) with
  | some (va :: _) => match p.translate (coreOf key) (p.gangAt key).xlate va .probe (p.cl j).priv with
    | .ok (_, pa, _) =>
      if p.remoteAt pa || op == 0x14B && !p.seqWaits (p.gangAt key).launch pa o.ty (p.opBReg o j).toNat then none else some (ownerOf pa)
    | .error _ => none
  | _ => none

/-- An atomic or a reduction of a lane finds no room at its owner: the lane is not ready (R330). -/
def State.roomHold (p : State) (key k op : Nat) (o : Ops) (i : Instr) : Bool :=
  match p.requestOwner key op o i k with
  | none => false
  | some w =>
    let launch := (p.gangAt key).launch
    let ahead := ((p.aheadOf key k o).filter fun j => p.requestOwner key op o i j == some w).length
    decide ((if op == 0x14B then p.seqRoom launch w else p.serviceRoom launch w) ≤ ahead)

/-- LWAIT finds done = 0, and nothing to trap on (R352). -/
def State.lwaitHeld (p : State) (key k : Nat) (o : Ops) : Bool :=
  let a := p.opA o k
  a.toNat % 8 == 0
  && match p.translateRange (coreOf key) (p.gangAt key).xlate a .load (p.cl k).priv 8 with
    | .ok (_, pas) =>
      !(pas.any fun pa => p.poisoned (p.gangAt key).world pa) && (p.watch key 1 0 [(k, vaRange a 8)]).isNone
      && !Word.flag (p.homeValue (coreOf key) pas) 63
    | .error _ => false

/-- LDSX waits for a full line, STSF for an empty one (R203, R233), unless its place traps. -/
def State.lineHeld (p : State) (key k : Nat) (o : Ops) (fill : Bool) : Bool :=
  let a := p.memAddr o k
  (p.scratchPlace key (accWidth o.ty) true [(k, a)]).isNone && p.fullAt key a == fill

/-- The release part of a GRED at its group's scope is not complete (R250). -/
def State.gredHold (p : State) (key k : Nat) (o : Ops) : Bool :=
  let n := o.c.toNat
  let sh := gredShape n (p.cg.getG n) (p.cg.getG (n + 1))
  !sh.bad && p.isMember p.cg sh.group && !p.releaseDone key k (p.groupScope p.cg.launch sh.group)

/-- ERET reads the frame's words of d1 and d2 and writes the registers: it waits for the results that are on their way to either, but for those of the
entry that it replays (R26, R335, R346). -/
def State.eretHeld (p : State) (key k : Nat) : Bool :=
  let t := p.cl k
  t.mode == .handler
  && (t.pending.any isFrameReg
    || (p.loads.any fun l => l.gang == key && l.lane == k && (l.dst == .frame 1 || l.dst == .frame 2))
    || (p.atoms.any fun a => a.gang == key && a.lane == k && a.framed)
    || p.oplog.any fun e => e.gang == key && e.late.getLsbD k && (memoryMeta e.insn).2.any isFrameReg
      && !(t.oplogValid && t.oplogEntry.toNat == e.entry))

/-- An instruction's own wait at issue, by its opcode. -/
def State.ownHold (p : State) (key k op : Nat) (o : Ops) : Bool :=
  let own := fun q => p.isMember p.cg q
  match op with
  | 0xE5 | 0x14D => own (p.opBNat o k).toNat && p.groupHold o k
  | 0xE6 => own (p.opBNat o k).toNat && (p.groupHold o k || p.phaseHold key)
  | 0xE7 => p.fenceHold o k
  | 0x103 => p.releaseHold o k
  | 0x106 => p.lineHeld key k o false
  | 0x107 => p.lineHeld key k o true
  | 0x108 => p.refreshNow (dieOf key)
  | 0x10C => p.flushHold o k
  | 0x112 => p.pinHold o (fun _ => true) k
  | 0x113 => p.pinHold o refPinned k
  | 0x10D => o.c.toNat != 1 && p.icinvHold o k
  | 0x140 | 0x141 | 0x142 | 0x143 | 0x144 | 0x145 | 0x146 | 0x147 => p.atomHold o k
  | 0x14C => p.gredHold key k o
  | 0x160 | 0x161 | 0x162 | 0x163 | 0x164 => decide (Config.copyLimit ≤ p.outstanding (partOf key)) && p.copyBytes op o k != 0
  | 0x166 | 0x168 => p.dieHold k
  | 0x16B => p.qpopHold o k
  | 0x180 | 0x181 | 0x182 | 0x183 | 0x184 | 0x185 | 0x186 | 0x187 | 0x188 | 0x189 | 0x18A =>
    p.refusesMatrix (partOf key) || decide (Config.matrixLimit ≤ (p.array (partOf key)).queue.length)
  | 0x18B => p.mreadyHold key k
  | 0x1C2 => p.eretHeld key k
  | 0x1C6 => !(p.cl k).priv && p.safeStops key && p.safeHold k
  | 0x1C7 => !p.releaseDone key k 5
  | 0x1C8 => o.opmod.toNat != 1 && p.lwaitHeld key k o
  | 0x1CD => (p.cl k).mode == .save && p.busyAsync key
  | _ => false

/-- What holds an instruction in a lane whose guard is true (R78, R96, R123, R157, R233, R243, R270, R271). -/
def State.opHeld (p : State) (key k : Nat) (i : Instr) (op : Nat) (o : Ops) : Bool :=
  let glob := isGlobal op o
  let logged := p.logged key k
  let x := p.issueCtx i (laneMask k) (p.opA o) (fun _ => 0) fun _ => 0
  let mine := p.touched x op o (p.laneOps op o k)
  (logged && (isOrdered op || p.readsIdle key op o || p.spansLogged key k (p.engineSpans op o k))) || (glob && logged && p.loggedLine key k mine)
  || (glob && (p.freeEntry (partOf key)).isNone)
  || (glob && p.unapplied key k (p.cl k).priv mine)
  || (isAccess op && p.acquiring key k)
  || ([0x100, 0x102, 0x104, 0x108, 0x109].contains op && p.engineFull key k o)
  || (decide (0x140 ≤ op ∧ op ≤ 0x14B) && p.roomHold key k op o i)
  || (isLocalRelease op && !p.releaseDone key k 0)
  || p.ownHold key k op o

/-- A runnable thread that has begun an instruction may issue it again: a transfer to a host core (R140, R271, R297), a TLBINV (R353). Every
other wait ends by the event that releases it. -/
def State.waitOver (s : State) (key k : Nat) : Bool :=
  match ((s.gangAt key).lane k).wait with
  | .no => true
  | .cross => s.departReady key k
  | .shoot since => s.shootDone since
  | _ => false

/-- A thread's next instruction, as a fetch would find it now. -/
def State.nextInstr (s : State) (key k : Nat) : Fetched :=
  let t := (s.gangAt key).lane k
  (s.fetch key (laneMask k) t.pc t.priv).2

/-- READY (R103): a runnable thread could issue its next instruction at this clock. One whose fetch traps is ready: it takes the trap. -/
def State.ready (s : State) (key k : Nat) : Bool :=
  let t := (s.gangAt key).lane k
  t.cond == .runnable && decide (t.readyAt ≤ s.clock) && s.waitOver key k
  && match s.nextInstr key k with
    | .trap _ => true
    | .instr i len raw =>
      match coreForm i with
      | none => true
      | some (op, o) =>
        let p : State := { s with cur := { gang := key, lanes := laneMask k, pc := t.pc, len := len, raw := raw } }
        !p.scoreHeld key k op o && !(t.getP o.guard.p.toNat != o.guard.neg && p.opHeld key k i op o)

/-- A thread that waits in an instruction belongs to no bundle until it is released, or may issue the instruction again (R150, R105). -/
def State.bundled (s : State) (key k : Nat) : Bool :=
  let t := (s.gangAt key).lane k
  t.cond == .runnable && (t.wait == .no || s.waitOver key k)

/-- Two threads of a gang share a bundle (R104), but for a thread that the debugger is stepping, which stays alone (R124). -/
def Gang.together (g : Gang) (ready : Nat → Bool) (j k : Nat) : Bool :=
  let a := g.lane j
  let b := g.lane k
  j == k || (a.pc == b.pc && ready j == ready k && a.stepping == 0 && b.stepping == 0)

/-- REGROUPING a gang (R104): the tag of a bundle is its lowest lane. -/
def State.regroupGang (s : State) (g : Gang) : Gang :=
  let in' := maskOf (s.bundled g.key)
  let ok := maskOf (s.ready g.key)
  g.onLanes (BitVec.allOnes 32) fun k t =>
    { (if in'.getLsbD k ∧ t.bundle = none then t.sync s.clock (s.coreHorizon (coreOf g.key)) else t) with
      bundle := if in'.getLsbD k then some (lowest (those in' fun j => g.together ok.getLsbD j k)) else none }

/-- Regroup the gangs of a partition (R104). -/
def State.regroup (s : State) (part : Nat) : State :=
  { s with gangs := s.gangs.map fun g => if partOf g.key = part then s.regroupGang g else g }

/-- Regroup every gang: each partition does so at every fourth clock (R104). -/
def State.regroupAll (s : State) : State := { s with gangs := s.gangs.map s.regroupGang }

/-- The regroupings that fall due in the next n groups of four clocks, each at its clock (R104). -/
def State.regroups : Nat → State → State
  | 0, s => s
  | n + 1, s => State.regroups n (State.regroupAll { s with clock := (s.clock / 4 + 1) * 4 })

/-- The clock comes to a number, with the regroupings that fall due on the way (R104). -/
def State.clockTo (s : State) (c : Nat) : State := { State.regroups (c / 4 - s.clock / 4) s with clock := c }

/-- REGROUPING (R104): at a clock count that is a multiple of 4, to which the step brings the clock. -/
def execRegrouping (partition : Nat) (s : State) : Host.Outcome State Fault Refusal :=
  .next (if s.clock % 4 = 0 then s.regroup partition else s.clockTo ((s.clock / 4 + 1) * 4))

/-- STALL_EXPIRY (R26): the thread's stall count has run out. The count is the clock of its next issue, so its expiry is the clock reaching
it: the step brings the clock there. -/
def execStallExpiry (gang lane : Nat) (s : State) : Host.Outcome State Fault Refusal :=
  .next (s.clockTo (max s.clock ((s.gangAt gang).lane lane).readyAt))

/-- PAUSE_EXPIRY (R142): the thread's lowering ends when the clock reaches its end. -/
def execPauseExpiry (gang lane : Nat) (s : State) : Host.Outcome State Fault Refusal :=
  .next (s.clockTo (max s.clock ((s.gangAt gang).lane lane).pauseUntil))

/-- A bundle's fetch (R44 steps 1 to 4, R225, R226): its block is read and kept, also beside an older copy, or the whole bundle takes the trap. -/
def State.fetchStep (s : State) (key k : Nat) : State :=
  let m := (s.gangAt key).bundleOf k
  let t := (s.gangAt key).lane k
  if m = 0 then s
  else
    let m := s.fetchLanes key m t.pc
    let cur : Issue := { gang := key, lanes := m, pc := t.pc, len := 0, raw := 0 }
    match s.fetchPlace key m t.pc ((s.gangAt key).lane (lowest m)).priv with
    | .error r => State.trap { s with cur := cur } r
    | .ok (s1, pa) => match s1.fetchAt key m t.pc pa with
      | (s2, .instr _ _ _) => s2.refetch (coreOf key) (s2.gangAt key).world (asidOf (s2.gangAt key).xlate) pa
      | (s2, .trap r) => State.trap { s2 with cur := cur } r

/-- INSTRUCTION_FETCH (R44, R225). -/
def execInstructionFetch (gang lane : Nat) (s : State) : Host.Outcome State Fault Refusal := .next (s.fetchStep gang lane)

end Sys2Proof.Machine
end

