-- ==== Sys2Proof/Machine/Debug.lean ====
section
/-! DEFINITION. The debugger, the snapshot trigger's other sources, and sampled instructions (R103, R124, R354, R361, R387, R388). -/

namespace Sys2Proof.Machine

/-- The debugger works on the thread that a host core runs (R8, R124): one that stands on none stays as it is. -/
def State.onRunning (s : State) (gang : Nat) (f : HostThread → HostThread) : State :=
  match s.hostRunning (gang - Config.slots) with
  | none => s
  | some i => match s.hostThreads[i]? with
    | some h => s.setHost i (f h)
    | none => s

/-- DEBUGGER_STOP (R103): the thread leaves its bundle and is stopped. -/
def execDebuggerStop (gang lane : Nat) (s : State) : Host.Outcome State Fault Refusal :=
  .next (if Config.slots ≤ gang then s.onRunning gang fun h => { h with stopped := true }
    else s.onThread gang lane fun t =>
      match t.cond with
      | .exited => t
      | .stopped _ => t
      | _ => t.stopBy .debugger)

/-- A thread that the debugger or a trap stopped goes on; one that a watchpoint stopped performs the instruction that hit once without its check
(R361). -/
def Thread.debugResume (t : Thread) : Thread :=
  match t.cond with
  | .stopped .debugger | .stopped .trap =>
    if t.mode = .handler then t.resume else { t.resume with skipWatch := t.hit && t.pc == t.trapPc, hit := false }
  | _ => t

/-- The debugger resumes a thread; one that is held again releases the threads of its gang that are stopped at SAFEs (R308). -/
def State.resumeThread (s : State) (key k : Nat) : State :=
  let s1 := s.onThread key k Thread.debugResume
  match ((s.gangAt key).lane k).cond, ((s1.gangAt key).lane k).cond with
  | .stopped _, .held _ => s1.onGang key Gang.releaseStops
  | _, _ => s1

/-- DEBUGGER_RESUME (R105, R308, R361): it joins a bundle at the next regrouping. -/
def execDebuggerResume (gang lane : Nat) (s : State) : Host.Outcome State Fault Refusal :=
  .next (if Config.slots ≤ gang then s.onRunning gang fun h => { h with stopped := false } else s.resumeThread gang lane)

/-- The debugger writes a byte of the scratch of a gang's block on its core. It is an agent of system world, which a bank of a protected world refuses
(R375; assumption 68). -/
def State.debugScratch (s : State) (key off : Nat) (v : Word) : State :=
  let g := s.gangAt key
  match s.allocAt g.launch g.block (coreOf key) with
  | none => s
  | some a =>
    if a.size ≤ off then s
    else match s.refusing g.launch g.block 0 (coreOf key) off with
      | some p => s.logBanks 0 0 [(p, spotVa (coreOf key) off)]
      | none => s.onScratch key (coreOf key) fun a => a.put off (BitVec.ofNat 8 v.toNat) false

/-- DEBUGGER_STATE_WRITE (R100, R110, R361). -/
def State.debugWrite (s : State) (gang lane : Nat) (what : DebugField) (v : Word) : State :=
  let thread := s.onThread gang lane
  let onG := s.onGang gang
  if Config.slots ≤ gang then
    s.onRunning gang fun h => match what with
      | .pc => { h with pc := v }
      | .d n => if n < 64 then h.setReg n v else h
      | _ => h
  else match what with
  | .pc => thread fun t => { t with pc := v }
  | .meet => thread fun t => { t with meet := v }
  | .hzn => thread fun t => { t with hzn := v }
  | .ix => thread fun t => { t with ix := BitVec.ofNat 7 v.toNat }
  | .d n => if n < (s.gangAt gang).allot then thread fun t => t.setD n v else s
  | .g n => if n < 128 then onG fun g => g.setG n v else s
  | .p n => thread fun t => t.setP n (Word.flag v 0)
  | .h n => if n < 16 then thread fun t => t.setH n v else s
  | .m n => if n < 12 then onG fun g => g.newMask n (BitVec.ofNat 32 v.toNat) else s
  | .fflags => thread fun t => t.setStatus v
  | .wpaddr n => onG fun g => if n = 0 then { g with wpAddr0 := wpaddrOf v g.wpCtl0 } else { g with wpAddr1 := wpaddrOf v g.wpCtl1 }
  | .wpctl n => onG fun g => if n = 0 then { g with wpCtl0 := wpctlOf v } else { g with wpCtl1 := wpctlOf v }
  | .scratch off => s.debugScratch gang off v

/-- DEBUGGER_STATE_WRITE (R110). -/
def execDebuggerStateWrite (gang lane : Nat) (what : DebugField) (value : Word) (s : State) : Host.Outcome State Fault Refusal :=
  .next (s.debugWrite gang lane what value)

/-- The end of a step (R124): a precise SINGLE_STEP trap stops the thread, with TRAPPC its new pc, or the WAIT at which it is held and TRAPINFO [0]
set. -/
def State.stepTrap (s : State) (key k : Nat) : State :=
  s.onThread key k fun t =>
    let held := match t.cond with | .held _ => true | _ => false
    let r : TrapReq := { cause := .singleStep, mask := laneMask k, addr := s.freeAddr, info := word (bit held) }
    match t.cond with
    | .exited => { t with stepping := 0 }
    | _ => { (t.trapRegs r t.pc none).stopBy .debugger with stepping := 0 }

/-- SINGLE_STEP (R124) of a thread on a host core: one instruction; one that migrates it is completed where it arrives. -/
def State.hostSingle (s : State) (gang : Nat) : State :=
  match s.hostRunning (gang - Config.slots) with
  | none => s
  | some i => match s.hostThreads[i]? with
    | some h => (s.setHost i { h with stopped := false, stepping := true }).hostStep i
    | none => s

/-- SINGLE_STEP (R124): the debugger places one thread alone in a bundle, to issue one instruction; after that instruction the step ends, on the core
on which the thread then is. -/
def State.singleStep (s : State) (key k : Nat) : State :=
  let t := (s.gangAt key).lane k
  if t.stepping = 2 then (if t.wait = .no then s.stepTrap key k else s)
  else if t.stepping = 1 then s
  else
    let t := t.debugResume
    if t.cond ≠ .runnable then s
    else
      let mates := (s.gangAt key).mates (laneMask k) ||| those (BitVec.allOnes 32) fun j => ((s.gangAt key).lane j).bundle == some k
      let s1 := s.onThread key k fun _ => { t with stepping := 1, bundle := none }
      s1.onGang key fun g =>
        (g.split mates).onLanes (laneMask k) fun _ t => { t with bundle := some k }

/-- SINGLE_STEP (R124). -/
def execSingleStep (gang lane : Nat) (s : State) : Host.Outcome State Fault Refusal :=
  .next (if Config.slots ≤ gang then s.hostSingle gang else s.singleStep gang lane)

/-- SNAPSHOT_TRIGGER (R354, R362): by the debugger, by the pin where pin_en is set, by a machine check where mc_en is set. -/
def execSnapshotTrigger (source : SnapBy) (s : State) : Host.Outcome State Fault Refusal :=
  .next (match source with
    | .debugger => s.fireSnapshot
    | .pin => if s.snapPin then s.fireSnapshot else s
    | .machineCheck => s.checkSnapshot)

/-- The level that the sampled instruction reaches (R387): none where it accesses no memory, else a free one of the twelve, since caches and their
contents are no state of this model (assumption 37). -/
def State.sampleLevel (s : State) : Nat :=
  match (decodeTableWord (8 * s.cur.len) s.cur.raw.toNat).bind coreForm with
  | some (op, _) => if isAccess op then (s.free 5).toNat % 12 else 0
  | none => 0

/-- The record of a sampled instruction (R387), with no flag set yet. Its clocks are no states of this model: free values. -/
def State.sampleRecord (s : State) (part : Nat) : List Byte :=
  let n := s.cur.name
  leBytes 8 s.cur.fetched ++ leBytes 4 n.1 ++ leBytes 4 n.2.1 ++ leBytes 4 n.2.2 ++ leBytes 4 s.cur.lanes.toNat ++ leBytes 8 s.cur.pc.toNat
  ++ leBytes 8 s.cur.raw.toNat ++ ((List.range 5).flatMap fun j => leBytes 2 ((s.free j).toNat % 65536))
  ++ leBytes 1 s.sampleLevel ++ leBytes 1 0 ++ leBytes 2 (requesterOf part).toNat ++ leBytes 10 0

/-- What has become of the instruction that issued last (R387): a lane of it took a trap there, or migrated. -/
def State.sampleFlags (s : State) : Nat :=
  let trapped := fun k =>
    let t := s.cg.lane k
    t.trapPc == s.cur.pc && t.trapMask.getLsbD k && match t.cond with
      | .stopped .trap => true
      | .stopped .debugger => t.hit
      | _ => t.mode == .handler && t.pc == s.cg.trapVec
  let gone := fun k =>
    let t := s.cg.lane k
    t.cond == .exited && s.crossings.any fun c => !c.toDevice && c.launch == t.launch && c.block == t.block && c.tid == t.tid
  bit ((lanes s.cur.lanes).any trapped) + 4 * bit ((lanes s.cur.lanes).any gone)

/-- How many instructions a partition has issued since its sampling interval began. -/
def State.sinceSample (s : State) (part : Nat) : Nat := SMap.get 0 s.issues part - SMap.get 0 s.sampled part

/-- A partition may sample the instruction that issued last (R387, R388). -/
def State.samplesAt (s : State) (part : Nat) : Bool :=
  let d := s.die (part / 384)
  let n := d.sampleShift.toNat
  s.worldOf part == 0 && d.sampleBase != 0 && decide (2 ^ (n - 1) ≤ s.sinceSample part ∧ s.sinceSample part ≤ 2 ^ n)

/-- It must now: the interval is at its longest. -/
def State.samplesNow (s : State) (part : Nat) : Bool :=
  s.samplesAt part && s.sinceSample part == 2 ^ (s.die (part / 384)).sampleShift.toNat

/-- INSTRUCTION_SAMPLE (R387, R388): the partition picks the instruction that issued last, where it issued it, between 2^(n-1) and 2^n issues after the one
before; which of these, the step says. A partition of a protected world samples nothing, and no die with sample_base 0. -/
def execInstructionSample (partition : Nat) (s : State) : Host.Outcome State Fault Refusal :=
  .next (if s.cur.len ≠ 0 ∧ partOf s.cur.gang = partition ∧ s.samplesAt partition then
      { s with
        samples := s.samples ++
          [{ partition := partition, record := s.sampleRecord partition, gang := s.cur.gang, lanes := s.cur.lanes, pc := s.cur.pc,
             flags := s.sampleFlags }]
        sampled := SMap.set 0 s.sampled partition (SMap.get 0 s.issues partition) }
    else s)

/-- The sampled instruction's record, with its flags (R387). -/
def Sample.bytes (x : Sample) : List Byte := x.record.take 0x33 ++ leBytes 1 x.flags ++ x.record.drop 0x34

/-- The sampled instruction is not at its end yet: an access of it stands in the operand log (R270, R387). -/
def State.sampleOpen (s : State) (x : Sample) : Bool :=
  s.oplog.any fun e => e.gang == x.gang && e.pc == x.pc && e.lanes &&& x.lanes != 0

/-- SAMPLE_RECORD_WRITE (R387): the record of the partition's oldest sample goes to the die's sample ring, which wraps. A partition that is of a
protected world by then writes none (R388). -/
def State.writeSample (s : State) (part : Nat) : State :=
  match s.samples.find? fun x => x.partition == part with
  | none => s
  | some x =>
    let d := s.die (part / 384)
    let s1 := { s with samples := s.samples.erase x }
    if s.sampleOpen x then s
    else if d.sampleBase = 0 ∨ d.sampleSize.toNat < 64 ∨ s.worldOf part ≠ 0 then s1
    else
      (s1.hubWrite (d.sampleBase.toNat + d.sampleNext % d.sampleSize.toNat) x.bytes).onDie (part / 384) fun d =>
        { d with sampleNext := (d.sampleNext + 64) % d.sampleSize.toNat }

/-- SAMPLE_RECORD_WRITE (R387). -/
def execSampleRecordWrite (partition : Nat) (s : State) : Host.Outcome State Fault Refusal := .next (s.writeSample partition)

end Sys2Proof.Machine
end

