-- ==== Sys2Proof/Machine/Trust.lean ====
section
/-! DEFINITION. The security core (R376, R379 to R385): the SPDM responder, the handover of a world, counters, allow-lists, way maps. What the SPDM
standard lays down and the manual does not is an opaque value of Config. -/

namespace Sys2Proof.Machine

/-- The security core sends a message: on a PCIe port or the management link by its number, and to the other device of a handover as 16. -/
def State.sendSec (s : State) (transport : Nat) (bs : List Byte) : State :=
  { s with sec := { s.sec with sent := s.sec.sent ++ [(transport, bs)] } }

/-- The measurement slots in order. -/
def State.slots (s : State) : List (BitVec 256) := SMap.getList 0 s.sec.ms 0 16

/-- The security core's signature over a byte string: 64 bytes (R382). -/
def signature (bs : List Byte) : List Byte := leBytes 64 (Config.sm2Sign bs).toNat

/-- SPDM ERROR with an error code: 0x03 Busy, 0x07 UnsupportedRequest, 0x01 InvalidRequest. -/
def spdmError (code data : Byte) : List Byte := [0x13, 0x7F, code, data]

/-- The responder is up (R393 step 8); after a failed signature it answers only GET_VERSION, GET_CAPABILITIES and GET_MEASUREMENTS. -/
def State.answersSpdm (s : State) (always : Bool) : Bool := if s.bootFailed then always else decide (8 ≤ s.bootStep)

/-- An SPDM request of a supported code is answered (R381), and is part of its connection's state. -/
def State.spdm (s : State) (always : Bool) (code transport : Nat) (payload : List Byte) (body : List Byte) : State :=
  if !s.answersSpdm always then s
  else
    State.sendSec { s with sec := { s.sec with negotiated := s.sec.negotiated ++ [(transport, code)] } } transport
      (Config.spdmAnswer code payload s.slots ++ body)

/-- GET_VERSION (R381): a connection begins anew. -/
def execGetVersion (transport : Nat) (payload : List Byte) (s : State) : Host.Outcome State Fault Refusal :=
  .next (if !s.answersSpdm true then s
    else State.spdm { s with sec := { s.sec with negotiated := s.sec.negotiated.filter fun e => e.1 ≠ transport } } true 0x84 transport payload [])

/-- GET_CAPABILITIES (R381). -/
def execGetCapabilities (transport : Nat) (payload : List Byte) (s : State) : Host.Outcome State Fault Refusal :=
  .next (s.spdm true 0xE1 transport payload [])

/-- NEGOTIATE_ALGORITHMS (R381). -/
def execNegotiateAlgorithms (transport : Nat) (payload : List Byte) (s : State) : Host.Outcome State Fault Refusal :=
  .next (s.spdm false 0xE3 transport payload [])

/-- GET_DIGESTS (R381). -/
def execGetDigests (transport : Nat) (payload : List Byte) (s : State) : Host.Outcome State Fault Refusal :=
  .next (s.spdm false 0x81 transport payload [])

/-- GET_CERTIFICATE (R381). -/
def execGetCertificate (transport : Nat) (payload : List Byte) (s : State) : Host.Outcome State Fault Refusal :=
  .next (s.spdm false 0x82 transport payload [])

/-- CHALLENGE (R381): signed by the device. -/
def execChallenge (transport : Nat) (payload : List Byte) (s : State) : Host.Outcome State Fault Refusal :=
  .next (s.spdm false 0x83 transport payload (signature payload))

/-- An entry of an audit log as its bytes (R371, R384). -/
def Audit.bytes (a : Audit) : List Byte :=
  leBytes 8 a.gtime.toNat ++ [a.kind, a.b9, a.b10, a.b11] ++ leBytes 4 0 ++ leBytes 8 a.address.toNat ++ leBytes 8 0

/-- The raw stream of a world's audit log (R385): entries appended, entries overwritten, the live entries, oldest first. -/
def State.auditStream (s : State) (world : Nat) : List Byte :=
  let l := s.auditLog world
  leBytes 8 l.appended ++ leBytes 8 (l.appended - l.entries.length) ++ l.entries.flatMap Audit.bytes

/-- What a measurement index returns (R380, R381, R385). -/
def State.measurement (s : State) (index : Nat) : List Byte :=
  if 1 ≤ index ∧ index ≤ 16 then
    digestBytes (s.slot (index - 1)) ++ (if index = 4 then s.sec.images.flatten else [])
  else if 0x40 ≤ index ∧ index ≤ 0x7F then s.auditStream (index - 0x3F)
  else []

/-- GET_MEASUREMENTS (R381): the index is the second byte of the request's parameters; the measurement is signed. -/
def execGetMeasurements (transport : Nat) (payload : List Byte) (s : State) : Host.Outcome State Fault Refusal :=
  .next (
    let m := s.measurement (payload.getD 1 0).toNat
    s.spdm true 0xE0 transport payload (m ++ signature m))

/-- KEY_EXCHANGE (R381). -/
def execKeyExchange (transport : Nat) (payload : List Byte) (s : State) : Host.Outcome State Fault Refusal :=
  .next (s.spdm false 0xE4 transport payload [])

/-- FINISH (R381): the session is open. -/
def execFinish (transport : Nat) (payload : List Byte) (s : State) : Host.Outcome State Fault Refusal :=
  .next (if !s.answersSpdm false then s
    else State.spdm { s with sec := { s.sec with sessions := (s.sec.sessions.filter (· ≠ transport)) ++ [transport] } } false 0xE5 transport payload [])

/-- HEARTBEAT (R381). -/
def execHeartbeat (transport : Nat) (payload : List Byte) (s : State) : Host.Outcome State Fault Refusal :=
  .next (s.spdm false 0xE8 transport payload [])

/-- KEY_UPDATE (R381). -/
def execKeyUpdate (transport : Nat) (payload : List Byte) (s : State) : Host.Outcome State Fault Refusal :=
  .next (s.spdm false 0xE9 transport payload [])

/-- END_SESSION (R381): the session is closed. -/
def execEndSession (transport : Nat) (payload : List Byte) (s : State) : Host.Outcome State Fault Refusal :=
  .next (if !s.answersSpdm false then s
    else State.spdm { s with sec := { s.sec with sessions := s.sec.sessions.filter (· ≠ transport) } } false 0xEC transport payload [])

/-- VENDOR_DEFINED_REQUEST (R381): the TDISP requests that it carries are steps of their own. -/
def execVendorDefinedRequest (transport : Nat) (payload : List Byte) (s : State) : Host.Outcome State Fault Refusal :=
  .next (s.spdm false 0xFE transport payload [])

/-- Every other SPDM request (R381): ERROR UnsupportedRequest. -/
def execUnsupportedSpdmRequest (transport : Nat) (payload : List Byte) (s : State) : Host.Outcome State Fault Refusal :=
  .next (if s.answersSpdm false then s.sendSec transport (spdmError 0x07 (payload.getD 0 0)) else s)

/-- The signed part of a handover record (R382), with attempts 0. -/
def State.handoverBody (s : State) (world : Nat) (destination : BitVec 256) : List Byte :=
  leBytes 4 1 ++ leBytes 1 world ++ leBytes 1 0 ++ leBytes 2 0 ++ leBytes 8 s.gtime ++ digestBytes Config.deviceCert ++ digestBytes destination
  ++ ((List.range 8).flatMap fun j => leBytes 8 (s.free j).toNat) ++ leBytes 64 (Config.wrapKeys world destination).toNat
  ++ digestBytes (Config.sm3 ((s.slots.take 4).flatMap digestBytes)) ++ leBytes 16 0

/-- WORLD_EXPORT (R382): the record is kept and sent, the world's working keys are erased, its partitions cleared. A world whose keys are gone, or whose
record stands, has nothing to export. -/
def State.export' (s : State) (world : Nat) (destination : BitVec 256) : State :=
  if s.sec.keysGone.contains world ∨ (s.sec.handovers.any fun h => h.1 == world) then s
  else
    let body := s.handoverBody world destination
    let record := body ++ signature body
    let s1 := State.sendSec
      { s with
        sec := { s.sec with
          handovers := s.sec.handovers ++ [(world, word s.gtime, 0, s.gtime + Config.handoverNs, record)]
          keysGone := s.sec.keysGone ++ [world] } } 16 record
    ((List.range Config.partitions).filter fun p => s.worldOf p == world).foldl (fun s p => s.startClearing p none) s1

/-- WORLD_EXPORT (R382). -/
def execWorldExport (world : Nat) (destination : BitVec 256) (s : State) : Host.Outcome State Fault Refusal := .next (s.export' world destination)

/-- The handover record of a handle. -/
def State.handover (s : State) (world : Nat) (created : Word) : Option (Nat × Word × Nat × Nat × List Byte) :=
  s.sec.handovers.find? fun h => h.1 == world && h.2.1 == created

/-- A send is within its 50 ms (R383); a failed attempt has the deadline 0. -/
def State.inFlight (s : State) (h : Nat × Word × Nat × Nat × List Byte) : Bool := decide (s.gtime ≤ h.2.2.2.1 ∧ h.2.2.2.1 ≠ 0)

/-- A handle as its bytes (R382): the world, and GTIME of creation. -/
def handleBytes (world : Nat) (created : Word) : List Byte := leBytes 1 world ++ leBytes 8 created.toNat

/-- The error answer to a confirmation, which names the handle (R383; its form is this model's, assumption 39). -/
def lateAnswer (world : Nat) (created : Word) : List Byte := spdmError 0x01 0 ++ handleBytes world created

/-- HANDOVER_CONFIRM (R383): the record is deleted; a confirmation that comes late is answered with an error. -/
def execHandoverConfirm (world : Nat) (created : Word) (s : State) : Host.Outcome State Fault Refusal :=
  .next (match s.handover world created with
    | some h =>
      if s.inFlight h then { s with sec := { s.sec with handovers := s.sec.handovers.erase h } } else s.sendSec 16 (lateAnswer world created)
    | none => s.sendSec 16 (lateAnswer world created))

/-- HANDOVER_TIMEOUT (R383): GTIME passes the deadline: a first attempt has failed, a second destroys the record. -/
def State.handoverTimeout (s : State) (world : Nat) : State :=
  match s.sec.handovers.find? fun h => h.1 == world && h.2.2.2.1 != 0 with
  | none => s
  | some (w, created, attempts, deadline, record) =>
    let s1 := { s with gtime := max s.gtime (deadline + 1) }
    let rest := s1.sec.handovers.erase (w, created, attempts, deadline, record)
    { s1 with sec := { s1.sec with handovers := if attempts = 0 then rest ++ [(w, created, 0, 0, record)] else rest } }

/-- HANDOVER_TIMEOUT (R383). -/
def execHandoverTimeout (world : Nat) (s : State) : Host.Outcome State Fault Refusal := .next (s.handoverTimeout world)

/-- HANDOVER_RETRY (R383): the same record once more, with attempts 1, after a first attempt whose 50 ms are over; anything else is refused with ERROR
Busy. -/
def State.handoverRetry (s : State) (world : Nat) (created : Word) : State :=
  match s.handover world created with
  | some (w, t, attempts, deadline, record) =>
    if attempts ≠ 0 ∨ s.inFlight (w, t, attempts, deadline, record) then s.sendSec 16 (spdmError 0x03 0)
    else
      let again := record.set 5 1
      State.sendSec
        { s with
          sec := { s.sec with
            handovers := s.sec.handovers.erase (w, t, attempts, deadline, record) ++ [(w, t, 1, s.gtime + Config.handoverNs, again)] } } 16 again
  | none => s.sendSec 16 (spdmError 0x03 0)

/-- HANDOVER_RETRY (R383). -/
def execHandoverRetry (world : Nat) (created : Word) (s : State) : Host.Outcome State Fault Refusal := .next (s.handoverRetry world created)

/-- The destination discards a world's keys (R383): its lines here verify no more. -/
def State.discardKeys (s : State) (world : Nat) : State :=
  { s with
    sec := { s.sec with
      imported := s.sec.imported.filter (· ≠ world)
      keysGone := if s.sec.keysGone.contains world then s.sec.keysGone else s.sec.keysGone ++ [world] } }

/-- HANDOVER_RECORD_ARRIVAL (R382, R383): what the other device sends. A record for this device whose signature verifies: the world's keys are imported, and
the signed confirmation names the handle. The error answer to a late confirmation: the keys that were imported are discarded. -/
def State.handoverArrival (s : State) (record : List Byte) : State :=
  let late := s.sec.imported.find? fun w => record.length == 13 && record.take 5 == spdmError 0x01 0 ++ leBytes 1 w
  match late with
  | some w => s.discardKeys w
  | none =>
  let body := (record.take 256).set 5 0
  let world := (record.getD 4 0).toNat
  if record.length = 320 ∧ 1 ≤ world ∧ world ≤ Config.worlds ∧ (record.drop 0x30).take 32 = digestBytes Config.deviceCert
      ∧ Config.sm2Verify body (record.drop 0x100) then
    let handle := handleBytes world (word (leNat ((record.drop 8).take 8)))
    State.sendSec
      { s with
        sec := { s.sec with
          keysGone := s.sec.keysGone.filter (· ≠ world)
          imported := if s.sec.imported.contains world then s.sec.imported else s.sec.imported ++ [world] } } 16
      (handle ++ signature handle)
  else s

/-- HANDOVER_RECORD_ARRIVAL (R383). -/
def execHandoverRecordArrival (record : List Byte) (s : State) : Host.Outcome State Fault Refusal := .next (s.handoverArrival record)

/-- The world that a counter belongs to (R384): core 63 names the sensors, of world 0. -/
def State.counterWorld (s : State) (counter : BitVec 16) : Nat :=
  let c := word counter.toNat
  if Word.field c 13 8 = 63 then 0 else s.worldOf (8 * (48 * Word.field c 15 14 + Word.field c 13 8) + Word.field c 7 5)

/-- The value of a counter (R384, R391). Event 31 of a partition is the charge on its die of the launch in it, of the one in its lowest slot where there are
several (assumption 44); the other events are not named: free values. -/
def State.counterValue (s : State) (counter : BitVec 16) : Word :=
  let c := word counter.toNat
  let die := Word.field c 15 14
  if Word.field c 13 8 = 63 ∨ Word.field c 4 0 ≠ 31 then Config.counter counter s.freeCtr
  else match ((s.gangs.filter fun g => partOf g.key == 8 * (48 * die + Word.field c 13 8) + Word.field c 7 5).map (·.key)).min? with
    | none => 0
    | some k => word (match s.launchOf (s.gangAt k).launch with | some l => SMap.get 0 l.charged die | none => 0)

/-- COUNTER_READ (R384): the value, or zero and an entry in the world's audit log. -/
def State.readCounter (s : State) (counter : BitVec 16) (requester : Nat) : State :=
  let w := s.counterWorld counter
  let c := word counter.toNat
  if w = 0 ∨ (SMap.get 0 s.sec.allow w).getLsbD (Word.field c 4 0) then
    s.sendSec requester (leBytes 8 (s.counterValue counter).toNat)
  else
    (s.audit w
      { gtime := word s.gtime, kind := 0x20, b9 := BitVec.ofNat 8 requester, b10 := BitVec.ofNat 8 (Word.field c 7 0),
        b11 := BitVec.ofNat 8 (Word.field c 15 8), address := 0 }).sendSec requester (leBytes 8 0)

/-- COUNTER_READ (R384). -/
def execCounterRead (counter : BitVec 16) (requester : Nat) (s : State) : Host.Outcome State Fault Refusal := .next (s.readCounter counter requester)

/-- ALLOW_LIST_CHANGE (R384): MS3 is extended at a change. -/
def execAllowListChange (world : Nat) (value : BitVec 32) (s : State) : Host.Outcome State Fault Refusal :=
  .next (s.measured { s with sec := { s.sec with allow := SMap.set 0 s.sec.allow world value } })

/-- The lines of a world in a slice that stand in plaintext are sealed out (R376). -/
def State.sealOut (s : State) (slice world : Nat) : State :=
  let lines := (s.lineWorld.filter fun e => e.2 == world && ownerOf (e.1 * 128) == slice && (SMap.get none s.seals e.1).isNone).map (·.1)
  { s with seals := lines.foldl (fun m l => SMap.set none m l (some { line := l, world := world, intact := true })) s.seals }

/-- A line of a protected world leaves the ways that the world owns, for a shared way, the memory-side cache or memory: it is sealed (R376). -/
def State.lineLeaves (s : State) (line : Nat) : State :=
  if s.tag line = 0 ∨ (SMap.get none s.seals line).isSome then s
  else { s with seals := SMap.set none s.seals line (some { line := line, world := s.tag line, intact := true }) }

/-- A WAY OF A SLICE gets an owner (R376): ways 0 to 3 are always shared; a way that is taken from a world first has its lines sealed out, which the
model takes as all of that world's lines in the slice (assumption 69). -/
def State.writeWay (s : State) (slice way : Nat) (value : Byte) : State :=
  let old := (SMap.get 0 s.sec.l2wmap (16 * slice + way)).toNat
  let new : Byte := if way < 4 then 0 else value
  let s1 := if 1 ≤ old ∧ old ≤ Config.worlds ∧ new.toNat ≠ old then s.sealOut slice old else s
  { s1 with sec := { s1.sec with l2wmap := SMap.set 0 s1.sec.l2wmap (16 * slice + way) new } }

/-- L2WMAP_WRITE (R376); MS3 is extended with the changed configuration (R380). -/
def execL2wmapWrite (slice way : Nat) (value : Byte) (s : State) : Host.Outcome State Fault Refusal :=
  .next (s.measured (s.writeWay slice way value))

end Sys2Proof.Machine
end

