-- ==== Sys2Proof/Machine/Dispatch.lean ====
section
/-! DEFINITION. One arm per constructor: the meaning of every instruction and of every other step of the device. -/

namespace Sys2Proof.Machine

def exec (i : Instr) (s : State) : Host.Outcome State Fault Refusal :=
  match i with
  | .instructionFetch gang lane => Sys2Proof.Machine.execInstructionFetch gang lane s
  | .stallExpiry gang lane => Sys2Proof.Machine.execStallExpiry gang lane s
  | .regrouping partition => Sys2Proof.Machine.execRegrouping partition s
  | .pauseExpiry gang lane => Sys2Proof.Machine.execPauseExpiry gang lane s
  | .iadd o => Sys2Proof.Machine.execIadd o s
  | .isub o => Sys2Proof.Machine.execIsub o s
  | .imul o => Sys2Proof.Machine.execImul o s
  | .imulh o => Sys2Proof.Machine.execImulh o s
  | .imad o => Sys2Proof.Machine.execImad o s
  | .imadw o => Sys2Proof.Machine.execImadw o s
  | .idiv o => Sys2Proof.Machine.execIdiv o s
  | .irem o => Sys2Proof.Machine.execIrem o s
  | .imin o => Sys2Proof.Machine.execImin o s
  | .imax o => Sys2Proof.Machine.execImax o s
  | .iabs o => Sys2Proof.Machine.execIabs o s
  | .ineg o => Sys2Proof.Machine.execIneg o s
  | .iclamp o => Sys2Proof.Machine.execIclamp o s
  | .iadds o => Sys2Proof.Machine.execIadds o s
  | .isubs o => Sys2Proof.Machine.execIsubs o s
  | .and o => Sys2Proof.Machine.execAnd o s
  | .or o => Sys2Proof.Machine.execOr o s
  | .xor o => Sys2Proof.Machine.execXor o s
  | .andn o => Sys2Proof.Machine.execAndn o s
  | .not o => Sys2Proof.Machine.execNot o s
  | .shl o => Sys2Proof.Machine.execShl o s
  | .shr o => Sys2Proof.Machine.execShr o s
  | .sar o => Sys2Proof.Machine.execSar o s
  | .rol o => Sys2Proof.Machine.execRol o s
  | .ror o => Sys2Proof.Machine.execRor o s
  | .popc o => Sys2Proof.Machine.execPopc o s
  | .clz o => Sys2Proof.Machine.execClz o s
  | .ctz o => Sys2Proof.Machine.execCtz o s
  | .brev o => Sys2Proof.Machine.execBrev o s
  | .bswap o => Sys2Proof.Machine.execBswap o s
  | .bfx o => Sys2Proof.Machine.execBfx o s
  | .bfi o => Sys2Proof.Machine.execBfi o s
  | .sext o => Sys2Proof.Machine.execSext o s
  | .zext o => Sys2Proof.Machine.execZext o s
  | .lea o => Sys2Proof.Machine.execLea o s
  | .sel o => Sys2Proof.Machine.execSel o s
  | .mov o => Sys2Proof.Machine.execMov o s
  | .movIx o => Sys2Proof.Machine.execMovIx o s
  | .movi o => Sys2Proof.Machine.execMovi o s
  | .movg o => Sys2Proof.Machine.execMovg o s
  | .movl o => Sys2Proof.Machine.execMovl o s
  | .spec o => Sys2Proof.Machine.execSpec o s
  | .fadd o => Sys2Proof.Machine.execFadd o s
  | .fsub o => Sys2Proof.Machine.execFsub o s
  | .fmul o => Sys2Proof.Machine.execFmul o s
  | .ffma o => Sys2Proof.Machine.execFfma o s
  | .ffms o => Sys2Proof.Machine.execFfms o s
  | .fnma o => Sys2Proof.Machine.execFnma o s
  | .fmin o => Sys2Proof.Machine.execFmin o s
  | .fmax o => Sys2Proof.Machine.execFmax o s
  | .fabs o => Sys2Proof.Machine.execFabs o s
  | .fneg o => Sys2Proof.Machine.execFneg o s
  | .fcpys o => Sys2Proof.Machine.execFcpys o s
  | .fdiv o => Sys2Proof.Machine.execFdiv o s
  | .fsqrt o => Sys2Proof.Machine.execFsqrt o s
  | .frcp o => Sys2Proof.Machine.execFrcp o s
  | .frsq o => Sys2Proof.Machine.execFrsq o s
  | .fexp2 o => Sys2Proof.Machine.execFexp2 o s
  | .flog2 o => Sys2Proof.Machine.execFlog2 o s
  | .fsin o => Sys2Proof.Machine.execFsin o s
  | .fcos o => Sys2Proof.Machine.execFcos o s
  | .ftanh o => Sys2Proof.Machine.execFtanh o s
  | .frnd o => Sys2Proof.Machine.execFrnd o s
  | .fcvt o => Sys2Proof.Machine.execFcvt o s
  | .ftoi o => Sys2Proof.Machine.execFtoi o s
  | .itof o => Sys2Proof.Machine.execItof o s
  | .fscale o => Sys2Proof.Machine.execFscale o s
  | .fclass o => Sys2Proof.Machine.execFclass o s
  | .fgetexp o => Sys2Proof.Machine.execFgetexp o s
  | .vdot o => Sys2Proof.Machine.execVdot o s
  | .vdota o => Sys2Proof.Machine.execVdota o s
  | .vpack o => Sys2Proof.Machine.execVpack o s
  | .vunpk o => Sys2Proof.Machine.execVunpk o s
  | .vperm o => Sys2Proof.Machine.execVperm o s
  | .vsad o => Sys2Proof.Machine.execVsad o s
  | .vavg o => Sys2Proof.Machine.execVavg o s
  | .vins o => Sys2Proof.Machine.execVins o s
  | .vext o => Sys2Proof.Machine.execVext o s
  | .xshfl o => Sys2Proof.Machine.execXshfl o s
  | .xbcast o => Sys2Proof.Machine.execXbcast o s
  | .xred o => Sys2Proof.Machine.execXred o s
  | .xscan o => Sys2Proof.Machine.execXscan o s
  | .xballot o => Sys2Proof.Machine.execXballot o s
  | .xvote o => Sys2Proof.Machine.execXvote o s
  | .xmatch o => Sys2Proof.Machine.execXmatch o s
  | .icmp o => Sys2Proof.Machine.execIcmp o s
  | .fcmp o => Sys2Proof.Machine.execFcmp o s
  | .pand o => Sys2Proof.Machine.execPand o s
  | .por o => Sys2Proof.Machine.execPor o s
  | .pxor o => Sys2Proof.Machine.execPxor o s
  | .pnot o => Sys2Proof.Machine.execPnot o s
  | .pmov o => Sys2Proof.Machine.execPmov o s
  | .bra o => Sys2Proof.Machine.execBra o s
  | .brx o => Sys2Proof.Machine.execBrx o s
  | .call o => Sys2Proof.Machine.execCall o s
  | .calli o => Sys2Proof.Machine.execCalli o s
  | .ret o => Sys2Proof.Machine.execRet o s
  | .exit o => Sys2Proof.Machine.execExit o s
  | .meet o => Sys2Proof.Machine.execMeet o s
  | .join o => Sys2Proof.Machine.execJoin o s
  | .leave o => Sys2Proof.Machine.execLeave o s
  | .wait o => Sys2Proof.Machine.execWait o s
  | .mset o => Sys2Proof.Machine.execMset o s
  | .mget o => Sys2Proof.Machine.execMget o s
  | .mop o => Sys2Proof.Machine.execMop o s
  | .widen o => Sys2Proof.Machine.execWiden o s
  | .narrow o => Sys2Proof.Machine.execNarrow o s
  | .yield o => Sys2Proof.Machine.execYield o s
  | .pause o => Sys2Proof.Machine.execPause o s
  | .nop o => Sys2Proof.Machine.execNop o s
  | .bari o => Sys2Proof.Machine.execBari o s
  | .bara o => Sys2Proof.Machine.execBara o s
  | .barw o => Sys2Proof.Machine.execBarw o s
  | .barx o => Sys2Proof.Machine.execBarx o s
  | .bart o => Sys2Proof.Machine.execBart o s
  | .gbar o => Sys2Proof.Machine.execGbar o s
  | .gbarp o => Sys2Proof.Machine.execGbarp o s
  | .fence o => Sys2Proof.Machine.execFence o s
  | .gwait o => Sys2Proof.Machine.execGwait o s
  | .ld o => Sys2Proof.Machine.execLd o s
  | .st o => Sys2Proof.Machine.execSt o s
  | .lda o => Sys2Proof.Machine.execLda o s
  | .stl o => Sys2Proof.Machine.execStl o s
  | .lds o => Sys2Proof.Machine.execLds o s
  | .sts o => Sys2Proof.Machine.execSts o s
  | .ldsx o => Sys2Proof.Machine.execLdsx o s
  | .stsf o => Sys2Proof.Machine.execStsf o s
  | .ldw o => Sys2Proof.Machine.execLdw o s
  | .ldc o => Sys2Proof.Machine.execLdc o s
  | .pref o => Sys2Proof.Machine.execPref o s
  | .cinv o => Sys2Proof.Machine.execCinv o s
  | .cflush o => Sys2Proof.Machine.execCflush o s
  | .icinv o => Sys2Proof.Machine.execIcinv o s
  | .ldref o => Sys2Proof.Machine.execLdref o s
  | .stref o => Sys2Proof.Machine.execStref o s
  | .ldh o => Sys2Proof.Machine.execLdh o s
  | .sth o => Sys2Proof.Machine.execSth o s
  | .pin o => Sys2Proof.Machine.execPin o s
  | .unpin o => Sys2Proof.Machine.execUnpin o s
  | .refaddr o => Sys2Proof.Machine.execRefaddr o s
  | .refcmp o => Sys2Proof.Machine.execRefcmp o s
  | .aadd o => Sys2Proof.Machine.execAadd o s
  | .aand o => Sys2Proof.Machine.execAand o s
  | .aor o => Sys2Proof.Machine.execAor o s
  | .axor o => Sys2Proof.Machine.execAxor o s
  | .amin o => Sys2Proof.Machine.execAmin o s
  | .amax o => Sys2Proof.Machine.execAmax o s
  | .axchg o => Sys2Proof.Machine.execAxchg o s
  | .acas o => Sys2Proof.Machine.execAcas o s
  | .redadd o => Sys2Proof.Machine.execRedadd o s
  | .redmin o => Sys2Proof.Machine.execRedmin o s
  | .redmax o => Sys2Proof.Machine.execRedmax o s
  | .redseq o => Sys2Proof.Machine.execRedseq o s
  | .gred o => Sys2Proof.Machine.execGred o s
  | .gredw o => Sys2Proof.Machine.execGredw o s
  | .atomicApply request => Sys2Proof.Machine.execAtomicApply request s
  | .atomicReply request => Sys2Proof.Machine.execAtomicReply request s
  | .redseqApply sequence => Sys2Proof.Machine.execRedseqApply sequence s
  | .gredChunkDone round => Sys2Proof.Machine.execGredChunkDone round s
  | .groupMemberFailure launch group rank => Sys2Proof.Machine.execGroupMemberFailure launch group rank s
  | .cpy o => Sys2Proof.Machine.execCpy o s
  | .cpy2d o => Sys2Proof.Machine.execCpy2d o s
  | .cpym o => Sys2Proof.Machine.execCpym o s
  | .cpyx o => Sys2Proof.Machine.execCpyx o s
  | .cpyw o => Sys2Proof.Machine.execCpyw o s
  | .cpymChunkPosted copy chunk => Sys2Proof.Machine.execCpymChunkPosted copy chunk s
  | .copyCompletion copy => Sys2Proof.Machine.execCopyCompletion copy s
  | .cbinit o => Sys2Proof.Machine.execCbinit o s
  | .cbpush o => Sys2Proof.Machine.execCbpush o s
  | .cbpop o => Sys2Proof.Machine.execCbpop o s
  | .cbdone o => Sys2Proof.Machine.execCbdone o s
  | .cbstat o => Sys2Proof.Machine.execCbstat o s
  | .qpush o => Sys2Proof.Machine.execQpush o s
  | .qpop o => Sys2Proof.Machine.execQpop o s
  | .qstat o => Sys2Proof.Machine.execQstat o s
  | .overflowRefill launch die => Sys2Proof.Machine.execOverflowRefill launch die s
  | .mzero o => Sys2Proof.Machine.execMzero o s
  | .mldb o => Sys2Proof.Machine.execMldb o s
  | .mma o => Sys2Proof.Machine.execMma o s
  | .mmap o => Sys2Proof.Machine.execMmap o s
  | .mminplus o => Sys2Proof.Machine.execMminplus o s
  | .mmaxtimes o => Sys2Proof.Machine.execMmaxtimes o s
  | .morand o => Sys2Proof.Machine.execMorand o s
  | .scacc o => Sys2Proof.Machine.execScacc o s
  | .maccld o => Sys2Proof.Machine.execMaccld o s
  | .maccst o => Sys2Proof.Machine.execMaccst o s
  | .mpsst o => Sys2Proof.Machine.execMpsst o s
  | .mready o => Sys2Proof.Machine.execMready o s
  | .mwait o => Sys2Proof.Machine.execMwait o s
  | .melect o => Sys2Proof.Machine.execMelect o s
  | .matrixRetire partition => Sys2Proof.Machine.execMatrixRetire partition s
  | .trap o => Sys2Proof.Machine.execTrap o s
  | .bkpt o => Sys2Proof.Machine.execBkpt o s
  | .eret o => Sys2Proof.Machine.execEret o s
  | .csrr o => Sys2Proof.Machine.execCsrr o s
  | .csrw o => Sys2Proof.Machine.execCsrw o s
  | .csrx o => Sys2Proof.Machine.execCsrx o s
  | .safe o => Sys2Proof.Machine.execSafe o s
  | .launch o => Sys2Proof.Machine.execLaunch o s
  | .lwait o => Sys2Proof.Machine.execLwait o s
  | .tlbinv o => Sys2Proof.Machine.execTlbinv o s
  | .snap o => Sys2Proof.Machine.execSnap o s
  | .enrd o => Sys2Proof.Machine.execEnrd o s
  | .wclear o => Sys2Proof.Machine.execWclear o s
  | .halt o => Sys2Proof.Machine.execHalt o s
  | .iaddC32 c => Sys2Proof.Machine.execIaddC32 c s
  | .isubC32 c => Sys2Proof.Machine.execIsubC32 c s
  | .andC32 c => Sys2Proof.Machine.execAndC32 c s
  | .orC32 c => Sys2Proof.Machine.execOrC32 c s
  | .xorC32 c => Sys2Proof.Machine.execXorC32 c s
  | .shlC32 c => Sys2Proof.Machine.execShlC32 c s
  | .shrC32 c => Sys2Proof.Machine.execShrC32 c s
  | .sarC32 c => Sys2Proof.Machine.execSarC32 c s
  | .movC32 c => Sys2Proof.Machine.execMovC32 c s
  | .moviC32 c => Sys2Proof.Machine.execMoviC32 c s
  | .faddC32 c => Sys2Proof.Machine.execFaddC32 c s
  | .fmulC32 c => Sys2Proof.Machine.execFmulC32 c s
  | .fminC32 c => Sys2Proof.Machine.execFminC32 c s
  | .fmaxC32 c => Sys2Proof.Machine.execFmaxC32 c s
  | .braC32 c => Sys2Proof.Machine.execBraC32 c s
  | .nopC32 c => Sys2Proof.Machine.execNopC32 c s
  | .yieldC32 c => Sys2Proof.Machine.execYieldC32 c s
  | .pauseC32 c => Sys2Proof.Machine.execPauseC32 c s
  | .waitC32 c => Sys2Proof.Machine.execWaitC32 c s
  | .joinC32 c => Sys2Proof.Machine.execJoinC32 c s
  | .leaveC32 c => Sys2Proof.Machine.execLeaveC32 c s
  | .exitC32 c => Sys2Proof.Machine.execExitC32 c s
  | .retC32 c => Sys2Proof.Machine.execRetC32 c s
  | .globalLoadReply load how => Sys2Proof.Machine.execGlobalLoadReply load how s
  | .homeStorePerform store => Sys2Proof.Machine.execHomeStorePerform store s
  | .leaseExpiry line => Sys2Proof.Machine.execLeaseExpiry line s
  | .hostRead host line => Sys2Proof.Machine.execHostRead host line s
  | .hostWritePermission host address bytes => Sys2Proof.Machine.execHostWritePermission host address bytes s
  | .hostEviction host line => Sys2Proof.Machine.execHostEviction host line s
  | .hostAmo host address size op value => Sys2Proof.Machine.execHostAmo host address size op value s
  | .backInvalidateSnoop line bytes => Sys2Proof.Machine.execBackInvalidateSnoop line bytes s
  | .faultService fault => Sys2Proof.Machine.execFaultService fault s
  | .transitRetry fault => Sys2Proof.Machine.execTransitRetry fault s
  | .fqAnswer value => Sys2Proof.Machine.execFqAnswer value s
  | .fqSizeWrite size value => Sys2Proof.Machine.execFqSizeWrite size value s
  | .machineCheck code partition address named recoverable => Sys2Proof.Machine.execMachineCheck code partition address named recoverable s
  | .linkLoss wilkan link => Sys2Proof.Machine.execLinkLoss wilkan link s
  | .preemptRequest source gangs => Sys2Proof.Machine.execPreemptRequest source gangs s
  | .preemptWatchdog gang => Sys2Proof.Machine.execPreemptWatchdog gang s
  | .saveComplete gang => Sys2Proof.Machine.execSaveComplete gang s
  | .ctxSequencerSave gang => Sys2Proof.Machine.execCtxSequencerSave gang s
  | .restoreStart saved key => Sys2Proof.Machine.execRestoreStart saved key s
  | .blockAdmission die keys => Sys2Proof.Machine.execBlockAdmission die keys s
  | .gangEnd gang => Sys2Proof.Machine.execGangEnd gang s
  | .launchCompletion launch => Sys2Proof.Machine.execLaunchCompletion launch s
  | .energyWindowReset die => Sys2Proof.Machine.execEnergyWindowReset die s
  | .energyPlannerTick die charges idle => Sys2Proof.Machine.execEnergyPlannerTick die charges idle s
  | .weightRefreshStart die => Sys2Proof.Machine.execWeightRefreshStart die s
  | .weightRefreshEnd die => Sys2Proof.Machine.execWeightRefreshEnd die s
  | .heapcolWrite asid value => Sys2Proof.Machine.execHeapcolWrite asid value s
  | .compactionLineCopy asid => Sys2Proof.Machine.execCompactionLineCopy asid s
  | .compactionComplete asid => Sys2Proof.Machine.execCompactionComplete asid s
  | .migrationRequest asid page requesters frames => Sys2Proof.Machine.execMigrationRequest asid page requesters frames s
  | .migrationLineCopy page ok => Sys2Proof.Machine.execMigrationLineCopy page ok s
  | .migrationComplete page => Sys2Proof.Machine.execMigrationComplete page s
  | .migrationHoldExpiry page => Sys2Proof.Machine.execMigrationHoldExpiry page s
  | .codeCompaction value => Sys2Proof.Machine.execCodeCompaction value s
  | .crossingArrival crossing key => Sys2Proof.Machine.execCrossingArrival crossing key s
  | .hostJalrCrossing host thread kind target image fcsr => Sys2Proof.Machine.execHostJalrCrossing host thread kind target image fcsr s
  | .regCmd host thread value => Sys2Proof.Machine.execRegCmd host thread value s
  | .hostLaunch host packet => Sys2Proof.Machine.execHostLaunch host packet s
  | .measureExtend value => Sys2Proof.Machine.execMeasureExtend value s
  | .oplogFree gang lane => Sys2Proof.Machine.execOplogFree gang lane s
  | .leasectlWrite value => Sys2Proof.Machine.execLeasectlWrite value s
  | .funcmodeWrite die value => Sys2Proof.Machine.execFuncmodeWrite die value s
  | .controlRegisterWrite offset value => Sys2Proof.Machine.execControlRegisterWrite offset value s
  | .snapshotTrigger source => Sys2Proof.Machine.execSnapshotTrigger source s
  | .instructionSample partition => Sys2Proof.Machine.execInstructionSample partition s
  | .sampleRecordWrite partition => Sys2Proof.Machine.execSampleRecordWrite partition s
  | .singleStep gang lane => Sys2Proof.Machine.execSingleStep gang lane s
  | .clearingDone partition => Sys2Proof.Machine.execClearingDone partition s
  | .getTdispVersion port tdi => Sys2Proof.Machine.execGetTdispVersion port tdi s
  | .getTdispCapabilities port tdi => Sys2Proof.Machine.execGetTdispCapabilities port tdi s
  | .lockInterfaceRequest port tdi flags offset => Sys2Proof.Machine.execLockInterfaceRequest port tdi flags offset s
  | .getDeviceInterfaceReport port tdi offset length => Sys2Proof.Machine.execGetDeviceInterfaceReport port tdi offset length s
  | .getDeviceInterfaceState port tdi => Sys2Proof.Machine.execGetDeviceInterfaceState port tdi s
  | .startInterfaceRequest port tdi nonce => Sys2Proof.Machine.execStartInterfaceRequest port tdi nonce s
  | .stopInterfaceRequest port tdi => Sys2Proof.Machine.execStopInterfaceRequest port tdi s
  | .unsupportedTdispRequest port tdi code => Sys2Proof.Machine.execUnsupportedTdispRequest port tdi code s
  | .tdispAnswer port => Sys2Proof.Machine.execTdispAnswer port s
  | .tdispEventPost port => Sys2Proof.Machine.execTdispEventPost port s
  | .tdiLock port tdi => Sys2Proof.Machine.execTdiLock port tdi s
  | .tdiStart port tdi => Sys2Proof.Machine.execTdiStart port tdi s
  | .tdiStop port tdi => Sys2Proof.Machine.execTdiStop port tdi s
  | .frozenItemWrite port tdi item address value => Sys2Proof.Machine.execFrozenItemWrite port tdi item address value s
  | .getVersion transport payload => Sys2Proof.Machine.execGetVersion transport payload s
  | .getCapabilities transport payload => Sys2Proof.Machine.execGetCapabilities transport payload s
  | .negotiateAlgorithms transport payload => Sys2Proof.Machine.execNegotiateAlgorithms transport payload s
  | .getDigests transport payload => Sys2Proof.Machine.execGetDigests transport payload s
  | .getCertificate transport payload => Sys2Proof.Machine.execGetCertificate transport payload s
  | .challenge transport payload => Sys2Proof.Machine.execChallenge transport payload s
  | .getMeasurements transport payload => Sys2Proof.Machine.execGetMeasurements transport payload s
  | .keyExchange transport payload => Sys2Proof.Machine.execKeyExchange transport payload s
  | .finish transport payload => Sys2Proof.Machine.execFinish transport payload s
  | .heartbeat transport payload => Sys2Proof.Machine.execHeartbeat transport payload s
  | .keyUpdate transport payload => Sys2Proof.Machine.execKeyUpdate transport payload s
  | .endSession transport payload => Sys2Proof.Machine.execEndSession transport payload s
  | .vendorDefinedRequest transport payload => Sys2Proof.Machine.execVendorDefinedRequest transport payload s
  | .worldExport world destination => Sys2Proof.Machine.execWorldExport world destination s
  | .handoverConfirm world created => Sys2Proof.Machine.execHandoverConfirm world created s
  | .handoverTimeout world => Sys2Proof.Machine.execHandoverTimeout world s
  | .handoverRetry world created => Sys2Proof.Machine.execHandoverRetry world created s
  | .counterRead counter requester => Sys2Proof.Machine.execCounterRead counter requester s
  | .allowListChange world value => Sys2Proof.Machine.execAllowListChange world value s
  | .l2wmapWrite slice way value => Sys2Proof.Machine.execL2wmapWrite slice way value s
  | .resetRelease => Sys2Proof.Machine.execResetRelease s
  | .bootStep ok => Sys2Proof.Machine.execBootStep ok s
  | .synchronisationMarginReached gang lane => Sys2Proof.Machine.execSynchronisationMarginReached gang lane s
  | .reductionAcknowledgement request => Sys2Proof.Machine.execReductionAcknowledgement request s
  | .unsupportedSpdmRequest transport payload => Sys2Proof.Machine.execUnsupportedSpdmRequest transport payload s
  | .debuggerStop gang lane => Sys2Proof.Machine.execDebuggerStop gang lane s
  | .debuggerResume gang lane => Sys2Proof.Machine.execDebuggerResume gang lane s
  | .debuggerStateWrite gang lane what value => Sys2Proof.Machine.execDebuggerStateWrite gang lane what value s
  | .handoverRecordArrival record => Sys2Proof.Machine.execHandoverRecordArrival record s
  | .peerDeviceContribution launch group peer reduction values => Sys2Proof.Machine.execPeerDeviceContribution launch group peer reduction values s

end Sys2Proof.Machine
end

