-- ==== Sys2Proof/Machine/Issue.lean ====
section
/-! DEFINITION. The issue choice of a partition (R141, R142, R331), and what an issue does before the instruction itself. -/

namespace Sys2Proof.Machine

/-- The bundles of a gang, each by its lowest lane. -/
def Gang.leaders (g : Gang) : List Nat :=
  (List.range 32).filter fun k => (g.lane k).cond == .runnable && (g.lane k).bundle.isSome && lowest (g.bundleOf k) == k

/-- While the debugger steps a thread of a gang and step_mode is 0, the other threads of the gang do not issue (R124, R361). -/
def Gang.mayIssue (g : Gang) (k : Nat) : Bool :=
  g.stepMode.toNat != 0 || (g.lane k).stepping != 0 || (List.range 32).all fun j => (g.lane j).stepping == 0

/-- A gang's bundles may issue at all: it is not parked (R342), and its die has not used up its energy (R325). -/
def State.gangIssues (s : State) (g : Gang) : Bool := !g.parked && !s.issueStopped (dieOf g.key)

/-- A bundle is ready: every one of its threads is (R106). -/
def State.bundleReady (s : State) (g : Gang) (k : Nat) : Bool := g.mayIssue k && (lanes (g.bundleOf k)).all (s.ready g.key)

/-- A compute thread waits in QPOP on an empty window (R331). -/
def State.waitsQpop (s : State) (key k : Nat) : Bool :=
  ((s.gangAt key).lane k).cond == .runnable
  && match s.nextInstr key k with
    | .instr (.qpop o) len raw =>
      State.qpopHold { s with cur := { gang := key, lanes := laneMask k, pc := ((s.gangAt key).lane k).pc, len := len, raw := raw } } o k
    | _ => false

/-- A thread has not issued in the last 32 slots granted to its gang (R142, R331). -/
def Gang.overdue (g : Gang) (k : Nat) : Bool := decide ((g.lane k).lastSlot + 32 ≤ g.grants)

/-- The level of a bundle (R331): that of the first row that it meets. DESIGN CHOICE (assumption 87): this holds also where R107 would have a ready thread
of a lower level issue, and for a lowered shadow bundle whose partner waits. -/
def State.level (s : State) (g : Gang) (k : Nat) : Nat :=
  let m := lanes (g.bundleOf k)
  if m.any fun j => (g.lane j).priv then 1
  else if g.shadowOf.any fun c => m.any (s.waitsQpop c) then 2
  else if (m.all fun j => decide (s.clock < (g.lane j).pauseUntil)) && !m.any g.overdue then 4
  else 3

/-- A ready bundle as the choice sees it: what it is compared by, most significant first, and where it is. -/
structure Cand where
  rank : List Nat
  key : Nat
  lane : Nat
  deriving DecidableEq, Repr

/-- The ready bundles of a gang. A bundle that gave up its next slot comes after every other (R141); then the level, the clock of the gang's last
slot and its slot, the longest wait, the lowest lane (R331). -/
def State.candsOf (s : State) (g : Gang) : List Cand :=
  if !s.gangIssues g then []
  else (g.leaders.filter (s.bundleReady g)).map fun k =>
    let m := lanes (g.bundleOf k)
    { rank := [bit (m.any fun j => (g.lane j).yields), s.level g k, g.lastGrant, g.key,
        m.foldl (fun n j => min n (g.lane j).lastIssue) (g.lane k).lastIssue, k]
      key := g.key
      lane := k }

/-- One list of numbers comes before another. -/
def lexBefore : List Nat → List Nat → Bool
  | a :: as, b :: bs => decide (a < b) || (a == b && lexBefore as bs)
  | _, _ => false

/-- The first of a list of candidates. -/
def firstCand : List Cand → Option Cand
  | [] => none
  | c :: cs => match firstCand cs with | some d => some (if lexBefore d.rank c.rank then d else c) | none => some c

/-- The bundle that a partition issues (R331). -/
def State.choiceIn (s : State) (part : Nat) : Option Cand :=
  firstCand ((s.gangs.filter fun g => partOf g.key == part).flatMap s.candsOf)

/-- The next issue of the package. The order between partitions the manual leaves open: the partition at the head of turn, if it has a ready
bundle, else that of the gang granted least recently among those that have one. -/
def State.choice (s : State) : Option Cand :=
  let inTurn := match s.turn with | p :: _ => s.choiceIn p | [] => none
  match inTurn with
  | some c => some c
  | none =>
    match firstCand (((s.gangs.flatMap s.candsOf)).map fun c => { c with rank := c.rank.drop 2 }) with
    | some c => s.choiceIn (partOf c.key)
    | none => none

/-- The time of a write that the reader of a token is ordered after (R217): the g registers that an instruction reads. -/
def Gang.tokenTime (g : Gang) : List Dest → Nat
  | [] => 0
  | .g n :: rs => max (SMap.get 0 g.tokenEnd n) (g.tokenTime rs)
  | _ :: rs => g.tokenTime rs

/-- A slot is granted to a bundle of a gang: what the choice remembers of it, and the debugger's step begins (R124, R331). -/
def Gang.granted (g : Gang) (m : Mask) (clock : Nat) : Gang :=
  { g.onLanes m fun _ t => { t with lastSlot := g.grants + 1, stepping := if t.stepping = 1 then 2 else t.stepping } with
    lastGrant := clock
    grants := g.grants + 1 }

/-- A bundle that gave up a slot has been passed over once (R141). -/
def Gang.passed (g : Gang) : Gang := g.onLanes (BitVec.allOnes 32) fun _ t => { t with yields := false }

/-- A bundle issues: the issue in progress, the slot that it takes; what its core's threads have stored so far happens before it (R196, R201). -/
def State.begin (s : State) (c : Issue) : State :=
  let part := partOf c.gang
  { s with
    cur := { c with name := let t := (s.gangAt c.gang).lane (lowest c.lanes); (t.launch, t.block, t.tid), fetched := s.gtime }
    issues := SMap.set 0 s.issues part (SMap.get 0 s.issues part + 1)
    gangs := s.gangs.map fun g =>
      let g := if partOf g.key = part then g.passed else g
      if g.key = c.gang then (g.onLanes c.lanes fun _ t => t.sync s.clock (s.coreHorizon (coreOf c.gang))).granted c.lanes s.clock else g }

/-- The write completion times of the tokens that an issuing instruction reads in a lane, by its fields or as MOVG chooses (R166, R217). -/
def State.tokenTime (s : State) (op : Nat) (o : Ops) (k : Nat) : Nat := s.cg.tokenTime (readsOf op o ++ if op = 0x26 then [.g (s.movgNum o k)] else [])

/-- The tokens that an issuing instruction reads order its threads whose guard is true (R217). -/
def State.tokens (s : State) (i : Instr) : State :=
  match coreForm i with
  | none => s
  | some (op, o) =>
    s.onLanes s.cur.gang (s.guarded o.guard) fun k t => let w := s.tokenTime op o k; if w = 0 then t else t.horizon w

/-- The bytes of memory that an issuing instruction requests in a lane (R391): of an access its width, of a copy its length, of a tile its size, of a group
reduction its buffer (assumption 44). -/
def State.askBytes (s : State) (op : Nat) (o : Ops) (k : Nat) : Nat :=
  if isGlobal op o then accWidth o.ty
  else if 0x160 ≤ op ∧ op ≤ 0x164 then s.copyBytes op o k
  else if (op = 0x188 ∨ op = 0x189 ∨ op = 0x18A) ∧ o.opmod.toNat % 2 = 0 then 64 * tileBytes o.ty
  else if op = 0x14C then (gredShape o.c.toNat (s.cg.getG o.c.toNat) (s.cg.getG (o.c.toNat + 1))).count
  else 0

/-- Add bytes to what a block has requested on its die. -/
def addAsked (die launch block n : Nat) : List (Nat × Nat × Nat × Nat) → List (Nat × Nat × Nat × Nat)
  | [] => [(die, launch, block, n)]
  | e :: es => if e.1 = die ∧ e.2.1 = launch ∧ e.2.2.1 = block then (die, launch, block, e.2.2.2 + n) :: es else e :: addAsked die launch block n es

/-- The bytes that an issuing instruction requests are counted for its block (R391): of a gang operation once. -/
def State.asks (s : State) (i : Instr) : State :=
  match coreForm i with
  | none => s
  | some (op, o) =>
    let ls := lanes (s.guarded o.guard)
    let n := ((if isGlobal op o then ls else ls.take 1).map (s.askBytes op o)).foldl (· + ·) 0
    if n = 0 then s else { s with requested := addAsked (dieOf s.cur.gang) s.cg.launch s.cg.block n s.requested }

end Sys2Proof.Machine
end

