-- ==== Sys2Proof/Machine/Work.lean ====
section
/-! DEFINITION. The work of the package's engines in the order in which the model takes it when the agenda names no step: the manual fixes no order
between engines, and the agenda can name any. -/

namespace Sys2Proof.Machine

/-- The work that an engine has: the steps that the package takes of its own accord. Each is the constructor of Instr of the same name, but for the last five, which
are a host core's, and a cache's. -/
inductive Work where
  | homeStorePerform (store : Nat)
  | globalLoadReply (load : Nat) (how : Served)
  | atomicApply (request : Nat)
  | atomicReply (request : Nat)
  | reductionAcknowledgement (request : Nat)
  | redseqApply (sequence : Nat)
  | leaseExpiry (line : Nat)
  | cpymChunkPosted (copy chunk : Nat)
  | copyCompletion (copy : Nat)
  | matrixRetire (partition : Nat)
  | gredChunkDone (round : Nat)
  | overflowRefill (launch die : Nat)
  | faultService (fault : Nat)
  | transitRetry (fault : Nat)
  | migrationLineCopy (page : Nat) (ok : Bool)
  | migrationComplete (page : Nat)
  | migrationHoldExpiry (page : Nat)
  | compactionComplete (asid : Nat)
  | compactionLineCopy (asid : Nat)
  | codeCompaction (value : Word)
  | gangEnd (gang : Nat)
  | launchCompletion (launch : Nat)
  | saveComplete (gang : Nat)
  | ctxSequencerSave (gang : Nat)
  | clearingDone (partition : Nat)
  | blockAdmission (die : Nat) (keys : List Nat)
  | restoreStart (saved key : Nat)
  | crossingArrival (crossing key : Nat)
  | preemptWatchdog (gang : Nat)
  | tdispAnswer (port : Nat)
  | tdispEventPost (port : Nat)
  | sampleRecordWrite (partition : Nat)
  | instructionSample (partition : Nat)
  | energyWindowReset (die : Nat)
  | energyPlannerTick (die : Nat) (charges : List (Nat × Nat)) (idle : Nat × Nat)
  | weightRefreshEnd (die : Nat)
  | weightRefreshStart (die : Nat)
  | handoverTimeout (world : Nat)
  | bootStep (ok : Bool)
  | resetRelease
  | synchronisationMarginReached (gang lane : Nat)
  | singleStep (gang lane : Nat)
  | preemptRequest (die : Nat)
  /-- an instruction of a host thread, a load of it that is served, a store of it that is performed, by their places in their lists -/
  | hostInstruction (thread : Nat)
  | hostLoadServed (thread load : Nat)
  | hostStorePerform (thread store : Nat)
  /-- an interrupt or signal is aimed at a host thread -/
  | hostSignal (thread : Nat)
  /-- a line in plaintext leaves its way of an L2 slice -/
  | lineLeaves (line : Nat)
  deriving DecidableEq, Repr

/-- A piece of work is the step of its name. -/
def Work.run (w : Work) (s : State) : Host.Outcome State Fault Refusal :=
  match w with
  | .homeStorePerform store => execHomeStorePerform store s
  | .globalLoadReply load how => execGlobalLoadReply load how s
  | .atomicApply request => execAtomicApply request s
  | .atomicReply request => execAtomicReply request s
  | .reductionAcknowledgement request => execReductionAcknowledgement request s
  | .redseqApply sequence => execRedseqApply sequence s
  | .leaseExpiry line => execLeaseExpiry line s
  | .cpymChunkPosted copy chunk => execCpymChunkPosted copy (chunk, .whole) s
  | .copyCompletion copy => execCopyCompletion copy s
  | .matrixRetire partition => execMatrixRetire (partition, .whole) s
  | .gredChunkDone round => execGredChunkDone round s
  | .overflowRefill launch die => execOverflowRefill launch die s
  | .faultService fault => execFaultService fault s
  | .transitRetry fault => execTransitRetry fault s
  | .migrationLineCopy page ok => execMigrationLineCopy page ok s
  | .migrationComplete page => execMigrationComplete page s
  | .migrationHoldExpiry page => execMigrationHoldExpiry page s
  | .compactionComplete asid => execCompactionComplete asid s
  | .compactionLineCopy asid => execCompactionLineCopy asid s
  | .codeCompaction value => execCodeCompaction value s
  | .gangEnd gang => execGangEnd gang s
  | .launchCompletion launch => execLaunchCompletion launch s
  | .saveComplete gang => execSaveComplete gang s
  | .ctxSequencerSave gang => execCtxSequencerSave gang s
  | .clearingDone partition => execClearingDone partition s
  | .blockAdmission die keys => execBlockAdmission die keys s
  | .restoreStart saved key => execRestoreStart saved key s
  | .crossingArrival crossing key => execCrossingArrival crossing key s
  | .preemptWatchdog gang => execPreemptWatchdog gang s
  | .tdispAnswer port => execTdispAnswer port s
  | .tdispEventPost port => execTdispEventPost port s
  | .sampleRecordWrite partition => execSampleRecordWrite partition s
  | .instructionSample partition => execInstructionSample partition s
  | .energyWindowReset die => execEnergyWindowReset die s
  | .energyPlannerTick die charges idle => execEnergyPlannerTick die charges idle s
  | .weightRefreshEnd die => execWeightRefreshEnd die s
  | .weightRefreshStart die => execWeightRefreshStart die s
  | .handoverTimeout world => execHandoverTimeout world s
  | .bootStep ok => execBootStep ok s
  | .resetRelease => execResetRelease s
  | .synchronisationMarginReached gang lane => execSynchronisationMarginReached gang lane s
  | .singleStep gang lane => execSingleStep gang lane s
  | .preemptRequest die => execPreemptRequest .scheduler [3072 * die] s
  | .hostInstruction thread => .next (s.hostStep thread)
  | .hostLoadServed thread load => .next (s.hostServed thread load)
  | .hostStorePerform thread store => .next (s.hostPerformed thread store)
  | .hostSignal thread => .next (s.hostSignal thread)
  | .lineLeaves line => .next (s.lineLeaves line)

/-- The numbers of the entries of a list. -/
def places {α : Type} (xs : List α) : List Nat := List.range xs.length

/-- Free slots of a partition, ascending. -/
def State.freeSlots (s : State) (part : Nat) : List Nat :=
  ((List.range Config.slotsPerPart).map (8 * part + ·)).filter fun k => !s.resident k && !s.keptSlot k

/-- A placement of gangs over a list of partitions, lowest first: as many in each as fit (R322). -/
def State.placeIn (s : State) (n : Need) : Nat → List Nat → List Nat
  | _, [] => []
  | 0, _ => []
  | left, p :: ps =>
    let k := if s.scratchFits n (p / 8) then min left (s.partRoom n p) else 0
    (s.freeSlots p).take (k * n.slots) ++ s.placeIn n (left - k) ps

/-- A spread placement: the first core of a cluster and the first partition where the block fits (R411). -/
def State.placeSpread (s : State) (n : Need) (die : Nat) : List Nat :=
  match ((List.range 12).flatMap fun q => (List.range 8).map fun p => (4 * q, p)).find? fun x => s.spreadFits n die x.1 x.2 with
  | some (c, p) =>
    (List.range n.gangs).flatMap fun g => (s.freeSlots (8 * (die * Config.coresPerDie + c + g) + p)).take n.slots
  | none => []

/-- The scheduler's choice of slots for what a die admits next (R322, R411: where it leaves them open, the lowest). -/
def State.placement (s : State) (die : Nat) : List Nat :=
  match s.nextAdmission die with
  | none => []
  | some (_, _, _, n) => if n.spread then s.placeSpread n die else s.placeIn n n.gangs ((coresOf die).flatMap partsOf)

/-- The slot for a crossing thread (R296, R374): the lowest that fits. -/
def State.crossSlot (s : State) (c : Crossing) : Nat :=
  if c.toDevice then ((List.range Config.slots).find? fun k => s.slotFits k).getD 0 else 0

/-- The slot for a saved gang (R312, R313): the one that is kept for it, or the lowest that fits. -/
def State.saveSlot (s : State) (v : Saved) : Nat :=
  match v.slot, s.launchOn v.launch v.die with
  | some k, _ => k
  | none, some l => (((s.savedPlan l v.block v.die).bind fun p => p.find? fun e => e.1 == v).map (·.2)).getD 0
  | none, none => 0

/-- A die's energy window ends, or 10 µs have passed for its planner (R324, R325): what its gangs and the rest of it drew is a free value. -/
def State.energyWork (s : State) (d : Nat) : List Work :=
  let x := s.die d
  if !s.released then []
  else
    (if x.nextTick ≤ s.gtime then
      [.energyPlannerTick d ((s.gangs.filter fun g => dieOf g.key == d).map fun g => (g.key, (s.free (100 + g.key)).toNat)) ((s.free d).toNat, (s.free (4 + d)).toNat)]
    else if 1000000 * (x.enWindow + 1) ≤ s.gtime then [.energyWindowReset d] else [])

/-- A refresh window of a die opens, or ends (R96). -/
def State.refreshWork (s : State) (d : Nat) : List Work :=
  let x := s.die d
  if !x.refreshValid then []
  else if x.inWindow then (if x.windowEnd ≤ s.gtime then [.weightRefreshEnd d] else [])
  else if x.nextStart ≤ s.gtime then [.weightRefreshStart d] else []

/-- The steps of boot (R393): the next one. Whether a signature verifies is the image's own. -/
def State.bootWork (s : State) : List Work := if s.released then [.bootStep (s.freeBool 0)] else [.resetRelease]

/-- The memory system's pending steps: stores, loads, atomics, reductions, sequences, leases. -/
def State.memoryWork (s : State) : List Work :=
  (places s.stores).map .homeStorePerform
  ++ (places s.loads).map (.globalLoadReply · .home)
  ++ (places s.atoms).map .atomicApply ++ (places s.atoms).map .atomicReply ++ (places s.acks).map .reductionAcknowledgement
  ++ (places s.redseqs).map .redseqApply
  ++ (s.leases.filter fun l => decide (l.expiry ≤ s.gtime)).map fun l => .leaseExpiry l.line

/-- Copies, arrays, group reductions, overflow rings. -/
def State.asyncWork (s : State) : List Work :=
  (places s.copies).flatMap (fun i => [.cpymChunkPosted i 0, .copyCompletion i])
  ++ s.arrays.map (fun a => .matrixRetire a.1) ++ (places s.greds).map .gredChunkDone
  ++ s.rings.map fun r => .overflowRefill r.launch r.die

/-- Faults, migrations, compaction. -/
def State.serviceWork (s : State) : List Work :=
  (places s.faults).flatMap (fun i => [.faultService i, .transitRetry i])
  ++ (places s.migrations).flatMap (fun i => [.migrationLineCopy i true, .migrationComplete i, .migrationHoldExpiry i])
  ++ s.cycles.flatMap (fun c => [.compactionComplete c.asid, .compactionLineCopy c.asid])
  ++ (if s.hub.ccRunning then [.codeCompaction 0] else [])

/-- The scheduler: ends, saves, clearings, admissions, restores, crossings, watchdogs. -/
def State.schedulerWork (s : State) : List Work :=
  s.gangs.map (fun g => .gangEnd g.key)
  ++ s.launches.map (fun l => .launchCompletion l.num)
  ++ s.gangs.flatMap (fun g => [.saveComplete g.key, .ctxSequencerSave g.key])
  ++ s.clearing.map (fun c => .clearingDone c.partition)
  ++ (List.range Config.dies).map (fun d => .blockAdmission d (s.placement d))
  ++ (places s.saved).map (fun i => .restoreStart i (match s.saved[i]? with | some v => s.saveSlot v | none => 0))
  ++ (places s.crossings).map (fun i => .crossingArrival i (match s.crossings[i]? with | some c => s.crossSlot c | none => 0))
  ++ (List.range Config.dies).map .preemptRequest
  ++ s.gangs.flatMap fun g => match g.request with | some w => (if w ≤ s.gtime then [.preemptWatchdog g.key] else []) | none => []

/-- The hub and the die's clocks: TDISP answers and events, samples, energy and refresh windows, handover deadlines. -/
def State.hubWork (s : State) : List Work :=
  (List.range Config.ports).flatMap (fun p =>
    (if (s.ctrl p).posted then [.tdispAnswer p] else if (s.ctrl p).events.isEmpty then [] else [.tdispEventPost p]))
  ++ s.samples.map (fun x => .sampleRecordWrite x.partition)
  ++ (List.range Config.dies).flatMap (fun d => s.energyWork d ++ s.refreshWork d)
  ++ s.sec.handovers.flatMap fun h => if h.2.2.2.1 ≠ 0 ∧ h.2.2.2.1 ≤ s.gtime then [.handoverTimeout h.1] else []

/-- The lines of protected worlds that stand in plaintext (R376): when one leaves its way is left open. -/
def State.sealWork (s : State) : List Work :=
  s.lineWorld.filterMap fun e =>
    if e.2 ≠ 0 ∧ (SMap.get none s.seals e.1).isNone ∧ s.freeBool (60800 + e.1) then some (.lineLeaves e.1) else none

/-- Time that a thread waits for: its margin (R157). -/
def State.marginWork (s : State) : List Work :=
  s.gangs.flatMap fun g => (lanes g.live).filterMap fun k =>
    if s.gtime < momentOf s.gtime (g.lane k).hzn + s.marginNs.toNat then some (.synchronisationMarginReached g.key k) else none

/-- The host cores: of several steps that they could take, which comes first is left open, and so is when an interrupt or signal comes. -/
def State.hostWork (s : State) : List Work :=
  (((places s.hostThreads).flatMap fun i =>
    match s.hostThreads[i]? with
    | none => []
    | some h =>
      (places h.loads).map (.hostLoadServed i) ++ (places h.stores).map (.hostStorePerform i)
      ++ (if s.hostReady h then [.hostInstruction i] else [])
      ++ if s.hostsUp && s.freeBool (60700 + i) then [.hostSignal i] else [])).rotateLeft (s.clock / 12)

/-- The classes of work of the engines. -/
def State.classes (s : State) : List (List Work) :=
  [s.memoryWork, s.asyncWork, s.serviceWork, s.schedulerWork, s.hubWork ++ s.bootWork ++ s.marginWork ++ s.sealWork, s.hostWork]

/-- Everything that an engine could do next, in the model's order: no class is always the first, so that none is left waiting for ever. -/
def State.candidates (s : State) : List Work := (s.classes.rotateLeft (s.clock / 2)).flatten

/-- A step of an engine would do something now. -/
def State.enabled (s : State) (w : Work) : Bool :=
  match w.run s with
  | .next t => t != s
  | _ => false

/-- The next work of an engine, if there is any. -/
def State.work (s : State) : Option Work := s.candidates.find? s.enabled

/-- What happens before anything else issues: a thread whose stepped instruction has issued ends its step (R124), and a partition whose sampling interval
is at its longest samples what issued last (R387). -/
def State.stepped (s : State) : Option Work :=
  match s.gangs.findSome? fun g => ((List.range 32).find? fun k => (g.lane k).stepping == 2 && (g.lane k).wait == .no).map fun k => .singleStep g.key k with
  | some w => some w
  | none => if s.cur.len ≠ 0 ∧ s.samplesNow (partOf s.cur.gang) then some (.instructionSample (partOf s.cur.gang)) else none

end Sys2Proof.Machine
end

