-- ==== Sys2Proof/Machine/Step.lean ====
section
/-! DEFINITION. One step of the package: a step that the agenda names, an issue of the bundle that the choice gives, or work of an engine. -/

namespace Sys2Proof.Machine

/-- A clock passes: its number, some time (assumption 3), the regrouping at every fourth clock (R104), fresh free values. -/
def State.tick (s : State) : State :=
  let now := Config.elapsed s.clock + s.gtime
  State.clockTo { s with gtime := now, freeCtr := s.freeCtr + 1, placedAt := s.placedAt.filter fun r => r.1 == now } (s.clock + 1)

/-- A step of a unit, named by the agenda. -/
def eventStep (i : Instr) (s : State) : Host.Outcome State Fault Refusal :=
  if i.parts = .event ∧ i.wf then exec i s else .fault .noSuchUnit

/-- A ready bundle fetches and issues its instruction, or takes the trap of its fetch (R44, R106). -/
def State.issueBundle (s : State) (key k : Nat) : Host.Outcome State Fault Refusal :=
  let t := (s.gangAt key).lane k
  let m := s.fetchLanes key ((s.gangAt key).bundleOf k) t.pc
  match s.fetch key m t.pc ((s.gangAt key).lane (lowest m)).priv with
  | (s1, .trap r) => .next (State.trap (s1.begin { gang := key, lanes := m, pc := t.pc, len := 0, raw := 0 }) r)
  | (s1, .instr i len raw) => exec i (((s1.begin { gang := key, lanes := m, pc := t.pc, len := len, raw := raw }).tokens i).asks i)

/-- The head of turn is used up. -/
def State.turned (s : State) : State := { s with turn := s.turn.drop 1 }

/-- Work of an engine, or a clock in which nothing happens. -/
def State.engineStep (s : State) : Host.Outcome State Fault Refusal :=
  match s.work with
  | some w => w.run s
  | none => .next s

/-- An engine goes first: turn names no partition, or, where turn is empty, at every second clock. -/
def State.engineTurn (s : State) : Bool := match s.turn with | p :: _ => decide (Config.partitions ≤ p) | [] => s.clock % 2 == 0

/-- The next ready bundle issues; where there is none, an engine works. -/
def State.issueStep (s : State) : Host.Outcome State Fault Refusal :=
  match s.choice with
  | some c => s.turned.issueBundle c.key c.lane
  | none => s.turned.engineStep

/-- What happens in a clock that the agenda leaves free. Issue and the engines alternate where both have work. -/
def State.ownStep (s : State) : Host.Outcome State Fault Refusal :=
  match s.stepped with
  | some w => w.run s
  | none =>
    if s.engineTurn then
      match s.work with
      | some w => w.run s.turned
      | none => s.issueStep
    else s.issueStep

/-- ONE STEP. -/
def step (s : State) : Host.Outcome State Fault Refusal :=
  match s.agenda with
  | i :: rest => eventStep i (State.tick { s with agenda := rest })
  | [] => s.tick.ownStep

/-- The virtual and physical address of the program that withFetchWord places, and the page of its table. -/
def progVa : Nat := 2 ^ 39
def progRoot : Nat := 4096

/-- An entry that maps the second 512 GiB of user space onto itself: present, readable, writable, executable as Flidan, user, accessed, dirty (R263). -/
def progPte : Word := word (0xDF + 2 ^ 27 * 2 ^ 10 + 2 ^ 54)

/-- The packet of the launch that withFetchWord stands for: one block of one thread with 128 d registers. -/
def progPacket : Packet :=
  { entry := word progVa, blocks := 1, blockdim := 1, gangregs := 16, shadowregs := 0, scratch := 0, flags := 0x100, constAddr := 0,
    groupTable := 0, xlate := word (9 * 2 ^ 60 + 2 ^ 44 + progRoot / 4096), sliceEntry := 0, trapHandler := 0, saveRoutine := 0,
    restoreRoutine := 0, trapFrames := 0, ring := 0, quota := 0, estimate := 0, phaseRing := 0, completion := 0, phaseRingSize := 0,
    zero := 0 }

/-- The launch. -/
def progLaunch : Launch :=
  { num := 1, packet := progPacket, world := 0, groups := [], ended := 0, running := [(0, 0)], away := 0, status := 0, charged := [],
    areas := [], gone := [], hzn := 0, place := 0, unread := [], reads := [], completing := false }

/-- Its gang, in the first slot of the package, its one thread in a bundle. -/
def progGang : Gang :=
  Gang.start 0 1 0 0 128 progPacket.xlate 0
    ({ Thread.start (word progVa) 1 0 0 .runnable with bundle := some 0 } :: List.replicate 31 Thread.absent) 0

/-- The state with a program of one instruction: what boot and a launch of it by system software leave (assumption 20). -/
def State.withFetchWord (s : State) (nbits w : Nat) : State :=
  let s1 : State := { s with
    agenda := [], turn := [0], released := true, bootStep := 9, bootFailed := false, gtime := s.gtime + 1000
    gangs := [progGang], launches := [progLaunch], tlb := [], icache := []
    hub := { s.hub with nextLaunch := 2 } }
  (s1.poke (progRoot + 8) (leBytes 8 progPte.toNat)).poke progVa (tableBytes nbits w)

end Sys2Proof.Machine
end

