-- ==== Sys2Proof/Safety.lean ====
section
/-! DEFINITION. What counts as a safe state (the relations between fields of State that every step keeps), and the words in which
claims say what an instruction does: who issues, who goes on, what stays as it was. -/

namespace Sys2Proof.Machine

/-- Memory is in its canonical form, so that equal memories are equal data. -/
def State.memoryCanonical (s : State) : Prop := Memory.wf s.mem = true

/-- A thread's register tables are in canonical form. -/
structure Thread.Canonical (t : Thread) : Prop where
  d : SMap.wf 0 t.d = true
  h : SMap.wf 0 t.h = true
  windows : SMap.wf [] t.windows = true

/-- A gang has its 32 lanes, and its register tables are in canonical form. -/
structure Gang.Canonical (g : Gang) : Prop where
  whole : g.threads.length = 32
  regs : SMap.wf 0 g.g = true
  m : SMap.wf 0 g.m = true
  arrive : SMap.wf 0 g.arrive = true
  threads : ∀ t ∈ g.threads, t.Canonical

/-- Every resident gang is so. -/
def State.gangsCanonical (s : State) : Prop := ∀ g ∈ s.gangs, g.Canonical

/-- A scratch allocation's tables are in canonical form. -/
structure Alloc.Canonical (a : Alloc) : Prop where
  bytes : SMap.wf none a.bytes = true
  valid : SMap.wf false a.valid = true
  poison : SMap.wf false a.poison = true
  full : SMap.wf false a.full = true
  bars : SMap.wf (Bar.start a.threads) a.bars = true

/-- Every scratch allocation is so. -/
def State.scratchCanonical (s : State) : Prop := ∀ a ∈ s.allocs, a.Canonical

/-- The issue in progress is of a resident gang in canonical form: in a state whose gangs are so, every issue that step makes begins so. -/
structure State.Issuing (s : State) : Prop where
  resident : s.resident s.cur.gang = true
  canonical : s.cg.Canonical

/-- The tables of memory's lines and words are in canonical form. -/
structure State.TablesCanonical (s : State) : Prop where
  owned : SMap.wf 0 s.owned = true
  hostLines : SMap.wf none s.hostLines = true
  poison : SMap.wf false s.poisonLines = true
  worlds : SMap.wf 0 s.lineWorld = true
  seals : SMap.wf none s.seals = true

/-- The tables of the host cores and of their threads are in canonical form. -/
structure State.HostsCanonical (s : State) : Prop where
  cores : SMap.wf HostCore.reset s.hostCores = true
  guests : SMap.wf 0 s.guests = true
  images : ∀ h ∈ s.hostThreads, SMap.wf 0 h.image = true

/-- THE INVARIANT OF THE PACKAGE: every sparse table is in its one canonical form, memory first of all, every gang has its 32 lanes, and no two resident
gangs share a slot. -/
structure State.Inv (s : State) : Prop where
  memory : s.memoryCanonical
  gangs : s.gangsCanonical
  slots : (s.gangs.map fun g => g.key).Nodup
  scratch : s.scratchCanonical
  tables : s.TablesCanonical
  arrays : SMap.wf Array8.reset s.arrays = true ∧ ∀ p, SMap.wf 0 (s.array p).tiles = true ∧ SMap.wf 0 (s.array p).latch = true
  dies : SMap.wf Die.reset s.dies = true ∧ ∀ d, SMap.wf [] (s.die d).blocks = true ∧ SMap.wf [] (s.die d).phases = true ∧ SMap.wf 0 (s.die d).weight = true ∧
    SMap.wf false (s.die d).weightPoison = true
  controllers : SMap.wf Ctrl.reset s.ctrls = true ∧ ∀ p, SMap.wf Tdi.reset (s.ctrl p).tdis = true
  batches : SMap.wf none s.cbs = true
  buffers : ∀ q ∈ s.redseqs, SMap.wf none q.held = true
  crossings : ∀ c ∈ s.crossings, SMap.wf 0 c.image = true
  hosts : s.HostsCanonical
  rows : SMap.wf 0 s.dirtyRows = true
  slotsMeasured : SMap.wf 0 s.sec.ms = true
  worlds : SMap.wf 0 s.worlds = true

/-! ### What stays as it was -/

/-- Only the gang of the issue changes: every other field of the state, every other gang and every byte of memory is as it was. -/
structure State.OnlyGang (s t : State) : Prop where
  rest : t = { s with gangs := t.gangs }
  others : ∀ key, key ≠ s.cur.gang → t.gangAt key = s.gangAt key
  memory : ∀ pa, t.peek pa = s.peek pa

/-- Only threads of the issuing bundle change: every other field of the gang and every lane outside the bundle is as it was too. -/
structure State.OnlyBundle (s t : State) : Prop extends s.OnlyGang t where
  gang : t.cg = { s.cg with threads := t.cg.threads }
  lanes : ∀ k, s.cur.lanes.getLsbD k = false → t.cl k = s.cl k

/-- A thread goes on to the next instruction (R26, R106): its pc passes the instruction, its stall count begins, and of the fields that no
instruction writes by itself only the clock of the issue, the yield and the watchpoint's pass change with it. -/
structure Thread.WentOn (s : State) (o : Ops) (t u : Thread) : Prop where
  pc : u.pc = t.pc + word s.cur.len
  ready : u.readyAt = s.clock + 1 + o.stall.toNat
  issued : u.lastIssue = s.clock
  yields : u.yields = o.yld
  watch : u.skipWatch = false

/-- Everything of a thread is as it was, but what an issue always writes, its d registers and predicates with what is tracked of them, and
its sticky flags. -/
def Thread.RegistersOnly (t u : Thread) : Prop :=
  u = { t with
    pc := u.pc, readyAt := u.readyAt, lastIssue := u.lastIssue, yields := u.yields, skipWatch := u.skipWatch
    d := u.d, dValid := u.dValid, p := u.p, tracked := u.tracked, fflags := u.fflags, dyReserved := u.dyReserved }

/-- An instruction's whole effect is on d registers, predicates and sticky flags of its own bundle, whose every thread goes on: in lane k
register n is written where wd says so and holds vd, predicate n where wp says so and holds vp, the flags fl are raised. -/
structure State.WroteLanes (s t : State) (o : Ops) (wd : Nat → Nat → Bool) (vd : Nat → Nat → Word) (wp vp : Nat → Nat → Bool)
    (fl : Nat → BitVec 5) (dy : Nat → Bool) : Prop extends s.OnlyBundle t where
  on : ∀ k, s.cur.lanes.getLsbD k = true → Thread.WentOn s o (s.cl k) (t.cl k)
  only : ∀ k, s.cur.lanes.getLsbD k = true → (s.cl k).RegistersOnly (t.cl k)
  d : ∀ k n, s.cur.lanes.getLsbD k = true → (t.cl k).getD n = if wd k n then vd k n else (s.cl k).getD n
  valid : ∀ k n, s.cur.lanes.getLsbD k = true → n < 128 → (t.cl k).dValid.getLsbD n = (wd k n || (s.cl k).dValid.getLsbD n)
  p : ∀ k n, s.cur.lanes.getLsbD k = true → (t.cl k).getP n = if wp k n then vp k n else (s.cl k).getP n
  flags : ∀ k, s.cur.lanes.getLsbD k = true → (t.cl k).fflags = (s.cl k).fflags ||| fl k
  reserved : ∀ k, s.cur.lanes.getLsbD k = true → (t.cl k).dyReserved = ((s.cl k).dyReserved || dy k)

/-- No register of a kind. -/
def noReg : Nat → Nat → Bool := fun _ _ => false

/-- The d register of dst is written in the guarded lanes; d0 takes no write (R22). -/
def dstOf (o : Ops) (L : Mask) : Nat → Nat → Bool := fun k n => L.getLsbD k && n == o.dst.toNat && n != 0

/-- A predicate is written in the lanes of a mask; p7 takes no write (R22). -/
def predOf (L : Mask) (p : Nat) : Nat → Nat → Bool := fun k n => L.getLsbD k && n == p && decide (n < 7)

/-- A result in a g register, written once, on which the guarded lanes agree (R23), with predicates as above, and nothing else but the flags. It takes
the place of every earlier one that is still on its way to the register, from whatever bundle (R26). -/
structure State.WroteG (s t : State) (o : Ops) (L : Mask) (val : Word) (wp vp : Nat → Nat → Bool) (fl : Nat → BitVec 5)
    (dy : Nat → Bool) : Prop extends s.OnlyGang t where
  gang : t.cg = { s.cg with threads := t.cg.threads, g := t.cg.g, gValid := t.cg.gValid, gFailed := t.cg.gFailed, tokenEnd := t.cg.tokenEnd }
  lanes : ∀ k, s.cur.lanes.getLsbD k = false → t.cl k = if L = 0 then s.cl k else (s.cl k).forget (.g o.dst.toNat)
  on : ∀ k, s.cur.lanes.getLsbD k = true → Thread.WentOn s o (s.cl k) (t.cl k)
  only : ∀ k, s.cur.lanes.getLsbD k = true → (s.cl k).RegistersOnly (t.cl k)
  same : ∀ k, s.cur.lanes.getLsbD k = true → (t.cl k).d = (s.cl k).d ∧ (t.cl k).dValid = (s.cl k).dValid
  p : ∀ k n, s.cur.lanes.getLsbD k = true → (t.cl k).getP n = if wp k n then vp k n else (s.cl k).getP n
  g : ∀ n, t.cg.getG n = if n = o.dst.toNat ∧ n ≠ 0 ∧ L ≠ 0 then val else s.cg.getG n
  flags : ∀ k, s.cur.lanes.getLsbD k = true → (t.cl k).fflags = (s.cl k).fflags ||| fl k
  reserved : ∀ k, s.cur.lanes.getLsbD k = true → (t.cl k).dyReserved = ((s.cl k).dyReserved || dy k)

/-- What the destination register of an instruction held before it, in a lane. -/
def State.dstBefore (s : State) (o : Ops) (k : Nat) : Word := if o.clsD then s.cg.getG o.dst.toNat else (s.cl k).getD o.dst.toNat

/-- An instruction delivers val k in each guarded lane k to its destination (R22, R23): to the d register of each lane; or once to a g register,
when the guarded lanes agree; and when they do not, the lanes that differ from the lowest trap. It writes predicates as wp and vp say, and
nothing else but sticky flags. -/
structure State.Delivers (s : State) (out : Host.Outcome State Fault Refusal) (o : Ops) (L : Mask) (val : Nat → Word)
    (wp vp : Nat → Nat → Bool) (fl : Nat → BitVec 5) (dy : Nat → Bool) : Prop where
  each : o.clsD = false → ∃ t, out = .next t ∧ s.WroteLanes t o (dstOf o L) (fun k _ => val k) wp vp fl dy
  once : o.clsD = true → (∀ k, L.getLsbD k = true → val k = val (lowest L)) →
    ∃ t, out = .next t ∧ s.WroteG t o L (val (lowest L)) wp vp fl dy
  differ : o.clsD = true → (∃ k, L.getLsbD k = true ∧ val k ≠ val (lowest L)) →
    out = .next (s.trap { cause := .nonuniformOperand, mask := those L fun k => val k != val (lowest L), addr := s.freeAddr, info := s.freeInfo })

/-- The same of an instruction that writes over a state u which it first makes of its own, its earlier accesses done; a trap leaves s as it was. -/
structure State.DeliversOver (s u : State) (out : Host.Outcome State Fault Refusal) (o : Ops) (L : Mask) (val : Nat → Word) : Prop where
  each : o.clsD = false → ∃ t, out = .next t ∧ u.WroteLanes t o (dstOf o L) (fun k _ => val k) noReg noReg (fun _ => 0) (fun _ => false)
  once : o.clsD = true → (∀ k, L.getLsbD k = true → val k = val (lowest L)) →
    ∃ t, out = .next t ∧ u.WroteG t o L (val (lowest L)) noReg noReg (fun _ => 0) (fun _ => false)
  differ : o.clsD = true → (∃ k, L.getLsbD k = true ∧ val k ≠ val (lowest L)) →
    out = .next (s.trap { cause := .nonuniformOperand, mask := those L fun k => val k != val (lowest L), addr := s.freeAddr, info := s.freeInfo })

/-- An instruction delivers a result whose element j is f of the elements j of srcA, srcB and srcC, in each guarded lane; under lo the elements
above 0 stay as the destination had them (R32, R160). It raises no flag. -/
def State.ElementResult (s : State) (i : Instr) (o : Ops) (L : Mask) (f : Nat → Nat → Nat → Nat) : Prop :=
  ∃ val, s.Delivers (exec i s) o L val noReg noReg (fun _ => 0) (fun _ => false) ∧
    ∀ k j, L.getLsbD k = true → j < o.ty.count →
      sub (val k) o.ty.width j =
        if o.lo = true ∧ j ≠ 0 then sub (s.dstBefore o k) o.ty.width j
        else f (sub (s.opA o k) o.ty.width j) (sub (s.opB o k) o.ty.width j) (sub (s.opC o k) o.ty.width j) % 2 ^ o.ty.width

/-- The flags of the steps of n elements, together (R50: sticky). -/
def flagsOf (n : Nat) (f : Nat → FFlags) : BitVec 5 := ((List.range n).foldl (fun acc j => acc.or (f j)) ({} : FFlags)).bits

/-- How many elements an instruction computes (R32). -/
def elemCount (o : Ops) : Nat := if o.lo then 1 else o.ty.count

/-- An instruction delivers a result whose element j, with the flags of its step, is f k j in guarded lane k; under lo the elements above 0 stay
as the destination had them (R32). The flags of its steps are raised in the guarded lanes, and no others (R51). -/
def State.FlaggedResult (s : State) (i : Instr) (o : Ops) (L : Mask) (f : Nat → Nat → Nat × FFlags) (dy : Nat → Bool) : Prop :=
  ∃ val, s.Delivers (exec i s) o L val noReg noReg
      (fun k => if L.getLsbD k then flagsOf (elemCount o) fun j => (f k j).2 else 0) (fun k => L.getLsbD k && dy k) ∧
    ∀ k j, L.getLsbD k = true → j < o.ty.count →
      sub (val k) o.ty.width j =
        if o.lo = true ∧ j ≠ 0 then sub (s.dstBefore o k) o.ty.width j else (f k j).1 % 2 ^ o.ty.width

/-- An instruction writes predicates and raises flags, and nothing else: predicate n of lane k where wp says so, to vp. -/
def State.PredicateResult (s : State) (i : Instr) (o : Ops) (wp vp : Nat → Nat → Bool) (fl : Nat → BitVec 5) : Prop :=
  ∃ t, exec i s = .next t ∧ s.WroteLanes t o noReg (fun _ _ => 0) wp vp fl (fun _ => false)

/-- The predicates of a pair are written in the lanes of a mask, the second after the first (R187). -/
def pairOf (o : Ops) (M : Mask) : Nat → Nat → Bool :=
  fun k n => M.getLsbD k && (n == o.dst.toNat % 8 || n == o.dst.toNat / 8 % 8) && decide (n < 7)

/-- What each predicate of a pair gets. -/
def pairValue (o : Ops) (v : Nat → Bool × Bool) : Nat → Nat → Bool := fun k n => if n == o.dst.toNat / 8 % 8 then (v k).2 else (v k).1

/-! ### Trees and scans (R66, R67) -/

/-- Element i of level l of the tree of R66 over the elements x of the 32 lanes. -/
def treeAt (f : Nat → Nat → Nat × FFlags) (x : Nat → Nat) : Nat → Nat → Nat
  | 0, i => x i
  | l + 1, i => (f (treeAt f x l (2 * i)) (treeAt f x l (2 * i + 1))).1

/-- The flags of every step of the tree, together (R182). -/
def treeFlags (f : Nat → Nat → Nat × FFlags) (x : Nat → Nat) : FFlags :=
  ((List.range 5).flatMap fun l => (List.range (2 ^ (4 - l))).map fun i => (f (treeAt f x l (2 * i)) (treeAt f x l (2 * i + 1))).2).foldl
    FFlags.or {}

/-- The value of lane k after the first s steps of the scan of R67. -/
def scanAt (f : Nat → Nat → Nat × FFlags) (x : Nat → Nat) : Nat → Nat → Nat
  | 0, k => x k
  | s + 1, k => if 2 ^ s ≤ k then (f (scanAt f x s (k - 2 ^ s)) (scanAt f x s k)).1 else scanAt f x s k

/-- The flags of every step of the scan, together (R182). -/
def scanFlags (f : Nat → Nat → Nat × FFlags) (x : Nat → Nat) : FFlags :=
  ((List.range 5).flatMap fun s => ((List.range 32).filter fun k => 2 ^ s ≤ k).map fun k =>
    (f (scanAt f x s (k - 2 ^ s)) (scanAt f x s k)).2).foldl FFlags.or {}

/-- What the lanes bring to element position j: a lane that takes no part brings the identity (R66). -/
def State.taking (s : State) (o : Ops) (L : Mask) (op j : Nat) : Nat → Nat :=
  fun k => if L.getLsbD k then sub (s.opA o k) o.ty.width j else identity o.ty op

/-! ### Rounding (R49, R50) -/

/-- The number that a decoded finite value stands for. -/
def FV.exact : FV → ℚ
  | .fin neg m e => (if neg then -1 else 1) * m * 2 ^ e
  | _ => 0

/-- A decoded value is finite. -/
def FV.finite : FV → Bool
  | .fin _ _ _ => true
  | _ => false

/-- The largest finite number of a format, and the step below it. -/
def Fmt.top (f : Fmt) : ℚ := (f.decode (f.largest false)).exact
def Fmt.topStep (f : Fmt) : ℚ := f.top - (f.decode (f.largest false - 1)).exact
/-- The smallest normal number of a format. -/
def Fmt.normal (f : Fmt) : ℚ := (f.decode (2 ^ f.mb)).exact

/-- The magnitude of a nonzero number exceeds the largest finite number of a format when it is rounded with no bound on exponents (R50). -/
def Fmt.Beyond (f : Fmt) (r : Rnd) (v : ℝ) : Prop :=
  match r with
  | .rne => (f.top : ℝ) + f.topStep / 2 ≤ |v|
  | .rtz => (f.top : ℝ) + f.topStep ≤ |v|
  | .rdn => if v < 0 then (f.top : ℝ) < -v else (f.top : ℝ) + f.topStep ≤ v
  | .rup => if v < 0 then (f.top : ℝ) + f.topStep ≤ -v else (f.top : ℝ) < v

/-- A code is the rounding of a number in a mode (R33): no number of the format lies closer on the side that the mode allows, and of two as near
RNE takes the even code. -/
def Fmt.Nearest (f : Fmt) (r : Rnd) (v : ℝ) (b : Nat) : Prop :=
  let d : ℝ := (f.decode b).exact
  (f.decode b).finite = true ∧ ∀ c, (f.decode c).finite = true →
    let y : ℝ := (f.decode c).exact
    match r with
    | .rne => |d - v| ≤ |y - v| ∧ (|d - v| = |y - v| → y ≠ d → b % 2 = 0)
    | .rtz => |d| ≤ |v| ∧ 0 ≤ d * v ∧ (|y| ≤ |v| → |y| ≤ |d|)
    | .rdn => d ≤ v ∧ (y ≤ v → y ≤ d)
    | .rup => v ≤ d ∧ (v ≤ y → d ≤ y)

/-- A code and flags are those of one rounding of a nonzero number (R49, R50; R54 of K8): beyond the largest finite number the code that the mode,
sat or K8 calls for, with of and nx; else the rounding, with nx when it is inexact and uf when it is inexact and tiny. -/
structure Fmt.RoundedOnce (f : Fmt) (r : Rnd) (sat : Bool) (v : ℝ) (x : Nat × FFlags) : Prop where
  beyond : f.Beyond r v →
    x.2 = { ovf := true, nx := true } ∧
    x.1 = if sat = true ∨ f.k8 = true ∨ r = .rtz ∨ r = .rdn ∧ 0 < v ∨ r = .rup ∧ v < 0 then f.largest (decide (v < 0)) else f.inf (decide (v < 0))
  within : ¬f.Beyond r v →
    f.Nearest r v x.1 ∧ x.2.nv = false ∧ x.2.dz = false ∧ x.2.ovf = false ∧
    (f.k8 = false → (f.decode x.1).neg = decide (v < 0)) ∧ (x.2.nx = true ↔ ((f.decode x.1).exact : ℝ) ≠ v) ∧
    (x.2.uf = true ↔ ((f.decode x.1).exact : ℝ) ≠ v ∧ |(f.decode x.1).exact| < f.normal)

/-- The integer to which a number is rounded in a mode (R33, R172, R173). -/
def integralIn (r : Rnd) (v : ℚ) (z : ℤ) : Prop :=
  match r with
  | .rne => |v - z| ≤ 1 / 2 ∧ (|v - z| = 1 / 2 → z % 2 = 0)
  | .rtz => z = if 0 ≤ v then ⌊v⌋ else ⌈v⌉
  | .rdn => z = ⌊v⌋
  | .rup => z = ⌈v⌉

/-! ### Control -/

/-- The bundle's threads run: none is held, stopped, exited or waiting, and they share one bundle. Every issue begins so. -/
def State.Running (s : State) : Prop :=
  ∃ b, ∀ k, s.cur.lanes.getLsbD k = true → (s.cl k).cond = .runnable ∧ (s.cl k).wait = .no ∧ (s.cl k).bundle = some b

/-- A thread that has issued and goes on at an address (R26, R106). -/
def State.goesTo (s : State) (o : Ops) (t : Thread) (pc : Word) : Thread :=
  { t with pc := pc, readyAt := s.clock + 1 + o.stall.toNat, lastIssue := s.clock, yields := o.yld, skipWatch := false }

/-- A thread that has issued and goes on to the next instruction. -/
def State.goesOn (s : State) (o : Ops) (t : Thread) : Thread := s.goesTo o t (t.pc + word s.cur.len)

/-- A waiting thread that is released goes on past its instruction, in a bundle from the next regrouping on (R105, R108). -/
def Thread.released (t : Thread) : Thread :=
  { t with cond := .runnable, wait := .no, pc := t.pc + word t.waitLen, waitLen := 0, bundle := none }

/-- Of the lanes of a bundle's mask, those that still run share a bundle exactly when they agree on their pc and privilege, and the others are in
none (R105). -/
def State.SplitBy (t : State) (M : Mask) : Prop :=
  let runs := fun (k : Nat) => M.getLsbD k = true ∧ (t.cl k).cond = .runnable ∧ (t.cl k).wait = .no
  (∀ k, M.getLsbD k = true → ¬runs k → (t.cl k).bundle = none) ∧
  ∀ j k, runs j → runs k → ((t.cl j).bundle = (t.cl k).bundle ↔ (t.cl j).pc = (t.cl k).pc ∧ (t.cl j).priv = (t.cl k).priv)

/-- An instruction whose whole effect is that thread k of the bundle becomes f k of itself. -/
def State.ThreadResult (s : State) (i : Instr) (f : Nat → Thread → Thread) : Prop :=
  ∃ t, exec i s = .next t ∧ s.OnlyBundle t ∧ ∀ k, s.cur.lanes.getLsbD k = true → t.cl k = f k (s.cl k)

/-- The same, after which the bundle splits. -/
def State.SplitResult (s s1 : State) (i : Instr) (f : Nat → Thread → Thread) : Prop :=
  ∃ t, exec i s = .next t ∧ s1.OnlyBundle t ∧ t.SplitBy s.cur.lanes ∧
    ∀ k, s.cur.lanes.getLsbD k = true → ∃ b, t.cl k = { f k (s.cl k) with bundle := b }

/-- A lane waits for the completion of a round of a mask register, or would if it were not stopped (R108, R124). -/
def Thread.heldAt (t : Thread) (K : Nat) : Bool := t.cond == .held K || t.wait == .mask K

/-- An event of mask register K (R108, R109): its member mask and arrival mask become m' and a'; if that completes the round, a' is cleared and every
lane held there goes on; so does a held lane that the event drops; every other lane outside the bundle is as it was. -/
structure State.MaskEvent (s t : State) (K : Nat) (m' a' : Mask) (dropped : Nat → Bool) : Prop extends s.OnlyGang t where
  gang : t.cg = { s.cg with m := t.cg.m, arrive := t.cg.arrive, threads := t.cg.threads }
  members : ∀ n, t.cg.getM n = if n = K then m' else s.cg.getM n
  arrivals : ∀ n, t.cg.getA n = if n = K then (if a' ≠ 0 ∧ a' = m' then 0 else a') else s.cg.getA n
  lanes : ∀ k, k < 32 → s.cur.lanes.getLsbD k = false →
    t.cl k =
      if (s.cl k).heldAt K = true ∧ ((a' ≠ 0 ∧ a' = m') ∨ dropped k = true) then
        { (s.cl k).released with cond := if (s.cl k).cond = .held K then .runnable else (s.cl k).cond }
      else s.cl k

/-! ### Synchronisation -/

/-- A core barrier's round completes (R148). -/
def Bar.done (b : Bar) : Prop := b.expected ≤ b.arrivals ∧ b.pending = 0 ∧ b.failed = none

/-- The lanes that issue. -/
def State.inIssue (s : State) (key k : Nat) : Prop := key = s.cur.gang ∧ s.cur.lanes.getLsbD k = true

/-- A thread that waited in an instruction is released, ordered after a time (R152, R217). -/
def Thread.releasedAfter (t : Thread) (w : Nat) : Thread :=
  { t with wait := .no, pc := t.pc + word t.waitLen, waitLen := 0, bundle := none, hzn := word (max (momentOf w t.hzn) w) }

/-- An event of barrier n of the issuing gang's block (R145, R148): the barrier becomes b; if that completes its round, its arrivals are cleared, its
generation counts on, and every thread of the block on the core that waits there is released; no other barrier, allocation or thread outside
the bundle changes. -/
structure State.BarrierEvent (s t : State) (n : Nat) (a : Alloc) (b : Bar) : Prop where
  rest : t = { s with gangs := t.gangs, allocs := t.allocs }
  own : ∃ a', t.ownAlloc = some a' ∧ a' = { a with bars := a'.bars } ∧
    (∀ m, m ≠ n → a'.bar m = a.bar m) ∧ (¬b.done → a'.bar n = b) ∧ (b.done → a'.bar n = { b with arrivals := 0, gen := b.gen + 1 })
  allocs : ∀ l bl c, (l, bl, c) ≠ (s.cg.launch, s.cg.block, coreOf s.cur.gang) → t.allocAt l bl c = s.allocAt l bl c
  gangs : ∀ key, key ≠ s.cur.gang → t.gangAt key = { s.gangAt key with threads := (t.gangAt key).threads }
  lanes : ∀ key k, k < 32 → ¬s.inIssue key k →
    let u := (s.gangAt key).lane k
    let waits := (s.gangAt key).inBlock s.cg.launch s.cg.block (coreOf s.cur.gang) = true ∧ u.cond ≠ .exited ∧ u.wait = .bar n
    (b.done → waits → (t.gangAt key).lane k = u.releasedAfter b.w) ∧ (¬(b.done ∧ waits) → (t.gangAt key).lane k = u)

/-- The arrivals of lanes of the issuing gang in the open round of a group (R116, R153), an arrival that is no GBARP noted (R155). -/
def State.roundWith (s : State) (grp : Nat) (L : Mask) (plain : Bool) : GroupRound :=
  let r := s.roundOf s.cg.launch grp
  { r with
    arrived := r.arrived ++ ((lanes L).map fun k => (s.cg.number, k)).filter fun e => !r.arrived.contains e
    plain := if plain && !r.plain.contains s.cg.number then r.plain ++ [s.cg.number] else r.plain }

/-! ### Global memory -/

/-- The lanes of a memory instruction with the operands that they read. -/
def State.asked (s : State) (i : Instr) (L : Mask) (a b c : Nat → Word) : MemCtx := s.issueCtx i L a b c

/-- Every lane of an access translates, and none meets a watchpoint: what translation makes of them (R266, R270, R361). -/
structure State.Clear (s : State) (x : MemCtx) (acc : Access) (kind info : Nat) (ls : List LaneAcc) (T : Translated) : Prop where
  found : s.translateLanes x acc info ls = T
  none : T.bad = []
  unwatched : s.watch x.key kind 0 (T.good.map fun e => (e.1.ops.lane, e.1.vas)) = Option.none

/-- The stores that a lane's bytes set off, each of them with whether it is a piece: one where they are one naturally aligned access or go to a device
page, else one for each byte (R194). -/
def State.piecesOf (s : State) (pas : List Nat) (bs : List Byte) : List (Nat × List Byte × Bool) :=
  if pas.headD 0 % bs.length = 0 ∨ (s.ioPage (pas.headD 0)).isSome = true then [(pas.headD 0, bs, false)]
  else (pas.zip bs).map fun c => (c.1, [c.2], true)

/-- A store that a lane of the issuing gang has performed in its core's L1, on its way to its home. -/
def State.storeOf (s : State) (k : Nat) (c : Nat × List Byte × Bool) : PStore :=
  { gang := s.cur.gang, lane := k, core := coreOf s.cur.gang, world := s.cg.world, pa := c.1, bytes := c.2.1, issued := s.clock, bank := false,
    piece := c.2.2, begun := false, priv := (s.cl k).priv, accepted := false }

/-- The stores that an issue sets off: those of every lane, ascending (R202). -/
def State.storesOf (s : State) (n : Nat) (data : LaneOps → Word) (good : List (LaneAcc × List Nat)) : List PStore :=
  good.flatMap fun e => (s.piecesOf e.2 (leBytes n (data e.1.ops).toNat)).map (s.storeOf e.1.ops.lane)

/-- A load on its way to a d register of a lane, with the values of the moment of its issue (R206). -/
def State.loadOf (s : State) (o : Ops) (e : LaneAcc × List Nat) : PLoad :=
  let core := coreOf s.cur.gang
  { gang := s.cur.gang, lane := e.1.ops.lane, core := core, dst := .d o.dst.toNat, lines := (e.2.map lineOf).dedup, ty := o.ty, lo := o.lo,
    home := s.homeValue core e.2, lease := s.leaseValue core e.2,
    owned := e.2.all fun pa => SMap.get 0 s.owned (pa / 4) == core + 1, spots := [], issued := s.clock }

/-- A core's L1 gives up the data of every lease it holds, for later loads (R208): the acquire part at cluster scope or wider. -/
def State.acquired (s : State) (core scope : Nat) : List Lease :=
  if scope < 2 then s.leases else s.leases.map fun l => if l.core = core then { l with data := none } else l

/-- The scope at which a load of global memory is an acquire: an LDA's own; system scope where it reads the HEAPCOL word of the control page (R232, R364);
none, as gang scope is for an L1, otherwise. -/
def State.loadScope (s : State) (good : List (LaneAcc × List Nat)) (own : Nat) : Nat :=
  if good.any fun e => s.ioPage (e.2.headD 0) == some (.hub, 0x088) then 5 else own

/-- A scratch load on its way to a d register of a lane (R200). -/
def State.bankLoadOf (s : State) (o : Ops) (n k : Nat) : PLoad :=
  { gang := s.cur.gang, lane := k, core := coreOf s.cur.gang, dst := .d o.dst.toNat, lines := [], ty := o.ty, lo := o.lo, home := 0, lease := none,
    owned := false, spots := s.spots s.cur.gang (s.memAddr o k) n, issued := s.clock }

/-- The stores to scratch banks that a lane's store sets off: one where it is naturally aligned, else one for each byte (R194, R200). -/
def State.bankStoresOf (s : State) (o : Ops) (n k : Nat) : List PStore :=
  let ps := s.spots s.cur.gang (s.memAddr o k) n
  let bs := leBytes n (s.opDst o k).toNat
  let parts := if (s.memAddr o k).toNat % n = 0 then ps.head?.toList.map fun p => (bankAddr p, bs, false)
    else (ps.zip bs).map fun e => (bankAddr e.1, [e.2], true)
  parts.map fun c => { s.storeOf k c with bank := true }

/-- The byte that the lanes of a list, in order, leave at a place: the last one's that writes it. -/
def lastWrite (writes : List ((Nat × Nat) × Byte)) (place : Nat × Nat) : Option Byte :=
  (writes.reverse.find? fun w => w.1 == place).map (·.2)

/-- What the scratch stores of some lanes of the issuing gang write, in order: place (core, offset) and byte (R200, R202). -/
def State.scratchWrites (s : State) (o : Ops) (n : Nat) (L : Mask) : List ((Nat × Nat) × Byte) :=
  (lanes L).flatMap fun k => (s.spots s.cur.gang (s.memAddr o k) n).zip (leBytes n (s.opDst o k).toNat)

/-! ### Encodings -/

/-- ILLEGAL_INSN (R42, R44): words of 8 or 12 bytes of an opcode whose first 64 bits are bad in a given way do not decode. -/
def IllegalFields (code : Nat) (bad : Nat → Prop) : Prop :=
  ∀ (off : Nat) (bytes : List Byte), 12 ≤ bytes.length →
    let p := leNat (bytes.take 8)
    (p % 4 = 1 ∨ p % 4 = 2) → off % 32 + 4 * (p % 4 + 1) ≤ 32 → p / 2 ^ 11 % 2 ^ 9 = code → bad p → decodeAt off bytes = .error .illegalInsn

end Sys2Proof.Machine
end

