-- ==== Sys2Proof/Certificates/Slice0/Obligations.lean ====
section
/-! DEFINITION. The statements about the machine, from the manual's numbered rules. -/

open Sys2Proof Sys2Proof.Machine

/-! ### Lane arithmetic -/

/-- R160, R161, R162, R165, R39, R40: each integer instruction of one result element computes element j of its result from elements j of its
operands, in every guarded lane; under lo only element 0 is new (R32). The compact forms do as their listed S64 forms. It writes nothing
else, in memory or in a register; a g destination is written once, or its disagreeing lanes trap (R23). -/
def Obligations.IntegerElementResults : Prop :=
  ∀ (s : State) (L : Mask) (o p : Ops) (c : C32) (i : Instr) (op : Nat) (f : Nat → Nat → Nat → Nat), s.Issuing →
    (i, op, p, f) ∈
      [ (Instr.iadd o, 0x00, o, fun a b _ => deliverInt o.ty o.sat (valueOf o.ty a + valueOf o.ty b)),
        (Instr.isub o, 0x01, o, fun a b _ => deliverInt o.ty o.sat (valueOf o.ty a - valueOf o.ty b)),
        (Instr.imul o, 0x02, o, fun a b _ => deliverInt o.ty o.sat (valueOf o.ty a * valueOf o.ty b)),
        (Instr.imulh o, 0x03, o, fun a b _ => deliverInt o.ty o.sat (valueOf o.ty a * valueOf o.ty b / 2 ^ o.ty.width)),
        (Instr.imad o, 0x04, o, fun a b c => deliverInt o.ty o.sat (valueOf o.ty a * valueOf o.ty b + valueOf o.ty c)),
        (Instr.idiv o, 0x06, o, fun a b _ => quotient o.ty a b),
        (Instr.irem o, 0x07, o, fun a b _ => remainder o.ty a b),
        (Instr.imin o, 0x08, o, fun a b _ => deliverInt o.ty o.sat (min (valueOf o.ty a) (valueOf o.ty b))),
        (Instr.imax o, 0x09, o, fun a b _ => deliverInt o.ty o.sat (max (valueOf o.ty a) (valueOf o.ty b))),
        (Instr.iabs o, 0x0A, o, fun a _ _ => deliverInt o.ty o.sat |valueOf o.ty a|),
        (Instr.ineg o, 0x0B, o, fun a _ _ => deliverInt o.ty o.sat (-valueOf o.ty a)),
        (Instr.iclamp o, 0x0C, o, fun a b c => deliverInt o.ty o.sat (min (max (valueOf o.ty a) (valueOf o.ty b)) (valueOf o.ty c))),
        (Instr.and o, 0x0F, o, fun a b _ => a &&& b),
        (Instr.or o, 0x10, o, fun a b _ => a ||| b),
        (Instr.xor o, 0x11, o, fun a b _ => a ^^^ b),
        (Instr.andn o, 0x12, o, fun a b _ => a &&& (2 ^ o.ty.width - 1 - b)),
        (Instr.not o, 0x13, o, fun a _ _ => 2 ^ o.ty.width - 1 - a),
        (Instr.shl o, 0x14, o, fun a b _ => shl o.ty.width a b),
        (Instr.shr o, 0x15, o, fun a b _ => shr o.ty.width a b),
        (Instr.sar o, 0x16, o, fun a b _ => sar o.ty.width a b),
        (Instr.rol o, 0x17, o, fun a b _ => rol o.ty.width a b),
        (Instr.ror o, 0x18, o, fun a b _ => ror o.ty.width a b),
        (Instr.popc o, 0x19, o, fun a _ _ => popCount o.ty.width a),
        (Instr.clz o, 0x1A, o, fun a _ _ => leadingZeros o.ty.width a),
        (Instr.ctz o, 0x1B, o, fun a _ _ => trailingZeros o.ty.width a),
        (Instr.brev o, 0x1C, o, fun a _ _ => reverseBits o.ty.width a),
        (Instr.bswap o, 0x1D, o, fun a _ _ => reverseBytes (o.ty.width / 8) a),
        (Instr.bfx o, 0x1E, o, fun a b _ => bfx o.ty a b),
        (Instr.bfi o, 0x1F, o, fun a b c => bfi o.ty a b c),
        (Instr.sext o, 0x20, o, fun a b _ => extendFrom true o.ty.width a b),
        (Instr.zext o, 0x21, o, fun a b _ => extendFrom false o.ty.width a b),
        (Instr.vavg o, 0x86, o, fun a b _ =>
          deliverInt o.ty o.sat ((valueOf o.ty a + valueOf o.ty b + if o.opmod.toNat % 2 = 1 then 0 else 1) / 2)),
        (Instr.iaddC32 c, 0x00, compactArith c, fun a b _ => deliverInt (compactTy c) false (valueOf (compactTy c) a + valueOf (compactTy c) b)),
        (Instr.isubC32 c, 0x01, compactArith c, fun a b _ => deliverInt (compactTy c) false (valueOf (compactTy c) a - valueOf (compactTy c) b)),
        (Instr.andC32 c, 0x0F, compactArith c, fun a b _ => a &&& b),
        (Instr.orC32 c, 0x10, compactArith c, fun a b _ => a ||| b),
        (Instr.xorC32 c, 0x11, compactArith c, fun a b _ => a ^^^ b),
        (Instr.shlC32 c, 0x14, compactArith c, fun a b _ => shl (compactTy c).width a b),
        (Instr.shrC32 c, 0x15, compactArith c, fun a b _ => shr (compactTy c).width a b),
        (Instr.sarC32 c, 0x16, compactArith c, fun a b _ => sar (compactTy c).width a b) ] →
    s.checks op p = .ok L → s.ElementResult i p L f

/-- R34, R45: an integer result is taken modulo 2^w into the range of its type, or with sat becomes the nearest bound. R162: IDIV truncates toward zero and IREM has the sign of a: a = q b + r with r smaller than b in magnitude; a zero divisor gives all
ones and a, the most negative value by −1 gives itself and 0. -/
def Obligations.IntegerDeliveryAndDivision : Prop :=
  (∀ (t : Ty) (x : Int), t.isInt = true →
     let low : Int := if t.signed then -2 ^ (t.width - 1) else 0
     let high : Int := if t.signed then 2 ^ (t.width - 1) - 1 else 2 ^ t.width - 1
     deliverInt t false x < 2 ^ t.width ∧ deliverInt t true x < 2 ^ t.width ∧
     valueOf t (deliverInt t false x) ≡ x [ZMOD 2 ^ t.width] ∧
     low ≤ valueOf t (deliverInt t false x) ∧ valueOf t (deliverInt t false x) ≤ high ∧
     valueOf t (deliverInt t true x) = max low (min high x)) ∧
  (∀ (t : Ty) (a b : Nat), t.isInt = true → a < 2 ^ t.width → b < 2 ^ t.width →
     let A := valueOf t a
     let B := valueOf t b
     let q := quotient t a b
     let r := remainder t a b
     q < 2 ^ t.width ∧ r < 2 ^ t.width ∧
     (b = 0 → q = 2 ^ t.width - 1 ∧ r = a) ∧
     (b ≠ 0 → ¬(t.signed = true ∧ A = -2 ^ (t.width - 1) ∧ B = -1) →
       A = valueOf t q * B + valueOf t r ∧ |valueOf t r| < |B| ∧ 0 ≤ valueOf t r * A) ∧
     (t.signed = true ∧ A = -2 ^ (t.width - 1) ∧ B = -1 → valueOf t q = -2 ^ (t.width - 1) ∧ r = 0))

/-- R165: shifts, rotations, extensions and fields, bit by bit: where bit i of the result comes from. R161: the counts and reversals: POPC, CLZ, CTZ, BREV, BSWAP. -/
def Obligations.BitOperationsMoveBits : Prop :=
  (∀ (t : Ty) (a b c i : Nat), t.isInt = true → a < 2 ^ t.width → b < 2 ^ t.width → c < 2 ^ t.width → i < t.width →
     let w := t.width
     let pos := b % 256
     let len := min (b / 256 % 256) (w - pos)
     (shl w a b).testBit i = (decide (b ≤ i) && a.testBit (i - b)) ∧
     (shr w a b).testBit i = (decide (i + b < w) && a.testBit (i + b)) ∧
     (sar w a b).testBit i = a.testBit (if i + b < w then i + b else w - 1) ∧
     (rol w a b).testBit ((i + b) % w) = a.testBit i ∧
     (ror w a b).testBit i = a.testBit ((i + b) % w) ∧
     (extendFrom true w a b).testBit i = (decide (0 < b) && a.testBit (if i < b then i else b - 1)) ∧
     (extendFrom false w a b).testBit i = (decide (i < b) && a.testBit i) ∧
     (bfx t a b).testBit i = (decide (0 < len) && decide (pos < w)
       && (if i < len then a.testBit (pos + i) else t.signed && a.testBit (pos + len - 1))) ∧
     (bfi t a b c).testBit i = (if pos ≤ i ∧ i < pos + len then a.testBit (i - pos) else c.testBit i)) ∧
  (∀ (t : Ty) (a i : Nat), t.isInt = true → a < 2 ^ t.width → i < t.width →
     let w := t.width
     popCount w a = ((List.range w).map fun j => if a.testBit j then 1 else 0).sum ∧
     (leadingZeros w a = w ↔ a = 0) ∧ (a ≠ 0 → a.testBit (w - 1 - leadingZeros w a) = true) ∧
     (w - leadingZeros w a ≤ i → a.testBit i = false) ∧
     (trailingZeros w a = w ↔ a = 0) ∧ (a ≠ 0 → a.testBit (trailingZeros w a) = true) ∧
     (i < trailingZeros w a → a.testBit i = false) ∧
     (reverseBits w a).testBit i = a.testBit (w - 1 - i) ∧
     (reverseBytes (w / 8) a).testBit i = a.testBit (w - 8 - i / 8 * 8 + i % 8))

/-- R161, R165 to R168, R39, R40: what LEA, SEL, the moves and SPEC deliver. A value is merged into the destination under lo (R32). R163, R164: IMADW multiplies even elements into elements of twice the width; IADDS and ISUBS chain words through a carry predicate, which is
read and written in each guarded lane. -/
def Obligations.MovesAndWideSums : Prop :=
  (∀ (s : State) (L : Mask) (o : Ops) (c : C32), s.Issuing →
     (∀ (i : Instr) (op : Nat) (p : Ops) (v : Nat → Word),
       (i, op, p, v) ∈
         [ (Instr.lea o, 0x22, o, fun k => s.opA o k + s.opB o k * word (2 ^ o.c.toNat)),
           (Instr.sel o, 0x23, o, fun k => if s.regP k (s.cl k) o.c.toNat then s.opA o k else s.opB o k),
           (Instr.mov o, 0x24, o, s.opA o),
           (Instr.movi o, 0x25, o, s.opB o),
           (Instr.mget o, 0xCB, o, fun _ => word (s.cg.getM o.a.toNat).toNat),
           (Instr.movC32 c, 0x24, compactOps c .b64 c.dst c.b 0 none, fun k => s.operand k (s.cl k) false c.b.toNat),
           (Instr.moviC32 c, 0x25, compactOps c (compactTy c) c.dst 0 0 (some (compactLit 7 c.b.toNat)), fun _ =>
             widenLit (compactTy c) (compactLit 7 c.b.toNat)) ] →
       s.checks op p = .ok L →
       s.Delivers (exec i s) p L (fun k => mergeLo p (s.dstBefore p k) (v k)) noReg noReg (fun _ => 0) (fun _ => false)) ∧
     (∀ (v : Nat → Word),
       (o.a.toNat, v) ∈
         [ (0, fun k => word k), (1, fun _ => word s.cg.idx), (2, fun _ => word (partOf s.cur.gang % 8)),
           (3, fun _ => word (coreOf s.cur.gang % 48)), (4, fun _ => word (coreOf s.cur.gang / 4 % 12)), (5, fun _ => word (dieOf s.cur.gang)),
           (6, fun k => word (s.cl k).block), (7, fun k => word (s.blockDim (s.cl k).launch (dieOf s.cur.gang))), (8, fun k => word (s.cl k).tid),
           (9, fun k => word (s.cl k).launch), (10, fun _ => word s.gtime), (11, fun _ => word (s.worldOf (partOf s.cur.gang))) ] →
       s.checks 0x28 o = .ok L →
       s.Delivers (exec (.spec o) s) o L (fun k => mergeLo o (s.dstBefore o k) (v k)) noReg noReg (fun _ => 0) (fun _ => false)) ∧
     (s.checks 0x24 o = .ok L → ∃ t, exec (.movIx o) s = .next t ∧ s.OnlyBundle t ∧
       ∀ k, s.cur.lanes.getLsbD k = true → Thread.WentOn s o (s.cl k) (t.cl k) ∧
         t.cl k = { s.cl k with
           pc := (t.cl k).pc, readyAt := (t.cl k).readyAt, lastIssue := s.clock, yields := o.yld, skipWatch := false
           ix := if L.getLsbD k then BitVec.ofNat 7 (s.opA o k).toNat else (s.cl k).ix }) ∧
     (s.checks 0x26 o = .ok L → (∀ k, L.getLsbD k = true → o.a.toNat + (s.opB o k).toNat ≤ 127) →
       (s.cg.uninitChk = false ∨ s.cg.gValid = BitVec.allOnes 128) → s.cg.gFailed = [] →
       s.Delivers (exec (.movg o) s) o L (fun k => mergeLo o (s.dstBefore o k) (s.regG (o.a.toNat + (s.opB o k).toNat)))
         noReg noReg (fun _ => 0) (fun _ => false)) ∧
     (∀ src, (o.opmod.toNat, src) ∈ [(0, (s.opB o (lowest L)).toNat % 32), (1, lowest L), (2, (lanes L).getLastD 0)] →
       s.checks 0x27 o = .ok L → s.crossChecks o L (fun _ => [src]) = none →
       s.Delivers (exec (.movl o) s) o L (fun k => mergeLo o (s.dstBefore o k) (s.opA o src)) noReg noReg (fun _ => 0) (fun _ => false))) ∧
  (∀ (s : State) (L : Mask) (o : Ops), s.Issuing →
     ((Instr.imadw o).wf = true → s.checks 0x05 o = .ok L →
       ∃ val, s.Delivers (exec (.imadw o) s) o L val noReg noReg (fun _ => 0) (fun _ => false) ∧
         ∀ k j, L.getLsbD k = true → j < o.ty.count / 2 →
           let w := o.ty.width
           let ext := fun (v n : Nat) => if o.ty.signed then signedOf n v else (v : Int)
           sub (val k) (2 * w) j = narrowTo o.ty.signed (2 * w) o.sat
             (ext (sub (s.opA o k) w (2 * j)) w * ext (sub (s.opB o k) w (2 * j)) w + ext (sub (s.opC o k) (2 * w) j) (2 * w))) ∧
     ((Instr.iadds o).wf = true → s.checks 0x0D o = .ok L →
       let sum := fun k => (s.opA o k).toNat + (s.opB o k).toNat + bit (s.regP k (s.cl k) o.c.toNat)
       s.Delivers (exec (.iadds o) s) o L (fun k => word (sum k % 2 ^ 64)) (predOf L o.c.toNat) (fun k _ => decide (2 ^ 64 ≤ sum k))
         (fun _ => 0) (fun _ => false)) ∧
     ((Instr.isubs o).wf = true → s.checks 0x0E o = .ok L →
       let diff := fun k => ((s.opA o k).toNat : Int) - (s.opB o k).toNat - bit (s.regP k (s.cl k) o.c.toNat)
       s.Delivers (exec (.isubs o) s) o L (fun k => BitVec.ofInt 64 (diff k)) (predOf L o.c.toNat) (fun k _ => decide (diff k < 0))
         (fun _ => 0) (fun _ => false)))

/-! ### Floating point -/

/-- R48, R169 to R172, R174, R39, R40: each floating-point instruction forms its step exactly from the decoded elements and delivers it rounded
once, with the flags of that step; FABS, FNEG, FCPYS and FCLASS compute on bits and raise none (R47). -/
def Obligations.FloatElementResults : Prop :=
  ∀ (s : State) (L : Mask) (o p : Ops) (c : C32) (i : Instr) (op : Nat) (f : Nat → Nat → Nat → Nat × FFlags), s.Issuing →
    let fm := Fmt.of o.ty
    let fc := Fmt.of (compactTy c)
    (i, op, p, f) ∈
      [ (Instr.fadd o, 0x40, o, fun a b _ => fm.deliver o.rnd o.sat ((fm.decode a).add o.rnd (fm.decode b))),
        (Instr.fsub o, 0x41, o, fun a b _ => fm.deliver o.rnd o.sat ((fm.decode a).add o.rnd (fm.decode b).negate)),
        (Instr.fmul o, 0x42, o, fun a b _ => fm.deliver o.rnd o.sat ((fm.decode a).mul (fm.decode b))),
        (Instr.ffma o, 0x43, o, fun a b c => fm.deliver o.rnd o.sat (((fm.decode a).mul (fm.decode b)).add o.rnd (fm.decode c))),
        (Instr.ffms o, 0x44, o, fun a b c => fm.deliver o.rnd o.sat (((fm.decode a).mul (fm.decode b)).add o.rnd (fm.decode c).negate)),
        (Instr.fnma o, 0x45, o, fun a b c => fm.deliver o.rnd o.sat ((fm.decode c).add o.rnd ((fm.decode a).mul (fm.decode b)).negate)),
        (Instr.fmin o, 0x46, o, fun a b _ => fm.pick false a b),
        (Instr.fmax o, 0x47, o, fun a b _ => fm.pick true a b),
        (Instr.fabs o, 0x48, o, fun a _ _ => (a % 2 ^ (o.ty.width - 1), {})),
        (Instr.fneg o, 0x49, o, fun a _ _ => (a ^^^ 2 ^ (o.ty.width - 1), {})),
        (Instr.fcpys o, 0x4A, o, fun a b _ => (a % 2 ^ (o.ty.width - 1) + b / 2 ^ (o.ty.width - 1) * 2 ^ (o.ty.width - 1), {})),
        (Instr.fdiv o, 0x4B, o, fun a b _ => fm.div o.rnd o.sat (fm.decode a) (fm.decode b)),
        (Instr.fsqrt o, 0x4C, o, fun a _ _ => fm.sqrt o.rnd o.sat (fm.decode a)),
        (Instr.frcp o, 0x4D, o, fun a _ _ => fm.rcp o.sat (fm.decode a)),
        (Instr.frsq o, 0x4E, o, fun a _ _ => fm.rsq o.sat (fm.decode a)),
        (Instr.fexp2 o, 0x4F, o, fun a _ _ => fm.exp2 (fm.decode a)),
        (Instr.flog2 o, 0x50, o, fun a _ _ => fm.log2 (fm.decode a)),
        (Instr.fsin o, 0x51, o, fun a _ _ => fm.sinPi (fm.decode a)),
        (Instr.fcos o, 0x52, o, fun a _ _ => fm.cosPi (fm.decode a)),
        (Instr.ftanh o, 0x53, o, fun a _ _ => fm.tanh (fm.decode a)),
        (Instr.frnd o, 0x54, o, fun a _ _ => fm.rint o.rnd (fm.decode a)),
        (Instr.fclass o, 0x59, o, fun a _ _ => (fm.classify a, {})),
        (Instr.fgetexp o, 0x5A, o, fun a _ _ => fm.getExp (fm.decode a)),
        (Instr.faddC32 c, 0x40, compactArith c, fun a b _ => fc.deliver .rne false ((fc.decode a).add .rne (fc.decode b))),
        (Instr.fmulC32 c, 0x42, compactArith c, fun a b _ => fc.deliver .rne false ((fc.decode a).mul (fc.decode b))),
        (Instr.fminC32 c, 0x46, compactArith c, fun a b _ => fc.pick false a b),
        (Instr.fmaxC32 c, 0x47, compactArith c, fun a b _ => fc.pick true a b) ] →
    s.checks op p = .ok L →
    s.FlaggedResult i p L
      (fun k j => f (sub (s.opA p k) p.ty.width j) (sub (s.opB p k) p.ty.width j) (sub (s.opC p k) p.ty.width j)) (fun _ => false)

/-- R173, R174: conversions take the elements of part h of the source and leave the rest of the destination zero; a reserved dyad code among the
decoded bytes sets dy_reserved (R56); FSCALE scales by a signed count, a literal one sign-extended (R169). With them what FRND, FSCALE, FCLASS,
FGETEXP and FTOI compute of a value (R172 to R174): the integer of the mode, one rounding of a · 2^b, the table of classes, the exponent, and the
clamped integer with nv alone. -/
def Obligations.ConversionResults : Prop :=
  -- what FRND, FSCALE, FCLASS, FGETEXP and FTOI compute of a value of a format
  (∀ (f : Fmt) (r : Rnd) (sat : Bool) (b : ℤ) (a : Nat), f ∈ [Fmt.f64, Fmt.f32, Fmt.f16, Fmt.bf16] →
    let x := f.decode a
    let half : ℤ := 2 ^ (f.width - 1)
    (∀ sg, x = .nan sg → f.rint r x = (f.nan, { nv := sg }) ∧ f.scale r sat x b = (f.nan, { nv := sg }) ∧
      f.classify a = (if sg = true then 2 ^ 8 else 2 ^ 9) ∧ signedOf f.width (f.getExp x).1 = half - 1 ∧ (f.getExp x).2 = { nv := sg }) ∧
    (∀ neg, x = .inf neg → f.rint r x = (f.inf neg, {}) ∧ f.scale r sat x b = (f.inf neg, {}) ∧
      f.classify a = (if neg = true then 2 ^ 0 else 2 ^ 7) ∧ signedOf f.width (f.getExp x).1 = half - 1 ∧ (f.getExp x).2 = {}) ∧
    (x.finite = true →
      -- an integral value, with the sign of the operand
      (∃ z : ℤ, integralIn r x.exact z ∧ (f.decode (f.rint r x).1).finite = true ∧ (f.decode (f.rint r x).1).exact = z ∧
        (f.decode (f.rint r x).1).neg = x.neg ∧ (f.rint r x).2 = { nx := decide ((z : ℚ) ≠ x.exact) }) ∧
      (x.exact = 0 → f.scale r sat x b = (f.zero x.neg, {}) ∧ f.classify a = (if x.neg = true then 2 ^ 3 else 2 ^ 4) ∧
        signedOf f.width (f.getExp x).1 = -half ∧ (f.getExp x).2 = { dz := true }) ∧
      (x.exact ≠ 0 → f.RoundedOnce r sat ((x.exact * (2 : ℚ) ^ b : ℚ) : ℝ) (f.scale r sat x b) ∧
        f.classify a = (if |x.exact| < f.normal then if x.neg = true then 2 ^ 2 else 2 ^ 5 else if x.neg = true then 2 ^ 1 else 2 ^ 6) ∧
        (f.getExp x).2 = {} ∧ (2 : ℚ) ^ signedOf f.width (f.getExp x).1 ≤ |x.exact| ∧ |x.exact| < (2 : ℚ) ^ (signedOf f.width (f.getExp x).1 + 1)))) ∧
  (∀ (t : Ty) (r : Rnd) (neg sg : Bool) (m : Nat) (e : ℤ), t.isInt = true →
    let w := t.width
    let lo : ℤ := if t.signed then -2 ^ (w - 1) else 0
    let hi : ℤ := if t.signed then 2 ^ (w - 1) - 1 else 2 ^ w - 1
    let x := FV.fin neg m e
    toInt t r (.nan sg) = (0, { nv := true }) ∧ toInt t r (.inf neg) = (wrapTo w (if neg then lo else hi), { nv := true }) ∧
    ∃ z : ℤ, integralIn r x.exact z ∧ toInt t r x =
      if z < lo then (wrapTo w lo, { nv := true }) else if hi < z then (wrapTo w hi, { nv := true }) else (wrapTo w z, { nx := decide ((z : ℚ) ≠ x.exact) })) ∧
  ∀ (s : State) (L : Mask) (o : Ops), s.Issuing →
    let fm := Fmt.of o.ty
    let src := o.ty2
    let n := min src.count o.ty.count
    (∀ (i : Instr) (op : Nat) (f : Nat → Nat × FFlags),
      (i, op, f) ∈
        [ (Instr.fcvt o, 0x55, fun x => fm.deliver o.rnd o.sat (decodeTy src x)),
          (Instr.ftoi o, 0x56, fun x => toInt o.ty o.rnd (decodeTy src x)),
          (Instr.itof o, 0x57, fun x => fm.deliver o.rnd o.sat (decodeTy src x)) ] →
      s.checks op o = .ok L →
      s.FlaggedResult i o L
        (fun k j => if j < n then f (sub (s.opA o k) src.width (o.opmod.toNat % 4 * n + j)) else (0, {}))
        (fun k => src == .dy8 && (List.range (if o.lo then 1 else n)).any fun j =>
          dyReserved (sub (s.opA o k) src.width (o.opmod.toNat % 4 * n + j)))) ∧
    (s.checks 0x58 o = .ok L →
      s.FlaggedResult (.fscale o) o L
        (fun k j => fm.scale o.rnd o.sat (fm.decode (sub (s.opA o k) o.ty.width j))
          (match o.lit with
            | some l => signedOf o.ty.width (sub (sext 32 l.toNat) o.ty.width 0)
            | none => signedOf o.ty.width (sub (s.opB o k) o.ty.width j)))
        (fun _ => false))

/-- R49, R50, R54: delivering an exact value is one correct rounding; so is FDIV's quotient, FSQRT's root, FRSQ's, and FRCP's wherever its exact
result is not below the smallest normal magnitude (R169, R171). -/
def Obligations.StepsRoundOnce : Prop :=
  ∀ (f : Fmt) (r : Rnd) (sat a b : Bool) (m n : Nat) (e g : Int), f ∈ [Fmt.f64, Fmt.f32, Fmt.f16, Fmt.bf16, Fmt.kay8] → m ≠ 0 → n ≠ 0 →
    let x := FV.fin a m e
    let y := FV.fin b n g
    f.RoundedOnce r sat (x.exact : ℝ) (f.deliver r sat x) ∧
    (f.k8 = false →
      f.RoundedOnce r sat ((x.exact / y.exact : ℚ) : ℝ) (f.div r sat x y) ∧
      (a = false → f.RoundedOnce r sat (Real.sqrt x.exact) (f.sqrt r sat x)) ∧
      (a = false → f.RoundedOnce .rne sat (1 / Real.sqrt x.exact) (f.rsq sat x)) ∧
      (f.normal ≤ |1 / x.exact| → f.RoundedOnce .rne sat ((1 / x.exact : ℚ) : ℝ) (f.rcp sat x)) ∧
      (|1 / x.exact| < f.normal → f.rcp sat x = (f.zero a, { uf := true, nx := true })))

/-- R48, R65, R170: the exact steps between operands and rounding: products and sums of finite values are exact, a zero sum has the sign that R170
names, a difference of infinities or a product of zero and infinity is invalid and a NaN operand gives a NaN. R52, R53, R54, R55, R59, R171: the
values that the manual tabulates: K8 codes, conversions into K8 in RNE from F32, FRCP's boundary cases. R171: FEXP2, FLOG2, FSIN, FCOS and FTANH at
their special inputs and in their exact cases, and inexact everywhere else. That an inexact result of these five is the correctly rounded one rests on
assumption 11 and is no clause here. -/
def Obligations.ExactStepsAndTables : Prop :=
  ((∀ (r : Rnd) (a b : Bool) (m n : Nat) (e g : Int),
     let x := FV.fin a m e
     let y := FV.fin b n g
     (x.mul y).finite = true ∧ (x.mul y).exact = x.exact * y.exact ∧ (x.mul y).neg = (a != b) ∧
     (x.add r y).finite = true ∧ (x.add r y).exact = x.exact + y.exact ∧
     (x.exact + y.exact = 0 → (x.add r y).neg = if m = 0 ∧ n = 0 ∧ a = b then a else r == .rdn)) ∧
   (∀ (r : Rnd) (vs : List FV), vs.all FV.finite = true →
     (sumAll r vs).finite = true ∧ (sumAll r vs).exact = (vs.map FV.exact).sum) ∧
   (∀ (r : Rnd) (a b : Bool) (s : Bool) (m : Nat) (e : Int) (y : FV),
     (FV.inf a).add r (FV.inf b) = (if a = b then FV.inf a else FV.nan true) ∧ (FV.inf a).mul (FV.inf b) = FV.inf (a != b) ∧
     (FV.inf a).mul (FV.fin b m e) = (if m = 0 then FV.nan true else FV.inf (a != b)) ∧ (FV.inf a).add r (FV.fin b m e) = FV.inf a ∧
     ((FV.nan s).mul y).isNan = true ∧ (y.mul (FV.nan s)).isNan = true ∧ ((FV.nan s).add r y).isNan = true ∧ (y.add r (FV.nan s)).isNan = true) ∧
   (∀ (f : Fmt) (r : Rnd) (sat a b : Bool) (m c : Nat) (e : Int), f ∈ [Fmt.f64, Fmt.f32, Fmt.f16, Fmt.bf16] → m ≠ 0 →
     f.sqrt r sat (.fin true 0 e) = (f.zero true, {}) ∧ f.sqrt r sat (.fin true m e) = (f.nan, { nv := true }) ∧
     f.div r sat (.fin a m e) (.fin b 0 0) = (f.inf (a != b), { dz := true }) ∧
     f.deliver r sat (.nan a) = (f.nan, { nv := a }) ∧ f.deliver r sat (.inf a) = (f.inf a, {}) ∧
     f.decode f.nan = .nan false ∧ (f.pick a c f.nan).1 = f.nan ∧ (f.pick a f.nan c).1 = f.nan)) ∧
  ((∀ row ∈ ([(0x00, 0), (0x01, 1 / 512), (0x07, 7 / 512), (0x08, 1 / 64), (0x38, 1), (0x7F, 480), (0xFF, -480)] : List (Nat × ℚ)),
     (Fmt.kay8.decode row.1).finite = true ∧ (Fmt.kay8.decode row.1).exact = row.2) ∧
   Fmt.kay8.decode 0x80 = .nan false ∧
   (∀ row ∈ ([ (0x00000000, 0x00, {}), (0x80000000, 0x00, {}), (0x3A800000, 0x00, { uf := true, nx := true }),
               (0xBA800000, 0x00, { uf := true, nx := true }), (0x3AC00000, 0x01, { uf := true, nx := true }), (0x3B000000, 0x01, {}),
               (0x3C700000, 0x08, { nx := true }), (0x3F880000, 0x38, { nx := true }), (0x43E80000, 0x7E, { nx := true }),
               (0x43EB0000, 0x7F, { nx := true }), (0x43F00000, 0x7F, {}), (0x447A0000, 0x7F, { ovf := true, nx := true }),
               (0x7F800000, 0x7F, { ovf := true, nx := true }), (0xC47A0000, 0xFF, { ovf := true, nx := true }),
               (0xFF800000, 0xFF, { ovf := true, nx := true }), (0x7FC00000, 0x80, {}), (0x7F800001, 0x80, { nv := true }) ]
       : List (Nat × Nat × FFlags)),
     Fmt.kay8.deliver .rne false (Fmt.f32.decode row.1) = row.2) ∧
   (∀ row ∈ ([ (0x77, 0), (0x00, 2), (0x88, -2), (0x01, 3 / 2), (0x07, 1), (0x70, 1), (0x11, 1), (0x76, 1 / 64) ] : List (Nat × ℚ)),
     (dyDecode row.1).exact = row.2) ∧
   (∀ row ∈ ([ (0x40400000, 0x3EAAAAAB, { nx := true }), (0x00400000, 0x7F000000, {}), (0x00100000, 0x7F800000, { ovf := true, nx := true }),
               (0x7E800000, 0x00800000, {}), (0x7F000000, 0x00000000, { uf := true, nx := true }), (0x80000000, 0xFF800000, { dz := true }),
               (0x7F800000, 0x00000000, {}) ] : List (Nat × Nat × FFlags)),
     Fmt.f32.rcp false (Fmt.f32.decode row.1) = row.2)) ∧
  -- FEXP2, FLOG2, FSIN, FCOS, FTANH: the special inputs, the exact cases, and inexact everywhere else
  (∀ (f : Fmt) (a : Nat), f ∈ [Fmt.f32, Fmt.f16, Fmt.bf16] →
    let x := f.decode a
    let gives := fun (y : Nat × FFlags) (q : ℚ) => (f.decode y.1).finite = true ∧ (f.decode y.1).exact = q ∧ y.2 = {}
    let inexact := fun (y : Nat × FFlags) => y.2.nx = true ∧ y.2.nv = false ∧ y.2.dz = false
    let invalid := (f.nan, ({ nv := true } : FFlags))
    (∀ sg, x = .nan sg → ∀ y, y ∈ [f.exp2 x, f.log2 x, f.sinPi x, f.cosPi x, f.tanh x] → y = (f.nan, { nv := sg })) ∧
    (∀ neg, x = .inf neg → f.exp2 x = (if neg then f.zero false else f.inf false, {}) ∧ f.log2 x = (if neg then invalid else (f.inf false, {})) ∧
      f.sinPi x = invalid ∧ f.cosPi x = invalid ∧ gives (f.tanh x) (if neg then -1 else 1)) ∧
    (x.finite = true →
      let v := x.exact
      let integer := ∃ z : ℤ, v = z
      let halves := ∃ z : ℤ, v = z + 1 / 2
      (∀ z : ℤ, v = z → f.qmin ≤ z → z ≤ f.bias → gives (f.exp2 x) ((2 : ℚ) ^ z)) ∧
      (¬(∃ z : ℤ, v = z ∧ f.qmin ≤ z ∧ z ≤ f.bias) → inexact (f.exp2 x)) ∧
      (v = 0 → f.log2 x = (f.inf true, { dz := true }) ∧ f.tanh x = (f.zero x.neg, {})) ∧ (v < 0 → f.log2 x = invalid) ∧
      (∀ z : ℤ, v = (2 : ℚ) ^ z → gives (f.log2 x) z ∧ (f.decode (f.log2 x).1).neg = decide (z < 0)) ∧
      (0 < v → (∀ z : ℤ, v ≠ (2 : ℚ) ^ z) → inexact (f.log2 x)) ∧
      (∀ z : ℤ, v = z → f.sinPi x = (f.zero x.neg, {}) ∧ gives (f.cosPi x) (if z % 2 = 0 then 1 else -1)) ∧
      (∀ z : ℤ, v = z + 1 / 2 → gives (f.sinPi x) (if z % 2 = 0 then 1 else -1) ∧ f.cosPi x = (f.zero false, {})) ∧
      (¬integer → ¬halves → inexact (f.sinPi x) ∧ inexact (f.cosPi x)) ∧
      (v ≠ 0 → inexact (f.tanh x))))

/-! ### Packed and cross-lane instructions -/

/-- R65, R176 to R179: dot products are exact sums rounded, wrapped or saturated once; VPACK, VUNPK, VPERM, VINS and VEXT move elements; VSAD sums
absolute differences (R175). -/
def Obligations.PackedResults : Prop :=
  ∀ (s : State) (L : Mask) (o : Ops), s.Issuing →
    let w := o.ty.width
    let A := fun k => s.opA o k
    let B := fun k => s.opB o k
    let C := fun k => s.opC o k
    let products := fun k => ((List.range o.ty.count).map fun j => valueOf o.ty (sub (A k) w j) * valueOf o.ty (sub (B k) w j)).sum
    let decode := (Fmt.of o.ty).decode
    let product := fun (x y : Nat) => -- a zero product of two K8 elements is +0 (R410)
      match (decode x).mul (decode y) with
      | .fin n m e => if m = 0 ∧ o.ty = .k8 then FV.fin false 0 0 else .fin n m e
      | v => v
    let fproducts := fun k => (List.range o.ty.count).map fun j => product (sub (A k) w j) (sub (B k) w j)
    let c64 := fun k => if o.ty.signed then (C k).toInt else ((C k).toNat : Int)
    (∀ (i : Instr) (op : Nat) (x : Nat → Int), (i, op, x) ∈ [(Instr.vdot o, 0x80, fun _ => 0), (Instr.vdota o, 0x81, c64)] →
      i.wf = true → o.ty.isInt = true → s.checks op o = .ok L →
      s.Delivers (exec i s) o L (fun k => word (narrowTo o.ty.signed 64 o.sat (products k + x k))) noReg noReg (fun _ => 0) (fun _ => false)) ∧
    (∀ (i : Instr) (op : Nat) (x : Nat → List FV),
      (i, op, x) ∈ [(Instr.vdot o, 0x80, fun _ => []), (Instr.vdota o, 0x81, fun k => [Fmt.f32.decode (sub (C k) 32 0)])] →
      i.wf = true → o.ty.isInt = false → s.checks op o = .ok L →
      let out := fun k => Fmt.f32.deliver o.rnd o.sat (sumAll o.rnd (fproducts k ++ x k))
      s.Delivers (exec i s) o L (fun k => word (out k).1) noReg noReg (fun k => if L.getLsbD k then (out k).2.bits else 0) (fun _ => false)) ∧
    (∀ (i : Instr) (op u n : Nat) (f : Nat → Nat → Nat),
      (i, op, u, n, f) ∈
        [ (Instr.vpack o, 0x82, w, 64 / w, fun k j =>
            let half := 64 / (2 * w)
            let x := if j < half then sub (A k) (2 * w) j else sub (B k) (2 * w) (j - half)
            narrowTo o.ty.signed w o.sat (if o.ty.signed then signedOf (2 * w) x else (x : Int))),
          (Instr.vunpk o, 0x83, 2 * w, 64 / (2 * w), fun k j =>
            wrapTo (2 * w) (valueOf o.ty (sub (A k) w (o.opmod.toNat % 2 * (64 / (2 * w)) + j)))),
          (Instr.vperm o, 0x84, 8, 8, fun k m =>
            let sel := sub (C k) 8 m
            if 128 ≤ sel then 0 else if sel % 16 < 8 then sub (A k) 8 (sel % 16) else sub (B k) 8 (sel % 16 - 8)),
          (Instr.vins o, 0x87, w, o.ty.count, fun k j => if j = o.b.toNat then sub (A k) w 0 else sub (s.dstBefore o k) w j) ] →
      i.wf = true → s.checks op o = .ok L →
      ∃ val, s.Delivers (exec i s) o L val noReg noReg (fun _ => 0) (fun _ => false) ∧
        ∀ k j, L.getLsbD k = true → j < n → sub (val k) u j = f k j % 2 ^ u) ∧
    (∀ (i : Instr) (op : Nat) (v : Nat → Word),
      (i, op, v) ∈
        [ (Instr.vsad o, 0x85, fun k => C k + word ((List.range o.ty.count).map fun j =>
            (valueOf o.ty (sub (A k) w j) - valueOf o.ty (sub (B k) w j)).natAbs).sum),
          (Instr.vext o, 0x88, fun k =>
            let x := sub (A k) w o.b.toNat
            if o.ty.signed then BitVec.ofInt 64 (signedOf w x) else word x) ] →
      i.wf = true → s.checks op o = .ok L →
      s.Delivers (exec i s) o L v noReg noReg (fun _ => 0) (fun _ => false))

/-- R66, R67, R182, R184, R185, R186: reductions and scans follow their trees over the lanes that take part, the others bringing identities;
XSHFL and XBCAST read other lanes; XBALLOT and XMATCH deliver masks of lanes. -/
def Obligations.CrossLaneResults : Prop :=
  ∀ (s : State) (L : Mask) (o : Ops), s.Issuing →
    let w := o.ty.width
    let op := o.opmod.toNat % 4
    let f := combine o.ty op o.rnd o.sat
    let x := fun j => s.taking o L op j
    (s.checks 0xA2 o = .ok L → s.FlaggedResult (.xred o) o L (fun _ j => (treeAt f (x j) 5 0, treeFlags f (x j))) (fun _ => false)) ∧
    (s.checks 0xA3 o = .ok L →
      s.FlaggedResult (.xscan o) o L
        (fun k j => (if 4 ≤ o.opmod.toNat then (if k = 0 then identity o.ty op else scanAt f (x j) 5 (k - 1)) else scanAt f (x j) 5 k,
          scanFlags f (x j)))
        (fun _ => false)) ∧
    (s.checks 0xA0 o = .ok L →
      let index := fun k j => sub (s.opB o k) w j
      let d := fun k j => index k j % 32
      let lane := fun k j =>
        match o.opmod.toNat % 4 with
        | 0 => d k j
        | 1 => if d k j ≤ k then k - d k j else k
        | 2 => if k + d k j < 32 then k + d k j else k
        | _ => k ^^^ d k j
      let elem := fun k j => if o.opmod.toNat % 4 = 0 then index k j / 32 % o.ty.count else j
      s.crossChecks o L (fun k => (List.range (elemCount o)).map (lane k)) = none →
      ∃ val, s.Delivers (exec (.xshfl o) s) o L val noReg noReg (fun _ => 0) (fun _ => false) ∧
        ∀ k j, L.getLsbD k = true → j < o.ty.count →
          sub (val k) w j = if o.lo = true ∧ j ≠ 0 then sub (s.dstBefore o k) w j else sub (s.opA o (lane k j)) w (elem k j)) ∧
    ((Instr.xbcast o).wf = true → s.checks 0xA1 o = .ok L → (∀ k, L.getLsbD k = true → s.opBNat o k = s.opBNat o (lowest L)) →
      let b := s.opBNat o (lowest L)
      let lane := b.toNat % 32
      s.crossChecks o L (fun _ => [lane]) = none →
      ∃ val, s.Delivers (exec (.xbcast o) s) o L val noReg noReg (fun _ => 0) (fun _ => false) ∧
        ∀ k j, L.getLsbD k = true → j < o.ty.count →
          sub (val k) w j = sub (s.opA o lane) w (if o.opmod.toNat % 2 = 1 then b.toNat / 2 ^ 8 % 8 % o.ty.count else j)) ∧
    ((Instr.xballot o).wf = true → s.checks 0xA4 o = .ok L →
      ∃ val, s.Delivers (exec (.xballot o) s) o L val noReg noReg (fun _ => 0) (fun _ => false) ∧
        ∀ k j, L.getLsbD k = true → j < 64 →
          (val k).getLsbD j = (L.getLsbD j && (s.regP j (s.cl j) o.a.toNat != (o.opmod.toNat % 2 == 1)))) ∧
    ((Instr.xmatch o).wf = true → s.checks 0xA6 o = .ok L →
      ∃ val, s.Delivers (exec (.xmatch o) s) o L val noReg noReg (fun _ => 0) (fun _ => false) ∧
        ∀ k j, L.getLsbD k = true → j < 64 → (val k).getLsbD j = (L.getLsbD j && s.opA o j == s.opA o k))

/-- R66, R67: of integers, the tree of XRED and the scan of XSCAN are the sum modulo 2^w, the minimum or the maximum of what the lanes bring. -/
def Obligations.IntegerTreesAreSums : Prop :=
  ∀ (t : Ty) (r : Rnd) (x : Nat → Nat) (k : Nat), t.isInt = true → (∀ j, x j < 2 ^ t.width) → k < 32 →
    let fold := fun (op n : Nat) =>
      match op with
      | 0 => wrapTo t.width ((List.range n).map fun j => valueOf t (x j)).sum
      | 1 => wrapTo t.width ((List.range n).foldl (fun m j => min m (valueOf t (x j))) (valueOf t (x 0)))
      | _ => wrapTo t.width ((List.range n).foldl (fun m j => max m (valueOf t (x j))) (valueOf t (x 0)))
    ∀ op, op < 3 → treeAt (combine t op r false) x 5 0 = fold op 32 ∧ scanAt (combine t op r false) x 5 k = fold op (k + 1)

/-- R188: PAND, POR, PXOR, PNOT and the forms of PMOV. With them what votes and compares write (R186, R187): predicates of the guarded lanes; a
zeroing compare clears its pair in the other lanes of the bundle (under ?!p7, which no lane can meet, in another statement); a compare raises its flags
in the guarded lanes. -/
def Obligations.ComparesAndPredicates : Prop :=
  (∀ (s : State) (L : Mask) (o : Ops), s.Issuing →
    let P := fun k n => s.regP k (s.cl k) n
    let kind := o.opmod.toNat
    let a0 := fun k => sub (s.opA o k) o.ty.width 0
    let b0 := fun k => sub (s.opB o k) o.ty.width 0
    let old := fun k => (P k (o.dst.toNat % 8), P k (o.dst.toNat / 8 % 8))
    let written := fun (c : Nat → Bool) (k : Nat) =>
      if L.getLsbD k then
        let d := if kind % 2 = 1 then !c k else c k
        if kind < 4 then (d, !d) else if kind < 6 then ((old k).1 && d, (old k).2 || !d) else ((old k).1 || d, (old k).2 && !d)
      else (false, false)
    let M := if kind / 2 = 1 then s.cur.lanes else L
    let x := fun k => (Fmt.of o.ty).decode (a0 k)
    let y := fun k => (Fmt.of o.ty).decode (b0 k)
    let un := fun k => (x k).isNan || (y k).isNan
    ((Instr.icmp o).wf = true → s.checks 0xA7 o = .ok L → (kind / 2 = 1 → o.guard ≠ ⟨true, 7⟩) → ∀ c,
      (o.c.toNat, c) ∈
        [ (0, fun k => decide (valueOf o.ty (a0 k) = valueOf o.ty (b0 k))), (1, fun k => decide (valueOf o.ty (a0 k) ≠ valueOf o.ty (b0 k))),
          (2, fun k => decide (valueOf o.ty (a0 k) < valueOf o.ty (b0 k))), (3, fun k => decide (valueOf o.ty (a0 k) ≤ valueOf o.ty (b0 k))),
          (4, fun k => decide (valueOf o.ty (b0 k) < valueOf o.ty (a0 k))), (5, fun k => decide (valueOf o.ty (b0 k) ≤ valueOf o.ty (a0 k))) ] →
      s.PredicateResult (.icmp o) o (pairOf o M) (pairValue o (written c)) (fun _ => 0)) ∧
    ((Instr.fcmp o).wf = true → s.checks 0xA8 o = .ok L → (kind / 2 = 1 → o.guard ≠ ⟨true, 7⟩) → ∀ c,
      (o.c.toNat, c) ∈
        [ (0, fun k => !un k && (x k).same (y k)), (1, fun k => un k || !(x k).same (y k)), (2, fun k => !un k && (x k).lt false (y k)),
          (3, fun k => !un k && !(y k).lt false (x k)), (4, fun k => !un k && (y k).lt false (x k)),
          (5, fun k => !un k && !(x k).lt false (y k)), (6, un), (7, fun k => !un k) ] →
      s.PredicateResult (.fcmp o) o (pairOf o M) (pairValue o (written c)) (fun k =>
        if L.getLsbD k && ((x k).snan || (y k).snan || (un k && (2 ≤ o.c.toNat && o.c.toNat ≤ 5))) then (FFlags.mk true false false false false).bits
        else 0)) ∧
    ((Instr.xvote o).wf = true → s.checks 0xA5 o = .ok L → ∀ c,
      (o.opmod.toNat % 4, c) ∈
        [ (0, (lanes L).all fun j => P j o.a.toNat), (1, (lanes L).any fun j => P j o.a.toNat),
          (2, (lanes L).all fun j => (lanes L).all fun i => P j o.a.toNat == P i o.a.toNat) ] →
      s.PredicateResult (.xvote o) o (pairOf o L) (pairValue o fun _ => (c, !c)) (fun _ => 0)) ∧
    (∀ (i : Instr) (op : Nat) (f : Bool → Bool → Bool),
      (i, op, f) ∈
        [ (Instr.pand o, 0xA9, fun a b => a && b), (Instr.por o, 0xAA, fun a b => a || b), (Instr.pxor o, 0xAB, fun a b => a != b),
          (Instr.pnot o, 0xAC, fun a _ => !a) ] →
      i.wf = true → s.checks op o = .ok L →
      s.PredicateResult i o (predOf L o.dst.toNat)
        (fun k _ => f (P k o.a.toNat != (kind % 2 == 1)) (P k o.b.toNat != (kind / 2 % 2 == 1))) (fun _ => 0)) ∧
    ((Instr.pmov o).wf = true → s.checks 0xAD o = .ok L →
      (kind = 0 → s.PredicateResult (.pmov o) o (predOf L o.dst.toNat) (fun k _ => P k o.a.toNat) (fun _ => 0)) ∧
      (kind = 2 → s.PredicateResult (.pmov o) o (fun k n => L.getLsbD k && decide (n < 7)) (fun k n => (s.opA o k).getLsbD n) (fun _ => 0)) ∧
      (kind = 1 → ∃ val, s.Delivers (exec (.pmov o) s) o L val noReg noReg (fun _ => 0) (fun _ => false) ∧
        ∀ k j, L.getLsbD k = true → j < 64 → (val k).getLsbD j = if j < 7 then P k j else j == 7))) ∧
  -- PMOV's op_mod 0b11, and a destination of PMOV.set; XVOTE's 0b11; ICMP.UN and ICMP.ORD
  IllegalFields 0xAD (fun p => p / 2 ^ 61 % 4 = 3 ∨ p / 2 ^ 61 % 4 = 2 ∧ p / 2 ^ 20 % 2 ^ 7 ≠ 0) ∧
  IllegalFields 0xA5 (fun p => p / 2 ^ 61 % 4 = 3) ∧ IllegalFields 0xA7 (fun p => 6 ≤ p / 2 ^ 41 % 8)

/-! ### Control -/

/-- R39, R40, R126: a branch takes the guarded lanes to its label and the others on, and the bundle splits. R127 to R130: a transfer whose targets
are aligned addresses of Flidan pages takes each guarded lane to its own target; CALL and CALLI write the return address into d1. -/
def Obligations.BranchesAndTransfers : Prop :=
  ∀ (s : State) (L : Mask) (o p : Ops) (c : C32) (i : Instr) (op : Nat), s.Issuing → s.Running →
    let c0 := compactOps c .i8 0 0 0
    let ret := s.cur.pc + word s.cur.len
    let back := c0 (some (compactLit 14 (c.b.toNat * 128 + c.dst.toNat)))
    let d1 := compactOps c .i8 0 1 0 none
    (∀ target : Word,
      (i, op, p, target) ∈
        [ (Instr.bra o, 0xC0, o, s.cur.pc + 4 * BitVec.signExtend 64 (o.lit.getD 0)),
          (Instr.braC32 c, 0xC0, back, s.cur.pc + 4 * BitVec.signExtend 64 (c.b ++ c.dst)) ] →
      s.checks op p = .ok L →
      s.SplitResult s i fun k t => s.goesTo p t (if L.getLsbD k then target else t.pc + word s.cur.len)) ∧
    (∀ (link : Bool) (target : Nat → Word),
      (i, op, p, link, target) ∈
        [ (Instr.brx o, 0xC1, o, false, fun k => s.opA o k), (Instr.calli o, 0xC3, o, true, fun k => s.opA o k),
          (Instr.call o, 0xC2, o, true, fun _ => s.cur.pc + 4 * BitVec.signExtend 64 (o.lit.getD 0)),
          (Instr.ret o, 0xC4, o, false, fun k => s.opA o k), (Instr.retC32 c, 0xC4, d1, false, fun k => s.regD k (s.cl k) 1) ] →
      s.checks op p = .ok L → (∀ k, L.getLsbD k = true → (target k).toNat % 4 = 0) →
      (∀ e ∈ (s.landings target (lanes L)).2, e.2 = .stay) →
      s.SplitResult (s.landings target (lanes L)).1 i fun k t =>
        if L.getLsbD k then s.goesTo p (if link then t.setD 1 ret else t) (target k) else s.goesOn p t) ∧
    (∀ target : Nat → Word,
      (i, op, p, target) ∈
        [ (Instr.brx o, 0xC1, o, fun k => s.opA o k), (Instr.calli o, 0xC3, o, fun k => s.opA o k), (Instr.ret o, 0xC4, o, fun k => s.opA o k),
          (Instr.retC32 c, 0xC4, d1, fun k => s.regD k (s.cl k) 1) ] →
      s.checks op p = .ok L →
      let bad := those L fun k => (target k).toNat % 4 != 0
      bad ≠ 0 →
      exec i s = .next (s.trap { cause := .misaligned, mask := bad, addr := target (lowest bad), info := s.freeInfo }))

/-- R103, R109, R132: EXIT ends the guarded threads: each leaves its bundle and every mask and arrival mask, which may complete a round; the other
threads of the bundle go on. Of a gang that is in no group, not widened and under no request of pre-emption. -/
def Obligations.ExitEndsThreads : Prop :=
  ∀ (s : State) (L : Mask) (o p : Ops) (c : C32) (i : Instr), s.Issuing → s.Running →
    (i, p) ∈ [(Instr.exit o, o), (Instr.exitC32 c, compactOps c .i8 0 0 0 none)] → s.checks 0xC5 p = .ok L →
    s.groupsOf s.cg = [] → s.cg.widened = none → s.cg.request = none →
    let m' := fun K => s.cg.getM K &&& ~~~L
    let a' := fun K => s.cg.getA K &&& ~~~L
    let done := fun K => K < 12 ∧ a' K ≠ 0 ∧ a' K = m' K
    ∃ t, exec i s = .next t ∧ s.OnlyGang t ∧ t.cg = { s.cg with m := t.cg.m, arrive := t.cg.arrive, threads := t.cg.threads } ∧
      (∀ K < 12, t.cg.getM K = m' K ∧ t.cg.getA K = if a' K ≠ 0 ∧ a' K = m' K then 0 else a' K) ∧
      t.SplitBy s.cur.lanes ∧
      ∀ k < 32,
        (L.getLsbD k = true → t.cl k = { s.cl k with cond := .exited, bundle := none, wait := .no, waitLen := 0 }) ∧
        (L.getLsbD k = false → s.cur.lanes.getLsbD k = true → ∃ b, t.cl k = { s.goesOn p (s.cl k) with bundle := b }) ∧
        (s.cur.lanes.getLsbD k = false → ∀ K, (s.cl k).cond = .held K → (s.cl k).wait = .no →
          (done K → t.cl k = (s.cl k).released) ∧ (¬done K → t.cl k = s.cl k)) ∧
        (s.cur.lanes.getLsbD k = false → (s.cl k).cond = .runnable ∧ (s.cl k).wait = .no → t.cl k = s.cl k)

/-- R136: MOP computes a new member mask, an event of R109; its reserved forms are illegal. With it JOIN, LEAVE and MSET (R109, R134, R135): each writes
a member mask and its arrivals, which may complete a round (R108); every thread of the bundle goes on. -/
def Obligations.MaskWrites : Prop :=
  (∀ (s : State) (L : Mask) (o p : Ops) (c : C32) (i : Instr) (op : Nat) (m' a' : Mask) (dropped : Nat → Bool), s.Issuing → s.Running →
    let K := p.dst.toNat
    let m := s.cg.getM K
    let a := s.cg.getA K
    let cm := compactOps c .i8 c.dst 0 0 none
    let v := (s.opBNat o (lowest L)).setWidth 32
    let x := s.cg.getM o.a.toNat
    let y := s.cg.getM o.b.toNat
    let mop := fun (w : Mask) => (Instr.mop o, 0xCC, o, w, a &&& w, fun k => decide (k < 32) && !w.getLsbD k)
    (i, op, p, m', a', dropped) ∈
      [ (Instr.join o, 0xC7, o, m ||| L, a, fun _ => false), (Instr.joinC32 c, 0xC7, cm, m ||| L, a, fun _ => false),
        (Instr.leave o, 0xC8, o, m &&& ~~~L, a &&& ~~~L, fun _ => false), (Instr.leaveC32 c, 0xC8, cm, m &&& ~~~L, a &&& ~~~L, fun _ => false) ]
      ∨ (L ≠ 0 ∧ (∀ k, L.getLsbD k = true → s.opBNat o k = s.opBNat o (lowest L)) ∧
          (i, op, p, m', a', dropped) = (Instr.mset o, 0xCA, o, v, a &&& v, fun k => decide (k < 32) && !v.getLsbD k))
      ∨ (L ≠ 0 ∧ (o.opmod.toNat, i, op, p, m', a', dropped) ∈
          [ (0, mop (x &&& y)), (1, mop (x ||| y)), (2, mop (x ^^^ y)), (3, mop (x &&& ~~~y)), (4, mop x), (5, mop (~~~x)),
            (6, mop (x &&& those (BitVec.allOnes 32) fun k => (s.cl k).cond != .exited)) ]) →
    s.checks op p = .ok L →
    ∃ t, exec i s = .next t ∧ s.MaskEvent t K m' a' dropped ∧ ∀ k, s.cur.lanes.getLsbD k = true → t.cl k = s.goesOn p (s.cl k)) ∧
  -- op_mod 0b111, and a second source where there is none
  IllegalFields 0xCC fun p => p / 2 ^ 61 % 8 = 7 ∨ 4 ≤ p / 2 ^ 61 % 8 ∧ p / 2 ^ 34 % 2 ^ 7 ≠ 0

/-- R109 to R111, R134: WAIT counts the members among the guarded lanes as arrived; those at their meeting address are held there unless this arrival
completes the round; every other lane goes on. WAIT mK, dN first fixes the member mask, on which the lanes must agree. R133, R141 to R143, R39, R40:
MEET sets the meeting address; YIELD, PAUSE and NOP change nothing that programs see but the pc. That YIELD gives up the slot with no guarded lane
too, that PAUSE replaces an earlier lowering and that PAUSE 0 changes nothing is the model's choice (assumptions 77, 78). -/
def Obligations.WaitsMeetsAndHints : Prop :=
  (∀ (s : State) (L : Mask) (o p : Ops) (c : C32) (i : Instr), s.Issuing → s.Running → (∀ k, k < 32 → (s.cl k).cond ≠ .stopped .safePoint) →
     (i, p) ∈ [(Instr.wait o, o), (Instr.waitC32 c, compactOps c .i8 c.dst 0 0 none)] → s.checks 0xC9 p = .ok L →
     let K := p.dst.toNat
     let low := fun k => (s.opA p k).setWidth 32
     let fixed := p.opmod.toNat = 1
     let differ := those L fun k => low k != low (lowest L)
     let trap := fun m => Host.Outcome.next (s.trap { cause := .maskDisagree, mask := m, addr := s.freeAddr, info := s.freeInfo })
     (fixed → differ ≠ 0 → exec i s = trap differ) ∧
     (fixed → L ≠ 0 → differ = 0 → s.cg.getA K ≠ 0 → low (lowest L) ≠ s.cg.getM K → exec i s = trap L) ∧
     ∀ m, (¬fixed ∨ L = 0) ∧ m = s.cg.getM K ∨ fixed ∧ L ≠ 0 ∧ differ = 0 ∧ m = low (lowest L) ∧ (s.cg.getA K = 0 ∨ m = s.cg.getM K) →
       let a' := s.cg.getA K ||| (L &&& m)
       let held := fun k => (L &&& m).getLsbD k && (s.cl k).meet != 0 && (s.cl k).pc == (s.cl k).meet && !decide (a' ≠ 0 ∧ a' = m)
       ∃ t, exec i s = .next t ∧ s.MaskEvent t K m a' (fun _ => false) ∧ t.SplitBy s.cur.lanes ∧
         ∀ k, s.cur.lanes.getLsbD k = true → ∃ b, t.cl k =
           if held k then { s.goesTo p (s.cl k) (s.cl k).pc with cond := .held K, waitLen := s.cur.len, bundle := none }
           else { s.goesOn p (s.cl k) with bundle := b }) ∧
  (∀ (s : State) (L : Mask) (o p : Ops) (c : C32) (i : Instr) (op : Nat) (f : Nat → Thread → Thread), s.Issuing →
     let bare := compactOps c .i8 0 0 0 none
     let pause := fun (q : Ops) (n : Nat) (t : Thread) => if L = 0 ∨ n = 0 then s.goesOn q t else { s.goesOn q t with pauseUntil := s.clock + n }
     (i, op, p, f) ∈
       [ (Instr.meet o, 0xC6, o, fun k t => if L.getLsbD k then
             { s.goesOn o t with meet := match o.lit with
               | some l => s.cur.pc + 4 * BitVec.signExtend 64 l
               | none => s.opA o k }
           else s.goesOn o t),
         (Instr.yield o, 0xCF, o, fun _ t => { s.goesOn o t with yields := true }),
         (Instr.yieldC32 c, 0xCF, bare, fun _ t => { s.goesOn bare t with yields := true }),
         (Instr.pause o, 0xD0, o, fun _ t => pause o (match o.lit with | some l => l.toNat | none => o.a.toNat) t),
         (Instr.pauseC32 c, 0xD0, compactOps c .i8 0 c.b 0 none, fun _ t => pause bare c.b.toNat t),
         (Instr.nop o, 0xD1, o, fun _ t => s.goesOn o t),
         (Instr.nopC32 c, 0xD1, bare, fun _ t => s.goesOn bare t) ] →
     s.checks op p = .ok L → s.ThreadResult i f)

/-- R138, R139: WIDEN spreads an eligible thread over lanes 0 to count − 1, and otherwise only clears its predicate; NARROW does nothing in a gang that
is not widened, ends other lanes than lane 0, and lane 0 goes on when it is alone, its gang no longer widened. -/
def Obligations.WidenAndNarrow : Prop :=
  ∀ (s : State) (L : Mask) (o : Ops), s.Issuing → s.Running →
    let count := fun k => (s.opA o k).toNat
    let stride := fun k => s.opBNat o k
    let eligible := s.cg.byCrossing = true ∧ s.cg.widened = none ∧ ∀ k, 0 < k → k < 32 → (s.cl k).cond = .exited
    let t0 := s.cl 0
    -- lane 0's registers, its results that are on their way delivered (R26)
    let r0 := s.settled 0 t0
    (s.checks 0xCD o = .ok L →
      let many := those L fun k => decide (count k = 0 ∨ 32 < count k)
      let odd := those L fun k => (stride k).toNat % 16 != 0
      (many ≠ 0 → exec (.widen o) s = .next (s.trap { cause := .illegalInsn, mask := many, addr := 0, info := s.cur.raw })) ∧
      (many = 0 → odd ≠ 0 →
        exec (.widen o) s = .next (s.trap { cause := .misaligned, mask := odd, addr := stride (lowest odd), info := s.freeInfo })) ∧
      (many = 0 → odd = 0 → (¬eligible ∨ L = 0) →
        s.ThreadResult (.widen o) fun k t => s.goesOn o (if L.getLsbD k then t.setP o.dst.toNat false else t)) ∧
      (many = 0 → odd = 0 → eligible → L = 1 → s.cur.lanes = 1 →
        ∃ t, exec (.widen o) s = .next t ∧ s.OnlyGang t ∧ t.cg = { s.cg with widened := some (count 0), threads := t.cg.threads } ∧
          t.cl 0 = s.goesOn o (t0.setP o.dst.toNat true) ∧
          ∀ k, 0 < k → k < 32 →
            (count 0 ≤ k → t.cl k = s.cl k) ∧
            (k < count 0 →
              (∀ n, (t.cl k).getD n = if n = 2 then r0.getD 2 - word k * stride 0 else r0.getD n) ∧ (t.cl k).h = t0.h ∧
              (t.cl k).p = (r0.setP o.dst.toNat true).p ∧ (t.cl k).ix = t0.ix ∧ (t.cl k).fflags = t0.fflags ∧
              (t.cl k).pc = s.cur.pc + word s.cur.len ∧ (t.cl k).meet = 0 ∧ (t.cl k).hzn = t0.hzn ∧
              (t.cl k).cond = .runnable ∧ (t.cl k).bundle = none))) ∧
    (s.checks 0xCE o = .ok L →
      (s.cg.widened = none → s.ThreadResult (.narrow o) fun _ t => s.goesOn o t) ∧
      (s.cg.widened ≠ none → L = 1 → s.cur.lanes = 1 → s.cg.request = none → s.groupsOf s.cg = [] →
        (∀ K < 12, s.cg.getA K = 0) →
        ∃ t, exec (.narrow o) s = .next t ∧ s.OnlyGang t ∧
          if (List.range 31).all fun k => (s.cl (k + 1)).cond == .exited then
            t.cg = { s.cg with widened := none, threads := t.cg.threads } ∧
              t.cl 0 = { s.goesOn o (s.cl 0) with bundle := (t.cl 0).bundle, waitLen := 0 }
          else
            t.cg = { s.cg with threads := t.cg.threads } ∧
              t.cl 0 = { s.goesTo o (s.cl 0) (s.cl 0).pc with wait := .narrow, waitLen := s.cur.len, bundle := (t.cl 0).bundle }) ∧
      (s.cg.widened ≠ none →
        ∃ t, exec (.narrow o) s = .next t ∧ ∀ k, 0 < k → k < 32 → L.getLsbD k = true → (t.cl k).cond = .exited))

/-! ### Synchronisation -/

/-- R146 to R149, R152: BARI sets a barrier's round up, BARX declares bytes, BARA and BARW arrive, each with a completion check; BARW's lanes wait
until the round completes, BARA delivers the generation; BART tests it. At a barrier that a failed copy marked BARW, BARA and BART raise its cause (R151).
That arrivals count modulo 4096 is the model's choice (assumption 80). -/
def Obligations.CoreBarriers : Prop :=
  ∀ (s : State) (L : Mask) (o : Ops) (a : Alloc), s.Issuing → s.Running → s.scratchCanonical → s.cg.byCrossing = false → s.ownAlloc = some a →
    let bd := a.bar o.dst.toNat
    let ba := a.bar o.a.toNat
    let waiting := ((s.gangs.filter fun g => g.inBlock s.cg.launch s.cg.block (coreOf s.cur.gang)).map fun g =>
      (lanes (those (BitVec.allOnes 32) fun k => (g.lane k).cond != .exited && (g.lane k).wait == .bar o.dst.toNat)).length).sum
    let n := (s.opBNat o (lowest L)).toNat
    (∀ (i : Instr) (op : Nat) (b : Bar),
      (i, op, b) ∈
        [ (Instr.bari o, 0xE0, { bd with expected := n, arrivals := waiting, pending := 0, failed := none }),
          (Instr.barx o, 0xE3, { bd with pending := bd.pending + s.opBSigned o (lowest L) }) ] →
      s.checks op o = .ok L → L ≠ 0 → (i = .bari o → 0 < n ∧ n ≤ 2048) →
      (∀ k, L.getLsbD k = true → s.opBNat o k = s.opBNat o (lowest L) ∧ s.opBSigned o k = s.opBSigned o (lowest L)) →
      ∃ t, exec i s = .next t ∧ s.BarrierEvent t o.dst.toNat a b ∧ ∀ k, s.cur.lanes.getLsbD k = true → t.cl k = s.goesOn o (s.cl k)) ∧
    (∀ (i : Instr) (op : Nat) (b : Bar) (cause : Cause) (addr : Word),
      (i, op, b) ∈ [(Instr.barw o, 0xE2, bd), (Instr.bara o, 0xE1, ba), (Instr.bart o, 0xE4, ba)] → s.checks op o = .ok L → L ≠ 0 →
      b.failed = some (cause, addr) → exec i s = .next (s.trap { cause := cause, mask := L, addr := addr, info := s.freeInfo })) ∧
    (s.checks 0xE2 o = .ok L → L ≠ 0 → bd.failed = none →
      let b := { bd with arrivals := (bd.arrivals + (lanes L).length) % 4096 }
      ∃ t, exec (.barw o) s = .next t ∧ s.BarrierEvent t o.dst.toNat a b ∧
        ∀ k, s.cur.lanes.getLsbD k = true → ∃ tag, t.cl k =
          if L.getLsbD k then
            let u := { s.goesTo o (s.cl k) (s.cl k).pc with wait := .bar o.dst.toNat, waitLen := s.cur.len }
            if b.expected ≤ b.arrivals ∧ b.pending = 0 ∧ b.failed = none then u.releasedAfter b.w else { u with bundle := tag }
          else { s.goesOn o (s.cl k) with bundle := tag }) ∧
    (s.checks 0xE1 o = .ok L → ba.failed = none →
      ∃ t, exec (.bara o) s = .next t ∧ (L ≠ 0 → s.BarrierEvent t o.a.toNat a { ba with arrivals := (ba.arrivals + (lanes L).length) % 4096 }) ∧
        (∀ k, s.cur.lanes.getLsbD k = true → Thread.WentOn s o (s.cl k) (t.cl k) ∧ (s.cl k).RegistersOnly (t.cl k) ∧ (t.cl k).p = (s.cl k).p ∧
          (t.cl k).fflags = (s.cl k).fflags ∧
          ∀ m, (t.cl k).getD m = if o.clsD = false ∧ dstOf o L k m = true then mergeLo o ((s.cl k).getD m) (word ba.gen.toNat) else (s.cl k).getD m) ∧
        ∀ m, t.cg.getG m =
          if o.clsD = true ∧ m = o.dst.toNat ∧ m ≠ 0 ∧ L ≠ 0 then mergeLo o (s.cg.getG m) (word ba.gen.toNat) else s.cg.getG m) ∧
    (s.checks 0xE4 o = .ok L → ba.failed = none →
      let past := fun k => ba.gen.toNat != (s.opBNat o k).toNat % 65536
      ∃ t, exec (.bart o) s = .next t ∧ s.OnlyBundle t ∧
        ∀ k, s.cur.lanes.getLsbD k = true →
          Thread.WentOn s o (s.cl k) (t.cl k) ∧ (s.cl k).RegistersOnly { t.cl k with hzn := (s.cl k).hzn } ∧ (t.cl k).d = (s.cl k).d ∧
          (t.cl k).fflags = (s.cl k).fflags ∧
          (t.cl k).hzn = (if L.getLsbD k && past k then word (max (momentOf ba.w (s.cl k).hzn) ba.w) else (s.cl k).hzn) ∧
          ∀ m, (t.cl k).getP m = if pairOf o L k m then pairValue o (fun k => (past k, !past k)) k m else (s.cl k).getP m)

/-- R153 to R155: GBAR, GBAR.arrive and GBARP record the arrivals of the guarded lanes at a group, once their releases are complete, and the
completion check follows; GWAIT lets the lanes go on whose recorded round has completed. R116, R153: a round of a group of this device completes when every thread of every member gang has arrived or exited: the round counts on and is
cleared, and the threads that wait there in GBAR or GWAIT go on; else nothing happens. Where no member gang ends its phase (R118, R155). -/
def Obligations.GroupBarriers : Prop :=
  (∀ (s : State) (L : Mask) (o : Ops) (i : Instr) (op : Nat), s.Issuing → s.Running →
     let q := (s.opBNat o (lowest L)).toNat
     let member := q ≤ 255 ∧ s.isMember s.cg q = true
     let waits := fun (f : Thread → Thread) (w : Wait) (k : Nat) (t : Thread) =>
       if L.getLsbD k then { s.goesTo o t t.pc with wait := w, waitLen := s.cur.len } else f t
     ((i, op) ∈ [(Instr.gbar o, 0xE5), (Instr.gbarp o, 0xE6), (Instr.gwait o, 0xE8)] → s.checks op o = .ok L →
       (L = 0 → s.ThreadResult i fun _ t => s.goesOn o t) ∧
       (L ≠ 0 → ¬member → exec i s = .next (s.trap { cause := .illegalInsn, mask := L, addr := 0, info := s.cur.raw })) ∧
       (L ≠ 0 → member → i ≠ .gwait o →
         (∀ k, L.getLsbD k = true → s.groupHold o k = false) → (i = .gbarp o → s.cg.shadow = none → s.busyAsync s.cur.gang = false) →
         ∃ u, exec i s = .next (u.groupCheck s.cg.launch q) ∧ u.roundOf s.cg.launch q = s.roundWith q L (i != .gbarp o) ∧
           State.OnlyBundle { s with groupRounds := u.groupRounds } u ∧
           ∀ k, s.cur.lanes.getLsbD k = true → ∃ tag, u.cl k =
             if i = .gbar o ∧ o.opmod.toNat = 1 then
               { s.goesOn o (s.cl k) with
                 bundle := tag
                 arrivals := if L.getLsbD k ∧ SMap.get 0 (s.cl k).arrivals q = 0 then
                   SMap.set 0 (s.cl k).arrivals q ((s.roundOf s.cg.launch q).round + 1) else (s.cl k).arrivals }
             else { waits (s.goesOn o) (if i = .gbarp o then .phase q (8 * o.a.toNat) (8 * o.c.toNat) else .group q) k (s.cl k) with
               bundle := tag }) ∧
       (L ≠ 0 → member → i = .gwait o →
         let passed := fun k => decide (SMap.get 0 (s.cl k).arrivals q ≤ (s.roundOf s.cg.launch q).round)
         ∃ t, exec i s = .next t ∧ State.OnlyBundle { s with leases := t.leases } t ∧
           ∀ k, s.cur.lanes.getLsbD k = true → ∃ tag, t.cl k =
             if L.getLsbD k && !passed k then { s.goesTo o (s.cl k) (s.cl k).pc with wait := .gwait q, waitLen := s.cur.len, bundle := tag }
             else { s.goesOn o (s.cl k) with
               bundle := tag
               arrivals := if L.getLsbD k then SMap.set 0 (s.cl k).arrivals q 0 else (s.cl k).arrivals }))) ∧
  (∀ (u : State) (launch q : Nat) (e : Group), u.gangsCanonical → (u.gangs.map Gang.key).Nodup → u.groupOf launch q = some e → e.remote = false →
     let r := u.roundOf launch q
     let t := u.groupCheck launch q
     let all := ∀ num ∈ e.members,
       match u.gangNamed launch num with
       | some g => ∀ k < 32, (g.lane k).cond = .exited ∨ (num, k) ∈ r.arrived
       | none => match u.launchOf launch with
         | some l => num ∈ l.gone ∨ ∃ a ∈ u.awayGangs launch, a.1 = num ∧ ∀ k < 32, a.2.live.getLsbD k = true → (num, k) ∈ r.arrived
         | none => True
     (r.arrived = [] ∨ ¬all ∨ (∃ num ∈ e.members, ∃ g, u.gangNamed launch num = some g ∧ phaseSet g q r ≠ none ∧ u.busyAsync g.key = true) → t = u) ∧
     (r.arrived ≠ [] → all → (∀ num ∈ e.members, ∀ g, u.gangNamed launch num = some g → phaseSet g q r = none) →
       t = { u with groupRounds := t.groupRounds, gangs := t.gangs, leases := t.leases } ∧
       t.roundOf launch q = { r with round := r.round + 1, arrived := [], phaseOf := [], plain := [], peers := [] } ∧
       ∀ num ∈ e.members, ∀ g, u.gangNamed launch num = some g → ∀ k < 32,
         (t.gangAt g.key).lane k =
           match (g.lane k).wait with
           | .group p => if p = q ∧ (g.lane k).cond ≠ .exited then (g.lane k).release else g.lane k
           | .gwait p =>
             if p = q ∧ (g.lane k).cond ≠ .exited then { (g.lane k).release with arrivals := SMap.set 0 (g.lane k).arrivals q 0 } else g.lane k
           | .phase p _ _ => if p = q ∧ (g.lane k).cond ≠ .exited then (g.lane k).release else g.lane k
           | _ => g.lane k))

/-- R156 to R158: a FENCE whose release part is incomplete in some guarded lane waits; else its threads go on, an acquire at cluster scope or wider
gives up the core's leases, and .I empties the core's instruction cache. -/
def Obligations.Fences : Prop :=
  ∀ (s : State) (L : Mask) (o : Ops), s.Issuing → (Instr.fence o).wf = true → s.checks 0xE7 o = .ok L →
    let kind := o.a.toNat % 4
    let core := coreOf s.cur.gang
    let key := s.cur.gang
    -- another device's memory is ordered at system scope only (R211); scratch and device pages at every scope (R200, R367)
    let near := fun (pa : Nat) => o.opmod.toNat = 5 ∨ s.remoteAt pa = false
    let arrived := fun k => (∀ x ∈ s.stores, x.gang = key → x.lane = k → x.bank = false ∧ s.ioPage x.pa = none) ∧
      ∀ l ∈ s.loads, l.gang = key → l.lane = k → l.spots = []
    let past := fun (m : Nat) => m + s.marginNs.toNat ≤ s.gtime
    -- what happens before the thread: what its core's threads had stored when it was last ordered after them (R196)
    let before := fun k => (∀ x ∈ s.stores, ¬(x.core = core ∧ x.bank = false ∧ x.issued ≤ (s.cl k).synced ∧ near x.pa)) ∧ past (s.cl k).seen ∧
      ∀ e ∈ s.recent, e.1 = core → e.2.1 ≤ (s.cl k).synced → past e.2.2
    let performed := fun k => arrived k ∧
      if o.opmod.toNat < 2 then ∀ a ∈ s.atoms, a.gang = key → a.lane = k → near a.pa → a.applied ≠ none
      else (∀ x ∈ s.stores, ¬(x.gang = key ∧ x.lane = k ∧ near x.pa)) ∧ (∀ a ∈ s.atoms, ¬(a.gang = key ∧ a.lane = k ∧ near a.pa)) ∧
        (∀ a ∈ s.acks, ¬(a.1 = key ∧ a.2.1 = k)) ∧ past (momentOf s.gtime (s.cl k).hzn) ∧ before k
    (kind ≠ 1 → (∃ k, L.getLsbD k = true ∧ ¬performed k) → exec (.fence o) s = .next s) ∧
    (kind = 1 ∨ (∀ k, L.getLsbD k = true → performed k) →
      ∃ t, exec (.fence o) s = .next t ∧
        State.OnlyBundle { s with
            leases := if L ≠ 0 ∧ kind ≠ 2 ∧ 2 ≤ o.opmod.toNat then s.leases.map fun l => if l.core = core then { l with data := none } else l
              else s.leases
            icache := if L ≠ 0 ∧ 4 ≤ o.a.toNat then s.icache.filter fun b => b.core ≠ core else s.icache } t ∧
        ∀ k, s.cur.lanes.getLsbD k = true → t.cl k = s.goesOn o (s.cl k))

/-! ### Memory -/

/-- R263 to R266, R268: translation takes the core's cached entry, or, also for a write through one whose d is clear, walks the table from the root of the
address space: nine bits of the address at each level, down to a leaf, where each level's entry must be valid and, by R264, not malformed. The indices, and
the size of a leaf, are Sv48's, and with them the place in the page: the model's choice (assumption 58). An access needs the privilege of R268, then the
permission bits of its kind, in the order of R266, whoever makes it. Success changes only the cached translations and the a and d bits of the leaf's entry,
or of the two entries of a two-stage translation (R292), each as one write at system scope. -/
def Obligations.TranslationFollowsTheTable : Prop :=
  ∀ (s : State) (core : Nat) (xlate va : Word) (acc : Access) (priv : Bool), s.memoryCanonical →
    let asid := Word.field xlate 59 44
    let top := if Word.field xlate 63 60 = 8 then 2 else 3
    let writes := acc = .store ∨ acc = .atomic ∨ acc = .reduction
    let kept := s.tlb.find? fun e => e.covers core asid va
    (∀ e, kept = some e → (writes → Pte.d e.pte = true) → s.lookup core xlate va acc = .ok ({ pte := e.pte, level := e.level, at' := 0 }, true)) ∧
    (∀ (table : Nat → Nat) (n : Nat), (∀ e, kept = some e → writes ∧ Pte.d e.pte = false) → SMap.get 0 s.guests asid = 0 → n ≤ top →
      let at' := fun (level : Nat) => table level + 8 * (va.toNat / 2 ^ (12 + 9 * level) % 512)
      let entry := fun level => s.peekWord (at' level)
      let leaf := fun (e : Word) => e.toNat / 2 % 8 ≠ 0
      let bad := fun (e : Word) (level : Nat) =>
        Word.field e 62 61 = 3 ∨ (Pte.w e = true ∧ Pte.r e = false) ∨
        (leaf e ∧ (Pte.isa e = 3 ∨ 2 ≤ Pte.cls e ∨ (Pte.n e = true ∧ (level ≠ 0 ∨ Pte.ppn e % 16 ≠ 8)) ∨ Pte.ppn e % 2 ^ (9 * level) ≠ 0)) ∨
        (¬leaf e ∧ (Word.field e 60 54 ≠ 0 ∨ Pte.n e = true))
      table top = Word.field xlate 43 0 * 4096 →
      (∀ level, n < level → level ≤ top →
        Pte.v (entry level) = true ∧ ¬bad (entry level) level ∧ ¬leaf (entry level) ∧ table (level - 1) = Pte.ppn (entry level) * 4096) →
      let e := entry n
      (Pte.v e = false → s.lookup core xlate va acc = .error (n, false)) ∧
      (Pte.v e = true → bad e n → s.lookup core xlate va acc = .error (n, true)) ∧
      (Pte.v e = true → ¬bad e n → leaf e → s.lookup core xlate va acc = .ok ({ pte := e, level := n, at' := at' n }, false)) ∧
      (Pte.v e = true → ¬bad e n → ¬leaf e → n = 0 → s.lookup core xlate va acc = .error (0, false))) ∧
    (canonical va = false →
      s.translate core xlate va acc priv = .error { cause := .pfNotPresent, va := va, info := faultInfo acc false 3 }) ∧
    (∀ l cached, canonical va = true → s.lookup core xlate va acc = .ok (l, cached) →
      let e := l.pte
      let refused := fun c => s.translate core xlate va acc priv = .error { cause := c, va := va, info := faultInfo acc false l.level }
      let allowed := if priv then acc ≠ .fetch ∨ Pte.u e = false else Pte.u e = true
      let runs := acc = .fetch → Pte.x e = true ∧ Pte.isa e = 1
      let read := acc = .load ∨ acc = .atomic → Pte.r e = true
      let write := writes → Pte.w e = true
      let atomic := acc = .atomic ∨ acc = .reduction → Pte.aa e = true
      let still := writes → Pte.t e = false
      (acc ≠ .probe →
        (¬allowed → refused .pfPriv) ∧
        (allowed → ¬runs → refused .pfExec) ∧
        (allowed → runs → ¬read → refused .pfRead) ∧
        (allowed → runs → read → ¬write → refused .pfWrite) ∧
        (allowed → runs → read → write → ¬atomic → refused .pfAtomic) ∧
        (allowed → runs → read → write → atomic → ¬still → refused .pfWriteInTransit)) ∧
      (acc = .probe ∨ (allowed ∧ runs ∧ read ∧ write ∧ atomic ∧ still) → ∃ s' pa, s.translate core xlate va acc priv = .ok (s', pa, e)) ∧
      (∀ s' pa pte, s.translate core xlate va acc priv = .ok (s', pa, pte) →
        let size := 2 ^ if Pte.n e then 16 else 12 + 9 * l.level
        pte = e ∧ pa = Pte.ppn e * 4096 / size * size + va.toNat % size ∧
        s' = { s with tlb := s'.tlb, mem := s'.mem, dirty := s'.dirty, owned := s'.owned, hostLines := s'.hostLines, hostCores := s'.hostCores } ∧
        s'.memoryCanonical ∧
        (cached = true → s' = s) ∧
        (∀ a, (∀ p, p = (l.at', l.own) ∨ l.stage = some p → a < p.1 ∨ p.1 + 8 ≤ a) → s'.peek a = s.peek a) ∧
        (cached = false → (∀ p, l.stage = some p → p.1 + 8 ≤ l.at' ∨ l.at' + 8 ≤ p.1) → ∀ p, p = (l.at', l.own) ∨ l.stage = some p →
          s.peekWord p.1 = p.2 →
          s'.peekWord p.1 = p.2 ||| 0x40 ||| if writes then 0x80 else 0))) ∧
    (∀ level malformed, canonical va = true → s.lookup core xlate va acc = .error (level, malformed) →
      s.translate core xlate va acc priv = .error { cause := .pfNotPresent, va := va, info := faultInfo acc malformed level })

/-- R194, R205, R206, R228, R231, R232: LD, LDA and LDC of lanes that all translate, meet no watchpoint and read no poison. Into a d register each
guarded lane's load sets out with the values of this moment, and its register is pending; into a g register the lanes' one value is written, at the
homes or under the core's leases. LDA is aligned and then an acquire at its scope. LDC adds its bank's address. LD and LDA wait where a lane loads
from a device page with a store of its own to such a page on its way (R367). Whether a line is read at its home or under a lease is left to free
values: the model's choice (assumption 15). -/
def Obligations.GlobalLoads : Prop :=
  ∀ (s : State) (L : Mask) (o : Ops) (i : Instr) (op info : Nat) (base : Word) (acq : Bool) (T : Translated), s.Issuing → s.Running →
    let x := s.asked i L (s.opA o) (s.opBSigned o) fun _ => 0
    let n := o.ty.width / 8
    let key := s.cur.gang
    let core := coreOf key
    (i, op, info, base, acq) ∈
      [(Instr.ld o, 0x100, 0, 0, false), (Instr.lda o, 0x102, 0, 0, true), (Instr.ldc o, 0x109, 512, s.bankOf s.cg.launch (dieOf key), false)] →
    s.checks op o = .ok L → (acq = true → o.c.toNat = 0) →
    ((i ≠ .ldc o ∧ ∃ k, L.getLsbD k = true ∧ s.pageHold o k = true) → exec i s = .next s) ∧
    ((i ≠ .ldc o → ∀ k, L.getLsbD k = true → s.pageHold o k = false) →
    (acq = true → ∀ k, L.getLsbD k = true → (s.memAddr o k).toNat % n = 0) →
    (i = .ldc o → L ≠ 0 → base ≠ 0 ∧ ∀ k, L.getLsbD k = true → (s.memAddr o k).toNat + n ≤ 65536) →
    s.Clear x .load 1 info (x.ops.map fun p => { ops := p, vas := (List.range n).map fun j => base + (p.a + p.b) + word j }) T →
    T.s.poisonTrap x (T.good.filter fun e => !T.s.pageTakes x e.2) = none →
    let scope := T.s.loadScope T.good (if acq = true ∧ L ≠ 0 then o.opmod.toNat else 0)
    let done := fun (u : State) => { u with leases := u.acquired core scope }
    (o.clsD = false →
      ∃ t, exec i s = .next t ∧ t = done { T.s with loads := T.s.loads ++ T.good.map (T.s.loadOf o), gangs := t.gangs } ∧
        (∀ key', key' ≠ key → t.gangAt key' = s.gangAt key') ∧ t.cg = { s.cg with threads := t.cg.threads } ∧
        (∀ k, s.cur.lanes.getLsbD k = false → t.cl k = s.cl k) ∧
        ∀ k, s.cur.lanes.getLsbD k = true → t.cl k = s.goesOn o
          (if L.getLsbD k ∧ o.dst ≠ 0 then { s.cl k with pending := .d o.dst.toNat :: (s.cl k).pending } else s.cl k)) ∧
    (o.clsD = true →
      let under := T.s.freeBool 60000 && !(T.good.any fun e => T.s.loading key e.1.ops.lane e.2)
      let val := fun (e : LaneAcc × List Nat) =>
        if under then (T.s.leaseValue core e.2).getD (T.s.homeValue core e.2) else T.s.homeValue core e.2
      let new := fun e => if o.lo = true ∧ o.ty.width < 64 then insertSub o.ty.width 0 (s.cg.getG o.dst.toNat) (sub (val e) o.ty.width 0)
        else if o.ty.signed then BitVec.ofInt 64 (signedOf o.ty.width (sub (val e) o.ty.width 0)) else word (sub (val e) o.ty.width 0)
      ∀ v, (∀ e ∈ T.good, new e = v) →
        ∃ t, exec i s = .next t ∧
          t = { T.s with gangs := t.gangs, leases := t.leases, hostLines := t.hostLines, releasing := t.releasing, dies := t.dies } ∧
          (under = true ∨ L = 0 → t = { done T.s with gangs := t.gangs }) ∧
          (2 ≤ scope → ∀ l ∈ t.leases, l.core = core → l.data = none) ∧
          (∀ key', key' ≠ key → t.gangAt key' = s.gangAt key') ∧
          (∀ m, t.cg.getG m = if m = o.dst.toNat ∧ m ≠ 0 ∧ L ≠ 0 then v else s.cg.getG m) ∧
          let own := fun k => if L = 0 then s.cl k else (s.cl k).forget (.g o.dst.toNat)
          (∀ k, s.cur.lanes.getLsbD k = false → t.cl k = own k) ∧ ∀ k, s.cur.lanes.getLsbD k = true → t.cl k = s.goesOn o (own k)))

/-- R194, R201, R202, R228, R231, R232: ST and STL of lanes that all translate and meet no watchpoint perform the guarded lanes' stores in the core's
L1, ascending; memory itself is unchanged until they reach their homes. STL is aligned, and waits until its release part is complete. -/
def Obligations.GlobalStores : Prop :=
  ∀ (s : State) (L : Mask) (o : Ops) (i : Instr) (op : Nat) (T : Translated), s.Issuing → s.Running →
    let x := s.asked i L (s.opA o) (s.opBSigned o) (s.opDst o)
    let n := o.ty.width / 8
    (i, op) ∈ [(Instr.st o, 0x101), (Instr.stl o, 0x103)] → s.checks op o = .ok L → (i = .stl o → o.c.toNat = 0) →
    (i = .stl o → (∃ k, L.getLsbD k = true ∧ s.releaseDone s.cur.gang k o.opmod.toNat = false) → exec i s = .next s) ∧
    ((i = .stl o → ∀ k, L.getLsbD k = true → s.releaseDone s.cur.gang k o.opmod.toNat = true ∧ (s.memAddr o k).toNat % n = 0) →
      s.Clear x .store 2 0 (x.ops.map fun p => { ops := p, vas := (List.range n).map fun j => p.a + p.b + word j }) T →
      ∃ t, exec i s = .next t ∧ t = { T.s with stores := T.s.stores ++ s.storesOf n (fun p => p.c) T.good, leases := t.leases, gangs := t.gangs } ∧
        State.OnlyBundle { T.s with stores := t.stores, leases := t.leases } t ∧
        (∀ k, s.cur.lanes.getLsbD k = true → t.cl k = s.goesOn o (s.cl k)))

/-- R229, R232, R244, R246, R247: an access that must be naturally aligned and is not, in some guarded lane, traps in those lanes, and nothing else
happens. -/
def Obligations.MisalignedAccessesTrap : Prop :=
  ∀ (s : State) (L : Mask) (o : Ops) (i : Instr) (op : Nat) (addr : Nat → Word) (waits : Nat → Bool), s.Issuing →
    let plain := fun k => s.memAddr o k
    let held := s.atomHold o
    (i, op, addr, waits) ∈
      [ (Instr.lda o, 0x102, plain, fun k => o.c.toNat != 1 && s.pageHold o k), (Instr.stl o, 0x103, plain, s.releaseHold o),
        (Instr.ldsx o, 0x106, plain, never), (Instr.stsf o, 0x107, plain, never),
        (Instr.aadd o, 0x140, plain, held), (Instr.aand o, 0x141, plain, held), (Instr.aor o, 0x142, plain, held), (Instr.axor o, 0x143, plain, held),
        (Instr.amin o, 0x144, plain, held), (Instr.amax o, 0x145, plain, held), (Instr.axchg o, 0x146, plain, held),
        (Instr.acas o, 0x147, s.opA o, held), (Instr.redadd o, 0x148, plain, never), (Instr.redmin o, 0x149, plain, never),
        (Instr.redmax o, 0x14A, plain, never) ] →
    s.checks op o = .ok L → (∀ k, L.getLsbD k = true → waits k = false) →
    let bad := those L fun k => (addr k).toNat % (o.ty.width / 8) != 0
    bad ≠ 0 →
    exec i s = .next (s.trap { cause := .misaligned, mask := bad, addr := addr (lowest bad), info := s.freeInfo })

/-- R69 to R71, R194, R200, R228, R231, R232: accesses of scratch that raise no trap. The thread's own earlier accesses of the same bytes are done
first (R198). LDS into a d register and STS and STL.S of the guarded lanes then set out for their banks, ascending; LDS into a g register and LDA.S
deliver what their bytes hold, and LDA.S is an acquire at its scope. LDW delivers what the die's weight store holds; in a refresh window it waits.
That LDS into a g register and LDA.S deliver at issue is the model's choice (assumption 16). -/
def Obligations.ScratchAccesses : Prop :=
  ∀ (s : State) (L : Mask) (o : Ops), s.Issuing → s.scratchCanonical →
    let key := s.cur.gang
    let core := coreOf key
    let n := o.ty.width / 8
    -- where the access reads at once, those of the thread's loads that read the same bytes have read them (R198)
    let u := s.settle key n false o.clsD (s.addrs o L)
    let v := s.settle key n false true (s.addrs o L)
    let w := s.settle key n true true (s.addrs o L)
    let load := fun (u : State) k => loadExt o.ty (word (leNat ((u.spots key (s.memAddr o k) n).map fun p => u.scratchByte key k p.1 p.2)))
    (s.checks 0x104 o = .ok L → u.scratchTraps key n false true (s.addrs o L) = none →
      (o.clsD = false →
        ∃ t, exec (.lds o) s = .next t ∧ t = { u with loads := u.loads ++ (lanes L).map (u.bankLoadOf o n), gangs := t.gangs } ∧
          State.OnlyBundle { u with loads := t.loads } t ∧
          ∀ k, s.cur.lanes.getLsbD k = true → t.cl k = s.goesOn o
            (if L.getLsbD k ∧ o.dst ≠ 0 then { u.cl k with pending := .d o.dst.toNat :: (u.cl k).pending } else u.cl k)) ∧
      (o.clsD = true → s.DeliversOver u (exec (.lds o) s) o L fun k => mergeLo o (s.dstBefore o k) (load u k))) ∧
    (s.checks 0x102 o = .ok L → o.c.toNat = 1 → v.scratchTraps key n true true (s.addrs o L) = none →
      s.DeliversOver { v with leases := if L ≠ 0 then v.acquired core o.opmod.toNat else v.leases } (exec (.lda o) s) o L
        fun k => mergeLo o (s.dstBefore o k) (load v k)) ∧
    (s.checks 0x108 o = .ok L →
      let die := s.die (dieOf key)
      let at' := fun k => (List.range n).map fun j => (s.memAddr o k).toNat + j
      (L ≠ 0 → s.refreshNow (dieOf key) = true → exec (.ldw o) s = .next s) ∧
      ((L ≠ 0 → s.refreshNow (dieOf key) = false) →
        (∀ k, L.getLsbD k = true → (s.memAddr o k).toNat + n ≤ Config.weightBytes ∧ ∀ q ∈ at' k, SMap.get false die.weightPoison q = false) →
        s.Delivers (exec (.ldw o) s) o L
          (fun k => mergeLo o (s.dstBefore o k) (loadExt o.ty (word (leNat ((at' k).map fun q => SMap.get 0 die.weight q)))))
          noReg noReg (fun _ => 0) (fun _ => false))) ∧
    (∀ (i : Instr) (op : Nat) (waits : Nat → Bool), (i, op, waits) ∈ [(Instr.sts o, 0x105, never), (Instr.stl o, 0x103, s.releaseHold o)] →
      (i = .stl o → o.c.toNat = 1) → s.checks op o = .ok L →
      ((∃ k, L.getLsbD k = true ∧ waits k = true) → exec i s = .next s) ∧
      ((∀ k, L.getLsbD k = true → waits k = false) → w.scratchTraps key n (i == .stl o) false (s.addrs o L) = none →
        ∃ t, exec i s = .next t ∧
          t = { w with stores := w.stores ++ (lanes L).flatMap (s.bankStoresOf o n), gangs := t.gangs } ∧
          State.OnlyBundle { w with stores := t.stores } t ∧
          ∀ k, s.cur.lanes.getLsbD k = true → t.cl k = s.goesOn o (w.cl k)))

/-- R203, R233: with one guarded lane, LDSX takes the value of a full line and leaves it empty, STSF stores into an empty line and leaves it full; where
the line is not so, the lane stays at the instruction. The thread's own earlier accesses of the bytes are done first (R198). -/
def Obligations.FullEmptyLines : Prop :=
  ∀ (s : State) (o : Ops) (k : Nat) (a : Alloc) (c off : Nat), s.Issuing → s.Running → s.scratchCanonical → k < 32 → s.cur.lanes.getLsbD k = true →
    let key := s.cur.gang
    let n := o.ty.width / 8
    let va := s.memAddr o k
    (∀ (i : Instr) (op : Nat) (fill : Bool), (i, op, fill) ∈ [(Instr.ldsx o, 0x106, false), (Instr.stsf o, 0x107, true)] →
      let u := s.settle key n fill true [(k, va)]
      i.wf = true → s.checks op o = .ok (laneMask k) → s.scratchPlace key n true [(k, va)] = none →
      u.gangSpot key va = some (c, off) → u.allocAt s.cg.launch s.cg.block c = some a →
      let full := SMap.get false a.full (off / 128)
      (full ≠ fill → u.scratchTouch key n (!fill) [(k, va)] = none) → (∀ p ∈ u.spots key va n, u.refused key p = none) →
      let value := loadExt o.ty (word (leNat ((u.spots key va n).map fun p => u.scratchByte key k p.1 p.2)))
      ∃ t, exec i s = .next t ∧ t = { u with gangs := t.gangs, allocs := t.allocs, arrays := t.arrays } ∧
        (∀ j, s.cur.lanes.getLsbD j = false → t.cl j = u.cl j) ∧
        (∀ j, j ≠ k → s.cur.lanes.getLsbD j = true → ∃ b, t.cl j = { s.goesOn o (u.cl j) with bundle := b }) ∧
        ∃ a', t.allocAt s.cg.launch s.cg.block c = some a' ∧
          (full = fill → t.allocs = u.allocs ∧ ∃ b, t.cl k = { u.cl k with bundle := b }) ∧
          (full ≠ fill →
            SMap.get false a'.full (off / 128) = fill ∧ (∀ l, l ≠ off / 128 → SMap.get false a'.full l = SMap.get false a.full l) ∧
            (t.cl k).pc = (s.cl k).pc + word s.cur.len ∧
            (fill = false → a'.bytes = a.bytes ∧
              (o.clsD = false → (t.cl k).getD o.dst.toNat = if o.dst = 0 then 0 else mergeLo o (s.dstBefore o k) value) ∧
              (o.clsD = true → t.cg.getG o.dst.toNat = if o.dst = 0 then 0 else mergeLo o (s.dstBefore o k) value)) ∧
            (fill = true → ∀ q, a'.byte q = (lastWrite (s.scratchWrites o n (laneMask k)) (c, q)).getD (a.byte q))))

/-- R234, R235: PREF changes nothing that an agent can see; CINV gives up the core's lease on a line and its ownership of the line's words; CFLUSH makes
every cache drop it, once no lease runs and no store is on its way; ICINV drops fetch blocks of the cores within its scope. -/
def Obligations.CacheInstructions : Prop :=
  ∀ (s : State) (L : Mask) (o : Ops) (T : Translated), s.Issuing → s.Running → s.TablesCanonical →
    let core := coreOf s.cur.gang
    let goes := fun (u t : State) => State.OnlyBundle u t ∧ ∀ k, s.cur.lanes.getLsbD k = true → t.cl k = s.goesOn o (s.cl k)
    let near := fun (c : Nat) =>
      match o.opmod.toNat with
      | 0 | 1 => c = core
      | 2 => c / 4 = core / 4
      | 3 => c / 48 = core / 48
      | _ => True
    let lines := T.good.map fun e => lineOf (e.2.headD 0)
    let one := fun (i : Instr) (acc : Access) =>
      let x := s.asked i L (s.opA o) (s.opBSigned o) fun _ => 0
      s.translateLanes x acc 0 (x.ops.map fun p => { ops := p, vas := [p.a + p.b + 0] }) = T ∧ T.bad = []
    (s.checks 0x10A o = .ok L → s.ThreadResult (.pref o) fun _ t => s.goesOn o t) ∧
    (s.checks 0x10B o = .ok L → one (.cinv o) .load →
      ∃ t, exec (.cinv o) s = .next t ∧ goes { T.s with leases := t.leases, owned := t.owned } t ∧
        t.leases = T.s.leases.map (fun l => if l.core = core ∧ l.line ∈ lines then { l with data := none } else l) ∧
        ∀ w, SMap.get 0 t.owned w = if w / 32 ∈ lines ∧ SMap.get 0 T.s.owned w = core + 1 then 0 else SMap.get 0 T.s.owned w) ∧
    (s.checks 0x10C o = .ok L → (∃ k, L.getLsbD k = true ∧ s.flushHold o k = true) → exec (.cflush o) s = .next s) ∧
    (s.checks 0x10C o = .ok L → (∀ k, L.getLsbD k = true → s.flushHold o k = false) → one (.cflush o) .load →
      ∃ t, exec (.cflush o) s = .next t ∧ goes { T.s with leases := t.leases, owned := t.owned, hostLines := t.hostLines } t ∧
        t.leases = T.s.leases.map (fun l => if l.line ∈ lines then { l with data := none } else l) ∧
        (∀ w, SMap.get 0 t.owned w = if w / 32 ∈ lines then 0 else SMap.get 0 T.s.owned w) ∧
        ∀ l, SMap.get none t.hostLines l = if l ∈ lines then none else SMap.get none T.s.hostLines l) ∧
    (s.checks 0x10D o = .ok L → o.c.toNat ≠ 1 → (∀ k, L.getLsbD k = true → s.icinvHold o k = false) → one (.icinv o) .probe →
      ∃ t, exec (.icinv o) s = .next t ∧ goes { T.s with icache := t.icache } t ∧
        ∀ b, b ∈ t.icache ↔ b ∈ T.s.icache ∧ ¬(near b.core ∧ lineOf b.pa ∈ lines)) ∧
    (s.checks 0x10D o = .ok L → o.c.toNat = 1 →
      ∃ t, exec (.icinv o) s = .next t ∧ goes { s with icache := t.icache } t ∧
        ∀ b, b ∈ t.icache ↔ b ∈ s.icache ∧ ¬(L ≠ 0 ∧ near b.core))

/-! ### References to the managed heap -/

/-- R236 to R240: of lanes whose references resolve under translations that the core holds: LDH and STH access the object within its bounds; LDREF and
STREF load and store references, healed and with pinned cleared, null as null; REFADDR delivers a pinned object's address; REFCMP compares. The
registers read are healed: their colour bit is the current one. A heap's page faults and write-backs are left to other statements. R239: with one guarded lane whose reference resolves, PIN counts one pin more in the object's entry, or traps at 65,535; UNPIN of a pinned
register counts one fewer, never below zero; of one that is not, it leaves the count. The register's pinned bit follows. A count that the core's own stores
are on their way to waits for them. -/
def Obligations.HeapReferencesAndPins : Prop :=
  (∀ (s : State) (L : Mask) (o : Ops) (i : Instr) (ob cd : Nat → Obj) (T : Translated), s.Issuing → s.Running → i.wf = true →
     let key := s.cur.gang
     let core := coreOf key
     let xlate := s.cg.xlate
     let priv := (s.cl (lowest L)).priv
     let n := o.ty.width / 8
     let ha := fun k => (s.cl k).getH o.a.toNat
     let hb := fun k => (s.cl k).getH o.b.toNat
     let hd := fun k => (s.cl k).getH o.dst.toNat
     let idx := fun k => s.opBSigned o k
     let live := fun (st : State) (r : Word) (x : Obj) => st.resolve core s.cg.world xlate priv r = .ok (st, x)
     let off := fun k => (refOffset (ha k) : Int) + (idx k).toInt
     let inside := fun (w k : Nat) => live s (ha k) (ob k) ∧ 0 ≤ off k ∧ off k + w ≤ (ob k).size
     let bytes := fun (w k : Nat) => (List.range w).map fun j => s.objByte (asidOf xlate) (ob k) ((off k).toNat + j)
     let raw := fun k => (List.range 8).map fun j => s.opA o k + idx k + word j
     let even := fun (k : Nat) => if o.opmod.toNat = 1 then off k % 8 = 0 ∧ inside 8 k else (s.opA o k + idx k).toNat % 8 = 0
     let deep := o.opmod.toNat = 1
     let place := fun k => if deep then bytes 8 k else raw k
     let accs := fun (a c : Nat → Word) (vas : Nat → List Word) =>
       (lanes L).map fun k => ({ ops := { lane := k, a := a k, b := idx k, c := c k }, vas := vas k } : LaneAcc)
     let same := fun (t u : State) => (∀ key', key' ≠ key → u.gangAt key' = t.gangAt key') ∧
       (∀ k, s.cur.lanes.getLsbD k = false → u.cl k = s.cl k) ∧ u.cg = { s.cg with threads := u.cg.threads }
     let healed := fun (x : Nat → Obj) (r : Nat → Word) (k : Nat) => refHeal (r k) (x k).colour
     (i = .ldh o → s.checks 0x110 o = .ok L → (∀ k, L.getLsbD k = true → inside n k) →
       s.Clear (s.asked i L ha idx fun _ => 0) .load 1 0 (accs ha (fun _ => 0) (bytes n)) T →
       let x := s.asked i L ha idx fun _ => 0
       T.s.poisonTrap x (T.good.filter fun e => !T.s.pageTakes x e.2) = none →
       ∃ t, exec i s = .next t ∧
         t = { T.s with loads := T.s.loads ++ T.good.map (T.s.loadOf o), leases := T.s.acquired core (T.s.loadScope T.good 0), gangs := t.gangs } ∧
         same s t ∧
         ∀ k, s.cur.lanes.getLsbD k = true →
           t.cl k = { s.goesOn o (s.cl k) with
             pending := if L.getLsbD k ∧ o.dst ≠ 0 then .d o.dst.toNat :: (s.cl k).pending else (s.cl k).pending, h := (t.cl k).h } ∧
           ∀ m, (t.cl k).getH m = if L.getLsbD k ∧ m = o.a.toNat then healed ob ha k else (s.cl k).getH m) ∧
     (i = .sth o → s.checks 0x111 o = .ok L → (∀ k, L.getLsbD k = true → inside n k) →
       s.Clear (s.asked i L ha idx (s.opDst o)) .store 2 0 (accs ha (s.opDst o) (bytes n)) T →
       ∃ t, exec i s = .next t ∧
         t = { T.s with stores := T.s.stores ++ s.storesOf n (fun p => p.c) T.good, leases := t.leases, gangs := t.gangs } ∧ same s t ∧
         ∀ k, s.cur.lanes.getLsbD k = true →
           t.cl k = { s.goesOn o (s.cl k) with h := (t.cl k).h } ∧
           ∀ m, (t.cl k).getH m = if L.getLsbD k ∧ m = o.a.toNat then healed ob ha k else (s.cl k).getH m) ∧
     (i = .ldref o → s.checks 0x10E o = .ok L → (∀ k, L.getLsbD k = true → even k) →
       let base := fun k => if deep then ha k else s.opA o k
       let x := s.asked i L base idx fun _ => 0
       s.Clear x .load 1 0 (accs base (fun _ => 0) place) T → T.s.poisonTrap x T.good = none →
       let value := fun k => match T.good.find? fun e => e.1.ops.lane == k with
         | some e => T.s.refValue x k e.2
         | none => 0
       let served := T.s.refLeases x T.good
       (∀ k, L.getLsbD k = true → refIndex (value k) ≠ 0 → live served (value k) (cd k)) →
       ∃ t, exec i s = .next t ∧
         t = { served with
           gangs := t.gangs, mem := t.mem, dirty := t.dirty, owned := t.owned, hostLines := t.hostLines, lineWorld := t.lineWorld
           tlb := t.tlb, seals := t.seals, hostCores := t.hostCores, placedAt := t.placedAt, gtime := t.gtime, leases := t.leases } ∧ same s t ∧
         ∀ k, s.cur.lanes.getLsbD k = true →
           let new := if refIndex (value k) = 0 then value k else refHeal (value k) (cd k).colour
           t.cl k = { s.goesOn o (s.cl k) with h := (t.cl k).h, hzn := (t.cl k).hzn } ∧
           ∀ m, (t.cl k).getH m =
             if L.getLsbD k ∧ m = o.dst.toNat then refPin new false
             else if L.getLsbD k ∧ deep ∧ m = o.a.toNat then healed ob ha k else (s.cl k).getH m) ∧
     (i = .stref o → s.checks 0x10F o = .ok L →
       (∀ k, L.getLsbD k = true → even k ∧ (refIndex (hd k) ≠ 0 → live s (hd k) (cd k))) →
       let base := fun k => if deep then ha k else s.opA o k
       let value := fun k => if refIndex (hd k) = 0 then 0 else refPin (refHeal (hd k) (cd k).colour) false
       s.Clear (s.asked i L base idx hd) .store 2 0 (accs base hd place) T →
       ∃ t, exec i s = .next t ∧
         t = { T.s with stores := T.s.stores ++ s.storesOf 8 (fun p => value p.lane) T.good, leases := t.leases, gangs := t.gangs } ∧ same s t ∧
         ∀ k, s.cur.lanes.getLsbD k = true →
           t.cl k = { s.goesOn o (s.cl k) with h := (t.cl k).h } ∧
           ∀ m, (t.cl k).getH m =
             if L.getLsbD k ∧ m = o.dst.toNat ∧ refIndex (hd k) ≠ 0 then healed cd hd k
             else if L.getLsbD k ∧ deep ∧ m = o.a.toNat then healed ob ha k else (s.cl k).getH m) ∧
     (i = .refaddr o → s.checks 0x114 o = .ok L → (∀ k, L.getLsbD k = true → live s (ha k) (ob k)) →
       let loose := those L fun k => !refPinned (ha k)
       (loose ≠ 0 → exec i s = .next (s.trap { cause := .heapStaleRef, mask := loose, addr := ha (lowest loose), info := 2 })) ∧
       (loose = 0 → ∃ t, exec i s = .next t ∧ s.OnlyBundle t ∧ ∀ k, s.cur.lanes.getLsbD k = true →
         Thread.WentOn s o (s.cl k) (t.cl k) ∧ (s.cl k).RegistersOnly { t.cl k with h := (s.cl k).h } ∧
         (∀ m, (t.cl k).getD m = if L.getLsbD k ∧ m = o.dst.toNat ∧ m ≠ 0 then (ob k).copy + word (refOffset (ha k)) else (s.cl k).getD m) ∧
         ∀ m, (t.cl k).getH m = if L.getLsbD k ∧ m = o.a.toNat then healed ob ha k else (s.cl k).getH m)) ∧
     (i = .refcmp o → s.checks 0x115 o = .ok L →
       (∀ k, L.getLsbD k = true → (refIndex (ha k) ≠ 0 → live s (ha k) (ob k)) ∧ (refIndex (hb k) ≠ 0 → live s (hb k) (cd k))) →
       ∃ t, exec i s = .next t ∧ s.OnlyBundle t ∧ ∀ k, s.cur.lanes.getLsbD k = true →
         let eq := decide (refIndex (ha k) = 0 ∧ refIndex (hb k) = 0 ∨ refIndex (ha k) = refIndex (hb k) ∧ refOffset (ha k) = refOffset (hb k))
         t.cl k = { s.goesOn o (s.cl k) with h := (t.cl k).h, p := (t.cl k).p, tracked := (t.cl k).tracked } ∧
         (∀ m, (t.cl k).getP m = if pairOf o L k m then pairValue o (fun _ => (eq, !eq)) k m else (s.cl k).getP m) ∧
         (∀ m, m ≠ o.a.toNat → m ≠ o.b.toNat → (t.cl k).getH m = (s.cl k).getH m) ∧
         (L.getLsbD k = true → (t.cl k).getH o.a.toNat = if refIndex (ha k) = 0 then ha k else healed ob ha k))) ∧
  (∀ (s : State) (o : Ops) (k : Nat) (ob : Obj) (count : Nat) (pas : List Nat), s.Issuing → s.Running → s.memoryCanonical → s.TablesCanonical → k < 32 →
     s.cur.lanes.getLsbD k = true →
     let core := coreOf s.cur.gang
     let xlate := s.cg.xlate
     let priv := (s.cl k).priv
     let r := (s.cl k).getH o.dst.toNat
     s.resolve core s.cg.world xlate priv r = .ok (s, ob) → s.tableRead core s.cg.world xlate (ob.entry + 12) priv 2 = .ok (s, count) →
     (s.checks 0x113 o = .ok (laneMask k) → refPinned r = false → s.ThreadResult (.unpin o) fun j t =>
       s.goesOn o (if j = k then t.setH o.dst.toNat (refHeal r ob.colour) else t)) ∧
     (s.translateVas core xlate .store priv none [ob.entry + 12, ob.entry + 13] = .ok (s, pas) → pas.Nodup → pas.length = 2 →
     (∀ pa ∈ pas, s.readError s.cg.world (lineOf pa) = none) → s.sec.keysGone.contains s.cg.world = false →
     let counts := fun (t : State) (c : Nat) => ∀ pa, t.peek pa = if pa = pas.getD 0 0 then BitVec.ofNat 8 c else if pa = pas.getD 1 0 then
       BitVec.ofNat 8 (c / 256) else s.peek pa
     let does := fun (i : Instr) (h : Word) (c : Nat) =>
       ∃ t, exec i s = .next t ∧
         t = { s with
           gangs := t.gangs, mem := t.mem, dirty := t.dirty, owned := t.owned, hostLines := t.hostLines, lineWorld := t.lineWorld
           seals := t.seals, hostCores := t.hostCores, placedAt := t.placedAt, gtime := t.gtime, leases := t.leases } ∧
         counts t c ∧ (∀ j, j ≠ k → s.cur.lanes.getLsbD j = true → t.cl j = s.goesOn o (s.cl j)) ∧
         t.cl k = { s.goesOn o (s.cl k) with h := (t.cl k).h, hzn := (t.cl k).hzn } ∧
         ∀ m, (t.cl k).getH m = if m = o.dst.toNat then h else (s.cl k).getH m
     let busy := ∃ x ∈ s.stores, x.core = core ∧ x.bank = false ∧ meets x.pa x.bytes.length (pas.getD 0 0) 2 = true
     (busy → (s.checks 0x112 o = .ok (laneMask k) → exec (.pin o) s = .next s) ∧
       (s.checks 0x113 o = .ok (laneMask k) → refPinned r = true → exec (.unpin o) s = .next s)) ∧
     (¬busy → s.checks 0x112 o = .ok (laneMask k) →
       (65535 ≤ count → exec (.pin o) s = .next (s.trap { cause := .pinLimit, mask := laneMask k, addr := r, info := 0 })) ∧
       (count < 65535 → does (.pin o) (refPin (refHeal r ob.colour) true) (count + 1))) ∧
     (¬busy → s.checks 0x113 o = .ok (laneMask k) → refPinned r = true → does (.unpin o) (refPin (refHeal r ob.colour) false) (count - 1))))

/-! ### Atomics and reductions -/

/-- R202, R219, R241 to R246: an atomic or reduction of aligned lanes that translate, meet no watchpoint and read no poison sends one request for each
guarded lane, ascending, to the service gang that owns its word; a returning one claims a return slot and its register is pending. Where a lane has no
slot free, or its release part is incomplete, it waits. R244, R245, R246: the word that an operation leaves: integer additions wrap, minimum and maximum are in integer order, the others act bit by bit, and a
compare-and-swap stores only where the old word equals its compare value; floating-point ones round once in RNE or take the minimum or maximum of R48. -/
def Obligations.Atomics : Prop :=
  (∀ (s : State) (L : Mask) (o : Ops) (i : Instr) (op : Nat) (f : LaneOps → AtomOp) (T : Translated), s.Issuing → s.Running →
     let n := o.ty.width / 8
     let b := fun k => if i = .acas o then s.opBReg o k else s.opBSigned o k
     let addr := fun (p : LaneOps) => if i = .acas o then p.a else p.a + p.b
     let x := s.asked i L (s.opA o) b (s.opC o)
     let accs := x.ops.map fun p => ({ ops := p, vas := (List.range n).map fun j => addr p + word j } : LaneAcc)
     let request := fun (ret : Bool) (e : LaneAcc × List Nat) =>
       ({ gang := s.cur.gang, lane := e.1.ops.lane, launch := s.cg.launch, core := coreOf s.cur.gang, world := s.cg.world
          dst := if ret then some o.dst.toNat else none, op := f e.1.ops, ty := o.ty, pa := e.2.headD 0, value := e.1.ops.c
          scope := o.opmod.toNat, applied := none, issued := s.clock, spilled := false, framed := false } : AtomReq)
     let sends := fun (ret : Bool) =>
       (∀ p ∈ x.ops, (addr p).toNat % n = 0) → s.Clear x (if ret then .atomic else .reduction) (if ret then 3 else 4) 0 accs T →
       (ret = true → T.s.poisonTrap x T.good = none) → (∀ owner, T.s.serviceLoad owner + 32 ≤ 512 ∧ T.s.spilledAny (owner / 12) kindService owner = false) →
       ∃ t, exec i s = .next t ∧ t = { T.s with atoms := T.s.atoms ++ T.good.map (request ret), gangs := t.gangs } ∧
         State.OnlyBundle { T.s with atoms := t.atoms } t ∧
         ∀ k, s.cur.lanes.getLsbD k = true → t.cl k = s.goesOn o
           (if ret = true ∧ L.getLsbD k then
             { s.cl k with slots := (s.cl k).slots + 1, pending := if o.dst = 0 then (s.cl k).pending else .d o.dst.toNat :: (s.cl k).pending }
           else s.cl k)
     ((i, op, f) ∈
         [ (Instr.aadd o, 0x140, fun _ => AtomOp.add), (Instr.aand o, 0x141, fun _ => .and), (Instr.aor o, 0x142, fun _ => .or),
           (Instr.axor o, 0x143, fun _ => .xor), (Instr.amin o, 0x144, fun _ => .min), (Instr.amax o, 0x145, fun _ => .max),
           (Instr.axchg o, 0x146, fun _ => .xchg), (Instr.acas o, 0x147, fun p => .cas p.b) ] →
       s.checks op o = .ok L →
       ((∃ k, L.getLsbD k = true ∧ (4 ≤ (s.cl k).slots ∨ s.releaseDone s.cur.gang k o.opmod.toNat = false)) → exec i s = .next s) ∧
       ((∀ k, L.getLsbD k = true → (s.cl k).slots < 4 ∧ s.releaseDone s.cur.gang k o.opmod.toNat = true) → sends true)) ∧
     ((i, op, f) ∈ [(Instr.redadd o, 0x148, fun _ => AtomOp.add), (Instr.redmin o, 0x149, fun _ => .min), (Instr.redmax o, 0x14A, fun _ => .max)] →
       s.checks op o = .ok L → sends false)) ∧
  (∀ (t : Ty) (old v c : Word),
     let w := t.width
     let a := sub old w 0
     let b := sub v w 0
     (t.isInt = true →
       AtomOp.apply .add t old v = word ((a + b) % 2 ^ w) ∧
       AtomOp.apply .min t old v = word (if valueOf t b < valueOf t a then b else a) ∧
       AtomOp.apply .max t old v = word (if valueOf t a < valueOf t b then b else a)) ∧
     AtomOp.apply .and t old v = word (a &&& b) ∧ AtomOp.apply .or t old v = word (a ||| b) ∧ AtomOp.apply .xor t old v = word (a ^^^ b) ∧
     AtomOp.apply .xchg t old v = word b ∧ AtomOp.apply (.cas c) t old v = word (if a = sub c w 0 then b else a) ∧
     (t = .f32 ∨ t = .f64 →
       let f := Fmt.of t
       AtomOp.apply .add t old v = word (f.deliver .rne false ((f.decode a).add .rne (f.decode b))).1 ∧
       AtomOp.apply .min t old v = word (f.pick false a b).1 ∧ AtomOp.apply .max t old v = word (f.pick true a b).1))

/-- R247: with one guarded lane, REDSEQ hands its contribution to its sequence: held until its index comes, or, where the index has been applied or is held
already, discarded and logged. An index of more than 32 bits is illegal. -/
def Obligations.SequencedReductions : Prop :=
  ∀ (s : State) (o : Ops) (k : Nat) (T : Translated) (e : LaneAcc × List Nat), s.Issuing → s.Running → k < 32 → s.cur.lanes.getLsbD k = true →
    s.checks 0x14B o = .ok (laneMask k) →
    let n := o.ty.width / 8
    let at' := s.opA o k
    let index := (s.opBReg o k).toNat
    let x := s.asked (.redseq o) (laneMask k) (s.opA o) (s.opBReg o) (s.opC o)
    (2 ^ 32 ≤ index → exec (.redseq o) s = .next (s.trap { cause := .illegalInsn, mask := laneMask k, addr := 0, info := s.cur.raw })) ∧
    (index < 2 ^ 32 → at'.toNat % n ≠ 0 →
      exec (.redseq o) s = .next (s.trap { cause := .misaligned, mask := laneMask k, addr := at', info := s.freeInfo })) ∧
    (index < 2 ^ 32 → at'.toNat % n = 0 →
      s.Clear x .reduction 4 0 (x.ops.map fun p => { ops := p, vas := (List.range n).map fun j => p.a + word j }) T → T.good = [e] →
      let pa := e.2.headD 0
      let q := T.s.seqOf s.cg.launch pa o.ty
      let goes := fun (t : State) => ∀ j, s.cur.lanes.getLsbD j = true → t.cl j = s.goesOn o (s.cl j)
      (index < q.next ∨ SMap.get none q.held index ≠ none →
        ∃ t, exec (.redseq o) s = .next t ∧ State.OnlyBundle { T.s with vlogs := t.vlogs } t ∧ goes t ∧
          -- another device's service gang logs for itself
          (T.s.remoteAt pa = false → ∃ l ∈ t.vlogs, l.owner = .service (ownerOf pa) ∧ ∃ v ∈ l.entries, v.address = word pa ∧ v.kind = 6)) ∧
      (q.next ≤ index → SMap.get none q.held index = none →
        (index = q.next ∨ T.s.remoteAt pa = true ∨ T.s.seqLoad (ownerOf pa) < 1024 ∧ T.s.spilledAny (ownerOf pa / 12) kindRedseq (ownerOf pa) = false) →
        ∃ t, exec (.redseq o) s = .next t ∧ State.OnlyBundle { T.s with redseqs := t.redseqs } t ∧ goes t ∧
          t.seqOf s.cg.launch pa o.ty =
            { q with held := SMap.set none q.held index (some (s.opC o k)), stamps := SMap.set 0 q.stamps index s.clock } ∧
          ∀ l p ty, (l, p, ty.width / 8) ≠ (s.cg.launch, pa, n) → t.seqOf l p ty = T.s.seqOf l p ty))

/-- R221, R248 to R250: GRED hands the gang's buffers to its group's reduction and its token is pending; GREDW contributes the guarded lanes' values,
which wait for the round; a group that the gang is not in, a malformed shape, another operation than the round's, or the first GREDW on a device whose
list of peers is not rank 0's (R248), traps. -/
def Obligations.GroupReductionsBegin : Prop :=
  ∀ (s : State) (L : Mask) (o : Ops), s.Issuing → s.Running →
    let key := s.cur.gang
    let shape := s.cg.getG o.c.toNat
    let shape' := s.cg.getG (o.c.toNat + 1)
    let count := shape.toNat % 2 ^ 32
    let grp := shape'.toNat % 256
    let wrong := count % 4096 ≠ 0 ∨ 2 ^ 28 < count ∨ shape.toNat / 2 ^ 32 ≠ 0 ∨ shape'.toNat / 256 % 2 ^ 11 ≠ 0 ∨ o.c.toNat % 2 = 1
    let n := o.ty.width / 8
    let low := lowest L
    let uniform := ∀ k, L.getLsbD k = true → s.opA o k = s.opA o low ∧ s.opB o k = s.opB o low
    (s.checks 0x14C o = .ok L → L ≠ 0 →
      (wrong ∨ s.isMember s.cg grp = false →
        exec (.gred o) s = .next (s.trap { cause := .illegalInsn, mask := L, addr := 0, info := s.cur.raw })) ∧
      (¬wrong → s.isMember s.cg grp = true → uniform → (s.opA o low).toNat % n = 0 → (s.opB o low).toNat % n = 0 →
        (∀ k, L.getLsbD k = true → s.releaseDone key k (s.groupScope s.cg.launch grp) = true) →
        ∃ t, exec (.gred o) s = .next t ∧ t = { s with greds := t.greds, gangs := t.gangs } ∧
          (∃ r ∈ t.greds, r.launch = s.cg.launch ∧ r.grp = grp ∧ ∃ p ∈ r.parts, p.num = s.cg.number ∧ p.gang = s.cg.key ∧ p.token = o.dst.toNat ∧
            p.dst = s.opA o low ∧ p.src = s.opB o low ∧ p.status = BitVec.signExtend 64 (BitVec.ofNat 48 (shape'.toNat / 2 ^ 19 * 8))) ∧
          t.cg = { s.cg with threads := t.cg.threads, gPending := if o.dst = 0 then s.cg.gPending else o.dst.toNat :: s.cg.gPending } ∧
          ∀ k, s.cur.lanes.getLsbD k = true → t.cl k = s.goesOn o (s.cl k))) ∧
    (s.checks 0x14D o = .ok L → L ≠ 0 →
      let q := (s.opBNat o low).toNat
      let kind := o.opmod.toNat % 4
      let open' := s.gredws.find? fun r => r.launch == s.cg.launch && r.grp == q
      let fresh : GredRound :=
        { launch := s.cg.launch, grp := q, op := kind, ty := o.ty, lo := o.lo, values := [], given := [], peers := [], failed := [] }
      let r := open'.getD fresh
      let place := match s.groupOf s.cg.launch q with | some e => e.place s.cg.number | none => 0
      (255 < q ∨ s.isMember s.cg q = false →
        exec (.gredw o) s = .next (s.trap { cause := .illegalInsn, mask := L, addr := 0, info := s.cur.raw })) ∧
      (∀ e, q ≤ 255 → s.isMember s.cg q = true → s.groupOf s.cg.launch q = some e → e.badGredw = some true →
        exec (.gredw o) s = .next (State.trap (s.onGroup s.cg.launch q fun e => { e with badGredw := some false })
          { cause := .illegalInsn, mask := L, addr := 0, info := s.cur.raw })) ∧
      let listed := ∀ e, s.groupOf s.cg.launch q = some e → e.badGredw ≠ some true
      (q ≤ 255 → s.isMember s.cg q = true → listed → r.op ≠ kind ∨ r.ty ≠ o.ty →
        exec (.gredw o) s = .next (s.trap { cause := .nonuniformOperand, mask := L, addr := s.freeAddr, info := s.freeInfo })) ∧
      (q ≤ 255 → s.isMember s.cg q = true → listed → r.op = kind → r.ty = o.ty → (∀ k, L.getLsbD k = true → s.groupHold o k = false) →
        ∃ u, exec (.gredw o) s = .next (u.gredwCheck s.cg.launch q) ∧ State.OnlyBundle { s with gredws := u.gredws } u ∧
          (∃ r', u.gredws.find? (fun r => r.launch == s.cg.launch && r.grp == q) = some r' ∧ r' = { r with values := r'.values, given := r'.given } ∧
            ∀ p, p ∈ r'.given ↔ p ∈ r.given ∨ ∃ k, L.getLsbD k = true ∧ p = 32 * place + k) ∧
          ∀ k, s.cur.lanes.getLsbD k = true → ∃ b, u.cl k =
            if L.getLsbD k then
              { s.goesTo o (s.cl k) (s.cl k).pc with wait := .gredw q o.dst.toNat o.clsD o.lo, waitLen := s.cur.len, bundle := b }
            else { s.goesOn o (s.cl k) with bundle := b }))

/-- R269, R270: lanes of a memory instruction that meet a page fault enter the operand log under its lowest free number, with their operands and
their pending destinations, and one record of them goes to fault service, while the other lanes complete and the whole bundle goes on; with no number
free the instruction waits. -/
def Obligations.FaultingLanesAreLogged : Prop :=
  ∀ (s s1 : State) (L : Mask) (o : Ops) (i : Instr) (op : Nat) (a b c : Nat → Word) (f : PageFault) (bad : List (Nat × PageFault)), s.Issuing → s.Running →
    (i, op, a, b, c) ∈
      [ (Instr.ld o, 0x100, s.opA o, s.opBSigned o, fun _ => 0), (Instr.st o, 0x101, s.opA o, s.opBSigned o, s.opDst o),
        (Instr.ldc o, 0x109, s.opA o, s.opBSigned o, fun _ => 0), (Instr.cinv o, 0x10B, s.opA o, s.opBSigned o, fun _ => 0),
        (Instr.redadd o, 0x148, s.opA o, s.opBSigned o, s.opC o) ] →
    s.checks op o = .ok L →
    let x := s.asked i L a b c
    let part := partOf s.cur.gang
    let used := fun n => (s.oplog.any fun e => e.partition == part && e.entry == n) || s.faults.any fun f => f.holdsEntry part n
    (i = .ld o → ∀ k, L.getLsbD k = true → s.pageHold o k = false) →
    (bad.head?.map fun e => e.2) = some f → memoryOp i s x = some (.ok (s1, bad)) →
    let M := maskOf fun k => bad.any fun e => e.1 == k
    ((∀ n < 16, used n = true) → exec i s = .next s) ∧
    ∀ n < 16, used n = false → (∀ m < n, used m = true) →
      ∃ t, exec i s = .next t ∧
        t = { s1 with oplog := t.oplog, faults := t.faults, gangs := t.gangs } ∧
        (∃ e, t.oplog = s1.oplog ++ [e] ∧ e.partition = part ∧ e.entry = n ∧ e.gang = s.cur.gang ∧ e.lanes = M ∧ e.insn = i ∧ e.pc = s.cur.pc ∧
          e.raw = s.cur.raw ∧ e.ops = x.ops.filter (fun p => M.getLsbD p.lane) ∧ e.priv = (s.cl (lowest L)).priv) ∧
        (∃ item, t.faults = s1.faults ++ [item] ∧ item.who = .logged part n ∧ item.cause = f.cause ∧ item.va = f.va ∧ item.pc = s.cur.pc ∧
          item.posted = none ∧ item.entry = none) ∧
        ∀ k, s.cur.lanes.getLsbD k = true → (t.cl k).pc = (s1.cl k).pc + word s.cur.len ∧ (t.cl k).d = (s1.cl k).d ∧ (t.cl k).p = (s1.cl k).p

/-! ### Copies, queues and matrix arrays -/

/-- R74, R76, R78, R90 to R92, R94, R95: a copy whose operands are uniform and pass their checks is queued with every byte of every run, in order, in
pieces that stay inside a 128-byte line of the destination; its token is pending, and the lanes' earlier stores to what it reads have been performed
(R93). One of no bytes writes token 0 at once; with 16 outstanding it waits; operands that differ, or fail a check, trap. That CPYX reads its index
table at issue is the model's choice (assumption 30). -/
def Obligations.CopiesBegin : Prop :=
  ∀ (s : State) (L : Mask) (o : Ops), s.Issuing → s.Running → L ≠ 0 →
    let low := lowest L
    let key := s.cur.gang
    let base := s.opA o low + (match o.lit with | some l => sext 32 l.toNat | none => 0)
    let src := s.opBReg o low
    let shape := (s.regG o.c.toNat).toNat
    let strides := (s.regG (o.c.toNat + 1)).toNat
    let size := shape % 2 ^ 24
    let count := if size = 0 then 0 else shape / 2 ^ 32 % 2 ^ 16
    let illShaped := shape / 2 ^ 24 % 2 ^ 8 ≠ 0 ∨ shape / 2 ^ 48 ≠ 0
    let dir := o.opmod.toNat % 4
    let ends := match dir with
      | 0 => (Side.scratch, Side.global)
      | 1 => (.global, .scratch)
      | 2 => (.scratch, .scratch)
      | _ => (.scratch, .weight)
    let one : CopyReq :=
      { dst := ends.1, src := ends.2, base := base, srcBase := src, rows := [{ dst := base, src := src, size := (s.opC o low).toNat }],
        table := none, bar := none, weightWrite := false }
    let row := fun i : Nat =>
      { dst := base + word (i * (strides % 2 ^ 32)), src := src + word (i * (strides / 2 ^ 32)), size := size : CopyRow }
    let packed := fun i : Nat => base + word (i * size)
    let tabled := s.settleRanges L [(src, 8 * count)]
    let listed := fun i : Nat => tabled.scratchLoad key low (src + word (8 * i)) 8
    let table : CopyReq :=
      { dst := .scratch, src := .scratch, base := base, srcBase := src, table := some (src, count), bar := none, weightWrite := false,
        rows := (List.range count).map fun i => { dst := packed i, src := 0, size := size } }
    let goes := fun (t : State) (f : Thread → Thread) => (∀ key', key' ≠ key → t.gangAt key' = s.gangAt key') ∧
      (∀ k, k < 32 → s.cur.lanes.getLsbD k = false → t.cl k = f (s.cl k)) ∧ ∀ k, s.cur.lanes.getLsbD k = true → t.cl k = s.goesOn o (f (s.cl k))
    let illegal := fun (i : Instr) => exec i s = .next (s.trap { cause := .illegalInsn, mask := L, addr := 0, info := s.cur.raw })
    let starts := fun (i : Instr) (from' : State) (checked r : CopyReq) =>
      let u := from'.settleSources L r
      (∀ t, s.copyChecks L checked = some t → exec i s = .next (s.trap t)) ∧
      (s.copyChecks L checked = none → r.total = 0 →
        ∃ t, exec i s = .next t ∧ t = { s with gangs := t.gangs } ∧ goes t (fun u => u.forget (.g o.dst.toNat)) ∧
          t.cg = { s.cg with threads := t.cg.threads, g := t.cg.g, gValid := t.cg.gValid, gFailed := t.cg.gFailed, tokenEnd := t.cg.tokenEnd } ∧
          ∀ n, t.cg.getG n = if n = o.dst.toNat then 0 else s.cg.getG n) ∧
      (s.copyChecks L checked = none → r.total ≠ 0 → 16 ≤ s.outstanding (partOf key) → exec i s = .next s) ∧
      (s.copyChecks L checked = none → r.total ≠ 0 → s.outstanding (partOf key) < 16 →
        ∃ t c, exec i s = .next t ∧ t = { u with copies := s.copies ++ [c], gangs := t.gangs } ∧ goes t id ∧
          t.cg = { s.cg with threads := t.cg.threads, gPending := if o.dst = 0 then s.cg.gPending else o.dst.toNat :: s.cg.gPending } ∧
          c = { c with
            gang := key, launch := s.cg.launch, block := s.cg.block, core := coreOf key, world := s.cg.world, xlate := s.cg.xlate, lanes := L
            token := o.dst.toNat, bar := r.bar, weightWrite := r.weightWrite, delivered := 0, priv := (s.cl low).priv, w := 0, pc := s.cur.pc } ∧
          (∀ x ∈ c.chunks, 0 < x.size ∧ x.dst.index % 128 + x.size ≤ 128) ∧
          (c.chunks.flatMap fun x => (List.range x.size).map fun j => (x.dst.plus j, x.src.plus j)) =
            r.rows.flatMap fun y => (List.range y.size).map fun j => ((s.placeOf key r.dst y.dst).plus j, (s.placeOf key r.src y.src).plus j))
    let uniform := fun (fs : List (Nat → Word)) => ∀ f ∈ fs, ∀ k, L.getLsbD k = true → f k = f low
    let plain := [s.opA o, s.opBReg o, s.opC o]
    let all := [(Instr.cpy o, 0x160, plain), (Instr.cpy2d o, 0x161, [s.opA o, s.opBReg o]), (Instr.cpym o, 0x162, plain),
      (Instr.cpyx o, 0x163, [s.opA o, s.opBReg o]), (Instr.cpyw o, 0x164, plain)]
    (∀ i op fs, (i, op, fs) ∈ all → s.checks op o = .ok 0 → s.ThreadResult i fun _ t => s.goesOn o t) ∧
    (∀ i op fs, (i, op, fs) ∈ all → s.checks op o = .ok L → ¬uniform fs →
      exec i s = .next (s.trap
        { cause := .nonuniformOperand, mask := those L fun k => fs.any fun f => f k != f low, addr := s.freeAddr, info := s.freeInfo })) ∧
    (s.checks 0x160 o = .ok L → uniform plain → starts (.cpy o) s one one) ∧
    (s.checks 0x162 o = .ok L → uniform plain →
      (s.cg.byCrossing = true ∨ s.ownAlloc = none → illegal (.cpym o)) ∧
      (s.cg.byCrossing = false → s.ownAlloc ≠ none →
        let r := { one with bar := some (o.ty.code + o.opmod.toNat / 4 * 16) }
        starts (.cpym o) s r r)) ∧
    (s.checks 0x164 o = .ok L → uniform plain →
      let r := { one with dst := .weight, src := if dir = 0 then .global else .scratch, weightWrite := true }
      starts (.cpyw o) s r r) ∧
    (s.checks 0x161 o = .ok L → uniform [s.opA o, s.opBReg o] →
      (o.c.toNat % 2 = 1 ∨ illShaped → illegal (.cpy2d o)) ∧
      (o.c.toNat % 2 = 0 → ¬illShaped →
        let r := { one with rows := (List.range count).map row }
        starts (.cpy2d o) s r r)) ∧
    (s.checks 0x163 o = .ok L → uniform [s.opA o, s.opBReg o] →
      (illShaped → illegal (.cpyx o)) ∧
      (¬illShaped →
        starts (.cpyx o) tabled table
          (if dir = 0 then
            { dst := .scratch, src := .global, base := base, srcBase := src, table := none, bar := none, weightWrite := false
              rows := (List.range count).map fun i => { dst := packed i, src := listed i, size := size } }
          else
            { dst := .global, src := .scratch, base := base, srcBase := src, table := none, bar := none, weightWrite := false
              rows := (List.range count).map fun i => { dst := listed i, src := packed i, size := size } })))

/-- R252 to R259, R122: CBINIT opens a context; CBPUSH appends its lanes' constraints in order; CBPOP receives the first constraint that is eligible, or the
end value, or waits; CBDONE marks what it names done; CBSTAT reads counts; QPUSH, QPOP and QSTAT append to, take from and describe a queue window. What a
push or a completion hands to threads that already wait, and what spills, is left out here. -/
def Obligations.QueuesAndBatches : Prop :=
  ∀ (s : State) (L : Mask) (o : Ops), s.Issuing → s.Running → SMap.wf none s.cbs = true →
    let low := lowest L
    let key := s.cur.gang
    let die := dieOf key
    let goes := fun (t : State) => ∀ k, s.cur.lanes.getLsbD k = true → t.cl k = s.goesOn o (s.cl k)
    let overflow := fun (i : Instr) (m : Mask) (code : Nat) =>
      exec i s = .next (s.trap { cause := .cbuOverflow, mask := m, addr := s.freeAddr, info := word code })
    let opened := fun (t : State) (n : Nat) (c : CbCtx) => ∀ m, SMap.get none t.cbs m = if m = die * 16 + n then some c else SMap.get none s.cbs m
    (∀ i op, (i, op) ∈ [(Instr.cbinit o, 0x165), (Instr.cbpush o, 0x166), (Instr.cbpop o, 0x167), (Instr.cbdone o, 0x168), (Instr.qpush o, 0x16A),
        (Instr.qpop o, 0x16B)] → s.checks op o = .ok 0 → s.ThreadResult i fun _ t => s.goesOn o t) ∧
    (L ≠ 0 → s.checks 0x165 o = .ok L → (∀ k, L.getLsbD k = true → s.opA o k = s.opA o low ∧ s.opB o k = s.opB o low) →
      let count := (s.opA o low).toNat
      let bodies := (s.opB o low).toNat
      let legal := count ≠ 0 ∧ count < 2 ^ 32 ∧ bodies ≠ 0 ∧ bodies < 2 ^ 16
      let free := ∀ c, s.ctxOf die o.dst.toNat = some c → c.launch = s.cg.launch ∧ c.done = c.count
      (¬legal → exec (.cbinit o) s = .next (s.trap { cause := .illegalInsn, mask := L, addr := 0, info := s.cur.raw })) ∧
      (legal → ¬free → overflow (.cbinit o) L 3) ∧
      (legal → free → ∃ t, exec (.cbinit o) s = .next t ∧ State.OnlyBundle { s with cbs := t.cbs } t ∧ goes t ∧
        opened t o.dst.toNat { launch := s.cg.launch, count := count, bodies := bodies, items := [] })) ∧
    (L ≠ 0 → s.checks 0x166 o = .ok L → (∀ k, L.getLsbD k = true → s.releaseDone key k 3 = true) →
      (s.openCtx o.dst.toNat = none → overflow (.cbpush o) L 3) ∧
      ∀ c, s.openCtx o.dst.toNat = some c →
        let place := fun k => (lanes L).idxOf k
        let excess := those L fun k => decide (c.count ≤ c.items.length + place k)
        let wrong := those L fun k => (bodiesOf (s.opA o k)).any fun b => decide (c.bodies ≤ b)
        (excess ≠ 0 → overflow (.cbpush o) excess 0) ∧
        (excess = 0 → wrong ≠ 0 → overflow (.cbpush o) wrong 1) ∧
        (excess = 0 → wrong = 0 → s.inputLoad die + (lanes L).length ≤ 4096 → s.spilledAny die kindConstraint die = false →
          s.poppers die o.dst.toNat c.launch = [] →
          ∃ t, exec (.cbpush o) s = .next t ∧ State.OnlyBundle { s with cbs := t.cbs } t ∧ goes t ∧
            opened t o.dst.toNat { c with
              items := c.items ++ (lanes L).map fun k =>
                { body := s.opA o k, tag := BitVec.ofNat 48 (s.opB o k).toNat, released := false, finished := false, spilled := false } })) ∧
    (L ≠ 0 → s.checks 0x167 o = .ok L → s.openCtx o.a.toNat = none → overflow (.cbpop o) L 3) ∧
    (∀ k c, k < 32 → s.cur.lanes.getLsbD k = true → L = laneMask k → s.checks 0x167 o = .ok L → s.openCtx o.a.toNat = some c →
      s.poppers die o.a.toNat c.launch = [] →
      let receives := fun (v : Word) (c' : CbCtx) =>
        ∃ t, exec (.cbpop o) s = .next t ∧ State.OnlyBundle { s with cbs := t.cbs, leases := s.acquired (coreOf key) 3 } t ∧ opened t o.a.toNat c' ∧
          (∀ j, j ≠ k → s.cur.lanes.getLsbD j = true → ∃ tag, t.cl j = { s.goesOn o (s.cl j) with bundle := tag }) ∧
          t.cl k = { s.goesOn o (s.cl k) with d := (t.cl k).d, dValid := (t.cl k).dValid, tracked := (t.cl k).tracked, waitLen := 0, bundle := none } ∧
          ∀ n, (t.cl k).getD n = if n = o.dst.toNat ∧ n ≠ 0 then v else (s.cl k).getD n
      (c.done = c.count → receives (word (2 ^ 63)) c) ∧
      (c.done ≠ c.count → ∀ i it, c.items[i]? = some it → c.eligible i = true → (∀ j < i, c.eligible j = false) →
        receives (word (i % 256 * 2 ^ 48 + it.tag.toNat)) { c with items := c.items.set i { it with released := true } }) ∧
      (c.done ≠ c.count → (∀ i, c.eligible i = false) →
        ∃ t, exec (.cbpop o) s = .next t ∧ s.OnlyBundle t ∧
          (∀ j, j ≠ k → s.cur.lanes.getLsbD j = true → ∃ tag, t.cl j = { s.goesOn o (s.cl j) with bundle := tag }) ∧
          ∃ tag, t.cl k =
            { s.goesTo o (s.cl k) (s.cl k).pc with wait := .cbpop o.a.toNat o.dst.toNat s.clock, waitLen := s.cur.len, bundle := tag })) ∧
    (∀ (c : CbCtx) (i : Nat), c.eligible i = true ↔ ∃ it, c.items[i]? = some it ∧ it.released = false ∧ it.spilled = false ∧
      (∀ j < i, ∀ jt, c.items[j]? = some jt → jt.finished = false → ∀ b ∈ bodiesOf jt.body, b ∉ bodiesOf it.body) ∧
      ∀ jt, 256 ≤ i → c.items[i - 256]? = some jt → ¬(jt.released = true ∧ jt.finished = false)) ∧
    (L ≠ 0 → s.checks 0x168 o = .ok L → (∀ k, L.getLsbD k = true → s.releaseDone key k 3 = true) →
      (s.openCtx o.dst.toNat = none → overflow (.cbdone o) L 3) ∧
      ∀ c, s.openCtx o.dst.toNat = some c →
        (∀ k, k < 32 → L = laneMask k → c.named (s.opA o k) = none → overflow (.cbdone o) L 2) ∧
        ∀ c', c.finish ((lanes L).map fun k => (k, s.opA o k)) = (c', []) → s.poppers die o.dst.toNat c.launch = [] →
          ∃ t, exec (.cbdone o) s = .next t ∧ State.OnlyBundle { s with cbs := t.cbs } t ∧ goes t ∧ opened t o.dst.toNat c' ∧
            (∀ k i it, k < 32 → L = laneMask k → c.named (s.opA o k) = some i → c.items[i]? = some it →
              it.released = true ∧ it.finished = false ∧ (s.opA o k).toNat / 2 ^ 48 % 256 = i % 256 ∧ (s.opA o k).toNat % 2 ^ 48 = it.tag.toNat ∧
              c' = { c with items := c.items.set i { it with finished := true } })) ∧
    (s.checks 0x169 o = .ok L →
      let n := match s.openCtx o.a.toNat with
        | none => 0
        | some c =>
          match o.opmod.toNat with
          | 0 => c.items.length
          | 1 => c.done
          | 2 => c.inFlight
          | 3 => c.pendingCount
          | _ => if c.done = c.count then 3 else 1
      s.Delivers (exec (.cbstat o) s) o L (fun k => mergeLo o (s.dstBefore o k) (word n)) noReg noReg (fun _ => 0) fun _ => false) ∧
    (L ≠ 0 → s.checks 0x16A o = .ok L →
      (s.cg.shadowOf = none → exec (.qpush o) s = .next (s.trap { cause := .illegalInsn, mask := L, addr := 0, info := s.cur.raw })) ∧
      ∀ host, s.cg.shadowOf = some host → host ≠ key → s.resident host = true → (s.gangAt host).threads.length = 32 →
        (∀ k < 32, SMap.wf [] ((s.gangAt host).lane k).windows = true) →
        (∀ k, L.getLsbD k = true → s.windowHeld host k o.dst.toNat < 8 ∧ s.windowSpilled host k o.dst.toNat = 0) →
        ∃ t, exec (.qpush o) s = .next t ∧ t = { s with gangs := t.gangs } ∧ goes t ∧
          (∀ key', key' ≠ key → key' ≠ host → t.gangAt key' = s.gangAt key') ∧ t.cg = { s.cg with threads := t.cg.threads } ∧
          (∀ k, s.cur.lanes.getLsbD k = false → t.cl k = s.cl k) ∧ t.gangAt host = { s.gangAt host with threads := (t.gangAt host).threads } ∧
          ∀ k < 32, (t.gangAt host).lane k = { (s.gangAt host).lane k with windows := ((t.gangAt host).lane k).windows } ∧
            ∀ w, t.window host k w = if L.getLsbD k = true ∧ w = o.dst.toNat then s.window host k w ++ [s.opA o k] else s.window host k w) ∧
    (L ≠ 0 → s.checks 0x16B o = .ok L → s.cg.shadowOf = none → (∀ k < 32, SMap.wf [] (s.cl k).windows = true) →
      let w := o.a.toNat
      ((∃ k, L.getLsbD k = true ∧ s.windowHeld key k w = 0 ∧ (s.window key k w ≠ [] ∨ s.shadowGone key k = false)) → exec (.qpop o) s = .next s) ∧
      ((∀ k, L.getLsbD k = true → s.windowHeld key k w ≠ 0 ∨ s.window key k w = [] ∧ s.shadowGone key k = true) →
        ∃ t, exec (.qpop o) s = .next t ∧ s.OnlyBundle t ∧ ∀ k, s.cur.lanes.getLsbD k = true →
          t.cl k = { s.goesOn o (s.cl k) with
            d := (t.cl k).d, dValid := (t.cl k).dValid, p := (t.cl k).p, tracked := (t.cl k).tracked, windows := (t.cl k).windows } ∧
          (∀ n, (t.cl k).getD n = if L.getLsbD k ∧ n = o.dst.toNat ∧ n ≠ 0 ∧ s.window key k w ≠ [] then (s.window key k w).headD 0 else (s.cl k).getD n) ∧
          (∀ n, (t.cl k).getP n = if L.getLsbD k ∧ n = o.b.toNat ∧ n < 7 then decide (s.window key k w = []) else (s.cl k).getP n) ∧
          ∀ v, t.window key k v = if L.getLsbD k ∧ v = w then (s.window key k w).tail else s.window key k v)) ∧
    (s.checks 0x16C o = .ok L →
      let host := s.cg.shadowOf.getD key
      let v := fun k => min 8 (s.windowHeld host k o.a.toNat) + s.windowSpilled host k o.a.toNat % 2 ^ 32 * 2 ^ 4
        + if s.shadowGone host k then 2 ^ 63 else 0
      s.Delivers (exec (.qstat o) s) o L (fun k => mergeLo o (s.dstBefore o k) (word (v k))) noReg noReg (fun _ => 0) fun _ => false)

/-- R74, R78 to R80, R82, R84 to R88: a matrix instruction whose operands are uniform, aligned and in bounds enters the queue of its partition's array with
the operands it read; its token, where it has one, is pending. Operands that differ or are misaligned trap, and so does a product whose literal leads its
base to another core than srcA's selector names; in which order these come is the model's choice (assumption 62). A full queue, or a leader's paired
operation, makes it wait. R83, R87, R89: MREADY waits while the gang has a matrix instruction unretired, or a guarded thread a scratch store that has not been performed, then raises what SCACC has
recorded; MWAIT waits while its token is
pending; MELECT names the lowest guarded lane and the core's half of its pair. Without a guarded lane a matrix instruction only goes on. -/
def Obligations.MatrixIssueAndWaits : Prop :=
  (∀ (s : State) (L : Mask) (o : Ops) (i : Instr) (code : Nat) (fs : List (Nat → Word)) (token : Bool) (align : Nat) (vals : List Word) (op : MatrixOp),
     s.Issuing → s.Running → SMap.wf Array8.reset s.arrays = true → L ≠ 0 → s.checks code o = .ok L →
     let low := lowest L
     let key := s.cur.gang
     let core := coreOf key
     let p := partOf key
     let off : Word := match o.lit with | some l => sext 32 l.toNat | none => 0
     let a := s.opA o low + off
     let st := s.opBReg o low
     let two := [s.opA o, s.opBReg o]
     let slab := [s.opA o low, off, st]
     let odd := o.opmod.toNat % 2 == 1
     let tile := o.c.toNat % 8
     let bytes := if o.ty = .f64 then 8 else 4
     let step := if st = 0 then word (8 * bytes) else st
     (i, code, fs, token, align, vals, op) ∈
       [ (Instr.mzero o, 0x180, [], false, 1, [], MatrixOp.zero o.dst.toNat),
         (Instr.mldb o, 0x181, two, true, 64, slab, .load odd (o.opmod.toNat / 4 == 1) o.ty a st),
         (Instr.mma o, 0x182, two, true, 64, slab, .mul false o.ty o.ty2 tile a st o.rnd o.sat),
         (Instr.mmap o, 0x183, two, true, 64, slab, .mul true o.ty o.ty2 tile a st o.rnd o.sat),
         (Instr.mminplus o, 0x184, two, true, 64, slab, .minPlus odd tile a st o.rnd),
         (Instr.mmaxtimes o, 0x185, two, true, 64, slab, .maxTimes odd tile a st o.rnd),
         (Instr.morand o, 0x186, two, true, 64, slab, .orAnd odd tile a st),
         (Instr.scacc o, 0x187, [s.opA o, s.opBReg o, s.opC o], false, 4, [st, s.opC o low],
           .scale o.dst.toNat (o.opmod.toNat % 4) a st (s.opC o low) o.rnd o.sat),
         (Instr.maccld o, 0x188, two, true, bytes, [a, step], .tileLoad odd o.ty o.c.toNat a step),
         (Instr.maccst o, 0x189, two, true, bytes, [a, step], .tileStore odd o.ty o.c.toNat a step),
         (Instr.mpsst o, 0x18A, two, true, bytes, [a, step], .tileStore odd o.ty o.c.toNat a step) ] →
     let uniform := ∀ f ∈ fs, ∀ k, L.getLsbD k = true → f k = f low
     -- a product takes its core from the selector of srcA (R85)
     let core' := if 0x182 ≤ code ∧ code ≤ 0x186 then some (Word.field (s.opA o low) 22 20) else none
     let ranges := op.readRanges core ++ op.writeRanges core
     let inWeights := ∀ own t, op = .load own true t a st → ∀ j < 8, (a + word j * st).toNat + 64 ≤ 2 ^ 28
     (¬uniform → exec i s = .next (s.trap
       { cause := .nonuniformOperand, mask := those L fun k => fs.any fun f => f k != f low, addr := s.freeAddr, info := s.freeInfo })) ∧
     (uniform → op.paired = true → s.pairRefused = true →
       exec i s = .next (s.trap { cause := .illegalInsn, mask := L, addr := 0, info := s.cur.raw })) ∧
     (uniform → ¬(op.paired = true ∧ s.pairRefused = true) → ∀ v, (vals.filter fun v => v.toNat % align != 0).head? = some v →
       exec i s = .next (s.trap { cause := .misaligned, mask := L, addr := v, info := s.freeInfo })) ∧
     (uniform → ¬(op.paired = true ∧ s.pairRefused = true) → (∀ v ∈ vals, v.toNat % align = 0) → ∀ r n, ranges.head? = some r → core' = some n →
       Word.field r.addr 22 20 ≠ n →
       exec i s = .next (s.trap { cause := .scratchBounds, mask := L, addr := r.addr, info := word r.field })) ∧
     (uniform → ¬(op.paired = true ∧ s.pairRefused = true) → (∀ v ∈ vals, v.toNat % align = 0) →
       (∀ r ∈ ranges, (∀ n, core' = some n → Word.field r.addr 22 20 = n) ∧ s.endTrap L r.core r.field [(r.addr, r.size)] = none) → inWeights →
       (s.refusesMatrix p = true ∨ 8 ≤ (s.array p).queue.length → exec i s = .next s) ∧
       (s.refusesMatrix p = false → (s.array p).queue.length < 8 →
         ∃ t e, exec i s = .next t ∧ t = { s with arrays := t.arrays, gangs := t.gangs } ∧
           (∀ q, t.array q = if q = p then { s.array p with queue := (s.array p).queue ++ [e] } else s.array q) ∧
           e = { e with
             op := op, gang := key, launch := s.cg.launch, block := s.cg.block, world := s.cg.world, xlate := s.cg.xlate, lanes := L
             token := if token then some o.dst.toNat else none, priv := (s.cl low).priv
             reads := (op.readRanges core).flatMap (s.rangePlace s.cg), writes := (op.writeRanges core).flatMap (s.rangePlace s.cg), spoiled := []
             moved := []
             insn := s.cur.raw, pc := s.cur.pc } ∧
           (∀ key', key' ≠ key → t.gangAt key' = s.gangAt key') ∧
           t.cg = { s.cg with
             threads := t.cg.threads, gPending := if token = true ∧ o.dst ≠ 0 then o.dst.toNat :: s.cg.gPending else s.cg.gPending } ∧
           (∀ k, s.cur.lanes.getLsbD k = false → t.cl k = s.cl k) ∧ ∀ k, s.cur.lanes.getLsbD k = true → t.cl k = s.goesOn o (s.cl k)))) ∧
  (∀ (s : State) (L : Mask) (o : Ops), s.Issuing → s.Running →
     (∀ i op, (i, op) ∈ [(Instr.mzero o, 0x180), (Instr.mldb o, 0x181), (Instr.mma o, 0x182), (Instr.mmap o, 0x183), (Instr.mminplus o, 0x184),
         (Instr.mmaxtimes o, 0x185), (Instr.morand o, 0x186), (Instr.scacc o, 0x187), (Instr.maccld o, 0x188), (Instr.maccst o, 0x189),
         (Instr.mpsst o, 0x18A), (Instr.mready o, 0x18B), (Instr.mwait o, 0x18C)] →
       s.checks op o = .ok 0 → s.ThreadResult i fun _ t => s.goesOn o t) ∧
     (s.checks 0x18B o = .ok L → L ≠ 0 →
       let busy := (∃ p a, (p, a) ∈ s.arrays ∧ ∃ e ∈ a.queue, e.gang = s.cur.gang) ∨
         ∃ k, L.getLsbD k = true ∧ ∃ x ∈ s.stores, x.bank = true ∧ x.gang = s.cur.gang ∧ x.lane = k
       (busy → exec (.mready o) s = .next s) ∧
       (¬busy → s.cg.scaccError = none → s.ThreadResult (.mready o) fun _ t => s.goesOn o t) ∧
       ∀ e, ¬busy → s.cg.scaccError = some e → ∃ u, exec (.mready o) s =
         .next (u.trap { cause := e.cause, mask := L, addr := e.address, info := e.insn }) ∧ s.OnlyGang u ∧ u.cg = { s.cg with scaccError := none }) ∧
     (s.checks 0x18C o = .ok L → L ≠ 0 →
       (o.a.toNat ∈ s.cg.gPending → exec (.mwait o) s = .next s) ∧
       (o.a.toNat ∉ s.cg.gPending → s.ThreadResult (.mwait o) fun _ t => s.goesOn o t)) ∧
     (s.checks 0x18D o = .ok L →
       s.Delivers (exec (.melect o) s) o L (fun k => mergeLo o (s.dstBefore o k) (word (coreOf s.cur.gang % 2)))
         (predOf L o.a.toNat) (fun k _ => k == lowest L) (fun _ => 0) fun _ => false))

/-! ### Traps, control registers and the system block -/

/-- R333, R334, R345, R269: what a trap does to a thread of the issuing bundle: it writes the trap registers; then the thread stores its frame and
enters the handler privileged; or, with TRAPVEC 0 or in privileged code, it stops where it is and one record describes the trap. TRAP and BKPT take
such a trap in their guarded lanes, resumed after them; the other lanes of the bundle keep their pc. That results on their way to d1 and d2 go to the
frame, and that nothing of them is pending then, is the model's choice (assumption 21). -/
def Obligations.TrapEntry : Prop :=
  ∀ (s : State) (o : Ops) (L : Mask) (r : TrapReq), s.Issuing → s.Running → L ≠ 0 → (∀ k, L.getLsbD k = true → s.cur.lanes.getLsbD k = true) →
    let key := s.cur.gang
    let bkpt : TrapReq := { cause := .breakpoint, mask := L, addr := 0, info := 0, debug := s.cg.bkptDbg }
    let trap : TrapReq := { cause := .trapInsn, mask := L, addr := 0, info := match o.lit with | some l => word (l.toNat % 65536) | none => 0 }
    (∀ i op q, (i, op, q) ∈ [(Instr.trap o, 0x1C0, trap), (Instr.bkpt o, 0x1C1, bkpt)] →
      (s.checks op o = .ok 0 → s.ThreadResult i fun _ t => s.goesOn o t) ∧ (s.checks op o = .ok L → exec i s = .next (s.trapNext q))) ∧
    (∀ t resume, (t, resume) ∈ [(s.trap r, s.cur.pc), (s.trapNext r, s.cur.pc + word s.cur.len)] → r.mask = L → r.lines = [] → r.banks = [] → r.pages = [] →
      let regs := fun (u : Thread) =>
        { u with
          trapCause := BitVec.ofNat 8 r.cause.code, trapPc := s.cur.pc, trapAddr := r.addr, trapMask := L, trapInfo := r.info, oplogValid := false
          oplogEntry := 0, hit := r.cause == Cause.watchpoint }
      -- the record of a sampled instruction says that it trapped (R387)
      let sampled := s.samples.map fun x => if x.gang = key ∧ x.pc = s.cur.pc ∧ x.lanes &&& L ≠ 0 then { x with flags := x.flags ||| 1 } else x
      let others := (∀ key', key' ≠ key → t.gangAt key' = s.gangAt key') ∧ t.cg = { s.cg with threads := t.cg.threads } ∧
        ∀ j, j < 32 → L.getLsbD j = false → ∃ tag, t.cl j = { s.cl j with bundle := tag } ∧
          ((∀ k, L.getLsbD k = true → (s.cl k).bundle ≠ (s.cl j).bundle) → tag = (s.cl j).bundle)
      (r.debug = true → t = { s with gangs := t.gangs, samples := sampled } ∧ others ∧ ∀ k, L.getLsbD k = true →
        t.cl k = { regs (s.cl k) with cond := .stopped .debugger, bundle := none, pc := resume }) ∧
      (r.debug = false → (s.cg.trapVec = 0 ∨ ∀ k, L.getLsbD k = true → (s.cl k).priv = true) →
        ∃ item, t = { s with gangs := t.gangs, faults := s.faults ++ [item], samples := sampled } ∧ others ∧
          (∀ k, L.getLsbD k = true → t.cl k = { regs (s.cl k) with cond := .stopped .trap, bundle := none }) ∧
          item.who = .record ∧ item.posted = none ∧ item.entry = none ∧
          let u := s.cl (lowest L)
          item.record = recordBytes r.addr s.cur.pc u.launch u.block u.tid L r.cause.code (r.info.toNat % 256)
            (dieOf key * 2 ^ 14 + coreOf key % 48 * 2 ^ 8 + partOf key % 8 * 2 ^ 5 + 16) (asidOf s.cg.xlate)
            ((lanes L).any fun k => (s.cl k).priv)) ∧
      (∀ k l pas, r.debug = false → s.cg.trapVec ≠ 0 → k < 32 → L = laneMask k → (s.cl k).priv = false → s.launchOn s.cg.launch (dieOf key) = some l →
        let frame := l.packet.trapFrames + word (128 * (k + 32 * key))
        s.translateRange (coreOf key) s.cg.xlate frame .store true 32 = .ok (s, pas) →
        let words := leBytes 8 ((s.cl k).getD 1).toNat ++ leBytes 8 ((s.cl k).getD 2).toNat ++ leBytes 8 (s.cl k).preds.toNat ++ leBytes 8 resume.toNat
        t = { s with
          gangs := t.gangs, stores := s.stores ++ (s.piecesOf pas words).map (s.storeOf k), leases := t.leases, loads := t.loads, atoms := t.atoms
          oplog := t.oplog, samples := sampled } ∧ others ∧
        (∃ tag, t.cl k = { regs (s.cl k) with
          mode := .handler, pc := s.cg.trapVec, frame := frame, d := (t.cl k).d, dValid := (t.cl k).dValid, pending := (t.cl k).pending
          tracked := (t.cl k).tracked, bundle := tag }) ∧
        (∀ n, (t.cl k).getD n = if n = 1 then frame else if n = 2 then frame + 128 else (s.cl k).getD n) ∧
        t.loads = s.loads.map (fun x => if x.gang = key ∧ x.lane = k then { x with dst := x.dst.toFrame } else x) ∧
        ∀ x, x ∈ (t.cl k).pending ↔ x ∈ (s.cl k).pending ∧ x ≠ .d 1 ∧ x ≠ .d 2))

/-- R335, R346, R312, R344: ERET of a lane in a handler gives d1, d2, the predicates and the pc what its frame holds, and the thread is unprivileged;
in a routine the pc is TRAPPC, and with the last thread that leaves it the use of its area ends (R310). An unprivileged thread traps. That an ERET
whose frame cannot be read is a trap is the model's choice (assumption 10). -/
def Obligations.ReturnsFromTraps : Prop :=
  ∀ (s : State) (o : Ops) (L : Mask), s.Issuing → s.Running →
    let key := s.cur.gang
    (s.checks 0x1C2 o = .ok 0 → s.ThreadResult (.eret o) fun _ t => s.goesOn o t) ∧
    (L ≠ 0 → s.checks 0x1C2 o = .ok L → (s.cl (lowest L)).priv = false →
      exec (.eret o) s = .next (s.trap { cause := .illegalInsn, mask := L, addr := 1, info := s.cur.raw })) ∧
    ∀ k, k < 32 → s.cur.lanes.getLsbD k = true → L = laneMask k → s.checks 0x1C2 o = .ok L →
      let others := fun (t : State) => ∀ j, j ≠ k → s.cur.lanes.getLsbD j = true → ∃ tag, t.cl j = { s.goesOn o (s.cl j) with bundle := tag }
      let stays := s.cg.inArea = false ∨ s.cg.taken = true ∨
        ∃ j < 32, j ≠ k ∧ (s.cl j).cond ≠ .exited ∧ ((s.cl j).mode = .save ∨ (s.cl j).mode = .restore)
      (∀ f, (s.cl k).mode = .handler → s.translateRange (coreOf key) s.cg.xlate (s.cl k).frame .load true 32 = .error f →
        exec (.eret o) s = .next (s.trap { cause := f.cause, mask := L, addr := f.va, info := word f.info })) ∧
      (∀ pas, (s.cl k).mode = .handler → (s.cl k).oplogValid = false → stays →
        s.translateRange (coreOf key) s.cg.xlate (s.cl k).frame .load true 32 = .ok (s, pas) →
        let w := fun n => word (leNat (((pas.map (s.view (coreOf key))).drop (8 * n)).take 8))
        ∃ t, exec (.eret o) s = .next t ∧ s.OnlyBundle t ∧ others t ∧
          t.cl k = { s.goesTo o (s.cl k) (w 3) with
            d := (t.cl k).d, dValid := (t.cl k).dValid, p := BitVec.ofNat 7 (w 2).toNat, mode := .user, bundle := none, tracked := (t.cl k).tracked
            skipWatch := (s.cl k).hit && w 3 == (s.cl k).trapPc, hit := false } ∧
          ∀ n, (t.cl k).getD n = if n = 1 then w 0 else if n = 2 then w 1 else (s.cl k).getD n) ∧
      ((s.cl k).mode = .save ∨ (s.cl k).mode = .restore →
        ∃ u, s.OnlyBundle u ∧ u.cl k = { s.goesTo o (s.cl k) (s.cl k).trapPc with mode := .user, bundle := none } ∧
          (∀ j, j ≠ k → s.cur.lanes.getLsbD j = true → u.cl j = s.goesOn o (s.cl j)) ∧
          (stays → exec (.eret o) s = .next u.split) ∧ (¬stays → exec (.eret o) s = .next (u.endArea key).split))

/-- R344, R347, R348: CSRR delivers the register that its number names (HEAPCOL, with no cycle active, as an acquire at system scope); CSRW, CSRX and
CSRR of an unlisted number, of a register that the thread may not read or write so, are illegal and say why. R347 to R349, R360 to R362, R209, R280,
R338: a permitted CSRW stores its operand in the register as the register keeps it: in each guarded lane for a register of a thread; once, from a
uniform operand, for any other. CSRX stores the operand, or sets or clears its bits, and delivers the old value. Nothing else changes, but for what a
write of OPLOG, PREEMPTCTL or HEAPCOL begins and the measurement of FUNCMODE and LEASECTL. The order of the checks of a read-only register and of
privilege (assumption 42), a watchdog of 0 kept as 1 (assumption 53) and a write of HEAPCOL that drops a cycle (assumption 40) are the model's choice.
-/
def Obligations.ControlRegisters : Prop :=
  (∀ (s : State) (L : Mask) (o : Ops) (i : Instr) (op : Nat) (reads writes : Bool), s.Issuing → s.Running →
     (i, op, reads, writes) ∈ [(Instr.csrr o, 0x1C3, true, false), (Instr.csrw o, 0x1C4, false, true), (Instr.csrx o, 0x1C5, true, true)] →
     let key := s.cur.gang
     let illegal := fun (why : Word) => exec i s = .next (s.trap { cause := .illegalInsn, mask := L, addr := why, info := s.cur.raw })
     let priv := (s.cl (lowest L)).priv
     let world := s.worldOf (partOf key)
     (s.checks op o = .ok 0 → s.ThreadResult i fun _ t => s.goesOn o t) ∧
     (s.checks op o = .ok L → L ≠ 0 →
       (i = .csrx o → o.opmod.toNat = 3 → illegal 0) ∧
       (o.opmod.toNat ≠ 3 → Csr.ofNumber o.a.toNat = none → illegal 0) ∧
       ∀ r, o.opmod.toNat ≠ 3 → Csr.ofNumber o.a.toNat = some r →
         let readOnly := r ∈ [Csr.savearea, .enused, .world, .wsrefr]
         let userWrites := r ∈ [Csr.status, .stallchk]
         let systemWrites := r ∈ [Csr.funcmode, .preemptctl, .enbudget, .leasectl, .heapcol]
         let privReads := r ∈ [Csr.trapvec, .trapcause, .trappc, .trapaddr, .trapmask, .trapinfo, .oplog, .savearea, .wpaddr0, .wpctl0, .wpaddr1, .wpctl1]
         (writes = true → readOnly → illegal 0) ∧
         (¬(writes = true ∧ readOnly) → priv = false → reads = true ∧ privReads ∨ writes = true ∧ ¬userWrites → illegal 1) ∧
         (writes = true → systemWrites → priv = true → world ≠ 0 → illegal 2) ∧
         (i = .csrr o → o.lo = false → ¬(privReads ∧ priv = false) →
           let u := if r = .heapcol ∧ (s.heapOf (asidOf s.cg.xlate)).active = false then { s with leases := s.acquired (coreOf key) 5 } else s
           u.Delivers (exec i s) o L (fun k => s.csrRead key k r) noReg noReg (fun _ => 0) fun _ => false))) ∧
  (∀ (s : State) (L : Mask) (o : Ops) (i : Instr) (op : Nat) (r : Csr) (new : Word → Word → Word), s.Issuing → s.Running → L ≠ 0 →
     (i, op, new) ∈
       [ (Instr.csrw o, 0x1C4, fun _ v => v),
         (Instr.csrx o, 0x1C5, fun old v => match o.opmod.toNat with | 0 => v | 1 => old ||| v | _ => old &&& ~~~v) ] →
     s.checks op o = .ok L → (i = .csrx o → o.opmod.toNat ≠ 3) → Csr.ofNumber o.a.toNat = some r → o.lo = false →
     let key := s.cur.gang
     let low := lowest L
     (s.cl low).priv = true ∨ r ∈ [Csr.status, .stallchk] → s.worldOf (partOf key) = 0 ∨ r ∉ [Csr.funcmode, .preemptctl, .enbudget, .leasectl, .heapcol] →
     r ∉ [Csr.savearea, .enused, .world, .wsrefr] → SMap.wf Die.reset s.dies = true →
     let v := fun k => new (s.csrRead key k r) (s.opBNat o k)
     let d := dieOf key
     let perThread := r ∈ [Csr.trapcause, .trappc, .trapaddr, .trapmask, .trapinfo, .status]
     let uniform := ∀ k, L.getLsbD k = true → s.opBNat o k = s.opBNat o low
     let goes := fun (u : State) =>
       (i = .csrw o → ∃ t, exec i s = .next t ∧ u.OnlyBundle t ∧ ∀ k, s.cur.lanes.getLsbD k = true → t.cl k = s.goesOn o (u.cl k)) ∧
       (i = .csrx o → o.clsD = false → ∃ t, exec i s = .next t ∧ u.WroteLanes t o (dstOf o L) (fun k _ => s.csrRead key k r) noReg noReg (fun _ => 0) fun _ => false) ∧
       (i = .csrx o → o.clsD = true → (∀ k, L.getLsbD k = true → s.csrRead key k r = s.csrRead key low r) →
         ∃ t, exec i s = .next t ∧ u.WroteG t o L (s.csrRead key low r) noReg noReg (fun _ => 0) fun _ => false)
     (perThread → ∃ u, State.OnlyGang s u ∧ u.cg = { s.cg with threads := u.cg.threads } ∧ goes u ∧
       ∀ k < 32, u.cl k =
         if L.getLsbD k then
           match r with
           | .trapcause => { s.cl k with trapCause := BitVec.ofNat 8 (v k).toNat }
           | .trappc => { s.cl k with trapPc := v k }
           | .trapaddr => { s.cl k with trapAddr := v k }
           | .trapmask => { s.cl k with trapMask := BitVec.ofNat 32 (v k).toNat }
           | .trapinfo => { s.cl k with trapInfo := v k }
           | _ => { s.cl k with fflags := BitVec.ofNat 5 (v k).toNat, dyReserved := (v k).getLsbD 5 }
         else s.cl k) ∧
     (r = .oplog → (∀ k, L.getLsbD k = true → (v k).getLsbD 5 = false) → goes s) ∧
     (r = .oplog → ∀ k, k < 32 → L = laneMask k → (v k).getLsbD 5 = true → goes ((s.oplog.filter fun e => e.gang == key && (s.cl k).oplogValid &&
       (s.cl k).oplogEntry.toNat == e.entry).foldl State.freeLogged s)) ∧
     (¬perThread → r ≠ .oplog → ¬uniform → exec i s = .next (s.trap
       { cause := .nonuniformOperand, mask := those L fun k => s.opBNat o k != s.opBNat o low, addr := s.freeAddr, info := s.freeInfo })) ∧
     (¬perThread → r ≠ .oplog → uniform →
       let w := v low
       let n := w.toNat
       let size := fun (ctl : BitVec 10) => ctl.toNat / 8 % 32
       let gang := fun (g : Gang) => ∃ u, State.OnlyGang s u ∧ u.cg = g ∧ goes u
       let device := fun (u : State) => goes u
       match r with
       | .trapvec => gang { s.cg with trapVec := word (n / 4 * 4) }
       | .stallchk => gang { s.cg with stallChk := w.getLsbD 0 }
       | .dbgctl => gang { s.cg with
           bkptDbg := w.getLsbD 3, uninitChk := w.getLsbD 0, stepMode := if w.getLsbD 2 then 0 else BitVec.ofNat 2 (n / 2 % 4) }
       | .wpaddr0 => gang { s.cg with wpAddr0 := word (n / 2 ^ size s.cg.wpCtl0 * 2 ^ size s.cg.wpCtl0) }
       | .wpaddr1 => gang { s.cg with wpAddr1 := word (n / 2 ^ size s.cg.wpCtl1 * 2 ^ size s.cg.wpCtl1) }
       | .wpctl0 => gang { s.cg with wpCtl0 := BitVec.ofNat 10 (n / 256 % 4 * 256 + min 12 (n / 8 % 32) * 8 + n % 8) }
       | .wpctl1 => gang { s.cg with wpCtl1 := BitVec.ofNat 10 (n / 256 % 4 * 256 + min 12 (n / 8 % 32) * 8 + n % 8) }
       | .snapctl => device { s with snapMc := w.getLsbD 3, snapPin := w.getLsbD 2, snapUser := w.getLsbD 1, snapArmed := w.getLsbD 0 }
       | .enbudget => device (s.onDie d fun x =>
           { x with enBudget := w, enUsed := s.enUsed d, issueStopped := s.issueStopped d, enWindow := windowOf s.gtime })
       | .funcmode => ∃ u, device u ∧ u = { s with dies := u.dies, sec := u.sec } ∧ (u.die d).funcMode = BitVec.ofNat 8 n
       | .leasectl => ∃ u, device u ∧ u = { s with leaseNs := u.leaseNs, marginNs := u.marginNs, sec := u.sec } ∧
           u.leaseNs.toNat = max 50 (min 4000 (n % 4096)) ∧ u.marginNs.toNat = max 4 (n / 65536 % 256)
       | .preemptctl =>
         let set := s.onDie d fun x => { x with preemptLaunch := BitVec.ofNat 32 (n / 2 ^ 32), watchdogUs := BitVec.ofNat 16 (max 1 (n % 65536)) }
         (w.getLsbD 16 = false ∨ s.requestStands d = true → device set) ∧
         (w.getLsbD 16 = true → s.requestStands d = false → (s.gangs.map fun g => g.key).Nodup → ∃ u, device u ∧ u = { set with gangs := u.gangs } ∧
           ∀ key', s.resident key' = true →
             let g := s.gangAt key'
             u.gangAt key' =
               if dieOf key' = d ∧ g.launch = n / 2 ^ 32 ∧ g.taken = false then
                 { g with request := some (s.gtime + max 1 (n % 65536) * 1000) }
               else g)
       | .heapcol =>
         let asid := asidOf s.cg.xlate
         ((s.heapOf asid).active = true → w.getLsbD 62 = true → device s) ∧
         (¬((s.heapOf asid).active = true ∧ w.getLsbD 62 = true) → ∃ u, device u ∧ u = { s with heaps := u.heaps, cycles := u.cycles } ∧
           u.heapOf asid = { asid := asid, colour := w.getLsbD 63, active := w.getLsbD 62, desc := word (n / 64 % 2 ^ 42 * 64) } ∧
           (w.getLsbD 62 = false → ∀ c ∈ u.cycles, c.asid ≠ asid) ∧ (w.getLsbD 62 = true → ∃ c ∈ u.cycles, c.asid = asid ∧ c.begun = false))
       | _ => True))

/-- R308, R318 to R320, R336, R344, R350 to R357: SAFE passes unless its gang is to be saved; LAUNCH of one lane starts its packet's launch under the
next number and queues its blocks; LWAIT goes on with a word that reads done; TLBINV discards translations and waits; SNAP fires the trigger; ENRD
reads; WCLEAR and HALT begin what they wait for. That each die reads the packet once more by itself (assumption 81), and that LWAIT.try is served at
home or under a lease by a free value (assumption 15), is the model's choice. -/
def Obligations.SystemOperations : Prop :=
  ∀ (s : State) (L : Mask) (o : Ops), s.Issuing →
    let key := s.cur.gang
    let core := coreOf key
    let low := lowest L
    let priv := (s.cl low).priv
    let world := s.worldOf (partOf key)
    let illegal := fun (i : Instr) (m : Mask) (why : Word) => exec i s = .next (s.trap { cause := .illegalInsn, mask := m, addr := why, info := s.cur.raw })
    let waits := fun (u : State) (i : Instr) (w : Nat → Wait) => ∃ t, exec i s = .next t ∧ u.OnlyBundle t ∧ ∀ k, s.cur.lanes.getLsbD k = true → ∃ tag,
      t.cl k = { (if L.getLsbD k then { s.goesTo o (s.cl k) (s.cl k).pc with wait := w k, waitLen := s.cur.len } else s.goesOn o (s.cl k)) with bundle := tag }
    (∀ i op, (i, op) ∈ [(Instr.safe o, 0x1C6), (Instr.launch o, 0x1C7), (Instr.tlbinv o, 0x1C9), (Instr.snap o, 0x1CA), (Instr.enrd o, 0x1CB),
        (Instr.wclear o, 0x1CC), (Instr.halt o, 0x1CD)] → s.checks op o = .ok 0 → s.ThreadResult i fun _ t => s.goesOn o t) ∧
    (L ≠ 0 → s.checks 0x1C6 o = .ok L → s.Running →
      (32 ≤ o.a.toNat ∨ 2 ≤ o.c.toNat → illegal (.safe o) L 0) ∧
      (o.a.toNat < 32 → o.c.toNat < 2 →
        (priv = true ∨ s.safeStops key = false → s.ThreadResult (.safe o) fun _ t => s.goesOn o t) ∧
        (priv = false → s.safeStops key = true → (∀ k, L.getLsbD k = true → s.logged key k = false ∧ (s.cl k).slots = 0) →
          (∃ k < 32, (s.cl k).cond ≠ .exited ∧ L.getLsbD k = false ∧ (s.cl k).cond ≠ .stopped .safePoint) →
          let lit := match o.lit with | some l => l.toNat | none => 0
          ∃ t, exec (.safe o) s = .next t ∧ s.OnlyBundle t ∧ ∀ k, s.cur.lanes.getLsbD k = true → ∃ tag,
            t.cl k = if L.getLsbD k then
              { s.goesOn o (s.cl k) with
                cond := .stopped .safePoint, bundle := none
                safeInfo := word ((s.cl k).ix.toNat * 2 ^ 40 + o.c.toNat * 2 ^ 36 + (o.dst.toNat + o.a.toNat * 128) * 2 ^ 24 + lit / 2 ^ 16 % 256 * 2 ^ 16
                  + lit % 2 ^ 16) }
            else { s.goesOn o (s.cl k) with bundle := tag }))) ∧
    (∀ k s1 q, k < 32 → L = laneMask k → s.cur.lanes.getLsbD k = true → s.checks 0x1C7 o = .ok L → s.Running → s.releaseDone key k 5 = true →
      (s.opA o k).toNat % 128 = 0 → s.planLane (s.cl k).priv (s.opA o k) = (s1, .planned q) → SMap.wf Die.reset s.dies = true → o.lo = false →
      let p := q.packet
      let num := s.hub.nextLaunch
      let l : Launch :=
        { num := num.toNat, packet := p, world := world, groups := q.groups, ended := 0, running := [], away := 0, status := q.status, charged := []
          areas := [], gone := [], hzn := 0, place := q.place, unread := p.dies, reads := [], completing := false }
      let begun : State := { s1 with hub := { s1.hub with nextLaunch := if num + 1 = 0 then 1 else num + 1 }, launches := s1.launches ++ [l] }
      (p.malformed = true → q.status = 1) ∧
      (q.status = 0 → (∀ d ∈ p.busyDies, s1.launchQueueFull d p.queue = false) →
        ∃ u : State, u = { begun with dies := u.dies } ∧
          (∀ d, u.die d = if d ∈ p.busyDies then (s1.die d).setQueue p.queue ((s1.die d).queue p.queue ++ [.block num.toNat (p.firstBlock d)]) else s1.die d) ∧
          u.Delivers (exec (.launch o) s) o L (fun _ => word num.toNat) noReg noReg (fun _ => 0) fun _ => false) ∧
      (q.status ≠ 0 → (begun.complete num.toNat).Delivers (exec (.launch o) s) o L (fun _ => word num.toNat) noReg noReg (fun _ => 0) fun _ => false)) ∧
    (∀ T, s.checks 0x1C8 o = .ok L → s.Running → (∀ k, L.getLsbD k = true → (s.opA o k).toNat % 8 = 0) →
      let x := s.asked (.lwait o) L (s.opA o) (fun _ => 0) fun _ => 0
      s.Clear x .load 1 0 (x.ops.map fun p => { ops := p, vas := (List.range 8).map fun j => s.opA o p.lane + word j }) T → T.s.poisonTrap x T.good = none →
      let pas := fun k => match T.good.find? fun e => e.1.ops.lane == k with | some e => e.2 | none => []
      (o.opmod.toNat ≠ 1 → o.lo = false →
        let val := fun k => T.s.homeValue core (pas k)
        let done := fun k => L.getLsbD k && (val k).getLsbD 63
        ∀ v, (o.clsD = true → ∀ k, done k = true → val k = v) →
          ∃ t, exec (.lwait o) s = .next t ∧
            t = { T.s with gangs := t.gangs, leases := if (lanes L).any done then T.s.acquired core 5 else T.s.leases } ∧
            (∀ key', key' ≠ key → t.gangAt key' = s.gangAt key') ∧ (∀ k, s.cur.lanes.getLsbD k = false → t.cl k = s.cl k) ∧
            (∀ m, t.cg.getG m = if o.clsD = true ∧ m = o.dst.toNat ∧ m ≠ 0 ∧ (lanes L).any done = true then v else s.cg.getG m) ∧
            ∀ k, s.cur.lanes.getLsbD k = true →
              if L.getLsbD k = true ∧ done k = false then ∃ tag, t.cl k = { s.cl k with bundle := tag }
              else Thread.WentOn s o (s.cl k) (t.cl k) ∧ (s.cl k).RegistersOnly { t.cl k with bundle := (s.cl k).bundle } ∧
                ∀ n, (t.cl k).getD n = if o.clsD = false ∧ done k = true ∧ n = o.dst.toNat ∧ n ≠ 0 then val k else (s.cl k).getD n) ∧
      (o.opmod.toNat = 1 →
        let val := fun k => T.s.refValue x k (pas k)
        let served := T.s.refLeases x T.good
        ∀ v, (o.clsD = true → ∀ k, L.getLsbD k = true → val k = v) →
          ∃ t, exec (.lwait o) s = .next t ∧
            t = { served with gangs := t.gangs, leases := if (lanes L).any fun k => (val k).getLsbD 63 then served.acquired core 5 else served.leases } ∧
            (∀ key', key' ≠ key → t.gangAt key' = s.gangAt key') ∧ (∀ k, s.cur.lanes.getLsbD k = false → t.cl k = s.cl k) ∧
            (∀ m, t.cg.getG m = if o.clsD = true ∧ m = o.dst.toNat ∧ m ≠ 0 ∧ L ≠ 0 then v else s.cg.getG m) ∧
            ∀ k, s.cur.lanes.getLsbD k = true →
              t.cl k = { s.goesOn o (s.cl k) with d := (t.cl k).d, dValid := (t.cl k).dValid, tracked := (t.cl k).tracked } ∧
                ∀ n, (t.cl k).getD n = if o.clsD = false ∧ L.getLsbD k ∧ n = o.dst.toNat ∧ n ≠ 0 then val k else (s.cl k).getD n)) ∧
    (L ≠ 0 → s.checks 0x1C9 o = .ok L →
      let ext := o.opmod.toNat
      let wrong := fun k =>
        match ext with
        | 0 => decide ((s.opBReg o k).toNat / 2 ^ 16 ≠ 0)
        | 1 => decide ((s.opBReg o k).toNat / 2 ^ 16 ≠ 0 ∨ s.opA o k ≠ 0)
        | 2 => decide (s.opA o k ≠ 0 ∨ s.opBReg o k ≠ 0)
        | _ => true
      let named := fun k (e : TlbEntry) =>
        match ext with
        | 0 => e.covers e.core (s.opBReg o k).toNat (s.opA o k)
        | 1 => e.asid == (s.opBReg o k).toNat
        | _ => true
      let rest := fun (t : State) => ∀ j, s.cur.lanes.getLsbD j = true → L.getLsbD j = false → ∃ tag, t.cl j = { s.goesOn o (s.cl j) with bundle := tag }
      (priv = false → illegal (.tlbinv o) L 1) ∧
      (priv = true → (∃ k < 32, L.getLsbD k = true ∧ wrong k = true) → illegal (.tlbinv o) (those L wrong) 0) ∧
      (priv = true → (∀ k, L.getLsbD k = true → wrong k = false) → s.Running →
        ∃ t, exec (.tlbinv o) s = .next t ∧ State.OnlyBundle { s with tlb := t.tlb } t ∧ rest t ∧
          t.tlb = s.tlb.filter (fun e => !((lanes L).any fun k => named k e)) ∧
          ∀ k, L.getLsbD k = true → s.cur.lanes.getLsbD k = true → ∃ tag, t.cl k = { s.cl k with wait := .shoot s.clock, bundle := tag }) ∧
      (priv = true → (∀ k, L.getLsbD k = true → wrong k = false) →
        (∀ k, L.getLsbD k = true → ∃ since, (s.cl k).wait = .shoot since ∧ s.shootDone since = true) → (∀ k, L.getLsbD k = false → (s.cl k).wait = .no) →
        ∃ t, exec (.tlbinv o) s = .next t ∧ s.OnlyBundle t ∧ rest t ∧
          ∀ k, L.getLsbD k = true → s.cur.lanes.getLsbD k = true → ∃ tag, t.cl k = { s.goesOn o (s.cl k) with wait := .no, bundle := tag })) ∧
    (L ≠ 0 → s.checks 0x1CA o = .ok L →
      (priv = false → s.snapUser = false → illegal (.snap o) L 1) ∧
      (priv = true ∨ s.snapUser = true →
        let u := if s.snapArmed then { s with snaps := s.latchAll, snapArmed := false, snapCount := s.snapCount + 1 } else s
        ∃ t, exec (.snap o) s = .next t ∧ u.OnlyBundle t ∧ ∀ k, s.cur.lanes.getLsbD k = true → t.cl k = s.goesOn o (s.cl k))) ∧
    (L ≠ 0 → s.checks 0x1CB o = .ok L →
      (4 ≤ o.a.toNat → illegal (.enrd o) L 0) ∧
      ∀ v, (o.a.toNat, v) ∈
          [ (0, s.enUsed (dieOf key)), (1, (s.die (dieOf key)).enBudget),
            (2, word (match s.launchOf s.cg.launch with | some l => SMap.get 0 l.charged (dieOf key) | none => 0)), (3, word (s.die (dieOf key)).clockMHz) ] →
        s.Delivers (exec (.enrd o) s) o L (fun k => mergeLo o (s.dstBefore o k) v) noReg noReg (fun _ => 0) fun _ => false) ∧
    (L ≠ 0 → s.checks 0x1CC o = .ok L →
      (priv = false → illegal (.wclear o) L 1) ∧
      (priv = true → world ≠ 0 → illegal (.wclear o) L 2) ∧
      ∀ k, k < 32 → L = laneMask k → priv = true → world = 0 →
        let v := (s.opBNat o k).toNat
        let parts := ((List.range 8).filter fun j => v.testBit j).map fun j => 8 * core + j
        let target := v / 2 ^ 16 % 256
        let wrong := v / 2 ^ 8 % 256 ≠ 0 ∨ v / 2 ^ 24 ≠ 0 ∨ v % 256 = 0 ∨ 64 < target ∨
          ∃ p ∈ parts, (∃ g ∈ s.gangs, partOf g.key = p) ∨ ∃ a ∈ s.allocs, ∃ b ∈ a.banks, b.1 = p
        (wrong → illegal (.wclear o) L 0) ∧
        (¬wrong → ∃ c, waits { s with clearing := c } (.wclear o) (fun _ => .clear (v % 256)) ∧
          ∀ x, x ∈ c ↔ x.partition ∈ parts ∧ x.world = target ∨ x.partition ∉ parts ∧ x ∈ s.clearing)) ∧
    (L ≠ 0 → s.checks 0x1CD o = .ok L →
      ((s.cl low).mode ≠ .save → illegal (.halt o) L 0) ∧
      ((s.cl low).mode = .save → s.busyAsync key = true → exec (.halt o) s = .next s) ∧
      ((s.cl low).mode = .save → s.busyAsync key = false → waits s (.halt o) fun _ => .halt))

/-! ### What happens between instructions -/

/-- R71, R194, R198, R200, R201, R205 to R207, R211, R219, R231, R243 to R247: a load's reply writes its register; a store takes its place at its home, or
reaches its scratch bank; a service gang applies an atomic, whose reply writes the old word and frees a return slot; an acknowledgement ends a
reduction; a sequence applies its next contribution. Each waits for what must come before it, and touches no other byte, thread or register. -/
def Obligations.MemoryEventsPerform : Prop :=
  ∀ (s : State) (i : Nat), s.memoryCanonical → s.TablesCanonical →
    let whole := fun (key k : Nat) => s.resident key = true ∧ (s.gangAt key).Canonical ∧ k < 32
    let onlyThread := fun (t : State) (key k : Nat) =>
      (∀ key', key' ≠ key → t.gangAt key' = s.gangAt key') ∧ t.gangAt key = { s.gangAt key with threads := (t.gangAt key).threads } ∧
      ∀ j, j ≠ k → (t.gangAt key).lane j = (s.gangAt key).lane j
    let wrote := fun (t : State) (pa : Nat) (bs : List Byte) =>
      ∀ a, t.peek a = if pa ≤ a ∧ a < pa + bs.length then bs.getD (a - pa) 0 else s.peek a
    let allowed := fun (world pa : Nat) => s.remoteAt pa = false ∧ s.ioPage pa = none ∧ s.readError world (lineOf pa) = none
    let reaches := fun (w : Nat) (x : Word) => word (max (momentOf w x) w)
    let homes := fun (t : State) =>
      { s with
        mem := t.mem, dirty := t.dirty, owned := t.owned, hostLines := t.hostLines, lineWorld := t.lineWorld, seals := t.seals
        poisonLines := t.poisonLines, hostCores := t.hostCores, placedAt := t.placedAt, gtime := t.gtime }
    (∀ how l n, s.loads[i]? = some l → l.dst = .d n → whole l.gang l.lane →
      let first := ∀ j < i, ∀ e, s.loads[j]? = some e → e.gang = l.gang → e.lane = l.lane →
        (∀ x ∈ e.lines, x ∉ l.lines) ∧ ∀ x ∈ e.spots, x ∉ l.spots
      let atHome := l.spots = [] ∧ ¬(how = .lease ∧ l.lease ≠ none) ∧ ¬(how = .owned ∧ l.owned = true)
      let value := if l.spots ≠ [] then word (leNat (l.spots.map fun p => s.scratchByte l.gang l.lane p.1 p.2))
        else if how = .lease then l.lease.getD l.home else l.home
      -- one that is not served under a lease: later loads of the line are not either, under a lease of before (R198)
      let others := (s.loads.eraseIdx i).map fun m =>
        if (how = .lease ∧ l.lease ≠ none) ∨ ¬(m.core = l.core ∧ m.lines.any l.lines.contains = true) then m else { m with lease := none }
      let u := (s.gangAt l.gang).lane l.lane
      (¬first → exec (.globalLoadReply i how) s = .next s) ∧
      (first → ∃ t, exec (.globalLoadReply i how) s = .next t ∧ onlyThread t l.gang l.lane ∧ (∀ pa, t.peek pa = s.peek pa) ∧
        (¬atHome → t = { s with loads := others, gangs := t.gangs }) ∧
        (atHome →
          t = { s with
            loads := others, gangs := t.gangs, leases := t.leases, hostLines := t.hostLines, releasing := t.releasing, dies := t.dies }) ∧
        (t.gangAt l.gang).lane l.lane =
          { u with
            d := ((t.gangAt l.gang).lane l.lane).d, dValid := ((t.gangAt l.gang).lane l.lane).dValid
            tracked := ((t.gangAt l.gang).lane l.lane).tracked, pending := u.pending.erase (.d n) } ∧
        ∀ m, ((t.gangAt l.gang).lane l.lane).getD m = if m = n ∧ n ≠ 0 then loadInto l.ty l.lo (u.getD n) value else u.getD m)) ∧
    (∀ st, s.stores[i]? = some st → st.accepted = false → 0 < st.bytes.length → st.bank = true ∨ s.ioPage st.pa = none →
      let meetsBytes := fun (pa n : Nat) => pa < st.pa + st.bytes.length ∧ st.pa < pa + n
      let held := (∃ j < i, ∃ e, s.stores[j]? = some e ∧ e.accepted = false ∧ meetsBytes e.pa e.bytes.length ∧
          if st.bank then e.gang = st.gang ∧ (e.lane = st.lane ∨ e.issued = st.issued) else e.core = st.core) ∨
        ∃ a ∈ s.atoms, a.gang = st.gang ∧ a.lane = st.lane ∧ a.applied = none ∧ a.issued < st.issued ∧ meetsBytes a.pa (a.ty.width / 8)
      let rest := (s.stores.eraseIdx i).map fun t => if t.siblings st then { t with begun := true } else t
      let u := (s.gangAt st.gang).lane st.lane
      (held → exec (.homeStorePerform i) s = .next s) ∧
      (¬held → st.bank = false → whole st.gang st.lane → allowed st.world st.pa →
        ∃ t, exec (.homeStorePerform i) s = .next t ∧ t = { homes t with stores := rest, gangs := t.gangs, recent := t.recent } ∧
          wrote t st.pa st.bytes ∧ onlyThread t st.gang st.lane ∧ s.gtime ≤ t.gtime ∧
          let w := max (s.leaseEnd (lineOf st.pa)) t.gtime
          (st.core, st.issued, w) ∈ t.recent ∧ (t.gangAt st.gang).lane st.lane = { u with hzn := reaches w u.hzn }) ∧
      (¬held → st.bank = false → s.remoteAt st.pa = true →
        ∃ t, exec (.homeStorePerform i) s = .next t ∧ wrote t st.pa st.bytes ∧
          t = { s with
            mem := t.mem, dirty := t.dirty, placedAt := t.placedAt, gtime := t.gtime, hostCores := t.hostCores, stores := s.stores.set i { st with accepted := true } }) ∧
      (∀ a, ¬held → st.bank = true → s.gangAlloc st.gang (bankCore st.pa) = some a → a.Canonical →
        let g := s.gangAt st.gang
        let off := bankOff st.pa
        let own := fun (l b c : Nat) => l = g.launch ∧ b = g.block ∧ c = bankCore st.pa
        s.refused st.gang (bankCore st.pa, off) = none →
        ∃ t a', exec (.homeStorePerform i) s = .next t ∧ t = { s with stores := rest, allocs := t.allocs, arrays := t.arrays } ∧
          (∀ l b c, ¬own l b c → t.allocAt l b c = s.allocAt l b c) ∧ t.gangAlloc st.gang (bankCore st.pa) = some a' ∧
          a' = { a with bytes := a'.bytes, valid := a'.valid, poison := a'.poison } ∧
          (∀ q, a'.byte q = if off ≤ q ∧ q < off + st.bytes.length then st.bytes.getD (q - off) 0 else a.byte q) ∧
          (∀ q, a'.validAt q = (a.validAt q || decide (off / 4 ≤ q / 4 ∧ q / 4 ≤ (off + st.bytes.length - 1) / 4))) ∧
          ∀ q, a'.poisonAt q = (a.poisonAt q && !decide (off / 4 ≤ q / 4 ∧ q / 4 ≤ (off + st.bytes.length - 1) / 4)))) ∧
    (∀ st, s.stores[i]? = some st → st.accepted = true → st.bank = true ∨ s.ioPage st.pa = none → whole st.gang st.lane →
      ∃ t, exec (.homeStorePerform i) s = .next t ∧ t = { s with stores := s.stores.eraseIdx i, gangs := t.gangs, recent := t.recent } ∧ onlyThread t st.gang st.lane ∧
        let u := (s.gangAt st.gang).lane st.lane
        (t.gangAt st.gang).lane st.lane = { u with hzn := reaches s.gtime u.hzn }) ∧
    (∀ r, s.atoms[i]? = some r → s.atomBlocked i r = true → exec (.atomicApply i) s = .next s) ∧
    (∀ r kind, s.atoms[i]? = some r → s.atomBlocked i r = false → s.remoteAt r.pa = false → s.readError r.world (lineOf r.pa) = some kind →
      ∃ t, exec (.atomicApply i) s = .next t ∧ (∀ a, t.peek a = s.peek a) ∧
        ∃ l ∈ t.vlogs, ∃ v ∈ l.entries, v.kind = BitVec.ofNat 8 kind ∧ v.address = word (lineOf r.pa * 128)) ∧
    (∀ r, s.atoms[i]? = some r → s.atomBlocked i r = false → allowed r.world r.pa →
      let n := r.ty.width / 8
      -- the word; free bytes where its line is poisoned (assumption 93)
      let old := word (leNat (s.openList r.world r.pa n))
      let fails := match r.op with | .cas c => decide (old.toNat % 2 ^ r.ty.width ≠ c.toNat % 2 ^ r.ty.width) | _ => false
      ∃ t w, exec (.atomicApply i) s = .next t ∧ (fails = true → w = s.gtime) ∧ (fails = false → w = max (s.leaseEnd (lineOf r.pa)) t.gtime) ∧
        (r.core, r.issued, w) ∈ t.recent ∧
        t = { homes t with
          leases := t.leases
          recent := t.recent
          atoms := if r.dst = none then s.atoms.eraseIdx i else s.atoms.set i { r with applied := some (old, word w) }
          acks := if r.dst = none then s.acks ++ [(r.gang, r.lane, w)] else s.acks } ∧
        wrote t r.pa (if fails = true then [] else leBytes n (r.op.apply r.ty old r.value).toNat)) ∧
    (∀ r old w n, s.atoms[i]? = some r → r.applied = some (old, w) → r.dst = some n → r.framed = false → whole r.gang r.lane →
      let u := (s.gangAt r.gang).lane r.lane
      -- of another device's memory the completion returns now (R211)
      let at' := if s.remoteAt r.pa = true then s.gtime else momentOf s.gtime w
      ∃ t, exec (.atomicReply i) s = .next t ∧ t = { s with atoms := s.atoms.eraseIdx i, gangs := t.gangs, leases := s.acquired r.core r.scope } ∧
        onlyThread t r.gang r.lane ∧
        (t.gangAt r.gang).lane r.lane =
          { u with
            d := ((t.gangAt r.gang).lane r.lane).d, dValid := ((t.gangAt r.gang).lane r.lane).dValid
            tracked := ((t.gangAt r.gang).lane r.lane).tracked, pending := u.pending.erase (.d n)
            hzn := reaches at' u.hzn, slots := u.slots - 1, synced := s.clock, seen := max u.seen (s.coreHorizon r.core) } ∧
        ∀ m, ((t.gangAt r.gang).lane r.lane).getD m = if m = n ∧ n ≠ 0 then loadExt r.ty old else u.getD m) ∧
    (∀ key k w, s.acks[i]? = some (key, k, w) → whole key k →
      ∃ t, exec (.reductionAcknowledgement i) s = .next t ∧ t = { s with acks := s.acks.eraseIdx i, gangs := t.gangs } ∧ onlyThread t key k ∧
        (t.gangAt key).lane k = { (s.gangAt key).lane k with hzn := reaches (if w = 0 then s.gtime else w) ((s.gangAt key).lane k).hzn }) ∧
    ∀ q v l, s.redseqs[i]? = some q → SMap.wf none q.held = true → (q.held.filter fun e => !q.spilled.contains e.1).head? = some (q.next, some v) →
      s.launchOf q.launch = some l →
      (s.inMove (lineOf q.pa) = true → exec (.redseqApply i) s = .next s) ∧
      (s.inMove (lineOf q.pa) = false → allowed l.world q.pa →
        let n := q.ty.width / 8
        ∃ t, exec (.redseqApply i) s = .next t ∧ t = { homes t with redseqs := t.redseqs } ∧
          wrote t q.pa (leBytes n (AtomOp.apply .add q.ty (word (leNat (s.openList l.world q.pa n))) v).toNat) ∧
          t.seqOf q.launch q.pa q.ty = { q with next := q.next + 1, held := SMap.set none q.held q.next none })

/-- R3, R5, R26, R96, R104, R142, R157, R206, R225, R226, R305, R324, R325, R338: what time does: stall counts and pauses run out, bundles form at
multiples of four clocks, blocks are fetched, leases expire, the synchronisation margin passes, refresh and energy windows begin and end at their
moments, the planner charges no more than the budget leaves and sets the clock, requests reach their deadline. The planner's moments, its cut to the
budget (assumptions 44, 63) and the split of bundles by privilege (assumption 60) are the model's choice. -/
def Obligations.TimePasses : Prop :=
  ∀ (s : State) (key k : Nat), SMap.wf Die.reset s.dies = true →
    let u := (s.gangAt key).lane k
    let die := fun (t : State) (now d : Nat) (x : Die) => t = { s with gtime := now, dies := t.dies } ∧ ∀ e, t.die e = if e = d then x else s.die e
    let regrouped := fun (before t : State) (key' : Nat) =>
      let g := before.gangAt key'
      let g' := t.gangAt key'
      let inBundle := fun j => before.bundled key' j
      let ready := fun j => before.ready key' j
      g' = { g with threads := g'.threads } ∧
      -- what the core's threads have stored so far happens before a thread that joins a bundle again (R196)
      (∀ j < 32, g'.lane j = { (if inBundle j = true ∧ (g.lane j).bundle = none then
            { g.lane j with synced := before.clock, seen := max (g.lane j).seen (before.coreHorizon (coreOf key')) } else g.lane j) with
          bundle := (g'.lane j).bundle } ∧ (inBundle j = false → (g'.lane j).bundle = none)) ∧
      ∀ j j', j < 32 → j' < 32 → inBundle j = true → inBundle j' = true →
        ((g'.lane j).bundle = (g'.lane j').bundle ↔ j = j' ∨ (g.lane j).pc = (g.lane j').pc ∧
          ready j = ready j' ∧ (g.lane j).stepping = 0 ∧ (g.lane j').stepping = 0)
    (∀ i c, (i, c) ∈ [(Instr.stallExpiry key k, u.readyAt), (Instr.pauseExpiry key k, u.pauseUntil)] →
      ∃ t, exec i s = .next t ∧ t = { s with clock := max s.clock c, gangs := t.gangs } ∧
        (max s.clock c / 4 = s.clock / 4 → t.gangs = s.gangs) ∧
        ∀ key', s.resident key' = true → (s.gangAt key').Canonical →
          (max s.clock c / 4 = s.clock / 4 + 1 → regrouped { s with clock := (s.clock / 4 + 1) * 4 } t key') ∧
          ∀ j < 32, let x := (t.gangAt key').lane j
            x = { (s.gangAt key').lane j with bundle := x.bundle, synced := x.synced, seen := x.seen }) ∧
    (∀ part, ∃ t, exec (.regrouping part) s = .next t ∧
      (s.clock % 4 = 0 → t = { s with gangs := t.gangs } ∧ ∀ key', s.resident key' = true → (s.gangAt key').Canonical →
        (partOf key' ≠ part → t.gangAt key' = s.gangAt key') ∧ (partOf key' = part → regrouped s t key')) ∧
      (s.clock % 4 ≠ 0 →
        let v := { s with clock := (s.clock / 4 + 1) * 4 }
        t = { v with gangs := t.gangs } ∧ ∀ key', s.resident key' = true → (s.gangAt key').Canonical → regrouped v t key')) ∧
    (∀ M : Mask, (∀ j, M.getLsbD j = true → ((s.gangAt key).lane j).priv = ((s.gangAt key).lane (lowest M)).priv) → s.fetchLanes key M u.pc = M) ∧
    (∀ s1 pa lvl i len raw, (s.gangAt key).bundleOf k ≠ 0 → u.pc.toNat % 4 = 0 → (s.gangAt key).firstFetch = none →
      -- of a bundle of both privileges, the lanes whose fetch is decided first (assumption 60)
      let M := s.fetchLanes key ((s.gangAt key).bundleOf k) u.pc
      let priv := ((s.gangAt key).lane (lowest M)).priv
      s.translate (coreOf key) (s.gangAt key).xlate u.pc .fetch priv = .ok (s1, pa, lvl) →
      (s.fetch key M u.pc priv).2 = .instr i len raw →
      ∃ t, exec (.instructionFetch key k) s = .next t ∧ t = { s1 with icache := t.icache } ∧
        (∀ b, b.core ≠ coreOf key → (b ∈ t.icache ↔ b ∈ s1.icache)) ∧
        ∃ b ∈ t.icache, b.core = coreOf key ∧ b.world = (s.gangAt key).world ∧ b.pa = pa / 32 * 32 ∧ b.bytes = s1.freshBlock (coreOf key) pa) ∧
    (∀ line, let left := s.leases.filter fun l => l.line != line || decide (s.gtime < l.expiry)
      (line ∉ s.releasing ∨ s.leased line = true → exec (.leaseExpiry line) s = .next { s with leases := left }) ∧
      (line ∈ s.releasing → s.leased line = false → ∃ t, exec (.leaseExpiry line) s = .next t ∧
        t = { s with leases := left, dies := t.dies, releasing := s.releasing.filter (· ≠ line) } ∧
        ∀ d < 4, (t.die d).poolLines = (s.die d).poolLines.filter (· ≠ line))) ∧
    exec (.synchronisationMarginReached key k) s = .next { s with gtime := max s.gtime (momentOf s.gtime u.hzn + s.marginNs.toNat) } ∧
    (∀ d, let now := max s.gtime (1000000 * ((s.die d).enWindow + 1))
      ∃ t, exec (.energyWindowReset d) s = .next t ∧ die t now d { s.die d with enUsed := 0, issueStopped := false, enWindow := now / 1000000 }) ∧
    (∀ d, let x := s.die d
      (x.refreshValid = false → exec (.weightRefreshStart d) s = .next s) ∧
      (x.refreshValid = true → ∃ t, exec (.weightRefreshStart d) s = .next t ∧
        die t (max s.gtime x.nextStart) d { x with inWindow := true, nextStart := x.nextStart + x.refreshPeriod.toNat }) ∧
      (x.inWindow = false → exec (.weightRefreshEnd d) s = .next s) ∧
      (x.inWindow = true → ∃ t, exec (.weightRefreshEnd d) s = .next t ∧
        die t (max s.gtime (x.nextStart - x.refreshPeriod.toNat + x.refreshLen.toNat)) d { x with inWindow := false })) ∧
    (∀ d charges idle, ∃ t, exec (.energyPlannerTick d charges idle) s = .next t ∧
      let x := s.die d
      let tick := 10000 * (x.planned + 1)
      let now := max s.gtime tick
      let budget := x.enBudget.toNat
      let before := (x.usedAt (tick - 1)).toNat
      -- leakage and idle draw; memory, link and fabric draw; and the draw of the gangs
      let drawn := min (budget - before) (idle.1 + idle.2 + (charges.map fun c => c.2).sum)
      let used := if (tick - 1) / 1000000 = now / 1000000 then before + drawn else (x.usedAt now).toNat
      let rest := used + drawn * (1000000 - tick % 1000000) / 10000
      t = { s with gtime := now, dies := t.dies, launches := t.launches, requested := s.requested.filter fun r => r.1 != d } ∧ (∀ e, e ≠ d → t.die e = s.die e) ∧
      (t.die d).enUsed = word used ∧ (t.die d).enWindow = now / 1000000 ∧ (t.die d).planned = x.planned + 1 ∧
      (budget ≤ used → (t.die d).issueStopped = true) ∧
      (t.die d).clockMHz = (if budget < rest then max 1000 (x.clockMHz - 100) else if 10 * rest < 9 * budget then min 3300 (x.clockMHz + 100) else x.clockMHz)) ∧
    (∀ i m h, s.migrations[i]? = some m → m.holdUntil = some h →
      exec (.migrationHoldExpiry i) s = .next (if h ≤ s.gtime then { s with migrations := s.migrations.eraseIdx i } else s)) ∧
    (∀ deadline, s.resident key = true → (s.gangAt key).Canonical → (s.gangAt key).request = some deadline → (s.gangAt key).taken = false →
      ∃ t item, exec (.preemptWatchdog key) s = .next t ∧
        t = { s with gtime := max s.gtime deadline, gangs := t.gangs, faults := s.faults ++ [item] } ∧ item.who = .record ∧
        (∀ key', key' ≠ key → t.gangAt key' = s.gangAt key') ∧
        t.gangAt key = { s.gangAt key with request := none, threads := (t.gangAt key).threads } ∧
        ∀ j < 32, (t.gangAt key).lane j =
          if ((s.gangAt key).lane j).cond = .stopped .safePoint then { (s.gangAt key).lane j with cond := .runnable, bundle := none }
          else (s.gangAt key).lane j)

/-- R212 to R216, R264, R273, R275 to R277, R279, R294, R304, R305, R376 to R378: host cores read, write, evict and apply their atomics at the home of
a line; a back-invalidate snoop drops it; a migration sets t in its page's leaf, moves the page line by line, gives the leaf its new frame and then
clears t. A store waits while a lease stands, or its page moves. That a host's accesses are steps of their own (assumption 41) and that a migration
carries a line's poison and world tag (assumption 48) is the model's choice. -/
def Obligations.HostCoherence : Prop :=
  ∀ (s : State) (host line : Nat), s.memoryCanonical → s.TablesCanonical → SMap.wf Die.reset s.dies = true →
    let lineState := fun (t : State) (x : Option HostLine) => ∀ l, SMap.get none t.hostLines l = if l = line then x else SMap.get none s.hostLines l
    let old := SMap.get none s.hostLines line
    let wrote := fun (t : State) (pa : Nat) (bs : List Byte) =>
      ∀ a, t.peek a = if pa ≤ a ∧ a < pa + bs.length then bs.getD (a - pa) 0 else s.peek a
    let homes := fun (t : State) =>
      { s with
        mem := t.mem, dirty := t.dirty, owned := t.owned, hostLines := t.hostLines, lineWorld := t.lineWorld, seals := t.seals
        poisonLines := t.poisonLines, hostCores := t.hostCores, placedAt := t.placedAt, gtime := t.gtime }
    let free := fun (pa : Nat) => s.remoteAt pa = false ∧ s.readError 0 (lineOf pa) = none
    -- the cached translations that a shootdown of a leaf leaves: none of the page, nor of its frame in another address space (R273)
    let left := fun (asid page : Nat) (l : Leaf) => s.tlb.filter fun e =>
      let size := 2 ^ leafBits e.pte e.level
      !e.covers e.core asid (pageVa page) &&
        !meets (Pte.ppn e.pte * 4096 / size * size) size (Pte.ppn l.own * 4096 / 2 ^ l.bits * 2 ^ l.bits) (2 ^ l.bits)
    -- R393: before step 9 of boot no host core accesses memory
    (∀ i, s.bootStep < 9 → (i = Instr.hostRead host line ∨ (∃ pa bs, i = .hostWritePermission host pa bs) ∨ ∃ pa n op v, i = .hostAmo host pa n op v) →
      exec i s = .next s) ∧
    (9 ≤ s.bootStep → s.readError 0 line = none → ∃ t, exec (.hostRead host line) s = .next t ∧ t = { s with hostLines := t.hostLines } ∧
      lineState t (some (match old with
        | none => if s.leased line then .s [host] else .e host
        | some (.s hs) => if hs.contains host then .s hs else .s (hs ++ [host])
        | some (.e h) => if h = host then .e h else .s [h, host]
        | some (.m h) => if h = host then .m h else .o h [host]
        | some (.o h hs) => if h = host ∨ hs.contains host then .o h hs else .o h (hs ++ [host])))) ∧
    (∀ kind, 9 ≤ s.bootStep → s.readError 0 line = some kind → ∃ t, exec (.hostRead host line) s = .next t ∧ t = { s with vlogs := t.vlogs } ∧
      ∃ l ∈ t.vlogs, ∃ v ∈ l.entries, v.kind = BitVec.ofNat 8 kind ∧ v.address = word (line * 128)) ∧
    (∃ t, exec (.hostEviction host line) s = .next t ∧ t = { s with hostLines := t.hostLines } ∧
      let clean := fun (hs : List Nat) =>
        match hs with
        | [] => none
        | [h] => some (if s.leased line then HostLine.s [h] else .e h)
        | hs => some (.s hs)
      lineState t (match old with
        | none => none
        | some (.s hs) => if hs.contains host then clean (hs.filter (· ≠ host)) else some (.s hs)
        | some (.e h) => if h = host then none else some (.e h)
        | some (.m h) => if h = host then none else some (.m h)
        | some (.o h hs) =>
          if h = host then clean (hs.filter (· ≠ host))
          else some (if hs.filter (· ≠ host) = [] then .m h else .o h (hs.filter (· ≠ host))))) ∧
    (∀ pa bytes, 9 ≤ s.bootStep → lineOf pa = line → bytes ≠ [] → s.ioPage pa = none → s.readError 0 line = none ∨ pa % 128 = 0 ∧ 128 ≤ bytes.length →
      let i := Instr.hostWritePermission host pa bytes
      (s.inMove line = true → exec i s = .next s) ∧
      (s.inMove line = false → s.leased line = true → ∃ t, exec i s = .next t ∧ t = { s with hostWaiting := t.hostWaiting } ∧
        ∀ l, l ∈ t.hostWaiting ↔ l = line ∨ l ∈ s.hostWaiting) ∧
      (s.inMove line = false → s.leased line = false → ∃ t, exec i s = .next t ∧ t = { homes t with hostWaiting := t.hostWaiting } ∧
        wrote t pa (bytes.take (128 - pa % 128)) ∧ lineState t (some (.m host)) ∧ ∀ l, l ∈ t.hostWaiting ↔ l ≠ line ∧ l ∈ s.hostWaiting)) ∧
    (∀ pa size op (v : Word), 9 ≤ s.bootStep → (s.readError 0 (lineOf pa)).isSome → s.remoteAt pa = false → size = 4 ∨ size = 8 → pa % size = 0 →
      ∃ t, exec (.hostAmo host pa size op v) s = .next t ∧ ∀ a, t.peek a = s.peek a) ∧
    (∀ pa size op (v : Word) f, s.readError 0 (lineOf pa) = none → size = 4 ∨ size = 8 → pa % size = 0 →
      let w := 8 * size
      -- the word; free bytes where its line is poisoned (assumption 93)
      let x := leNat (s.openList 0 pa size)
      let y := v.toNat % 2 ^ w
      let sg := fun n => signedOf w n
      (op, f) ∈
        [ (HostAmo.swap, y), (.add, (x + y) % 2 ^ w), (.and, x &&& y), (.or, x ||| y), (.xor, x ^^^ y), (.min, if sg x ≤ sg y then x else y),
          (.max, if sg y ≤ sg x then x else y), (.minu, min x y), (.maxu, max x y) ] ∨
        (∃ e : Word, op = .cas e ∧ f = if x = e.toNat % 2 ^ w then y else x) →
      exec (.hostAmo host pa size op v) s = exec (.hostWritePermission host pa (leBytes size f)) s) ∧
    (∀ bytes, s.leased line = true → ∃ t, exec (.backInvalidateSnoop line bytes) s = .next t ∧
      t = { s with hostLines := t.hostLines, snooping := t.snooping } ∧ lineState t none ∧ line ∈ t.snooping) ∧
    (s.leased line = false → ∃ t, exec (.backInvalidateSnoop line none) s = .next t ∧
      t = { s with hostLines := t.hostLines, snooping := t.snooping, releasing := t.releasing, dies := t.dies } ∧ lineState t none ∧
      line ∉ t.snooping ∧ ∀ d < 4, (t.die d).poolLines = (s.die d).poolLines.filter (· ≠ line)) ∧
    (∀ bs, s.leased line = false → s.inMove line = true → ∃ t, exec (.backInvalidateSnoop line (some bs)) s = .next t ∧
      t = { s with hostLines := t.hostLines, snooping := t.snooping } ∧ lineState t none ∧ line ∈ t.snooping) ∧
    (∀ bs, bs.length = 128 → s.leased line = false → s.inMove line = false → s.ioPage (line * 128) = none →
      ∃ t, exec (.backInvalidateSnoop line (some bs)) s = .next t ∧ wrote t (line * 128) bs ∧ lineState t none) ∧
    (∀ asid page qs fs r rs l, List.zip qs fs = r :: rs → s.walk (s.xlateOf asid) (pageVa page) = .ok l →
      (Pte.ml l.pte = true → exec (.migrationRequest asid page qs fs) s =
        .next { s with moveErrors := s.moveErrors ++ (r :: rs).map fun x => (asid, page, x.1) }) ∧
      (Pte.ml l.pte = false → s.pageBusy asid page = true → exec (.migrationRequest asid page qs fs) s = .next s) ∧
      (Pte.ml l.pte = false → s.pageBusy asid page = false → l.at' % 8 = 0 → free l.at' →
        ∃ t m f, exec (.migrationRequest asid page qs fs) s = .next t ∧
          t = { homes t with
            migrations := (s.migrations.filter fun x => !x.holds asid page) ++ [m], tlb := left asid page l } ∧
          (m.requester, f) ∈ r :: rs ∧ (∀ x ∈ r :: rs, m.requester ≤ x.1) ∧ m.dest = alignFrame l f ∧ m.source = alignFrame l (Pte.ppn l.own) ∧
          m.asid = asid ∧ m.page = page ∧ m.bits = l.bits ∧ m.next = 0 ∧ m.relinked = false ∧ m.holdUntil = none ∧
          wrote t l.at' (leBytes 8 (l.own ||| word (2 ^ 60)).toNat))) ∧
    (∀ i m l, s.migrations[i]? = some m → m.holdUntil = none → s.walk m.xlate (pageVa m.page) = .ok l →
      let size := 2 ^ l.bits
      let src := m.source * 4096 + 128 * m.next
      let dst := m.dest * 4096 + 128 * m.next
      let unlinked := left m.asid m.page l
      (128 * m.next < size → s.frameBusy (m.source * 4096) size = true ∨ s.leased (lineOf dst) = true → exec (.migrationLineCopy i true) s = .next s) ∧
      (128 * m.next < size → s.frameBusy (m.source * 4096) size = false → s.leased (lineOf dst) = false →
        ∃ t, exec (.migrationLineCopy i true) s = .next t ∧ wrote t dst (s.peekList src 128) ∧
          t = { homes t with migrations := s.migrations.set i { m with next := m.next + 1 } } ∧
          t.tag (lineOf dst) = s.tag (lineOf src) ∧ SMap.get false t.poisonLines (lineOf dst) = SMap.get false s.poisonLines (lineOf src)) ∧
      (size ≤ 128 * m.next → exec (.migrationLineCopy i true) s = .next s) ∧
      (size ≤ 128 * m.next → l.at' % 8 = 0 → free l.at' → m.relinked = false →
        ∃ t e, exec (.migrationComplete i) s = .next t ∧ t = { homes t with migrations := s.migrations.set i { m with relinked := true }, tlb := unlinked } ∧
          wrote t l.at' (leBytes 8 e.toNat) ∧ e.getLsbD 60 = l.own.getLsbD 60 ∧ e.toNat % 2 ^ 10 = l.own.toNat % 2 ^ 10 ∧
          Pte.ppn e = (if Pte.n l.own then m.dest + 8 else m.dest) % 2 ^ 44) ∧
      (size ≤ 128 * m.next → l.at' % 8 = 0 → free l.at' → m.relinked = true →
        ∃ t, exec (.migrationComplete i) s = .next t ∧
          t = { homes t with
            migrations := s.migrations.set i { m with aborted := false, holdUntil := some (s.gtime + Config.holdNs) }, tlb := unlinked
            redseqs := t.redseqs
            rings := t.rings } ∧
          wrote t l.at' (leBytes 8 (l.own &&& ~~~(word (2 ^ 60))).toNat)) ∧
      (128 * m.next < size → exec (.migrationComplete i) s = .next s))

/-- R71, R72, R76, R77, R91, R93, R94, R375: a piece of a copy that lands, after any of its bytes that went ahead, counts towards the token and is
posted to the copy's barrier; a copy all of whose pieces have landed writes its token. What a piece reads and what it writes, for each kind of place;
a byte that is read ahead is kept as it was then. That bytes of a piece move one by one and may be read ahead (assumption 30), and what poison the
weight store keeps (assumption 61), is the model's choice. -/
def Obligations.CopiesLand : Prop :=
  ∀ (s : State) (i j : Nat) (c : Copy) (k : Chunk), s.copies[i]? = some c → (s.copies.find? fun d => d.id == c.id) = some c →
    let alloc := fun (st : State) (core : Nat) => st.allocAt c.launch c.block core
    let none' : Carried := { val := 0, valid := true, poison := false }
    (c.chunks[j]? = some k → s.copyHeld c.id = true ∨ s.refreshing k = true → exec (.cpymChunkPosted i (j, .whole)) s = .next s) ∧
    (∀ r, c.chunks[j]? = some k → s.copyHeld c.id = false → s.refreshing k = false → s.chunkRefused c k = some r →
      exec (.cpymChunkPosted i (j, .whole)) s = .next ((s.logBanks c.world (requesterOf (partOf c.gang)) [r]).failCopy c.id .poison r.2)) ∧
    (∀ bs n, n < k.size → bs.length = k.size →
      (s.chunkBytes c k bs).length = k.size ∧
      (n ∉ k.done → ∀ h, (k.held.find? fun h => h.1 == n) = some h → n ∉ k.overlap → (s.chunkBytes c k bs)[n]? = some h.2) ∧
      (n ∉ k.done → (∀ h ∈ k.held, h.1 ≠ n) → n ∉ k.overlap → (s.chunkBytes c k bs)[n]? = bs[n]?) ∧
      (n ∈ k.done → ∃ b, (s.chunkBytes c k bs)[n]? = some b ∧ b.val = s.landedByte c k n)) ∧
    (∀ n s1 b, c.chunks[j]? = some k → n < k.size → s.copyHeld c.id = false → s.refreshing k = false → n ∉ k.done → (∀ h ∈ k.held, h.1 ≠ n) → n ∉ k.overlap →
      s.chunkRefused c (k.byte n) = none → s.fetchChunk c (k.byte n) = .ok (s1, [b]) → (∀ va, (k.byte n).src = .global va → s.chunkError c va 1 false = none) →
      ∃ t, exec (.cpymChunkPosted i (j, .readByte n)) s = .next t ∧ t = { s1 with copies := t.copies } ∧
        t.copies = s1.copies.map fun d => if d.id = c.id then { d with chunks := d.chunks.modify j fun k => if k.held.any (·.1 == n) then k else { k with held := (n, b) :: k.held } } else d) ∧
    (∀ s1 read s2 w, c.chunks[j]? = some k → s.copyHeld c.id = false → s.refreshing k = false → s.chunkRefused c k = none →
      s.fetchChunk c k = .ok (s1, read) → s1.storeChunk c k (s.chunkBytes c k read) = .ok (s2, w) →
      (∀ va, k.src = .global va → s.chunkError c va k.size false = none) → (∀ va, k.dst = .global va → s.chunkError c va k.size true = none) →
      let u : State := { s2 with
        copies := s2.copies.map fun d =>
          if d.id = c.id then { d with chunks := d.chunks.eraseIdx j, delivered := d.delivered + k.size, w := max d.w w } else d }
      (c.bar = none → exec (.cpymChunkPosted i (j, .whole)) s = .next u) ∧
      ∀ b a, c.bar = some b → alloc u c.core = some a → a.Canonical → ∃ v : State, exec (.cpymChunkPosted i (j, .whole)) s = .next (v.barCheck c.launch c.block c.core b) ∧
        v = { u with allocs := v.allocs } ∧ ∃ a', alloc v c.core = some a' ∧ a' = { a with bars := a'.bars } ∧
          ∀ m, a'.bar m = if m = b then { a.bar b with pending := (a.bar b).pending - word k.size, w := max (a.bar b).w w } else a.bar m) ∧
    (c.chunks = [] → s.resident c.gang = true → (s.gangAt c.gang).Canonical →
      let g := s.gangAt c.gang
      -- a group round that its gang held for this operation may complete then (R118)
      ∃ t : State, exec (.copyCompletion i) s = .next (t.opEnded c.gang) ∧ ((∀ k < 32, ∀ q d n, (g.lane k).wait ≠ .phase q d n) → t.opEnded c.gang = t) ∧
        t = { s with copies := s.copies.filter fun d => d.id ≠ c.id, gangs := t.gangs } ∧
        (∀ key, key ≠ c.gang → t.gangAt key = s.gangAt key) ∧
        t.gangAt c.gang = { g with
          g := (t.gangAt c.gang).g, gValid := (t.gangAt c.gang).gValid, gFailed := (t.gangAt c.gang).gFailed, tokenEnd := (t.gangAt c.gang).tokenEnd
          gPending := g.gPending.erase c.token, threads := (t.gangAt c.gang).threads } ∧
        (∀ k < 32, (t.gangAt c.gang).lane k = (g.lane k).forget (.g c.token)) ∧
        ∀ n, (t.gangAt c.gang).getG n = if n = c.token ∧ n ≠ 0 then word (c.delivered % 2 ^ 48) else g.getG n) ∧
    (∀ die off, k.src = .weight die off → s.fetchChunk c k = .ok (s, (List.range k.size).map fun j =>
      { val := SMap.get 0 (s.die die).weight (off + j), valid := true, poison := SMap.get false (s.die die).weightPoison (off + j) })) ∧
    (∀ core off a, k.src = .scratch core off → alloc s core = some a → (∀ j < k.size, s.unretired c.launch c.block core (off + j) none = false) →
      s.fetchChunk c k = .ok (s, (List.range k.size).map fun j => { val := a.byte (off + j), valid := a.validAt (off + j), poison := a.poisonAt (off + j) })) ∧
    (∀ va s1 pas, k.src = .global va → s.translateRange c.core c.xlate va .load c.priv k.size = .ok (s1, pas) →
      -- as weak loads: at the homes, with leases, or under leases that its L1 holds (R193, R206; which, is the model's free choice, assumption 15)
      ∃ s2 bs, s2 = { s1 with vlogs := s2.vlogs, leases := s2.leases, hostLines := s2.hostLines, releasing := s2.releasing, dies := s2.dies } ∧
        (bs = pas.map (s1.view c.core) ∨ bs = pas.map (s1.leasedByte c.core)) ∧
        s.fetchChunk c k = .ok (s2, (pas.zip bs).map fun e => { val := e.2, valid := true, poison := s1.poisoned c.world e.1 })) ∧
    (∀ (bs : List Carried) core off a, k.dst = .scratch core off → bs.length = k.size → alloc s core = some a → a.Canonical →
      (∀ n < k.size, s.refusing c.launch c.block c.world core (off + n) = none) →
      let carry := match k.src with | .scratch _ _ => true | _ => false
      ∃ t a', s.storeChunk c k bs = .ok (t, 0) ∧ alloc t core = some a' ∧
        (∀ q, a'.byte q = if off ≤ q ∧ q < off + k.size then (bs.getD (q - off) none').val else a.byte q) ∧
        (carry = false → ∀ q, off / 4 ≤ q / 4 ∧ q / 4 ≤ (off + k.size - 1) / 4 → 0 < k.size → a'.validAt q = true ∧
          (a'.poisonAt q = true ↔ ∃ n, n < k.size ∧ (off + n) / 4 = q / 4 ∧ (bs.getD n none').poison = true))) ∧
    (∀ (bs : List Carried) die off, k.dst = .weight die off → SMap.wf Die.reset s.dies = true → SMap.wf 0 (s.die die).weight = true →
      SMap.wf false (s.die die).weightPoison = true →
      ∃ t, s.storeChunk c k bs = .ok (t, 0) ∧ t = { s with dies := t.dies } ∧ (∀ d, d ≠ die → t.die d = s.die d) ∧
        t.die die = { s.die die with weight := (t.die die).weight, weightPoison := (t.die die).weightPoison } ∧
        (∀ q, SMap.get 0 (t.die die).weight q = if off ≤ q ∧ q < off + bs.length then (bs.getD (q - off) none').val else SMap.get 0 (s.die die).weight q) ∧
        ∀ q, SMap.get false (t.die die).weightPoison q =
          if off ≤ q ∧ q < off + bs.length then (bs.getD (q - off) none').poison else SMap.get false (s.die die).weightPoison q) ∧
    (∀ (bs : List Carried) va s1 pas, k.dst = .global va → s.memoryCanonical → s.TablesCanonical → bs.length = k.size →
      s.translateRange c.core c.xlate va .store c.priv k.size = .ok (s1, pas) → pas.length = k.size → (∀ n < k.size, pas.getD n 0 = pas.headD 0 + n) →
      (∀ pa ∈ pas, s.ioPage pa = none ∧ s.remoteAt pa = false ∧ s.readError c.world (lineOf pa) = none) → s.sec.keysGone.contains c.world = false →
      ∃ t w, s.storeChunk c k bs = .ok (t, w) ∧
        (∀ n < pas.length, t.peek (pas.getD n 0) = (bs.getD n none').val) ∧
        (∀ pa, pa ∉ pas → t.peek pa = s.peek pa) ∧
        (∀ n < pas.length, (bs.getD n none').poison = true → SMap.get false t.poisonLines (lineOf (pas.getD n 0)) = true) ∧
        (∀ pa ∈ pas, s1.leaseEnd (lineOf pa) ≤ w) ∧ t.gtime ≤ w ∧
        t.leases = s1.leases.map fun l => if l.core = coreOf c.gang ∧ pas.any (fun pa => lineOf pa == l.line) = true then { l with data := none } else l)

/-- R58 to R65, R76, R79, R84 to R89, R410: an array executes the oldest instruction of its queue, which then leaves it; the issuing thread takes its
flags and its token the bytes. MZERO clears a tile; a product adds the exact products of rows and columns to each element and rounds or wraps once;
the semirings and SCACC combine as their rules say; a latch keeps the rows that MLDB loads. That operands are read and results written in one step, at
retirement (assumption 31), and where the pairs of an F64 tile lie (assumption 18) is the model's choice. -/
def Obligations.MatrixRetirement : Prop :=
  ∀ (s : State) (p : Nat) (e : MatrixEntry) (rest : List MatrixEntry), SMap.wf Array8.reset s.arrays = true → SMap.wf 0 (s.array p).tiles = true →
    (s.array p).queue = e :: rest →
    let a := s.array p
    let key := e.gang
    let low := lowest e.lanes
    let seen := fun (t : Thread) => match e.token with | some m => t.forget (.g m) | none => t
    -- a reader of a tile that an unretired paired operation of the leader writes finds it undefined (R81), and leaves it as it was
    let others := s.overtaken p
    let v := s.overtake p others
    let back := fun (s1 : State) => s1.overtook p a (others.filter fun t => !e.op.tilesWritten.contains t)
    let idle := fun (t : State) => ∀ k < 32, ∀ q m n, ((t.gangAt key).lane k).wait ≠ .phase q m n
    (others = [] → v = s) ∧
    (∀ t < 8, t ∉ others → ∀ k < 64, (v.array p).elem t k = a.elem t k) ∧
    (s.matrixHeld e p = true → exec (.matrixRetire (p, .whole)) s = .next s) ∧
    (∀ f acc, s.matrixHeld e p = false → v.runMatrix e p false = .fault f acc →
      exec (.matrixRetire (p, .whole)) s = .next (s.sendFault (.matrix p) key e.lanes { f with info := f.info + 2 ^ 14 } acc e.pc e.priv none)) ∧
    (∀ s1 cause addr bytes m, s.matrixHeld e p = false → v.runMatrix e p false = .failed s1 cause addr bytes → e.token = some m → 0 < m →
      s1.resident key = true → (s1.gangAt key).Canonical → SMap.wf Array8.reset s1.arrays = true →
      ∃ t : State, exec (.matrixRetire (p, .whole)) s = .next (t.opEnded key) ∧ (idle t → t.opEnded key = t) ∧
        t = { s1 with arrays := t.arrays, gangs := t.gangs, vlogs := t.vlogs } ∧
        (t.array p).queue = (s1.array p).queue.drop 1 ∧ (t.gangAt key).gPending = (s1.gangAt key).gPending.erase m ∧
        (∀ n, (t.gangAt key).getG n = if n = m then word (2 ^ 63 + cause.code * 2 ^ 56 + bytes.toNat % 2 ^ 48) else (s1.gangAt key).getG n) ∧
        (m, addr) ∈ (t.gangAt key).gFailed) ∧
    (∀ s1 bytes fl dy w, s.matrixHeld e p = false → v.runMatrix e p false = .done s1 bytes fl dy w → s1.resident key = true → (s1.gangAt key).Canonical → low < 32 →
      SMap.wf Array8.reset s1.arrays = true →
      let u := (s1.gangAt key).lane low
      ∃ t : State, exec (.matrixRetire (p, .whole)) s = .next (t.opEnded key) ∧ (idle t → t.opEnded key = t) ∧ t = { s1 with arrays := t.arrays, gangs := t.gangs } ∧
        (∀ q, t.array q = if q = p then { (back s1).array p with queue := (s1.array p).queue.drop 1 } else s1.array q) ∧
        (∀ key', key' ≠ key → t.gangAt key' = s1.gangAt key') ∧
        (t.gangAt key).lane low = seen { u with fflags := u.fflags ||| fl.bits, dyReserved := u.dyReserved || dy } ∧
        (∀ j < 32, j ≠ low → (t.gangAt key).lane j = seen ((s1.gangAt key).lane j)) ∧
        (e.token = none → ∀ n, (t.gangAt key).getG n = (s1.gangAt key).getG n) ∧
        ∀ m, e.token = some m → (t.gangAt key).gPending = (s1.gangAt key).gPending.erase m ∧
          ∀ n, (t.gangAt key).getG n = if n = m ∧ n ≠ 0 then word (bytes % 2 ^ 48) else (s1.gangAt key).getG n) ∧
    (∀ tile, e.op = .zero tile → ∃ t, s.runMatrix e p false = .done t 0 {} false 0 ∧ t = { s with arrays := t.arrays } ∧
      ∀ n, SMap.get 0 (t.array p).tiles n = if 64 * tile ≤ n ∧ n < 64 * tile + 64 then 0 else SMap.get 0 a.tiles n) ∧
    (∀ rows at' st, s.operandRows e p 0 (rowsAt (p / 8) at' st 64) = .ok rows → rows.length = 8 → (∀ r ∈ rows, ∀ b ∈ r, b.undef = false) →
      let row := fun i => (rows.getD i []).map fun b => b.val
      let cellsOf := fun (tb : Ty) (wide : Bool) (tile : Nat) (f : Nat → Nat → Nat → Nat) =>
        a.latched = some tb → ∃ t bytes fl dy w, s.runMatrix e p false = .done t bytes fl dy w ∧ t = { s with arrays := t.arrays } ∧ bytes = 512 ∧
          (∀ q, q ≠ p → t.array q = s.array q) ∧
          ∀ i j, i < 8 → j < 8 → (t.array p).acc wide tile (8 * i + j) = f i j (a.acc wide tile (8 * i + j)) % 2 ^ (if wide then 64 else 32)
      let fp := Fmt.f32
      (∀ ta tb tile rnd sat, e.op = .mul false ta tb tile at' st rnd sat → a.latched ≠ some tb → s.runMatrix e p false = .failed s .illegalInsn s.freeAddr 0) ∧
      (∀ ta tb tile rnd sat, e.op = .mul false ta tb tile at' st rnd sat → tile < 4 → (ta = .f64 → tile % 2 = 0) →
        cellsOf tb (ta == .f64) tile fun i j old =>
          let ps := ((rowElems ta (row i)).zip (rowElems tb (a.column j))).map fun x => productOf ta (decodeTy ta x.1) (decodeTy tb x.2)
          if ta.isInt then narrowTo true 32 sat (intSum ps + signedOf 32 old)
          else
            let f := if ta = .f64 then Fmt.f64 else Fmt.f32
            (f.deliver rnd sat (sumAll rnd (ps ++ [f.decode old]))).1) ∧
      (∀ ta tb rnd sat, e.op = .mul false ta tb 4 at' st rnd sat → a.latched = some tb →
        ∃ t fl dy w, s.runMatrix e p false = .done t 512 fl dy w ∧ (∀ q, q ≠ p → t.array q = s.array q) ∧ ∀ q i j, q < 4 → i < 8 → j < 8 →
          let ps := ((((rowElems ta (row i)).zip (rowElems tb (a.column j))).map fun x => productOf ta (decodeTy ta x.1) (decodeTy tb x.2)).drop (16 * q)).take 16
          (t.array p).elem (4 + q) (8 * i + j) =
            (if ta.isInt then (fp.deliver rnd sat (.fin (decide (intSum ps < 0)) (intSum ps).natAbs 0)).1 else (fp.deliver rnd sat (sumAll rnd ps)).1) % 2 ^ 32) ∧
      (∀ tile rnd, e.op = .minPlus false tile at' st rnd → tile < 8 → cellsOf .f32 false tile fun i j old =>
        ((rowElems .f32 (row i)).zip (rowElems .f32 (a.column j))).foldl
          (fun acc x => (fp.pick false acc (fp.deliver rnd false ((fp.decode x.1).add rnd (fp.decode x.2))).1).1) old) ∧
      (∀ tile rnd, e.op = .maxTimes false tile at' st rnd → tile < 8 → cellsOf .f32 false tile fun i j old =>
        ((rowElems .f32 (row i)).zip (rowElems .f32 (a.column j))).foldl
          (fun acc x => (fp.pick true acc (fp.deliver rnd false ((fp.decode x.1).mul (fp.decode x.2))).1).1) old) ∧
      (∀ tile, e.op = .orAnd false tile at' st → tile < 8 → cellsOf .n32 false tile fun i j old =>
        ((rowElems .n32 (row i)).zip (rowElems .n32 (a.column j))).foldl (fun acc x => acc ||| (x.1 &&& x.2)) old) ∧
      ∀ t, e.op = .load true false t at' st → SMap.wf 0 a.latch = true → (∀ r ∈ rows, r.length = 64 ∧ ∀ b ∈ r, b.val < 256) →
        ∃ u, s.runMatrix e p false = .done u 512 {} false 0 ∧ (∀ q, q ≠ p → u.array q = s.array q) ∧ (u.array p).latched = some t ∧ (u.array p).tiles = a.tiles ∧
          ∀ i j, i < 8 → j < 64 → SMap.get 0 (u.array p).latch (64 * i + j) = BitVec.ofNat 8 ((row i).getD j 0)) ∧
    (∀ t at' st, e.op = .load true true t at' st → SMap.wf 0 a.latch = true → s.weightPoisoned (p / 384) at' st = none →
      ∃ u, s.runMatrix e p false = .done u 512 {} false 0 ∧ u = { s with arrays := u.arrays } ∧ (∀ q, q ≠ p → u.array q = s.array q) ∧
        (u.array p).latched = some t ∧ (u.array p).tiles = a.tiles ∧
        ∀ i j, i < 8 → j < 64 → SMap.get 0 (u.array p).latch (64 * i + j) = SMap.get 0 (s.die (p / 384)).weight ((at' + word i * st).toNat + j)) ∧
    (∀ (rnd : Rnd) (sat : Bool) (x srow scol q old : Nat),
      let f := Fmt.f32
      let sv := (f.deliver rnd sat ((f.decode srow).mul (f.decode scol))).1
      let t := if x = 0xFF then f.nan else (f.deliver rnd sat (((f.decode sv).mul (e8sDecode x)).mul (f.decode q))).1
      (foldScale rnd sat x srow scol q old).1 = (f.deliver rnd sat ((f.decode old).add rnd (f.decode t))).1)

/-- R77, R116, R221, R247 to R251, R329: a group reduction's chunk is combined over its members and delivered to each; the last writes status words
and tokens. A peer's part and a member's failure enter the open round; a peer list that is not rank 0's fails the first reduction. A ring's oldest
slot goes back to a queue that has room. How a peer's contribution is given (assumption 33), that one member's failure fails all (assumption 19) and
which slot is the oldest that goes back (assumption 32) are the model's choice. -/
def Obligations.GroupEngineEvents : Prop :=
  ∀ (s : State) (launch grp rank die : Nat),
    let mine := fun (l g : Nat) => decide (l = launch ∧ g = grp)
    (∀ i r e, s.greds[i]? = some r → s.groupOf r.launch r.grp = some e →
      (s.gredMembers r e = false ∨ s.gredHeld r = true ∨ e.badGred ≠ some true ∧ r.peersReady e = false → exec (.gredChunkDone i) s = .next s) ∧
      (s.gredMembers r e = true → r.peersReady e = true → s.gredHeld r = false → e.badGred ≠ some true →
        (∀ s1 r1, s.gredAdvance r e = .ok (s1, some r1) → exec (.gredChunkDone i) s = .next { s1 with greds := s1.greds.set i r1 }) ∧
        (∀ s1, s.gredAdvance r e = .ok (s1, none) → exec (.gredChunkDone i) s =
          -- a group round that a member held for this operation may complete then (R118)
          .next (r.parts.foldl (fun s p => s.opEnded p.gang) { s1 with greds := s1.greds.eraseIdx i })) ∧
        (∀ s1 key va, s.gredAdvance r e = .error (.poison s1 key va) → exec (.gredChunkDone i) s = .next (s1.failGred key .poison va)) ∧
        (∀ s1 src s2 ps, r.count ≠ 0 → s.gredSources r r.parts = .ok (s1, src) →
          s1.gredDeliver r ((r.results e src).flatMap fun v => leBytes (r.ty.width / 8) v) r.parts = .ok (s2, ps) → 4096 * (r.next + 1) < r.count →
          ∃ r1, s.gredAdvance r e = .ok (s2, some r1) ∧ r1.next = r.next + 1 ∧ r1.parts = ps)) ∧
      (∀ p ps, s.gredMembers r e = true → s.gredHeld r = false → e.badGred = some true → r.parts = p :: ps →
        exec (.gredChunkDone i) s = .next ((s.onGroup r.launch r.grp fun e => { e with badGred := some false }).failGred p.gang .illegalInsn p.dst)) ∧
      ∀ src, e.remote = false → r.results e src = (List.range (4096 / (r.ty.width / 8))).map fun j =>
        treeOf r.ty r.op (e.members.map fun num =>
          match src.find? fun x => x.1 == num with
          | some x => x.2.getD j 0
          | none => identity r.ty r.op)) ∧
    (∀ (list : List Nat) e, s.groupOf launch grp = some e →
      (rank ≠ 0 ∨ e.rank = 0 ∨ e.badGred ≠ none → s.peerList launch grp rank list = s) ∧
      (rank = 0 → e.rank ≠ 0 → e.badGred = none → (∀ g ∈ s.gangs, ∀ k < 32, ∀ d isG lo, (g.lane k).wait ≠ .gredw grp d isG lo) →
        let wrong := list ≠ e.peers
        s.peerList launch grp rank list = s.onGroup launch grp fun e => { e with badGred := some (decide wrong), badGredw := some (decide wrong) })) ∧
    (∀ list vs, let t := s.peerList launch grp rank list
      let r := t.roundOf launch grp
      ∃ u : State, exec (.peerDeviceContribution launch grp (rank, list) false vs) s = .next (u.groupCheck launch grp) ∧
        u = { t with groupRounds := u.groupRounds } ∧ (r.launch = launch → r.grp = grp →
          u.roundOf launch grp = { r with peers := if r.peers.contains rank then r.peers else r.peers ++ [rank] })) ∧
    (∀ list v, let t := s.peerList launch grp rank list
      ∃ u : State, exec (.peerDeviceContribution launch grp (rank, list) true [v]) s = .next (u.gredwCheck launch grp) ∧
      u = { t with gredws := t.gredws.map fun r => if mine r.launch r.grp then { r with peers := SMap.set [] r.peers rank [v] } else r }) ∧
    (∀ list vs i r, let t := s.peerList launch grp rank list
      vs.length ≠ 1 → (t.greds.findIdx? fun (r : Gred) => mine r.launch r.grp) = some i → t.greds[i]? = some r →
      exec (.peerDeviceContribution launch grp (rank, list) true vs) s =
        .next { t with greds := t.greds.set i { r with peers := SMap.set [] r.peers rank (SMap.get [] r.peers rank ++ vs) } }) ∧
    (∀ first, ∃ u : State, exec (.groupMemberFailure launch grp (rank, first)) s = .next (u.gredwCheck launch grp) ∧
      u = { s with
        greds := u.greds, gredws := u.gredws, vlogs := u.vlogs, faults := u.faults, snaps := u.snaps, snapArmed := u.snapArmed, snapCount := u.snapCount } ∧
      u.gredws = s.gredws.map (fun r => if mine r.launch r.grp then { r with failed := if r.failed.contains rank then r.failed else r.failed ++ [rank] } else r) ∧
      -- from the first chunk that some survivor lacks every chunk is delivered again (R251)
      u.greds = s.greds.map (fun r => if mine r.launch r.grp then { r with
        next := min first r.next, failedAt := if r.failed = [] then min first r.next else r.failedAt
        failed := if r.failed.contains rank then r.failed else r.failed ++ [rank] } else r) ∧
      ∃ item, u.faults = s.faults ++ [item] ∧ item.record = recordBytes (word rank) 0 0xFFFFFFFF 0xFFFFFFFF 0xFFFFFFFF 0 0x3F 0x11 16 0 false) ∧
    ∀ e live, (s.ringOf launch die).live = e :: live →
      (s.refillRoom die e = true → s.laterSpill die launch e = false →
        ∃ t, exec (.overflowRefill launch die) s = .next t ∧ (t.ringOf launch die).live = live ∧
          (e.kind = kindService → t.atoms = modifyFirst (fun a => a.spilled && a.launch == launch && ownerOf a.pa == e.queue) (fun a => { a with spilled := false })
            s.atoms) ∧
          (e.kind = kindRedseq → t.redseqs = s.redseqs.map fun q =>
            if q.launch = launch ∧ 2 * q.pa + (if q.ty.width = 64 then 1 else 0) = e.item.1 then { q with spilled := q.spilled.filter (· ≠ e.item.2) } else q)) ∧
      ((∀ e ∈ (s.ringOf launch die).live, s.refillRoom die e = false) → exec (.overflowRefill launch die) s = .next s)

/-- R51, R87, R100 to R102, R118 to R121, R308 to R314, R318 to R324, R326, R338, R340: a die admits what comes next into a placement of it, every
thread at its entry; gangs and launches end; requests of pre-emption reach their gangs; a save that is complete leaves a saved gang, and a restore
starts one again. What is not due leaves the state as it is. The order and the placement of admissions (assumptions 34, 65), the trap registers after
a restore (assumption 35), a die's own read of its packet (assumption 81) and what of a gang its slot keeps (assumption 82) are the model's choice. -/
def Obligations.SchedulingEvents : Prop :=
  ∀ (s : State) (key die : Nat), SMap.wf Die.reset s.dies = true →
    let g := s.gangAt key
    let u := s.readPackets die
    ((∀ l ∈ s.launches, die ∉ l.unread) → u = s) ∧
    (∀ l, (s.launches.filter fun l => l.unread.contains die) = [l] → s.launchOf l.num = some l → l.unread.Nodup →
      let p := Packet.parse (s.openBytes l.world s.peek ((List.range 128).map fun j => l.place + j))
      u = { s with launches := u.launches, dies := u.dies } ∧
      u.launchOf l.num = some { l with unread := l.unread.erase die, reads := if p = l.packet then l.reads else (die, p) :: l.reads } ∧
      (p = l.packet → u.dies = s.dies) ∧
      (p ≠ l.packet → p.malformed = true → ∀ q num b, QueueEntry.block num b ∈ (u.die die).queue q → num ≠ l.num)) ∧
    (∀ keys, u.nextAdmission die = none → exec (.blockAdmission die keys) s = .next u) ∧
    (∀ keys q ph e n l, u.nextAdmission die = some (q, ph, e, n) → u.launchOn n.launch die = some l →
      let ps := pairKeys (n.slots == 2) keys
      (u.placed n die ps = false → exec (.blockAdmission die keys) s = .next u) ∧
      (∀ num b, e = .block num b → u.placed n die ps = true → SMap.wf Die.reset u.dies = true → SMap.wf [] (u.die die).blocks = true →
        ∃ t, exec (.blockAdmission die keys) s = .next t ∧
          t = { u with
            gangs := t.gangs, allocs := t.allocs, leases := t.leases, dies := t.dies, launches := t.launches, dirtyRows := t.dirtyRows } ∧
          t.gangs = u.gangs ++ ((List.range ps.length).flatMap fun i => l.startGang b i (ps.getD i (0, none)).1 (ps.getD i (0, none)).2) ∧
          (let next := b + l.packet.dies.length
           (t.die die).queue q = (if next < l.packet.blocks then [.block l.num next] else []) ++ ((u.die die).queue q).drop 1) ∧
          (∀ x, u.launchOf n.launch = some x → t.launchOf n.launch = some { x with running := x.running ++ [(die, b)] }) ∧
          ∀ p ∈ ps, (t.allocAt n.launch n.block (coreOf p.1)).isSome = true) ∧
      (∀ num b idx record cd cg pr kept s1 bs, e = .phase num b idx record cd cg pr kept → u.placed n die ps = true →
        u.readVa l.packet.xlate record true l.world (0x1680 + 8 * cg + 256 * cd) = .ok (s1, bs) →
        ∃ t, exec (.blockAdmission die keys) s = .next t ∧
          t = { s1 with
            gangs := t.gangs, allocs := t.allocs, leases := t.leases, dies := t.dies, launches := t.launches, dirtyRows := t.dirtyRows } ∧
          l.phaseGang bs kept b idx cd cg (ps.getD 0 (0, none)).1 ∈ t.gangs ∧
          ((∀ h ∈ u.gangs, h.launch = l.num → h.request = none) →
            t.gangs = u.gangs ++ [l.phaseGang bs kept b idx cd cg (ps.getD 0 (0, none)).1]))) ∧
    (∀ (l : Launch) (b i slot : Nat) (sh : Option Nat), ∃ h, (l.startGang b i slot sh).head? = some h ∧
      h = { h with
        key := slot, launch := l.num, block := b, idx := i, allot := 8 * l.packet.gangregs, xlate := l.packet.xlate, world := l.world, g := [], m := []
        arrive := [], trapVec := l.packet.trapHandler, shadow := sh } ∧
      ∀ k < 32, h.lane k = { h.lane k with
        pc := l.packet.entry, mode := .user, wait := .no, d := [], p := 0, h := [], fflags := 0, launch := l.num, block := b, tid := 32 * i + k
        cond := if 32 * i + k < l.packet.blockdim then .runnable else .exited }) ∧
    (∀ (l : Launch) bs kept b i cd cg slot, let h := l.phaseGang bs kept b i cd cg slot
      let w := fun n => word (leNat ((bs.drop n).take 8))
      h.key = slot ∧ h.launch = l.num ∧ h.phase = (w 0).toNat + 1 ∧ h.scaccError = kept.scacc ∧ (∀ n < cg, h.getG n = if n = 0 then 0 else w (0x1680 + 8 * n)) ∧
      ∀ k < 32, (h.lane k).pc = w (0x80 + 32 * k) ∧ (h.lane k).meet = w (0x88 + 32 * k) ∧ (h.lane k).mode = .user ∧
        (h.lane k).fflags = (kept.flags.getD k (0, false)).1 ∧ (h.lane k).arrivals = kept.arrivals.getD k [] ∧
        ∀ n < cd, (h.lane k).getD n = if n = 0 then 0 else w (0x1680 + 8 * cg + 256 * n + 8 * k)) ∧
    (let ends := s.resident key = true ∧ g.live = 0 ∧ s.quiet key = true ∧ g.shadowOf = none
     (¬ends → exec (.gangEnd key) s = .next s) ∧
     (ends → ∃ u : State, exec (.gangEnd key) s = .next (if g.byCrossing then u else u.checkGroups g.launch (s.groupsOf g)) ∧ u.resident key = false ∧
       (∀ key', key' ≠ key → some key' ≠ g.shadow → u.gangAt key' = s.gangAt key') ∧
       (∀ l, g.byCrossing = true → s.launchOf g.launch = some l → u.launchOf g.launch = some { l with hzn := max l.hzn (s.lastWrite g) }) ∧
       (∀ l, g.byCrossing = false → s.launchOf g.launch = some l →
         let others := (∃ h ∈ s.gangs, h.key ≠ key ∧ some h.key ≠ g.shadow ∧ h.launch = g.launch ∧ h.block = g.block ∧ h.byCrossing = false) ∨
           (∃ v ∈ s.saved, v.launch = g.launch ∧ v.block = g.block) ∨
           ∃ q ∈ (s.die (dieOf key)).phases, ∃ l b i r x y z w, QueueEntry.phase l b i r x y z w ∈ q.2 ∧ l = g.launch ∧ b = g.block
         ∃ l', u.launchOf g.launch = some l' ∧ l'.gone = l.gone ++ [512 * g.block + g.idx] ∧ l'.hzn = max l.hzn (s.lastWrite g) ∧ (others → l'.ended = l.ended) ∧
           (¬others → l'.ended = l.ended + 1)))) ∧
    (∀ num, s.launchOver num = false → exec (.launchCompletion num) s = .next s) ∧
    (∀ num l s1, s.launchOver num = true → s.launchOf num = some l →
      (State.closeCtxs { s with gtime := max s.gtime (l.hzn + s.marginNs.toNat) } num).writeVa l.packet.xlate l.packet.completion true l.world
        (leBytes 8 (word (2 ^ 63 + l.status * 2 ^ 56 + l.ended % 2 ^ 32)).toNat) = .ok s1 →
      ∃ t, exec (.launchCompletion num) s = .next t ∧ t = { s1 with
        launches := s1.launches.filter fun x => x.num ≠ num, rings := s1.rings.filter fun r => r.launch ≠ num
        redseqs := s1.redseqs.filter fun q => q.launch ≠ num, groupRounds := s1.groupRounds.filter fun r => r.launch ≠ num
        gredws := s1.gredws.filter fun r => r.launch ≠ num }) ∧
    ((s.gangs.map fun h => h.key).Nodup → ∀ (source : PreemptBy) (gs : List Nat) (asked : Nat → Gang → Bool),
      let d := dieOf (gs.headD 0)
      (source = .debugger ∧ asked = fun k _ => gs.contains k) ∨
      (source = .control ∧ s.requestStands d = false ∧
        asked = fun k h => dieOf k == d && h.launch == (s.die d).preemptLaunch.toNat) ∨
      (∃ r num b, source = .scheduler ∧ s.requestStands d = false ∧ s.victim d = some (r, num, b) ∧
        asked = fun k h => dieOf k == d && h.launch == num && h.block == b && !h.byCrossing) →
      ∃ t, exec (.preemptRequest source gs) s = .next t ∧ t = { s with gangs := t.gangs } ∧ ∀ k, s.resident k = true →
        t.gangAt k =
          if asked k (s.gangAt k) = true ∧ (s.gangAt k).request = none ∧ (s.gangAt k).taken = false then
            { s.gangAt k with request := some (s.gtime + max 1 (s.die (dieOf k)).watchdogUs.toNat * 1000) }
          else s.gangAt k) ∧
    (∀ gs, s.requestStands (dieOf (gs.headD 0)) = true → exec (.preemptRequest .control gs) s = .next s ∧ exec (.preemptRequest .scheduler gs) s = .next s) ∧
    (∀ i fields hardware (waits : Thread → Bool),
      (i, fields, hardware, waits) ∈
        [ (Instr.saveComplete key, [], false, fun t => t.mode == .save && t.wait == .halt),
          (Instr.ctxSequencerSave key, s.sequencerFields g (s.allocAt g.launch g.block (coreOf key)), true, fun t => t.cond == .stopped .safePoint) ] →
      let due := g.taken = true ∧ g.live ≠ 0 ∧ (∀ k, g.live.getLsbD k = true → waits (g.lane k) = true) ∧ s.drained key = true
      let last := !s.siblings g
      (¬due → exec i s = .next s) ∧
      ∀ s1, due → s.resident key = true → (∀ f ∈ s.faults, f.who ≠ .save key) →
        s.areaWrite key g.saveArea (coreFields (s.allocAt g.launch g.block (coreOf key)) last hardware fields) = .ok s1 →
        ∃ t v, exec i s = .next t ∧ t.resident key = false ∧ v ∈ t.saved ∧
          v = { v with
            launch := g.launch, block := g.block, idx := g.idx, die := dieOf key, core := coreOf key, allot := g.allot, area := g.saveArea
            lanes := g.live, carrier := last, phase := g.phase, kept := g.kept, slot := none }) ∧
    (∀ f, g.taken = true → g.live ≠ 0 → (∀ k, g.live.getLsbD k = true → (g.lane k).mode = .save ∧ (g.lane k).wait = .halt) → s.drained key = true →
      s.resident key = true → (∀ f ∈ s.faults, f.who ≠ .save key) → s.areaWrite key g.saveArea (coreFields (s.allocAt g.launch g.block (coreOf key)) (!s.siblings g)
        false []) = .error f →
      ∃ item, exec (.saveComplete key) s = .next { s with faults := s.faults ++ [item] } ∧ item.who = .save key ∧
        -- a fault of no lane, with no place (R269)
        item.record = recordBytes f.va 0 g.launch g.block 0xFFFFFFFF 0 f.cause.code ((f.info + 2 ^ 14) % 256) 16 (asidOf g.xlate) true) ∧
    (∀ i v l, s.saved[i]? = some v → s.launchOn v.launch v.die = some l →
      (∀ k, v.slot = some k → s.restoreReady l v key = if k = key ∧ s.carrierGone v = true ∧ s.partClearing (partOf key) = false then some s else none) ∧
      (v.slot = none → s.restoreAdmitted l v = false ∨ s.restoreTurn l v = false ∨ s.slotFor l [] v key = false → s.restoreReady l v key = none) ∧
      (s.restoreReady l v key = none → exec (.restoreStart i key) s = .next s) ∧
      ∀ u s1 pas, s.restoreReady l v key = some u → u.funcBit (dieOf key) 3 = false →
        u.translateRange (coreOf key) l.packet.xlate v.area .load true 0x680 = .ok (s1, pas) →
        -- the threads of the area's TRAPMASK word
        let mask := BitVec.ofNat 32 (leNat (((s1.openBytes l.world (s1.view (coreOf key)) pas).drop 8).take 8))
        ∃ t h, exec (.restoreStart i key) s = .next t ∧ t.gangs = s.gangs ++ [h] ∧
          h = { h with
            key := key, launch := v.launch, block := v.block, idx := v.idx, allot := v.allot, xlate := l.packet.xlate, world := l.world, phase := v.phase
            saveArea := v.area, scaccError := v.kept.scacc } ∧
          ∀ k < 32, mask.getLsbD k = true →
            h.lane k = { h.lane k with
              pc := l.packet.restoreRoutine, mode := .restore, cond := .runnable, meet := 0, hzn := 0, ix := 0, p := 0, d := [], dValid := 1
              fflags := (v.kept.flags.getD k (0, false)).1, arrivals := v.kept.arrivals.getD k []
              trapCause := 0x38, trapPc := 0, trapAddr := 0, trapMask := mask, trapInfo := word (if v.carrier then 1 else 0) })

/-- R293 to R301, R319, R351, R364: a thread that crosses arrives in a free slot of a device core, with its registers and ordered after its record, or
on its host core; a host thread that executes a jal or jalr links and jumps, takes the exception of R300 at a Flidan page that it may not enter, and
else writes its record and leaves for the device; reg_cmd registers and forgets host threads; a host launch starts a packet's launch. Which steps a
host thread takes (assumption 41), what hl_last reads after a fault (assumption 55) and the host's encodings, control registers and delegation of
traps (assumption 66) are the model's choice. -/
def Obligations.CrossingsAndHostCommands : Prop :=
  ∀ (s : State) (i key host : Nat) (c : Crossing),
    (s.crossings[i]? = some c → c.toDevice = true →
      (c.held = true ∨ s.slotFits key = false → exec (.crossingArrival i key) s = .next s) ∧
      (c.held = false → s.slotFits key = true → ∃ t h, exec (.crossingArrival i key) s = .next t ∧
        t = { s with
          crossings := s.crossings.eraseIdx i, gangs := s.gangs ++ [h], icache := t.icache, leases := s.acquired (coreOf key) 5
          launches := t.launches } ∧
        h = { h with
          key := key, launch := c.launch, block := c.block, idx := c.gangIdx, allot := 64, xlate := c.xlate, world := 0, g := [], m := []
          arrive := [], trapVec := 0, byCrossing := true
          firstFetch := if c.pte = 0 then none else some (c.target, leafPa c.pte c.level c.target)
          parked := s.hub.ccRunning && s.hub.ccAsid.toNat == asidOf c.xlate } ∧
        h.live = 1 ∧ h.lane 0 = { h.lane 0 with
          pc := c.target, cond := .runnable, mode := .user, wait := .no, launch := c.launch, block := c.block, tid := c.tid, hzn := word s.gtime
          fflags := BitVec.ofNat 5 c.fcsr.toNat, p := 0, meet := 0, stepping := if c.stepping then 2 else 0 } ∧
        (SMap.wf 0 c.image = true → ∀ n, 0 < n → n < 64 → (h.lane 0).getD n = SMap.get 0 c.image n) ∧
        (∀ l, s.launchOf c.launch = some l → t.launchOf c.launch = some { l with away := l.away - 1 }) ∧
        (c.pte ≠ 0 → ∃ b ∈ t.icache, b.core = coreOf key ∧ b.world = 0 ∧ b.pa = leafPa c.pte c.level c.target / 32 * 32))) ∧
    (s.crossings[i]? = some c → c.toDevice = false → (∀ h, s.hostThread c.launch c.block c.tid = some h → h.pending = []) →
      ∃ t h, exec (.crossingArrival i key) s = .next t ∧
      t = { s with crossings := s.crossings.eraseIdx i, hostThreads := t.hostThreads } ∧ t.hostThread c.launch c.block c.tid = some h ∧
      h = { h with
        host := c.host, away := false, image := c.image, fcsr := c.fcsr, pc := c.target, first := some (c.pte, c.level), loads := [], stores := []
        stopped := c.stepping
        vec := { v := [], vl := 0, vstart := 0, vtype := 0x8000000000000000, vxrm := 0, vxsat := false } }) ∧
    (∀ h cause tval epc gpa, s.hostThreads[i]? = some h →
      let old := s.hostCore h.host
      let mode := old.destination h.mode cause
      ∃ t, s.hostTrap i cause tval epc gpa = t ∧ t = { s with hostThreads := t.hostThreads, hostCores := t.hostCores } ∧
      -- an exception goes to machine mode, or below as medeleg and hedeleg say
      (cause < 64 → mode = if h.mode = .machine ∨ (old.csr 0x302).getLsbD cause = false then .machine
        else if h.mode.isVirt = true ∧ (old.csr 0x602).getLsbD cause = true then .virtSupervisor else .supervisor) ∧
      let vector := if mode = .machine then old.mtvec else if mode = .virtSupervisor then old.csr 0x205 else old.stvec
      (cause < 2 ^ 63 → t.hostThreads[i]? = some { h with mode := mode, first := none, pc := word (vector.toNat / 4 * 4) }) ∧
      (SMap.wf HostCore.reset s.hostCores = true → SMap.wf 0 old.csrs = true →
        let c := t.hostCore h.host
        (mode = .machine → c = { old with mepc := epc, mcause := word cause, mtval := tval, mprev := h.mode, csrs := c.csrs } ∧
          (c.csr 0x300).getLsbD 7 = (old.csr 0x300).getLsbD 3 ∧ (c.csr 0x300).getLsbD 3 = false ∧ c.csr 0x34B = word (gpa / 4)) ∧
        (mode = .supervisor → c = { old with sepc := epc, scause := word cause, stval := tval, sprev := h.mode, csrs := c.csrs } ∧
          (c.csr 0x300).getLsbD 5 = (old.csr 0x300).getLsbD 1 ∧ (c.csr 0x300).getLsbD 1 = false ∧ c.csr 0x643 = word (gpa / 4)) ∧
        (mode = .virtSupervisor → cause < 2 ^ 63 → c = { old with csrs := c.csrs } ∧ c.csr 0x241 = epc ∧ c.csr 0x242 = word cause ∧
          c.csr 0x243 = tval ∧ (c.csr 0x200).getLsbD 5 = (old.csr 0x200).getLsbD 1 ∧ (c.csr 0x200).getLsbD 1 = false))) ∧
    (∀ h s1 n rd rs1 off target,
      let x := (hostDecode n).1
      let jal := x = .jal rd off ∧ rs1 = none ∧ target = h.pc + off
      let jalr := ∃ r, x = .jalr rd r off ∧ rs1 = some r ∧ target = word ((h.reg r + off).toNat / 2 * 2)
      s.hostThreads[i]? = some h → h.host = host → s.hostReady h = true → (s.hostTake h).hostFetch h = .ok (s1, n) → jal ∨ jalr →
      (∀ l ∈ h.loads, l.dst = 0 ∨ l.dst ∉ x.regs) → h.stepping = false →
      let h0 := { h with first := none }
      let u := s1.setHost i h0
      let linked := h0.setReg rd (h.pc + word (hostDecode n).2)
      let kind := if rd ≠ 0 then CrossKind.call else if rs1 = some 1 then .return else .jump
      let i' := Instr.hostJalrCrossing host i kind target (SMap.getList 0 h.image 1 63) h.fcsr
      (u.flidanLeaf h0 target = none → exec i' s = .next (u.setHost i { linked with pc := target })) ∧
      ∀ l, u.flidanLeaf h0 target = some l →
        (target.toNat % 4 ≠ 0 → exec i' s = .next (u.hostTrap i 0 target h.pc)) ∧
        (target.toNat % 4 = 0 → Pte.x l.pte = false ∨ h.mode.isUser = false ∨ Pte.u l.pte = false →
          exec i' s = .next ((u.setHost i linked).hostTrap i 12 target target)) ∧
        (target.toNat % 4 = 0 → Pte.x l.pte = true → h.mode.isUser = true → Pte.u l.pte = true →
          (h.launch = 0 → h.registered = false → exec i' s = .next ((u.setHost i linked).hostTrap i 1 target target)) ∧
          (h.launch ≠ 0 ∨ h.registered = true → h.loads ≠ [] ∨ h.stores ≠ [] → exec i' s = .next u) ∧
          (h.launch ≠ 0 ∨ h.registered = true → h.loads = [] → h.stores = [] →
            let record := recordOf (recordHeader kind 1 h.fcsr target) linked.image
            (∀ f, u.hostRecord i linked record = .error f → exec i' s = .next (u.hostFaulted i h0 f h.pc)) ∧
            (u.hostRecord i linked record = .ok none → exec i' s = .next u) ∧
            ∀ s2 h2, u.hostRecord i linked record = .ok (some s2) → s2.hostThreads[i]? = some h2 → h2.records ≠ h.records →
              ∃ t d, exec i' s = .next t ∧ t.crossings = s2.crossings ++ [d] ∧ t.hostThreads[i]? = some { h2 with away := true, stepping := false } ∧
                -- beside the accessed bit of the target's leaf
                t = { s2.markLeaf l false with
                  crossings := t.crossings, hostThreads := t.hostThreads, hostCores := t.hostCores, guests := t.guests } ∧
                d = { d with
                  toDevice := true, kind := kind, launch := h2.launch, block := h2.block, tid := h2.tid, xlate := h2.xlate, target := target
                  fcsr := h2.fcsr, host := h2.host, gangIdx := h2.gangIdx, pte := l.pte, level := l.level } ∧
                ∀ n, n < 63 → SMap.get 0 d.image (n + 1) = SMap.get 0 h2.image (n + 1)))) ∧
    (∀ h kind target image fcsr, s.hostThreads[i]? = some h →
      h.host ≠ host ∨ s.hostReady h = false ∨ image ≠ SMap.getList 0 h.image 1 63 ∨ fcsr ≠ h.fcsr →
      exec (.hostJalrCrossing host i kind target image fcsr) s = .next s) ∧
    (∀ thread (v : Word),
      let n := v.toNat % 2 ^ 24
      let answered := fun (failed : Bool) => { s.hub with regBusy := false, regFailed := failed }
      (s.regBad host thread v = true → exec (.regCmd host thread v) s = .next { s with hub := answered true }) ∧
      (s.regBad host thread v = false → v.getLsbD 24 = true → ∃ t h, exec (.regCmd host thread v) s = .next t ∧
        t = { s with hub := answered false, hostThreads := t.hostThreads, hostCores := t.hostCores } ∧ h ∈ t.hostThreads ∧
        h = { h with launch := 0, tid := n, host := host, ring := s.hub.regRing, records := 0, away := false, registered := true }) ∧
      (s.regBad host thread v = false → v.getLsbD 24 = false → ∃ t, exec (.regCmd host thread v) s = .next t ∧
        t = { s with hub := answered false, hostThreads := t.hostThreads } ∧
        t.hostThreads = s.hostThreads.map fun h =>
          if h.launch = 0 ∧ h.block = 0 ∧ h.tid = n then { h with registered := false, tid := 2 ^ 24 + host } else h) ∧
      (thread = false ∨ v.toNat / 2 ^ 25 ≠ 0 → s.regBad host thread v = true) ∧
      (∀ k h, s.hostWriter host = some k → s.hostThreads[k]? = some h → h.launch ≠ 0 → s.regBad host thread v = true)) ∧
    ∀ packet : Word,
      let pa := packet.toNat
      let p := Packet.parse ((List.range 128).map fun j => s.peek (pa + j))
      let reads := fun (t : State) (n : Nat) => { t with hub := { t.hub with hlLast := SMap.set 0 t.hub.hlLast host n } }
      let refused := pa % 128 ≠ 0 ∨ s.poisoned 0 pa = true ∨ p.completion.toNat % 8 ≠ 0 ∨ s.bootStep < 9
      (refused → exec (.hostLaunch host packet) s = .next (reads s 0)) ∧
      (∀ f, ¬refused → s.plan hubCore true true p packet pa = .error f → ∃ t item, exec (.hostLaunch host packet) s = .next t ∧
        t = reads { s with faults := s.faults ++ [item] } (2 ^ 63) ∧ item.who = .hostLaunch host packet ∧ item.cause = f.cause ∧ item.va = f.va) ∧
      ∀ s1 q, ¬refused → s.plan hubCore true true p packet pa = .ok (s1, q) →
        (s1.launchBreach q ≠ none ∨ (∃ l ∈ q.lines, s1.poisoned 0 (l * 128) = true) → exec (.hostLaunch host packet) s = .next (reads s1 0)) ∧
        (s1.launchBreach q = none → (∀ l ∈ q.lines, s1.poisoned 0 (l * 128) = false) → exec (.hostLaunch host packet) s = .next (reads (s1.startLaunch 0 q).1 s1.hub.nextLaunch.toNat) ∧
          (q.status = 0 → ∃ l, l.num = s1.hub.nextLaunch.toNat ∧ l.packet = p ∧ l.world = 0 ∧ l.place = pa ∧ l.unread = p.dies ∧ l.reads = [] ∧
            (s1.startLaunch 0 q).1.launches = s1.launches ++ [l]))

/-- R269 to R273, R334, R337, R360, R363: fault service takes the second walk and holds, retries or posts a fault; software's answer retries or
delivers it; fq_base and fq_size take only legal values. R337, R390: a machine check stops the threads that its source names, each with its trap
registers, with one record for each gang; a link loss is a record only. A write of OPLOG.free drops the thread's entry and no register. The cause of
the second walk (assumption 28), and the counts of the fault queue, an unknown code in an answer and how a machine check names threads (assumption 36)
are the model's choice. -/
def Obligations.FaultService : Prop :=
  ∀ (s : State),
    let size := s.hub.fqSize.toNat
    let legal := fun (n : Nat) => ∃ k, 6 ≤ k ∧ k ≤ 16 ∧ n = 2 ^ k
    (∀ (i : Nat) (f : FaultItem), s.faults[i]? = some f →
      let room := s.hub.fqBase ≠ 0 ∧ legal size ∧ (word s.hub.fqTail - s.hub.fqHead).toNat < size
      let posts := fun (rec : List Byte) (fs : List FaultItem) =>
        let u := s.hubWrite (s.hub.fqBase.toNat + 64 * (s.hub.fqTail % size)) rec
        exec (.faultService i) s = .next { u with hub := { s.hub with fqTail := s.hub.fqTail + 1 }, faults := fs }
      let access := f.who ≠ .record ∧ ∀ key ok, f.who ≠ .machine key ok
      (f.posted ≠ none ∨ f.transit = true → exec (.faultService i) s = .next s) ∧
      (f.posted = none → f.transit = false →
        (f.who = .record → room → posts f.record (s.faults.eraseIdx i)) ∧
        (∀ key ok, f.who = .machine key ok → room → posts f.record (s.faults.set i { f with posted := some s.hub.fqTail })) ∧
        (¬access → ¬room → exec (.faultService i) s = .next s) ∧
        (access → s.rewalk f = none → exec (.faultService i) s = .next (s.retryOrHold i)) ∧
        (∀ info, access → s.rewalk f = some (.pfWriteInTransit, info) →
          exec (.faultService i) s = .next { s with faults := s.faults.set i { f with transit := true } }) ∧
        ∀ c info, access → s.rewalk f = some (c, info) → c ≠ .pfWriteInTransit →
          (¬room → exec (.faultService i) s = .next s) ∧
          (room → ∃ g, g = { f with cause := c, info := g.info, record := g.record, posted := some s.hub.fqTail } ∧
            g.info = word (f.info.toNat / 2 ^ 14 * 2 ^ 14 + f.info.toNat / 2 ^ 9 % 2 * 2 ^ 9 + info) ∧
            posts g.record (s.faults.set i g) ∧
            (f.record.length = 64 → g.record[0x20]? = some (BitVec.ofNat 8 c.code) ∧ g.record[0x21]? = some (BitVec.ofNat 8 (g.info.toNat % 256)) ∧
              ∀ j, j ≠ 0x20 → j ≠ 0x21 → g.record[j]? = f.record[j]?))) ∧
      (s.rewalk f =
        if canonical f.va = false then some (.pfNotPresent, faultInfo (Access.ofIndex f.access) false 3)
        else match s.walk f.xlate f.va with
          | .error (level, malformed) => some (.pfNotPresent, faultInfo (Access.ofIndex f.access) malformed level)
          | .ok l => (checkLeaf l.pte (Access.ofIndex f.access) f.priv).map fun c => (c, faultInfo (Access.ofIndex f.access) false l.level)) ∧
      (f.transit = true → (∃ l, s.walk f.xlate f.va = .ok l ∧ Pte.t l.pte = true) → exec (.transitRetry i) s = .next s) ∧
      (f.transit = true → ¬(∃ l, s.walk f.xlate f.va = .ok l ∧ Pte.t l.pte = true) → exec (.transitRetry i) s = .next (s.retryOrHold i)) ∧
      -- a fault that is retried
      (let dropped := { s with faults := s.faults.eraseIdx i }
       (∀ p n, f.who = .logged p n → dropped.logEntry p n = none → s.retryOrHold i = dropped) ∧
       (∀ p n e, f.who = .logged p n → dropped.logEntry p n = some e →
         s.retryOrHold i = (dropped.replay e).getD { s with faults := s.faults.set i { f with transit := true, posted := none } }) ∧
       (∀ key m x, f.who = .insn key m x → s.retryOrHold i = dropped.releaseLogged key) ∧
       (f.who = .record ∨ (∃ n, f.who = .copy n ∨ f.who = .matrix n ∨ f.who = .gred n ∨ f.who = .save n) → s.retryOrHold i = dropped) ∧
       (∀ num, f.who = .completion num → s.retryOrHold i = dropped.complete num) ∧
       (∀ host packet, f.who = .hostLaunch host packet → s.retryOrHold i = dropped.hostLaunch host packet) ∧
       (∀ key, f.who = .machine key true → s.retryOrHold i = dropped.resumeChecked key) ∧
       (∀ key, f.who = .machine key false → s.retryOrHold i = dropped.endLaunch (s.gangAt key).launch) ∧
       -- its answer
       ∀ (v : Word) (t : Nat), f.posted = some t → t % size = v.toNat % 2 ^ 16 % size →
         (∀ j h u, s.faults[j]? = some h → h.posted = some u → u % size = t % size → j = i) →
         (v.getLsbD 16 = false → exec (.fqAnswer v) s = .next (s.retryOrHold i)) ∧
         (v.getLsbD 16 = true → ∀ c, c = (Cause.ofCode (v.toNat / 2 ^ 24 % 256)).getD f.cause →
           (∀ p n, f.who = .logged p n → dropped.logEntry p n = none → exec (.fqAnswer v) s = .next dropped) ∧
           (∀ p n e, f.who = .logged p n → dropped.logEntry p n = some e →
             exec (.fqAnswer v) s = .next (dropped.trapAt e.gang { cause := c, mask := e.lanes, addr := f.va, info := f.info } e.pc
               (fun k => ((s.gangAt e.gang).lane k).pc) (some e.entry))) ∧
           (∀ key m, f.who = .insn key m none →
             let u := (dropped.onLanes key m fun _ t => { t with wait := .no }).releaseLogged key
             exec (.fqAnswer v) s = .next (u.trapAt key { cause := c, mask := m, addr := f.va, info := f.info } ((s.gangAt key).lane (lowest m)).pc
               (fun _ => ((s.gangAt key).lane (lowest m)).pc) none)) ∧
           (∀ key m target, f.who = .insn key m (some target) →
             let u := (dropped.onLanes key m fun _ t => { t with wait := .no }).releaseLogged key
             exec (.fqAnswer v) s = .next (u.trapAt key { cause := .transitTarget, mask := m, addr := target, info := word f.cause.code }
               ((s.gangAt key).lane (lowest m)).pc (fun _ => ((s.gangAt key).lane (lowest m)).pc) none)) ∧
           (∀ id, f.who = .copy id → exec (.fqAnswer v) s = .next (dropped.failCopy id c f.va)) ∧
           (∀ p, f.who = .matrix p → exec (.fqAnswer v) s = .next (dropped.failTile p c f.va)) ∧
           (∀ key, f.who = .gred key → exec (.fqAnswer v) s = .next (dropped.failGred key c f.va)) ∧
           (∀ num, f.who = .completion num → exec (.fqAnswer v) s = .next (dropped.forget num)) ∧
           (∀ host packet, f.who = .hostLaunch host packet →
             exec (.fqAnswer v) s = .next { dropped with hub := { s.hub with hlLast := SMap.set 0 s.hub.hlLast host 0 } }) ∧
           (∀ key ok, f.who = .machine key ok → exec (.fqAnswer v) s = .next (dropped.endLaunch (s.gangAt key).launch))))) ∧
    (∀ v : Word, (∀ f ∈ s.faults, ∀ t, f.posted = some t → t % size ≠ v.toNat % 2 ^ 16 % size) → exec (.fqAnswer v) s = .next s) ∧
    (∀ v : Word,
      (legal v.toNat → exec (.fqSizeWrite true v) s = .next { s with hub := { s.hub with fqSize := v } }) ∧
      (¬legal v.toNat → exec (.fqSizeWrite true v) s = .next s) ∧
      (v.toNat % 4096 = 0 → exec (.fqSizeWrite false v) s = .next { s with hub := { s.hub with fqBase := v } }) ∧
      (v.toNat % 4096 ≠ 0 → exec (.fqSizeWrite false v) s = .next s)) ∧
    ((s.gangs.map fun h => h.key).Nodup → (∀ h ∈ s.gangs, h.threads.length = 32) →
      ∀ (code part : Nat) (address : Word) (named : List Nat) (recoverable : Bool),
      let takes := fun (key k : Nat) =>
        let g := s.gangAt key
        let isNamed := (32 * key + k) ∈ named
        let partner := match g.shadowOf, g.shadow with | some p, _ => p | none, some p => p | none, none => key
        k < 32 ∧ (g.lane k).cond ≠ .exited ∧
          if code = 1 then partOf key = part
          else if code = 2 then partOf key = part ∧ ((∃ e ∈ (s.array part).queue, e.gang = key) ∨ ∃ n ∈ named, n / 32 = key)
          else if code = 3 then isNamed ∨ (32 * partner + k) ∈ named
          else if code = 4 then isNamed
          else ∃ a ∈ s.allocs, a.launch = g.launch ∧ a.block = g.block ∧ g.byCrossing = false ∧ SMap.get 0 a.banks part ≠ 0
      let spared := fun (key k : Nat) => recoverable = true ∨ (named ≠ [] ∧ if code = 2 then ∀ n ∈ named, n / 32 ≠ key else (32 * key + k) ∉ named)
      let none' := (∀ h ∈ s.gangs, partOf h.key ≠ part) ∧ ∀ v ∈ s.saved, ∀ k, v.slot = some k → partOf k ≠ part
      ∃ t, exec (.machineCheck code part address named recoverable) s = .next t ∧
        t = { s with
          gangs := t.gangs, faults := t.faults, clearing := t.clearing, checked := t.checked, snaps := t.snaps, snapArmed := t.snapArmed
          snapCount := t.snapCount } ∧
        (∀ key k, s.resident key = true → k < 32 → ¬takes key k → ∃ b, (t.gangAt key).lane k = { (s.gangAt key).lane k with bundle := b }) ∧
        (∀ key k, s.resident key = true → takes key k →
          let old := (s.gangAt key).lane k
          let u := (t.gangAt key).lane k
          u = { old with
            cond := u.cond, wait := u.wait, bundle := none, trapCause := 0x3F, trapPc := old.pc, trapAddr := address, trapMask := u.trapMask
            trapInfo := u.trapInfo, oplogValid := false, oplogEntry := 0, hit := false } ∧
          (spared key k → u.trapInfo = word (code + 256)) ∧ (¬spared key k → u.trapInfo = word code) ∧
          (∀ j, u.trapMask.getLsbD j = true ↔ takes key j) ∧
          (old.cond = .runnable ∨ old.cond = .stopped .safePoint → u.cond = .stopped .machineCheck ∧ u.wait = old.wait) ∧
          (∀ w, old.cond = .stopped w → w ≠ .safePoint → u.cond = old.cond ∧ u.wait = old.wait) ∧
          (∀ K, old.cond = .held K → u.cond = .stopped .machineCheck ∧ u.wait = .mask K)) ∧
        (∃ fs, t.faults = s.faults ++ fs ∧ ∀ key, (∃ f ∈ fs, ∃ ok, f.who = .machine key ok ∧ (ok = true ↔ ∀ k, takes key k → spared key k)) ↔
          s.resident key = true ∧ ∃ k, takes key k) ∧
        (none' → ∃ c ∈ t.clearing, c.partition = part) ∧ (¬none' → part ∈ t.checked)) ∧
    (∀ wilkan link, ∃ t f, exec (.linkLoss wilkan link) s = .next t ∧
      t = { s with faults := s.faults ++ [f], snaps := t.snaps, snapArmed := t.snapArmed, snapCount := t.snapCount } ∧
      f = { f with who := .record, transit := false, posted := none } ∧
      f.record = recordBytes 0 0 0xFFFFFFFF 0xFFFFFFFF 0xFFFFFFFF 0 0x3F (if wilkan then 0x12 else 0x10) 16 0 false) ∧
    ∀ key lane, s.resident key = true → lane < 32 →
      let x := (s.gangAt key).lane lane
      let held := fun (e : OpLogEntry) => e.gang == key && x.oplogValid && x.oplogEntry.toNat == e.entry
      ∃ t, exec (.oplogFree key lane) s = .next t ∧ t = { s with oplog := t.oplog, gangs := t.gangs } ∧
        t.oplog = (s.oplog.filter fun e => !((s.oplog.filter held).any fun h => h.partition == e.partition && h.entry == e.entry)) ∧
        (∀ key' k n, ((t.gangAt key').lane k).getD n = ((s.gangAt key').lane k).getD n) ∧
        ((∃ e ∈ s.oplog, held e = true) → ((t.gangAt key).lane lane).oplogValid = false)

/-- R100, R103 to R105, R110, R124, R354, R361, R375, R386 to R388: the debugger stops a thread, lets it go on, writes its state and its block's
scratch and steps it by one instruction; the snapshot trigger latches every block once armed; a sample is taken in world 0 and written to its die's
ring. How a stopped thread goes on, what a step's trap writes and what a sample's record holds (assumption 37), and that the debugger is an agent of
world 0 (assumption 68), is the model's choice. -/
def Obligations.DebuggerAndObservation : Prop :=
  ∀ (s : State) (key lane : Nat), s.resident key = true → key < Config.slots → lane < 32 → (∀ g ∈ s.gangs, g.Canonical) →
    let x := (s.gangAt key).lane lane
    -- only this thread changes, to y
    let becomes := fun (i : Instr) (y : Thread) => ∃ t, exec i s = .next t ∧ t = { s with gangs := t.gangs } ∧
      (∀ k, k ≠ key → t.gangAt k = s.gangAt k) ∧ t.gangAt key = { s.gangAt key with threads := (t.gangAt key).threads } ∧
      (∀ j, j ≠ lane → (t.gangAt key).lane j = (s.gangAt key).lane j) ∧ (t.gangAt key).lane lane = y
    let goes := fun (y : Thread) => y = { x with
      cond := match x.wait with | .mask K => .held K | _ => .runnable
      wait := match x.wait with | .mask _ => .no | w => w
      bundle := none
      -- the instruction that hit is performed once without its check
      skipWatch := if x.mode = .handler then x.skipWatch else x.hit && x.pc == x.trapPc
      hit := if x.mode = .handler then x.hit else false }
    (x.cond = .exited ∨ (∃ w, x.cond = .stopped w) → becomes (.debuggerStop key lane) x) ∧
    (x.cond = .runnable → becomes (.debuggerStop key lane) { x with cond := .stopped .debugger, bundle := none }) ∧
    (∀ K, x.cond = .held K → becomes (.debuggerStop key lane) { x with cond := .stopped .debugger, bundle := none, wait := .mask K }) ∧
    (x.cond = .stopped .debugger ∨ x.cond = .stopped .trap → ∃ y, goes y ∧
      ((∀ K, x.wait ≠ .mask K) → becomes (.debuggerResume key lane) y) ∧
      -- held again, it lets the threads stopped at SAFEs go on
      ∀ K, x.wait = .mask K → ∃ t, exec (.debuggerResume key lane) s = .next t ∧ t = { s with gangs := t.gangs } ∧
        (∀ k, k ≠ key → t.gangAt k = s.gangAt k) ∧ t.gangAt key = { s.gangAt key with threads := (t.gangAt key).threads } ∧
        (t.gangAt key).lane lane = y ∧ ∀ j, j ≠ lane → (t.gangAt key).lane j =
          let o := (s.gangAt key).lane j
          if (s.gangAt key).taken = false ∧ o.cond = .stopped .safePoint then { o with cond := .runnable, bundle := none } else o) ∧
    (x.cond ≠ .stopped .debugger → x.cond ≠ .stopped .trap → becomes (.debuggerResume key lane) x) ∧
    (∀ (v : Word) what y,
      (what, y) ∈ [(DebugField.pc, { x with pc := v }), (.meet, { x with meet := v }), (.hzn, { x with hzn := v }),
        (.ix, { x with ix := BitVec.ofNat 7 v.toNat }), (.fflags, { x with fflags := BitVec.ofNat 5 v.toNat, dyReserved := v.getLsbD 5 })] →
      becomes (.debuggerStateWrite key lane what v) y) ∧
    (∀ (v : Word) n, n < 7 → ∃ y, becomes (.debuggerStateWrite key lane (.p n) v) y ∧ y = { x with p := y.p } ∧
      ∀ j, y.getP j = if j = n then v.getLsbD 0 else x.getP j) ∧
    (∀ (v : Word) n, 0 < n → n < (s.gangAt key).allot → ∃ y, becomes (.debuggerStateWrite key lane (.d n) v) y ∧
      y = { x with d := y.d, dValid := y.dValid, tracked := y.tracked } ∧ ∀ j, y.getD j = if j = n then v else x.getD j) ∧
    (∀ (v : Word) n, n < 16 → ∃ y, becomes (.debuggerStateWrite key lane (.h n) v) y ∧ y = { x with h := y.h } ∧
      ∀ j, y.getH j = if j = n then v else x.getH j) ∧
    (∀ (v : Word) n, 0 < n → n < 128 → ∃ t, exec (.debuggerStateWrite key lane (.g n) v) s = .next t ∧ t = { s with gangs := t.gangs } ∧
      (∀ k, k ≠ key → t.gangAt k = s.gangAt k) ∧ (t.gangAt key).threads = (s.gangAt key).threads ∧
      ∀ j, (t.gangAt key).getG j = if j = n then v else (s.gangAt key).getG j) ∧
    (∀ (v : Word) n, n < 12 → ∃ t, exec (.debuggerStateWrite key lane (.m n) v) s = .next t ∧ t = { s with gangs := t.gangs } ∧
      (∀ k, k ≠ key → t.gangAt k = s.gangAt k) ∧
      let m := BitVec.ofNat 32 v.toNat
      let a := (s.gangAt key).getA n &&& m
      (∀ j, (t.gangAt key).getM j = if j = n then m else (s.gangAt key).getM j) ∧
      ∀ j, (t.gangAt key).getA j = if j = n then (if a ≠ 0 ∧ a = m then 0 else a) else (s.gangAt key).getA j) ∧
    (∀ (v : Word) n, ∃ t, exec (.debuggerStateWrite key lane (.wpctl n) v) s = .next t ∧ t = { s with gangs := t.gangs } ∧
      (if n = 0 then (t.gangAt key).wpCtl0 else (t.gangAt key).wpCtl1) =
        BitVec.ofNat 10 (v.toNat / 256 % 4 * 256 + min 12 (v.toNat / 8 % 32) * 8 + v.toNat % 8)) ∧
    (∀ (v : Word) n,
      let size := (if n = 0 then (s.gangAt key).wpCtl0 else (s.gangAt key).wpCtl1).toNat / 8 % 32
      ∃ t, exec (.debuggerStateWrite key lane (.wpaddr n) v) s = .next t ∧ t = { s with gangs := t.gangs } ∧
        (if n = 0 then (t.gangAt key).wpAddr0 else (t.gangAt key).wpAddr1).toNat = v.toNat / 2 ^ size * 2 ^ size) ∧
    -- scratch of the gang's block on its core, as an agent of system world
    (∀ (v : Word) off a, s.gangAlloc key (coreOf key) = some a →
      let who := fun world => s.refusing (s.gangAt key).launch (s.gangAt key).block world (coreOf key) off
      let i := Instr.debuggerStateWrite key lane (.scratch off) v
      (a.size ≤ off → exec i s = .next s) ∧
      (∀ p, off < a.size → who 0 = some p → exec i s = .next (s.logBanks 0 0 [(p, spotVa (coreOf key) off)])) ∧
      (off < a.size → who 0 = none → a.Canonical → ∃ t a', exec i s = .next t ∧ t = { s with allocs := t.allocs } ∧ t.gangAlloc key (coreOf key) = some a' ∧
        ∀ q, a'.byte q = if q = off then BitVec.ofNat 8 v.toNat else a.byte q)) ∧
    -- a thread on a host core
    (∀ host i h (v : Word), s.hostRunning host = some i → s.hostThreads[i]? = some h →
      exec (.debuggerStop (Config.slots + host) lane) s = .next (s.setHost i { h with stopped := true }) ∧
      exec (.debuggerResume (Config.slots + host) lane) s = .next (s.setHost i { h with stopped := false }) ∧
      exec (.singleStep (Config.slots + host) lane) s = .next ((s.setHost i { h with stopped := false, stepping := true }).hostStep i) ∧
      exec (.debuggerStateWrite (Config.slots + host) lane .pc v) s = .next (s.setHost i { h with pc := v }) ∧
      ∀ n, 0 < n → n < 64 → exec (.debuggerStateWrite (Config.slots + host) lane (.d n) v) s = .next (s.setHost i { h with image := SMap.set 0 h.image n v })) ∧
    -- a step: it begins, and after the one instruction it ends
    (x.stepping = 1 → exec (.singleStep key lane) s = .next s) ∧
    (x.stepping = 0 → (x.cond = .runnable ∨ x.cond = .stopped .debugger ∨ x.cond = .stopped .trap) → (∀ K, x.wait ≠ .mask K) →
      ∃ t y, exec (.singleStep key lane) s = .next t ∧ t = { s with gangs := t.gangs } ∧ (t.gangAt key).lane lane = y ∧
        y = { x with cond := .runnable, stepping := 1, bundle := some lane, skipWatch := y.skipWatch, hit := y.hit } ∧
        ∀ j, j ≠ lane → ∃ b, (t.gangAt key).lane j = { (s.gangAt key).lane j with bundle := b } ∧
          (((s.gangAt key).lane j).cond = .runnable → b ≠ some lane)) ∧
    (x.stepping = 2 → x.wait ≠ .no → exec (.singleStep key lane) s = .next s) ∧
    (x.stepping = 2 → x.wait = .no → x.cond = .exited → becomes (.singleStep key lane) { x with stepping := 0 }) ∧
    (x.stepping = 2 → x.wait = .no → x.cond ≠ .exited → ∃ y, becomes (.singleStep key lane) y ∧
      y = { x with
        stepping := 0, cond := .stopped .debugger, bundle := none, trapCause := 0x31, trapPc := x.pc, trapAddr := y.trapAddr
        trapMask := BitVec.ofNat 32 (2 ^ lane), trapInfo := y.trapInfo, oplogValid := false, oplogEntry := 0, wait := y.wait, hit := false } ∧
      ((∀ K, x.cond ≠ .held K) → y.trapInfo = 0 ∧ y.wait = x.wait) ∧ ∀ K, x.cond = .held K → y.trapInfo = 1 ∧ y.wait = .mask K) ∧
    -- snapshots
    (∀ source, s.snapArmed = false ∨ (source = .pin ∧ s.snapPin = false) ∨ (source = .machineCheck ∧ s.snapMc = false) →
      exec (.snapshotTrigger source) s = .next s) ∧
    (∀ source, s.snapArmed = true → (source = .pin → s.snapPin = true) → (source = .machineCheck → s.snapMc = true) →
      ∃ t, exec (.snapshotTrigger source) s = .next t ∧ t = { s with snaps := t.snaps, snapArmed := false, snapCount := s.snapCount + 1 } ∧
        (∀ e ∈ t.snaps, e.gtime = word s.gtime ∧ (e.kind = 6 → e.world = s.worldOf e.unit)) ∧
        (∀ kind n u, (kind, n) ∈ [(1, Config.clusters), (2, Config.clusters), (6, Config.partitions), (7, Config.cores), (8, Config.dies),
            (9, Config.dies), (10, 1)] → u < n → ∃ e ∈ t.snaps, e.kind = kind ∧ e.unit = u) ∧
        ∀ e ∈ t.snaps, e.kind = 6 → ∀ g ∈ s.gangs, partOf g.key = e.unit → s.gangAt g.key = g → ∀ k, g.live.getLsbD k = true →
          (g.lane k).pc ∈ e.values ∧ (g.lane k).meet ∈ e.values ∧ word (g.lane k).tid ∈ e.values) ∧
    -- samples
    (∀ part,
      let issued := SMap.get 0 s.issues part
      let since := issued - SMap.get 0 s.sampled part
      let n := (s.die (part / 384)).sampleShift.toNat
      let may := s.cur.len ≠ 0 ∧ partOf s.cur.gang = part ∧ s.worldOf part = 0 ∧ (s.die (part / 384)).sampleBase ≠ 0 ∧ 2 ^ (n - 1) ≤ since ∧ since ≤ 2 ^ n
      (¬may → exec (.instructionSample part) s = .next s) ∧
      (may → ∃ r, exec (.instructionSample part) s = .next { s with samples := s.samples ++ [r], sampled := SMap.set 0 s.sampled part issued } ∧
        r.partition = part ∧ r.gang = s.cur.gang ∧ r.lanes = s.cur.lanes ∧ r.pc = s.cur.pc ∧ r.record.length = 64 ∧ r.record[0x33]? = some 0 ∧
        r.record.take 40 = leBytes 8 s.cur.fetched ++ leBytes 4 s.cur.name.1 ++ leBytes 4 s.cur.name.2.1 ++ leBytes 4 s.cur.name.2.2 ++
          leBytes 4 s.cur.lanes.toNat ++ leBytes 8 s.cur.pc.toNat ++ leBytes 8 s.cur.raw.toNat)) ∧
    (∀ part, (∀ r ∈ s.samples, r.partition ≠ part) → exec (.sampleRecordWrite part) s = .next s) ∧
    ∀ part r, (s.samples.find? fun r => r.partition == part) = some r →
      let d := s.die (part / 384)
      let rest := { s with samples := s.samples.erase r }
      -- an access of it in the operand log: it is not at its end
      let open' := ∃ e ∈ s.oplog, e.gang = r.gang ∧ e.pc = r.pc ∧ e.lanes &&& r.lanes ≠ 0
      (open' → exec (.sampleRecordWrite part) s = .next s) ∧
      (¬open' → d.sampleBase = 0 ∨ d.sampleSize.toNat < 64 ∨ s.worldOf part ≠ 0 → exec (.sampleRecordWrite part) s = .next rest) ∧
      (¬open' → d.sampleBase ≠ 0 → 64 ≤ d.sampleSize.toNat → s.worldOf part = 0 → exec (.sampleRecordWrite part) s = .next
        ((rest.hubWrite (d.sampleBase.toNat + d.sampleNext % d.sampleSize.toNat) (r.record.take 0x33 ++ leBytes 1 r.flags ++ r.record.drop 0x34)).onDie (part / 384) fun d =>
          { d with sampleNext := (d.sampleNext + 64) % d.sampleSize.toNat }))

/-- R280 to R287, R341, R342: a write of HEAPCOL begins a cycle; a cycle walks its range line by line, frees the condemned, leaves the pinned, copies
the others, rewrites their entries and notes their forwarding, and ends when its last line is done; the compaction of code rewrites every pc, MEET and
TRAPPC of its address space once no routine of it runs. That a write of HEAPCOL drops a cycle, that the engine waits for leases and the compaction of
code for saved gangs (assumption 40), and that a moved crossing walks again (assumption 41), is the model's choice. -/
def Obligations.Compaction : Prop :=
  ∀ (s : State) (asid : Nat),
    (∀ v : Word,
      ((s.heapOf asid).active = true → v.getLsbD 62 = true → exec (.heapcolWrite asid v) s = .next s) ∧
      (¬((s.heapOf asid).active = true ∧ v.getLsbD 62 = true) → exec (.heapcolWrite asid v) s = .next { s with
        heaps := { asid := asid, colour := v.getLsbD 63, active := v.getLsbD 62, desc := word (v.toNat % 2 ^ 48 / 64 * 64) } ::
          s.heaps.filter fun x => x.asid ≠ asid
        cycles := (s.cycles.filter fun x => x.asid ≠ asid) ++
          if v.getLsbD 62 = true then
            [{ asid := asid, xlate := s.xlateOf asid, begun := false, cursor := 0, range := 0, limit := 0, destNext := 0, moved := 0, moving := [] }]
          else [] })) ∧
    (s.cycleOf asid = none → exec (.compactionLineCopy asid) s = .next s ∧ exec (.compactionComplete asid) s = .next s) ∧
    (∀ c s1 bs, s.cycleOf asid = some c → s.engineRead c.xlate (s.heapOf asid).descAt 64 = .ok (s1, bs) →
      let w := fun i => leNat ((bs.drop i).take 8)
      let d : HeapDesc := { table := w 0, count := w 8, forward := w 0x10, first := w 0x20, last := w 0x28, dest := w 0x30 }
      let c1 := if c.begun = true then c else { c with begun := true, cursor := w 0x20, range := w 0x20, limit := w 0x28, destNext := w 0x30 }
      let done := c1.limit ≤ c1.cursor ∧ c1.moving = []
      (done → exec (.compactionLineCopy asid) s = .next (s1.setCycle c1)) ∧
      (¬done → exec (.compactionComplete asid) s = .next s1) ∧
      (∀ s2 s3, done → s1.engineWrite c1.xlate ((s.heapOf asid).descAt + 0x38) (leBytes 8 c1.cursor) = .ok s2 →
        s2.engineWrite c1.xlate ((s.heapOf asid).descAt + 0x18) (leBytes 8 c1.moved) = .ok s3 →
        exec (.compactionComplete asid) s = .next { s3 with
          cycles := s3.cycles.filter fun x => x.asid ≠ asid
          heaps := s3.heaps.map fun h => if h.asid = asid then { h with active := false } else h }) ∧
      ∀ s2 es s3 c2, ¬done → s1.readTable c1 d 1 (w 8 - 1) = .ok (s2, es) → s2.decideAll c1 (decidedIn c1 es) = .ok (s3, c2) →
        (s3.copyObjects c2 c2.moving = .ok none → exec (.compactionLineCopy asid) s = .next s) ∧
        ∀ s4 ms s5 c3, s3.copyObjects c2 c2.moving = .ok (some (s4, ms)) → s4.finishMoves { c2 with moving := [] } d ms = .ok (s5, c3) →
          exec (.compactionLineCopy asid) s = .next (s5.setCycle { c3 with cursor := c3.cursor + 128 })) ∧
    (∀ (c : Cycle) (d : HeapDesc) (es : List TableEntry),
      -- the objects that the line decides, ascending
      (∀ e, e ∈ decidedIn c es ↔ e ∈ es ∧ e.live = true ∧ c.cursor ≤ e.copy ∧ e.copy < c.cursor + 128 ∧ c.range ≤ e.copy ∧ e.copy < c.limit) ∧
      (decidedIn c es).Pairwise (fun a b => a.copy ≤ b.copy) ∧
      -- their fates
      (∀ e, e.condemned = true → ∀ s1, s.engineWrite c.xlate e.at' [BitVec.ofNat 8 (e.copy % 256)] = .ok s1 →
        s.decideAll c (e :: es) = s1.decideAll c es) ∧
      (∀ e, e.condemned = false → e.pins ≠ 0 → s.decideAll c (e :: es) = s.decideAll c es) ∧
      (∀ e, e.condemned = false → e.pins = 0 → s.decideAll c (e :: es) = s.decideAll
        { c with moving := c.moving ++ [(e.index, e.copy, c.destNext, e.size, [])], destNext := c.destNext + (e.size + 15) / 16 * 16 } es) ∧
      -- the bytes of one object in the line
      (∀ i old new size ls, old + size ≤ c.cursor ∨ c.cursor + 128 ≤ old → s.copyObject c (i, old, new, size, ls) = .ok (some (s, i, old, new, size, ls))) ∧
      (∀ i old new size ls s1 s2 src dst, old < c.cursor + 128 → c.cursor < old + size → 0 < size →
        let o := c.cursor - old
        let n := min (c.cursor + 128) (old + size) - max c.cursor old
        s.translateRange hubCore c.xlate (word (old + o)) .load true n = .ok (s1, src) →
        s1.translateRange hubCore c.xlate (word (new + o)) .store true n = .ok (s2, dst) →
        ((∃ pa ∈ dst, s2.leased (lineOf pa) = true) → s.copyObject c (i, old, new, size, ls) = .ok none) ∧
        ((∀ pa ∈ dst, s2.leased (lineOf pa) = false) → ∃ t,
          s.copyObject c (i, old, new, size, ls) = .ok (some (t, i, old, new, size, ls ++ [c.cursor / 128])) ∧
          let t1 := s2.writePas none 0 (s2.tag (lineOf (src.headD 0))) dst (src.map s2.peek)
          t = { t1 with poisonLines := t.poisonLines, stores := t.stores, atoms := t.atoms, redseqs := t.redseqs, rings := t.rings } ∧
            t.stores.map (fun x => { x with pa := 0 }) = t1.stores.map fun x => { x with pa := 0 })) ∧
      -- an object whose last line has been copied
      (∀ m ms, c.cursor + 128 < m.2.1 + m.2.2.2.1 → s.finishMoves c d (m :: ms) = s.finishMoves { c with moving := c.moving ++ [m] } d ms) ∧
      ∀ m ms s1 s2, m.2.1 + m.2.2.2.1 ≤ c.cursor + 128 →
        s.engineWrite c.xlate (word (d.table + 16 * m.1)) (leBytes 8 (m.2.2.1 + 1)) = .ok s1 →
        s1.engineWrite c.xlate (word (d.forward + 32 * c.moved)) (leBytes 8 m.1 ++ leBytes 8 m.2.1 ++ leBytes 8 m.2.2.1 ++ leBytes 8 0) = .ok s2 →
        s.finishMoves c d (m :: ms) = s2.finishMoves { c with moved := c.moved + 1 } d ms) ∧
    (let mine := fun (g : Gang) => asidOf g.xlate = s.hub.ccAsid.toNat
     let n := s.hub.ccCount.toNat
     let T := s.codeTable s.hub.ccTable.toNat n
     (s.badTable = true ↔ n = 0 ∨ 4096 < n ∨ s.hub.ccTable.toNat % 32 ≠ 0 ∨
        (∃ m ∈ T, m.old % 32 ≠ 0 ∨ m.new % 32 ≠ 0 ∨ m.len % 32 ≠ 0 ∨ m.zero ≠ 0) ∨
        ∃ k a b, T[k]? = some a ∧ T[k + 1]? = some b ∧ b.old < a.old + a.len) ∧
     (s.badTable = false → ∀ v : Word,
       (∀ m ∈ T, m.old ≤ v.toNat → v.toNat < m.old + m.len → forward T v = v - word m.old + word m.new) ∧
       ((∀ m ∈ T, v.toNat < m.old ∨ m.old + m.len ≤ v.toNat) → forward T v = v)) ∧
     ∀ v : Word,
      (s.hub.ccRunning = false → v.getLsbD 0 = false → exec (.codeCompaction v) s = .next s) ∧
      (s.hub.ccRunning = false → v.getLsbD 0 = true → s.badTable = true →
        exec (.codeCompaction v) s = .next { s with hub := { s.hub with ccRefused := true } }) ∧
      (s.hub.ccRunning = true ∨ (v.getLsbD 0 = true ∧ s.badTable = false) →
        ((∃ g ∈ s.gangs, mine g ∧ g.saving = true) → exec (.codeCompaction v) s = .next { s with
          gangs := s.gangs.map fun g => if asidOf g.xlate == s.hub.ccAsid.toNat && !g.saving then { g with parked := true } else g
          hub := { s.hub with ccRunning := true, ccRefused := false } }) ∧
        ((s.gangs.map fun g => g.key).Nodup → (∀ g ∈ s.gangs, mine g → g.saving = false ∧ g.request = none ∧ g.threads.length = 32) →
          ∃ t, exec (.codeCompaction v) s = .next t ∧ t.hub = { s.hub with ccRunning := false, ccRefused := false } ∧ t.icache = [] ∧
            (∀ key, s.resident key = true → ¬mine (s.gangAt key) → t.gangAt key = s.gangAt key) ∧
            (∀ key, s.resident key = true → mine (s.gangAt key) →
              t.gangAt key = { s.gangAt key with threads := (t.gangAt key).threads, parked := false } ∧
              ∀ k < 32, (t.gangAt key).lane k = { (s.gangAt key).lane k with
                pc := forward T ((s.gangAt key).lane k).pc, meet := forward T ((s.gangAt key).lane k).meet
                trapPc := forward T ((s.gangAt key).lane k).trapPc }) ∧
            t.crossings = s.crossings.map fun c =>
              if c.toDevice && asidOf c.xlate == s.hub.ccAsid.toNat then
                { c with target := forward T c.target, held := false, pte := if forward T c.target = c.target then c.pte else 0 }
              else c)))

/-- R76, R209, R280, R325, R349, R354, R356, R362 to R364, R366, R367, R376, R378 to R380, R384, R389, R393, R96: what a write of a control register
stores, and what the configuration measures of it; a way that is taken from a world seals that world's lines out (assumption 69); a partition's
clearing ends; the reset pin's release and the steps of boot. The offsets at which CONTROL_REGISTER_WRITE names a controller's page and a die's
registers are the model's own (assumption 26). The model's choice too are the ways and counters and the checks of boot (assumption 39), event 31
(assumption 44), the watchdog's least value (assumption 53), how sample_base and sample_size are rounded and sampling begins anew (assumption 37), the
platform (assumption 59), the host cores' state (assumption 66) and what a clearing drops (assumption 68). -/
def Obligations.ConfigurationAndBoot : Prop :=
  ∀ (s : State), s.memoryCanonical → SMap.wf 0 s.sec.ms = true → SMap.wf Die.reset s.dies = true → SMap.wf none s.seals = true →
    SMap.wf Ctrl.reset s.ctrls = true →
    -- a state as the change leaves it, with MS3 extended where a value that the configuration image covers changed
    let measured := fun (i : Instr) (u : State) =>
      let same := (∀ d < 4, (u.die d).funcMode = (s.die d).funcMode) ∧ u.leasectl = s.leasectl ∧
        (∀ n < 768, SMap.get 0 u.sec.l2wmap n = SMap.get 0 s.sec.l2wmap n) ∧ ∀ w, 1 ≤ w → w ≤ 64 → SMap.get 0 u.sec.allow w = SMap.get 0 s.sec.allow w
      (same → exec i s = .next u) ∧
      (¬same → ∃ t, exec i s = .next t ∧
        t = { u with sec := { u.sec with ms := t.sec.ms, images := s.sec.images ++ [u.configImage] } } ∧
        t.slot 3 = Config.sm3 (digestBytes (s.slot 3) ++ digestBytes (Config.sm3 u.configImage)) ∧ ∀ j, j ≠ 3 → t.slot j = s.slot j)
    (∀ v : Word, measured (.leasectlWrite v) { s with
      leaseNs := BitVec.ofNat 12 (max 50 (min 4000 (v.toNat % 4096))), marginNs := BitVec.ofNat 8 (max 4 (v.toNat / 65536 % 256)) }) ∧
    (∀ die (v : Word), measured (.funcmodeWrite die v) (s.onDie die fun d => { d with funcMode := BitVec.ofNat 8 v.toNat })) ∧
    (∀ world (v : BitVec 32), measured (.allowListChange world v) { s with sec := { s.sec with allow := SMap.set 0 s.sec.allow world v } }) ∧
    (∀ slice way (v : Byte),
      let old := (SMap.get 0 s.sec.l2wmap (16 * slice + way)).toNat
      let new : Byte := if way < 4 then 0 else v
      let taken := 1 ≤ old ∧ old ≤ 64 ∧ new.toNat ≠ old
      ∃ seals, measured (.l2wmapWrite slice way v)
          { s with seals := seals, sec := { s.sec with l2wmap := SMap.set 0 s.sec.l2wmap (16 * slice + way) new } } ∧
        ∀ line,
          let sealedOut := taken ∧ (line, old) ∈ s.lineWorld ∧ ownerOf (line * 128) = slice ∧ SMap.get none s.seals line = none
          (sealedOut → SMap.get none seals line = some { line := line, world := old, intact := true }) ∧
          (¬sealedOut → SMap.get none seals line = SMap.get none s.seals line)) ∧
    (∀ v : Word,
      let slot := v.toNat % 16
      let len := s.hub.msLen.toNat
      let refused := slot < 5 ∨ len = 0 ∨ 2 ^ 24 < len
      (v.getLsbD 63 = false → exec (.measureExtend v) s = .next s) ∧
      (v.getLsbD 63 = true → refused → exec (.measureExtend v) s = .next { s with hub := { s.hub with msRefused := true } }) ∧
      (v.getLsbD 63 = true → ¬refused →
        -- a line that cannot be read for system world is logged, and its bytes are undefined
        let pas := (List.range len).map (s.hub.msImage.toNat + ·)
        let u := s.logReads 0 0 (pas.map lineOf).dedup
        ∃ t bytes, exec (.measureExtend v) s = .next t ∧
          t = { u with hub := { u.hub with msRefused := false }, sec := { u.sec with ms := t.sec.ms } } ∧
          t.slot slot = Config.sm3 (digestBytes (s.slot slot) ++ digestBytes (Config.sm3 bytes)) ∧ (∀ j, j ≠ slot → t.slot j = s.slot j) ∧
          bytes.length = len ∧ (∀ j, j < len → s.poisoned 0 (s.hub.msImage.toNat + j) = false → bytes[j]? = some (s.peek (s.hub.msImage.toNat + j))) ∧
          ((∀ j, j < len → s.readError 0 (lineOf (s.hub.msImage.toNat + j)) = none) → u = s))) ∧
    (∀ (v : Word) off h, (off, h) ∈
        [(0x018, { s.hub with fqHead := v }), (0x040, { s.hub with regRing := v }), (0x060, { s.hub with ccAsid := BitVec.ofNat 16 v.toNat }),
         (0x068, { s.hub with ccTable := v }), (0x070, { s.hub with ccCount := v }), (0x080, { s.hub with hcAsid := BitVec.ofNat 16 v.toNat }),
         (0x0A0, { s.hub with msImage := v }), (0x0A8, { s.hub with msLen := v }),
         (0x120, { s.hub with viewSel := BitVec.ofNat 32 (v.toNat / 2 ^ 31 % 2 * 2 ^ 31 + v.toNat % 2 ^ 28) }),
         (0x010, s.hub), (0x050, s.hub), (0x098, s.hub), (0x0B8, s.hub)] →
      exec (.controlRegisterWrite off v) s = .next { s with hub := h }) ∧
    (∀ v : Word,
      exec (.controlRegisterWrite 0x000 v) s = exec (.fqSizeWrite false v) s ∧ exec (.controlRegisterWrite 0x008 v) s = exec (.fqSizeWrite true v) s ∧
      exec (.controlRegisterWrite 0x020 v) s = exec (.fqAnswer v) s ∧ exec (.controlRegisterWrite 0x078 v) s = exec (.codeCompaction v) s ∧
      exec (.controlRegisterWrite 0x088 v) s = exec (.heapcolWrite s.hub.hcAsid.toNat v) s) ∧
    (∀ (v : Word) d, d < 4 →
      let shift := v.toNat % 32
      -- the die's partitions begin to count anew
      let anew := fun (i : Instr) (u : State) => ∃ t, exec i s = .next t ∧ t = { u with sampled := t.sampled } ∧
        (SMap.wf 0 s.sampled = true → SMap.wf 0 s.issues = true → ∀ part, (part / 384 = d → t.sinceSample part = 0) ∧
          (part / 384 ≠ d → t.sinceSample part = s.sinceSample part))
      anew (.controlRegisterWrite (0x0C0 + 8 * d) v) (s.onDie d fun x =>
        { x with sampleShift := if 8 ≤ shift ∧ shift ≤ 20 then BitVec.ofNat 5 shift else 20 }) ∧
      anew (.controlRegisterWrite (0x0E0 + 8 * d) v) (s.onDie d fun x => { x with sampleBase := word (v.toNat / 4096 * 4096) }) ∧
      exec (.controlRegisterWrite (0x100 + 8 * d) v) s = .next (s.onDie d fun x => { x with sampleSize := word (v.toNat / 4096 * 4096) })) ∧
    (∀ (v : Word) port, port < Config.ports →
      let page := 0x1000 * (1 + port)
      exec (.controlRegisterWrite (page + 0x40) v) s = .next (s.onCtrl port fun c => { c with rseq := v }) ∧
      exec (.controlRegisterWrite (page + 0x48) v) s = .next (s.onCtrl port fun c => { c with rword := v }) ∧
      (∀ j, j < 96 → SMap.wf 0 (s.ctrl port).payload = true → ∃ t, exec (.controlRegisterWrite (page + 0x100 + 8 * j) v) s = .next t ∧
        t = { s with ctrls := t.ctrls } ∧ (∀ p, p ≠ port → t.ctrl p = s.ctrl p) ∧
        t.ctrl port = { s.ctrl port with payload := (t.ctrl port).payload } ∧
        ∀ n, SMap.get 0 (t.ctrl port).payload n =
          if 8 * j ≤ n ∧ n < 8 * j + 8 then BitVec.ofNat 8 (v.toNat / 256 ^ (n - 8 * j)) else SMap.get 0 (s.ctrl port).payload n) ∧
      ∀ k, k < 48 →
        let i := Instr.controlRegisterWrite (page + 0x400 + 64 * k + 8) v
        (v = 1 → exec i s = exec (.tdiLock port k) s) ∧ (v = 2 → exec i s = exec (.tdiStart port k) s) ∧ (v = 3 → exec i s = exec (.tdiStop port k) s) ∧
        (v ≠ 1 → v ≠ 2 → v ≠ 3 → exec i s = .next s)) ∧
    (∀ (v : Word) d n, d < 4 → n < 0x100 →
      let i := Instr.controlRegisterWrite (0x10000 + 0x100 * d + n) v
      (Csr.ofNumber n = some .funcmode → exec i s = exec (.funcmodeWrite d v) s) ∧ (Csr.ofNumber n = some .leasectl → exec i s = exec (.leasectlWrite v) s) ∧
      (Csr.ofNumber n = some .enbudget → exec i s = .next (s.onDie d fun x =>
        { x with enBudget := v, enUsed := s.enUsed d, issueStopped := s.issueStopped d, enWindow := s.gtime / 1000000 })) ∧
      (Csr.ofNumber n = some .snapctl → exec i s = .next { s with
        snapArmed := v.getLsbD 0, snapUser := v.getLsbD 1, snapPin := v.getLsbD 2, snapMc := v.getLsbD 3 }) ∧
      (Csr.ofNumber n = some .preemptctl → v.getLsbD 16 = false → exec i s = .next (s.onDie d fun x =>
        { x with preemptLaunch := BitVec.ofNat 32 (v.toNat / 2 ^ 32), watchdogUs := BitVec.ofNat 16 (max 1 (v.toNat % 65536)) }))) ∧
    -- counters
    (∀ (counter : BitVec 16) requester,
      let n := counter.toNat
      let w := if n / 256 % 64 = 63 then 0 else s.worldOf (8 * (48 * (n / 16384) + n / 256 % 64) + n / 32 % 8)
      let allowed := w = 0 ∨ (SMap.get 0 s.sec.allow w).getLsbD (n % 32) = true
      let part := 8 * (48 * (n / 16384) + n / 256 % 64) + n / 32 % 8
      let value := s.counterValue counter
      -- event 31 of a partition: what has been charged on its die to the launch of its lowest slot
      (n % 32 ≠ 31 ∨ n / 256 % 64 = 63 → value = Config.counter counter s.freeCtr) ∧
      (n % 32 = 31 → n / 256 % 64 ≠ 63 → ((∀ g ∈ s.gangs, partOf g.key ≠ part) → value = 0) ∧
        ∀ key l, s.resident key = true → partOf key = part → (∀ g ∈ s.gangs, partOf g.key = part → key ≤ g.key) →
          s.launchOf (s.gangAt key).launch = some l → value = word (SMap.get 0 l.charged (n / 16384))) ∧
      (allowed → exec (.counterRead counter requester) s = .next { s with
        sec := { s.sec with sent := s.sec.sent ++ [(requester, leBytes 8 value.toNat)] } }) ∧
      (¬allowed → ∃ t, exec (.counterRead counter requester) s = .next t ∧
        t = { s with sec := { s.sec with audit := t.sec.audit, sent := s.sec.sent ++ [(requester, leBytes 8 0)] } } ∧
        (t.auditLog w).appended = (s.auditLog w).appended + 1 ∧ (∀ w', w' ≠ w → t.auditLog w' = s.auditLog w') ∧
        (t.auditLog w).entries.getLast? = some
          { gtime := word s.gtime, kind := 0x20, b9 := BitVec.ofNat 8 requester, b10 := BitVec.ofNat 8 n, b11 := BitVec.ofNat 8 (n / 256), address := 0 })) ∧
    -- the end of a clearing
    let finish := fun (u : State) => (List.range Config.ports).foldl State.finishStops u
    (∀ part, (∀ c ∈ s.clearing, c.partition ≠ part) → exec (.clearingDone part) s = .next (finish s)) ∧
    (∀ part c, (s.clearing.find? fun c => c.partition == part) = some c → SMap.wf 0 s.worlds = true →
      SMap.wf Array8.reset s.arrays = true → (∀ g ∈ s.gangs, g.threads.length = 32) →
      ∃ u : State, exec (.clearingDone part) s = .next (finish u) ∧
        -- what is on its way to the partition's registers is lost, a returning atomic's reply alone
        u.loads = (s.loads.filter fun l => partOf l.gang ≠ part) ∧
        u.atoms = (s.atoms.map fun a => if partOf a.gang = part then { a with dst := none } else a) ∧
        u = { s with loads := u.loads, atoms := u.atoms, gangs := u.gangs, arrays := u.arrays, oplog := s.oplog.filter fun e => e.partition ≠ part, worlds := u.worlds
                     clearing := s.clearing.filter (fun c => c.partition ≠ part), dirtyRows := SMap.set 0 s.dirtyRows part 0 } ∧
        (∀ p, u.worldOf p = if p = part then c.world else s.worldOf p) ∧ (∀ p, u.array p = if p = part then Array8.reset else s.array p) ∧
        (∀ key k, s.resident key = true → partOf key = part → k < 32 → (u.gangAt key).g = [] ∧ ((u.gangAt key).lane k).d = [] ∧
          ((u.gangAt key).lane k).windows = []) ∧
        ∀ key k mask, s.resident key = true → partOf key ≠ part → coreOf key = part / 8 → (s.gangAt key).live.getLsbD k = true →
          ((s.gangAt key).lane k).wait = .clear mask →
          (u.gangAt key).lane k =
            if (clearParts (part / 8) mask).any u.partClearing = true then (s.gangAt key).lane k else ((s.gangAt key).lane k).release) ∧
    -- boot
    (s.released = true → exec .resetRelease s = .next s) ∧
    (s.released = false → exec .resetRelease s = .next { s with released := true, gtime := 0, bootStep := 1 }) ∧
    (∀ ok, s.released = false ∨ s.bootFailed = true ∨ 9 ≤ s.bootStep → exec (.bootStep ok) s = .next s) ∧
    (s.released = true → s.bootFailed = false →
      -- a measured step: its slot, and what of the image it extended
      let extended := fun (ok : Bool) (slot : Nat) (image : List Byte) (u : State) => ∃ t, exec (.bootStep ok) s = .next t ∧
        t = { u with sec := { u.sec with ms := t.sec.ms } } ∧
        t.slot slot = Config.sm3 (digestBytes (s.slot slot) ++ digestBytes (Config.sm3 image)) ∧ ∀ j, j ≠ slot → t.slot j = s.slot j
      (∀ n slot, (n, slot) ∈ [(2, 0), (3, 1), (5, 2)] → s.bootStep + 1 = n →
        extended true slot (Config.firmware slot) { s with bootStep := n } ∧ extended false slot (Config.firmware slot) { s with bootFailed := true }) ∧
      (∀ ok, s.bootStep = 3 → exec (.bootStep ok) s = .next { s with bootStep := 4 }) ∧
      (∀ ok, s.bootStep = 8 → ∃ t, exec (.bootStep ok) s = .next t ∧
        t = { s with
          bootStep := 9, hostThreads := t.hostThreads, hostCores := t.hostCores
          platform := { control := Config.controlPage, windows := Config.windowPages, pool := Config.poolMemory, remote := Config.remoteMemory } } ∧
        t.hostThreads.length = Config.hosts ∧ ∀ h, h < Config.hosts → ∃ x, t.hostThreads[h]? = some x ∧ x.host = h ∧ x.away = false ∧
          x.registered = false ∧ x.mode = .machine ∧ x.pc = Config.firmwareEntry ∧
          SMap.get HostCore.reset t.hostCores h = { HostCore.reset with running := some (x.launch, x.block, x.tid) }) ∧
      (∀ ok, s.bootStep = 5 → ∃ t, exec (.bootStep ok) s = .next t ∧ t = { s with bootStep := 6, worlds := [], arrays := [], clearing := [], dies := t.dies } ∧
        ∀ d < 4, t.die d = { s.die d with refreshValid := true, refreshLen := 350, refreshPeriod := 7800, nextStart := (t.die d).nextStart } ∧
          s.gtime < (t.die d).nextStart ∧ (t.die d).nextStart ≤ s.gtime + 7800) ∧
      (∀ ok, s.bootStep = 6 → ∃ u : State, extended ok 3 u.configImage { u with
          sec := { u.sec with images := s.sec.images ++ [u.configImage] }, bootStep := 7 } ∧
        u = { s with sec := { s.sec with l2wmap := [] }, leaseNs := 400, marginNs := 6, dies := u.dies } ∧
        ∀ d < 4, u.die d = { s.die d with funcMode := 0xFF }) ∧
      ∀ ok, s.bootStep = 7 → extended ok 4 (Config.firmware 4) { s with bootStep := 8 })

/-- R365 to R371: a port's interface controller answers a TDISP request itself or posts it to the service, one at a time; a lock takes the snapshot
and a nonce, a start lets the interface run, a stop ends the launches on the bound partitions and clears them; a write of a frozen item of an
interface that is not unlocked is completed with Unsupported Request, logged and puts the interface in ERROR. The payloads of the version and
capability answers are presumed (assumption 24). That tdisp_svc is that of die 0, that a binding is fixed and that TDISP_ANSWER is the controller's
acquire is the model's choice (assumption 38). -/
def Obligations.DeviceInterfaces : Prop :=
  ∀ (s : State) (port tdi : Nat), SMap.wf Ctrl.reset s.ctrls = true → SMap.wf Tdi.reset (s.ctrl port).tdis = true →
    let c := s.ctrl port
    let x := c.tdiAt tdi
    -- a host's requests and writes reach a controller once the ports are up; one that applies a stop applies nothing else meanwhile
    let up := s.bootFailed = false ∧ 8 ≤ s.bootStep
    let busy := ∃ j, (c.tdiAt j).stopping = true
    let controller := fun (i : Instr) (c' : Ctrl) => exec i s = .next { s with ctrls := SMap.set Ctrl.reset s.ctrls port c' }
    let tells := fun (i : Instr) (code : Byte) (err : BitVec 32) (payload : List Byte) =>
      controller i { c with sent := c.sent ++ [(code, tdi, err, payload)] }
    let posts := fun (i : Instr) (code : Byte) (f : Ctrl → Ctrl) => controller i (f { c with
      seq := c.seq + 1, tdi := tdi, code := code, checks := 0, lockFlags := 0, mmioOffset := 0, evAddr := 0, posted := true })
    let binding := (Config.binding port tdi).toNat
    let parts := ((List.range 8).filter fun j => binding.testBit (16 + j)).map fun j => 8 * (48 * (binding % 256) + binding / 256 % 256) + j
    -- interface tdi moves to another state, with its entry in the audit log of the bound world
    let moved := fun (t : State) (y : Tdi) (kind : Byte) (address : Word) =>
      (t.ctrl port).tdiAt tdi = y ∧ (∀ j, j ≠ tdi → (t.ctrl port).tdiAt j = c.tdiAt j) ∧ (∀ p, p ≠ port → t.ctrl p = s.ctrl p) ∧
      (t.auditLog (binding / 2 ^ 24)).entries.getLast? = some
        { gtime := word s.gtime, kind := kind, b9 := BitVec.ofNat 8 tdi, b10 := x.state.byte, b11 := y.state.byte, address := address }
    (¬up → ∀ flags offset a b nonce code item value i,
      i ∈ [Instr.getTdispVersion port tdi, .getTdispCapabilities port tdi, .getDeviceInterfaceState port tdi, .lockInterfaceRequest port tdi flags offset,
        .getDeviceInterfaceReport port tdi a b, .startInterfaceRequest port tdi nonce, .stopInterfaceRequest port tdi,
        .unsupportedTdispRequest port tdi code, .frozenItemWrite port tdi item offset value] → exec i s = .next s) ∧
    (up → 48 ≤ tdi → ∀ flags offset a b nonce i,
      i ∈ [Instr.getTdispVersion port tdi, .getTdispCapabilities port tdi, .getDeviceInterfaceState port tdi, .lockInterfaceRequest port tdi flags offset,
        .getDeviceInterfaceReport port tdi a b, .startInterfaceRequest port tdi nonce, .stopInterfaceRequest port tdi] → tells i 0x7F 0x101 []) ∧
    (up → ∀ code, tells (.unsupportedTdispRequest port tdi code) 0x7F 7 []) ∧
    (tdi < 48 →
      (up → tells (.getTdispVersion port tdi) 0x01 0 [1, 0x10] ∧ tells (.getTdispCapabilities port tdi) 0x02 0 Config.tdispCaps ∧
      tells (.getDeviceInterfaceState port tdi) 0x05 0 [match x.state with | .unlocked => 0 | .locked => 1 | .run => 2 | .error => 3] ∧
      (∀ flags offset a b nonce,
        (c.posted = true → tells (.lockInterfaceRequest port tdi flags offset) 0x7F 3 [] ∧ tells (.getDeviceInterfaceReport port tdi a b) 0x7F 3 [] ∧
          tells (.startInterfaceRequest port tdi nonce) 0x7F 3 []) ∧
        (c.posted = false →
          posts (.lockInterfaceRequest port tdi flags offset) 0x83 (fun d => { d with lockFlags := flags, mmioOffset := offset }) ∧
          posts (.getDeviceInterfaceReport port tdi a b) 0x84 (fun d => { d with reportOffset := a, reportLength := b }) ∧
          posts (.startInterfaceRequest port tdi nonce) 0x86 (fun d => { d with checks := if nonce = x.nonce then 1 else 0 }))) ∧
      (x.state = .unlocked → tells (.stopInterfaceRequest port tdi) 0x7F 4 [])) ∧
      -- the commands
      (x.state ≠ .unlocked ∨ busy → exec (.tdiLock port tdi) s = .next s) ∧
      (x.state = .unlocked → ¬busy → ∃ t y, exec (.tdiLock port tdi) s = .next t ∧ moved t y 0x10 0 ∧
        t = { s with ctrls := t.ctrls, freeCtr := s.freeCtr + 1, sec := { s.sec with audit := t.sec.audit } } ∧
        y = { x with state := .locked, snapshot := y.snapshot, nonce := y.nonce, offset := c.mmioOffset } ∧
        y.nonce.length = 32 ∧ y.snapshot = leBytes 8 (c.barAt port tdi 0).toNat ++ leBytes 8 (c.barAt port tdi 1).toNat ++ leBytes 2 x.vfCommand.toNat ++
          leBytes 2 x.msixControl.toNat ++ leBytes 4 binding) ∧
      (x.state ≠ .locked ∨ busy → exec (.tdiStart port tdi) s = .next s) ∧
      (x.state = .locked → ¬busy → ∃ t, exec (.tdiStart port tdi) s = .next t ∧ moved t { x with state := .run } 0x10 0 ∧
        t = { s with ctrls := t.ctrls, sec := { s.sec with audit := t.sec.audit } }) ∧
      (x.state = .unlocked → exec (.tdiStop port tdi) s = .next s) ∧
      (∀ i answer, (i, answer) ∈ [(Instr.tdiStop port tdi, 0), (.stopInterfaceRequest port tdi, 1)] → (answer = 1 → up) → x.state ≠ .unlocked →
        (x.stopping = true → ∃ t, exec i s = .next t ∧ t = { s with ctrls := t.ctrls } ∧
          (t.ctrl port).tdiAt tdi = { x with stopAnswer := x.stopAnswer + answer }) ∧
        -- while another interface's stop is applied, a request waits
        (x.stopping = false → busy → answer = 0 → exec i s = .next s) ∧
        (x.stopping = false → busy → answer = 1 → controller i { c with waiting := c.waiting ++ [.stop tdi] }) ∧
        (¬busy → parts ≠ [] → ∃ t, exec i s = .next t ∧ (t.ctrl port).tdiAt tdi = { x with stopping := true, stopAnswer := answer } ∧
          (∀ g ∈ t.gangs, (∃ l ∈ s.launches, l.num = g.launch) → partOf g.key ∉ parts) ∧ ∀ p ∈ parts, ∃ e ∈ t.clearing, e.partition = p ∧ e.world = 0) ∧
        (¬busy → parts = [] → ∃ t y, exec i s = .next t ∧ moved t y 0x10 0 ∧
          y = { x with state := .unlocked, snapshot := [], stopping := false, stopAnswer := 0 } ∧
          (t.ctrl port).sent = c.sent ++ if answer = 1 then [(0x07, tdi, 0, [])] else [])) ∧
      -- every stop request that waited is answered when the last clearing has ended
      (∀ p, x.stopping = true → (parts.any s.partClearing) = false → (∀ e ∈ s.clearing, e.partition ≠ p) → port < Config.ports →
        (∀ q j, (q, j) ≠ (port, tdi) → ((s.ctrl q).tdiAt j).stopping = false) → (∀ q, (s.ctrl q).waiting = []) →
        ∃ t, exec (.clearingDone p) s = .next t ∧ t = { s with ctrls := t.ctrls, sec := { s.sec with audit := t.sec.audit } } ∧
          moved t { x with state := .unlocked, snapshot := [], stopping := false, stopAnswer := 0 } 0x10 0 ∧
          (t.ctrl port).sent = c.sent ++ List.replicate x.stopAnswer (0x07, tdi, 0, [])) ∧
      -- what waited is applied in its order, up to the next stop that takes time
      (∀ ws, (busy → ∀ w, State.drainPort port (w :: ws) s = s.onCtrl port fun c => { c with waiting := w :: ws }) ∧
        (∀ item address value, ¬busy → up → ∃ t, exec (.frozenItemWrite port tdi item address value) s = .next t ∧
          State.drainPort port (.write tdi item address value :: ws) s = State.drainPort port ws t) ∧
        (¬busy → up → x.state ≠ .unlocked → ∃ t, exec (.stopInterfaceRequest port tdi) s = .next t ∧
          State.drainPort port (.stop tdi :: ws) s = State.drainPort port ws t) ∧
        (¬busy → x.state = .unlocked →
          State.drainPort port (.stop tdi :: ws) s = State.drainPort port ws (s.onCtrl port fun c => { c with sent := c.sent ++ [(0x07, tdi, 0, [])] }))) ∧
      -- writes of an interface's own items
      (∀ item address value, up → busy → controller (.frozenItemWrite port tdi item address value)
        { c with waiting := c.waiting ++ [.write tdi item address value] }) ∧
      (∀ item address value, up → ¬busy → item ∈ [Frozen.vfCommand, .msixControl, .msixTable] →
        let a := if item = .msixTable then c.barAt port tdi 1 + word (address.toNat % 4096)
          else word (2 ^ 63 + (Config.vfRouting port tdi).toNat * 2 ^ 16 + if item = .vfCommand then 0x04 else 0xB2)
        (x.state = .unlocked → ∃ y, controller (.frozenItemWrite port tdi item address value)
            { c with tdis := SMap.set Tdi.reset c.tdis tdi y, completed := c.completed ++ [(a, true)] } ∧
          y = { x with vfCommand := y.vfCommand, msixControl := y.msixControl, msixTable := y.msixTable } ∧
          y.vfCommand = (if item = .vfCommand then BitVec.ofNat 16 value.toNat else x.vfCommand) ∧
          y.msixControl = (if item = .msixControl then BitVec.ofNat 16 value.toNat else x.msixControl) ∧
          y.msixTable = (if item = .msixTable then SMap.set 0 x.msixTable (address.toNat % 4096) value else x.msixTable)) ∧
        (x.state = .error → ∃ t, exec (.frozenItemWrite port tdi item address value) s = .next t ∧
          t = { s with vlogs := t.vlogs, ctrls := SMap.set Ctrl.reset s.ctrls port { c with completed := c.completed ++ [(a, false)] } } ∧
          ∃ l e, l ∈ t.vlogs ∧ l.owner = .tdisp port ∧ e ∈ l.entries ∧ e.kind = 0x05 ∧ e.address = a) ∧
        (x.state = .locked ∨ x.state = .run → ∃ t, exec (.frozenItemWrite port tdi item address value) s = .next t ∧
          t = { s with ctrls := t.ctrls, vlogs := t.vlogs, sec := { s.sec with audit := t.sec.audit } } ∧ moved t { x with state := .error } 0x11 a ∧
          (t.ctrl port).events = c.events ++ [(tdi, a)] ∧ (t.ctrl port).completed = c.completed ++ [(a, false)] ∧
          ∃ l e, l ∈ t.vlogs ∧ l.owner = .tdisp port ∧ e ∈ l.entries ∧ e.kind = 0x05 ∧ e.address = a))) ∧
    -- registers of a physical function
    (∀ item n off address (value : Word), (item, n, off) ∈ [(Frozen.bar01, 0, 0x184), (.bar23, 1, 0x18C), (.sriovControl, 2, 0x168), (.numVFs, 3, 0x170),
        (.pageSize, 4, 0x17C)] → up → ¬busy →
      -- of a BAR pair the second register, where the write names it
      let high := n < 2 ∧ address.toNat % 4096 = off + 4
      let a := word (2 ^ 63 + (Config.pfRouting port (Config.pfOf port tdi)).toNat * 2 ^ 16 + if high then off + 4 else off)
      let old := (SMap.get 0 c.pfRegs (8 * Config.pfOf port tdi + n)).toNat
      let low := value.toNat % 2 ^ 32
      let stored := word (if high then low * 2 ^ 32 + old % 2 ^ 32 else if n < 2 then old / 2 ^ 32 * 2 ^ 32 + low else if n = 4 then low else low % 2 ^ 16)
      let frozen := fun (j : Nat) => j < 48 ∧ Config.pfOf port j = Config.pfOf port tdi ∧ (c.tdiAt j).state ≠ .unlocked
      ((∀ j, ¬frozen j) → controller (.frozenItemWrite port tdi item address value)
        { c with pfRegs := SMap.set 0 c.pfRegs (8 * Config.pfOf port tdi + n) stored, completed := c.completed ++ [(a, true)] }) ∧
      ((∃ j, frozen j) → ∃ t, exec (.frozenItemWrite port tdi item address value) s = .next t ∧ (t.ctrl port).pfRegs = c.pfRegs ∧
        (t.ctrl port).completed = c.completed ++ [(a, false)] ∧
        ∀ j, (t.ctrl port).tdiAt j = { c.tdiAt j with state := (t.ctrl port |>.tdiAt j).state } ∧
          (frozen j → ((t.ctrl port).tdiAt j).state = .error) ∧ (¬frozen j → ((t.ctrl port).tdiAt j).state = (c.tdiAt j).state))) ∧
    -- events and answers
    (c.events = [] ∨ c.posted = true → controller (.tdispEventPost port) c) ∧
    (∀ k a es, c.events = (k, a) :: es → c.posted = false → controller (.tdispEventPost port) { c with
      seq := c.seq + 1, tdi := k, code := 0xE0, checks := 0, lockFlags := 0, mmioOffset := 0, evAddr := a, posted := true, events := es }) ∧
    (c.posted = false → exec (.tdispAnswer port) s = .next s) ∧
    (s.funcBit 0 7 = false → c.rseq ≠ c.seq → exec (.tdispAnswer port) s = .next s) ∧
    (c.posted = true → c.code = 0xE0 → s.funcBit 0 7 = true ∨ c.rseq = c.seq →
      controller (.tdispAnswer port) { c with rseq := c.seq, posted := false }) ∧
    (c.posted = true → c.code ≠ 0xE0 → s.funcBit 0 7 = false → c.rseq = c.seq →
      let code := BitVec.ofNat 8 (c.rword.toNat % 256)
      let payload := (List.range (c.rword.toNat / 2 ^ 16 % 2 ^ 16)).map fun j => SMap.get 0 c.payload j
      controller (.tdispAnswer port) { c with rseq := c.seq, posted := false, sent := c.sent ++
        [(code, c.tdi, BitVec.ofNat 32 (c.rword.toNat / 2 ^ 32),
          if code = 0x03 then payload ++ (c.tdiAt c.tdi).nonce else if code = 0x04 then (payload.drop c.reportOffset).take c.reportLength
          else payload)] }) ∧
    (c.posted = true → s.funcBit 0 7 = true → c.tdi = tdi →
      -- the service's answer, after its command if any
      let answers := fun (u : State) (code : Byte) (err : BitVec 32) (payload : List Byte) => ∃ t, exec (.tdispAnswer port) s = .next t ∧
        t = { u with ctrls := t.ctrls } ∧
        t.ctrl port = { u.ctrl port with
          rword := (t.ctrl port).rword, payload := (t.ctrl port).payload, rseq := c.seq, posted := false
          sent := c.sent ++ [(code, tdi, err, payload)] }
      (c.code = 0x83 →
        (x.state ≠ .unlocked → answers s 0x7F 4 []) ∧
        (x.state = .unlocked → c.lockFlags.getLsbD 3 = true → answers s 0x7F 7 []) ∧
        (x.state = .unlocked → c.lockFlags.getLsbD 3 = false → busy → exec (.tdispAnswer port) s = .next s) ∧
        ∀ u, x.state = .unlocked → ¬busy → c.lockFlags.getLsbD 3 = false → exec (.tdiLock port tdi) s = .next u →
          answers u 0x03 0 ((u.ctrl port).tdiAt tdi).nonce) ∧
      (c.code = 0x84 →
        (x.state = .unlocked ∨ x.state = .error → answers s 0x7F 4 []) ∧
        (x.state = .locked ∨ x.state = .run → answers s 0x04 0 ((x.report.drop c.reportOffset).take c.reportLength))) ∧
      (c.code = 0x86 →
        (x.state ≠ .locked → answers s 0x7F 4 []) ∧
        (x.state = .locked → c.checks.getLsbD 0 = false → answers s 0x7F 0x102 []) ∧
        (x.state = .locked → c.checks.getLsbD 0 = true → busy → exec (.tdispAnswer port) s = .next s) ∧
        ∀ u, x.state = .locked → ¬busy → c.checks.getLsbD 0 = true → exec (.tdiStart port tdi) s = .next u → answers u 0x06 0 [])) ∧
    (x.snapshot.length = 24 → x.report.length = 60 ∧
      (x.report.drop 16).take 8 = leBytes 8 ((word (leNat (x.snapshot.take 8)) + x.offset).toNat / 4096) ∧
      (x.report.drop 32).take 8 = leBytes 8 ((word (leNat ((x.snapshot.drop 8).take 8)) + x.offset).toNat / 4096) ∧
      (x.report.drop 52).take 4 = (x.snapshot.drop 20))

/-- R381 to R385, R393: the security core answers the SPDM requests it supports and refuses the others, a measurement being a slot, the configuration
images with MS3, or the audit log of a world; an exported world's record is kept 50 ms for its confirmation, sent once more at most, and its keys are
gone. How a request numbers its measurement is presumed (assumption 24). On which transport records and answers are sent, the form of a late answer
and the discard at HANDOVER_TIMEOUT are the model's choice (assumption 39). -/
def Obligations.AttestationAndHandover : Prop :=
  ∀ (s : State),
    let sends := fun (sec : Security) (transport : Nat) (bs : List Byte) => { s with sec := { sec with sent := s.sec.sent ++ [(transport, bs)] } }
    let measure := fun (n : Nat) =>
      if 1 ≤ n ∧ n ≤ 16 then digestBytes (s.slot (n - 1)) ++ (if n = 4 then s.sec.images.flatten else [])
      else if 0x40 ≤ n ∧ n ≤ 0x7F then
        let l := s.auditLog (n - 0x3F)
        leBytes 8 l.appended ++ leBytes 8 (l.appended - l.entries.length) ++ l.entries.flatMap fun a =>
          leBytes 8 a.gtime.toNat ++ [a.kind, a.b9, a.b10, a.b11] ++ leBytes 4 0 ++ leBytes 8 a.address.toNat ++ leBytes 8 0
      else []
    (∀ transport payload i code always body before,
      let m := measure (payload.getD 1 0).toNat
      let here := fun (u : Nat) => decide (u ≠ transport)
      (i, code, always, body, before) ∈
        [(Instr.getCapabilities transport payload, 0xE1, true, [], s.sec), (.negotiateAlgorithms transport payload, 0xE3, false, [], s.sec),
         (.getDigests transport payload, 0x81, false, [], s.sec), (.getCertificate transport payload, 0x82, false, [], s.sec),
         (.challenge transport payload, 0x83, false, signature payload, s.sec), (.getMeasurements transport payload, 0xE0, true, m ++ signature m, s.sec),
         (.keyExchange transport payload, 0xE4, false, [], s.sec), (.heartbeat transport payload, 0xE8, false, [], s.sec),
         (.keyUpdate transport payload, 0xE9, false, [], s.sec), (.vendorDefinedRequest transport payload, 0xFE, false, [], s.sec),
         (.finish transport payload, 0xE5, false, [], { s.sec with sessions := s.sec.sessions.filter here ++ [transport] }),
         (.endSession transport payload, 0xEC, false, [], { s.sec with sessions := s.sec.sessions.filter here }),
         (.getVersion transport payload, 0x84, true, [], { s.sec with negotiated := s.sec.negotiated.filter fun e => here e.1 })] →
      let answers := if s.bootFailed = true then always = true else 8 ≤ s.bootStep
      (¬answers → exec i s = .next s) ∧
      (answers → exec i s = .next
        (sends { before with negotiated := before.negotiated ++ [(transport, code)] } transport (Config.spdmAnswer code payload s.slots ++ body)))) ∧
    (∀ transport payload,
      (s.bootFailed = true ∨ s.bootStep < 8 → exec (.unsupportedSpdmRequest transport payload) s = .next s) ∧
      (s.bootFailed = false → 8 ≤ s.bootStep → exec (.unsupportedSpdmRequest transport payload) s =
        .next (sends s.sec transport [0x13, 0x7F, 0x07, payload.getD 0 0]))) ∧
    -- handovers
    (∀ world destination,
      (world ∈ s.sec.keysGone ∨ (∃ h ∈ s.sec.handovers, h.1 = world) → exec (.worldExport world destination) s = .next s) ∧
      (¬(world ∈ s.sec.keysGone ∨ ∃ h ∈ s.sec.handovers, h.1 = world) → ∃ t record, exec (.worldExport world destination) s = .next t ∧
        t = { s with
          clearing := t.clearing
          sec := { s.sec with
            handovers := s.sec.handovers ++ [(world, word s.gtime, 0, s.gtime + 50000000, record)], keysGone := s.sec.keysGone ++ [world]
            sent := s.sec.sent ++ [(16, record)] } } ∧
        record.length = 320 ∧ record.take 16 = leBytes 4 1 ++ leBytes 1 world ++ leBytes 3 0 ++ leBytes 8 s.gtime ∧
        (record.drop 16).take 64 = digestBytes Config.deviceCert ++ digestBytes destination ∧
        (record.drop 208).take 32 = digestBytes (Config.sm3 ((s.slots.take 4).flatMap digestBytes)) ∧ record.drop 256 = signature (record.take 256) ∧
        -- every partition of the world is cleared, and a standing assignment of it stands
        ∀ p < 1536, s.worldOf p = world → ∃ c ∈ t.clearing, c.partition = p ∧
          c.world = match s.clearing.find? (fun c => c.partition == p) with | some old => old.world | none => world)) ∧
    (∀ world created,
      let record := s.sec.handovers.find? fun h => h.1 == world && h.2.1 == created
      -- the error answer to a confirmation names the handle
      let refuses := fun (i : Instr) (code : Byte) (handle : List Byte) => exec i s = .next (sends s.sec 16 ([0x13, 0x7F, code, 0] ++ handle))
      let handle := leBytes 1 world ++ leBytes 8 created.toNat
      (record = none → refuses (.handoverConfirm world created) 0x01 handle ∧ refuses (.handoverRetry world created) 0x03 []) ∧
      ∀ attempts deadline bs, record = some (world, created, attempts, deadline, bs) →
        (deadline ≠ 0 → s.gtime ≤ deadline → exec (.handoverConfirm world created) s = .next { s with
          sec := { s.sec with handovers := s.sec.handovers.erase (world, created, attempts, deadline, bs) } }) ∧
        (deadline = 0 ∨ deadline < s.gtime → refuses (.handoverConfirm world created) 0x01 handle) ∧
        -- a first attempt's 50 ms are over, whether or not HANDOVER_TIMEOUT has run
        (attempts = 0 → deadline = 0 ∨ deadline < s.gtime → exec (.handoverRetry world created) s = .next (sends { s.sec with
          handovers := s.sec.handovers.erase (world, created, 0, deadline, bs) ++ [(world, created, 1, s.gtime + 50000000, bs.set 5 1)] } 16 (bs.set 5 1))) ∧
        (attempts ≠ 0 ∨ (deadline ≠ 0 ∧ s.gtime ≤ deadline) → refuses (.handoverRetry world created) 0x03 [])) ∧
    (∀ world,
      let standing := s.sec.handovers.find? fun h => h.1 == world && h.2.2.2.1 != 0
      (standing = none → exec (.handoverTimeout world) s = .next s) ∧
      ∀ created attempts deadline bs, standing = some (world, created, attempts, deadline, bs) →
        exec (.handoverTimeout world) s = .next { s with
          gtime := max s.gtime (deadline + 1)
          sec := { s.sec with
            handovers := s.sec.handovers.erase (world, created, attempts, deadline, bs) ++
              if attempts = 0 then [(world, created, 0, 0, bs)] else [] } }) ∧
    ∀ record,
      let world := (record.getD 4 0).toNat
      let ours := record.length = 320 ∧ 1 ≤ world ∧ world ≤ 64 ∧ (record.drop 48).take 32 = digestBytes Config.deviceCert ∧
        Config.sm2Verify ((record.take 256).set 5 0) (record.drop 256) = true
      -- the error answer to a late confirmation, which names a world whose keys were imported: they are discarded
      let late := fun (w : Nat) => w ∈ s.sec.imported ∧ record.length = 13 ∧ record.take 5 = [0x13, 0x7F, 0x01, 0, BitVec.ofNat 8 w]
      (¬ours → (∀ w, ¬late w) → exec (.handoverRecordArrival record) s = .next s) ∧
      (∀ w, late w → (∀ x ∈ s.sec.imported, x < 256) → exec (.handoverRecordArrival record) s = .next { s with
        sec := { s.sec with
          imported := s.sec.imported.filter fun x => decide (x ≠ w)
          keysGone := if w ∈ s.sec.keysGone then s.sec.keysGone else s.sec.keysGone ++ [w] } }) ∧
      (ours → ∃ t, exec (.handoverRecordArrival record) s = .next t ∧
        let handle := (record.drop 4).take 1 ++ (record.drop 8).take 8
        t = { s with
          sec := { s.sec with
            keysGone := s.sec.keysGone.filter fun w => decide (w ≠ world), imported := t.sec.imported
            sent := s.sec.sent ++ [(16, handle ++ signature handle)] } } ∧
        ∀ w, w ∈ t.sec.imported ↔ w = world ∨ w ∈ s.sec.imported)

/-! ### Encoding, reset, and the step -/

/-- The fields of an instruction with guard p7, no stall, and nothing else set: what the worked encodings start from. -/
def Sys2Proof.plainOps : Ops where
  guard := ⟨false, 7⟩
  stall := 0
  yld := false
  dst := 0
  a := 0
  b := 0
  c := 0
  clsD := false
  clsA := false
  clsB := false
  clsC := false
  ty := .i8
  opmod := 0
  ix := false
  sat := false
  rnd := .rne
  lo := false
  lit := none

/-- R21, R38, R40, R41: the encodings that the manual works through decode to the instructions they stand for. -/
def Obligations.WorkedEncodingsDecode : Prop :=
  decodeTableWord 64 0x0010000C104000DD = some (.iadd { plainOps with stall := 3, dst := 4, a := 2, b := 3, ty := .i16 }) ∧
  decodeTableWord 64 0x02940E243052182D =
    some (.ffma { plainOps with guard := ⟨true, 3⟩, dst := 5, a := 6, b := 9, c := 7, clsB := true, ty := .f32, rnd := .rtz }) ∧
  decodeTableWord 96 0x000000010030000068D0000E = some (.iadd { plainOps with guard := ⟨false, 3⟩, dst := 13, a := 13, ty := .i64, lit := some 1 }) ∧
  decodeTableWord 96 0x0000000A00330000F100A01E = some (.shl { plainOps with dst := 16, a := 30, clsD := true, clsA := true, ty := .i64, lit := some 10 }) ∧
  decodeTableWord 32 0x0487001C = some (.iaddC32 { ctype := 0, b := 9, dst := 7, stall := 0, guard := ⟨false, 7⟩ }) ∧
  decodeTableWord 32 0x3FFD1C1C = some (.braC32 { ctype := 0, b := 0b1111111, dst := 0b1111101, stall := 0, guard := ⟨false, 7⟩ }) ∧
  decodeTableWord 32 0x0001241C = some (.waitC32 { ctype := 0, b := 0, dst := 1, stall := 0, guard := ⟨false, 7⟩ }) ∧
  decodeTableWord 64 0x4034001462353805 =
    some (.icmp { plainOps with guard := ⟨false, 1⟩, dst := 0x23, a := 12, b := 5, clsB := true, ty := .i64, opmod := 2 }) ∧
  decodeTableWord 64 0x0080000142951015 = some (.xred { plainOps with guard := ⟨false, 5⟩, dst := 41, a := 40, ty := .f64 }) ∧
  decodeTableWord 64 0x0004001800371805 = some (.barx { plainOps with guard := ⟨false, 1⟩, dst := 3, b := 6, clsB := true }) ∧
  decodeTableWord 64 0x20F20800505A301D = some (.axchg { plainOps with dst := 5, a := 10, c := 4, clsA := true, ty := .b64, opmod := 1 }) ∧
  decodeTableWord 64 0x00C7D84CF95C1805 =
    some (.mmap { plainOps with
      guard := ⟨false, 1⟩, dst := 21, a := 31, b := 19, c := 0x6C, clsD := true, clsA := true, clsB := true, ty := .k8 }) ∧
  decodeTableWord 64 0x104E181D = some (.csrr { plainOps with dst := 4, a := 2 }) ∧
  decodeTableWord 64 0x200000002801201D = some (.movIx { plainOps with a := 5, opmod := 1 })

/-- R17, R19, R21, R36, R38, R40 to R42, R44: decoding and encoding agree, at any place of a fetch block and whatever follows: the bytes of a well-formed
instruction decode to it, and whatever decodes is well-formed and encodes to the very bytes it was read from, so that no bit is dropped; a length of
0b11, an instruction that leaves its block, and an unassigned opcode are refused by name. -/
def Obligations.DecodeAndEncodeAgree : Prop :=
  (∀ (i : Instr) (off : Nat) (rest : List Byte), i.wf = true → i.parts ≠ .event → off % 32 + (encode i).length ≤ 32 →
    decodeAt off (encode i ++ rest) = .ok (i, (encode i).length)) ∧
  (∀ (off : Nat) (bytes : List Byte) (i : Instr) (n : Nat), decodeAt off bytes = .ok (i, n) →
    i.wf = true ∧ i.parts ≠ .event ∧ n = (encode i).length ∧ encode i = bytes.take n ∧ off % 32 + n ≤ 32) ∧
  ∀ (off : Nat) (bytes : List Byte), 12 ≤ bytes.length →
    let p := leNat (bytes.take 4)
    (p % 4 = 3 → decodeAt off bytes = .error .illegalLength) ∧
    (p % 4 ≠ 3 → 32 < off % 32 + 4 * (p % 4 + 1) → decodeAt off bytes = .error .fetchBoundary) ∧
    (p % 4 = 0 → off % 32 + 4 ≤ 32 → 0x17 ≤ p / 2 ^ 9 % 2 ^ 7 → decodeAt off bytes = .error .illegalInsn) ∧
    (p % 4 = 1 ∨ p % 4 = 2 → off % 32 + 4 * (p % 4 + 1) ≤ 32 →
      (∃ lo hi, (lo, hi) ∈ [(0x029, 0x03F), (0x05B, 0x07F), (0x089, 0x09F), (0x0AE, 0x0BF), (0x0D2, 0x0DF), (0x0E9, 0x0FF), (0x116, 0x13F),
          (0x14E, 0x15F), (0x16D, 0x17F), (0x18E, 0x1BF), (0x1CE, 0x1FF)] ∧ lo ≤ p / 2 ^ 11 % 2 ^ 9 ∧ p / 2 ^ 11 % 2 ^ 9 ≤ hi) →
      decodeAt off bytes = .error .illegalInsn)

/-- The reset values that R362 tables: the fields of FUNCMODE, PREEMPTCTL, SNAPCTL and LEASECTL, and what reads of them give. -/
def Obligations.ControlRegistersAtReset : Prop :=
  let s := State.reset
  (∀ die < 4, (s.die die).funcMode = 0xFF ∧ (s.die die).watchdogUs = 1000 ∧ (s.die die).preemptLaunch = 0 ∧ s.requestStands die = false) ∧
  s.leaseNs = 400 ∧ s.marginNs = 6 ∧ s.snapArmed = false ∧ s.snapUser = false ∧ s.snapPin = false ∧ s.snapMc = false ∧ s.snapCount = 0 ∧
  (∀ die < 4, ∀ reg v, (reg, v) ∈ [(Csr.funcmode, 0xFF), (.preemptctl, 1000), (.snapctl, 0), (.leasectl, 6 * 2 ^ 16 + 400)] →
    s.csrRead (die * 384 * 8) 0 reg = v)

/-- The machine at reset is in the invariant that every step keeps: nothing resides, nothing is queued, memory lists nothing, and launches are numbered
from 1 (R319). -/
def Obligations.ResetMeetsTheInvariant : Prop :=
  State.reset.Inv ∧ State.reset.gangs = [] ∧ State.reset.mem = [] ∧ State.reset.hub.nextLaunch = 1 ∧ State.reset.released = false ∧
  ∀ pa, State.reset.peek pa = 0

/-- THE INVARIANT IS KEPT: whatever the package does next, from any state in it: every sparse table, memory first of all, stays in its one canonical
form, every gang keeps its 32 lanes, and no two gangs share a slot (R1, R24, R101, R105). -/
def Obligations.StepKeepsInvariants : Prop := ∀ (s s' : State), s.Inv → step s = .next s' → s'.Inv

/-- A STEP RUNS THE DECODED INSTRUCTION (R17 to R20, R44, R105, R106, R225): when the agenda names nothing, the choice gives a bundle, and the bytes
at its pc decode to an instruction, the step is exec of that instruction, in the state in which the bundle has begun its issue; a step that the agenda
names is exec of that step. What goes around exec: a clock passes (tick), a slot is granted (begin), the tokens read order the threads (tokens), the
bytes requested are counted for the launch (asks). The block is one that the core keeps, or is read now: memory as the core sees it, with what stores
under way have performed; a thread's first fetch after a crossing uses the leaf that it carried (R301). How much time a clock takes is the model's
choice (assumption 3), and so is that a bundle of privileged and user code fetches one part first (assumption 60). -/
def Obligations.StepRunsDecodedInstruction : Prop :=
  ∀ (s : State),
    (∀ i rest, s.agenda = i :: rest → i.parts = .event → i.wf = true → step s = exec i (State.tick { s with agenda := rest })) ∧
    (∀ i rest, s.agenda = i :: rest → ¬(i.parts = .event ∧ i.wf = true) → step s = .fault .noSuchUnit) ∧
    (∀ c v pa pte i len, s.agenda = [] → s.tick.stepped = none → (s.tick.engineTurn = false ∨ s.tick.work = none) → s.tick.choice = some c →
      let u := s.tick.turned
      let g := u.gangAt c.key
      let pc := (g.lane c.lane).pc
      let core := coreOf c.key
      -- of a bundle of privileged and user code, the lanes whose fetch is decided first
      let m := u.fetchLanes c.key (g.bundleOf c.lane) pc
      let priv := (g.lane (lowest m)).priv
      let kept := v.icache.filter fun b => b.core == core && b.world == g.world && b.pa == pa / 32 * 32
      let block := v.blockAt core g.world pa
      ((∀ k, (g.bundleOf c.lane).getLsbD k = true → (g.lane k).priv = (g.lane c.lane).priv) → m = g.bundleOf c.lane) ∧ (
      pc.toNat % 4 = 0 →
      (if g.firstFetch.any (fun f => f.1 == pc) = true then g.firstFetch = some (pc, pa) ∧ v = u.onGang c.key fun g => { g with firstFetch := none }
        else u.translate core g.xlate pc .fetch priv = .ok (v, pa, pte)) →
      (kept ≠ [] ∨ v.poisoned g.world pa = false) →
      (kept = [] → block = (List.range 32).map fun n => v.fetchByte core (pa / 32 * 32 + n)) ∧ (kept ≠ [] → ∃ b ∈ kept, b.bytes = block) ∧
      (v.stores = [] → ∀ a, v.fetchByte core a = v.view core a) ∧ (
      decodeAt (pc.toNat % 32) (block.drop (pc.toNat % 32)) = .ok (i, len) →
      let issue : Issue := { gang := c.key, lanes := m, pc := pc, len := len, raw := rawOf (block.drop (pc.toNat % 32)) }
      step s = exec i ((((v.keepBlock core g.world (asidOf g.xlate) pa).begin issue).tokens i).asks i)))) ∧
    (∀ (v : State) i issue b, v.Inv → v.resident issue.gang = true →
      (∀ k, issue.lanes.getLsbD k = true →
        let x := (v.gangAt issue.gang).lane k
        x.cond = .runnable ∧ x.wait = .no ∧ x.bundle = some b) →
      let t := ((v.begin issue).tokens i).asks i
      let x := (v.gangAt issue.gang).lane (lowest issue.lanes)
      t.Issuing ∧ t.Running ∧ t.cur = { issue with name := (x.launch, x.block, x.tid), fetched := v.gtime } ∧ (∀ pa, t.peek pa = v.peek pa) ∧
      ∀ key k n, ((t.gangAt key).lane k).pc = ((v.gangAt key).lane k).pc ∧ ((t.gangAt key).lane k).getD n = ((v.gangAt key).lane k).getD n ∧
        ((t.gangAt key).lane k).getP n = ((v.gangAt key).lane k).getP n)

/-- R11, R24, R25, R44, R73, R77, R123: the checks that instructions share. Where every field names a register of the allotment and nothing that would
be caught is enabled or present, an instruction reaches its own effect in the lanes whose guard is true, be there none; a direct field at or above the
allotment traps the whole bundle before any guard is looked at, an indexed one the guarded lanes that it concerns. A compare with .zg under the guard
?!p7 clears its pair in every lane of the bundle: the model's choice (assumption 71). -/
def Obligations.ChecksPassOrTrap : Prop :=
  ∀ (s : State) (op : Nat) (o : Ops),
    let guarded := fun (k : Nat) => s.cur.lanes.getLsbD k = true ∧ s.regP k (s.cl k) o.guard.p.toNat ≠ o.guard.neg
    let direct := ∃ n, Dest.d n ∈ readsOf op o ++ writesOf op o ∧ s.cg.allot ≤ n
    (op ≠ 0xE6 → ¬direct → s.cg.stallChk = false → (∀ k, guarded k → o.ix = true → aNum o (s.cl k) < s.cg.allot) → s.cg.shadowOf = none →
      s.cg.uninitChk = false → s.cg.gFailed = [] → ∃ L : Mask, s.checks op o = .ok L ∧ ∀ k, L.getLsbD k = true ↔ guarded k) ∧
    (op ≠ 0xE6 → ¬direct → s.cg.stallChk = false → (∀ k, ¬guarded k) → s.checks op o = .ok 0) ∧
    (direct → ∃ r, s.checks op o = .error r ∧ r.cause = .regIndexBounds ∧ r.mask = s.cur.lanes) ∧
    (op ≠ 0xE6 → ¬direct → s.cg.stallChk = false → (∃ k, guarded k ∧ o.ix = true ∧ s.cg.allot ≤ aNum o (s.cl k)) →
      ∃ r, s.checks op o = .error r ∧ r.cause = .regIndexBounds ∧
        ∀ k, r.mask.getLsbD k = true ↔ guarded k ∧ s.cg.allot ≤ aNum o (s.cl k)) ∧
    -- a failed check is a trap, and nothing else happens
    (∀ i r, (i, op) ∈
        [(Instr.iadd o, 0x00), (.imad o, 0x04), (.sel o, 0x23), (.fadd o, 0x40), (.fdiv o, 0x4B), (.fcvt o, 0x55), (.vdot o, 0x80), (.vperm o, 0x84),
         (.xshfl o, 0xA0), (.xred o, 0xA2), (.icmp o, 0xA7), (.pand o, 0xA9), (.bra o, 0xC0), (.call o, 0xC2), (.exit o, 0xC5), (.barx o, 0xE3),
         (.csrr o, 0x1C3)] →
      s.checks op o = .error r → exec i s = .next (s.trap r)) ∧
    -- a zeroing compare in no lane
    ∀ (i : Instr) (L : Mask), (i, op) ∈ [(Instr.icmp o, 0xA7), (.fcmp o, 0xA8)] → i.wf = true → s.Issuing → o.guard = ⟨true, 7⟩ →
      o.opmod.toNat / 2 = 1 → s.checks op o = .ok L → s.PredicateResult i o (pairOf o s.cur.lanes) (pairValue o fun _ => (false, false)) (fun _ => 0)
end

