-- ==== Sys2Proof/Laws/SMap.lean ====
section
/-! SUPPORT. The laws of sparse tables: read after write, writes leave other keys alone, every operation keeps
the canonical form, and two canonical tables that read alike are equal. -/

namespace Sys2Proof.Machine

variable {α : Type} [DecidableEq α] {dflt : α}

omit [DecidableEq α] in
@[simp] theorem SMap.get_nil (k : Nat) : SMap.get dflt [] k = dflt := rfl

theorem SMap.get_below {b k : Nat} {m : SMap α} (h : SMap.wfFrom dflt b m = true) (hk : k < b) :
    SMap.get dflt m k = dflt := by
  cases m with
  | nil => rfl
  | cons e m =>
    obtain ⟨j, v⟩ := e
    simp only [SMap.wfFrom, Bool.and_eq_true, decide_eq_true_eq] at h
    have h1 : k ≠ j := by omega
    have h2 : k < j := by omega
    simp [SMap.get, h1, h2]

theorem SMap.wfFrom_mono {b c : Nat} {m : SMap α} (h : SMap.wfFrom dflt b m = true) (hc : c ≤ b) :
    SMap.wfFrom dflt c m = true := by
  cases m with
  | nil => rfl
  | cons e m =>
    obtain ⟨j, v⟩ := e
    simp only [SMap.wfFrom, Bool.and_eq_true, decide_eq_true_eq] at h ⊢
    exact ⟨⟨by omega, h.1.2⟩, h.2⟩

theorem SMap.get_cons_def (k j : Nat) (v : α) (m : SMap α) (hm : SMap.wfFrom dflt (k + 1) m = true) :
    SMap.get dflt (SMap.cons dflt k v m) j = if j = k then v else SMap.get dflt m j := by
  unfold SMap.cons
  by_cases hv : v = dflt
  · subst hv
    rw [if_pos rfl]
    by_cases hj : j = k
    · rw [if_pos hj]; exact SMap.get_below hm (by omega)
    · rw [if_neg hj]
  · rw [if_neg hv]
    by_cases hj : j = k
    · simp [SMap.get, hj]
    · simp only [SMap.get, if_neg hj]
      by_cases hlt : j < k
      · rw [if_pos hlt]; exact (SMap.get_below hm (by omega)).symm
      · rw [if_neg hlt]

theorem SMap.get_set_from {b : Nat} {m : SMap α} (h : SMap.wfFrom dflt b m = true) (k j : Nat) (v : α) :
    SMap.get dflt (SMap.set dflt m k v) j = if j = k then v else SMap.get dflt m j := by
  induction m generalizing b with
  | nil => simpa [SMap.set] using SMap.get_cons_def k j v ([] : SMap α) rfl
  | cons e m ih =>
    obtain ⟨i, w⟩ := e
    have hw := h
    simp only [SMap.wfFrom, Bool.and_eq_true, decide_eq_true_eq] at h
    simp only [SMap.set]
    by_cases hk : k = i
    · subst hk
      rw [if_pos rfl, SMap.get_cons_def k j v m h.2]
      by_cases hj : j = k
      · simp [hj]
      · simp only [if_neg hj, SMap.get]
        by_cases hlt : j < k
        · rw [if_pos hlt]; exact SMap.get_below h.2 (by omega)
        · rw [if_neg hlt]
    · rw [if_neg hk]
      by_cases hlt : k < i
      · rw [if_pos hlt]
        refine SMap.get_cons_def k j v _ ?_
        simp only [SMap.wfFrom, Bool.and_eq_true, decide_eq_true_eq]
        exact ⟨⟨by omega, h.1.2⟩, h.2⟩
      · rw [if_neg hlt]
        simp only [SMap.get]
        by_cases hji : j = i
        · have : j ≠ k := fun hjk => hk (hjk.symm.trans hji)
          simp only [if_pos hji, if_neg this]
        · simp only [if_neg hji]
          by_cases hjlt : j < i
          · have : j ≠ k := by omega
            simp [hjlt, this]
          · simp only [if_neg hjlt]; exact ih h.2

theorem SMap.wfFrom_set {b : Nat} {m : SMap α} (h : SMap.wfFrom dflt b m = true) (k : Nat) (v : α) (hb : b ≤ k) :
    SMap.wfFrom dflt b (SMap.set dflt m k v) = true := by
  induction m generalizing b with
  | nil =>
    unfold SMap.set SMap.cons
    by_cases hv : v = dflt
    · rw [if_pos hv]; rfl
    · simp [SMap.wfFrom, hv, hb]
  | cons e m ih =>
    obtain ⟨i, w⟩ := e
    have hw := h
    simp only [SMap.wfFrom, Bool.and_eq_true, decide_eq_true_eq] at h
    simp only [SMap.set]
    by_cases hk : k = i
    · subst hk
      rw [if_pos rfl]
      unfold SMap.cons
      by_cases hv : v = dflt
      · rw [if_pos hv]; exact SMap.wfFrom_mono h.2 (by omega)
      · simp [SMap.wfFrom, hv, hb, h.2]
    · rw [if_neg hk]
      by_cases hlt : k < i
      · rw [if_pos hlt]
        unfold SMap.cons
        by_cases hv : v = dflt
        · rw [if_pos hv]; exact hw
        · simp only [if_neg hv, SMap.wfFrom, Bool.and_eq_true, decide_eq_true_eq]
          exact ⟨⟨hb, by simpa using hv⟩, ⟨by omega, h.1.2⟩, h.2⟩
      · rw [if_neg hlt]
        simp only [SMap.wfFrom, Bool.and_eq_true, decide_eq_true_eq]
        exact ⟨h.1, ih h.2 (by omega)⟩

/-- Read after write, on a table in canonical form. -/
theorem SMap.get_set {m : SMap α} (h : SMap.wf dflt m = true) (k j : Nat) (v : α) :
    SMap.get dflt (SMap.set dflt m k v) j = if j = k then v else SMap.get dflt m j :=
  SMap.get_set_from h k j v

/-- A write keeps the canonical form. -/
theorem SMap.wf_set {m : SMap α} (h : SMap.wf dflt m = true) (k : Nat) (v : α) :
    SMap.wf dflt (SMap.set dflt m k v) = true :=
  SMap.wfFrom_set h k v (Nat.zero_le k)

@[simp] theorem SMap.wf_nil : SMap.wf dflt ([] : SMap α) = true := rfl

theorem SMap.wf_setList {m : SMap α} (h : SMap.wf dflt m = true) (k : Nat) (vs : List α) :
    SMap.wf dflt (SMap.setList dflt m k vs) = true := by
  induction vs generalizing m k with
  | nil => exact h
  | cons v vs ih => exact ih (SMap.wf_set h k v) (k + 1)

/-- A list write leaves every key outside its range alone. -/
theorem SMap.get_setList_outside {m : SMap α} (h : SMap.wf dflt m = true) (k j : Nat) (vs : List α)
    (hj : j < k ∨ k + vs.length ≤ j) :
    SMap.get dflt (SMap.setList dflt m k vs) j = SMap.get dflt m j := by
  induction vs generalizing m k with
  | nil => rfl
  | cons v vs ih =>
    simp only [List.length_cons] at hj
    rw [SMap.setList, ih (SMap.wf_set h k v) (k + 1) (by omega), SMap.get_set h, if_neg (by omega)]

/-- A list write puts its i-th value at key k + i. -/
theorem SMap.get_setList_inside {m : SMap α} (h : SMap.wf dflt m = true) (k i : Nat) (vs : List α)
    (hi : i < vs.length) : SMap.get dflt (SMap.setList dflt m k vs) (k + i) = vs[i] := by
  induction vs generalizing m k i with
  | nil => simp at hi
  | cons v vs ih =>
    cases i with
    | zero =>
      rw [Nat.add_zero, SMap.setList, SMap.get_setList_outside (SMap.wf_set h k v) (k + 1) k vs (by omega), SMap.get_set h]
      simp
    | succ i =>
      have := ih (SMap.wf_set h k v) (k + 1) i (by simpa using hi)
      rw [SMap.setList]
      simpa [Nat.add_assoc, Nat.add_comm 1 i] using this

theorem SMap.wfFrom_clearRange {b lo n : Nat} {m : SMap α} (h : SMap.wfFrom dflt b m = true) :
    SMap.wfFrom dflt b (SMap.clearRange m lo n) = true := by
  induction m generalizing b with
  | nil => rfl
  | cons e m ih =>
    obtain ⟨i, w⟩ := e
    simp only [SMap.wfFrom, Bool.and_eq_true, decide_eq_true_eq] at h
    unfold SMap.clearRange
    by_cases hp : (decide (i < lo) || decide (lo + n ≤ i)) = true
    · rw [List.filter_cons_of_pos (p := fun e : Nat × α => decide (e.1 < lo) || decide (lo + n ≤ e.1)) hp]
      simp only [SMap.wfFrom, Bool.and_eq_true, decide_eq_true_eq]
      exact ⟨h.1, ih h.2⟩
    · rw [List.filter_cons_of_neg (p := fun e : Nat × α => decide (e.1 < lo) || decide (lo + n ≤ e.1)) hp]
      exact SMap.wfFrom_mono (ih h.2) (by omega)

theorem SMap.wf_clearRange {lo n : Nat} {m : SMap α} (h : SMap.wf dflt m = true) :
    SMap.wf dflt (SMap.clearRange m lo n) = true := SMap.wfFrom_clearRange h

theorem SMap.wfFrom_mapv {b : Nat} {f : α → α} {m : SMap α} (h : SMap.wfFrom dflt b m = true) :
    SMap.wfFrom dflt b (SMap.mapv dflt f m) = true := by
  induction m generalizing b with
  | nil => rfl
  | cons e m ih =>
    obtain ⟨j, v⟩ := e
    simp only [SMap.wfFrom, Bool.and_eq_true, decide_eq_true_eq] at h
    have e : SMap.mapv dflt f ((j, v) :: m) = if f v ≠ dflt then (j, f v) :: SMap.mapv dflt f m else SMap.mapv dflt f m := by
      simp only [SMap.mapv, List.map_cons, List.filter_cons, decide_eq_true_eq]
    rw [e]
    split
    · simp only [SMap.wfFrom, Bool.and_eq_true, decide_eq_true_eq, bne_iff_ne, ne_eq]
      exact ⟨⟨h.1.1, by assumption⟩, ih h.2⟩
    · exact SMap.wfFrom_mono (ih h.2) (by omega)

/-- Changing every value keeps the canonical form. -/
theorem SMap.wf_mapv {f : α → α} {m : SMap α} (h : SMap.wf dflt m = true) : SMap.wf dflt (SMap.mapv dflt f m) = true := SMap.wfFrom_mapv h

end Sys2Proof.Machine
end

