-- ==== Sys2Proof/Laws/State.lean ====
section
/-! SUPPORT. Each update of the state leaves the fields it does not name as they are: one lemma for each field and update. -/

namespace Sys2Proof.Machine

@[simp] theorem State.onGang_agenda (s : State) (key : Nat) (f : Gang → Gang) : (s.onGang key f).agenda = s.agenda := rfl
@[simp] theorem State.onGang_turn (s : State) (key : Nat) (f : Gang → Gang) : (s.onGang key f).turn = s.turn := rfl
@[simp] theorem State.onGang_cur (s : State) (key : Nat) (f : Gang → Gang) : (s.onGang key f).cur = s.cur := rfl
@[simp] theorem State.onGang_freeCtr (s : State) (key : Nat) (f : Gang → Gang) : (s.onGang key f).freeCtr = s.freeCtr := rfl
@[simp] theorem State.onGang_clock (s : State) (key : Nat) (f : Gang → Gang) : (s.onGang key f).clock = s.clock := rfl
@[simp] theorem State.onGang_gtime (s : State) (key : Nat) (f : Gang → Gang) : (s.onGang key f).gtime = s.gtime := rfl
@[simp] theorem State.onGang_released (s : State) (key : Nat) (f : Gang → Gang) : (s.onGang key f).released = s.released := rfl
@[simp] theorem State.onGang_bootStep (s : State) (key : Nat) (f : Gang → Gang) : (s.onGang key f).bootStep = s.bootStep := rfl
@[simp] theorem State.onGang_bootFailed (s : State) (key : Nat) (f : Gang → Gang) : (s.onGang key f).bootFailed = s.bootFailed := rfl
@[simp] theorem State.onGang_mem (s : State) (key : Nat) (f : Gang → Gang) : (s.onGang key f).mem = s.mem := rfl
@[simp] theorem State.onGang_poisonLines (s : State) (key : Nat) (f : Gang → Gang) : (s.onGang key f).poisonLines = s.poisonLines := rfl
@[simp] theorem State.onGang_lineWorld (s : State) (key : Nat) (f : Gang → Gang) : (s.onGang key f).lineWorld = s.lineWorld := rfl
@[simp] theorem State.onGang_seals (s : State) (key : Nat) (f : Gang → Gang) : (s.onGang key f).seals = s.seals := rfl
@[simp] theorem State.onGang_arrays (s : State) (key : Nat) (f : Gang → Gang) : (s.onGang key f).arrays = s.arrays := rfl
@[simp] theorem State.onGang_allocs (s : State) (key : Nat) (f : Gang → Gang) : (s.onGang key f).allocs = s.allocs := rfl
@[simp] theorem State.onGang_copies (s : State) (key : Nat) (f : Gang → Gang) : (s.onGang key f).copies = s.copies := rfl
@[simp] theorem State.onGang_loads (s : State) (key : Nat) (f : Gang → Gang) : (s.onGang key f).loads = s.loads := rfl
@[simp] theorem State.onGang_stores (s : State) (key : Nat) (f : Gang → Gang) : (s.onGang key f).stores = s.stores := rfl
@[simp] theorem State.onGang_atoms (s : State) (key : Nat) (f : Gang → Gang) : (s.onGang key f).atoms = s.atoms := rfl
@[simp] theorem State.onGang_acks (s : State) (key : Nat) (f : Gang → Gang) : (s.onGang key f).acks = s.acks := rfl
@[simp] theorem State.onGang_redseqs (s : State) (key : Nat) (f : Gang → Gang) : (s.onGang key f).redseqs = s.redseqs := rfl
@[simp] theorem State.onGang_leases (s : State) (key : Nat) (f : Gang → Gang) : (s.onGang key f).leases = s.leases := rfl
@[simp] theorem State.onGang_owned (s : State) (key : Nat) (f : Gang → Gang) : (s.onGang key f).owned = s.owned := rfl
@[simp] theorem State.onGang_hostLines (s : State) (key : Nat) (f : Gang → Gang) : (s.onGang key f).hostLines = s.hostLines := rfl
@[simp] theorem State.onGang_hostWaiting (s : State) (key : Nat) (f : Gang → Gang) : (s.onGang key f).hostWaiting = s.hostWaiting := rfl
@[simp] theorem State.onGang_snooping (s : State) (key : Nat) (f : Gang → Gang) : (s.onGang key f).snooping = s.snooping := rfl
@[simp] theorem State.onGang_releasing (s : State) (key : Nat) (f : Gang → Gang) : (s.onGang key f).releasing = s.releasing := rfl
@[simp] theorem State.onGang_placedAt (s : State) (key : Nat) (f : Gang → Gang) : (s.onGang key f).placedAt = s.placedAt := rfl
@[simp] theorem State.onGang_platform (s : State) (key : Nat) (f : Gang → Gang) : (s.onGang key f).platform = s.platform := rfl
@[simp] theorem State.onGang_tlb (s : State) (key : Nat) (f : Gang → Gang) : (s.onGang key f).tlb = s.tlb := rfl
@[simp] theorem State.onGang_icache (s : State) (key : Nat) (f : Gang → Gang) : (s.onGang key f).icache = s.icache := rfl
@[simp] theorem State.onGang_oplog (s : State) (key : Nat) (f : Gang → Gang) : (s.onGang key f).oplog = s.oplog := rfl
@[simp] theorem State.onGang_faults (s : State) (key : Nat) (f : Gang → Gang) : (s.onGang key f).faults = s.faults := rfl
@[simp] theorem State.onGang_launches (s : State) (key : Nat) (f : Gang → Gang) : (s.onGang key f).launches = s.launches := rfl
@[simp] theorem State.onGang_dies (s : State) (key : Nat) (f : Gang → Gang) : (s.onGang key f).dies = s.dies := rfl
@[simp] theorem State.onGang_saved (s : State) (key : Nat) (f : Gang → Gang) : (s.onGang key f).saved = s.saved := rfl
@[simp] theorem State.onGang_groupRounds (s : State) (key : Nat) (f : Gang → Gang) : (s.onGang key f).groupRounds = s.groupRounds := rfl
@[simp] theorem State.onGang_gredws (s : State) (key : Nat) (f : Gang → Gang) : (s.onGang key f).gredws = s.gredws := rfl
@[simp] theorem State.onGang_greds (s : State) (key : Nat) (f : Gang → Gang) : (s.onGang key f).greds = s.greds := rfl
@[simp] theorem State.onGang_dirty (s : State) (key : Nat) (f : Gang → Gang) : (s.onGang key f).dirty = s.dirty := rfl
@[simp] theorem State.onGang_recent (s : State) (key : Nat) (f : Gang → Gang) : (s.onGang key f).recent = s.recent := rfl
@[simp] theorem State.onGang_coreHzn (s : State) (key : Nat) (f : Gang → Gang) : (s.onGang key f).coreHzn = s.coreHzn := rfl
@[simp] theorem State.onGang_cbs (s : State) (key : Nat) (f : Gang → Gang) : (s.onGang key f).cbs = s.cbs := rfl
@[simp] theorem State.onGang_rings (s : State) (key : Nat) (f : Gang → Gang) : (s.onGang key f).rings = s.rings := rfl
@[simp] theorem State.onGang_heaps (s : State) (key : Nat) (f : Gang → Gang) : (s.onGang key f).heaps = s.heaps := rfl
@[simp] theorem State.onGang_cycles (s : State) (key : Nat) (f : Gang → Gang) : (s.onGang key f).cycles = s.cycles := rfl
@[simp] theorem State.onGang_migrations (s : State) (key : Nat) (f : Gang → Gang) : (s.onGang key f).migrations = s.migrations := rfl
@[simp] theorem State.onGang_moveErrors (s : State) (key : Nat) (f : Gang → Gang) : (s.onGang key f).moveErrors = s.moveErrors := rfl
@[simp] theorem State.onGang_hostThreads (s : State) (key : Nat) (f : Gang → Gang) : (s.onGang key f).hostThreads = s.hostThreads := rfl
@[simp] theorem State.onGang_hostCores (s : State) (key : Nat) (f : Gang → Gang) : (s.onGang key f).hostCores = s.hostCores := rfl
@[simp] theorem State.onGang_guests (s : State) (key : Nat) (f : Gang → Gang) : (s.onGang key f).guests = s.guests := rfl
@[simp] theorem State.onGang_crossings (s : State) (key : Nat) (f : Gang → Gang) : (s.onGang key f).crossings = s.crossings := rfl
@[simp] theorem State.onGang_vlogs (s : State) (key : Nat) (f : Gang → Gang) : (s.onGang key f).vlogs = s.vlogs := rfl
@[simp] theorem State.onGang_ctrls (s : State) (key : Nat) (f : Gang → Gang) : (s.onGang key f).ctrls = s.ctrls := rfl
@[simp] theorem State.onGang_sec (s : State) (key : Nat) (f : Gang → Gang) : (s.onGang key f).sec = s.sec := rfl
@[simp] theorem State.onGang_hub (s : State) (key : Nat) (f : Gang → Gang) : (s.onGang key f).hub = s.hub := rfl
@[simp] theorem State.onGang_worlds (s : State) (key : Nat) (f : Gang → Gang) : (s.onGang key f).worlds = s.worlds := rfl
@[simp] theorem State.onGang_clearing (s : State) (key : Nat) (f : Gang → Gang) : (s.onGang key f).clearing = s.clearing := rfl
@[simp] theorem State.onGang_dirtyRows (s : State) (key : Nat) (f : Gang → Gang) : (s.onGang key f).dirtyRows = s.dirtyRows := rfl
@[simp] theorem State.onGang_checked (s : State) (key : Nat) (f : Gang → Gang) : (s.onGang key f).checked = s.checked := rfl
@[simp] theorem State.onGang_leaseNs (s : State) (key : Nat) (f : Gang → Gang) : (s.onGang key f).leaseNs = s.leaseNs := rfl
@[simp] theorem State.onGang_marginNs (s : State) (key : Nat) (f : Gang → Gang) : (s.onGang key f).marginNs = s.marginNs := rfl
@[simp] theorem State.onGang_snapArmed (s : State) (key : Nat) (f : Gang → Gang) : (s.onGang key f).snapArmed = s.snapArmed := rfl
@[simp] theorem State.onGang_snapUser (s : State) (key : Nat) (f : Gang → Gang) : (s.onGang key f).snapUser = s.snapUser := rfl
@[simp] theorem State.onGang_snapPin (s : State) (key : Nat) (f : Gang → Gang) : (s.onGang key f).snapPin = s.snapPin := rfl
@[simp] theorem State.onGang_snapMc (s : State) (key : Nat) (f : Gang → Gang) : (s.onGang key f).snapMc = s.snapMc := rfl
@[simp] theorem State.onGang_snapCount (s : State) (key : Nat) (f : Gang → Gang) : (s.onGang key f).snapCount = s.snapCount := rfl
@[simp] theorem State.onGang_snaps (s : State) (key : Nat) (f : Gang → Gang) : (s.onGang key f).snaps = s.snaps := rfl
@[simp] theorem State.onGang_samples (s : State) (key : Nat) (f : Gang → Gang) : (s.onGang key f).samples = s.samples := rfl
@[simp] theorem State.onGang_issues (s : State) (key : Nat) (f : Gang → Gang) : (s.onGang key f).issues = s.issues := rfl
@[simp] theorem State.onGang_sampled (s : State) (key : Nat) (f : Gang → Gang) : (s.onGang key f).sampled = s.sampled := rfl
@[simp] theorem State.onGang_requested (s : State) (key : Nat) (f : Gang → Gang) : (s.onGang key f).requested = s.requested := rfl

@[simp] theorem State.onLanes_agenda (s : State) (key : Nat) (m : Mask) (f : Nat → Thread → Thread) : (s.onLanes key m f).agenda = s.agenda := rfl
@[simp] theorem State.onLanes_turn (s : State) (key : Nat) (m : Mask) (f : Nat → Thread → Thread) : (s.onLanes key m f).turn = s.turn := rfl
@[simp] theorem State.onLanes_cur (s : State) (key : Nat) (m : Mask) (f : Nat → Thread → Thread) : (s.onLanes key m f).cur = s.cur := rfl
@[simp] theorem State.onLanes_freeCtr (s : State) (key : Nat) (m : Mask) (f : Nat → Thread → Thread) : (s.onLanes key m f).freeCtr = s.freeCtr := rfl
@[simp] theorem State.onLanes_clock (s : State) (key : Nat) (m : Mask) (f : Nat → Thread → Thread) : (s.onLanes key m f).clock = s.clock := rfl
@[simp] theorem State.onLanes_gtime (s : State) (key : Nat) (m : Mask) (f : Nat → Thread → Thread) : (s.onLanes key m f).gtime = s.gtime := rfl
@[simp] theorem State.onLanes_released (s : State) (key : Nat) (m : Mask) (f : Nat → Thread → Thread) : (s.onLanes key m f).released = s.released := rfl
@[simp] theorem State.onLanes_bootStep (s : State) (key : Nat) (m : Mask) (f : Nat → Thread → Thread) : (s.onLanes key m f).bootStep = s.bootStep := rfl
@[simp] theorem State.onLanes_bootFailed (s : State) (key : Nat) (m : Mask) (f : Nat → Thread → Thread) : (s.onLanes key m f).bootFailed = s.bootFailed := rfl
@[simp] theorem State.onLanes_mem (s : State) (key : Nat) (m : Mask) (f : Nat → Thread → Thread) : (s.onLanes key m f).mem = s.mem := rfl
@[simp] theorem State.onLanes_poisonLines (s : State) (key : Nat) (m : Mask) (f : Nat → Thread → Thread) : (s.onLanes key m f).poisonLines = s.poisonLines := rfl
@[simp] theorem State.onLanes_lineWorld (s : State) (key : Nat) (m : Mask) (f : Nat → Thread → Thread) : (s.onLanes key m f).lineWorld = s.lineWorld := rfl
@[simp] theorem State.onLanes_seals (s : State) (key : Nat) (m : Mask) (f : Nat → Thread → Thread) : (s.onLanes key m f).seals = s.seals := rfl
@[simp] theorem State.onLanes_arrays (s : State) (key : Nat) (m : Mask) (f : Nat → Thread → Thread) : (s.onLanes key m f).arrays = s.arrays := rfl
@[simp] theorem State.onLanes_allocs (s : State) (key : Nat) (m : Mask) (f : Nat → Thread → Thread) : (s.onLanes key m f).allocs = s.allocs := rfl
@[simp] theorem State.onLanes_copies (s : State) (key : Nat) (m : Mask) (f : Nat → Thread → Thread) : (s.onLanes key m f).copies = s.copies := rfl
@[simp] theorem State.onLanes_loads (s : State) (key : Nat) (m : Mask) (f : Nat → Thread → Thread) : (s.onLanes key m f).loads = s.loads := rfl
@[simp] theorem State.onLanes_stores (s : State) (key : Nat) (m : Mask) (f : Nat → Thread → Thread) : (s.onLanes key m f).stores = s.stores := rfl
@[simp] theorem State.onLanes_atoms (s : State) (key : Nat) (m : Mask) (f : Nat → Thread → Thread) : (s.onLanes key m f).atoms = s.atoms := rfl
@[simp] theorem State.onLanes_acks (s : State) (key : Nat) (m : Mask) (f : Nat → Thread → Thread) : (s.onLanes key m f).acks = s.acks := rfl
@[simp] theorem State.onLanes_redseqs (s : State) (key : Nat) (m : Mask) (f : Nat → Thread → Thread) : (s.onLanes key m f).redseqs = s.redseqs := rfl
@[simp] theorem State.onLanes_leases (s : State) (key : Nat) (m : Mask) (f : Nat → Thread → Thread) : (s.onLanes key m f).leases = s.leases := rfl
@[simp] theorem State.onLanes_owned (s : State) (key : Nat) (m : Mask) (f : Nat → Thread → Thread) : (s.onLanes key m f).owned = s.owned := rfl
@[simp] theorem State.onLanes_hostLines (s : State) (key : Nat) (m : Mask) (f : Nat → Thread → Thread) : (s.onLanes key m f).hostLines = s.hostLines := rfl
@[simp] theorem State.onLanes_hostWaiting (s : State) (key : Nat) (m : Mask) (f : Nat → Thread → Thread) : (s.onLanes key m f).hostWaiting = s.hostWaiting := rfl
@[simp] theorem State.onLanes_snooping (s : State) (key : Nat) (m : Mask) (f : Nat → Thread → Thread) : (s.onLanes key m f).snooping = s.snooping := rfl
@[simp] theorem State.onLanes_releasing (s : State) (key : Nat) (m : Mask) (f : Nat → Thread → Thread) : (s.onLanes key m f).releasing = s.releasing := rfl
@[simp] theorem State.onLanes_placedAt (s : State) (key : Nat) (m : Mask) (f : Nat → Thread → Thread) : (s.onLanes key m f).placedAt = s.placedAt := rfl
@[simp] theorem State.onLanes_platform (s : State) (key : Nat) (m : Mask) (f : Nat → Thread → Thread) : (s.onLanes key m f).platform = s.platform := rfl
@[simp] theorem State.onLanes_tlb (s : State) (key : Nat) (m : Mask) (f : Nat → Thread → Thread) : (s.onLanes key m f).tlb = s.tlb := rfl
@[simp] theorem State.onLanes_icache (s : State) (key : Nat) (m : Mask) (f : Nat → Thread → Thread) : (s.onLanes key m f).icache = s.icache := rfl
@[simp] theorem State.onLanes_oplog (s : State) (key : Nat) (m : Mask) (f : Nat → Thread → Thread) : (s.onLanes key m f).oplog = s.oplog := rfl
@[simp] theorem State.onLanes_faults (s : State) (key : Nat) (m : Mask) (f : Nat → Thread → Thread) : (s.onLanes key m f).faults = s.faults := rfl
@[simp] theorem State.onLanes_launches (s : State) (key : Nat) (m : Mask) (f : Nat → Thread → Thread) : (s.onLanes key m f).launches = s.launches := rfl
@[simp] theorem State.onLanes_dies (s : State) (key : Nat) (m : Mask) (f : Nat → Thread → Thread) : (s.onLanes key m f).dies = s.dies := rfl
@[simp] theorem State.onLanes_saved (s : State) (key : Nat) (m : Mask) (f : Nat → Thread → Thread) : (s.onLanes key m f).saved = s.saved := rfl
@[simp] theorem State.onLanes_groupRounds (s : State) (key : Nat) (m : Mask) (f : Nat → Thread → Thread) : (s.onLanes key m f).groupRounds = s.groupRounds := rfl
@[simp] theorem State.onLanes_gredws (s : State) (key : Nat) (m : Mask) (f : Nat → Thread → Thread) : (s.onLanes key m f).gredws = s.gredws := rfl
@[simp] theorem State.onLanes_greds (s : State) (key : Nat) (m : Mask) (f : Nat → Thread → Thread) : (s.onLanes key m f).greds = s.greds := rfl
@[simp] theorem State.onLanes_dirty (s : State) (key : Nat) (m : Mask) (f : Nat → Thread → Thread) : (s.onLanes key m f).dirty = s.dirty := rfl
@[simp] theorem State.onLanes_recent (s : State) (key : Nat) (m : Mask) (f : Nat → Thread → Thread) : (s.onLanes key m f).recent = s.recent := rfl
@[simp] theorem State.onLanes_coreHzn (s : State) (key : Nat) (m : Mask) (f : Nat → Thread → Thread) : (s.onLanes key m f).coreHzn = s.coreHzn := rfl
@[simp] theorem State.onLanes_cbs (s : State) (key : Nat) (m : Mask) (f : Nat → Thread → Thread) : (s.onLanes key m f).cbs = s.cbs := rfl
@[simp] theorem State.onLanes_rings (s : State) (key : Nat) (m : Mask) (f : Nat → Thread → Thread) : (s.onLanes key m f).rings = s.rings := rfl
@[simp] theorem State.onLanes_heaps (s : State) (key : Nat) (m : Mask) (f : Nat → Thread → Thread) : (s.onLanes key m f).heaps = s.heaps := rfl
@[simp] theorem State.onLanes_cycles (s : State) (key : Nat) (m : Mask) (f : Nat → Thread → Thread) : (s.onLanes key m f).cycles = s.cycles := rfl
@[simp] theorem State.onLanes_migrations (s : State) (key : Nat) (m : Mask) (f : Nat → Thread → Thread) : (s.onLanes key m f).migrations = s.migrations := rfl
@[simp] theorem State.onLanes_moveErrors (s : State) (key : Nat) (m : Mask) (f : Nat → Thread → Thread) : (s.onLanes key m f).moveErrors = s.moveErrors := rfl
@[simp] theorem State.onLanes_hostThreads (s : State) (key : Nat) (m : Mask) (f : Nat → Thread → Thread) : (s.onLanes key m f).hostThreads = s.hostThreads := rfl
@[simp] theorem State.onLanes_hostCores (s : State) (key : Nat) (m : Mask) (f : Nat → Thread → Thread) : (s.onLanes key m f).hostCores = s.hostCores := rfl
@[simp] theorem State.onLanes_guests (s : State) (key : Nat) (m : Mask) (f : Nat → Thread → Thread) : (s.onLanes key m f).guests = s.guests := rfl
@[simp] theorem State.onLanes_crossings (s : State) (key : Nat) (m : Mask) (f : Nat → Thread → Thread) : (s.onLanes key m f).crossings = s.crossings := rfl
@[simp] theorem State.onLanes_vlogs (s : State) (key : Nat) (m : Mask) (f : Nat → Thread → Thread) : (s.onLanes key m f).vlogs = s.vlogs := rfl
@[simp] theorem State.onLanes_ctrls (s : State) (key : Nat) (m : Mask) (f : Nat → Thread → Thread) : (s.onLanes key m f).ctrls = s.ctrls := rfl
@[simp] theorem State.onLanes_sec (s : State) (key : Nat) (m : Mask) (f : Nat → Thread → Thread) : (s.onLanes key m f).sec = s.sec := rfl
@[simp] theorem State.onLanes_hub (s : State) (key : Nat) (m : Mask) (f : Nat → Thread → Thread) : (s.onLanes key m f).hub = s.hub := rfl
@[simp] theorem State.onLanes_worlds (s : State) (key : Nat) (m : Mask) (f : Nat → Thread → Thread) : (s.onLanes key m f).worlds = s.worlds := rfl
@[simp] theorem State.onLanes_clearing (s : State) (key : Nat) (m : Mask) (f : Nat → Thread → Thread) : (s.onLanes key m f).clearing = s.clearing := rfl
@[simp] theorem State.onLanes_dirtyRows (s : State) (key : Nat) (m : Mask) (f : Nat → Thread → Thread) : (s.onLanes key m f).dirtyRows = s.dirtyRows := rfl
@[simp] theorem State.onLanes_checked (s : State) (key : Nat) (m : Mask) (f : Nat → Thread → Thread) : (s.onLanes key m f).checked = s.checked := rfl
@[simp] theorem State.onLanes_leaseNs (s : State) (key : Nat) (m : Mask) (f : Nat → Thread → Thread) : (s.onLanes key m f).leaseNs = s.leaseNs := rfl
@[simp] theorem State.onLanes_marginNs (s : State) (key : Nat) (m : Mask) (f : Nat → Thread → Thread) : (s.onLanes key m f).marginNs = s.marginNs := rfl
@[simp] theorem State.onLanes_snapArmed (s : State) (key : Nat) (m : Mask) (f : Nat → Thread → Thread) : (s.onLanes key m f).snapArmed = s.snapArmed := rfl
@[simp] theorem State.onLanes_snapUser (s : State) (key : Nat) (m : Mask) (f : Nat → Thread → Thread) : (s.onLanes key m f).snapUser = s.snapUser := rfl
@[simp] theorem State.onLanes_snapPin (s : State) (key : Nat) (m : Mask) (f : Nat → Thread → Thread) : (s.onLanes key m f).snapPin = s.snapPin := rfl
@[simp] theorem State.onLanes_snapMc (s : State) (key : Nat) (m : Mask) (f : Nat → Thread → Thread) : (s.onLanes key m f).snapMc = s.snapMc := rfl
@[simp] theorem State.onLanes_snapCount (s : State) (key : Nat) (m : Mask) (f : Nat → Thread → Thread) : (s.onLanes key m f).snapCount = s.snapCount := rfl
@[simp] theorem State.onLanes_snaps (s : State) (key : Nat) (m : Mask) (f : Nat → Thread → Thread) : (s.onLanes key m f).snaps = s.snaps := rfl
@[simp] theorem State.onLanes_samples (s : State) (key : Nat) (m : Mask) (f : Nat → Thread → Thread) : (s.onLanes key m f).samples = s.samples := rfl
@[simp] theorem State.onLanes_issues (s : State) (key : Nat) (m : Mask) (f : Nat → Thread → Thread) : (s.onLanes key m f).issues = s.issues := rfl
@[simp] theorem State.onLanes_sampled (s : State) (key : Nat) (m : Mask) (f : Nat → Thread → Thread) : (s.onLanes key m f).sampled = s.sampled := rfl
@[simp] theorem State.onLanes_requested (s : State) (key : Nat) (m : Mask) (f : Nat → Thread → Thread) : (s.onLanes key m f).requested = s.requested := rfl

@[simp] theorem State.onThread_agenda (s : State) (key k : Nat) (f : Thread → Thread) : (s.onThread key k f).agenda = s.agenda := rfl
@[simp] theorem State.onThread_turn (s : State) (key k : Nat) (f : Thread → Thread) : (s.onThread key k f).turn = s.turn := rfl
@[simp] theorem State.onThread_cur (s : State) (key k : Nat) (f : Thread → Thread) : (s.onThread key k f).cur = s.cur := rfl
@[simp] theorem State.onThread_freeCtr (s : State) (key k : Nat) (f : Thread → Thread) : (s.onThread key k f).freeCtr = s.freeCtr := rfl
@[simp] theorem State.onThread_clock (s : State) (key k : Nat) (f : Thread → Thread) : (s.onThread key k f).clock = s.clock := rfl
@[simp] theorem State.onThread_gtime (s : State) (key k : Nat) (f : Thread → Thread) : (s.onThread key k f).gtime = s.gtime := rfl
@[simp] theorem State.onThread_released (s : State) (key k : Nat) (f : Thread → Thread) : (s.onThread key k f).released = s.released := rfl
@[simp] theorem State.onThread_bootStep (s : State) (key k : Nat) (f : Thread → Thread) : (s.onThread key k f).bootStep = s.bootStep := rfl
@[simp] theorem State.onThread_bootFailed (s : State) (key k : Nat) (f : Thread → Thread) : (s.onThread key k f).bootFailed = s.bootFailed := rfl
@[simp] theorem State.onThread_mem (s : State) (key k : Nat) (f : Thread → Thread) : (s.onThread key k f).mem = s.mem := rfl
@[simp] theorem State.onThread_poisonLines (s : State) (key k : Nat) (f : Thread → Thread) : (s.onThread key k f).poisonLines = s.poisonLines := rfl
@[simp] theorem State.onThread_lineWorld (s : State) (key k : Nat) (f : Thread → Thread) : (s.onThread key k f).lineWorld = s.lineWorld := rfl
@[simp] theorem State.onThread_seals (s : State) (key k : Nat) (f : Thread → Thread) : (s.onThread key k f).seals = s.seals := rfl
@[simp] theorem State.onThread_arrays (s : State) (key k : Nat) (f : Thread → Thread) : (s.onThread key k f).arrays = s.arrays := rfl
@[simp] theorem State.onThread_allocs (s : State) (key k : Nat) (f : Thread → Thread) : (s.onThread key k f).allocs = s.allocs := rfl
@[simp] theorem State.onThread_copies (s : State) (key k : Nat) (f : Thread → Thread) : (s.onThread key k f).copies = s.copies := rfl
@[simp] theorem State.onThread_loads (s : State) (key k : Nat) (f : Thread → Thread) : (s.onThread key k f).loads = s.loads := rfl
@[simp] theorem State.onThread_stores (s : State) (key k : Nat) (f : Thread → Thread) : (s.onThread key k f).stores = s.stores := rfl
@[simp] theorem State.onThread_atoms (s : State) (key k : Nat) (f : Thread → Thread) : (s.onThread key k f).atoms = s.atoms := rfl
@[simp] theorem State.onThread_acks (s : State) (key k : Nat) (f : Thread → Thread) : (s.onThread key k f).acks = s.acks := rfl
@[simp] theorem State.onThread_redseqs (s : State) (key k : Nat) (f : Thread → Thread) : (s.onThread key k f).redseqs = s.redseqs := rfl
@[simp] theorem State.onThread_leases (s : State) (key k : Nat) (f : Thread → Thread) : (s.onThread key k f).leases = s.leases := rfl
@[simp] theorem State.onThread_owned (s : State) (key k : Nat) (f : Thread → Thread) : (s.onThread key k f).owned = s.owned := rfl
@[simp] theorem State.onThread_hostLines (s : State) (key k : Nat) (f : Thread → Thread) : (s.onThread key k f).hostLines = s.hostLines := rfl
@[simp] theorem State.onThread_hostWaiting (s : State) (key k : Nat) (f : Thread → Thread) : (s.onThread key k f).hostWaiting = s.hostWaiting := rfl
@[simp] theorem State.onThread_snooping (s : State) (key k : Nat) (f : Thread → Thread) : (s.onThread key k f).snooping = s.snooping := rfl
@[simp] theorem State.onThread_releasing (s : State) (key k : Nat) (f : Thread → Thread) : (s.onThread key k f).releasing = s.releasing := rfl
@[simp] theorem State.onThread_placedAt (s : State) (key k : Nat) (f : Thread → Thread) : (s.onThread key k f).placedAt = s.placedAt := rfl
@[simp] theorem State.onThread_platform (s : State) (key k : Nat) (f : Thread → Thread) : (s.onThread key k f).platform = s.platform := rfl
@[simp] theorem State.onThread_tlb (s : State) (key k : Nat) (f : Thread → Thread) : (s.onThread key k f).tlb = s.tlb := rfl
@[simp] theorem State.onThread_icache (s : State) (key k : Nat) (f : Thread → Thread) : (s.onThread key k f).icache = s.icache := rfl
@[simp] theorem State.onThread_oplog (s : State) (key k : Nat) (f : Thread → Thread) : (s.onThread key k f).oplog = s.oplog := rfl
@[simp] theorem State.onThread_faults (s : State) (key k : Nat) (f : Thread → Thread) : (s.onThread key k f).faults = s.faults := rfl
@[simp] theorem State.onThread_launches (s : State) (key k : Nat) (f : Thread → Thread) : (s.onThread key k f).launches = s.launches := rfl
@[simp] theorem State.onThread_dies (s : State) (key k : Nat) (f : Thread → Thread) : (s.onThread key k f).dies = s.dies := rfl
@[simp] theorem State.onThread_saved (s : State) (key k : Nat) (f : Thread → Thread) : (s.onThread key k f).saved = s.saved := rfl
@[simp] theorem State.onThread_groupRounds (s : State) (key k : Nat) (f : Thread → Thread) : (s.onThread key k f).groupRounds = s.groupRounds := rfl
@[simp] theorem State.onThread_gredws (s : State) (key k : Nat) (f : Thread → Thread) : (s.onThread key k f).gredws = s.gredws := rfl
@[simp] theorem State.onThread_greds (s : State) (key k : Nat) (f : Thread → Thread) : (s.onThread key k f).greds = s.greds := rfl
@[simp] theorem State.onThread_dirty (s : State) (key k : Nat) (f : Thread → Thread) : (s.onThread key k f).dirty = s.dirty := rfl
@[simp] theorem State.onThread_recent (s : State) (key k : Nat) (f : Thread → Thread) : (s.onThread key k f).recent = s.recent := rfl
@[simp] theorem State.onThread_coreHzn (s : State) (key k : Nat) (f : Thread → Thread) : (s.onThread key k f).coreHzn = s.coreHzn := rfl
@[simp] theorem State.onThread_cbs (s : State) (key k : Nat) (f : Thread → Thread) : (s.onThread key k f).cbs = s.cbs := rfl
@[simp] theorem State.onThread_rings (s : State) (key k : Nat) (f : Thread → Thread) : (s.onThread key k f).rings = s.rings := rfl
@[simp] theorem State.onThread_heaps (s : State) (key k : Nat) (f : Thread → Thread) : (s.onThread key k f).heaps = s.heaps := rfl
@[simp] theorem State.onThread_cycles (s : State) (key k : Nat) (f : Thread → Thread) : (s.onThread key k f).cycles = s.cycles := rfl
@[simp] theorem State.onThread_migrations (s : State) (key k : Nat) (f : Thread → Thread) : (s.onThread key k f).migrations = s.migrations := rfl
@[simp] theorem State.onThread_moveErrors (s : State) (key k : Nat) (f : Thread → Thread) : (s.onThread key k f).moveErrors = s.moveErrors := rfl
@[simp] theorem State.onThread_hostThreads (s : State) (key k : Nat) (f : Thread → Thread) : (s.onThread key k f).hostThreads = s.hostThreads := rfl
@[simp] theorem State.onThread_hostCores (s : State) (key k : Nat) (f : Thread → Thread) : (s.onThread key k f).hostCores = s.hostCores := rfl
@[simp] theorem State.onThread_guests (s : State) (key k : Nat) (f : Thread → Thread) : (s.onThread key k f).guests = s.guests := rfl
@[simp] theorem State.onThread_crossings (s : State) (key k : Nat) (f : Thread → Thread) : (s.onThread key k f).crossings = s.crossings := rfl
@[simp] theorem State.onThread_vlogs (s : State) (key k : Nat) (f : Thread → Thread) : (s.onThread key k f).vlogs = s.vlogs := rfl
@[simp] theorem State.onThread_ctrls (s : State) (key k : Nat) (f : Thread → Thread) : (s.onThread key k f).ctrls = s.ctrls := rfl
@[simp] theorem State.onThread_sec (s : State) (key k : Nat) (f : Thread → Thread) : (s.onThread key k f).sec = s.sec := rfl
@[simp] theorem State.onThread_hub (s : State) (key k : Nat) (f : Thread → Thread) : (s.onThread key k f).hub = s.hub := rfl
@[simp] theorem State.onThread_worlds (s : State) (key k : Nat) (f : Thread → Thread) : (s.onThread key k f).worlds = s.worlds := rfl
@[simp] theorem State.onThread_clearing (s : State) (key k : Nat) (f : Thread → Thread) : (s.onThread key k f).clearing = s.clearing := rfl
@[simp] theorem State.onThread_dirtyRows (s : State) (key k : Nat) (f : Thread → Thread) : (s.onThread key k f).dirtyRows = s.dirtyRows := rfl
@[simp] theorem State.onThread_checked (s : State) (key k : Nat) (f : Thread → Thread) : (s.onThread key k f).checked = s.checked := rfl
@[simp] theorem State.onThread_leaseNs (s : State) (key k : Nat) (f : Thread → Thread) : (s.onThread key k f).leaseNs = s.leaseNs := rfl
@[simp] theorem State.onThread_marginNs (s : State) (key k : Nat) (f : Thread → Thread) : (s.onThread key k f).marginNs = s.marginNs := rfl
@[simp] theorem State.onThread_snapArmed (s : State) (key k : Nat) (f : Thread → Thread) : (s.onThread key k f).snapArmed = s.snapArmed := rfl
@[simp] theorem State.onThread_snapUser (s : State) (key k : Nat) (f : Thread → Thread) : (s.onThread key k f).snapUser = s.snapUser := rfl
@[simp] theorem State.onThread_snapPin (s : State) (key k : Nat) (f : Thread → Thread) : (s.onThread key k f).snapPin = s.snapPin := rfl
@[simp] theorem State.onThread_snapMc (s : State) (key k : Nat) (f : Thread → Thread) : (s.onThread key k f).snapMc = s.snapMc := rfl
@[simp] theorem State.onThread_snapCount (s : State) (key k : Nat) (f : Thread → Thread) : (s.onThread key k f).snapCount = s.snapCount := rfl
@[simp] theorem State.onThread_snaps (s : State) (key k : Nat) (f : Thread → Thread) : (s.onThread key k f).snaps = s.snaps := rfl
@[simp] theorem State.onThread_samples (s : State) (key k : Nat) (f : Thread → Thread) : (s.onThread key k f).samples = s.samples := rfl
@[simp] theorem State.onThread_issues (s : State) (key k : Nat) (f : Thread → Thread) : (s.onThread key k f).issues = s.issues := rfl
@[simp] theorem State.onThread_sampled (s : State) (key k : Nat) (f : Thread → Thread) : (s.onThread key k f).sampled = s.sampled := rfl
@[simp] theorem State.onThread_requested (s : State) (key k : Nat) (f : Thread → Thread) : (s.onThread key k f).requested = s.requested := rfl

@[simp] theorem State.advance_agenda (s : State) (stall : Nat) (yld : Bool) : (s.advance stall yld).agenda = s.agenda := rfl
@[simp] theorem State.advance_turn (s : State) (stall : Nat) (yld : Bool) : (s.advance stall yld).turn = s.turn := rfl
@[simp] theorem State.advance_cur (s : State) (stall : Nat) (yld : Bool) : (s.advance stall yld).cur = s.cur := rfl
@[simp] theorem State.advance_freeCtr (s : State) (stall : Nat) (yld : Bool) : (s.advance stall yld).freeCtr = s.freeCtr := rfl
@[simp] theorem State.advance_clock (s : State) (stall : Nat) (yld : Bool) : (s.advance stall yld).clock = s.clock := rfl
@[simp] theorem State.advance_gtime (s : State) (stall : Nat) (yld : Bool) : (s.advance stall yld).gtime = s.gtime := rfl
@[simp] theorem State.advance_released (s : State) (stall : Nat) (yld : Bool) : (s.advance stall yld).released = s.released := rfl
@[simp] theorem State.advance_bootStep (s : State) (stall : Nat) (yld : Bool) : (s.advance stall yld).bootStep = s.bootStep := rfl
@[simp] theorem State.advance_bootFailed (s : State) (stall : Nat) (yld : Bool) : (s.advance stall yld).bootFailed = s.bootFailed := rfl
@[simp] theorem State.advance_mem (s : State) (stall : Nat) (yld : Bool) : (s.advance stall yld).mem = s.mem := rfl
@[simp] theorem State.advance_poisonLines (s : State) (stall : Nat) (yld : Bool) : (s.advance stall yld).poisonLines = s.poisonLines := rfl
@[simp] theorem State.advance_lineWorld (s : State) (stall : Nat) (yld : Bool) : (s.advance stall yld).lineWorld = s.lineWorld := rfl
@[simp] theorem State.advance_seals (s : State) (stall : Nat) (yld : Bool) : (s.advance stall yld).seals = s.seals := rfl
@[simp] theorem State.advance_arrays (s : State) (stall : Nat) (yld : Bool) : (s.advance stall yld).arrays = s.arrays := rfl
@[simp] theorem State.advance_allocs (s : State) (stall : Nat) (yld : Bool) : (s.advance stall yld).allocs = s.allocs := rfl
@[simp] theorem State.advance_copies (s : State) (stall : Nat) (yld : Bool) : (s.advance stall yld).copies = s.copies := rfl
@[simp] theorem State.advance_loads (s : State) (stall : Nat) (yld : Bool) : (s.advance stall yld).loads = s.loads := rfl
@[simp] theorem State.advance_stores (s : State) (stall : Nat) (yld : Bool) : (s.advance stall yld).stores = s.stores := rfl
@[simp] theorem State.advance_atoms (s : State) (stall : Nat) (yld : Bool) : (s.advance stall yld).atoms = s.atoms := rfl
@[simp] theorem State.advance_acks (s : State) (stall : Nat) (yld : Bool) : (s.advance stall yld).acks = s.acks := rfl
@[simp] theorem State.advance_redseqs (s : State) (stall : Nat) (yld : Bool) : (s.advance stall yld).redseqs = s.redseqs := rfl
@[simp] theorem State.advance_leases (s : State) (stall : Nat) (yld : Bool) : (s.advance stall yld).leases = s.leases := rfl
@[simp] theorem State.advance_owned (s : State) (stall : Nat) (yld : Bool) : (s.advance stall yld).owned = s.owned := rfl
@[simp] theorem State.advance_hostLines (s : State) (stall : Nat) (yld : Bool) : (s.advance stall yld).hostLines = s.hostLines := rfl
@[simp] theorem State.advance_hostWaiting (s : State) (stall : Nat) (yld : Bool) : (s.advance stall yld).hostWaiting = s.hostWaiting := rfl
@[simp] theorem State.advance_snooping (s : State) (stall : Nat) (yld : Bool) : (s.advance stall yld).snooping = s.snooping := rfl
@[simp] theorem State.advance_releasing (s : State) (stall : Nat) (yld : Bool) : (s.advance stall yld).releasing = s.releasing := rfl
@[simp] theorem State.advance_placedAt (s : State) (stall : Nat) (yld : Bool) : (s.advance stall yld).placedAt = s.placedAt := rfl
@[simp] theorem State.advance_platform (s : State) (stall : Nat) (yld : Bool) : (s.advance stall yld).platform = s.platform := rfl
@[simp] theorem State.advance_tlb (s : State) (stall : Nat) (yld : Bool) : (s.advance stall yld).tlb = s.tlb := rfl
@[simp] theorem State.advance_icache (s : State) (stall : Nat) (yld : Bool) : (s.advance stall yld).icache = s.icache := rfl
@[simp] theorem State.advance_oplog (s : State) (stall : Nat) (yld : Bool) : (s.advance stall yld).oplog = s.oplog := rfl
@[simp] theorem State.advance_faults (s : State) (stall : Nat) (yld : Bool) : (s.advance stall yld).faults = s.faults := rfl
@[simp] theorem State.advance_launches (s : State) (stall : Nat) (yld : Bool) : (s.advance stall yld).launches = s.launches := rfl
@[simp] theorem State.advance_dies (s : State) (stall : Nat) (yld : Bool) : (s.advance stall yld).dies = s.dies := rfl
@[simp] theorem State.advance_saved (s : State) (stall : Nat) (yld : Bool) : (s.advance stall yld).saved = s.saved := rfl
@[simp] theorem State.advance_groupRounds (s : State) (stall : Nat) (yld : Bool) : (s.advance stall yld).groupRounds = s.groupRounds := rfl
@[simp] theorem State.advance_gredws (s : State) (stall : Nat) (yld : Bool) : (s.advance stall yld).gredws = s.gredws := rfl
@[simp] theorem State.advance_greds (s : State) (stall : Nat) (yld : Bool) : (s.advance stall yld).greds = s.greds := rfl
@[simp] theorem State.advance_dirty (s : State) (stall : Nat) (yld : Bool) : (s.advance stall yld).dirty = s.dirty := rfl
@[simp] theorem State.advance_recent (s : State) (stall : Nat) (yld : Bool) : (s.advance stall yld).recent = s.recent := rfl
@[simp] theorem State.advance_coreHzn (s : State) (stall : Nat) (yld : Bool) : (s.advance stall yld).coreHzn = s.coreHzn := rfl
@[simp] theorem State.advance_cbs (s : State) (stall : Nat) (yld : Bool) : (s.advance stall yld).cbs = s.cbs := rfl
@[simp] theorem State.advance_rings (s : State) (stall : Nat) (yld : Bool) : (s.advance stall yld).rings = s.rings := rfl
@[simp] theorem State.advance_heaps (s : State) (stall : Nat) (yld : Bool) : (s.advance stall yld).heaps = s.heaps := rfl
@[simp] theorem State.advance_cycles (s : State) (stall : Nat) (yld : Bool) : (s.advance stall yld).cycles = s.cycles := rfl
@[simp] theorem State.advance_migrations (s : State) (stall : Nat) (yld : Bool) : (s.advance stall yld).migrations = s.migrations := rfl
@[simp] theorem State.advance_moveErrors (s : State) (stall : Nat) (yld : Bool) : (s.advance stall yld).moveErrors = s.moveErrors := rfl
@[simp] theorem State.advance_hostThreads (s : State) (stall : Nat) (yld : Bool) : (s.advance stall yld).hostThreads = s.hostThreads := rfl
@[simp] theorem State.advance_hostCores (s : State) (stall : Nat) (yld : Bool) : (s.advance stall yld).hostCores = s.hostCores := rfl
@[simp] theorem State.advance_guests (s : State) (stall : Nat) (yld : Bool) : (s.advance stall yld).guests = s.guests := rfl
@[simp] theorem State.advance_crossings (s : State) (stall : Nat) (yld : Bool) : (s.advance stall yld).crossings = s.crossings := rfl
@[simp] theorem State.advance_vlogs (s : State) (stall : Nat) (yld : Bool) : (s.advance stall yld).vlogs = s.vlogs := rfl
@[simp] theorem State.advance_ctrls (s : State) (stall : Nat) (yld : Bool) : (s.advance stall yld).ctrls = s.ctrls := rfl
@[simp] theorem State.advance_sec (s : State) (stall : Nat) (yld : Bool) : (s.advance stall yld).sec = s.sec := rfl
@[simp] theorem State.advance_hub (s : State) (stall : Nat) (yld : Bool) : (s.advance stall yld).hub = s.hub := rfl
@[simp] theorem State.advance_worlds (s : State) (stall : Nat) (yld : Bool) : (s.advance stall yld).worlds = s.worlds := rfl
@[simp] theorem State.advance_clearing (s : State) (stall : Nat) (yld : Bool) : (s.advance stall yld).clearing = s.clearing := rfl
@[simp] theorem State.advance_dirtyRows (s : State) (stall : Nat) (yld : Bool) : (s.advance stall yld).dirtyRows = s.dirtyRows := rfl
@[simp] theorem State.advance_checked (s : State) (stall : Nat) (yld : Bool) : (s.advance stall yld).checked = s.checked := rfl
@[simp] theorem State.advance_leaseNs (s : State) (stall : Nat) (yld : Bool) : (s.advance stall yld).leaseNs = s.leaseNs := rfl
@[simp] theorem State.advance_marginNs (s : State) (stall : Nat) (yld : Bool) : (s.advance stall yld).marginNs = s.marginNs := rfl
@[simp] theorem State.advance_snapArmed (s : State) (stall : Nat) (yld : Bool) : (s.advance stall yld).snapArmed = s.snapArmed := rfl
@[simp] theorem State.advance_snapUser (s : State) (stall : Nat) (yld : Bool) : (s.advance stall yld).snapUser = s.snapUser := rfl
@[simp] theorem State.advance_snapPin (s : State) (stall : Nat) (yld : Bool) : (s.advance stall yld).snapPin = s.snapPin := rfl
@[simp] theorem State.advance_snapMc (s : State) (stall : Nat) (yld : Bool) : (s.advance stall yld).snapMc = s.snapMc := rfl
@[simp] theorem State.advance_snapCount (s : State) (stall : Nat) (yld : Bool) : (s.advance stall yld).snapCount = s.snapCount := rfl
@[simp] theorem State.advance_snaps (s : State) (stall : Nat) (yld : Bool) : (s.advance stall yld).snaps = s.snaps := rfl
@[simp] theorem State.advance_samples (s : State) (stall : Nat) (yld : Bool) : (s.advance stall yld).samples = s.samples := rfl
@[simp] theorem State.advance_issues (s : State) (stall : Nat) (yld : Bool) : (s.advance stall yld).issues = s.issues := rfl
@[simp] theorem State.advance_sampled (s : State) (stall : Nat) (yld : Bool) : (s.advance stall yld).sampled = s.sampled := rfl
@[simp] theorem State.advance_requested (s : State) (stall : Nat) (yld : Bool) : (s.advance stall yld).requested = s.requested := rfl

@[simp] theorem State.split_agenda (s : State) : (s.split).agenda = s.agenda := rfl
@[simp] theorem State.split_turn (s : State) : (s.split).turn = s.turn := rfl
@[simp] theorem State.split_cur (s : State) : (s.split).cur = s.cur := rfl
@[simp] theorem State.split_freeCtr (s : State) : (s.split).freeCtr = s.freeCtr := rfl
@[simp] theorem State.split_clock (s : State) : (s.split).clock = s.clock := rfl
@[simp] theorem State.split_gtime (s : State) : (s.split).gtime = s.gtime := rfl
@[simp] theorem State.split_released (s : State) : (s.split).released = s.released := rfl
@[simp] theorem State.split_bootStep (s : State) : (s.split).bootStep = s.bootStep := rfl
@[simp] theorem State.split_bootFailed (s : State) : (s.split).bootFailed = s.bootFailed := rfl
@[simp] theorem State.split_mem (s : State) : (s.split).mem = s.mem := rfl
@[simp] theorem State.split_poisonLines (s : State) : (s.split).poisonLines = s.poisonLines := rfl
@[simp] theorem State.split_lineWorld (s : State) : (s.split).lineWorld = s.lineWorld := rfl
@[simp] theorem State.split_seals (s : State) : (s.split).seals = s.seals := rfl
@[simp] theorem State.split_arrays (s : State) : (s.split).arrays = s.arrays := rfl
@[simp] theorem State.split_allocs (s : State) : (s.split).allocs = s.allocs := rfl
@[simp] theorem State.split_copies (s : State) : (s.split).copies = s.copies := rfl
@[simp] theorem State.split_loads (s : State) : (s.split).loads = s.loads := rfl
@[simp] theorem State.split_stores (s : State) : (s.split).stores = s.stores := rfl
@[simp] theorem State.split_atoms (s : State) : (s.split).atoms = s.atoms := rfl
@[simp] theorem State.split_acks (s : State) : (s.split).acks = s.acks := rfl
@[simp] theorem State.split_redseqs (s : State) : (s.split).redseqs = s.redseqs := rfl
@[simp] theorem State.split_leases (s : State) : (s.split).leases = s.leases := rfl
@[simp] theorem State.split_owned (s : State) : (s.split).owned = s.owned := rfl
@[simp] theorem State.split_hostLines (s : State) : (s.split).hostLines = s.hostLines := rfl
@[simp] theorem State.split_hostWaiting (s : State) : (s.split).hostWaiting = s.hostWaiting := rfl
@[simp] theorem State.split_snooping (s : State) : (s.split).snooping = s.snooping := rfl
@[simp] theorem State.split_releasing (s : State) : (s.split).releasing = s.releasing := rfl
@[simp] theorem State.split_placedAt (s : State) : (s.split).placedAt = s.placedAt := rfl
@[simp] theorem State.split_platform (s : State) : (s.split).platform = s.platform := rfl
@[simp] theorem State.split_tlb (s : State) : (s.split).tlb = s.tlb := rfl
@[simp] theorem State.split_icache (s : State) : (s.split).icache = s.icache := rfl
@[simp] theorem State.split_oplog (s : State) : (s.split).oplog = s.oplog := rfl
@[simp] theorem State.split_faults (s : State) : (s.split).faults = s.faults := rfl
@[simp] theorem State.split_launches (s : State) : (s.split).launches = s.launches := rfl
@[simp] theorem State.split_dies (s : State) : (s.split).dies = s.dies := rfl
@[simp] theorem State.split_saved (s : State) : (s.split).saved = s.saved := rfl
@[simp] theorem State.split_groupRounds (s : State) : (s.split).groupRounds = s.groupRounds := rfl
@[simp] theorem State.split_gredws (s : State) : (s.split).gredws = s.gredws := rfl
@[simp] theorem State.split_greds (s : State) : (s.split).greds = s.greds := rfl
@[simp] theorem State.split_dirty (s : State) : (s.split).dirty = s.dirty := rfl
@[simp] theorem State.split_recent (s : State) : (s.split).recent = s.recent := rfl
@[simp] theorem State.split_coreHzn (s : State) : (s.split).coreHzn = s.coreHzn := rfl
@[simp] theorem State.split_cbs (s : State) : (s.split).cbs = s.cbs := rfl
@[simp] theorem State.split_rings (s : State) : (s.split).rings = s.rings := rfl
@[simp] theorem State.split_heaps (s : State) : (s.split).heaps = s.heaps := rfl
@[simp] theorem State.split_cycles (s : State) : (s.split).cycles = s.cycles := rfl
@[simp] theorem State.split_migrations (s : State) : (s.split).migrations = s.migrations := rfl
@[simp] theorem State.split_moveErrors (s : State) : (s.split).moveErrors = s.moveErrors := rfl
@[simp] theorem State.split_hostThreads (s : State) : (s.split).hostThreads = s.hostThreads := rfl
@[simp] theorem State.split_hostCores (s : State) : (s.split).hostCores = s.hostCores := rfl
@[simp] theorem State.split_guests (s : State) : (s.split).guests = s.guests := rfl
@[simp] theorem State.split_crossings (s : State) : (s.split).crossings = s.crossings := rfl
@[simp] theorem State.split_vlogs (s : State) : (s.split).vlogs = s.vlogs := rfl
@[simp] theorem State.split_ctrls (s : State) : (s.split).ctrls = s.ctrls := rfl
@[simp] theorem State.split_sec (s : State) : (s.split).sec = s.sec := rfl
@[simp] theorem State.split_hub (s : State) : (s.split).hub = s.hub := rfl
@[simp] theorem State.split_worlds (s : State) : (s.split).worlds = s.worlds := rfl
@[simp] theorem State.split_clearing (s : State) : (s.split).clearing = s.clearing := rfl
@[simp] theorem State.split_dirtyRows (s : State) : (s.split).dirtyRows = s.dirtyRows := rfl
@[simp] theorem State.split_checked (s : State) : (s.split).checked = s.checked := rfl
@[simp] theorem State.split_leaseNs (s : State) : (s.split).leaseNs = s.leaseNs := rfl
@[simp] theorem State.split_marginNs (s : State) : (s.split).marginNs = s.marginNs := rfl
@[simp] theorem State.split_snapArmed (s : State) : (s.split).snapArmed = s.snapArmed := rfl
@[simp] theorem State.split_snapUser (s : State) : (s.split).snapUser = s.snapUser := rfl
@[simp] theorem State.split_snapPin (s : State) : (s.split).snapPin = s.snapPin := rfl
@[simp] theorem State.split_snapMc (s : State) : (s.split).snapMc = s.snapMc := rfl
@[simp] theorem State.split_snapCount (s : State) : (s.split).snapCount = s.snapCount := rfl
@[simp] theorem State.split_snaps (s : State) : (s.split).snaps = s.snaps := rfl
@[simp] theorem State.split_samples (s : State) : (s.split).samples = s.samples := rfl
@[simp] theorem State.split_issues (s : State) : (s.split).issues = s.issues := rfl
@[simp] theorem State.split_sampled (s : State) : (s.split).sampled = s.sampled := rfl
@[simp] theorem State.split_requested (s : State) : (s.split).requested = s.requested := rfl

@[simp] theorem State.tokens_agenda (s : State) (i : Instr) : (s.tokens i).agenda = s.agenda := by unfold State.tokens; split <;> rfl
@[simp] theorem State.tokens_turn (s : State) (i : Instr) : (s.tokens i).turn = s.turn := by unfold State.tokens; split <;> rfl
@[simp] theorem State.tokens_cur (s : State) (i : Instr) : (s.tokens i).cur = s.cur := by unfold State.tokens; split <;> rfl
@[simp] theorem State.tokens_freeCtr (s : State) (i : Instr) : (s.tokens i).freeCtr = s.freeCtr := by unfold State.tokens; split <;> rfl
@[simp] theorem State.tokens_clock (s : State) (i : Instr) : (s.tokens i).clock = s.clock := by unfold State.tokens; split <;> rfl
@[simp] theorem State.tokens_gtime (s : State) (i : Instr) : (s.tokens i).gtime = s.gtime := by unfold State.tokens; split <;> rfl
@[simp] theorem State.tokens_released (s : State) (i : Instr) : (s.tokens i).released = s.released := by unfold State.tokens; split <;> rfl
@[simp] theorem State.tokens_bootStep (s : State) (i : Instr) : (s.tokens i).bootStep = s.bootStep := by unfold State.tokens; split <;> rfl
@[simp] theorem State.tokens_bootFailed (s : State) (i : Instr) : (s.tokens i).bootFailed = s.bootFailed := by unfold State.tokens; split <;> rfl
@[simp] theorem State.tokens_mem (s : State) (i : Instr) : (s.tokens i).mem = s.mem := by unfold State.tokens; split <;> rfl
@[simp] theorem State.tokens_poisonLines (s : State) (i : Instr) : (s.tokens i).poisonLines = s.poisonLines := by unfold State.tokens; split <;> rfl
@[simp] theorem State.tokens_lineWorld (s : State) (i : Instr) : (s.tokens i).lineWorld = s.lineWorld := by unfold State.tokens; split <;> rfl
@[simp] theorem State.tokens_seals (s : State) (i : Instr) : (s.tokens i).seals = s.seals := by unfold State.tokens; split <;> rfl
@[simp] theorem State.tokens_arrays (s : State) (i : Instr) : (s.tokens i).arrays = s.arrays := by unfold State.tokens; split <;> rfl
@[simp] theorem State.tokens_allocs (s : State) (i : Instr) : (s.tokens i).allocs = s.allocs := by unfold State.tokens; split <;> rfl
@[simp] theorem State.tokens_copies (s : State) (i : Instr) : (s.tokens i).copies = s.copies := by unfold State.tokens; split <;> rfl
@[simp] theorem State.tokens_loads (s : State) (i : Instr) : (s.tokens i).loads = s.loads := by unfold State.tokens; split <;> rfl
@[simp] theorem State.tokens_stores (s : State) (i : Instr) : (s.tokens i).stores = s.stores := by unfold State.tokens; split <;> rfl
@[simp] theorem State.tokens_atoms (s : State) (i : Instr) : (s.tokens i).atoms = s.atoms := by unfold State.tokens; split <;> rfl
@[simp] theorem State.tokens_acks (s : State) (i : Instr) : (s.tokens i).acks = s.acks := by unfold State.tokens; split <;> rfl
@[simp] theorem State.tokens_redseqs (s : State) (i : Instr) : (s.tokens i).redseqs = s.redseqs := by unfold State.tokens; split <;> rfl
@[simp] theorem State.tokens_leases (s : State) (i : Instr) : (s.tokens i).leases = s.leases := by unfold State.tokens; split <;> rfl
@[simp] theorem State.tokens_owned (s : State) (i : Instr) : (s.tokens i).owned = s.owned := by unfold State.tokens; split <;> rfl
@[simp] theorem State.tokens_hostLines (s : State) (i : Instr) : (s.tokens i).hostLines = s.hostLines := by unfold State.tokens; split <;> rfl
@[simp] theorem State.tokens_hostWaiting (s : State) (i : Instr) : (s.tokens i).hostWaiting = s.hostWaiting := by unfold State.tokens; split <;> rfl
@[simp] theorem State.tokens_snooping (s : State) (i : Instr) : (s.tokens i).snooping = s.snooping := by unfold State.tokens; split <;> rfl
@[simp] theorem State.tokens_releasing (s : State) (i : Instr) : (s.tokens i).releasing = s.releasing := by unfold State.tokens; split <;> rfl
@[simp] theorem State.tokens_placedAt (s : State) (i : Instr) : (s.tokens i).placedAt = s.placedAt := by unfold State.tokens; split <;> rfl
@[simp] theorem State.tokens_platform (s : State) (i : Instr) : (s.tokens i).platform = s.platform := by unfold State.tokens; split <;> rfl
@[simp] theorem State.tokens_tlb (s : State) (i : Instr) : (s.tokens i).tlb = s.tlb := by unfold State.tokens; split <;> rfl
@[simp] theorem State.tokens_icache (s : State) (i : Instr) : (s.tokens i).icache = s.icache := by unfold State.tokens; split <;> rfl
@[simp] theorem State.tokens_oplog (s : State) (i : Instr) : (s.tokens i).oplog = s.oplog := by unfold State.tokens; split <;> rfl
@[simp] theorem State.tokens_faults (s : State) (i : Instr) : (s.tokens i).faults = s.faults := by unfold State.tokens; split <;> rfl
@[simp] theorem State.tokens_launches (s : State) (i : Instr) : (s.tokens i).launches = s.launches := by unfold State.tokens; split <;> rfl
@[simp] theorem State.tokens_dies (s : State) (i : Instr) : (s.tokens i).dies = s.dies := by unfold State.tokens; split <;> rfl
@[simp] theorem State.tokens_saved (s : State) (i : Instr) : (s.tokens i).saved = s.saved := by unfold State.tokens; split <;> rfl
@[simp] theorem State.tokens_groupRounds (s : State) (i : Instr) : (s.tokens i).groupRounds = s.groupRounds := by unfold State.tokens; split <;> rfl
@[simp] theorem State.tokens_gredws (s : State) (i : Instr) : (s.tokens i).gredws = s.gredws := by unfold State.tokens; split <;> rfl
@[simp] theorem State.tokens_greds (s : State) (i : Instr) : (s.tokens i).greds = s.greds := by unfold State.tokens; split <;> rfl
@[simp] theorem State.tokens_dirty (s : State) (i : Instr) : (s.tokens i).dirty = s.dirty := by unfold State.tokens; split <;> rfl
@[simp] theorem State.tokens_recent (s : State) (i : Instr) : (s.tokens i).recent = s.recent := by unfold State.tokens; split <;> rfl
@[simp] theorem State.tokens_coreHzn (s : State) (i : Instr) : (s.tokens i).coreHzn = s.coreHzn := by unfold State.tokens; split <;> rfl
@[simp] theorem State.tokens_cbs (s : State) (i : Instr) : (s.tokens i).cbs = s.cbs := by unfold State.tokens; split <;> rfl
@[simp] theorem State.tokens_rings (s : State) (i : Instr) : (s.tokens i).rings = s.rings := by unfold State.tokens; split <;> rfl
@[simp] theorem State.tokens_heaps (s : State) (i : Instr) : (s.tokens i).heaps = s.heaps := by unfold State.tokens; split <;> rfl
@[simp] theorem State.tokens_cycles (s : State) (i : Instr) : (s.tokens i).cycles = s.cycles := by unfold State.tokens; split <;> rfl
@[simp] theorem State.tokens_migrations (s : State) (i : Instr) : (s.tokens i).migrations = s.migrations := by unfold State.tokens; split <;> rfl
@[simp] theorem State.tokens_moveErrors (s : State) (i : Instr) : (s.tokens i).moveErrors = s.moveErrors := by unfold State.tokens; split <;> rfl
@[simp] theorem State.tokens_hostThreads (s : State) (i : Instr) : (s.tokens i).hostThreads = s.hostThreads := by unfold State.tokens; split <;> rfl
@[simp] theorem State.tokens_hostCores (s : State) (i : Instr) : (s.tokens i).hostCores = s.hostCores := by unfold State.tokens; split <;> rfl
@[simp] theorem State.tokens_guests (s : State) (i : Instr) : (s.tokens i).guests = s.guests := by unfold State.tokens; split <;> rfl
@[simp] theorem State.tokens_crossings (s : State) (i : Instr) : (s.tokens i).crossings = s.crossings := by unfold State.tokens; split <;> rfl
@[simp] theorem State.tokens_vlogs (s : State) (i : Instr) : (s.tokens i).vlogs = s.vlogs := by unfold State.tokens; split <;> rfl
@[simp] theorem State.tokens_ctrls (s : State) (i : Instr) : (s.tokens i).ctrls = s.ctrls := by unfold State.tokens; split <;> rfl
@[simp] theorem State.tokens_sec (s : State) (i : Instr) : (s.tokens i).sec = s.sec := by unfold State.tokens; split <;> rfl
@[simp] theorem State.tokens_hub (s : State) (i : Instr) : (s.tokens i).hub = s.hub := by unfold State.tokens; split <;> rfl
@[simp] theorem State.tokens_worlds (s : State) (i : Instr) : (s.tokens i).worlds = s.worlds := by unfold State.tokens; split <;> rfl
@[simp] theorem State.tokens_clearing (s : State) (i : Instr) : (s.tokens i).clearing = s.clearing := by unfold State.tokens; split <;> rfl
@[simp] theorem State.tokens_dirtyRows (s : State) (i : Instr) : (s.tokens i).dirtyRows = s.dirtyRows := by unfold State.tokens; split <;> rfl
@[simp] theorem State.tokens_checked (s : State) (i : Instr) : (s.tokens i).checked = s.checked := by unfold State.tokens; split <;> rfl
@[simp] theorem State.tokens_leaseNs (s : State) (i : Instr) : (s.tokens i).leaseNs = s.leaseNs := by unfold State.tokens; split <;> rfl
@[simp] theorem State.tokens_marginNs (s : State) (i : Instr) : (s.tokens i).marginNs = s.marginNs := by unfold State.tokens; split <;> rfl
@[simp] theorem State.tokens_snapArmed (s : State) (i : Instr) : (s.tokens i).snapArmed = s.snapArmed := by unfold State.tokens; split <;> rfl
@[simp] theorem State.tokens_snapUser (s : State) (i : Instr) : (s.tokens i).snapUser = s.snapUser := by unfold State.tokens; split <;> rfl
@[simp] theorem State.tokens_snapPin (s : State) (i : Instr) : (s.tokens i).snapPin = s.snapPin := by unfold State.tokens; split <;> rfl
@[simp] theorem State.tokens_snapMc (s : State) (i : Instr) : (s.tokens i).snapMc = s.snapMc := by unfold State.tokens; split <;> rfl
@[simp] theorem State.tokens_snapCount (s : State) (i : Instr) : (s.tokens i).snapCount = s.snapCount := by unfold State.tokens; split <;> rfl
@[simp] theorem State.tokens_snaps (s : State) (i : Instr) : (s.tokens i).snaps = s.snaps := by unfold State.tokens; split <;> rfl
@[simp] theorem State.tokens_samples (s : State) (i : Instr) : (s.tokens i).samples = s.samples := by unfold State.tokens; split <;> rfl
@[simp] theorem State.tokens_issues (s : State) (i : Instr) : (s.tokens i).issues = s.issues := by unfold State.tokens; split <;> rfl
@[simp] theorem State.tokens_sampled (s : State) (i : Instr) : (s.tokens i).sampled = s.sampled := by unfold State.tokens; split <;> rfl
@[simp] theorem State.tokens_requested (s : State) (i : Instr) : (s.tokens i).requested = s.requested := by unfold State.tokens; split <;> rfl

@[simp] theorem State.begin_agenda (s : State) (c : Issue) : (s.begin c).agenda = s.agenda := rfl
@[simp] theorem State.begin_turn (s : State) (c : Issue) : (s.begin c).turn = s.turn := rfl
@[simp] theorem State.begin_freeCtr (s : State) (c : Issue) : (s.begin c).freeCtr = s.freeCtr := rfl
@[simp] theorem State.begin_clock (s : State) (c : Issue) : (s.begin c).clock = s.clock := rfl
@[simp] theorem State.begin_gtime (s : State) (c : Issue) : (s.begin c).gtime = s.gtime := rfl
@[simp] theorem State.begin_released (s : State) (c : Issue) : (s.begin c).released = s.released := rfl
@[simp] theorem State.begin_bootStep (s : State) (c : Issue) : (s.begin c).bootStep = s.bootStep := rfl
@[simp] theorem State.begin_bootFailed (s : State) (c : Issue) : (s.begin c).bootFailed = s.bootFailed := rfl
@[simp] theorem State.begin_mem (s : State) (c : Issue) : (s.begin c).mem = s.mem := rfl
@[simp] theorem State.begin_poisonLines (s : State) (c : Issue) : (s.begin c).poisonLines = s.poisonLines := rfl
@[simp] theorem State.begin_lineWorld (s : State) (c : Issue) : (s.begin c).lineWorld = s.lineWorld := rfl
@[simp] theorem State.begin_seals (s : State) (c : Issue) : (s.begin c).seals = s.seals := rfl
@[simp] theorem State.begin_arrays (s : State) (c : Issue) : (s.begin c).arrays = s.arrays := rfl
@[simp] theorem State.begin_allocs (s : State) (c : Issue) : (s.begin c).allocs = s.allocs := rfl
@[simp] theorem State.begin_copies (s : State) (c : Issue) : (s.begin c).copies = s.copies := rfl
@[simp] theorem State.begin_loads (s : State) (c : Issue) : (s.begin c).loads = s.loads := rfl
@[simp] theorem State.begin_stores (s : State) (c : Issue) : (s.begin c).stores = s.stores := rfl
@[simp] theorem State.begin_atoms (s : State) (c : Issue) : (s.begin c).atoms = s.atoms := rfl
@[simp] theorem State.begin_acks (s : State) (c : Issue) : (s.begin c).acks = s.acks := rfl
@[simp] theorem State.begin_redseqs (s : State) (c : Issue) : (s.begin c).redseqs = s.redseqs := rfl
@[simp] theorem State.begin_leases (s : State) (c : Issue) : (s.begin c).leases = s.leases := rfl
@[simp] theorem State.begin_owned (s : State) (c : Issue) : (s.begin c).owned = s.owned := rfl
@[simp] theorem State.begin_hostLines (s : State) (c : Issue) : (s.begin c).hostLines = s.hostLines := rfl
@[simp] theorem State.begin_hostWaiting (s : State) (c : Issue) : (s.begin c).hostWaiting = s.hostWaiting := rfl
@[simp] theorem State.begin_snooping (s : State) (c : Issue) : (s.begin c).snooping = s.snooping := rfl
@[simp] theorem State.begin_releasing (s : State) (c : Issue) : (s.begin c).releasing = s.releasing := rfl
@[simp] theorem State.begin_placedAt (s : State) (c : Issue) : (s.begin c).placedAt = s.placedAt := rfl
@[simp] theorem State.begin_platform (s : State) (c : Issue) : (s.begin c).platform = s.platform := rfl
@[simp] theorem State.begin_tlb (s : State) (c : Issue) : (s.begin c).tlb = s.tlb := rfl
@[simp] theorem State.begin_icache (s : State) (c : Issue) : (s.begin c).icache = s.icache := rfl
@[simp] theorem State.begin_oplog (s : State) (c : Issue) : (s.begin c).oplog = s.oplog := rfl
@[simp] theorem State.begin_faults (s : State) (c : Issue) : (s.begin c).faults = s.faults := rfl
@[simp] theorem State.begin_launches (s : State) (c : Issue) : (s.begin c).launches = s.launches := rfl
@[simp] theorem State.begin_dies (s : State) (c : Issue) : (s.begin c).dies = s.dies := rfl
@[simp] theorem State.begin_saved (s : State) (c : Issue) : (s.begin c).saved = s.saved := rfl
@[simp] theorem State.begin_groupRounds (s : State) (c : Issue) : (s.begin c).groupRounds = s.groupRounds := rfl
@[simp] theorem State.begin_gredws (s : State) (c : Issue) : (s.begin c).gredws = s.gredws := rfl
@[simp] theorem State.begin_greds (s : State) (c : Issue) : (s.begin c).greds = s.greds := rfl
@[simp] theorem State.begin_dirty (s : State) (c : Issue) : (s.begin c).dirty = s.dirty := rfl
@[simp] theorem State.begin_recent (s : State) (c : Issue) : (s.begin c).recent = s.recent := rfl
@[simp] theorem State.begin_coreHzn (s : State) (c : Issue) : (s.begin c).coreHzn = s.coreHzn := rfl
@[simp] theorem State.begin_cbs (s : State) (c : Issue) : (s.begin c).cbs = s.cbs := rfl
@[simp] theorem State.begin_rings (s : State) (c : Issue) : (s.begin c).rings = s.rings := rfl
@[simp] theorem State.begin_heaps (s : State) (c : Issue) : (s.begin c).heaps = s.heaps := rfl
@[simp] theorem State.begin_cycles (s : State) (c : Issue) : (s.begin c).cycles = s.cycles := rfl
@[simp] theorem State.begin_migrations (s : State) (c : Issue) : (s.begin c).migrations = s.migrations := rfl
@[simp] theorem State.begin_moveErrors (s : State) (c : Issue) : (s.begin c).moveErrors = s.moveErrors := rfl
@[simp] theorem State.begin_hostThreads (s : State) (c : Issue) : (s.begin c).hostThreads = s.hostThreads := rfl
@[simp] theorem State.begin_hostCores (s : State) (c : Issue) : (s.begin c).hostCores = s.hostCores := rfl
@[simp] theorem State.begin_guests (s : State) (c : Issue) : (s.begin c).guests = s.guests := rfl
@[simp] theorem State.begin_crossings (s : State) (c : Issue) : (s.begin c).crossings = s.crossings := rfl
@[simp] theorem State.begin_vlogs (s : State) (c : Issue) : (s.begin c).vlogs = s.vlogs := rfl
@[simp] theorem State.begin_ctrls (s : State) (c : Issue) : (s.begin c).ctrls = s.ctrls := rfl
@[simp] theorem State.begin_sec (s : State) (c : Issue) : (s.begin c).sec = s.sec := rfl
@[simp] theorem State.begin_hub (s : State) (c : Issue) : (s.begin c).hub = s.hub := rfl
@[simp] theorem State.begin_worlds (s : State) (c : Issue) : (s.begin c).worlds = s.worlds := rfl
@[simp] theorem State.begin_clearing (s : State) (c : Issue) : (s.begin c).clearing = s.clearing := rfl
@[simp] theorem State.begin_dirtyRows (s : State) (c : Issue) : (s.begin c).dirtyRows = s.dirtyRows := rfl
@[simp] theorem State.begin_checked (s : State) (c : Issue) : (s.begin c).checked = s.checked := rfl
@[simp] theorem State.begin_leaseNs (s : State) (c : Issue) : (s.begin c).leaseNs = s.leaseNs := rfl
@[simp] theorem State.begin_marginNs (s : State) (c : Issue) : (s.begin c).marginNs = s.marginNs := rfl
@[simp] theorem State.begin_snapArmed (s : State) (c : Issue) : (s.begin c).snapArmed = s.snapArmed := rfl
@[simp] theorem State.begin_snapUser (s : State) (c : Issue) : (s.begin c).snapUser = s.snapUser := rfl
@[simp] theorem State.begin_snapPin (s : State) (c : Issue) : (s.begin c).snapPin = s.snapPin := rfl
@[simp] theorem State.begin_snapMc (s : State) (c : Issue) : (s.begin c).snapMc = s.snapMc := rfl
@[simp] theorem State.begin_snapCount (s : State) (c : Issue) : (s.begin c).snapCount = s.snapCount := rfl
@[simp] theorem State.begin_snaps (s : State) (c : Issue) : (s.begin c).snaps = s.snaps := rfl
@[simp] theorem State.begin_samples (s : State) (c : Issue) : (s.begin c).samples = s.samples := rfl
@[simp] theorem State.begin_sampled (s : State) (c : Issue) : (s.begin c).sampled = s.sampled := rfl
@[simp] theorem State.begin_requested (s : State) (c : Issue) : (s.begin c).requested = s.requested := rfl

@[simp] theorem State.turned_agenda (s : State) : (s.turned).agenda = s.agenda := rfl
@[simp] theorem State.turned_cur (s : State) : (s.turned).cur = s.cur := rfl
@[simp] theorem State.turned_freeCtr (s : State) : (s.turned).freeCtr = s.freeCtr := rfl
@[simp] theorem State.turned_clock (s : State) : (s.turned).clock = s.clock := rfl
@[simp] theorem State.turned_gtime (s : State) : (s.turned).gtime = s.gtime := rfl
@[simp] theorem State.turned_released (s : State) : (s.turned).released = s.released := rfl
@[simp] theorem State.turned_bootStep (s : State) : (s.turned).bootStep = s.bootStep := rfl
@[simp] theorem State.turned_bootFailed (s : State) : (s.turned).bootFailed = s.bootFailed := rfl
@[simp] theorem State.turned_mem (s : State) : (s.turned).mem = s.mem := rfl
@[simp] theorem State.turned_poisonLines (s : State) : (s.turned).poisonLines = s.poisonLines := rfl
@[simp] theorem State.turned_lineWorld (s : State) : (s.turned).lineWorld = s.lineWorld := rfl
@[simp] theorem State.turned_seals (s : State) : (s.turned).seals = s.seals := rfl
@[simp] theorem State.turned_gangs (s : State) : (s.turned).gangs = s.gangs := rfl
@[simp] theorem State.turned_arrays (s : State) : (s.turned).arrays = s.arrays := rfl
@[simp] theorem State.turned_allocs (s : State) : (s.turned).allocs = s.allocs := rfl
@[simp] theorem State.turned_copies (s : State) : (s.turned).copies = s.copies := rfl
@[simp] theorem State.turned_loads (s : State) : (s.turned).loads = s.loads := rfl
@[simp] theorem State.turned_stores (s : State) : (s.turned).stores = s.stores := rfl
@[simp] theorem State.turned_atoms (s : State) : (s.turned).atoms = s.atoms := rfl
@[simp] theorem State.turned_acks (s : State) : (s.turned).acks = s.acks := rfl
@[simp] theorem State.turned_redseqs (s : State) : (s.turned).redseqs = s.redseqs := rfl
@[simp] theorem State.turned_leases (s : State) : (s.turned).leases = s.leases := rfl
@[simp] theorem State.turned_owned (s : State) : (s.turned).owned = s.owned := rfl
@[simp] theorem State.turned_hostLines (s : State) : (s.turned).hostLines = s.hostLines := rfl
@[simp] theorem State.turned_hostWaiting (s : State) : (s.turned).hostWaiting = s.hostWaiting := rfl
@[simp] theorem State.turned_snooping (s : State) : (s.turned).snooping = s.snooping := rfl
@[simp] theorem State.turned_releasing (s : State) : (s.turned).releasing = s.releasing := rfl
@[simp] theorem State.turned_placedAt (s : State) : (s.turned).placedAt = s.placedAt := rfl
@[simp] theorem State.turned_platform (s : State) : (s.turned).platform = s.platform := rfl
@[simp] theorem State.turned_tlb (s : State) : (s.turned).tlb = s.tlb := rfl
@[simp] theorem State.turned_icache (s : State) : (s.turned).icache = s.icache := rfl
@[simp] theorem State.turned_oplog (s : State) : (s.turned).oplog = s.oplog := rfl
@[simp] theorem State.turned_faults (s : State) : (s.turned).faults = s.faults := rfl
@[simp] theorem State.turned_launches (s : State) : (s.turned).launches = s.launches := rfl
@[simp] theorem State.turned_dies (s : State) : (s.turned).dies = s.dies := rfl
@[simp] theorem State.turned_saved (s : State) : (s.turned).saved = s.saved := rfl
@[simp] theorem State.turned_groupRounds (s : State) : (s.turned).groupRounds = s.groupRounds := rfl
@[simp] theorem State.turned_gredws (s : State) : (s.turned).gredws = s.gredws := rfl
@[simp] theorem State.turned_greds (s : State) : (s.turned).greds = s.greds := rfl
@[simp] theorem State.turned_dirty (s : State) : (s.turned).dirty = s.dirty := rfl
@[simp] theorem State.turned_recent (s : State) : (s.turned).recent = s.recent := rfl
@[simp] theorem State.turned_coreHzn (s : State) : (s.turned).coreHzn = s.coreHzn := rfl
@[simp] theorem State.turned_cbs (s : State) : (s.turned).cbs = s.cbs := rfl
@[simp] theorem State.turned_rings (s : State) : (s.turned).rings = s.rings := rfl
@[simp] theorem State.turned_heaps (s : State) : (s.turned).heaps = s.heaps := rfl
@[simp] theorem State.turned_cycles (s : State) : (s.turned).cycles = s.cycles := rfl
@[simp] theorem State.turned_migrations (s : State) : (s.turned).migrations = s.migrations := rfl
@[simp] theorem State.turned_moveErrors (s : State) : (s.turned).moveErrors = s.moveErrors := rfl
@[simp] theorem State.turned_hostThreads (s : State) : (s.turned).hostThreads = s.hostThreads := rfl
@[simp] theorem State.turned_hostCores (s : State) : (s.turned).hostCores = s.hostCores := rfl
@[simp] theorem State.turned_guests (s : State) : (s.turned).guests = s.guests := rfl
@[simp] theorem State.turned_crossings (s : State) : (s.turned).crossings = s.crossings := rfl
@[simp] theorem State.turned_vlogs (s : State) : (s.turned).vlogs = s.vlogs := rfl
@[simp] theorem State.turned_ctrls (s : State) : (s.turned).ctrls = s.ctrls := rfl
@[simp] theorem State.turned_sec (s : State) : (s.turned).sec = s.sec := rfl
@[simp] theorem State.turned_hub (s : State) : (s.turned).hub = s.hub := rfl
@[simp] theorem State.turned_worlds (s : State) : (s.turned).worlds = s.worlds := rfl
@[simp] theorem State.turned_clearing (s : State) : (s.turned).clearing = s.clearing := rfl
@[simp] theorem State.turned_dirtyRows (s : State) : (s.turned).dirtyRows = s.dirtyRows := rfl
@[simp] theorem State.turned_checked (s : State) : (s.turned).checked = s.checked := rfl
@[simp] theorem State.turned_leaseNs (s : State) : (s.turned).leaseNs = s.leaseNs := rfl
@[simp] theorem State.turned_marginNs (s : State) : (s.turned).marginNs = s.marginNs := rfl
@[simp] theorem State.turned_snapArmed (s : State) : (s.turned).snapArmed = s.snapArmed := rfl
@[simp] theorem State.turned_snapUser (s : State) : (s.turned).snapUser = s.snapUser := rfl
@[simp] theorem State.turned_snapPin (s : State) : (s.turned).snapPin = s.snapPin := rfl
@[simp] theorem State.turned_snapMc (s : State) : (s.turned).snapMc = s.snapMc := rfl
@[simp] theorem State.turned_snapCount (s : State) : (s.turned).snapCount = s.snapCount := rfl
@[simp] theorem State.turned_snaps (s : State) : (s.turned).snaps = s.snaps := rfl
@[simp] theorem State.turned_samples (s : State) : (s.turned).samples = s.samples := rfl
@[simp] theorem State.turned_issues (s : State) : (s.turned).issues = s.issues := rfl
@[simp] theorem State.turned_sampled (s : State) : (s.turned).sampled = s.sampled := rfl
@[simp] theorem State.turned_requested (s : State) : (s.turned).requested = s.requested := rfl

@[simp] theorem State.onLaunch_agenda (s : State) (n : Nat) (f : Launch → Launch) : (s.onLaunch n f).agenda = s.agenda := rfl
@[simp] theorem State.onLaunch_turn (s : State) (n : Nat) (f : Launch → Launch) : (s.onLaunch n f).turn = s.turn := rfl
@[simp] theorem State.onLaunch_cur (s : State) (n : Nat) (f : Launch → Launch) : (s.onLaunch n f).cur = s.cur := rfl
@[simp] theorem State.onLaunch_freeCtr (s : State) (n : Nat) (f : Launch → Launch) : (s.onLaunch n f).freeCtr = s.freeCtr := rfl
@[simp] theorem State.onLaunch_clock (s : State) (n : Nat) (f : Launch → Launch) : (s.onLaunch n f).clock = s.clock := rfl
@[simp] theorem State.onLaunch_gtime (s : State) (n : Nat) (f : Launch → Launch) : (s.onLaunch n f).gtime = s.gtime := rfl
@[simp] theorem State.onLaunch_released (s : State) (n : Nat) (f : Launch → Launch) : (s.onLaunch n f).released = s.released := rfl
@[simp] theorem State.onLaunch_bootStep (s : State) (n : Nat) (f : Launch → Launch) : (s.onLaunch n f).bootStep = s.bootStep := rfl
@[simp] theorem State.onLaunch_bootFailed (s : State) (n : Nat) (f : Launch → Launch) : (s.onLaunch n f).bootFailed = s.bootFailed := rfl
@[simp] theorem State.onLaunch_mem (s : State) (n : Nat) (f : Launch → Launch) : (s.onLaunch n f).mem = s.mem := rfl
@[simp] theorem State.onLaunch_poisonLines (s : State) (n : Nat) (f : Launch → Launch) : (s.onLaunch n f).poisonLines = s.poisonLines := rfl
@[simp] theorem State.onLaunch_lineWorld (s : State) (n : Nat) (f : Launch → Launch) : (s.onLaunch n f).lineWorld = s.lineWorld := rfl
@[simp] theorem State.onLaunch_seals (s : State) (n : Nat) (f : Launch → Launch) : (s.onLaunch n f).seals = s.seals := rfl
@[simp] theorem State.onLaunch_gangs (s : State) (n : Nat) (f : Launch → Launch) : (s.onLaunch n f).gangs = s.gangs := rfl
@[simp] theorem State.onLaunch_arrays (s : State) (n : Nat) (f : Launch → Launch) : (s.onLaunch n f).arrays = s.arrays := rfl
@[simp] theorem State.onLaunch_allocs (s : State) (n : Nat) (f : Launch → Launch) : (s.onLaunch n f).allocs = s.allocs := rfl
@[simp] theorem State.onLaunch_copies (s : State) (n : Nat) (f : Launch → Launch) : (s.onLaunch n f).copies = s.copies := rfl
@[simp] theorem State.onLaunch_loads (s : State) (n : Nat) (f : Launch → Launch) : (s.onLaunch n f).loads = s.loads := rfl
@[simp] theorem State.onLaunch_stores (s : State) (n : Nat) (f : Launch → Launch) : (s.onLaunch n f).stores = s.stores := rfl
@[simp] theorem State.onLaunch_atoms (s : State) (n : Nat) (f : Launch → Launch) : (s.onLaunch n f).atoms = s.atoms := rfl
@[simp] theorem State.onLaunch_acks (s : State) (n : Nat) (f : Launch → Launch) : (s.onLaunch n f).acks = s.acks := rfl
@[simp] theorem State.onLaunch_redseqs (s : State) (n : Nat) (f : Launch → Launch) : (s.onLaunch n f).redseqs = s.redseqs := rfl
@[simp] theorem State.onLaunch_leases (s : State) (n : Nat) (f : Launch → Launch) : (s.onLaunch n f).leases = s.leases := rfl
@[simp] theorem State.onLaunch_owned (s : State) (n : Nat) (f : Launch → Launch) : (s.onLaunch n f).owned = s.owned := rfl
@[simp] theorem State.onLaunch_hostLines (s : State) (n : Nat) (f : Launch → Launch) : (s.onLaunch n f).hostLines = s.hostLines := rfl
@[simp] theorem State.onLaunch_hostWaiting (s : State) (n : Nat) (f : Launch → Launch) : (s.onLaunch n f).hostWaiting = s.hostWaiting := rfl
@[simp] theorem State.onLaunch_snooping (s : State) (n : Nat) (f : Launch → Launch) : (s.onLaunch n f).snooping = s.snooping := rfl
@[simp] theorem State.onLaunch_releasing (s : State) (n : Nat) (f : Launch → Launch) : (s.onLaunch n f).releasing = s.releasing := rfl
@[simp] theorem State.onLaunch_placedAt (s : State) (n : Nat) (f : Launch → Launch) : (s.onLaunch n f).placedAt = s.placedAt := rfl
@[simp] theorem State.onLaunch_platform (s : State) (n : Nat) (f : Launch → Launch) : (s.onLaunch n f).platform = s.platform := rfl
@[simp] theorem State.onLaunch_tlb (s : State) (n : Nat) (f : Launch → Launch) : (s.onLaunch n f).tlb = s.tlb := rfl
@[simp] theorem State.onLaunch_icache (s : State) (n : Nat) (f : Launch → Launch) : (s.onLaunch n f).icache = s.icache := rfl
@[simp] theorem State.onLaunch_oplog (s : State) (n : Nat) (f : Launch → Launch) : (s.onLaunch n f).oplog = s.oplog := rfl
@[simp] theorem State.onLaunch_faults (s : State) (n : Nat) (f : Launch → Launch) : (s.onLaunch n f).faults = s.faults := rfl
@[simp] theorem State.onLaunch_dies (s : State) (n : Nat) (f : Launch → Launch) : (s.onLaunch n f).dies = s.dies := rfl
@[simp] theorem State.onLaunch_saved (s : State) (n : Nat) (f : Launch → Launch) : (s.onLaunch n f).saved = s.saved := rfl
@[simp] theorem State.onLaunch_groupRounds (s : State) (n : Nat) (f : Launch → Launch) : (s.onLaunch n f).groupRounds = s.groupRounds := rfl
@[simp] theorem State.onLaunch_gredws (s : State) (n : Nat) (f : Launch → Launch) : (s.onLaunch n f).gredws = s.gredws := rfl
@[simp] theorem State.onLaunch_greds (s : State) (n : Nat) (f : Launch → Launch) : (s.onLaunch n f).greds = s.greds := rfl
@[simp] theorem State.onLaunch_dirty (s : State) (n : Nat) (f : Launch → Launch) : (s.onLaunch n f).dirty = s.dirty := rfl
@[simp] theorem State.onLaunch_recent (s : State) (n : Nat) (f : Launch → Launch) : (s.onLaunch n f).recent = s.recent := rfl
@[simp] theorem State.onLaunch_coreHzn (s : State) (n : Nat) (f : Launch → Launch) : (s.onLaunch n f).coreHzn = s.coreHzn := rfl
@[simp] theorem State.onLaunch_cbs (s : State) (n : Nat) (f : Launch → Launch) : (s.onLaunch n f).cbs = s.cbs := rfl
@[simp] theorem State.onLaunch_rings (s : State) (n : Nat) (f : Launch → Launch) : (s.onLaunch n f).rings = s.rings := rfl
@[simp] theorem State.onLaunch_heaps (s : State) (n : Nat) (f : Launch → Launch) : (s.onLaunch n f).heaps = s.heaps := rfl
@[simp] theorem State.onLaunch_cycles (s : State) (n : Nat) (f : Launch → Launch) : (s.onLaunch n f).cycles = s.cycles := rfl
@[simp] theorem State.onLaunch_migrations (s : State) (n : Nat) (f : Launch → Launch) : (s.onLaunch n f).migrations = s.migrations := rfl
@[simp] theorem State.onLaunch_moveErrors (s : State) (n : Nat) (f : Launch → Launch) : (s.onLaunch n f).moveErrors = s.moveErrors := rfl
@[simp] theorem State.onLaunch_hostThreads (s : State) (n : Nat) (f : Launch → Launch) : (s.onLaunch n f).hostThreads = s.hostThreads := rfl
@[simp] theorem State.onLaunch_hostCores (s : State) (n : Nat) (f : Launch → Launch) : (s.onLaunch n f).hostCores = s.hostCores := rfl
@[simp] theorem State.onLaunch_guests (s : State) (n : Nat) (f : Launch → Launch) : (s.onLaunch n f).guests = s.guests := rfl
@[simp] theorem State.onLaunch_crossings (s : State) (n : Nat) (f : Launch → Launch) : (s.onLaunch n f).crossings = s.crossings := rfl
@[simp] theorem State.onLaunch_vlogs (s : State) (n : Nat) (f : Launch → Launch) : (s.onLaunch n f).vlogs = s.vlogs := rfl
@[simp] theorem State.onLaunch_ctrls (s : State) (n : Nat) (f : Launch → Launch) : (s.onLaunch n f).ctrls = s.ctrls := rfl
@[simp] theorem State.onLaunch_sec (s : State) (n : Nat) (f : Launch → Launch) : (s.onLaunch n f).sec = s.sec := rfl
@[simp] theorem State.onLaunch_hub (s : State) (n : Nat) (f : Launch → Launch) : (s.onLaunch n f).hub = s.hub := rfl
@[simp] theorem State.onLaunch_worlds (s : State) (n : Nat) (f : Launch → Launch) : (s.onLaunch n f).worlds = s.worlds := rfl
@[simp] theorem State.onLaunch_clearing (s : State) (n : Nat) (f : Launch → Launch) : (s.onLaunch n f).clearing = s.clearing := rfl
@[simp] theorem State.onLaunch_dirtyRows (s : State) (n : Nat) (f : Launch → Launch) : (s.onLaunch n f).dirtyRows = s.dirtyRows := rfl
@[simp] theorem State.onLaunch_checked (s : State) (n : Nat) (f : Launch → Launch) : (s.onLaunch n f).checked = s.checked := rfl
@[simp] theorem State.onLaunch_leaseNs (s : State) (n : Nat) (f : Launch → Launch) : (s.onLaunch n f).leaseNs = s.leaseNs := rfl
@[simp] theorem State.onLaunch_marginNs (s : State) (n : Nat) (f : Launch → Launch) : (s.onLaunch n f).marginNs = s.marginNs := rfl
@[simp] theorem State.onLaunch_snapArmed (s : State) (n : Nat) (f : Launch → Launch) : (s.onLaunch n f).snapArmed = s.snapArmed := rfl
@[simp] theorem State.onLaunch_snapUser (s : State) (n : Nat) (f : Launch → Launch) : (s.onLaunch n f).snapUser = s.snapUser := rfl
@[simp] theorem State.onLaunch_snapPin (s : State) (n : Nat) (f : Launch → Launch) : (s.onLaunch n f).snapPin = s.snapPin := rfl
@[simp] theorem State.onLaunch_snapMc (s : State) (n : Nat) (f : Launch → Launch) : (s.onLaunch n f).snapMc = s.snapMc := rfl
@[simp] theorem State.onLaunch_snapCount (s : State) (n : Nat) (f : Launch → Launch) : (s.onLaunch n f).snapCount = s.snapCount := rfl
@[simp] theorem State.onLaunch_snaps (s : State) (n : Nat) (f : Launch → Launch) : (s.onLaunch n f).snaps = s.snaps := rfl
@[simp] theorem State.onLaunch_samples (s : State) (n : Nat) (f : Launch → Launch) : (s.onLaunch n f).samples = s.samples := rfl
@[simp] theorem State.onLaunch_issues (s : State) (n : Nat) (f : Launch → Launch) : (s.onLaunch n f).issues = s.issues := rfl
@[simp] theorem State.onLaunch_sampled (s : State) (n : Nat) (f : Launch → Launch) : (s.onLaunch n f).sampled = s.sampled := rfl
@[simp] theorem State.onLaunch_requested (s : State) (n : Nat) (f : Launch → Launch) : (s.onLaunch n f).requested = s.requested := rfl

@[simp] theorem State.onDie_agenda (s : State) (d : Nat) (f : Die → Die) : (s.onDie d f).agenda = s.agenda := rfl
@[simp] theorem State.onDie_turn (s : State) (d : Nat) (f : Die → Die) : (s.onDie d f).turn = s.turn := rfl
@[simp] theorem State.onDie_cur (s : State) (d : Nat) (f : Die → Die) : (s.onDie d f).cur = s.cur := rfl
@[simp] theorem State.onDie_freeCtr (s : State) (d : Nat) (f : Die → Die) : (s.onDie d f).freeCtr = s.freeCtr := rfl
@[simp] theorem State.onDie_clock (s : State) (d : Nat) (f : Die → Die) : (s.onDie d f).clock = s.clock := rfl
@[simp] theorem State.onDie_gtime (s : State) (d : Nat) (f : Die → Die) : (s.onDie d f).gtime = s.gtime := rfl
@[simp] theorem State.onDie_released (s : State) (d : Nat) (f : Die → Die) : (s.onDie d f).released = s.released := rfl
@[simp] theorem State.onDie_bootStep (s : State) (d : Nat) (f : Die → Die) : (s.onDie d f).bootStep = s.bootStep := rfl
@[simp] theorem State.onDie_bootFailed (s : State) (d : Nat) (f : Die → Die) : (s.onDie d f).bootFailed = s.bootFailed := rfl
@[simp] theorem State.onDie_mem (s : State) (d : Nat) (f : Die → Die) : (s.onDie d f).mem = s.mem := rfl
@[simp] theorem State.onDie_poisonLines (s : State) (d : Nat) (f : Die → Die) : (s.onDie d f).poisonLines = s.poisonLines := rfl
@[simp] theorem State.onDie_lineWorld (s : State) (d : Nat) (f : Die → Die) : (s.onDie d f).lineWorld = s.lineWorld := rfl
@[simp] theorem State.onDie_seals (s : State) (d : Nat) (f : Die → Die) : (s.onDie d f).seals = s.seals := rfl
@[simp] theorem State.onDie_gangs (s : State) (d : Nat) (f : Die → Die) : (s.onDie d f).gangs = s.gangs := rfl
@[simp] theorem State.onDie_arrays (s : State) (d : Nat) (f : Die → Die) : (s.onDie d f).arrays = s.arrays := rfl
@[simp] theorem State.onDie_allocs (s : State) (d : Nat) (f : Die → Die) : (s.onDie d f).allocs = s.allocs := rfl
@[simp] theorem State.onDie_copies (s : State) (d : Nat) (f : Die → Die) : (s.onDie d f).copies = s.copies := rfl
@[simp] theorem State.onDie_loads (s : State) (d : Nat) (f : Die → Die) : (s.onDie d f).loads = s.loads := rfl
@[simp] theorem State.onDie_stores (s : State) (d : Nat) (f : Die → Die) : (s.onDie d f).stores = s.stores := rfl
@[simp] theorem State.onDie_atoms (s : State) (d : Nat) (f : Die → Die) : (s.onDie d f).atoms = s.atoms := rfl
@[simp] theorem State.onDie_acks (s : State) (d : Nat) (f : Die → Die) : (s.onDie d f).acks = s.acks := rfl
@[simp] theorem State.onDie_redseqs (s : State) (d : Nat) (f : Die → Die) : (s.onDie d f).redseqs = s.redseqs := rfl
@[simp] theorem State.onDie_leases (s : State) (d : Nat) (f : Die → Die) : (s.onDie d f).leases = s.leases := rfl
@[simp] theorem State.onDie_owned (s : State) (d : Nat) (f : Die → Die) : (s.onDie d f).owned = s.owned := rfl
@[simp] theorem State.onDie_hostLines (s : State) (d : Nat) (f : Die → Die) : (s.onDie d f).hostLines = s.hostLines := rfl
@[simp] theorem State.onDie_hostWaiting (s : State) (d : Nat) (f : Die → Die) : (s.onDie d f).hostWaiting = s.hostWaiting := rfl
@[simp] theorem State.onDie_snooping (s : State) (d : Nat) (f : Die → Die) : (s.onDie d f).snooping = s.snooping := rfl
@[simp] theorem State.onDie_releasing (s : State) (d : Nat) (f : Die → Die) : (s.onDie d f).releasing = s.releasing := rfl
@[simp] theorem State.onDie_placedAt (s : State) (d : Nat) (f : Die → Die) : (s.onDie d f).placedAt = s.placedAt := rfl
@[simp] theorem State.onDie_platform (s : State) (d : Nat) (f : Die → Die) : (s.onDie d f).platform = s.platform := rfl
@[simp] theorem State.onDie_tlb (s : State) (d : Nat) (f : Die → Die) : (s.onDie d f).tlb = s.tlb := rfl
@[simp] theorem State.onDie_icache (s : State) (d : Nat) (f : Die → Die) : (s.onDie d f).icache = s.icache := rfl
@[simp] theorem State.onDie_oplog (s : State) (d : Nat) (f : Die → Die) : (s.onDie d f).oplog = s.oplog := rfl
@[simp] theorem State.onDie_faults (s : State) (d : Nat) (f : Die → Die) : (s.onDie d f).faults = s.faults := rfl
@[simp] theorem State.onDie_launches (s : State) (d : Nat) (f : Die → Die) : (s.onDie d f).launches = s.launches := rfl
@[simp] theorem State.onDie_saved (s : State) (d : Nat) (f : Die → Die) : (s.onDie d f).saved = s.saved := rfl
@[simp] theorem State.onDie_groupRounds (s : State) (d : Nat) (f : Die → Die) : (s.onDie d f).groupRounds = s.groupRounds := rfl
@[simp] theorem State.onDie_gredws (s : State) (d : Nat) (f : Die → Die) : (s.onDie d f).gredws = s.gredws := rfl
@[simp] theorem State.onDie_greds (s : State) (d : Nat) (f : Die → Die) : (s.onDie d f).greds = s.greds := rfl
@[simp] theorem State.onDie_dirty (s : State) (d : Nat) (f : Die → Die) : (s.onDie d f).dirty = s.dirty := rfl
@[simp] theorem State.onDie_recent (s : State) (d : Nat) (f : Die → Die) : (s.onDie d f).recent = s.recent := rfl
@[simp] theorem State.onDie_coreHzn (s : State) (d : Nat) (f : Die → Die) : (s.onDie d f).coreHzn = s.coreHzn := rfl
@[simp] theorem State.onDie_cbs (s : State) (d : Nat) (f : Die → Die) : (s.onDie d f).cbs = s.cbs := rfl
@[simp] theorem State.onDie_rings (s : State) (d : Nat) (f : Die → Die) : (s.onDie d f).rings = s.rings := rfl
@[simp] theorem State.onDie_heaps (s : State) (d : Nat) (f : Die → Die) : (s.onDie d f).heaps = s.heaps := rfl
@[simp] theorem State.onDie_cycles (s : State) (d : Nat) (f : Die → Die) : (s.onDie d f).cycles = s.cycles := rfl
@[simp] theorem State.onDie_migrations (s : State) (d : Nat) (f : Die → Die) : (s.onDie d f).migrations = s.migrations := rfl
@[simp] theorem State.onDie_moveErrors (s : State) (d : Nat) (f : Die → Die) : (s.onDie d f).moveErrors = s.moveErrors := rfl
@[simp] theorem State.onDie_hostThreads (s : State) (d : Nat) (f : Die → Die) : (s.onDie d f).hostThreads = s.hostThreads := rfl
@[simp] theorem State.onDie_hostCores (s : State) (d : Nat) (f : Die → Die) : (s.onDie d f).hostCores = s.hostCores := rfl
@[simp] theorem State.onDie_guests (s : State) (d : Nat) (f : Die → Die) : (s.onDie d f).guests = s.guests := rfl
@[simp] theorem State.onDie_crossings (s : State) (d : Nat) (f : Die → Die) : (s.onDie d f).crossings = s.crossings := rfl
@[simp] theorem State.onDie_vlogs (s : State) (d : Nat) (f : Die → Die) : (s.onDie d f).vlogs = s.vlogs := rfl
@[simp] theorem State.onDie_ctrls (s : State) (d : Nat) (f : Die → Die) : (s.onDie d f).ctrls = s.ctrls := rfl
@[simp] theorem State.onDie_sec (s : State) (d : Nat) (f : Die → Die) : (s.onDie d f).sec = s.sec := rfl
@[simp] theorem State.onDie_hub (s : State) (d : Nat) (f : Die → Die) : (s.onDie d f).hub = s.hub := rfl
@[simp] theorem State.onDie_worlds (s : State) (d : Nat) (f : Die → Die) : (s.onDie d f).worlds = s.worlds := rfl
@[simp] theorem State.onDie_clearing (s : State) (d : Nat) (f : Die → Die) : (s.onDie d f).clearing = s.clearing := rfl
@[simp] theorem State.onDie_dirtyRows (s : State) (d : Nat) (f : Die → Die) : (s.onDie d f).dirtyRows = s.dirtyRows := rfl
@[simp] theorem State.onDie_checked (s : State) (d : Nat) (f : Die → Die) : (s.onDie d f).checked = s.checked := rfl
@[simp] theorem State.onDie_leaseNs (s : State) (d : Nat) (f : Die → Die) : (s.onDie d f).leaseNs = s.leaseNs := rfl
@[simp] theorem State.onDie_marginNs (s : State) (d : Nat) (f : Die → Die) : (s.onDie d f).marginNs = s.marginNs := rfl
@[simp] theorem State.onDie_snapArmed (s : State) (d : Nat) (f : Die → Die) : (s.onDie d f).snapArmed = s.snapArmed := rfl
@[simp] theorem State.onDie_snapUser (s : State) (d : Nat) (f : Die → Die) : (s.onDie d f).snapUser = s.snapUser := rfl
@[simp] theorem State.onDie_snapPin (s : State) (d : Nat) (f : Die → Die) : (s.onDie d f).snapPin = s.snapPin := rfl
@[simp] theorem State.onDie_snapMc (s : State) (d : Nat) (f : Die → Die) : (s.onDie d f).snapMc = s.snapMc := rfl
@[simp] theorem State.onDie_snapCount (s : State) (d : Nat) (f : Die → Die) : (s.onDie d f).snapCount = s.snapCount := rfl
@[simp] theorem State.onDie_snaps (s : State) (d : Nat) (f : Die → Die) : (s.onDie d f).snaps = s.snaps := rfl
@[simp] theorem State.onDie_samples (s : State) (d : Nat) (f : Die → Die) : (s.onDie d f).samples = s.samples := rfl
@[simp] theorem State.onDie_issues (s : State) (d : Nat) (f : Die → Die) : (s.onDie d f).issues = s.issues := rfl
@[simp] theorem State.onDie_sampled (s : State) (d : Nat) (f : Die → Die) : (s.onDie d f).sampled = s.sampled := rfl
@[simp] theorem State.onDie_requested (s : State) (d : Nat) (f : Die → Die) : (s.onDie d f).requested = s.requested := rfl

@[simp] theorem State.onAlloc_agenda (s : State) (launch block core : Nat) (f : Alloc → Alloc) : (s.onAlloc launch block core f).agenda = s.agenda := rfl
@[simp] theorem State.onAlloc_turn (s : State) (launch block core : Nat) (f : Alloc → Alloc) : (s.onAlloc launch block core f).turn = s.turn := rfl
@[simp] theorem State.onAlloc_cur (s : State) (launch block core : Nat) (f : Alloc → Alloc) : (s.onAlloc launch block core f).cur = s.cur := rfl
@[simp] theorem State.onAlloc_freeCtr (s : State) (launch block core : Nat) (f : Alloc → Alloc) : (s.onAlloc launch block core f).freeCtr = s.freeCtr := rfl
@[simp] theorem State.onAlloc_clock (s : State) (launch block core : Nat) (f : Alloc → Alloc) : (s.onAlloc launch block core f).clock = s.clock := rfl
@[simp] theorem State.onAlloc_gtime (s : State) (launch block core : Nat) (f : Alloc → Alloc) : (s.onAlloc launch block core f).gtime = s.gtime := rfl
@[simp] theorem State.onAlloc_released (s : State) (launch block core : Nat) (f : Alloc → Alloc) : (s.onAlloc launch block core f).released = s.released := rfl
@[simp] theorem State.onAlloc_bootStep (s : State) (launch block core : Nat) (f : Alloc → Alloc) : (s.onAlloc launch block core f).bootStep = s.bootStep := rfl
@[simp] theorem State.onAlloc_bootFailed (s : State) (launch block core : Nat) (f : Alloc → Alloc) : (s.onAlloc launch block core f).bootFailed = s.bootFailed := rfl
@[simp] theorem State.onAlloc_mem (s : State) (launch block core : Nat) (f : Alloc → Alloc) : (s.onAlloc launch block core f).mem = s.mem := rfl
@[simp] theorem State.onAlloc_poisonLines (s : State) (launch block core : Nat) (f : Alloc → Alloc) : (s.onAlloc launch block core f).poisonLines = s.poisonLines := rfl
@[simp] theorem State.onAlloc_lineWorld (s : State) (launch block core : Nat) (f : Alloc → Alloc) : (s.onAlloc launch block core f).lineWorld = s.lineWorld := rfl
@[simp] theorem State.onAlloc_seals (s : State) (launch block core : Nat) (f : Alloc → Alloc) : (s.onAlloc launch block core f).seals = s.seals := rfl
@[simp] theorem State.onAlloc_gangs (s : State) (launch block core : Nat) (f : Alloc → Alloc) : (s.onAlloc launch block core f).gangs = s.gangs := rfl
@[simp] theorem State.onAlloc_arrays (s : State) (launch block core : Nat) (f : Alloc → Alloc) : (s.onAlloc launch block core f).arrays = s.arrays := rfl
@[simp] theorem State.onAlloc_copies (s : State) (launch block core : Nat) (f : Alloc → Alloc) : (s.onAlloc launch block core f).copies = s.copies := rfl
@[simp] theorem State.onAlloc_loads (s : State) (launch block core : Nat) (f : Alloc → Alloc) : (s.onAlloc launch block core f).loads = s.loads := rfl
@[simp] theorem State.onAlloc_stores (s : State) (launch block core : Nat) (f : Alloc → Alloc) : (s.onAlloc launch block core f).stores = s.stores := rfl
@[simp] theorem State.onAlloc_atoms (s : State) (launch block core : Nat) (f : Alloc → Alloc) : (s.onAlloc launch block core f).atoms = s.atoms := rfl
@[simp] theorem State.onAlloc_acks (s : State) (launch block core : Nat) (f : Alloc → Alloc) : (s.onAlloc launch block core f).acks = s.acks := rfl
@[simp] theorem State.onAlloc_redseqs (s : State) (launch block core : Nat) (f : Alloc → Alloc) : (s.onAlloc launch block core f).redseqs = s.redseqs := rfl
@[simp] theorem State.onAlloc_leases (s : State) (launch block core : Nat) (f : Alloc → Alloc) : (s.onAlloc launch block core f).leases = s.leases := rfl
@[simp] theorem State.onAlloc_owned (s : State) (launch block core : Nat) (f : Alloc → Alloc) : (s.onAlloc launch block core f).owned = s.owned := rfl
@[simp] theorem State.onAlloc_hostLines (s : State) (launch block core : Nat) (f : Alloc → Alloc) : (s.onAlloc launch block core f).hostLines = s.hostLines := rfl
@[simp] theorem State.onAlloc_hostWaiting (s : State) (launch block core : Nat) (f : Alloc → Alloc) : (s.onAlloc launch block core f).hostWaiting = s.hostWaiting := rfl
@[simp] theorem State.onAlloc_snooping (s : State) (launch block core : Nat) (f : Alloc → Alloc) : (s.onAlloc launch block core f).snooping = s.snooping := rfl
@[simp] theorem State.onAlloc_releasing (s : State) (launch block core : Nat) (f : Alloc → Alloc) : (s.onAlloc launch block core f).releasing = s.releasing := rfl
@[simp] theorem State.onAlloc_placedAt (s : State) (launch block core : Nat) (f : Alloc → Alloc) : (s.onAlloc launch block core f).placedAt = s.placedAt := rfl
@[simp] theorem State.onAlloc_platform (s : State) (launch block core : Nat) (f : Alloc → Alloc) : (s.onAlloc launch block core f).platform = s.platform := rfl
@[simp] theorem State.onAlloc_tlb (s : State) (launch block core : Nat) (f : Alloc → Alloc) : (s.onAlloc launch block core f).tlb = s.tlb := rfl
@[simp] theorem State.onAlloc_icache (s : State) (launch block core : Nat) (f : Alloc → Alloc) : (s.onAlloc launch block core f).icache = s.icache := rfl
@[simp] theorem State.onAlloc_oplog (s : State) (launch block core : Nat) (f : Alloc → Alloc) : (s.onAlloc launch block core f).oplog = s.oplog := rfl
@[simp] theorem State.onAlloc_faults (s : State) (launch block core : Nat) (f : Alloc → Alloc) : (s.onAlloc launch block core f).faults = s.faults := rfl
@[simp] theorem State.onAlloc_launches (s : State) (launch block core : Nat) (f : Alloc → Alloc) : (s.onAlloc launch block core f).launches = s.launches := rfl
@[simp] theorem State.onAlloc_dies (s : State) (launch block core : Nat) (f : Alloc → Alloc) : (s.onAlloc launch block core f).dies = s.dies := rfl
@[simp] theorem State.onAlloc_saved (s : State) (launch block core : Nat) (f : Alloc → Alloc) : (s.onAlloc launch block core f).saved = s.saved := rfl
@[simp] theorem State.onAlloc_groupRounds (s : State) (launch block core : Nat) (f : Alloc → Alloc) : (s.onAlloc launch block core f).groupRounds = s.groupRounds := rfl
@[simp] theorem State.onAlloc_gredws (s : State) (launch block core : Nat) (f : Alloc → Alloc) : (s.onAlloc launch block core f).gredws = s.gredws := rfl
@[simp] theorem State.onAlloc_greds (s : State) (launch block core : Nat) (f : Alloc → Alloc) : (s.onAlloc launch block core f).greds = s.greds := rfl
@[simp] theorem State.onAlloc_dirty (s : State) (launch block core : Nat) (f : Alloc → Alloc) : (s.onAlloc launch block core f).dirty = s.dirty := rfl
@[simp] theorem State.onAlloc_recent (s : State) (launch block core : Nat) (f : Alloc → Alloc) : (s.onAlloc launch block core f).recent = s.recent := rfl
@[simp] theorem State.onAlloc_coreHzn (s : State) (launch block core : Nat) (f : Alloc → Alloc) : (s.onAlloc launch block core f).coreHzn = s.coreHzn := rfl
@[simp] theorem State.onAlloc_cbs (s : State) (launch block core : Nat) (f : Alloc → Alloc) : (s.onAlloc launch block core f).cbs = s.cbs := rfl
@[simp] theorem State.onAlloc_rings (s : State) (launch block core : Nat) (f : Alloc → Alloc) : (s.onAlloc launch block core f).rings = s.rings := rfl
@[simp] theorem State.onAlloc_heaps (s : State) (launch block core : Nat) (f : Alloc → Alloc) : (s.onAlloc launch block core f).heaps = s.heaps := rfl
@[simp] theorem State.onAlloc_cycles (s : State) (launch block core : Nat) (f : Alloc → Alloc) : (s.onAlloc launch block core f).cycles = s.cycles := rfl
@[simp] theorem State.onAlloc_migrations (s : State) (launch block core : Nat) (f : Alloc → Alloc) : (s.onAlloc launch block core f).migrations = s.migrations := rfl
@[simp] theorem State.onAlloc_moveErrors (s : State) (launch block core : Nat) (f : Alloc → Alloc) : (s.onAlloc launch block core f).moveErrors = s.moveErrors := rfl
@[simp] theorem State.onAlloc_hostThreads (s : State) (launch block core : Nat) (f : Alloc → Alloc) : (s.onAlloc launch block core f).hostThreads = s.hostThreads := rfl
@[simp] theorem State.onAlloc_hostCores (s : State) (launch block core : Nat) (f : Alloc → Alloc) : (s.onAlloc launch block core f).hostCores = s.hostCores := rfl
@[simp] theorem State.onAlloc_guests (s : State) (launch block core : Nat) (f : Alloc → Alloc) : (s.onAlloc launch block core f).guests = s.guests := rfl
@[simp] theorem State.onAlloc_crossings (s : State) (launch block core : Nat) (f : Alloc → Alloc) : (s.onAlloc launch block core f).crossings = s.crossings := rfl
@[simp] theorem State.onAlloc_vlogs (s : State) (launch block core : Nat) (f : Alloc → Alloc) : (s.onAlloc launch block core f).vlogs = s.vlogs := rfl
@[simp] theorem State.onAlloc_ctrls (s : State) (launch block core : Nat) (f : Alloc → Alloc) : (s.onAlloc launch block core f).ctrls = s.ctrls := rfl
@[simp] theorem State.onAlloc_sec (s : State) (launch block core : Nat) (f : Alloc → Alloc) : (s.onAlloc launch block core f).sec = s.sec := rfl
@[simp] theorem State.onAlloc_hub (s : State) (launch block core : Nat) (f : Alloc → Alloc) : (s.onAlloc launch block core f).hub = s.hub := rfl
@[simp] theorem State.onAlloc_worlds (s : State) (launch block core : Nat) (f : Alloc → Alloc) : (s.onAlloc launch block core f).worlds = s.worlds := rfl
@[simp] theorem State.onAlloc_clearing (s : State) (launch block core : Nat) (f : Alloc → Alloc) : (s.onAlloc launch block core f).clearing = s.clearing := rfl
@[simp] theorem State.onAlloc_dirtyRows (s : State) (launch block core : Nat) (f : Alloc → Alloc) : (s.onAlloc launch block core f).dirtyRows = s.dirtyRows := rfl
@[simp] theorem State.onAlloc_checked (s : State) (launch block core : Nat) (f : Alloc → Alloc) : (s.onAlloc launch block core f).checked = s.checked := rfl
@[simp] theorem State.onAlloc_leaseNs (s : State) (launch block core : Nat) (f : Alloc → Alloc) : (s.onAlloc launch block core f).leaseNs = s.leaseNs := rfl
@[simp] theorem State.onAlloc_marginNs (s : State) (launch block core : Nat) (f : Alloc → Alloc) : (s.onAlloc launch block core f).marginNs = s.marginNs := rfl
@[simp] theorem State.onAlloc_snapArmed (s : State) (launch block core : Nat) (f : Alloc → Alloc) : (s.onAlloc launch block core f).snapArmed = s.snapArmed := rfl
@[simp] theorem State.onAlloc_snapUser (s : State) (launch block core : Nat) (f : Alloc → Alloc) : (s.onAlloc launch block core f).snapUser = s.snapUser := rfl
@[simp] theorem State.onAlloc_snapPin (s : State) (launch block core : Nat) (f : Alloc → Alloc) : (s.onAlloc launch block core f).snapPin = s.snapPin := rfl
@[simp] theorem State.onAlloc_snapMc (s : State) (launch block core : Nat) (f : Alloc → Alloc) : (s.onAlloc launch block core f).snapMc = s.snapMc := rfl
@[simp] theorem State.onAlloc_snapCount (s : State) (launch block core : Nat) (f : Alloc → Alloc) : (s.onAlloc launch block core f).snapCount = s.snapCount := rfl
@[simp] theorem State.onAlloc_snaps (s : State) (launch block core : Nat) (f : Alloc → Alloc) : (s.onAlloc launch block core f).snaps = s.snaps := rfl
@[simp] theorem State.onAlloc_samples (s : State) (launch block core : Nat) (f : Alloc → Alloc) : (s.onAlloc launch block core f).samples = s.samples := rfl
@[simp] theorem State.onAlloc_issues (s : State) (launch block core : Nat) (f : Alloc → Alloc) : (s.onAlloc launch block core f).issues = s.issues := rfl
@[simp] theorem State.onAlloc_sampled (s : State) (launch block core : Nat) (f : Alloc → Alloc) : (s.onAlloc launch block core f).sampled = s.sampled := rfl
@[simp] theorem State.onAlloc_requested (s : State) (launch block core : Nat) (f : Alloc → Alloc) : (s.onAlloc launch block core f).requested = s.requested := rfl

@[simp] theorem State.setRound_agenda (s : State) (r : GroupRound) : (s.setRound r).agenda = s.agenda := rfl
@[simp] theorem State.setRound_turn (s : State) (r : GroupRound) : (s.setRound r).turn = s.turn := rfl
@[simp] theorem State.setRound_cur (s : State) (r : GroupRound) : (s.setRound r).cur = s.cur := rfl
@[simp] theorem State.setRound_freeCtr (s : State) (r : GroupRound) : (s.setRound r).freeCtr = s.freeCtr := rfl
@[simp] theorem State.setRound_clock (s : State) (r : GroupRound) : (s.setRound r).clock = s.clock := rfl
@[simp] theorem State.setRound_gtime (s : State) (r : GroupRound) : (s.setRound r).gtime = s.gtime := rfl
@[simp] theorem State.setRound_released (s : State) (r : GroupRound) : (s.setRound r).released = s.released := rfl
@[simp] theorem State.setRound_bootStep (s : State) (r : GroupRound) : (s.setRound r).bootStep = s.bootStep := rfl
@[simp] theorem State.setRound_bootFailed (s : State) (r : GroupRound) : (s.setRound r).bootFailed = s.bootFailed := rfl
@[simp] theorem State.setRound_mem (s : State) (r : GroupRound) : (s.setRound r).mem = s.mem := rfl
@[simp] theorem State.setRound_poisonLines (s : State) (r : GroupRound) : (s.setRound r).poisonLines = s.poisonLines := rfl
@[simp] theorem State.setRound_lineWorld (s : State) (r : GroupRound) : (s.setRound r).lineWorld = s.lineWorld := rfl
@[simp] theorem State.setRound_seals (s : State) (r : GroupRound) : (s.setRound r).seals = s.seals := rfl
@[simp] theorem State.setRound_gangs (s : State) (r : GroupRound) : (s.setRound r).gangs = s.gangs := rfl
@[simp] theorem State.setRound_arrays (s : State) (r : GroupRound) : (s.setRound r).arrays = s.arrays := rfl
@[simp] theorem State.setRound_allocs (s : State) (r : GroupRound) : (s.setRound r).allocs = s.allocs := rfl
@[simp] theorem State.setRound_copies (s : State) (r : GroupRound) : (s.setRound r).copies = s.copies := rfl
@[simp] theorem State.setRound_loads (s : State) (r : GroupRound) : (s.setRound r).loads = s.loads := rfl
@[simp] theorem State.setRound_stores (s : State) (r : GroupRound) : (s.setRound r).stores = s.stores := rfl
@[simp] theorem State.setRound_atoms (s : State) (r : GroupRound) : (s.setRound r).atoms = s.atoms := rfl
@[simp] theorem State.setRound_acks (s : State) (r : GroupRound) : (s.setRound r).acks = s.acks := rfl
@[simp] theorem State.setRound_redseqs (s : State) (r : GroupRound) : (s.setRound r).redseqs = s.redseqs := rfl
@[simp] theorem State.setRound_leases (s : State) (r : GroupRound) : (s.setRound r).leases = s.leases := rfl
@[simp] theorem State.setRound_owned (s : State) (r : GroupRound) : (s.setRound r).owned = s.owned := rfl
@[simp] theorem State.setRound_hostLines (s : State) (r : GroupRound) : (s.setRound r).hostLines = s.hostLines := rfl
@[simp] theorem State.setRound_hostWaiting (s : State) (r : GroupRound) : (s.setRound r).hostWaiting = s.hostWaiting := rfl
@[simp] theorem State.setRound_snooping (s : State) (r : GroupRound) : (s.setRound r).snooping = s.snooping := rfl
@[simp] theorem State.setRound_releasing (s : State) (r : GroupRound) : (s.setRound r).releasing = s.releasing := rfl
@[simp] theorem State.setRound_placedAt (s : State) (r : GroupRound) : (s.setRound r).placedAt = s.placedAt := rfl
@[simp] theorem State.setRound_platform (s : State) (r : GroupRound) : (s.setRound r).platform = s.platform := rfl
@[simp] theorem State.setRound_tlb (s : State) (r : GroupRound) : (s.setRound r).tlb = s.tlb := rfl
@[simp] theorem State.setRound_icache (s : State) (r : GroupRound) : (s.setRound r).icache = s.icache := rfl
@[simp] theorem State.setRound_oplog (s : State) (r : GroupRound) : (s.setRound r).oplog = s.oplog := rfl
@[simp] theorem State.setRound_faults (s : State) (r : GroupRound) : (s.setRound r).faults = s.faults := rfl
@[simp] theorem State.setRound_launches (s : State) (r : GroupRound) : (s.setRound r).launches = s.launches := rfl
@[simp] theorem State.setRound_dies (s : State) (r : GroupRound) : (s.setRound r).dies = s.dies := rfl
@[simp] theorem State.setRound_saved (s : State) (r : GroupRound) : (s.setRound r).saved = s.saved := rfl
@[simp] theorem State.setRound_gredws (s : State) (r : GroupRound) : (s.setRound r).gredws = s.gredws := rfl
@[simp] theorem State.setRound_greds (s : State) (r : GroupRound) : (s.setRound r).greds = s.greds := rfl
@[simp] theorem State.setRound_dirty (s : State) (r : GroupRound) : (s.setRound r).dirty = s.dirty := rfl
@[simp] theorem State.setRound_recent (s : State) (r : GroupRound) : (s.setRound r).recent = s.recent := rfl
@[simp] theorem State.setRound_coreHzn (s : State) (r : GroupRound) : (s.setRound r).coreHzn = s.coreHzn := rfl
@[simp] theorem State.setRound_cbs (s : State) (r : GroupRound) : (s.setRound r).cbs = s.cbs := rfl
@[simp] theorem State.setRound_rings (s : State) (r : GroupRound) : (s.setRound r).rings = s.rings := rfl
@[simp] theorem State.setRound_heaps (s : State) (r : GroupRound) : (s.setRound r).heaps = s.heaps := rfl
@[simp] theorem State.setRound_cycles (s : State) (r : GroupRound) : (s.setRound r).cycles = s.cycles := rfl
@[simp] theorem State.setRound_migrations (s : State) (r : GroupRound) : (s.setRound r).migrations = s.migrations := rfl
@[simp] theorem State.setRound_moveErrors (s : State) (r : GroupRound) : (s.setRound r).moveErrors = s.moveErrors := rfl
@[simp] theorem State.setRound_hostThreads (s : State) (r : GroupRound) : (s.setRound r).hostThreads = s.hostThreads := rfl
@[simp] theorem State.setRound_hostCores (s : State) (r : GroupRound) : (s.setRound r).hostCores = s.hostCores := rfl
@[simp] theorem State.setRound_guests (s : State) (r : GroupRound) : (s.setRound r).guests = s.guests := rfl
@[simp] theorem State.setRound_crossings (s : State) (r : GroupRound) : (s.setRound r).crossings = s.crossings := rfl
@[simp] theorem State.setRound_vlogs (s : State) (r : GroupRound) : (s.setRound r).vlogs = s.vlogs := rfl
@[simp] theorem State.setRound_ctrls (s : State) (r : GroupRound) : (s.setRound r).ctrls = s.ctrls := rfl
@[simp] theorem State.setRound_sec (s : State) (r : GroupRound) : (s.setRound r).sec = s.sec := rfl
@[simp] theorem State.setRound_hub (s : State) (r : GroupRound) : (s.setRound r).hub = s.hub := rfl
@[simp] theorem State.setRound_worlds (s : State) (r : GroupRound) : (s.setRound r).worlds = s.worlds := rfl
@[simp] theorem State.setRound_clearing (s : State) (r : GroupRound) : (s.setRound r).clearing = s.clearing := rfl
@[simp] theorem State.setRound_dirtyRows (s : State) (r : GroupRound) : (s.setRound r).dirtyRows = s.dirtyRows := rfl
@[simp] theorem State.setRound_checked (s : State) (r : GroupRound) : (s.setRound r).checked = s.checked := rfl
@[simp] theorem State.setRound_leaseNs (s : State) (r : GroupRound) : (s.setRound r).leaseNs = s.leaseNs := rfl
@[simp] theorem State.setRound_marginNs (s : State) (r : GroupRound) : (s.setRound r).marginNs = s.marginNs := rfl
@[simp] theorem State.setRound_snapArmed (s : State) (r : GroupRound) : (s.setRound r).snapArmed = s.snapArmed := rfl
@[simp] theorem State.setRound_snapUser (s : State) (r : GroupRound) : (s.setRound r).snapUser = s.snapUser := rfl
@[simp] theorem State.setRound_snapPin (s : State) (r : GroupRound) : (s.setRound r).snapPin = s.snapPin := rfl
@[simp] theorem State.setRound_snapMc (s : State) (r : GroupRound) : (s.setRound r).snapMc = s.snapMc := rfl
@[simp] theorem State.setRound_snapCount (s : State) (r : GroupRound) : (s.setRound r).snapCount = s.snapCount := rfl
@[simp] theorem State.setRound_snaps (s : State) (r : GroupRound) : (s.setRound r).snaps = s.snaps := rfl
@[simp] theorem State.setRound_samples (s : State) (r : GroupRound) : (s.setRound r).samples = s.samples := rfl
@[simp] theorem State.setRound_issues (s : State) (r : GroupRound) : (s.setRound r).issues = s.issues := rfl
@[simp] theorem State.setRound_sampled (s : State) (r : GroupRound) : (s.setRound r).sampled = s.sampled := rfl
@[simp] theorem State.setRound_requested (s : State) (r : GroupRound) : (s.setRound r).requested = s.requested := rfl

@[simp] theorem State.pushStore_agenda (s : State) (key lane world pa : Nat) (bs : List Byte) (piece : Bool) : (s.pushStore key lane world pa bs piece).agenda = s.agenda := rfl
@[simp] theorem State.pushStore_turn (s : State) (key lane world pa : Nat) (bs : List Byte) (piece : Bool) : (s.pushStore key lane world pa bs piece).turn = s.turn := rfl
@[simp] theorem State.pushStore_cur (s : State) (key lane world pa : Nat) (bs : List Byte) (piece : Bool) : (s.pushStore key lane world pa bs piece).cur = s.cur := rfl
@[simp] theorem State.pushStore_freeCtr (s : State) (key lane world pa : Nat) (bs : List Byte) (piece : Bool) : (s.pushStore key lane world pa bs piece).freeCtr = s.freeCtr := rfl
@[simp] theorem State.pushStore_clock (s : State) (key lane world pa : Nat) (bs : List Byte) (piece : Bool) : (s.pushStore key lane world pa bs piece).clock = s.clock := rfl
@[simp] theorem State.pushStore_gtime (s : State) (key lane world pa : Nat) (bs : List Byte) (piece : Bool) : (s.pushStore key lane world pa bs piece).gtime = s.gtime := rfl
@[simp] theorem State.pushStore_released (s : State) (key lane world pa : Nat) (bs : List Byte) (piece : Bool) : (s.pushStore key lane world pa bs piece).released = s.released := rfl
@[simp] theorem State.pushStore_bootStep (s : State) (key lane world pa : Nat) (bs : List Byte) (piece : Bool) : (s.pushStore key lane world pa bs piece).bootStep = s.bootStep := rfl
@[simp] theorem State.pushStore_bootFailed (s : State) (key lane world pa : Nat) (bs : List Byte) (piece : Bool) : (s.pushStore key lane world pa bs piece).bootFailed = s.bootFailed := rfl
@[simp] theorem State.pushStore_mem (s : State) (key lane world pa : Nat) (bs : List Byte) (piece : Bool) : (s.pushStore key lane world pa bs piece).mem = s.mem := rfl
@[simp] theorem State.pushStore_poisonLines (s : State) (key lane world pa : Nat) (bs : List Byte) (piece : Bool) : (s.pushStore key lane world pa bs piece).poisonLines = s.poisonLines := rfl
@[simp] theorem State.pushStore_lineWorld (s : State) (key lane world pa : Nat) (bs : List Byte) (piece : Bool) : (s.pushStore key lane world pa bs piece).lineWorld = s.lineWorld := rfl
@[simp] theorem State.pushStore_seals (s : State) (key lane world pa : Nat) (bs : List Byte) (piece : Bool) : (s.pushStore key lane world pa bs piece).seals = s.seals := rfl
@[simp] theorem State.pushStore_gangs (s : State) (key lane world pa : Nat) (bs : List Byte) (piece : Bool) : (s.pushStore key lane world pa bs piece).gangs = s.gangs := rfl
@[simp] theorem State.pushStore_arrays (s : State) (key lane world pa : Nat) (bs : List Byte) (piece : Bool) : (s.pushStore key lane world pa bs piece).arrays = s.arrays := rfl
@[simp] theorem State.pushStore_allocs (s : State) (key lane world pa : Nat) (bs : List Byte) (piece : Bool) : (s.pushStore key lane world pa bs piece).allocs = s.allocs := rfl
@[simp] theorem State.pushStore_copies (s : State) (key lane world pa : Nat) (bs : List Byte) (piece : Bool) : (s.pushStore key lane world pa bs piece).copies = s.copies := rfl
@[simp] theorem State.pushStore_loads (s : State) (key lane world pa : Nat) (bs : List Byte) (piece : Bool) : (s.pushStore key lane world pa bs piece).loads = s.loads := rfl
@[simp] theorem State.pushStore_atoms (s : State) (key lane world pa : Nat) (bs : List Byte) (piece : Bool) : (s.pushStore key lane world pa bs piece).atoms = s.atoms := rfl
@[simp] theorem State.pushStore_acks (s : State) (key lane world pa : Nat) (bs : List Byte) (piece : Bool) : (s.pushStore key lane world pa bs piece).acks = s.acks := rfl
@[simp] theorem State.pushStore_redseqs (s : State) (key lane world pa : Nat) (bs : List Byte) (piece : Bool) : (s.pushStore key lane world pa bs piece).redseqs = s.redseqs := rfl
@[simp] theorem State.pushStore_owned (s : State) (key lane world pa : Nat) (bs : List Byte) (piece : Bool) : (s.pushStore key lane world pa bs piece).owned = s.owned := rfl
@[simp] theorem State.pushStore_hostLines (s : State) (key lane world pa : Nat) (bs : List Byte) (piece : Bool) : (s.pushStore key lane world pa bs piece).hostLines = s.hostLines := rfl
@[simp] theorem State.pushStore_hostWaiting (s : State) (key lane world pa : Nat) (bs : List Byte) (piece : Bool) : (s.pushStore key lane world pa bs piece).hostWaiting = s.hostWaiting := rfl
@[simp] theorem State.pushStore_snooping (s : State) (key lane world pa : Nat) (bs : List Byte) (piece : Bool) : (s.pushStore key lane world pa bs piece).snooping = s.snooping := rfl
@[simp] theorem State.pushStore_releasing (s : State) (key lane world pa : Nat) (bs : List Byte) (piece : Bool) : (s.pushStore key lane world pa bs piece).releasing = s.releasing := rfl
@[simp] theorem State.pushStore_placedAt (s : State) (key lane world pa : Nat) (bs : List Byte) (piece : Bool) : (s.pushStore key lane world pa bs piece).placedAt = s.placedAt := rfl
@[simp] theorem State.pushStore_platform (s : State) (key lane world pa : Nat) (bs : List Byte) (piece : Bool) : (s.pushStore key lane world pa bs piece).platform = s.platform := rfl
@[simp] theorem State.pushStore_tlb (s : State) (key lane world pa : Nat) (bs : List Byte) (piece : Bool) : (s.pushStore key lane world pa bs piece).tlb = s.tlb := rfl
@[simp] theorem State.pushStore_icache (s : State) (key lane world pa : Nat) (bs : List Byte) (piece : Bool) : (s.pushStore key lane world pa bs piece).icache = s.icache := rfl
@[simp] theorem State.pushStore_oplog (s : State) (key lane world pa : Nat) (bs : List Byte) (piece : Bool) : (s.pushStore key lane world pa bs piece).oplog = s.oplog := rfl
@[simp] theorem State.pushStore_faults (s : State) (key lane world pa : Nat) (bs : List Byte) (piece : Bool) : (s.pushStore key lane world pa bs piece).faults = s.faults := rfl
@[simp] theorem State.pushStore_launches (s : State) (key lane world pa : Nat) (bs : List Byte) (piece : Bool) : (s.pushStore key lane world pa bs piece).launches = s.launches := rfl
@[simp] theorem State.pushStore_dies (s : State) (key lane world pa : Nat) (bs : List Byte) (piece : Bool) : (s.pushStore key lane world pa bs piece).dies = s.dies := rfl
@[simp] theorem State.pushStore_saved (s : State) (key lane world pa : Nat) (bs : List Byte) (piece : Bool) : (s.pushStore key lane world pa bs piece).saved = s.saved := rfl
@[simp] theorem State.pushStore_groupRounds (s : State) (key lane world pa : Nat) (bs : List Byte) (piece : Bool) : (s.pushStore key lane world pa bs piece).groupRounds = s.groupRounds := rfl
@[simp] theorem State.pushStore_gredws (s : State) (key lane world pa : Nat) (bs : List Byte) (piece : Bool) : (s.pushStore key lane world pa bs piece).gredws = s.gredws := rfl
@[simp] theorem State.pushStore_greds (s : State) (key lane world pa : Nat) (bs : List Byte) (piece : Bool) : (s.pushStore key lane world pa bs piece).greds = s.greds := rfl
@[simp] theorem State.pushStore_dirty (s : State) (key lane world pa : Nat) (bs : List Byte) (piece : Bool) : (s.pushStore key lane world pa bs piece).dirty = s.dirty := rfl
@[simp] theorem State.pushStore_recent (s : State) (key lane world pa : Nat) (bs : List Byte) (piece : Bool) : (s.pushStore key lane world pa bs piece).recent = s.recent := rfl
@[simp] theorem State.pushStore_coreHzn (s : State) (key lane world pa : Nat) (bs : List Byte) (piece : Bool) : (s.pushStore key lane world pa bs piece).coreHzn = s.coreHzn := rfl
@[simp] theorem State.pushStore_cbs (s : State) (key lane world pa : Nat) (bs : List Byte) (piece : Bool) : (s.pushStore key lane world pa bs piece).cbs = s.cbs := rfl
@[simp] theorem State.pushStore_rings (s : State) (key lane world pa : Nat) (bs : List Byte) (piece : Bool) : (s.pushStore key lane world pa bs piece).rings = s.rings := rfl
@[simp] theorem State.pushStore_heaps (s : State) (key lane world pa : Nat) (bs : List Byte) (piece : Bool) : (s.pushStore key lane world pa bs piece).heaps = s.heaps := rfl
@[simp] theorem State.pushStore_cycles (s : State) (key lane world pa : Nat) (bs : List Byte) (piece : Bool) : (s.pushStore key lane world pa bs piece).cycles = s.cycles := rfl
@[simp] theorem State.pushStore_migrations (s : State) (key lane world pa : Nat) (bs : List Byte) (piece : Bool) : (s.pushStore key lane world pa bs piece).migrations = s.migrations := rfl
@[simp] theorem State.pushStore_moveErrors (s : State) (key lane world pa : Nat) (bs : List Byte) (piece : Bool) : (s.pushStore key lane world pa bs piece).moveErrors = s.moveErrors := rfl
@[simp] theorem State.pushStore_hostThreads (s : State) (key lane world pa : Nat) (bs : List Byte) (piece : Bool) : (s.pushStore key lane world pa bs piece).hostThreads = s.hostThreads := rfl
@[simp] theorem State.pushStore_hostCores (s : State) (key lane world pa : Nat) (bs : List Byte) (piece : Bool) : (s.pushStore key lane world pa bs piece).hostCores = s.hostCores := rfl
@[simp] theorem State.pushStore_guests (s : State) (key lane world pa : Nat) (bs : List Byte) (piece : Bool) : (s.pushStore key lane world pa bs piece).guests = s.guests := rfl
@[simp] theorem State.pushStore_crossings (s : State) (key lane world pa : Nat) (bs : List Byte) (piece : Bool) : (s.pushStore key lane world pa bs piece).crossings = s.crossings := rfl
@[simp] theorem State.pushStore_vlogs (s : State) (key lane world pa : Nat) (bs : List Byte) (piece : Bool) : (s.pushStore key lane world pa bs piece).vlogs = s.vlogs := rfl
@[simp] theorem State.pushStore_ctrls (s : State) (key lane world pa : Nat) (bs : List Byte) (piece : Bool) : (s.pushStore key lane world pa bs piece).ctrls = s.ctrls := rfl
@[simp] theorem State.pushStore_sec (s : State) (key lane world pa : Nat) (bs : List Byte) (piece : Bool) : (s.pushStore key lane world pa bs piece).sec = s.sec := rfl
@[simp] theorem State.pushStore_hub (s : State) (key lane world pa : Nat) (bs : List Byte) (piece : Bool) : (s.pushStore key lane world pa bs piece).hub = s.hub := rfl
@[simp] theorem State.pushStore_worlds (s : State) (key lane world pa : Nat) (bs : List Byte) (piece : Bool) : (s.pushStore key lane world pa bs piece).worlds = s.worlds := rfl
@[simp] theorem State.pushStore_clearing (s : State) (key lane world pa : Nat) (bs : List Byte) (piece : Bool) : (s.pushStore key lane world pa bs piece).clearing = s.clearing := rfl
@[simp] theorem State.pushStore_dirtyRows (s : State) (key lane world pa : Nat) (bs : List Byte) (piece : Bool) : (s.pushStore key lane world pa bs piece).dirtyRows = s.dirtyRows := rfl
@[simp] theorem State.pushStore_checked (s : State) (key lane world pa : Nat) (bs : List Byte) (piece : Bool) : (s.pushStore key lane world pa bs piece).checked = s.checked := rfl
@[simp] theorem State.pushStore_leaseNs (s : State) (key lane world pa : Nat) (bs : List Byte) (piece : Bool) : (s.pushStore key lane world pa bs piece).leaseNs = s.leaseNs := rfl
@[simp] theorem State.pushStore_marginNs (s : State) (key lane world pa : Nat) (bs : List Byte) (piece : Bool) : (s.pushStore key lane world pa bs piece).marginNs = s.marginNs := rfl
@[simp] theorem State.pushStore_snapArmed (s : State) (key lane world pa : Nat) (bs : List Byte) (piece : Bool) : (s.pushStore key lane world pa bs piece).snapArmed = s.snapArmed := rfl
@[simp] theorem State.pushStore_snapUser (s : State) (key lane world pa : Nat) (bs : List Byte) (piece : Bool) : (s.pushStore key lane world pa bs piece).snapUser = s.snapUser := rfl
@[simp] theorem State.pushStore_snapPin (s : State) (key lane world pa : Nat) (bs : List Byte) (piece : Bool) : (s.pushStore key lane world pa bs piece).snapPin = s.snapPin := rfl
@[simp] theorem State.pushStore_snapMc (s : State) (key lane world pa : Nat) (bs : List Byte) (piece : Bool) : (s.pushStore key lane world pa bs piece).snapMc = s.snapMc := rfl
@[simp] theorem State.pushStore_snapCount (s : State) (key lane world pa : Nat) (bs : List Byte) (piece : Bool) : (s.pushStore key lane world pa bs piece).snapCount = s.snapCount := rfl
@[simp] theorem State.pushStore_snaps (s : State) (key lane world pa : Nat) (bs : List Byte) (piece : Bool) : (s.pushStore key lane world pa bs piece).snaps = s.snaps := rfl
@[simp] theorem State.pushStore_samples (s : State) (key lane world pa : Nat) (bs : List Byte) (piece : Bool) : (s.pushStore key lane world pa bs piece).samples = s.samples := rfl
@[simp] theorem State.pushStore_issues (s : State) (key lane world pa : Nat) (bs : List Byte) (piece : Bool) : (s.pushStore key lane world pa bs piece).issues = s.issues := rfl
@[simp] theorem State.pushStore_sampled (s : State) (key lane world pa : Nat) (bs : List Byte) (piece : Bool) : (s.pushStore key lane world pa bs piece).sampled = s.sampled := rfl
@[simp] theorem State.pushStore_requested (s : State) (key lane world pa : Nat) (bs : List Byte) (piece : Bool) : (s.pushStore key lane world pa bs piece).requested = s.requested := rfl

@[simp] theorem State.poke_agenda (s : State) (pa : Nat) (bs : List Byte) : (s.poke pa bs).agenda = s.agenda := rfl
@[simp] theorem State.poke_turn (s : State) (pa : Nat) (bs : List Byte) : (s.poke pa bs).turn = s.turn := rfl
@[simp] theorem State.poke_cur (s : State) (pa : Nat) (bs : List Byte) : (s.poke pa bs).cur = s.cur := rfl
@[simp] theorem State.poke_freeCtr (s : State) (pa : Nat) (bs : List Byte) : (s.poke pa bs).freeCtr = s.freeCtr := rfl
@[simp] theorem State.poke_clock (s : State) (pa : Nat) (bs : List Byte) : (s.poke pa bs).clock = s.clock := rfl
@[simp] theorem State.poke_gtime (s : State) (pa : Nat) (bs : List Byte) : (s.poke pa bs).gtime = s.gtime := rfl
@[simp] theorem State.poke_released (s : State) (pa : Nat) (bs : List Byte) : (s.poke pa bs).released = s.released := rfl
@[simp] theorem State.poke_bootStep (s : State) (pa : Nat) (bs : List Byte) : (s.poke pa bs).bootStep = s.bootStep := rfl
@[simp] theorem State.poke_bootFailed (s : State) (pa : Nat) (bs : List Byte) : (s.poke pa bs).bootFailed = s.bootFailed := rfl
@[simp] theorem State.poke_poisonLines (s : State) (pa : Nat) (bs : List Byte) : (s.poke pa bs).poisonLines = s.poisonLines := rfl
@[simp] theorem State.poke_lineWorld (s : State) (pa : Nat) (bs : List Byte) : (s.poke pa bs).lineWorld = s.lineWorld := rfl
@[simp] theorem State.poke_seals (s : State) (pa : Nat) (bs : List Byte) : (s.poke pa bs).seals = s.seals := rfl
@[simp] theorem State.poke_gangs (s : State) (pa : Nat) (bs : List Byte) : (s.poke pa bs).gangs = s.gangs := rfl
@[simp] theorem State.poke_arrays (s : State) (pa : Nat) (bs : List Byte) : (s.poke pa bs).arrays = s.arrays := rfl
@[simp] theorem State.poke_allocs (s : State) (pa : Nat) (bs : List Byte) : (s.poke pa bs).allocs = s.allocs := rfl
@[simp] theorem State.poke_copies (s : State) (pa : Nat) (bs : List Byte) : (s.poke pa bs).copies = s.copies := rfl
@[simp] theorem State.poke_loads (s : State) (pa : Nat) (bs : List Byte) : (s.poke pa bs).loads = s.loads := rfl
@[simp] theorem State.poke_stores (s : State) (pa : Nat) (bs : List Byte) : (s.poke pa bs).stores = s.stores := rfl
@[simp] theorem State.poke_atoms (s : State) (pa : Nat) (bs : List Byte) : (s.poke pa bs).atoms = s.atoms := rfl
@[simp] theorem State.poke_acks (s : State) (pa : Nat) (bs : List Byte) : (s.poke pa bs).acks = s.acks := rfl
@[simp] theorem State.poke_redseqs (s : State) (pa : Nat) (bs : List Byte) : (s.poke pa bs).redseqs = s.redseqs := rfl
@[simp] theorem State.poke_leases (s : State) (pa : Nat) (bs : List Byte) : (s.poke pa bs).leases = s.leases := rfl
@[simp] theorem State.poke_owned (s : State) (pa : Nat) (bs : List Byte) : (s.poke pa bs).owned = s.owned := rfl
@[simp] theorem State.poke_hostLines (s : State) (pa : Nat) (bs : List Byte) : (s.poke pa bs).hostLines = s.hostLines := rfl
@[simp] theorem State.poke_hostWaiting (s : State) (pa : Nat) (bs : List Byte) : (s.poke pa bs).hostWaiting = s.hostWaiting := rfl
@[simp] theorem State.poke_snooping (s : State) (pa : Nat) (bs : List Byte) : (s.poke pa bs).snooping = s.snooping := rfl
@[simp] theorem State.poke_releasing (s : State) (pa : Nat) (bs : List Byte) : (s.poke pa bs).releasing = s.releasing := rfl
@[simp] theorem State.poke_placedAt (s : State) (pa : Nat) (bs : List Byte) : (s.poke pa bs).placedAt = s.placedAt := rfl
@[simp] theorem State.poke_platform (s : State) (pa : Nat) (bs : List Byte) : (s.poke pa bs).platform = s.platform := rfl
@[simp] theorem State.poke_tlb (s : State) (pa : Nat) (bs : List Byte) : (s.poke pa bs).tlb = s.tlb := rfl
@[simp] theorem State.poke_icache (s : State) (pa : Nat) (bs : List Byte) : (s.poke pa bs).icache = s.icache := rfl
@[simp] theorem State.poke_oplog (s : State) (pa : Nat) (bs : List Byte) : (s.poke pa bs).oplog = s.oplog := rfl
@[simp] theorem State.poke_faults (s : State) (pa : Nat) (bs : List Byte) : (s.poke pa bs).faults = s.faults := rfl
@[simp] theorem State.poke_launches (s : State) (pa : Nat) (bs : List Byte) : (s.poke pa bs).launches = s.launches := rfl
@[simp] theorem State.poke_dies (s : State) (pa : Nat) (bs : List Byte) : (s.poke pa bs).dies = s.dies := rfl
@[simp] theorem State.poke_saved (s : State) (pa : Nat) (bs : List Byte) : (s.poke pa bs).saved = s.saved := rfl
@[simp] theorem State.poke_groupRounds (s : State) (pa : Nat) (bs : List Byte) : (s.poke pa bs).groupRounds = s.groupRounds := rfl
@[simp] theorem State.poke_gredws (s : State) (pa : Nat) (bs : List Byte) : (s.poke pa bs).gredws = s.gredws := rfl
@[simp] theorem State.poke_greds (s : State) (pa : Nat) (bs : List Byte) : (s.poke pa bs).greds = s.greds := rfl
@[simp] theorem State.poke_recent (s : State) (pa : Nat) (bs : List Byte) : (s.poke pa bs).recent = s.recent := rfl
@[simp] theorem State.poke_coreHzn (s : State) (pa : Nat) (bs : List Byte) : (s.poke pa bs).coreHzn = s.coreHzn := rfl
@[simp] theorem State.poke_cbs (s : State) (pa : Nat) (bs : List Byte) : (s.poke pa bs).cbs = s.cbs := rfl
@[simp] theorem State.poke_rings (s : State) (pa : Nat) (bs : List Byte) : (s.poke pa bs).rings = s.rings := rfl
@[simp] theorem State.poke_heaps (s : State) (pa : Nat) (bs : List Byte) : (s.poke pa bs).heaps = s.heaps := rfl
@[simp] theorem State.poke_cycles (s : State) (pa : Nat) (bs : List Byte) : (s.poke pa bs).cycles = s.cycles := rfl
@[simp] theorem State.poke_migrations (s : State) (pa : Nat) (bs : List Byte) : (s.poke pa bs).migrations = s.migrations := rfl
@[simp] theorem State.poke_moveErrors (s : State) (pa : Nat) (bs : List Byte) : (s.poke pa bs).moveErrors = s.moveErrors := rfl
@[simp] theorem State.poke_hostThreads (s : State) (pa : Nat) (bs : List Byte) : (s.poke pa bs).hostThreads = s.hostThreads := rfl
@[simp] theorem State.poke_hostCores (s : State) (pa : Nat) (bs : List Byte) : (s.poke pa bs).hostCores = s.hostCores := rfl
@[simp] theorem State.poke_guests (s : State) (pa : Nat) (bs : List Byte) : (s.poke pa bs).guests = s.guests := rfl
@[simp] theorem State.poke_crossings (s : State) (pa : Nat) (bs : List Byte) : (s.poke pa bs).crossings = s.crossings := rfl
@[simp] theorem State.poke_vlogs (s : State) (pa : Nat) (bs : List Byte) : (s.poke pa bs).vlogs = s.vlogs := rfl
@[simp] theorem State.poke_ctrls (s : State) (pa : Nat) (bs : List Byte) : (s.poke pa bs).ctrls = s.ctrls := rfl
@[simp] theorem State.poke_sec (s : State) (pa : Nat) (bs : List Byte) : (s.poke pa bs).sec = s.sec := rfl
@[simp] theorem State.poke_hub (s : State) (pa : Nat) (bs : List Byte) : (s.poke pa bs).hub = s.hub := rfl
@[simp] theorem State.poke_worlds (s : State) (pa : Nat) (bs : List Byte) : (s.poke pa bs).worlds = s.worlds := rfl
@[simp] theorem State.poke_clearing (s : State) (pa : Nat) (bs : List Byte) : (s.poke pa bs).clearing = s.clearing := rfl
@[simp] theorem State.poke_dirtyRows (s : State) (pa : Nat) (bs : List Byte) : (s.poke pa bs).dirtyRows = s.dirtyRows := rfl
@[simp] theorem State.poke_checked (s : State) (pa : Nat) (bs : List Byte) : (s.poke pa bs).checked = s.checked := rfl
@[simp] theorem State.poke_leaseNs (s : State) (pa : Nat) (bs : List Byte) : (s.poke pa bs).leaseNs = s.leaseNs := rfl
@[simp] theorem State.poke_marginNs (s : State) (pa : Nat) (bs : List Byte) : (s.poke pa bs).marginNs = s.marginNs := rfl
@[simp] theorem State.poke_snapArmed (s : State) (pa : Nat) (bs : List Byte) : (s.poke pa bs).snapArmed = s.snapArmed := rfl
@[simp] theorem State.poke_snapUser (s : State) (pa : Nat) (bs : List Byte) : (s.poke pa bs).snapUser = s.snapUser := rfl
@[simp] theorem State.poke_snapPin (s : State) (pa : Nat) (bs : List Byte) : (s.poke pa bs).snapPin = s.snapPin := rfl
@[simp] theorem State.poke_snapMc (s : State) (pa : Nat) (bs : List Byte) : (s.poke pa bs).snapMc = s.snapMc := rfl
@[simp] theorem State.poke_snapCount (s : State) (pa : Nat) (bs : List Byte) : (s.poke pa bs).snapCount = s.snapCount := rfl
@[simp] theorem State.poke_snaps (s : State) (pa : Nat) (bs : List Byte) : (s.poke pa bs).snaps = s.snaps := rfl
@[simp] theorem State.poke_samples (s : State) (pa : Nat) (bs : List Byte) : (s.poke pa bs).samples = s.samples := rfl
@[simp] theorem State.poke_issues (s : State) (pa : Nat) (bs : List Byte) : (s.poke pa bs).issues = s.issues := rfl
@[simp] theorem State.poke_sampled (s : State) (pa : Nat) (bs : List Byte) : (s.poke pa bs).sampled = s.sampled := rfl
@[simp] theorem State.poke_requested (s : State) (pa : Nat) (bs : List Byte) : (s.poke pa bs).requested = s.requested := rfl

@[simp] theorem State.ownWords_agenda (s : State) (core : Option Nat) (pa n : Nat) : (s.ownWords core pa n).agenda = s.agenda := rfl
@[simp] theorem State.ownWords_turn (s : State) (core : Option Nat) (pa n : Nat) : (s.ownWords core pa n).turn = s.turn := rfl
@[simp] theorem State.ownWords_cur (s : State) (core : Option Nat) (pa n : Nat) : (s.ownWords core pa n).cur = s.cur := rfl
@[simp] theorem State.ownWords_freeCtr (s : State) (core : Option Nat) (pa n : Nat) : (s.ownWords core pa n).freeCtr = s.freeCtr := rfl
@[simp] theorem State.ownWords_clock (s : State) (core : Option Nat) (pa n : Nat) : (s.ownWords core pa n).clock = s.clock := rfl
@[simp] theorem State.ownWords_gtime (s : State) (core : Option Nat) (pa n : Nat) : (s.ownWords core pa n).gtime = s.gtime := rfl
@[simp] theorem State.ownWords_released (s : State) (core : Option Nat) (pa n : Nat) : (s.ownWords core pa n).released = s.released := rfl
@[simp] theorem State.ownWords_bootStep (s : State) (core : Option Nat) (pa n : Nat) : (s.ownWords core pa n).bootStep = s.bootStep := rfl
@[simp] theorem State.ownWords_bootFailed (s : State) (core : Option Nat) (pa n : Nat) : (s.ownWords core pa n).bootFailed = s.bootFailed := rfl
@[simp] theorem State.ownWords_mem (s : State) (core : Option Nat) (pa n : Nat) : (s.ownWords core pa n).mem = s.mem := rfl
@[simp] theorem State.ownWords_poisonLines (s : State) (core : Option Nat) (pa n : Nat) : (s.ownWords core pa n).poisonLines = s.poisonLines := rfl
@[simp] theorem State.ownWords_lineWorld (s : State) (core : Option Nat) (pa n : Nat) : (s.ownWords core pa n).lineWorld = s.lineWorld := rfl
@[simp] theorem State.ownWords_seals (s : State) (core : Option Nat) (pa n : Nat) : (s.ownWords core pa n).seals = s.seals := rfl
@[simp] theorem State.ownWords_gangs (s : State) (core : Option Nat) (pa n : Nat) : (s.ownWords core pa n).gangs = s.gangs := rfl
@[simp] theorem State.ownWords_arrays (s : State) (core : Option Nat) (pa n : Nat) : (s.ownWords core pa n).arrays = s.arrays := rfl
@[simp] theorem State.ownWords_allocs (s : State) (core : Option Nat) (pa n : Nat) : (s.ownWords core pa n).allocs = s.allocs := rfl
@[simp] theorem State.ownWords_copies (s : State) (core : Option Nat) (pa n : Nat) : (s.ownWords core pa n).copies = s.copies := rfl
@[simp] theorem State.ownWords_loads (s : State) (core : Option Nat) (pa n : Nat) : (s.ownWords core pa n).loads = s.loads := rfl
@[simp] theorem State.ownWords_stores (s : State) (core : Option Nat) (pa n : Nat) : (s.ownWords core pa n).stores = s.stores := rfl
@[simp] theorem State.ownWords_atoms (s : State) (core : Option Nat) (pa n : Nat) : (s.ownWords core pa n).atoms = s.atoms := rfl
@[simp] theorem State.ownWords_acks (s : State) (core : Option Nat) (pa n : Nat) : (s.ownWords core pa n).acks = s.acks := rfl
@[simp] theorem State.ownWords_redseqs (s : State) (core : Option Nat) (pa n : Nat) : (s.ownWords core pa n).redseqs = s.redseqs := rfl
@[simp] theorem State.ownWords_leases (s : State) (core : Option Nat) (pa n : Nat) : (s.ownWords core pa n).leases = s.leases := rfl
@[simp] theorem State.ownWords_hostLines (s : State) (core : Option Nat) (pa n : Nat) : (s.ownWords core pa n).hostLines = s.hostLines := rfl
@[simp] theorem State.ownWords_hostWaiting (s : State) (core : Option Nat) (pa n : Nat) : (s.ownWords core pa n).hostWaiting = s.hostWaiting := rfl
@[simp] theorem State.ownWords_snooping (s : State) (core : Option Nat) (pa n : Nat) : (s.ownWords core pa n).snooping = s.snooping := rfl
@[simp] theorem State.ownWords_releasing (s : State) (core : Option Nat) (pa n : Nat) : (s.ownWords core pa n).releasing = s.releasing := rfl
@[simp] theorem State.ownWords_placedAt (s : State) (core : Option Nat) (pa n : Nat) : (s.ownWords core pa n).placedAt = s.placedAt := rfl
@[simp] theorem State.ownWords_platform (s : State) (core : Option Nat) (pa n : Nat) : (s.ownWords core pa n).platform = s.platform := rfl
@[simp] theorem State.ownWords_tlb (s : State) (core : Option Nat) (pa n : Nat) : (s.ownWords core pa n).tlb = s.tlb := rfl
@[simp] theorem State.ownWords_icache (s : State) (core : Option Nat) (pa n : Nat) : (s.ownWords core pa n).icache = s.icache := rfl
@[simp] theorem State.ownWords_oplog (s : State) (core : Option Nat) (pa n : Nat) : (s.ownWords core pa n).oplog = s.oplog := rfl
@[simp] theorem State.ownWords_faults (s : State) (core : Option Nat) (pa n : Nat) : (s.ownWords core pa n).faults = s.faults := rfl
@[simp] theorem State.ownWords_launches (s : State) (core : Option Nat) (pa n : Nat) : (s.ownWords core pa n).launches = s.launches := rfl
@[simp] theorem State.ownWords_dies (s : State) (core : Option Nat) (pa n : Nat) : (s.ownWords core pa n).dies = s.dies := rfl
@[simp] theorem State.ownWords_saved (s : State) (core : Option Nat) (pa n : Nat) : (s.ownWords core pa n).saved = s.saved := rfl
@[simp] theorem State.ownWords_groupRounds (s : State) (core : Option Nat) (pa n : Nat) : (s.ownWords core pa n).groupRounds = s.groupRounds := rfl
@[simp] theorem State.ownWords_gredws (s : State) (core : Option Nat) (pa n : Nat) : (s.ownWords core pa n).gredws = s.gredws := rfl
@[simp] theorem State.ownWords_greds (s : State) (core : Option Nat) (pa n : Nat) : (s.ownWords core pa n).greds = s.greds := rfl
@[simp] theorem State.ownWords_dirty (s : State) (core : Option Nat) (pa n : Nat) : (s.ownWords core pa n).dirty = s.dirty := rfl
@[simp] theorem State.ownWords_recent (s : State) (core : Option Nat) (pa n : Nat) : (s.ownWords core pa n).recent = s.recent := rfl
@[simp] theorem State.ownWords_coreHzn (s : State) (core : Option Nat) (pa n : Nat) : (s.ownWords core pa n).coreHzn = s.coreHzn := rfl
@[simp] theorem State.ownWords_cbs (s : State) (core : Option Nat) (pa n : Nat) : (s.ownWords core pa n).cbs = s.cbs := rfl
@[simp] theorem State.ownWords_rings (s : State) (core : Option Nat) (pa n : Nat) : (s.ownWords core pa n).rings = s.rings := rfl
@[simp] theorem State.ownWords_heaps (s : State) (core : Option Nat) (pa n : Nat) : (s.ownWords core pa n).heaps = s.heaps := rfl
@[simp] theorem State.ownWords_cycles (s : State) (core : Option Nat) (pa n : Nat) : (s.ownWords core pa n).cycles = s.cycles := rfl
@[simp] theorem State.ownWords_migrations (s : State) (core : Option Nat) (pa n : Nat) : (s.ownWords core pa n).migrations = s.migrations := rfl
@[simp] theorem State.ownWords_moveErrors (s : State) (core : Option Nat) (pa n : Nat) : (s.ownWords core pa n).moveErrors = s.moveErrors := rfl
@[simp] theorem State.ownWords_hostThreads (s : State) (core : Option Nat) (pa n : Nat) : (s.ownWords core pa n).hostThreads = s.hostThreads := rfl
@[simp] theorem State.ownWords_hostCores (s : State) (core : Option Nat) (pa n : Nat) : (s.ownWords core pa n).hostCores = s.hostCores := rfl
@[simp] theorem State.ownWords_guests (s : State) (core : Option Nat) (pa n : Nat) : (s.ownWords core pa n).guests = s.guests := rfl
@[simp] theorem State.ownWords_crossings (s : State) (core : Option Nat) (pa n : Nat) : (s.ownWords core pa n).crossings = s.crossings := rfl
@[simp] theorem State.ownWords_vlogs (s : State) (core : Option Nat) (pa n : Nat) : (s.ownWords core pa n).vlogs = s.vlogs := rfl
@[simp] theorem State.ownWords_ctrls (s : State) (core : Option Nat) (pa n : Nat) : (s.ownWords core pa n).ctrls = s.ctrls := rfl
@[simp] theorem State.ownWords_sec (s : State) (core : Option Nat) (pa n : Nat) : (s.ownWords core pa n).sec = s.sec := rfl
@[simp] theorem State.ownWords_hub (s : State) (core : Option Nat) (pa n : Nat) : (s.ownWords core pa n).hub = s.hub := rfl
@[simp] theorem State.ownWords_worlds (s : State) (core : Option Nat) (pa n : Nat) : (s.ownWords core pa n).worlds = s.worlds := rfl
@[simp] theorem State.ownWords_clearing (s : State) (core : Option Nat) (pa n : Nat) : (s.ownWords core pa n).clearing = s.clearing := rfl
@[simp] theorem State.ownWords_dirtyRows (s : State) (core : Option Nat) (pa n : Nat) : (s.ownWords core pa n).dirtyRows = s.dirtyRows := rfl
@[simp] theorem State.ownWords_checked (s : State) (core : Option Nat) (pa n : Nat) : (s.ownWords core pa n).checked = s.checked := rfl
@[simp] theorem State.ownWords_leaseNs (s : State) (core : Option Nat) (pa n : Nat) : (s.ownWords core pa n).leaseNs = s.leaseNs := rfl
@[simp] theorem State.ownWords_marginNs (s : State) (core : Option Nat) (pa n : Nat) : (s.ownWords core pa n).marginNs = s.marginNs := rfl
@[simp] theorem State.ownWords_snapArmed (s : State) (core : Option Nat) (pa n : Nat) : (s.ownWords core pa n).snapArmed = s.snapArmed := rfl
@[simp] theorem State.ownWords_snapUser (s : State) (core : Option Nat) (pa n : Nat) : (s.ownWords core pa n).snapUser = s.snapUser := rfl
@[simp] theorem State.ownWords_snapPin (s : State) (core : Option Nat) (pa n : Nat) : (s.ownWords core pa n).snapPin = s.snapPin := rfl
@[simp] theorem State.ownWords_snapMc (s : State) (core : Option Nat) (pa n : Nat) : (s.ownWords core pa n).snapMc = s.snapMc := rfl
@[simp] theorem State.ownWords_snapCount (s : State) (core : Option Nat) (pa n : Nat) : (s.ownWords core pa n).snapCount = s.snapCount := rfl
@[simp] theorem State.ownWords_snaps (s : State) (core : Option Nat) (pa n : Nat) : (s.ownWords core pa n).snaps = s.snaps := rfl
@[simp] theorem State.ownWords_samples (s : State) (core : Option Nat) (pa n : Nat) : (s.ownWords core pa n).samples = s.samples := rfl
@[simp] theorem State.ownWords_issues (s : State) (core : Option Nat) (pa n : Nat) : (s.ownWords core pa n).issues = s.issues := rfl
@[simp] theorem State.ownWords_sampled (s : State) (core : Option Nat) (pa n : Nat) : (s.ownWords core pa n).sampled = s.sampled := rfl
@[simp] theorem State.ownWords_requested (s : State) (core : Option Nat) (pa n : Nat) : (s.ownWords core pa n).requested = s.requested := rfl

@[simp] theorem State.breakLine_agenda (s : State) (line : Nat) : (s.breakLine line).agenda = s.agenda := rfl
@[simp] theorem State.breakLine_turn (s : State) (line : Nat) : (s.breakLine line).turn = s.turn := rfl
@[simp] theorem State.breakLine_cur (s : State) (line : Nat) : (s.breakLine line).cur = s.cur := rfl
@[simp] theorem State.breakLine_freeCtr (s : State) (line : Nat) : (s.breakLine line).freeCtr = s.freeCtr := rfl
@[simp] theorem State.breakLine_clock (s : State) (line : Nat) : (s.breakLine line).clock = s.clock := rfl
@[simp] theorem State.breakLine_gtime (s : State) (line : Nat) : (s.breakLine line).gtime = s.gtime := rfl
@[simp] theorem State.breakLine_released (s : State) (line : Nat) : (s.breakLine line).released = s.released := rfl
@[simp] theorem State.breakLine_bootStep (s : State) (line : Nat) : (s.breakLine line).bootStep = s.bootStep := rfl
@[simp] theorem State.breakLine_bootFailed (s : State) (line : Nat) : (s.breakLine line).bootFailed = s.bootFailed := rfl
@[simp] theorem State.breakLine_mem (s : State) (line : Nat) : (s.breakLine line).mem = s.mem := rfl
@[simp] theorem State.breakLine_poisonLines (s : State) (line : Nat) : (s.breakLine line).poisonLines = s.poisonLines := rfl
@[simp] theorem State.breakLine_lineWorld (s : State) (line : Nat) : (s.breakLine line).lineWorld = s.lineWorld := rfl
@[simp] theorem State.breakLine_seals (s : State) (line : Nat) : (s.breakLine line).seals = s.seals := rfl
@[simp] theorem State.breakLine_gangs (s : State) (line : Nat) : (s.breakLine line).gangs = s.gangs := rfl
@[simp] theorem State.breakLine_arrays (s : State) (line : Nat) : (s.breakLine line).arrays = s.arrays := rfl
@[simp] theorem State.breakLine_allocs (s : State) (line : Nat) : (s.breakLine line).allocs = s.allocs := rfl
@[simp] theorem State.breakLine_copies (s : State) (line : Nat) : (s.breakLine line).copies = s.copies := rfl
@[simp] theorem State.breakLine_loads (s : State) (line : Nat) : (s.breakLine line).loads = s.loads := rfl
@[simp] theorem State.breakLine_stores (s : State) (line : Nat) : (s.breakLine line).stores = s.stores := rfl
@[simp] theorem State.breakLine_atoms (s : State) (line : Nat) : (s.breakLine line).atoms = s.atoms := rfl
@[simp] theorem State.breakLine_acks (s : State) (line : Nat) : (s.breakLine line).acks = s.acks := rfl
@[simp] theorem State.breakLine_redseqs (s : State) (line : Nat) : (s.breakLine line).redseqs = s.redseqs := rfl
@[simp] theorem State.breakLine_leases (s : State) (line : Nat) : (s.breakLine line).leases = s.leases := rfl
@[simp] theorem State.breakLine_owned (s : State) (line : Nat) : (s.breakLine line).owned = s.owned := rfl
@[simp] theorem State.breakLine_hostLines (s : State) (line : Nat) : (s.breakLine line).hostLines = s.hostLines := rfl
@[simp] theorem State.breakLine_hostWaiting (s : State) (line : Nat) : (s.breakLine line).hostWaiting = s.hostWaiting := rfl
@[simp] theorem State.breakLine_snooping (s : State) (line : Nat) : (s.breakLine line).snooping = s.snooping := rfl
@[simp] theorem State.breakLine_releasing (s : State) (line : Nat) : (s.breakLine line).releasing = s.releasing := rfl
@[simp] theorem State.breakLine_placedAt (s : State) (line : Nat) : (s.breakLine line).placedAt = s.placedAt := rfl
@[simp] theorem State.breakLine_platform (s : State) (line : Nat) : (s.breakLine line).platform = s.platform := rfl
@[simp] theorem State.breakLine_tlb (s : State) (line : Nat) : (s.breakLine line).tlb = s.tlb := rfl
@[simp] theorem State.breakLine_icache (s : State) (line : Nat) : (s.breakLine line).icache = s.icache := rfl
@[simp] theorem State.breakLine_oplog (s : State) (line : Nat) : (s.breakLine line).oplog = s.oplog := rfl
@[simp] theorem State.breakLine_faults (s : State) (line : Nat) : (s.breakLine line).faults = s.faults := rfl
@[simp] theorem State.breakLine_launches (s : State) (line : Nat) : (s.breakLine line).launches = s.launches := rfl
@[simp] theorem State.breakLine_dies (s : State) (line : Nat) : (s.breakLine line).dies = s.dies := rfl
@[simp] theorem State.breakLine_saved (s : State) (line : Nat) : (s.breakLine line).saved = s.saved := rfl
@[simp] theorem State.breakLine_groupRounds (s : State) (line : Nat) : (s.breakLine line).groupRounds = s.groupRounds := rfl
@[simp] theorem State.breakLine_gredws (s : State) (line : Nat) : (s.breakLine line).gredws = s.gredws := rfl
@[simp] theorem State.breakLine_greds (s : State) (line : Nat) : (s.breakLine line).greds = s.greds := rfl
@[simp] theorem State.breakLine_dirty (s : State) (line : Nat) : (s.breakLine line).dirty = s.dirty := rfl
@[simp] theorem State.breakLine_recent (s : State) (line : Nat) : (s.breakLine line).recent = s.recent := rfl
@[simp] theorem State.breakLine_coreHzn (s : State) (line : Nat) : (s.breakLine line).coreHzn = s.coreHzn := rfl
@[simp] theorem State.breakLine_cbs (s : State) (line : Nat) : (s.breakLine line).cbs = s.cbs := rfl
@[simp] theorem State.breakLine_rings (s : State) (line : Nat) : (s.breakLine line).rings = s.rings := rfl
@[simp] theorem State.breakLine_heaps (s : State) (line : Nat) : (s.breakLine line).heaps = s.heaps := rfl
@[simp] theorem State.breakLine_cycles (s : State) (line : Nat) : (s.breakLine line).cycles = s.cycles := rfl
@[simp] theorem State.breakLine_migrations (s : State) (line : Nat) : (s.breakLine line).migrations = s.migrations := rfl
@[simp] theorem State.breakLine_moveErrors (s : State) (line : Nat) : (s.breakLine line).moveErrors = s.moveErrors := rfl
@[simp] theorem State.breakLine_hostThreads (s : State) (line : Nat) : (s.breakLine line).hostThreads = s.hostThreads := rfl
@[simp] theorem State.breakLine_guests (s : State) (line : Nat) : (s.breakLine line).guests = s.guests := rfl
@[simp] theorem State.breakLine_crossings (s : State) (line : Nat) : (s.breakLine line).crossings = s.crossings := rfl
@[simp] theorem State.breakLine_vlogs (s : State) (line : Nat) : (s.breakLine line).vlogs = s.vlogs := rfl
@[simp] theorem State.breakLine_ctrls (s : State) (line : Nat) : (s.breakLine line).ctrls = s.ctrls := rfl
@[simp] theorem State.breakLine_sec (s : State) (line : Nat) : (s.breakLine line).sec = s.sec := rfl
@[simp] theorem State.breakLine_hub (s : State) (line : Nat) : (s.breakLine line).hub = s.hub := rfl
@[simp] theorem State.breakLine_worlds (s : State) (line : Nat) : (s.breakLine line).worlds = s.worlds := rfl
@[simp] theorem State.breakLine_clearing (s : State) (line : Nat) : (s.breakLine line).clearing = s.clearing := rfl
@[simp] theorem State.breakLine_dirtyRows (s : State) (line : Nat) : (s.breakLine line).dirtyRows = s.dirtyRows := rfl
@[simp] theorem State.breakLine_checked (s : State) (line : Nat) : (s.breakLine line).checked = s.checked := rfl
@[simp] theorem State.breakLine_leaseNs (s : State) (line : Nat) : (s.breakLine line).leaseNs = s.leaseNs := rfl
@[simp] theorem State.breakLine_marginNs (s : State) (line : Nat) : (s.breakLine line).marginNs = s.marginNs := rfl
@[simp] theorem State.breakLine_snapArmed (s : State) (line : Nat) : (s.breakLine line).snapArmed = s.snapArmed := rfl
@[simp] theorem State.breakLine_snapUser (s : State) (line : Nat) : (s.breakLine line).snapUser = s.snapUser := rfl
@[simp] theorem State.breakLine_snapPin (s : State) (line : Nat) : (s.breakLine line).snapPin = s.snapPin := rfl
@[simp] theorem State.breakLine_snapMc (s : State) (line : Nat) : (s.breakLine line).snapMc = s.snapMc := rfl
@[simp] theorem State.breakLine_snapCount (s : State) (line : Nat) : (s.breakLine line).snapCount = s.snapCount := rfl
@[simp] theorem State.breakLine_snaps (s : State) (line : Nat) : (s.breakLine line).snaps = s.snaps := rfl
@[simp] theorem State.breakLine_samples (s : State) (line : Nat) : (s.breakLine line).samples = s.samples := rfl
@[simp] theorem State.breakLine_issues (s : State) (line : Nat) : (s.breakLine line).issues = s.issues := rfl
@[simp] theorem State.breakLine_sampled (s : State) (line : Nat) : (s.breakLine line).sampled = s.sampled := rfl
@[simp] theorem State.breakLine_requested (s : State) (line : Nat) : (s.breakLine line).requested = s.requested := rfl

@[simp] theorem State.onHostCore_agenda (s : State) (host : Nat) (f : HostCore → HostCore) : (s.onHostCore host f).agenda = s.agenda := rfl
@[simp] theorem State.onHostCore_turn (s : State) (host : Nat) (f : HostCore → HostCore) : (s.onHostCore host f).turn = s.turn := rfl
@[simp] theorem State.onHostCore_cur (s : State) (host : Nat) (f : HostCore → HostCore) : (s.onHostCore host f).cur = s.cur := rfl
@[simp] theorem State.onHostCore_freeCtr (s : State) (host : Nat) (f : HostCore → HostCore) : (s.onHostCore host f).freeCtr = s.freeCtr := rfl
@[simp] theorem State.onHostCore_clock (s : State) (host : Nat) (f : HostCore → HostCore) : (s.onHostCore host f).clock = s.clock := rfl
@[simp] theorem State.onHostCore_gtime (s : State) (host : Nat) (f : HostCore → HostCore) : (s.onHostCore host f).gtime = s.gtime := rfl
@[simp] theorem State.onHostCore_released (s : State) (host : Nat) (f : HostCore → HostCore) : (s.onHostCore host f).released = s.released := rfl
@[simp] theorem State.onHostCore_bootStep (s : State) (host : Nat) (f : HostCore → HostCore) : (s.onHostCore host f).bootStep = s.bootStep := rfl
@[simp] theorem State.onHostCore_bootFailed (s : State) (host : Nat) (f : HostCore → HostCore) : (s.onHostCore host f).bootFailed = s.bootFailed := rfl
@[simp] theorem State.onHostCore_mem (s : State) (host : Nat) (f : HostCore → HostCore) : (s.onHostCore host f).mem = s.mem := rfl
@[simp] theorem State.onHostCore_poisonLines (s : State) (host : Nat) (f : HostCore → HostCore) : (s.onHostCore host f).poisonLines = s.poisonLines := rfl
@[simp] theorem State.onHostCore_lineWorld (s : State) (host : Nat) (f : HostCore → HostCore) : (s.onHostCore host f).lineWorld = s.lineWorld := rfl
@[simp] theorem State.onHostCore_seals (s : State) (host : Nat) (f : HostCore → HostCore) : (s.onHostCore host f).seals = s.seals := rfl
@[simp] theorem State.onHostCore_gangs (s : State) (host : Nat) (f : HostCore → HostCore) : (s.onHostCore host f).gangs = s.gangs := rfl
@[simp] theorem State.onHostCore_arrays (s : State) (host : Nat) (f : HostCore → HostCore) : (s.onHostCore host f).arrays = s.arrays := rfl
@[simp] theorem State.onHostCore_allocs (s : State) (host : Nat) (f : HostCore → HostCore) : (s.onHostCore host f).allocs = s.allocs := rfl
@[simp] theorem State.onHostCore_copies (s : State) (host : Nat) (f : HostCore → HostCore) : (s.onHostCore host f).copies = s.copies := rfl
@[simp] theorem State.onHostCore_loads (s : State) (host : Nat) (f : HostCore → HostCore) : (s.onHostCore host f).loads = s.loads := rfl
@[simp] theorem State.onHostCore_stores (s : State) (host : Nat) (f : HostCore → HostCore) : (s.onHostCore host f).stores = s.stores := rfl
@[simp] theorem State.onHostCore_atoms (s : State) (host : Nat) (f : HostCore → HostCore) : (s.onHostCore host f).atoms = s.atoms := rfl
@[simp] theorem State.onHostCore_acks (s : State) (host : Nat) (f : HostCore → HostCore) : (s.onHostCore host f).acks = s.acks := rfl
@[simp] theorem State.onHostCore_redseqs (s : State) (host : Nat) (f : HostCore → HostCore) : (s.onHostCore host f).redseqs = s.redseqs := rfl
@[simp] theorem State.onHostCore_leases (s : State) (host : Nat) (f : HostCore → HostCore) : (s.onHostCore host f).leases = s.leases := rfl
@[simp] theorem State.onHostCore_owned (s : State) (host : Nat) (f : HostCore → HostCore) : (s.onHostCore host f).owned = s.owned := rfl
@[simp] theorem State.onHostCore_hostLines (s : State) (host : Nat) (f : HostCore → HostCore) : (s.onHostCore host f).hostLines = s.hostLines := rfl
@[simp] theorem State.onHostCore_hostWaiting (s : State) (host : Nat) (f : HostCore → HostCore) : (s.onHostCore host f).hostWaiting = s.hostWaiting := rfl
@[simp] theorem State.onHostCore_snooping (s : State) (host : Nat) (f : HostCore → HostCore) : (s.onHostCore host f).snooping = s.snooping := rfl
@[simp] theorem State.onHostCore_releasing (s : State) (host : Nat) (f : HostCore → HostCore) : (s.onHostCore host f).releasing = s.releasing := rfl
@[simp] theorem State.onHostCore_placedAt (s : State) (host : Nat) (f : HostCore → HostCore) : (s.onHostCore host f).placedAt = s.placedAt := rfl
@[simp] theorem State.onHostCore_platform (s : State) (host : Nat) (f : HostCore → HostCore) : (s.onHostCore host f).platform = s.platform := rfl
@[simp] theorem State.onHostCore_tlb (s : State) (host : Nat) (f : HostCore → HostCore) : (s.onHostCore host f).tlb = s.tlb := rfl
@[simp] theorem State.onHostCore_icache (s : State) (host : Nat) (f : HostCore → HostCore) : (s.onHostCore host f).icache = s.icache := rfl
@[simp] theorem State.onHostCore_oplog (s : State) (host : Nat) (f : HostCore → HostCore) : (s.onHostCore host f).oplog = s.oplog := rfl
@[simp] theorem State.onHostCore_faults (s : State) (host : Nat) (f : HostCore → HostCore) : (s.onHostCore host f).faults = s.faults := rfl
@[simp] theorem State.onHostCore_launches (s : State) (host : Nat) (f : HostCore → HostCore) : (s.onHostCore host f).launches = s.launches := rfl
@[simp] theorem State.onHostCore_dies (s : State) (host : Nat) (f : HostCore → HostCore) : (s.onHostCore host f).dies = s.dies := rfl
@[simp] theorem State.onHostCore_saved (s : State) (host : Nat) (f : HostCore → HostCore) : (s.onHostCore host f).saved = s.saved := rfl
@[simp] theorem State.onHostCore_groupRounds (s : State) (host : Nat) (f : HostCore → HostCore) : (s.onHostCore host f).groupRounds = s.groupRounds := rfl
@[simp] theorem State.onHostCore_gredws (s : State) (host : Nat) (f : HostCore → HostCore) : (s.onHostCore host f).gredws = s.gredws := rfl
@[simp] theorem State.onHostCore_greds (s : State) (host : Nat) (f : HostCore → HostCore) : (s.onHostCore host f).greds = s.greds := rfl
@[simp] theorem State.onHostCore_dirty (s : State) (host : Nat) (f : HostCore → HostCore) : (s.onHostCore host f).dirty = s.dirty := rfl
@[simp] theorem State.onHostCore_recent (s : State) (host : Nat) (f : HostCore → HostCore) : (s.onHostCore host f).recent = s.recent := rfl
@[simp] theorem State.onHostCore_coreHzn (s : State) (host : Nat) (f : HostCore → HostCore) : (s.onHostCore host f).coreHzn = s.coreHzn := rfl
@[simp] theorem State.onHostCore_cbs (s : State) (host : Nat) (f : HostCore → HostCore) : (s.onHostCore host f).cbs = s.cbs := rfl
@[simp] theorem State.onHostCore_rings (s : State) (host : Nat) (f : HostCore → HostCore) : (s.onHostCore host f).rings = s.rings := rfl
@[simp] theorem State.onHostCore_heaps (s : State) (host : Nat) (f : HostCore → HostCore) : (s.onHostCore host f).heaps = s.heaps := rfl
@[simp] theorem State.onHostCore_cycles (s : State) (host : Nat) (f : HostCore → HostCore) : (s.onHostCore host f).cycles = s.cycles := rfl
@[simp] theorem State.onHostCore_migrations (s : State) (host : Nat) (f : HostCore → HostCore) : (s.onHostCore host f).migrations = s.migrations := rfl
@[simp] theorem State.onHostCore_moveErrors (s : State) (host : Nat) (f : HostCore → HostCore) : (s.onHostCore host f).moveErrors = s.moveErrors := rfl
@[simp] theorem State.onHostCore_hostThreads (s : State) (host : Nat) (f : HostCore → HostCore) : (s.onHostCore host f).hostThreads = s.hostThreads := rfl
@[simp] theorem State.onHostCore_guests (s : State) (host : Nat) (f : HostCore → HostCore) : (s.onHostCore host f).guests = s.guests := rfl
@[simp] theorem State.onHostCore_crossings (s : State) (host : Nat) (f : HostCore → HostCore) : (s.onHostCore host f).crossings = s.crossings := rfl
@[simp] theorem State.onHostCore_vlogs (s : State) (host : Nat) (f : HostCore → HostCore) : (s.onHostCore host f).vlogs = s.vlogs := rfl
@[simp] theorem State.onHostCore_ctrls (s : State) (host : Nat) (f : HostCore → HostCore) : (s.onHostCore host f).ctrls = s.ctrls := rfl
@[simp] theorem State.onHostCore_sec (s : State) (host : Nat) (f : HostCore → HostCore) : (s.onHostCore host f).sec = s.sec := rfl
@[simp] theorem State.onHostCore_hub (s : State) (host : Nat) (f : HostCore → HostCore) : (s.onHostCore host f).hub = s.hub := rfl
@[simp] theorem State.onHostCore_worlds (s : State) (host : Nat) (f : HostCore → HostCore) : (s.onHostCore host f).worlds = s.worlds := rfl
@[simp] theorem State.onHostCore_clearing (s : State) (host : Nat) (f : HostCore → HostCore) : (s.onHostCore host f).clearing = s.clearing := rfl
@[simp] theorem State.onHostCore_dirtyRows (s : State) (host : Nat) (f : HostCore → HostCore) : (s.onHostCore host f).dirtyRows = s.dirtyRows := rfl
@[simp] theorem State.onHostCore_checked (s : State) (host : Nat) (f : HostCore → HostCore) : (s.onHostCore host f).checked = s.checked := rfl
@[simp] theorem State.onHostCore_leaseNs (s : State) (host : Nat) (f : HostCore → HostCore) : (s.onHostCore host f).leaseNs = s.leaseNs := rfl
@[simp] theorem State.onHostCore_marginNs (s : State) (host : Nat) (f : HostCore → HostCore) : (s.onHostCore host f).marginNs = s.marginNs := rfl
@[simp] theorem State.onHostCore_snapArmed (s : State) (host : Nat) (f : HostCore → HostCore) : (s.onHostCore host f).snapArmed = s.snapArmed := rfl
@[simp] theorem State.onHostCore_snapUser (s : State) (host : Nat) (f : HostCore → HostCore) : (s.onHostCore host f).snapUser = s.snapUser := rfl
@[simp] theorem State.onHostCore_snapPin (s : State) (host : Nat) (f : HostCore → HostCore) : (s.onHostCore host f).snapPin = s.snapPin := rfl
@[simp] theorem State.onHostCore_snapMc (s : State) (host : Nat) (f : HostCore → HostCore) : (s.onHostCore host f).snapMc = s.snapMc := rfl
@[simp] theorem State.onHostCore_snapCount (s : State) (host : Nat) (f : HostCore → HostCore) : (s.onHostCore host f).snapCount = s.snapCount := rfl
@[simp] theorem State.onHostCore_snaps (s : State) (host : Nat) (f : HostCore → HostCore) : (s.onHostCore host f).snaps = s.snaps := rfl
@[simp] theorem State.onHostCore_samples (s : State) (host : Nat) (f : HostCore → HostCore) : (s.onHostCore host f).samples = s.samples := rfl
@[simp] theorem State.onHostCore_issues (s : State) (host : Nat) (f : HostCore → HostCore) : (s.onHostCore host f).issues = s.issues := rfl
@[simp] theorem State.onHostCore_sampled (s : State) (host : Nat) (f : HostCore → HostCore) : (s.onHostCore host f).sampled = s.sampled := rfl
@[simp] theorem State.onHostCore_requested (s : State) (host : Nat) (f : HostCore → HostCore) : (s.onHostCore host f).requested = s.requested := rfl

@[simp] theorem State.setHost_agenda (s : State) (i : Nat) (h : HostThread) : (s.setHost i h).agenda = s.agenda := rfl
@[simp] theorem State.setHost_turn (s : State) (i : Nat) (h : HostThread) : (s.setHost i h).turn = s.turn := rfl
@[simp] theorem State.setHost_cur (s : State) (i : Nat) (h : HostThread) : (s.setHost i h).cur = s.cur := rfl
@[simp] theorem State.setHost_freeCtr (s : State) (i : Nat) (h : HostThread) : (s.setHost i h).freeCtr = s.freeCtr := rfl
@[simp] theorem State.setHost_clock (s : State) (i : Nat) (h : HostThread) : (s.setHost i h).clock = s.clock := rfl
@[simp] theorem State.setHost_gtime (s : State) (i : Nat) (h : HostThread) : (s.setHost i h).gtime = s.gtime := rfl
@[simp] theorem State.setHost_released (s : State) (i : Nat) (h : HostThread) : (s.setHost i h).released = s.released := rfl
@[simp] theorem State.setHost_bootStep (s : State) (i : Nat) (h : HostThread) : (s.setHost i h).bootStep = s.bootStep := rfl
@[simp] theorem State.setHost_bootFailed (s : State) (i : Nat) (h : HostThread) : (s.setHost i h).bootFailed = s.bootFailed := rfl
@[simp] theorem State.setHost_mem (s : State) (i : Nat) (h : HostThread) : (s.setHost i h).mem = s.mem := rfl
@[simp] theorem State.setHost_poisonLines (s : State) (i : Nat) (h : HostThread) : (s.setHost i h).poisonLines = s.poisonLines := rfl
@[simp] theorem State.setHost_lineWorld (s : State) (i : Nat) (h : HostThread) : (s.setHost i h).lineWorld = s.lineWorld := rfl
@[simp] theorem State.setHost_seals (s : State) (i : Nat) (h : HostThread) : (s.setHost i h).seals = s.seals := rfl
@[simp] theorem State.setHost_gangs (s : State) (i : Nat) (h : HostThread) : (s.setHost i h).gangs = s.gangs := rfl
@[simp] theorem State.setHost_arrays (s : State) (i : Nat) (h : HostThread) : (s.setHost i h).arrays = s.arrays := rfl
@[simp] theorem State.setHost_allocs (s : State) (i : Nat) (h : HostThread) : (s.setHost i h).allocs = s.allocs := rfl
@[simp] theorem State.setHost_copies (s : State) (i : Nat) (h : HostThread) : (s.setHost i h).copies = s.copies := rfl
@[simp] theorem State.setHost_loads (s : State) (i : Nat) (h : HostThread) : (s.setHost i h).loads = s.loads := rfl
@[simp] theorem State.setHost_stores (s : State) (i : Nat) (h : HostThread) : (s.setHost i h).stores = s.stores := rfl
@[simp] theorem State.setHost_atoms (s : State) (i : Nat) (h : HostThread) : (s.setHost i h).atoms = s.atoms := rfl
@[simp] theorem State.setHost_acks (s : State) (i : Nat) (h : HostThread) : (s.setHost i h).acks = s.acks := rfl
@[simp] theorem State.setHost_redseqs (s : State) (i : Nat) (h : HostThread) : (s.setHost i h).redseqs = s.redseqs := rfl
@[simp] theorem State.setHost_leases (s : State) (i : Nat) (h : HostThread) : (s.setHost i h).leases = s.leases := rfl
@[simp] theorem State.setHost_owned (s : State) (i : Nat) (h : HostThread) : (s.setHost i h).owned = s.owned := rfl
@[simp] theorem State.setHost_hostLines (s : State) (i : Nat) (h : HostThread) : (s.setHost i h).hostLines = s.hostLines := rfl
@[simp] theorem State.setHost_hostWaiting (s : State) (i : Nat) (h : HostThread) : (s.setHost i h).hostWaiting = s.hostWaiting := rfl
@[simp] theorem State.setHost_snooping (s : State) (i : Nat) (h : HostThread) : (s.setHost i h).snooping = s.snooping := rfl
@[simp] theorem State.setHost_releasing (s : State) (i : Nat) (h : HostThread) : (s.setHost i h).releasing = s.releasing := rfl
@[simp] theorem State.setHost_placedAt (s : State) (i : Nat) (h : HostThread) : (s.setHost i h).placedAt = s.placedAt := rfl
@[simp] theorem State.setHost_platform (s : State) (i : Nat) (h : HostThread) : (s.setHost i h).platform = s.platform := rfl
@[simp] theorem State.setHost_tlb (s : State) (i : Nat) (h : HostThread) : (s.setHost i h).tlb = s.tlb := rfl
@[simp] theorem State.setHost_icache (s : State) (i : Nat) (h : HostThread) : (s.setHost i h).icache = s.icache := rfl
@[simp] theorem State.setHost_oplog (s : State) (i : Nat) (h : HostThread) : (s.setHost i h).oplog = s.oplog := rfl
@[simp] theorem State.setHost_faults (s : State) (i : Nat) (h : HostThread) : (s.setHost i h).faults = s.faults := rfl
@[simp] theorem State.setHost_launches (s : State) (i : Nat) (h : HostThread) : (s.setHost i h).launches = s.launches := rfl
@[simp] theorem State.setHost_dies (s : State) (i : Nat) (h : HostThread) : (s.setHost i h).dies = s.dies := rfl
@[simp] theorem State.setHost_saved (s : State) (i : Nat) (h : HostThread) : (s.setHost i h).saved = s.saved := rfl
@[simp] theorem State.setHost_groupRounds (s : State) (i : Nat) (h : HostThread) : (s.setHost i h).groupRounds = s.groupRounds := rfl
@[simp] theorem State.setHost_gredws (s : State) (i : Nat) (h : HostThread) : (s.setHost i h).gredws = s.gredws := rfl
@[simp] theorem State.setHost_greds (s : State) (i : Nat) (h : HostThread) : (s.setHost i h).greds = s.greds := rfl
@[simp] theorem State.setHost_dirty (s : State) (i : Nat) (h : HostThread) : (s.setHost i h).dirty = s.dirty := rfl
@[simp] theorem State.setHost_recent (s : State) (i : Nat) (h : HostThread) : (s.setHost i h).recent = s.recent := rfl
@[simp] theorem State.setHost_coreHzn (s : State) (i : Nat) (h : HostThread) : (s.setHost i h).coreHzn = s.coreHzn := rfl
@[simp] theorem State.setHost_cbs (s : State) (i : Nat) (h : HostThread) : (s.setHost i h).cbs = s.cbs := rfl
@[simp] theorem State.setHost_rings (s : State) (i : Nat) (h : HostThread) : (s.setHost i h).rings = s.rings := rfl
@[simp] theorem State.setHost_heaps (s : State) (i : Nat) (h : HostThread) : (s.setHost i h).heaps = s.heaps := rfl
@[simp] theorem State.setHost_cycles (s : State) (i : Nat) (h : HostThread) : (s.setHost i h).cycles = s.cycles := rfl
@[simp] theorem State.setHost_migrations (s : State) (i : Nat) (h : HostThread) : (s.setHost i h).migrations = s.migrations := rfl
@[simp] theorem State.setHost_moveErrors (s : State) (i : Nat) (h : HostThread) : (s.setHost i h).moveErrors = s.moveErrors := rfl
@[simp] theorem State.setHost_hostCores (s : State) (i : Nat) (h : HostThread) : (s.setHost i h).hostCores = s.hostCores := rfl
@[simp] theorem State.setHost_guests (s : State) (i : Nat) (h : HostThread) : (s.setHost i h).guests = s.guests := rfl
@[simp] theorem State.setHost_crossings (s : State) (i : Nat) (h : HostThread) : (s.setHost i h).crossings = s.crossings := rfl
@[simp] theorem State.setHost_vlogs (s : State) (i : Nat) (h : HostThread) : (s.setHost i h).vlogs = s.vlogs := rfl
@[simp] theorem State.setHost_ctrls (s : State) (i : Nat) (h : HostThread) : (s.setHost i h).ctrls = s.ctrls := rfl
@[simp] theorem State.setHost_sec (s : State) (i : Nat) (h : HostThread) : (s.setHost i h).sec = s.sec := rfl
@[simp] theorem State.setHost_hub (s : State) (i : Nat) (h : HostThread) : (s.setHost i h).hub = s.hub := rfl
@[simp] theorem State.setHost_worlds (s : State) (i : Nat) (h : HostThread) : (s.setHost i h).worlds = s.worlds := rfl
@[simp] theorem State.setHost_clearing (s : State) (i : Nat) (h : HostThread) : (s.setHost i h).clearing = s.clearing := rfl
@[simp] theorem State.setHost_dirtyRows (s : State) (i : Nat) (h : HostThread) : (s.setHost i h).dirtyRows = s.dirtyRows := rfl
@[simp] theorem State.setHost_checked (s : State) (i : Nat) (h : HostThread) : (s.setHost i h).checked = s.checked := rfl
@[simp] theorem State.setHost_leaseNs (s : State) (i : Nat) (h : HostThread) : (s.setHost i h).leaseNs = s.leaseNs := rfl
@[simp] theorem State.setHost_marginNs (s : State) (i : Nat) (h : HostThread) : (s.setHost i h).marginNs = s.marginNs := rfl
@[simp] theorem State.setHost_snapArmed (s : State) (i : Nat) (h : HostThread) : (s.setHost i h).snapArmed = s.snapArmed := rfl
@[simp] theorem State.setHost_snapUser (s : State) (i : Nat) (h : HostThread) : (s.setHost i h).snapUser = s.snapUser := rfl
@[simp] theorem State.setHost_snapPin (s : State) (i : Nat) (h : HostThread) : (s.setHost i h).snapPin = s.snapPin := rfl
@[simp] theorem State.setHost_snapMc (s : State) (i : Nat) (h : HostThread) : (s.setHost i h).snapMc = s.snapMc := rfl
@[simp] theorem State.setHost_snapCount (s : State) (i : Nat) (h : HostThread) : (s.setHost i h).snapCount = s.snapCount := rfl
@[simp] theorem State.setHost_snaps (s : State) (i : Nat) (h : HostThread) : (s.setHost i h).snaps = s.snaps := rfl
@[simp] theorem State.setHost_samples (s : State) (i : Nat) (h : HostThread) : (s.setHost i h).samples = s.samples := rfl
@[simp] theorem State.setHost_issues (s : State) (i : Nat) (h : HostThread) : (s.setHost i h).issues = s.issues := rfl
@[simp] theorem State.setHost_sampled (s : State) (i : Nat) (h : HostThread) : (s.setHost i h).sampled = s.sampled := rfl
@[simp] theorem State.setHost_requested (s : State) (i : Nat) (h : HostThread) : (s.setHost i h).requested = s.requested := rfl

@[simp] theorem State.onCtrl_agenda (s : State) (port : Nat) (f : Ctrl → Ctrl) : (s.onCtrl port f).agenda = s.agenda := rfl
@[simp] theorem State.onCtrl_turn (s : State) (port : Nat) (f : Ctrl → Ctrl) : (s.onCtrl port f).turn = s.turn := rfl
@[simp] theorem State.onCtrl_cur (s : State) (port : Nat) (f : Ctrl → Ctrl) : (s.onCtrl port f).cur = s.cur := rfl
@[simp] theorem State.onCtrl_freeCtr (s : State) (port : Nat) (f : Ctrl → Ctrl) : (s.onCtrl port f).freeCtr = s.freeCtr := rfl
@[simp] theorem State.onCtrl_clock (s : State) (port : Nat) (f : Ctrl → Ctrl) : (s.onCtrl port f).clock = s.clock := rfl
@[simp] theorem State.onCtrl_gtime (s : State) (port : Nat) (f : Ctrl → Ctrl) : (s.onCtrl port f).gtime = s.gtime := rfl
@[simp] theorem State.onCtrl_released (s : State) (port : Nat) (f : Ctrl → Ctrl) : (s.onCtrl port f).released = s.released := rfl
@[simp] theorem State.onCtrl_bootStep (s : State) (port : Nat) (f : Ctrl → Ctrl) : (s.onCtrl port f).bootStep = s.bootStep := rfl
@[simp] theorem State.onCtrl_bootFailed (s : State) (port : Nat) (f : Ctrl → Ctrl) : (s.onCtrl port f).bootFailed = s.bootFailed := rfl
@[simp] theorem State.onCtrl_mem (s : State) (port : Nat) (f : Ctrl → Ctrl) : (s.onCtrl port f).mem = s.mem := rfl
@[simp] theorem State.onCtrl_poisonLines (s : State) (port : Nat) (f : Ctrl → Ctrl) : (s.onCtrl port f).poisonLines = s.poisonLines := rfl
@[simp] theorem State.onCtrl_lineWorld (s : State) (port : Nat) (f : Ctrl → Ctrl) : (s.onCtrl port f).lineWorld = s.lineWorld := rfl
@[simp] theorem State.onCtrl_seals (s : State) (port : Nat) (f : Ctrl → Ctrl) : (s.onCtrl port f).seals = s.seals := rfl
@[simp] theorem State.onCtrl_gangs (s : State) (port : Nat) (f : Ctrl → Ctrl) : (s.onCtrl port f).gangs = s.gangs := rfl
@[simp] theorem State.onCtrl_arrays (s : State) (port : Nat) (f : Ctrl → Ctrl) : (s.onCtrl port f).arrays = s.arrays := rfl
@[simp] theorem State.onCtrl_allocs (s : State) (port : Nat) (f : Ctrl → Ctrl) : (s.onCtrl port f).allocs = s.allocs := rfl
@[simp] theorem State.onCtrl_copies (s : State) (port : Nat) (f : Ctrl → Ctrl) : (s.onCtrl port f).copies = s.copies := rfl
@[simp] theorem State.onCtrl_loads (s : State) (port : Nat) (f : Ctrl → Ctrl) : (s.onCtrl port f).loads = s.loads := rfl
@[simp] theorem State.onCtrl_stores (s : State) (port : Nat) (f : Ctrl → Ctrl) : (s.onCtrl port f).stores = s.stores := rfl
@[simp] theorem State.onCtrl_atoms (s : State) (port : Nat) (f : Ctrl → Ctrl) : (s.onCtrl port f).atoms = s.atoms := rfl
@[simp] theorem State.onCtrl_acks (s : State) (port : Nat) (f : Ctrl → Ctrl) : (s.onCtrl port f).acks = s.acks := rfl
@[simp] theorem State.onCtrl_redseqs (s : State) (port : Nat) (f : Ctrl → Ctrl) : (s.onCtrl port f).redseqs = s.redseqs := rfl
@[simp] theorem State.onCtrl_leases (s : State) (port : Nat) (f : Ctrl → Ctrl) : (s.onCtrl port f).leases = s.leases := rfl
@[simp] theorem State.onCtrl_owned (s : State) (port : Nat) (f : Ctrl → Ctrl) : (s.onCtrl port f).owned = s.owned := rfl
@[simp] theorem State.onCtrl_hostLines (s : State) (port : Nat) (f : Ctrl → Ctrl) : (s.onCtrl port f).hostLines = s.hostLines := rfl
@[simp] theorem State.onCtrl_hostWaiting (s : State) (port : Nat) (f : Ctrl → Ctrl) : (s.onCtrl port f).hostWaiting = s.hostWaiting := rfl
@[simp] theorem State.onCtrl_snooping (s : State) (port : Nat) (f : Ctrl → Ctrl) : (s.onCtrl port f).snooping = s.snooping := rfl
@[simp] theorem State.onCtrl_releasing (s : State) (port : Nat) (f : Ctrl → Ctrl) : (s.onCtrl port f).releasing = s.releasing := rfl
@[simp] theorem State.onCtrl_placedAt (s : State) (port : Nat) (f : Ctrl → Ctrl) : (s.onCtrl port f).placedAt = s.placedAt := rfl
@[simp] theorem State.onCtrl_platform (s : State) (port : Nat) (f : Ctrl → Ctrl) : (s.onCtrl port f).platform = s.platform := rfl
@[simp] theorem State.onCtrl_tlb (s : State) (port : Nat) (f : Ctrl → Ctrl) : (s.onCtrl port f).tlb = s.tlb := rfl
@[simp] theorem State.onCtrl_icache (s : State) (port : Nat) (f : Ctrl → Ctrl) : (s.onCtrl port f).icache = s.icache := rfl
@[simp] theorem State.onCtrl_oplog (s : State) (port : Nat) (f : Ctrl → Ctrl) : (s.onCtrl port f).oplog = s.oplog := rfl
@[simp] theorem State.onCtrl_faults (s : State) (port : Nat) (f : Ctrl → Ctrl) : (s.onCtrl port f).faults = s.faults := rfl
@[simp] theorem State.onCtrl_launches (s : State) (port : Nat) (f : Ctrl → Ctrl) : (s.onCtrl port f).launches = s.launches := rfl
@[simp] theorem State.onCtrl_dies (s : State) (port : Nat) (f : Ctrl → Ctrl) : (s.onCtrl port f).dies = s.dies := rfl
@[simp] theorem State.onCtrl_saved (s : State) (port : Nat) (f : Ctrl → Ctrl) : (s.onCtrl port f).saved = s.saved := rfl
@[simp] theorem State.onCtrl_groupRounds (s : State) (port : Nat) (f : Ctrl → Ctrl) : (s.onCtrl port f).groupRounds = s.groupRounds := rfl
@[simp] theorem State.onCtrl_gredws (s : State) (port : Nat) (f : Ctrl → Ctrl) : (s.onCtrl port f).gredws = s.gredws := rfl
@[simp] theorem State.onCtrl_greds (s : State) (port : Nat) (f : Ctrl → Ctrl) : (s.onCtrl port f).greds = s.greds := rfl
@[simp] theorem State.onCtrl_dirty (s : State) (port : Nat) (f : Ctrl → Ctrl) : (s.onCtrl port f).dirty = s.dirty := rfl
@[simp] theorem State.onCtrl_recent (s : State) (port : Nat) (f : Ctrl → Ctrl) : (s.onCtrl port f).recent = s.recent := rfl
@[simp] theorem State.onCtrl_coreHzn (s : State) (port : Nat) (f : Ctrl → Ctrl) : (s.onCtrl port f).coreHzn = s.coreHzn := rfl
@[simp] theorem State.onCtrl_cbs (s : State) (port : Nat) (f : Ctrl → Ctrl) : (s.onCtrl port f).cbs = s.cbs := rfl
@[simp] theorem State.onCtrl_rings (s : State) (port : Nat) (f : Ctrl → Ctrl) : (s.onCtrl port f).rings = s.rings := rfl
@[simp] theorem State.onCtrl_heaps (s : State) (port : Nat) (f : Ctrl → Ctrl) : (s.onCtrl port f).heaps = s.heaps := rfl
@[simp] theorem State.onCtrl_cycles (s : State) (port : Nat) (f : Ctrl → Ctrl) : (s.onCtrl port f).cycles = s.cycles := rfl
@[simp] theorem State.onCtrl_migrations (s : State) (port : Nat) (f : Ctrl → Ctrl) : (s.onCtrl port f).migrations = s.migrations := rfl
@[simp] theorem State.onCtrl_moveErrors (s : State) (port : Nat) (f : Ctrl → Ctrl) : (s.onCtrl port f).moveErrors = s.moveErrors := rfl
@[simp] theorem State.onCtrl_hostThreads (s : State) (port : Nat) (f : Ctrl → Ctrl) : (s.onCtrl port f).hostThreads = s.hostThreads := rfl
@[simp] theorem State.onCtrl_hostCores (s : State) (port : Nat) (f : Ctrl → Ctrl) : (s.onCtrl port f).hostCores = s.hostCores := rfl
@[simp] theorem State.onCtrl_guests (s : State) (port : Nat) (f : Ctrl → Ctrl) : (s.onCtrl port f).guests = s.guests := rfl
@[simp] theorem State.onCtrl_crossings (s : State) (port : Nat) (f : Ctrl → Ctrl) : (s.onCtrl port f).crossings = s.crossings := rfl
@[simp] theorem State.onCtrl_vlogs (s : State) (port : Nat) (f : Ctrl → Ctrl) : (s.onCtrl port f).vlogs = s.vlogs := rfl
@[simp] theorem State.onCtrl_sec (s : State) (port : Nat) (f : Ctrl → Ctrl) : (s.onCtrl port f).sec = s.sec := rfl
@[simp] theorem State.onCtrl_hub (s : State) (port : Nat) (f : Ctrl → Ctrl) : (s.onCtrl port f).hub = s.hub := rfl
@[simp] theorem State.onCtrl_worlds (s : State) (port : Nat) (f : Ctrl → Ctrl) : (s.onCtrl port f).worlds = s.worlds := rfl
@[simp] theorem State.onCtrl_clearing (s : State) (port : Nat) (f : Ctrl → Ctrl) : (s.onCtrl port f).clearing = s.clearing := rfl
@[simp] theorem State.onCtrl_dirtyRows (s : State) (port : Nat) (f : Ctrl → Ctrl) : (s.onCtrl port f).dirtyRows = s.dirtyRows := rfl
@[simp] theorem State.onCtrl_checked (s : State) (port : Nat) (f : Ctrl → Ctrl) : (s.onCtrl port f).checked = s.checked := rfl
@[simp] theorem State.onCtrl_leaseNs (s : State) (port : Nat) (f : Ctrl → Ctrl) : (s.onCtrl port f).leaseNs = s.leaseNs := rfl
@[simp] theorem State.onCtrl_marginNs (s : State) (port : Nat) (f : Ctrl → Ctrl) : (s.onCtrl port f).marginNs = s.marginNs := rfl
@[simp] theorem State.onCtrl_snapArmed (s : State) (port : Nat) (f : Ctrl → Ctrl) : (s.onCtrl port f).snapArmed = s.snapArmed := rfl
@[simp] theorem State.onCtrl_snapUser (s : State) (port : Nat) (f : Ctrl → Ctrl) : (s.onCtrl port f).snapUser = s.snapUser := rfl
@[simp] theorem State.onCtrl_snapPin (s : State) (port : Nat) (f : Ctrl → Ctrl) : (s.onCtrl port f).snapPin = s.snapPin := rfl
@[simp] theorem State.onCtrl_snapMc (s : State) (port : Nat) (f : Ctrl → Ctrl) : (s.onCtrl port f).snapMc = s.snapMc := rfl
@[simp] theorem State.onCtrl_snapCount (s : State) (port : Nat) (f : Ctrl → Ctrl) : (s.onCtrl port f).snapCount = s.snapCount := rfl
@[simp] theorem State.onCtrl_snaps (s : State) (port : Nat) (f : Ctrl → Ctrl) : (s.onCtrl port f).snaps = s.snaps := rfl
@[simp] theorem State.onCtrl_samples (s : State) (port : Nat) (f : Ctrl → Ctrl) : (s.onCtrl port f).samples = s.samples := rfl
@[simp] theorem State.onCtrl_issues (s : State) (port : Nat) (f : Ctrl → Ctrl) : (s.onCtrl port f).issues = s.issues := rfl
@[simp] theorem State.onCtrl_sampled (s : State) (port : Nat) (f : Ctrl → Ctrl) : (s.onCtrl port f).sampled = s.sampled := rfl
@[simp] theorem State.onCtrl_requested (s : State) (port : Nat) (f : Ctrl → Ctrl) : (s.onCtrl port f).requested = s.requested := rfl

@[simp] theorem State.post_agenda (s : State) (r : List Byte) : (s.post r).agenda = s.agenda := rfl
@[simp] theorem State.post_turn (s : State) (r : List Byte) : (s.post r).turn = s.turn := rfl
@[simp] theorem State.post_cur (s : State) (r : List Byte) : (s.post r).cur = s.cur := rfl
@[simp] theorem State.post_freeCtr (s : State) (r : List Byte) : (s.post r).freeCtr = s.freeCtr := rfl
@[simp] theorem State.post_clock (s : State) (r : List Byte) : (s.post r).clock = s.clock := rfl
@[simp] theorem State.post_gtime (s : State) (r : List Byte) : (s.post r).gtime = s.gtime := rfl
@[simp] theorem State.post_released (s : State) (r : List Byte) : (s.post r).released = s.released := rfl
@[simp] theorem State.post_bootStep (s : State) (r : List Byte) : (s.post r).bootStep = s.bootStep := rfl
@[simp] theorem State.post_bootFailed (s : State) (r : List Byte) : (s.post r).bootFailed = s.bootFailed := rfl
@[simp] theorem State.post_mem (s : State) (r : List Byte) : (s.post r).mem = s.mem := rfl
@[simp] theorem State.post_poisonLines (s : State) (r : List Byte) : (s.post r).poisonLines = s.poisonLines := rfl
@[simp] theorem State.post_lineWorld (s : State) (r : List Byte) : (s.post r).lineWorld = s.lineWorld := rfl
@[simp] theorem State.post_seals (s : State) (r : List Byte) : (s.post r).seals = s.seals := rfl
@[simp] theorem State.post_gangs (s : State) (r : List Byte) : (s.post r).gangs = s.gangs := rfl
@[simp] theorem State.post_arrays (s : State) (r : List Byte) : (s.post r).arrays = s.arrays := rfl
@[simp] theorem State.post_allocs (s : State) (r : List Byte) : (s.post r).allocs = s.allocs := rfl
@[simp] theorem State.post_copies (s : State) (r : List Byte) : (s.post r).copies = s.copies := rfl
@[simp] theorem State.post_loads (s : State) (r : List Byte) : (s.post r).loads = s.loads := rfl
@[simp] theorem State.post_stores (s : State) (r : List Byte) : (s.post r).stores = s.stores := rfl
@[simp] theorem State.post_atoms (s : State) (r : List Byte) : (s.post r).atoms = s.atoms := rfl
@[simp] theorem State.post_acks (s : State) (r : List Byte) : (s.post r).acks = s.acks := rfl
@[simp] theorem State.post_redseqs (s : State) (r : List Byte) : (s.post r).redseqs = s.redseqs := rfl
@[simp] theorem State.post_leases (s : State) (r : List Byte) : (s.post r).leases = s.leases := rfl
@[simp] theorem State.post_owned (s : State) (r : List Byte) : (s.post r).owned = s.owned := rfl
@[simp] theorem State.post_hostLines (s : State) (r : List Byte) : (s.post r).hostLines = s.hostLines := rfl
@[simp] theorem State.post_hostWaiting (s : State) (r : List Byte) : (s.post r).hostWaiting = s.hostWaiting := rfl
@[simp] theorem State.post_snooping (s : State) (r : List Byte) : (s.post r).snooping = s.snooping := rfl
@[simp] theorem State.post_releasing (s : State) (r : List Byte) : (s.post r).releasing = s.releasing := rfl
@[simp] theorem State.post_placedAt (s : State) (r : List Byte) : (s.post r).placedAt = s.placedAt := rfl
@[simp] theorem State.post_platform (s : State) (r : List Byte) : (s.post r).platform = s.platform := rfl
@[simp] theorem State.post_tlb (s : State) (r : List Byte) : (s.post r).tlb = s.tlb := rfl
@[simp] theorem State.post_icache (s : State) (r : List Byte) : (s.post r).icache = s.icache := rfl
@[simp] theorem State.post_oplog (s : State) (r : List Byte) : (s.post r).oplog = s.oplog := rfl
@[simp] theorem State.post_launches (s : State) (r : List Byte) : (s.post r).launches = s.launches := rfl
@[simp] theorem State.post_dies (s : State) (r : List Byte) : (s.post r).dies = s.dies := rfl
@[simp] theorem State.post_saved (s : State) (r : List Byte) : (s.post r).saved = s.saved := rfl
@[simp] theorem State.post_groupRounds (s : State) (r : List Byte) : (s.post r).groupRounds = s.groupRounds := rfl
@[simp] theorem State.post_gredws (s : State) (r : List Byte) : (s.post r).gredws = s.gredws := rfl
@[simp] theorem State.post_greds (s : State) (r : List Byte) : (s.post r).greds = s.greds := rfl
@[simp] theorem State.post_dirty (s : State) (r : List Byte) : (s.post r).dirty = s.dirty := rfl
@[simp] theorem State.post_recent (s : State) (r : List Byte) : (s.post r).recent = s.recent := rfl
@[simp] theorem State.post_coreHzn (s : State) (r : List Byte) : (s.post r).coreHzn = s.coreHzn := rfl
@[simp] theorem State.post_cbs (s : State) (r : List Byte) : (s.post r).cbs = s.cbs := rfl
@[simp] theorem State.post_rings (s : State) (r : List Byte) : (s.post r).rings = s.rings := rfl
@[simp] theorem State.post_heaps (s : State) (r : List Byte) : (s.post r).heaps = s.heaps := rfl
@[simp] theorem State.post_cycles (s : State) (r : List Byte) : (s.post r).cycles = s.cycles := rfl
@[simp] theorem State.post_migrations (s : State) (r : List Byte) : (s.post r).migrations = s.migrations := rfl
@[simp] theorem State.post_moveErrors (s : State) (r : List Byte) : (s.post r).moveErrors = s.moveErrors := rfl
@[simp] theorem State.post_hostThreads (s : State) (r : List Byte) : (s.post r).hostThreads = s.hostThreads := rfl
@[simp] theorem State.post_hostCores (s : State) (r : List Byte) : (s.post r).hostCores = s.hostCores := rfl
@[simp] theorem State.post_guests (s : State) (r : List Byte) : (s.post r).guests = s.guests := rfl
@[simp] theorem State.post_crossings (s : State) (r : List Byte) : (s.post r).crossings = s.crossings := rfl
@[simp] theorem State.post_vlogs (s : State) (r : List Byte) : (s.post r).vlogs = s.vlogs := rfl
@[simp] theorem State.post_ctrls (s : State) (r : List Byte) : (s.post r).ctrls = s.ctrls := rfl
@[simp] theorem State.post_sec (s : State) (r : List Byte) : (s.post r).sec = s.sec := rfl
@[simp] theorem State.post_hub (s : State) (r : List Byte) : (s.post r).hub = s.hub := rfl
@[simp] theorem State.post_worlds (s : State) (r : List Byte) : (s.post r).worlds = s.worlds := rfl
@[simp] theorem State.post_clearing (s : State) (r : List Byte) : (s.post r).clearing = s.clearing := rfl
@[simp] theorem State.post_dirtyRows (s : State) (r : List Byte) : (s.post r).dirtyRows = s.dirtyRows := rfl
@[simp] theorem State.post_checked (s : State) (r : List Byte) : (s.post r).checked = s.checked := rfl
@[simp] theorem State.post_leaseNs (s : State) (r : List Byte) : (s.post r).leaseNs = s.leaseNs := rfl
@[simp] theorem State.post_marginNs (s : State) (r : List Byte) : (s.post r).marginNs = s.marginNs := rfl
@[simp] theorem State.post_snapArmed (s : State) (r : List Byte) : (s.post r).snapArmed = s.snapArmed := rfl
@[simp] theorem State.post_snapUser (s : State) (r : List Byte) : (s.post r).snapUser = s.snapUser := rfl
@[simp] theorem State.post_snapPin (s : State) (r : List Byte) : (s.post r).snapPin = s.snapPin := rfl
@[simp] theorem State.post_snapMc (s : State) (r : List Byte) : (s.post r).snapMc = s.snapMc := rfl
@[simp] theorem State.post_snapCount (s : State) (r : List Byte) : (s.post r).snapCount = s.snapCount := rfl
@[simp] theorem State.post_snaps (s : State) (r : List Byte) : (s.post r).snaps = s.snaps := rfl
@[simp] theorem State.post_samples (s : State) (r : List Byte) : (s.post r).samples = s.samples := rfl
@[simp] theorem State.post_issues (s : State) (r : List Byte) : (s.post r).issues = s.issues := rfl
@[simp] theorem State.post_sampled (s : State) (r : List Byte) : (s.post r).sampled = s.sampled := rfl
@[simp] theorem State.post_requested (s : State) (r : List Byte) : (s.post r).requested = s.requested := rfl

end Sys2Proof.Machine
end

