-- ==== Sys2Proof/Laws/Lanes.lean ====
section
/-! SUPPORT. Masks, lanes, threads and gangs: what a mask holds, what reading a lane, a gang or a register gives after a change of one. -/

namespace Sys2Proof.Machine

/-! ### Masks -/

theorem mem_lanes {m : Mask} {k : Nat} : k ∈ lanes m ↔ m.getLsbD k = true := by
  simp only [lanes, List.mem_filter, List.mem_range]
  exact ⟨fun h => h.2, fun h => ⟨BitVec.lt_of_getLsbD h, h⟩⟩

theorem testBit_maskFold (p : Nat → Bool) (n k : Nat) :
    ((List.range n).foldl (fun a j => if p j then a + 2 ^ j else a) 0).testBit k = (decide (k < n) && p k)
      ∧ (List.range n).foldl (fun a j => if p j then a + 2 ^ j else a) 0 < 2 ^ n := by
  induction n generalizing k with
  | zero => simp
  | succ n ih =>
    rw [List.range_succ, List.foldl_append]
    simp only [List.foldl_cons, List.foldl_nil]
    have hlt := (ih k).2
    refine ⟨?_, ?_⟩
    · by_cases hp : p n = true
      · rw [if_pos hp, Nat.add_comm]
        rcases Nat.lt_trichotomy k n with h | h | h
        · rw [Nat.testBit_two_pow_add_gt h, (ih k).1]; simp [h, Nat.lt_succ_of_lt h]
        · subst h; rw [Nat.testBit_two_pow_add_eq, (ih k).1]; simp [hp]
        · rw [Nat.testBit_lt_two_pow]
          · simp [Nat.not_lt.2 h]
          · calc 2 ^ n + _ < 2 ^ n + 2 ^ n := Nat.add_lt_add_left hlt _
              _ = 2 ^ (n + 1) := by rw [Nat.pow_succ]; omega
              _ ≤ 2 ^ k := Nat.pow_le_pow_right (by omega) h
      · rw [if_neg hp, (ih k).1]
        rcases Nat.lt_trichotomy k n with h | h | h
        · simp [h, Nat.lt_succ_of_lt h]
        · subst h; simp at hp; simp [hp]
        · simp [Nat.not_lt.2 (Nat.le_of_lt h), Nat.not_lt.2 h]
    · have : 2 ^ (n + 1) = 2 ^ n + 2 ^ n := by rw [Nat.pow_succ]; omega
      split <;> omega

@[simp] theorem getLsbD_maskOf (p : Nat → Bool) (k : Nat) : (maskOf p).getLsbD k = (decide (k < 32) && p k) := by
  rw [maskOf, BitVec.getLsbD_ofNat, (testBit_maskFold p 32 k).1]
  cases decide (k < 32) <;> simp

@[simp] theorem getLsbD_those (m : Mask) (p : Nat → Bool) (k : Nat) :
    (those m p).getLsbD k = (m.getLsbD k && p k) := by
  rw [those, getLsbD_maskOf]
  by_cases h : k < 32
  · simp [h]
  · have : m.getLsbD k = false := by simpa using BitVec.getLsbD_of_ge m k (by omega)
    simp [h, this]

theorem getLsbD_laneMask {k : Nat} (hk : k < 32) (j : Nat) : (laneMask k).getLsbD j = decide (j = k) := by
  rw [laneMask, BitVec.getLsbD_ofNat, Nat.testBit_two_pow]
  by_cases h : j = k
  · subst h; simp [hk]
  · have h' : ¬ k = j := fun e => h e.symm
    simp [h, h']

theorem eq_zero_of_lanes {m : Mask} (h : ∀ k, m.getLsbD k = false) : m = 0 :=
  BitVec.eq_of_getLsbD_eq fun i _ => by simp [h i]

theorem exists_lane {m : Mask} (h : m ≠ 0) : ∃ k, m.getLsbD k = true := by
  by_contra hc
  exact h (eq_zero_of_lanes fun k => by
    cases hk : m.getLsbD k
    · rfl
    · exact absurd ⟨k, hk⟩ hc)

theorem those_eq_zero {m : Mask} {p : Nat → Bool} : those m p = 0 ↔ ∀ k, m.getLsbD k = true → p k = false := by
  constructor
  · intro h k hk
    have := getLsbD_those m p k
    rw [h] at this
    simpa [hk] using this.symm
  · intro h
    refine eq_zero_of_lanes fun k => ?_
    rw [getLsbD_those]
    cases hk : m.getLsbD k
    · rfl
    · simp [h k hk]

theorem lowest_mem {m : Mask} (h : m ≠ 0) : m.getLsbD (lowest m) = true := by
  obtain ⟨k, hk⟩ := exists_lane h
  unfold lowest
  have hne : lanes m ≠ [] := fun e => by
    have := mem_lanes.2 hk
    simp [e] at this
  cases hl : lanes m with
  | nil => exact absurd hl hne
  | cons a as => exact mem_lanes.1 (by simp [hl])

/-! ### The threads of a gang -/

theorem length_mapLanes (m : Mask) (f : Nat → Thread → Thread) (j : Nat) (ts : List Thread) :
    (mapLanes m f j ts).length = ts.length := by
  induction ts generalizing j with
  | nil => rfl
  | cons t ts ih => simp [mapLanes, ih]

theorem getD_mapLanes (m : Mask) (f : Nat → Thread → Thread) (j k : Nat) (ts : List Thread) (h : k < ts.length) (t0 : Thread) :
    (mapLanes m f j ts).getD k t0 = if m.getLsbD (j + k) then f (j + k) (ts.getD k t0) else ts.getD k t0 := by
  induction ts generalizing j k with
  | nil => simp at h
  | cons t ts ih =>
    cases k with
    | zero => simp [mapLanes]
    | succ k =>
      have := ih (j + 1) k (by simpa using h)
      simp only [mapLanes, List.getD_cons_succ]
      rw [this]
      have e : j + 1 + k = j + (k + 1) := by omega
      rw [e]

@[simp] theorem Gang.onLanes_length (g : Gang) (m : Mask) (f : Nat → Thread → Thread) :
    (g.onLanes m f).threads.length = g.threads.length := length_mapLanes m f 0 g.threads

theorem Gang.lane_onLanes {g : Gang} (h : g.threads.length = 32) (m : Mask) (f : Nat → Thread → Thread) (k : Nat) :
    (g.onLanes m f).lane k = if m.getLsbD k then f k (g.lane k) else g.lane k := by
  unfold Gang.lane Gang.onLanes
  by_cases hk : k < 32
  · simpa using getD_mapLanes m f 0 k g.threads (by omega) Thread.absent
  · have hm : m.getLsbD k = false := by simpa using BitVec.getLsbD_of_ge m k (by omega)
    have hl : (mapLanes m f 0 g.threads).length ≤ k := by rw [length_mapLanes]; omega
    rw [List.getD_eq_default _ _ hl, List.getD_eq_default _ _ (by omega), hm]
    simp

@[simp] theorem Gang.onLanes_key (g : Gang) (m : Mask) (f : Nat → Thread → Thread) : (g.onLanes m f).key = g.key := rfl

/-- A change of lanes leaves every field of the gang but its threads. -/
theorem Gang.onLanes_rest (g : Gang) (m : Mask) (f : Nat → Thread → Thread) :
    g.onLanes m f = { g with threads := (g.onLanes m f).threads } := rfl

theorem mapLanes_zero (f : Nat → Thread → Thread) (j : Nat) (ts : List Thread) : mapLanes 0 f j ts = ts := by
  induction ts generalizing j with
  | nil => rfl
  | cons t ts ih => rw [mapLanes, ih]; simp

theorem Gang.onLanes_zero (g : Gang) (f : Nat → Thread → Thread) : g.onLanes 0 f = g := by
  rw [Gang.onLanes, mapLanes_zero]

/-! ### Gangs of the state -/

theorem find_map_key (gs : List Gang) (key key' : Nat) (f : Gang → Gang) (hf : ∀ g, g.key = key → (f g).key = g.key) :
    ((gs.map fun g => if g.key = key then f g else g).find? fun g => g.key == key')
      = ((gs.find? fun g => g.key == key').map fun g => if g.key = key then f g else g) := by
  induction gs with
  | nil => rfl
  | cons g gs ih =>
    have hk : (if g.key = key then f g else g).key = g.key := by split <;> simp_all
    simp only [List.map_cons, List.find?_cons, hk]
    cases h : g.key == key'
    · exact ih
    · rfl

theorem State.gangAt_onGang_other (s : State) {key key' : Nat} (f : Gang → Gang) (hf : ∀ g, g.key = key → (f g).key = g.key)
    (h : key' ≠ key) : (s.onGang key f).gangAt key' = s.gangAt key' := by
  unfold State.gangAt State.onGang
  rw [show ({ s with gangs := s.gangs.map fun g => if g.key = key then f g else g } : State).gangs
    = s.gangs.map fun g => if g.key = key then f g else g from rfl, find_map_key _ _ _ _ hf]
  cases hg : s.gangs.find? fun g => g.key == key' with
  | none => rfl
  | some g =>
    have : g.key = key' := by simpa using List.find?_some hg
    simp [this, h]

theorem State.gangAt_key {s : State} {key : Nat} (h : s.resident key = true) : (s.gangAt key).key = key := by
  unfold State.resident at h
  rw [List.any_eq_true] at h
  obtain ⟨g, hg, hk⟩ := h
  unfold State.gangAt
  cases hf : s.gangs.find? fun g => g.key == key with
  | none =>
    rw [List.find?_eq_none] at hf
    exact absurd hk (hf g hg)
  | some g' => simpa using List.find?_some hf

theorem State.gangAt_onGang {s : State} {key : Nat} (h : s.resident key = true) (f : Gang → Gang)
    (hf : ∀ g, g.key = key → (f g).key = g.key) : (s.onGang key f).gangAt key = f (s.gangAt key) := by
  have hk := State.gangAt_key h
  unfold State.resident at h
  unfold State.gangAt State.onGang at *
  rw [show ({ s with gangs := s.gangs.map fun g => if g.key = key then f g else g } : State).gangs
    = s.gangs.map fun g => if g.key = key then f g else g from rfl, find_map_key _ _ _ _ hf]
  cases hg : s.gangs.find? fun g => g.key == key with
  | none =>
    rw [List.find?_eq_none] at hg
    rw [List.any_eq_true] at h
    obtain ⟨g, hm, hk⟩ := h
    exact absurd hk (hg g hm)
  | some g =>
    have : g.key = key := by simpa using List.find?_some hg
    simp [this]

theorem State.resident_onGang (s : State) {key : Nat} (f : Gang → Gang) (hf : ∀ g, g.key = key → (f g).key = g.key) (key' : Nat) :
    (s.onGang key f).resident key' = s.resident key' := by
  unfold State.resident State.onGang
  simp only [List.any_map]
  congr 1
  funext g
  simp only [Function.comp]
  split <;> simp_all

theorem State.cg_onGang {s : State} (h : s.resident s.cur.gang = true) (f : Gang → Gang)
    (hf : ∀ g, g.key = s.cur.gang → (f g).key = g.key) : (s.onGang s.cur.gang f).cg = f s.cg :=
  State.gangAt_onGang h f hf

theorem State.cg_onLanes {s : State} (h : s.resident s.cur.gang = true) (m : Mask) (f : Nat → Thread → Thread) :
    (s.onLanes s.cur.gang m f).cg = s.cg.onLanes m f :=
  State.cg_onGang h _ fun _ _ => rfl

/-- The issuing gang is resident and has its 32 lanes: what reading a lane after a change needs. -/
structure State.Whole (s : State) : Prop where
  resident : s.resident s.cur.gang = true
  length : s.cg.threads.length = 32

theorem State.Issuing.toWhole {s : State} (h : s.Issuing) : s.Whole := ⟨h.resident, h.canonical.whole⟩

theorem State.Whole.onLanes {s : State} (h : s.Whole) (m : Mask) (f : Nat → Thread → Thread) :
    (s.onLanes s.cur.gang m f).Whole :=
  ⟨(State.resident_onGang s (fun g => g.onLanes m f) (fun _ _ => rfl) _).trans h.resident, by
    show (State.cg (s.onLanes s.cur.gang m f)).threads.length = 32
    rw [State.cg_onLanes h.resident]; simpa using h.length⟩

theorem State.cl_onLanes {s : State} (h : s.Whole) (m : Mask) (f : Nat → Thread → Thread) (k : Nat) :
    (s.onLanes s.cur.gang m f).cl k = if m.getLsbD k then f k (s.cl k) else s.cl k := by
  unfold State.cl
  rw [State.cg_onLanes h.resident, Gang.lane_onLanes h.length]

theorem mem_mapLanes {m : Mask} {f : Nat → Thread → Thread} {u : Thread} :
    ∀ {j : Nat} {ts : List Thread}, u ∈ mapLanes m f j ts → ∃ k t, t ∈ ts ∧ (u = f k t ∨ u = t)
  | _, [], h => by simp [mapLanes] at h
  | j, t :: ts, h => by
    simp only [mapLanes, List.mem_cons] at h
    rcases h with h | h
    · refine ⟨j, t, List.mem_cons_self, ?_⟩
      split at h
      · exact .inl h
      · exact .inr h
    · obtain ⟨k, t', ht, hu⟩ := mem_mapLanes h
      exact ⟨k, t', List.mem_cons_of_mem _ ht, hu⟩

theorem Gang.Canonical.onLanes {g : Gang} (h : g.Canonical) (m : Mask) (f : Nat → Thread → Thread)
    (hf : ∀ k t, t.Canonical → (f k t).Canonical) : (g.onLanes m f).Canonical where
  whole := by simpa using h.whole
  regs := h.regs
  m := h.m
  arrive := h.arrive
  threads := fun u hu => by
    obtain ⟨k, t, ht, rfl | rfl⟩ := mem_mapLanes hu
    · exact hf k t (h.threads t ht)
    · exact h.threads _ ht

theorem State.Issuing.onLanes {s : State} (h : s.Issuing) (m : Mask) (f : Nat → Thread → Thread)
    (hf : ∀ k t, t.Canonical → (f k t).Canonical) : (s.onLanes s.cur.gang m f).Issuing :=
  ⟨(h.toWhole.onLanes m f).resident, by
    show (State.cg (s.onLanes s.cur.gang m f)).Canonical
    rw [State.cg_onLanes h.resident]; exact h.canonical.onLanes m f hf⟩

/-! ### Registers -/

theorem Thread.getD_zero (t : Thread) : t.getD 0 = 0 := rfl

/-- Registers are held in the canonical form of sparse tables. -/
theorem Thread.getD_setD {t : Thread} (h : SMap.wf 0 t.d = true) (n m : Nat) (v : Word) :
    (t.setD n v).getD m = if m = n ∧ n ≠ 0 then v else t.getD m := by
  unfold Thread.setD Thread.getD
  by_cases hn : n = 0
  · simp [hn]
  · rw [if_neg hn]
    by_cases hm : m = 0
    · subst hm
      have : ¬ (0 = n) := fun e => hn e.symm
      simp [this]
    · simp only [if_neg hm]
      rw [SMap.get_set h]
      by_cases e : m = n <;> simp [e, hn]

end Sys2Proof.Machine
end

