-- ==== Sys2Proof/Laws/Results.lean ====
section
/-! SUPPORT. What an issue leaves: the shared shape of an instruction whose checks pass, the advance of its bundle, and the writing of
results to d registers, g registers and predicates. -/

namespace Sys2Proof.Machine

/-! ### The shape of an issue -/

theorem State.issue_ok {s s' : State} {op : Nat} {o : Ops} {L : Mask} {body : Mask → Except TrapReq State}
    (hc : s.checks op o = .ok L) (hb : body L = .ok s') : s.issue op o body = s'.advance o.stall.toNat o.yld := by
  simp only [State.issue, hc, hb]

theorem State.issue_trap {s : State} {op : Nat} {o : Ops} {L : Mask} {body : Mask → Except TrapReq State} {r : TrapReq}
    (hc : s.checks op o = .ok L) (hb : body L = .error r) : s.issue op o body = s.trap r := by
  simp only [State.issue, hc, hb]

theorem State.issueFlow_ok {s s' : State} {op : Nat} {o : Ops} {L : Mask} {body : Mask → Except TrapReq State}
    (hc : s.checks op o = .ok L) (hb : body L = .ok s') : s.issueFlow op o body = s' := by
  simp only [State.issueFlow, hc, hb]

theorem State.issueFlow_trap {s : State} {op : Nat} {o : Ops} {L : Mask} {body : Mask → Except TrapReq State} {r : TrapReq}
    (hc : s.checks op o = .ok L) (hb : body L = .error r) : s.issueFlow op o body = s.trap r := by
  simp only [State.issueFlow, hc, hb]

theorem State.issueWhen_ok {s s' : State} {op : Nat} {o : Ops} {L : Mask} {waits : Nat → Bool} {body : Mask → Except TrapReq State}
    (hc : s.checks op o = .ok L) (hw : those L waits = 0) (hb : body L = .ok s') :
    s.issueWhen op o waits body = s'.advance o.stall.toNat o.yld := by
  refine State.issueFlow_ok hc ?_
  simp [hw, hb, Except.map]

theorem State.checks_trap {s : State} {op : Nat} {o : Ops} {r : TrapReq} (hc : s.checks op o = .error r)
    (body : Mask → Except TrapReq State) : s.issue op o body = s.trap r := by
  simp only [State.issue, hc]

/-! ### One thread -/

theorem Thread.canonical_setD {t : Thread} (h : t.Canonical) (n : Nat) (v : Word) : (t.setD n v).Canonical := by
  unfold Thread.setD
  split
  · exact h
  · exact ⟨SMap.wf_set h.d n v, h.h, h.windows⟩

theorem testBit_two_pow_or {v : BitVec 128} {n m : Nat} (hm : m < 128) :
    (v ||| BitVec.ofNat 128 (2 ^ n)).getLsbD m = (v.getLsbD m || decide (m = n)) := by
  rw [BitVec.getLsbD_or, BitVec.getLsbD_ofNat, Nat.testBit_two_pow]
  have : decide (n = m) = decide (m = n) := by simp [eq_comm]
  simp [hm, this]

theorem Thread.dValid_setD (t : Thread) {n m : Nat} (v : Word) (hm : m < 128) :
    (t.setD n v).dValid.getLsbD m = ((decide (m = n) && decide (n ≠ 0)) || t.dValid.getLsbD m) := by
  unfold Thread.setD
  by_cases hn : n = 0
  · simp [hn]
  · rw [if_neg hn]
    show (t.dValid ||| BitVec.ofNat 128 (2 ^ n)).getLsbD m = _
    rw [testBit_two_pow_or hm, Bool.or_comm]
    simp [hn]

theorem Thread.setD_p (t : Thread) (n : Nat) (v : Word) : (t.setD n v).p = t.p := by
  unfold Thread.setD; split <;> rfl

theorem Thread.track_eq (t : Thread) (r : Dest) (old : Word) (lat clock : Nat) (pc : Word) :
    t.track r old lat clock pc = { t with tracked := (t.track r old lat clock pc).tracked } := rfl

theorem Thread.setD_eq (t : Thread) (n : Nat) (v : Word) :
    t.setD n v = { t with d := (t.setD n v).d, dValid := (t.setD n v).dValid, tracked := (t.setD n v).tracked } := by
  unfold Thread.setD; split <;> rfl

theorem Thread.setP_eq (t : Thread) (n : Nat) (b : Bool) : t.setP n b = { t with p := (t.setP n b).p, tracked := (t.setP n b).tracked } := by
  unfold Thread.setP; split <;> rfl

/-- What a result in a d register leaves of a thread. -/
theorem Thread.resultD_eq (t : Thread) (o : Ops) (lat clock : Nat) (pc : Word) (x : LaneOut) :
    t.resultD o lat clock pc x =
      { t with
        d := (t.setD o.dst.toNat (mergeLo o (t.getD o.dst.toNat) x.val)).d
        dValid := (t.setD o.dst.toNat (mergeLo o (t.getD o.dst.toNat) x.val)).dValid
        fflags := t.fflags ||| x.flags.bits
        dyReserved := t.dyReserved || x.dy
        tracked := (t.resultD o lat clock pc x).tracked } := by
  unfold Thread.resultD
  by_cases hn : o.dst.toNat = 0
  · simp only [hn, if_true]
    rfl
  · simp only [if_neg hn]
    rw [Thread.setD_eq]
    rfl

theorem Thread.getD_of_d {t u : Thread} (h : u.d = t.d) (n : Nat) : u.getD n = t.getD n := by
  unfold Thread.getD; rw [h]

theorem Thread.getP_of_p {t u : Thread} (h : u.p = t.p) (n : Nat) : u.getP n = t.getP n := by
  unfold Thread.getP; rw [h]

theorem testBit_pred {v : BitVec 7} {n m : Nat} (b : Bool) (hn : n < 7) :
    (if b then v ||| BitVec.ofNat 7 (2 ^ n) else v &&& ~~~(BitVec.ofNat 7 (2 ^ n))).getLsbD m
      = if m = n then b else v.getLsbD m := by
  have hd : decide (n = m) = decide (m = n) := by simp [eq_comm]
  by_cases hm : m < 7
  · cases b
    · simp only [Bool.false_eq_true, if_false, BitVec.getLsbD_and, BitVec.getLsbD_not, BitVec.getLsbD_ofNat, Nat.testBit_two_pow, hm,
        decide_true, Bool.true_and, hd]
      by_cases e : m = n <;> simp [e]
    · simp only [if_true, BitVec.getLsbD_or, BitVec.getLsbD_ofNat, Nat.testBit_two_pow, hm, decide_true, Bool.true_and, hd]
      by_cases e : m = n <;> simp [e]
  · have e : m ≠ n := by omega
    have h1 : v.getLsbD m = false := by simpa using BitVec.getLsbD_of_ge v m (by omega)
    rw [if_neg e, h1, BitVec.getLsbD_of_ge _ _ (by omega)]

theorem Thread.getP_setP (t : Thread) (n m : Nat) (b : Bool) :
    (t.setP n b).getP m = if m = n ∧ n < 7 then b else t.getP m := by
  unfold Thread.setP
  by_cases hn : 7 ≤ n
  · rw [if_pos hn, if_neg (by omega)]
  · rw [if_neg hn]
    unfold Thread.getP
    have h7 : n < 7 := by omega
    simp only [testBit_pred b h7]
    by_cases e : m = n
    · have : (m == 7) = false := by simp; omega
      simp [e, h7]; omega
    · simp [e]

theorem Thread.resultP_eq (t : Thread) (n : Nat) (b : Bool) (lat clock : Nat) (pc : Word) :
    t.resultP n b lat clock pc = { t with p := (t.setP n b).p, tracked := (t.resultP n b lat clock pc).tracked } := by
  unfold Thread.resultP
  by_cases hn : 7 ≤ n
  · rw [if_pos hn, Thread.setP, if_pos hn]
  · rw [if_neg hn, Thread.setP_eq]
    rfl

theorem Thread.getP_resultP (t : Thread) (n m : Nat) (b : Bool) (lat clock : Nat) (pc : Word) :
    (t.resultP n b lat clock pc).getP m = if m = n ∧ n < 7 then b else t.getP m := by
  rw [← Thread.getP_setP]
  exact Thread.getP_of_p (by rw [Thread.resultP_eq]) m

/-! ### The bundle goes on -/

theorem Gang.Canonical.lane {g : Gang} (h : g.Canonical) (k : Nat) : (g.lane k).Canonical := by
  unfold Gang.lane
  by_cases hk : k < g.threads.length
  · rw [List.getD_eq_getElem _ _ hk]
    exact h.threads _ (List.getElem_mem hk)
  · rw [List.getD_eq_default _ _ (by omega)]
    exact ⟨rfl, rfl, rfl⟩

theorem State.Issuing.lane {s : State} (h : s.Issuing) (k : Nat) : (s.cl k).Canonical := h.canonical.lane k

/-- A change of threads of the issuing bundle, lane by lane. -/
theorem State.OnlyBundle.onLanes {s : State} (h : s.Whole) (m : Mask) (f : Nat → Thread → Thread)
    (hm : ∀ k, m.getLsbD k = true → s.cur.lanes.getLsbD k = true) : s.OnlyBundle (s.onLanes s.cur.gang m f) where
  rest := rfl
  others := fun key hk => State.gangAt_onGang_other s _ (fun _ _ => rfl) hk
  memory := fun _ => rfl
  gang := by rw [State.cg_onLanes h.resident]; rfl
  lanes := fun k hk => by
    rw [State.cl_onLanes h]
    cases hmk : m.getLsbD k
    · simp
    · rw [hm k hmk] at hk; cases hk

theorem State.OnlyGang.trans {s t u : State} (h : s.OnlyGang t) (h' : t.OnlyGang u) : s.OnlyGang u where
  rest := by rw [h'.rest, h.rest]
  others := fun key hk => by
    have hc : t.cur = s.cur := by rw [h.rest]
    rw [h'.others key (by rw [hc]; exact hk), h.others key hk]
  memory := fun pa => by rw [h'.memory, h.memory]

theorem State.OnlyBundle.trans {s t u : State} (h : s.OnlyBundle t) (h' : t.OnlyBundle u) : s.OnlyBundle u where
  toOnlyGang := h.toOnlyGang.trans h'.toOnlyGang
  gang := by rw [h'.gang, h.gang]
  lanes := fun k hk => by
    have hc : t.cur = s.cur := by rw [h.rest]
    rw [h'.lanes k (by rw [hc]; exact hk), h.lanes k hk]

theorem State.cl_advance {s : State} (h : s.Whole) (stall : Nat) (yld : Bool) (k : Nat) :
    (s.advance stall yld).cl k = if s.cur.lanes.getLsbD k
      then { (s.cl k).issued s.clock stall yld with pc := (s.cl k).pc + word s.cur.len } else s.cl k :=
  State.cl_onLanes h _ _ k

theorem State.OnlyBundle.advance {s : State} (h : s.Whole) (stall : Nat) (yld : Bool) : s.OnlyBundle (s.advance stall yld) :=
  State.OnlyBundle.onLanes h _ _ fun _ hk => hk

/-- A change of the guarded lanes' threads, after which the bundle goes on: what becomes of each lane. -/
theorem State.cl_onLanes_advance {s : State} (h : s.Whole) (m : Mask) (f : Nat → Thread → Thread) (stall : Nat) (yld : Bool) (k : Nat)
    (hk : s.cur.lanes.getLsbD k = true) :
    ((s.onLanes s.cur.gang m f).advance stall yld).cl k =
      { (if m.getLsbD k then f k (s.cl k) else s.cl k).issued s.clock stall yld with
        pc := (if m.getLsbD k then f k (s.cl k) else s.cl k).pc + word s.cur.len } := by
  have h' := h.onLanes m f
  rw [State.cl_advance h']
  simp only [State.onLanes_cur, State.onLanes_clock, hk, if_true]
  rw [State.cl_onLanes h]

theorem State.onLanes_advance_bundle {s : State} (h : s.Whole) {m : Mask}
    (hm : ∀ k, m.getLsbD k = true → s.cur.lanes.getLsbD k = true) (f : Nat → Thread → Thread) (stall : Nat) (yld : Bool) :
    s.OnlyBundle ((s.onLanes s.cur.gang m f).advance stall yld) :=
  (State.OnlyBundle.onLanes h m f hm).trans (State.OnlyBundle.advance (h.onLanes m f) stall yld)

/-- The guarded lanes lie in the bundle. -/
theorem State.checks_guarded {s : State} {op : Nat} {o : Ops} {L : Mask} (hc : s.checks op o = .ok L) : L = s.guarded o.guard := by
  unfold State.checks at hc
  split at hc
  · cases hc
  · split at hc
    · cases hc
    · dsimp only at hc
      split at hc
      · cases hc
      · split at hc
        · cases hc
        · cases hc; rfl

theorem State.checks_sub {s : State} {op : Nat} {o : Ops} {L : Mask} (hc : s.checks op o = .ok L) (k : Nat) (hk : L.getLsbD k = true) :
    s.cur.lanes.getLsbD k = true := by
  rw [State.checks_guarded hc, State.guarded, getLsbD_those] at hk
  simp only [Bool.and_eq_true] at hk
  exact hk.1

/-! ### Results -/

/-- A LANE INSTRUCTION with a d destination whose checks pass. -/
theorem State.laneStep_d {s : State} {op : Nat} {o : Ops} {L : Mask} (hi : s.Issuing) (hc : s.checks op o = .ok L) (hd : o.clsD = false)
    (lat : Nat) (f : Nat → LaneOut) :
    s.WroteLanes (s.laneStep op o lat f) o (dstOf o L) (fun k _ => mergeLo o ((s.cl k).getD o.dst.toNat) (f k).val) noReg noReg
      (fun k => if L.getLsbD k then (f k).flags.bits else 0) (fun k => L.getLsbD k && (f k).dy) := by
  have he : s.laneStep op o lat f
      = (s.onLanes s.cur.gang L fun k t => t.resultD o lat s.clock s.cur.pc (f k)).advance o.stall.toNat o.yld :=
    State.issue_ok hc (by simp [State.writeBack, hd])
  rw [he]
  have hsub := State.checks_sub hc
  have hcl := fun k => State.cl_onLanes_advance hi.toWhole L (fun k t => t.resultD o lat s.clock s.cur.pc (f k)) o.stall.toNat o.yld k
  refine { toOnlyBundle := State.onLanes_advance_bundle hi.toWhole hsub _ _ _, on := ?_, only := ?_, d := ?_, valid := ?_, p := ?_, flags := ?_,
           reserved := ?_ }
  · intro k hk
    rw [hcl k hk, Thread.resultD_eq]
    constructor <;> (split <;> rfl)
  · intro k hk
    rw [hcl k hk, Thread.resultD_eq]
    unfold Thread.RegistersOnly
    split <;> rfl
  · intro k n hk
    rw [hcl k hk, Thread.resultD_eq]
    unfold dstOf
    cases hL : L.getLsbD k
    · simp [Thread.getD, Thread.issued]
    · simp only [if_true, Bool.true_and]
      refine Eq.trans (Thread.getD_of_d (t := (s.cl k).setD o.dst.toNat (mergeLo o ((s.cl k).getD o.dst.toNat) (f k).val)) rfl n) ?_
      rw [Thread.getD_setD (hi.lane k).d]
      by_cases e : n = o.dst.toNat
      · by_cases z : o.dst.toNat = 0 <;> simp [e, z]
      · simp [e]
  · intro k n hk hn
    rw [hcl k hk, Thread.resultD_eq]
    unfold dstOf
    cases hL : L.getLsbD k
    · simp [Thread.issued]
    · simp only [if_true, Bool.true_and]
      refine Eq.trans (Thread.dValid_setD (s.cl k) _ hn) ?_
      by_cases e : n = o.dst.toNat
      · by_cases z : o.dst.toNat = 0 <;> simp [e, z]
      · simp [e]
  · intro k n hk
    rw [hcl k hk, Thread.resultD_eq]
    simp only [noReg, Bool.false_eq_true, if_false]
    split <;> rfl
  · intro k hk
    rw [hcl k hk, Thread.resultD_eq]
    cases hL : L.getLsbD k <;> simp [Thread.issued]
  · intro k hk
    rw [hcl k hk, Thread.resultD_eq]
    cases hL : L.getLsbD k <;> simp [Thread.issued]

/-- A write of a g register leaves the threads, and every field of the gang but the register's own. -/
theorem Gang.setG_eq (g : Gang) (n : Nat) (v : Word) :
    g.setG n v = { g with g := (g.setG n v).g, gValid := (g.setG n v).gValid, gFailed := (g.setG n v).gFailed, tokenEnd := (g.setG n v).tokenEnd } := by
  unfold Gang.setG; split <;> rfl

theorem Gang.getG_setG {g : Gang} (h : SMap.wf 0 g.g = true) (n m : Nat) (v : Word) :
    (g.setG n v).getG m = if m = n ∧ n ≠ 0 then v else g.getG m := by
  unfold Gang.setG Gang.getG
  by_cases hn : n = 0
  · simp [hn]
  · rw [if_neg hn]
    by_cases hm : m = 0
    · subst hm
      have : ¬ (0 = n) := fun e => hn e.symm
      simp [this]
    · simp only [if_neg hm]
      rw [SMap.get_set h]
      by_cases e : m = n <;> simp [e, hn]

theorem Gang.setG_key (g : Gang) (n : Nat) (v : Word) : (g.setG n v).key = g.key := by rw [Gang.setG_eq]

theorem Gang.setG_threads (g : Gang) (n : Nat) (v : Word) : (g.setG n v).threads = g.threads := by rw [Gang.setG_eq]

/-- A result in a g register: its gang's other fields, and what of each lane changes. -/
theorem Gang.resultG_eq (g : Gang) (n : Nat) (v : Word) :
    g.resultG n v = { g.setG n v with threads := g.threads.map fun t => t.forget (.g n) } := by
  unfold Gang.resultG Gang.setG
  split <;> rfl

theorem Gang.resultG_key (g : Gang) (n : Nat) (v : Word) : (g.resultG n v).key = g.key := by
  rw [Gang.resultG_eq]; exact Gang.setG_key g n v

theorem Gang.resultG_length (g : Gang) (n : Nat) (v : Word) : (g.resultG n v).threads.length = g.threads.length := by
  rw [Gang.resultG_eq]; simp

theorem Gang.getG_resultG {g : Gang} (h : SMap.wf 0 g.g = true) (n m : Nat) (v : Word) :
    (g.resultG n v).getG m = if m = n ∧ n ≠ 0 then v else g.getG m := by
  rw [← Gang.getG_setG h n m v, Gang.resultG_eq]; rfl

theorem Gang.lane_resultG (g : Gang) (n : Nat) (v : Word) (k : Nat) : (g.resultG n v).lane k = (g.lane k).forget (.g n) := by
  unfold Gang.lane
  rw [Gang.resultG_eq]
  show (g.threads.map fun t => t.forget (.g n)).getD k Thread.absent = _
  simp only [List.getD_eq_getElem?_getD, List.getElem?_map]
  cases g.threads[k]? <;> rfl

theorem Thread.forget_eq (t : Thread) (r : Dest) : t.forget r = { t with tracked := (t.forget r).tracked } := rfl

theorem State.Whole.onGang {s : State} (h : s.Whole) (f : Gang → Gang) (hk : ∀ g, (f g).key = g.key)
    (hl : ∀ g, (f g).threads.length = g.threads.length) : (s.onGang s.cur.gang f).Whole :=
  ⟨(State.resident_onGang s f (fun g _ => hk g) _).trans h.resident, by
    show (State.cg (s.onGang s.cur.gang f)).threads.length = 32
    rw [State.cg_onGang h.resident _ fun g _ => hk g, hl]; exact h.length⟩

theorem State.OnlyGang.onGang (s : State) (f : Gang → Gang) (hk : ∀ g, (f g).key = g.key) : s.OnlyGang (s.onGang s.cur.gang f) where
  rest := rfl
  others := fun _ h => State.gangAt_onGang_other s f (fun g _ => hk g) h
  memory := fun _ => rfl

theorem State.checks_empty_or (L : Mask) : L = 0 ∨ L.getLsbD (lowest L) = true := by
  by_cases h : L = 0
  · exact .inl h
  · exact .inr (lowest_mem h)

/-- A LANE INSTRUCTION with a g destination on whose value the guarded lanes agree. -/
theorem State.laneStep_g {s : State} {op : Nat} {o : Ops} {L : Mask} (hi : s.Issuing) (hc : s.checks op o = .ok L) (hd : o.clsD = true)
    (lat : Nat) (f : Nat → LaneOut)
    (hu : ∀ k, L.getLsbD k = true → mergeLo o (s.cg.getG o.dst.toNat) (f k).val = mergeLo o (s.cg.getG o.dst.toNat) (f (lowest L)).val) :
    s.WroteG (s.laneStep op o lat f) o L (mergeLo o (s.cg.getG o.dst.toNat) (f (lowest L)).val) noReg noReg
      (fun k => if L.getLsbD k then (f k).flags.bits else 0) (fun k => L.getLsbD k && (f k).dy) := by
  have hsub := State.checks_sub hc
  have hdiff : differing L (fun k => mergeLo o (s.cg.getG o.dst.toNat) (f k).val) = 0 := by
    unfold differing
    rw [those_eq_zero]
    intro k hk
    simp [hu k hk]
  set v := mergeLo o (s.cg.getG o.dst.toNat) (f (lowest L)).val with hv
  set tr : Thread → Thread := if o.dst.toNat = 0 then id else
    fun t => t.track (.g o.dst.toNat) (s.cg.getG o.dst.toNat) lat s.clock s.cur.pc with htr
  set fl : Nat → Thread → Thread := fun k t => (t.raise (f k).flags).sawReserved (f k).dy with hfl
  have hw := hi.toWhole
  by_cases hL : L = 0
  · have he : s.laneStep op o lat f = s.advance o.stall.toNat o.yld := State.issue_ok hc (by simp [State.writeBack, hd, hL])
    have hlk : ∀ k, L.getLsbD k = false := fun k => by rw [hL]; simp
    rw [he]
    have hb := State.OnlyBundle.advance hw o.stall.toNat o.yld
    have hcl := fun k (hk : s.cur.lanes.getLsbD k = true) => State.cl_advance hw o.stall.toNat o.yld k
    refine { toOnlyGang := hb.toOnlyGang, gang := ?_, lanes := fun k hk => by rw [if_pos hL]; exact hb.lanes k hk, on := ?_, only := ?_, same := ?_, p := ?_, g := ?_, flags := ?_, reserved := ?_ }
    · rw [hb.gang]
    · intro k hk; rw [hcl k hk, if_pos hk]; constructor <;> rfl
    · intro k hk; rw [hcl k hk, if_pos hk]; rfl
    · intro k hk; rw [hcl k hk, if_pos hk]; exact ⟨rfl, rfl⟩
    · intro k n hk; rw [hcl k hk, if_pos hk]; rfl
    · intro n
      rw [if_neg (by simp [hL])]
      rw [hb.gang]; rfl
    · intro k hk; rw [hcl k hk, if_pos hk, hlk]; simp [Thread.issued]
    · intro k hk; rw [hcl k hk, if_pos hk, hlk]; simp [Thread.issued]
  · have he : s.laneStep op o lat f
        = (((s.onGang s.cur.gang fun g => g.resultG o.dst.toNat v).onLanes s.cur.gang s.cur.lanes fun _ => tr).onLanes s.cur.gang L fl).advance
            o.stall.toNat o.yld :=
      State.issue_ok hc (by
        unfold State.writeBack
        rw [if_neg (by simp [hd]), if_neg hL]
        dsimp only
        rw [if_neg (by rw [hdiff]; simp)]
        congr 3
        funext _ t
        rw [htr]
        split <;> rfl)
    rw [he]
    set s0 := s.onGang s.cur.gang fun g => g.resultG o.dst.toNat v with hs0
    have h0 : s0.Whole := hw.onGang _ (fun g => Gang.resultG_key g _ _) (fun g => Gang.resultG_length g _ _)
    have hg0 : s0.cg = s.cg.resultG o.dst.toNat v := State.cg_onGang hw.resident _ fun g _ => Gang.resultG_key g _ _
    have hcl0 : ∀ k, s0.cl k = (s.cl k).forget (.g o.dst.toNat) := fun k => by
      unfold State.cl; rw [hg0, Gang.lane_resultG]
    set s1 := s0.onLanes s.cur.gang s.cur.lanes fun _ => tr with hs1
    have h1 : s1.Whole := State.Whole.onLanes h0 _ _
    have hg1 : s1.cg = { s0.cg with threads := s1.cg.threads } := by rw [hs1, show s.cur.gang = s0.cur.gang from rfl, State.cg_onLanes h0.resident]; rfl
    have htk : ∀ t : Thread, tr t = { t with tracked := (tr t).tracked } := by
      intro t
      rw [htr]
      split <;> rfl
    have hcl1 : ∀ k, s1.cl k = if s.cur.lanes.getLsbD k then tr ((s.cl k).forget (.g o.dst.toNat)) else (s.cl k).forget (.g o.dst.toNat) := fun k => by
      rw [hs1, show s.cur.gang = s0.cur.gang from rfl, State.cl_onLanes h0, hcl0]
    have hb := State.onLanes_advance_bundle h1 (m := L) hsub fl o.stall.toNat o.yld
    have ho : s.OnlyGang ((s1.onLanes s.cur.gang L fl).advance o.stall.toNat o.yld) :=
      (State.OnlyGang.onGang s _ fun g => Gang.resultG_key g _ _).trans
        ((State.OnlyBundle.onLanes h0 s.cur.lanes (fun _ => tr) fun _ hk => hk).toOnlyGang.trans hb.toOnlyGang)
    have hcl : ∀ k, s.cur.lanes.getLsbD k = true → ((s1.onLanes s.cur.gang L fl).advance o.stall.toNat o.yld).cl k =
        { (if L.getLsbD k then fl k (s1.cl k) else s1.cl k).issued s.clock o.stall.toNat o.yld with
          pc := (if L.getLsbD k then fl k (s1.cl k) else s1.cl k).pc + word s.cur.len } :=
      fun k hk => State.cl_onLanes_advance h1 L fl o.stall.toNat o.yld k hk
    have hcg : State.cg ((s1.onLanes s.cur.gang L fl).advance o.stall.toNat o.yld)
        = { s1.cg with threads := (State.cg ((s1.onLanes s.cur.gang L fl).advance o.stall.toNat o.yld)).threads } := hb.gang
    have hcl1k : ∀ k, s.cur.lanes.getLsbD k = true → s1.cl k = { s.cl k with tracked := (s1.cl k).tracked } := fun k hk => by
      have e := hcl1 k
      rw [if_pos hk] at e
      rw [e, htk, Thread.forget_eq]
    have hfk : ∀ k t, fl k t =
        { t with
          fflags := t.fflags ||| (f k).flags.bits
          dyReserved := t.dyReserved || (f k).dy } := fun k t => rfl
    refine { toOnlyGang := ho, gang := ?_, lanes := ?_, on := ?_, only := ?_, same := ?_, p := ?_, g := ?_, flags := ?_, reserved := ?_ }
    · rw [hcg, hg1, hg0, Gang.resultG_eq, Gang.setG_eq]
    · intro k hk
      rw [if_neg hL]
      exact (hb.lanes k hk).trans ((hcl1 k).trans (by rw [hk]; rfl))
    · intro k hk
      rw [hcl k hk, hfk, hcl1k k hk]
      constructor <;> (split <;> rfl)
    · intro k hk
      rw [hcl k hk, hfk, hcl1k k hk]
      unfold Thread.RegistersOnly
      split <;> rfl
    · intro k hk
      rw [hcl k hk, hfk, hcl1k k hk]
      split <;> exact ⟨rfl, rfl⟩
    · intro k n hk
      rw [hcl k hk, hfk, hcl1k k hk]
      simp only [noReg, Bool.false_eq_true, if_false]
      split <;> rfl
    · intro n
      rw [hcg]
      show s1.cg.getG n = _
      rw [hg1]
      show s0.cg.getG n = _
      rw [hg0, Gang.getG_resultG hi.canonical.regs]
      by_cases e : n = o.dst.toNat
      · by_cases z : o.dst.toNat = 0
        · rw [if_neg (fun h => h.2 z), if_neg (fun h => h.2.1 (h.1.trans z))]
        · rw [if_pos ⟨e, z⟩, if_pos ⟨e, by rw [e]; exact z, hL⟩]
      · rw [if_neg (fun h => e h.1), if_neg (fun h => e h.1)]
    · intro k hk
      rw [hcl k hk, hfk, hcl1k k hk]
      cases hLk : L.getLsbD k <;> simp [Thread.issued]
    · intro k hk
      rw [hcl k hk, hfk, hcl1k k hk]
      cases hLk : L.getLsbD k <;> simp [Thread.issued]

/-- A LANE INSTRUCTION whose checks pass delivers what its lanes compute. -/
theorem State.laneStep_delivers {s : State} {op : Nat} {o : Ops} {L : Mask} (hi : s.Issuing) (hc : s.checks op o = .ok L)
    (lat : Nat) (f : Nat → LaneOut) :
    s.Delivers (.next (s.laneStep op o lat f)) o L (fun k => mergeLo o (s.dstBefore o k) (f k).val) noReg noReg
      (fun k => if L.getLsbD k then (f k).flags.bits else 0) (fun k => L.getLsbD k && (f k).dy) where
  each := fun hd => ⟨_, rfl, by
    have h := State.laneStep_d hi hc hd lat f
    simpa [State.dstBefore, hd] using h⟩
  once := fun hd hu => ⟨_, rfl, by
    simp only [State.dstBefore, hd, if_true] at hu ⊢
    exact State.laneStep_g hi hc hd lat f hu⟩
  differ := fun hd hne => by
    simp only [State.dstBefore, hd, if_true] at hne ⊢
    obtain ⟨k, hk, hv⟩ := hne
    have hL : L ≠ 0 := fun e => by rw [e] at hk; simp at hk
    have hdiff : differing L (fun k => mergeLo o (s.cg.getG o.dst.toNat) (f k).val) ≠ 0 := by
      unfold differing
      intro h0
      have := those_eq_zero.1 h0 k hk
      simp [hv] at this
    have he : s.laneStep op o lat f = s.trap (s.nonuniform (differing L fun k => mergeLo o (s.cg.getG o.dst.toNat) (f k).val)) :=
      State.issue_trap hc (by
        unfold State.writeBack
        rw [if_neg (by simp [hd]), if_neg hL]
        dsimp only
        rw [if_pos hdiff])
    rw [he]
    rfl

/-! ### Results followed by predicates -/

theorem mapLanes_mapLanes (m n : Mask) (f g : Nat → Thread → Thread) (j : Nat) (ts : List Thread) :
    mapLanes n g j (mapLanes m f j ts)
      = mapLanes (BitVec.allOnes 32) (fun k t => if n.getLsbD k then g k (if m.getLsbD k then f k t else t) else if m.getLsbD k then f k t else t) j
          (ts.take (32 - j)) ++ ts.drop (32 - j) := by
  induction ts generalizing j with
  | nil => simp [mapLanes]
  | cons t ts ih =>
    by_cases hj : j < 32
    · have e : 32 - j = (32 - (j + 1)) + 1 := by omega
      rw [e, List.take_succ_cons, List.drop_succ_cons]
      simp only [mapLanes, List.cons_append]
      rw [ih (j + 1)]
      congr 1
      have : (BitVec.allOnes 32).getLsbD j = true := by rw [BitVec.getLsbD_allOnes, decide_eq_true hj]
      rw [if_pos this]
    · have e : 32 - j = 0 := by omega
      have e' : 32 - (j + 1) = 0 := by omega
      have h := ih (j + 1)
      rw [e'] at h
      rw [e]
      have hm : m.getLsbD j = false := BitVec.getLsbD_of_ge m j (by omega)
      have hn : n.getLsbD j = false := BitVec.getLsbD_of_ge n j (by omega)
      simp only [mapLanes, List.take_zero, List.drop_zero, List.nil_append, hm, hn] at h ⊢
      rw [h]
      simp

/-- Two changes of lanes that act on each thread in either order alike act alike. -/
theorem State.onLanes_comm (s : State) (key : Nat) (m n : Mask) (f g : Nat → Thread → Thread) (h : ∀ k t, f k (g k t) = g k (f k t)) :
    (s.onLanes key m f).onLanes key n g = (s.onLanes key n g).onLanes key m f := by
  have ht : ∀ ts, mapLanes n g 0 (mapLanes m f 0 ts) = mapLanes m f 0 (mapLanes n g 0 ts) := by
    intro ts
    rw [mapLanes_mapLanes, mapLanes_mapLanes]
    congr 2
    funext k t
    cases m.getLsbD k <;> cases n.getLsbD k <;> simp [h]
  have hg : ∀ x : Gang, (x.onLanes m f).onLanes n g = (x.onLanes n g).onLanes m f := fun x => by
    simp only [Gang.onLanes, ht]
  simp only [State.onLanes, State.onGang, List.map_map]
  congr 1
  apply List.map_congr_left
  intro x _
  simp only [Function.comp]
  by_cases hk : x.key = key
  · have h1 : (x.onLanes m f).key = key := hk
    have h2 : (x.onLanes n g).key = key := hk
    rw [if_pos hk, if_pos hk, if_pos h1, if_pos h2, hg]
  · simp [hk]

theorem Thread.resultP_advance (t : Thread) (n : Nat) (b : Bool) (lat c : Nat) (pc : Word) (c' stall : Nat) (yld : Bool) (len : Word) :
    ({ (t.resultP n b lat c pc).issued c' stall yld with pc := (t.resultP n b lat c pc).pc + len } : Thread)
      = Thread.resultP { t.issued c' stall yld with pc := t.pc + len } n b lat c pc := by
  unfold Thread.resultP
  split
  · rfl
  · unfold Thread.setP
    split <;> rfl

theorem State.onLanes_resultP_advance (s : State) (L : Mask) (n : Nat) (b : Nat → Bool) (lat c : Nat) (pc : Word) (stall : Nat) (yld : Bool) :
    (s.onLanes s.cur.gang L fun k t => t.resultP n (b k) lat c pc).advance stall yld
      = (s.advance stall yld).onLanes s.cur.gang L fun k t => t.resultP n (b k) lat c pc := by
  exact State.onLanes_comm s s.cur.gang L s.cur.lanes _ (fun _ t => { t.issued s.clock stall yld with pc := t.pc + word s.cur.len })
    fun k t => (Thread.resultP_advance t n (b k) lat c pc s.clock stall yld (word s.cur.len)).symm

/-- A predicate result in the guarded lanes after a lane result in d registers. -/
theorem State.WroteLanes.thenP {s t : State} {o : Ops} {L : Mask} {wd : Nat → Nat → Bool} {vd : Nat → Nat → Word} {fl : Nat → BitVec 5}
    {dy : Nat → Bool} (h : s.WroteLanes t o wd vd noReg noReg fl dy) (ht : t.Whole)
    (hL : ∀ k, L.getLsbD k = true → s.cur.lanes.getLsbD k = true) (n : Nat) (b : Nat → Bool) (lat c : Nat) (pc : Word) :
    s.WroteLanes (t.onLanes s.cur.gang L fun k u => u.resultP n (b k) lat c pc) o wd vd (predOf L n) (fun k _ => b k) fl dy := by
  have hc : t.cur = s.cur := by rw [h.rest]
  have hcl : ∀ k, State.cl (t.onLanes s.cur.gang L fun k u => u.resultP n (b k) lat c pc) k
      = if L.getLsbD k then (t.cl k).resultP n (b k) lat c pc else t.cl k := fun k => by
    rw [← hc]; exact State.cl_onLanes ht L _ k
  have hb : t.OnlyBundle (t.onLanes s.cur.gang L fun k u => u.resultP n (b k) lat c pc) := by
    rw [← hc]; exact State.OnlyBundle.onLanes ht L _ (by rw [hc]; exact hL)
  refine { toOnlyBundle := h.toOnlyBundle.trans hb, on := ?_, only := ?_, d := ?_, valid := ?_, p := ?_, flags := ?_, reserved := ?_ }
  · intro k hk
    rw [hcl, Thread.resultP_eq]
    have := h.on k hk
    split
    · exact ⟨this.pc, this.ready, this.issued, this.yields, this.watch⟩
    · exact this
  · intro k hk
    rw [hcl, Thread.resultP_eq]
    have := h.only k hk
    split
    · unfold Thread.RegistersOnly at this ⊢
      rw [this]
    · exact this
  · intro k m hk
    rw [hcl, ← h.d k m hk, Thread.resultP_eq]
    split <;> rfl
  · intro k m hk hm
    rw [hcl, ← h.valid k m hk hm, Thread.resultP_eq]
    split <;> rfl
  · intro k m hk
    rw [hcl]
    have hp := h.p k m hk
    simp only [noReg, Bool.false_eq_true, if_false] at hp
    unfold predOf
    cases hLk : L.getLsbD k
    · simpa using hp
    · simp only [if_true, Bool.true_and]
      rw [Thread.getP_resultP, hp]
      by_cases e : m = n
      · subst e; simp
      · simp [e]
  · intro k hk
    rw [hcl, ← h.flags k hk, Thread.resultP_eq]
    split <;> rfl
  · intro k hk
    rw [hcl, ← h.reserved k hk, Thread.resultP_eq]
    split <;> rfl

/-- A predicate result in the guarded lanes after a result in a g register. -/
theorem State.WroteG.thenP {s t : State} {o : Ops} {L : Mask} {v : Word} {fl : Nat → BitVec 5}
    {dy : Nat → Bool} (h : s.WroteG t o L v noReg noReg fl dy) (ht : t.Whole)
    (hL : ∀ k, L.getLsbD k = true → s.cur.lanes.getLsbD k = true) (n : Nat) (b : Nat → Bool) (lat c : Nat) (pc : Word) :
    s.WroteG (t.onLanes s.cur.gang L fun k u => u.resultP n (b k) lat c pc) o L v (predOf L n) (fun k _ => b k) fl dy := by
  have hc : t.cur = s.cur := by rw [h.rest]
  have hcl : ∀ k, State.cl (t.onLanes s.cur.gang L fun k u => u.resultP n (b k) lat c pc) k
      = if L.getLsbD k then (t.cl k).resultP n (b k) lat c pc else t.cl k := fun k => by
    rw [← hc]; exact State.cl_onLanes ht L _ k
  have hb : t.OnlyBundle (t.onLanes s.cur.gang L fun k u => u.resultP n (b k) lat c pc) := by
    rw [← hc]; exact State.OnlyBundle.onLanes ht L _ (by rw [hc]; exact hL)
  refine { toOnlyGang := h.toOnlyGang.trans hb.toOnlyGang, gang := ?_, lanes := ?_, on := ?_, only := ?_, same := ?_, p := ?_, g := ?_,
           flags := ?_, reserved := ?_ }
  · rw [hb.gang, h.gang]
  · intro k hk
    rw [hb.lanes k (by rw [hc]; exact hk), h.lanes k hk]
  · intro k hk
    rw [hcl, Thread.resultP_eq]
    have := h.on k hk
    split
    · exact ⟨this.pc, this.ready, this.issued, this.yields, this.watch⟩
    · exact this
  · intro k hk
    rw [hcl, Thread.resultP_eq]
    have := h.only k hk
    split
    · unfold Thread.RegistersOnly at this ⊢
      rw [this]
    · exact this
  · intro k hk
    rw [hcl, Thread.resultP_eq]
    have := h.same k hk
    split
    · exact this
    · exact this
  · intro k m hk
    rw [hcl]
    have hp := h.p k m hk
    simp only [noReg, Bool.false_eq_true, if_false] at hp
    unfold predOf
    cases hLk : L.getLsbD k
    · simpa using hp
    · simp only [if_true, Bool.true_and]
      rw [Thread.getP_resultP, hp]
      by_cases e : m = n
      · subst e; simp
      · simp [e]
  · intro m
    rw [hb.gang, ← h.g m]; rfl
  · intro k hk
    rw [hcl, ← h.flags k hk, Thread.resultP_eq]
    split <;> rfl
  · intro k hk
    rw [hcl, ← h.reserved k hk, Thread.resultP_eq]
    split <;> rfl

/-- What a lane instruction leaves is still a whole gang. -/
theorem State.Whole.writeBack {s s' : State} (h : s.Whole) {o : Ops} {lat : Nat} {L : Mask} {f : Nat → LaneOut}
    (he : s.writeBack o lat L f = .ok s') : s'.Whole ∧ s'.cur = s.cur ∧ s'.clock = s.clock := by
  unfold State.writeBack at he
  split at he
  · cases he; exact ⟨h.onLanes L _, rfl, rfl⟩
  · split at he
    · cases he; exact ⟨h, rfl, rfl⟩
    · dsimp only at he
      split at he
      · cases he
      · cases he
        have h1 := h.onGang (fun g => g.resultG o.dst.toNat (mergeLo o (s.cg.getG o.dst.toNat) (f (lowest L)).val))
          (fun g => Gang.resultG_key g _ _) (fun g => Gang.resultG_length g _ _)
        exact ⟨State.Whole.onLanes (State.Whole.onLanes h1 s.cur.lanes _) L _, rfl, rfl⟩

/-- A LANE INSTRUCTION that also writes a predicate in its guarded lanes. -/
theorem State.laneStep_pred_delivers {s : State} {op : Nat} {o : Ops} {L : Mask} (hi : s.Issuing) (hc : s.checks op o = .ok L)
    (lat : Nat) (f : Nat → LaneOut) (n : Nat) (b : Nat → Bool) (lat' : Nat) (body : Mask → Except TrapReq State)
    (hb : body L = (s.writeBack o lat L f).map fun s' => s'.onLanes s.cur.gang L fun k t => t.resultP n (b k) lat' s.clock s.cur.pc) :
    s.Delivers (.next (s.issue op o body)) o L (fun k => mergeLo o (s.dstBefore o k) (f k).val) (predOf L n) (fun k _ => b k)
      (fun k => if L.getLsbD k then (f k).flags.bits else 0) (fun k => L.getLsbD k && (f k).dy) := by
  have hd := State.laneStep_delivers hi hc lat f
  have hok : ∀ s', s.writeBack o lat L f = .ok s' →
      s.issue op o body = (s.laneStep op o lat f).onLanes s.cur.gang L (fun k t => t.resultP n (b k) lat' s.clock s.cur.pc)
        ∧ (s.laneStep op o lat f).Whole := by
    intro s' he
    obtain ⟨hw, hcur, _⟩ := State.Whole.writeBack hi.toWhole he
    have hl : s.laneStep op o lat f = s'.advance o.stall.toNat o.yld := State.issue_ok hc he
    refine ⟨?_, by rw [hl]; exact hw.onLanes _ _⟩
    rw [hl, State.issue_ok hc (by rw [hb, he]; rfl), ← hcur]
    exact State.onLanes_resultP_advance s' L n b lat' _ _ _ _
  have herr : ∀ r, s.writeBack o lat L f = .error r → s.issue op o body = s.laneStep op o lat f := by
    intro r he
    have h1 : s.issue op o body = s.trap r := State.issue_trap hc (by rw [hb, he]; rfl)
    have h2 : s.laneStep op o lat f = s.trap r := State.issue_trap hc he
    rw [h1, h2]
  refine ⟨fun hcls => ?_, fun hcls hu => ?_, fun hcls hne => ?_⟩
  · obtain ⟨t, ht, hw⟩ := hd.each hcls
    cases he : s.writeBack o lat L f with
    | ok s' =>
      obtain ⟨h1, h2⟩ := hok s' he
      cases ht
      exact ⟨_, rfl, by rw [h1]; exact hw.thenP h2 (State.checks_sub hc) n b lat' _ _⟩
    | error r => simp [State.writeBack, hcls] at he
  · obtain ⟨t, ht, hw⟩ := hd.once hcls hu
    cases he : s.writeBack o lat L f with
    | ok s' =>
      obtain ⟨h1, h2⟩ := hok s' he
      cases ht
      exact ⟨_, rfl, by rw [h1]; exact hw.thenP h2 (State.checks_sub hc) n b lat' _ _⟩
    | error r =>
      exfalso
      have hdiff : differing L (fun k => mergeLo o (s.cg.getG o.dst.toNat) (f k).val) = 0 := by
        unfold differing
        rw [those_eq_zero]
        intro k hk
        have := hu k hk
        simp only [State.dstBefore, hcls, if_true] at this
        simp [this]
      unfold State.writeBack at he
      rw [if_neg (by simp [hcls])] at he
      split at he
      · cases he
      · dsimp only at he
        rw [if_neg (by rw [hdiff]; simp)] at he
        cases he
  · have := hd.differ hcls hne
    cases he : s.writeBack o lat L f with
    | error r => rw [herr r he]; exact this
    | ok s' =>
      exfalso
      obtain ⟨k, hk, hv⟩ := hne
      simp only [State.dstBefore, hcls, if_true] at hv
      have hdiff : differing L (fun k => mergeLo o (s.cg.getG o.dst.toNat) (f k).val) ≠ 0 := fun h0 => by
        have := those_eq_zero.1 h0 k hk
        simp [hv] at this
      have hL : L ≠ 0 := fun e => by rw [e] at hk; simp at hk
      unfold State.writeBack at he
      rw [if_neg (by simp [hcls]), if_neg hL] at he
      dsimp only at he
      rw [if_pos hdiff] at he
      cases he

/-- A lane instruction that raises no flag delivers its values. -/
theorem State.value_delivers {s : State} {op : Nat} {o : Ops} {L : Mask} {i : Instr} (lat : Nat) {f : Nat → LaneOut} {v : Nat → Word} (hi : s.Issuing)
    (hc : s.checks op o = .ok L) (he : exec i s = .next (s.laneStep op o lat f)) (hv : ∀ k, f k = { val := v k }) :
    s.Delivers (exec i s) o L (fun k => mergeLo o (s.dstBefore o k) (v k)) noReg noReg (fun _ => 0) (fun _ => false) := by
  have h := State.laneStep_delivers hi hc lat f
  rw [he]
  obtain rfl : f = fun k => { val := v k } := funext hv
  have hf : (fun k => if L.getLsbD k then ({ val := v k } : LaneOut).flags.bits else 0) = fun _ => (0 : BitVec 5) := by
    funext k; split <;> rfl
  have hdy : (fun k => L.getLsbD k && ({ val := v k } : LaneOut).dy) = fun _ => false := funext fun _ => Bool.and_false _
  rw [hf, hdy] at h
  exact h

/-- An issue whose effect is to write a result is a lane instruction. -/
theorem State.issue_eq_laneStep {s : State} {op : Nat} {o : Ops} {L : Mask} {lat : Nat} {f : Nat → LaneOut} {body : Mask → Except TrapReq State}
    (hc : s.checks op o = .ok L) (hb : body L = s.writeBack o lat L f) : s.issue op o body = s.laneStep op o lat f := by
  simp only [State.laneStep, State.issue, hc, hb]

end Sys2Proof.Machine
end

