-- ==== Sys2Proof/Laws/Elements.lean ====
section
/-! SUPPORT. Sub-elements of a word: what one reads after elements have been packed, merged under lo, or spread. -/

namespace Sys2Proof.Machine

/-- Elements put together, the first lowest. -/
def packed (w : Nat) (xs : List Nat) : Nat := xs.foldr (fun x acc => acc * 2 ^ w + x % 2 ^ w) 0

theorem packed_lt (w : Nat) (xs : List Nat) : packed w xs < 2 ^ (w * xs.length) := by
  induction xs with
  | nil => simp [packed]
  | cons x xs ih =>
    have hx : x % 2 ^ w < 2 ^ w := Nat.mod_lt _ (Nat.two_pow_pos w)
    have e : 2 ^ (w * (xs.length + 1)) = 2 ^ (w * xs.length) * 2 ^ w := by rw [← Nat.pow_add]; congr 1
    show packed w xs * 2 ^ w + x % 2 ^ w < 2 ^ (w * (xs.length + 1))
    rw [e]
    calc packed w xs * 2 ^ w + x % 2 ^ w < packed w xs * 2 ^ w + 2 ^ w := Nat.add_lt_add_left hx _
      _ = (packed w xs + 1) * 2 ^ w := by rw [Nat.add_mul, Nat.one_mul]
      _ ≤ 2 ^ (w * xs.length) * 2 ^ w := Nat.mul_le_mul_right _ ih

theorem packed_elem (w j : Nat) (xs : List Nat) : packed w xs / 2 ^ (w * j) % 2 ^ w = (xs.getD j 0) % 2 ^ w := by
  induction xs generalizing j with
  | nil => simp [packed]
  | cons x xs ih =>
    show (packed w xs * 2 ^ w + x % 2 ^ w) / 2 ^ (w * j) % 2 ^ w = _
    cases j with
    | zero => simp [Nat.add_mod, Nat.mul_mod_left]
    | succ j =>
      have e : 2 ^ (w * (j + 1)) = 2 ^ w * 2 ^ (w * j) := by rw [← Nat.pow_add]; congr 1; rw [Nat.mul_add, Nat.mul_one, Nat.add_comm]
      rw [e, ← Nat.div_div_eq_div_mul]
      have h1 : (packed w xs * 2 ^ w + x % 2 ^ w) / 2 ^ w = packed w xs := by
        rw [Nat.mul_comm, Nat.mul_add_div (Nat.two_pow_pos w), Nat.div_eq_of_lt (Nat.mod_lt _ (Nat.two_pow_pos w)), Nat.add_zero]
      rw [h1, ih]
      simp

theorem toNat_word {n : Nat} (h : n < 2 ^ 64) : (word n).toNat = n := by
  simpa [word] using Nat.mod_eq_of_lt h

/-- Reading an element of packed elements. -/
theorem sub_packed {w : Nat} {xs : List Nat} (h : w * xs.length ≤ 64) (j : Nat) :
    sub (word (packed w xs)) w j = (xs.getD j 0) % 2 ^ w := by
  have hlt : packed w xs < 2 ^ 64 := Nat.lt_of_lt_of_le (packed_lt w xs) (Nat.pow_le_pow_right (by omega) h)
  unfold sub
  rw [toNat_word hlt, packed_elem]

theorem Ty.width_mul_count (t : Ty) : t.width * t.count = 64 := by cases t <;> rfl

theorem Ty.width_pos (t : Ty) : 0 < t.width := by cases t <;> decide

theorem Ty.count_pos (t : Ty) : 0 < t.count := by cases t <;> decide

theorem perSub_val (o : Ops) (f : Nat → Nat × FFlags) :
    (perSub o f).val = word (packed o.ty.width (((List.range (if o.lo then 1 else o.ty.count)).map f).map (·.1))) := by
  unfold perSub packed
  rw [List.foldr_map (f := fun x : Nat × FFlags => x.1)]

/-- An element of a lane's result. -/
theorem sub_perSub (o : Ops) (f : Nat → Nat × FFlags) {j : Nat} (hj : j < o.ty.count) :
    sub (perSub o f).val o.ty.width j = if o.lo = true ∧ j ≠ 0 then 0 else (f j).1 % 2 ^ o.ty.width := by
  rw [perSub_val, sub_packed]
  · have hg : ∀ n, ((List.map (fun x => x.1) (List.map f (List.range n))).getD j 0) = if j < n then (f j).1 else 0 := by
      intro n
      by_cases h : j < n
      · rw [List.getD_eq_getElem _ _ (by simpa using h)]; simp [h]
      · rw [List.getD_eq_default _ _ (by simpa using h)]; simp [h]
    rw [hg]
    cases o.lo
    · simp [hj]
    · by_cases h0 : j = 0
      · simp [h0]
      · have : ¬ j < 1 := by omega
        simp [h0, this]
  · have := Ty.width_mul_count o.ty
    have hp := Ty.count_pos o.ty
    simp only [List.length_map, List.length_range]
    split
    · have : o.ty.width ≤ o.ty.width * o.ty.count := Nat.le_mul_of_pos_right _ hp
      omega
    · omega

/-- An element of a destination after a result: under lo only element 0 is new (R32). -/
theorem sub_mergeLo (o : Ops) (old new : Word) {j : Nat} (hj : j < o.ty.count) :
    sub (mergeLo o old new) o.ty.width j = if o.lo = true ∧ j ≠ 0 then sub old o.ty.width j else sub new o.ty.width j := by
  unfold mergeLo
  cases hlo : o.lo
  · simp
  · by_cases hw : o.ty.width < 64
    · simp only [Bool.true_and, decide_eq_true hw, if_true, true_and]
      have hsum : old.toNat / 2 ^ o.ty.width * 2 ^ o.ty.width + new.toNat % 2 ^ o.ty.width < 2 ^ 64 := by
        have hm : new.toNat % 2 ^ o.ty.width < 2 ^ o.ty.width := Nat.mod_lt _ (Nat.two_pow_pos _)
        have h64 : old.toNat < 2 ^ 64 := old.isLt
        have hd : 2 ^ 64 = 2 ^ (64 - o.ty.width) * 2 ^ o.ty.width := by rw [← Nat.pow_add]; congr 1; omega
        have hq : old.toNat / 2 ^ o.ty.width < 2 ^ (64 - o.ty.width) := by
          rw [Nat.div_lt_iff_lt_mul (Nat.two_pow_pos _), ← hd]; exact h64
        rw [hd]
        calc _ < old.toNat / 2 ^ o.ty.width * 2 ^ o.ty.width + 2 ^ o.ty.width := Nat.add_lt_add_left hm _
          _ = (old.toNat / 2 ^ o.ty.width + 1) * 2 ^ o.ty.width := by rw [Nat.add_mul, Nat.one_mul]
          _ ≤ _ := Nat.mul_le_mul_right _ hq
      by_cases h0 : j = 0
      · subst h0
        simp only [sub, toNat_word hsum, ne_eq, not_true_eq_false, if_false, Nat.mul_zero, Nat.pow_zero, Nat.div_one]
        simp [Nat.add_mod, Nat.mul_mod_left]
      · simp only [ne_eq, h0, not_false_eq_true, if_true, sub, toNat_word hsum]
        obtain ⟨i, rfl⟩ : ∃ i, j = i + 1 := ⟨j - 1, by omega⟩
        have e : 2 ^ (o.ty.width * (i + 1)) = 2 ^ o.ty.width * 2 ^ (o.ty.width * i) := by
          rw [← Nat.pow_add]; congr 1; rw [Nat.mul_add, Nat.mul_one, Nat.add_comm]
        rw [e, ← Nat.div_div_eq_div_mul, ← Nat.div_div_eq_div_mul]
        congr 2
        rw [Nat.mul_comm, Nat.mul_add_div (Nat.two_pow_pos _), Nat.div_eq_of_lt (Nat.mod_lt _ (Nat.two_pow_pos _)), Nat.add_zero]
    · have hc : j = 0 := by
        have := Ty.width_mul_count o.ty
        have h64 : 64 ≤ o.ty.width := by omega
        have hle : 64 * o.ty.count ≤ o.ty.width * o.ty.count := Nat.mul_le_mul_right _ h64
        omega
      simp [hc, hw]

/-- An element of what a lane instruction writes from elements. -/
theorem sub_result (o : Ops) (old : Word) (f : Nat → Nat × FFlags) {j : Nat} (hj : j < o.ty.count) :
    sub (mergeLo o old (perSub o f).val) o.ty.width j
      = if o.lo = true ∧ j ≠ 0 then sub old o.ty.width j else (f j).1 % 2 ^ o.ty.width := by
  rw [sub_mergeLo o _ _ hj, sub_perSub o f hj]
  split <;> simp_all

/-- Elements that raise no flag raise none together. -/
theorem foldl_clear_flags (n : Nat) (f : Nat → Nat) :
    ((List.range n).map fun j => (f j, ({} : FFlags))).foldl (fun (acc : FFlags) x => acc.or x.2) {} = ({} : FFlags) := by
  generalize List.range n = l
  induction l with
  | nil => rfl
  | cons a l ih => exact ih

/-- An instruction that computes elements delivers them. -/
theorem State.elems_delivers {s : State} {op : Nat} {o : Ops} {L : Mask} {i : Instr} {lat : Nat} {f : Nat → Nat → Nat → Nat} (hi : s.Issuing)
    (hc : s.checks op o = .ok L) (he : exec i s = .next (s.laneStep op o lat (s.elems o f))) :
    ∃ val, s.Delivers (exec i s) o L val noReg noReg (fun _ => 0) (fun _ => false) ∧
      ∀ k j, L.getLsbD k = true → j < o.ty.count →
        sub (val k) o.ty.width j =
          if o.lo = true ∧ j ≠ 0 then sub (s.dstBefore o k) o.ty.width j
          else f (sub (s.opA o k) o.ty.width j) (sub (s.opB o k) o.ty.width j) (sub (s.opC o k) o.ty.width j) % 2 ^ o.ty.width := by
  refine ⟨fun k => mergeLo o (s.dstBefore o k) (s.elems o f k).val, ?_, fun k j _ hj => sub_result o (s.dstBefore o k) _ hj⟩
  rw [he]
  have h := State.laneStep_delivers hi hc lat (s.elems o f)
  have hf : (fun k => if L.getLsbD k then (s.elems o f k).flags.bits else 0) = fun _ => (0 : BitVec 5) := by
    funext k
    have : (s.elems o f k).flags = {} := foldl_clear_flags _ _
    rw [this]
    split <;> rfl
  have hdy : (fun k => L.getLsbD k && (s.elems o f k).dy) = fun _ => false := by
    funext k; exact Bool.and_false _
  rw [hf, hdy] at h
  exact h


theorem sub_lt (v : Word) (w j : Nat) : sub v w j < 2 ^ w := Nat.mod_lt _ (Nat.two_pow_pos w)


/-- The same, with the element function in other words. -/
theorem State.elementResult_of {s : State} {op : Nat} {o : Ops} {L : Mask} {i : Instr} {g : Nat → Nat → Nat → Nat} (lat : Nat) {f : Nat → Nat → Nat → Nat} (hi : s.Issuing)
    (hc : s.checks op o = .ok L) (he : exec i s = .next (s.laneStep op o lat (s.elems o f)))
    (hfg : ∀ a b c, a < 2 ^ o.ty.width → b < 2 ^ o.ty.width → c < 2 ^ o.ty.width → f a b c = g a b c) :
    s.ElementResult i o L g := by
  obtain ⟨val, h1, h2⟩ := State.elems_delivers hi hc he
  refine ⟨val, h1, fun k j hk hj => ?_⟩
  rw [h2 k j hk hj, hfg _ _ _ (sub_lt _ _ _) (sub_lt _ _ _) (sub_lt _ _ _)]


theorem perSub_flags (o : Ops) (f : Nat → Nat × FFlags) : (perSub o f).flags.bits = flagsOf (elemCount o) fun j => (f j).2 := by
  simp only [perSub, flagsOf, elemCount, List.foldl_map]

/-- A lane instruction that computes elements with flags delivers them. -/
theorem State.flaggedResult_of {s : State} {op : Nat} {o : Ops} {L : Mask} {i : Instr} (lat : Nat) {f : Nat → Nat → Nat × FFlags}
    {g : Nat → LaneOut} {dy : Nat → Bool} (hi : s.Issuing) (hc : s.checks op o = .ok L) (he : exec i s = .next (s.laneStep op o lat g))
    (hg : ∀ k, g k = { perSub o (f k) with dy := dy k }) : s.FlaggedResult i o L f dy := by
  obtain rfl : g = fun k => { perSub o (f k) with dy := dy k } := funext hg
  refine ⟨fun k => mergeLo o (s.dstBefore o k) (perSub o (f k)).val, ?_, fun k j _ hj => sub_result o _ _ hj⟩
  have h := State.laneStep_delivers hi hc lat (fun k => { perSub o (f k) with dy := dy k })
  rw [he]
  have hf : (fun k => if L.getLsbD k then ({ perSub o (f k) with dy := dy k } : LaneOut).flags.bits else 0)
      = fun k => if L.getLsbD k then flagsOf (elemCount o) fun j => (f k j).2 else 0 :=
    funext fun k => by rw [show ({ perSub o (f k) with dy := dy k } : LaneOut).flags = (perSub o (f k)).flags from rfl, perSub_flags]
  rw [hf] at h
  exact h

end Sys2Proof.Machine
end

