-- ==== Sys2Proof/Laws/PerInstr.lean ====
section
/-! SUPPORT. The family Encoding, one lemma for each constructor: the bytes that the encoder writes for a well-formed instruction decode to that
instruction and to no other, and the decoder uses all of them (R17 to R22, R36 to R43). -/

namespace Sys2Proof

/-! ### Fields -/

theorem bit_lt (b : Bool) : bit b < 2 := by cases b <;> decide
theorem bit_eq_one (b : Bool) : (bit b == 1) = b := by cases b <;> rfl
theorem Ty.code_lt (t : Ty) : t.code < 16 := by cases t <;> decide
theorem Ty.ofCode_code (t : Ty) : Ty.ofCode t.code = t := by cases t <;> rfl
theorem Rnd.code_lt (r : Rnd) : r.code < 4 := by cases r <;> decide
theorem Rnd.ofCode_code (r : Rnd) : Rnd.ofCode r.code = r := by cases r <;> rfl

/-- The number of the S64 format from its fields (R21). -/
def opsNumber (l gn gp st y code d a b c kd ka kb kc ty lo r sa ix om : Nat) : Nat :=
  l + (gn * 2 ^ 5 + gp * 2 ^ 2) + st * 2 ^ 6 + y * 2 ^ 10 + code * 2 ^ 11 + d * 2 ^ 20 + a * 2 ^ 27 + b * 2 ^ 34 + c * 2 ^ 41
  + kd * 2 ^ 48 + ka * 2 ^ 49 + kb * 2 ^ 50 + kc * 2 ^ 51 + ty * 2 ^ 52 + lo * 2 ^ 56 + r * 2 ^ 57 + sa * 2 ^ 59 + ix * 2 ^ 60 + om * 2 ^ 61

/-- Each field is read back from its bits. -/
theorem opsNumber_fields {l gn gp st y code d a b c kd ka kb kc ty lo r sa ix om : Nat}
    (hl : l < 4) (hgn : gn < 2) (hgp : gp < 8) (hst : st < 16) (hy : y < 2) (hcode : code < 512) (hd : d < 128) (ha : a < 128)
    (hb : b < 128) (hc : c < 128) (hkd : kd < 2) (hka : ka < 2) (hkb : kb < 2) (hkc : kc < 2) (hty : ty < 16) (hlo : lo < 2)
    (hr : r < 4) (hsa : sa < 2) (hix : ix < 2) (hom : om < 8) :
    let w := opsNumber l gn gp st y code d a b c kd ka kb kc ty lo r sa ix om
    w < 2 ^ 64 ∧ slice w 1 0 = l ∧ slice w 5 5 = gn ∧ slice w 4 2 = gp ∧ slice w 9 6 = st ∧ slice w 10 10 = y ∧ slice w 19 11 = code
    ∧ slice w 26 20 = d ∧ slice w 33 27 = a ∧ slice w 40 34 = b ∧ slice w 47 41 = c ∧ slice w 48 48 = kd ∧ slice w 49 49 = ka
    ∧ slice w 50 50 = kb ∧ slice w 51 51 = kc ∧ slice w 55 52 = ty ∧ slice w 56 56 = lo ∧ slice w 58 57 = r ∧ slice w 59 59 = sa
    ∧ slice w 60 60 = ix ∧ slice w 63 61 = om := by
  intro w
  simp only [w, slice, opsNumber]
  refine ⟨?_, ?_, ?_, ?_, ?_, ?_, ?_, ?_, ?_, ?_, ?_, ?_, ?_, ?_, ?_, ?_, ?_, ?_, ?_, ?_, ?_⟩ <;> omega

/-- The encoder's number is within 64 bits, holds its length bits and its opcode, and its fields are the instruction's. -/
theorem decodeOps_encodeOps (code : Nat) (o : Ops) (hc : code < 512) :
    encodeOps code o < 2 ^ 64 ∧ slice (encodeOps code o) 1 0 = (if o.lit.isSome then 2 else 1) ∧ slice (encodeOps code o) 19 11 = code ∧
    decodeOps (encodeOps code o) o.lit = o := by
  have e : encodeOps code o = opsNumber (if o.lit.isSome then 2 else 1) (bit o.guard.neg) o.guard.p.toNat o.stall.toNat (bit o.yld) code
      o.dst.toNat o.a.toNat o.b.toNat o.c.toNat (bit o.clsD) (bit o.clsA) (bit o.clsB) (bit o.clsC) o.ty.code (bit o.lo) o.rnd.code
      (bit o.sat) (bit o.ix) o.opmod.toNat := rfl
  have hl : (if o.lit.isSome then 2 else 1) < 4 := by split <;> decide
  obtain ⟨h0, h1, h2, h3, h4, h5, h6, h7, h8, h9, h10, h11, h12, h13, h14, h15, h16, h17, h18, h19, h20⟩ :=
    opsNumber_fields hl (bit_lt o.guard.neg) o.guard.p.isLt o.stall.isLt (bit_lt o.yld) hc o.dst.isLt o.a.isLt o.b.isLt o.c.isLt
      (bit_lt o.clsD) (bit_lt o.clsA) (bit_lt o.clsB) (bit_lt o.clsC) o.ty.code_lt (bit_lt o.lo) o.rnd.code_lt (bit_lt o.sat) (bit_lt o.ix)
      o.opmod.isLt
  rw [e]
  refine ⟨h0, h1, h6, ?_⟩
  simp only [decodeOps, decodeGuard, h2, h3, h4, h5, h7, h8, h9, h10, h11, h12, h13, h14, h15, h16, h17, h18, h19, h20, bit_eq_one,
    BitVec.ofNat_toNat, BitVec.setWidth_eq, Ty.ofCode_code, Rnd.ofCode_code]

/-- The number of the C32 format is within 32 bits, of length 4, holds its opcode, and its fields are the instruction's. -/
theorem decodeC32_encodeCompact (cop : Nat) (c : C32) (hc : cop < 128) :
    encodeCompact cop c < 2 ^ 32 ∧ encodeCompact cop c % 4 = 0 ∧ slice (encodeCompact cop c) 15 9 = cop ∧ decodeC32 (encodeCompact cop c) = c := by
  have hn := bit_lt c.guard.neg
  have hp := c.guard.p.isLt
  have hs := c.stall.isLt
  have hd := c.dst.isLt
  have hb := c.b.isLt
  have ht := c.ctype.isLt
  have f : slice (encodeCompact cop c) 31 30 = c.ctype.toNat ∧ slice (encodeCompact cop c) 29 23 = c.b.toNat ∧
      slice (encodeCompact cop c) 22 16 = c.dst.toNat ∧ slice (encodeCompact cop c) 8 6 = c.stall.toNat ∧
      slice (encodeCompact cop c) 5 5 = bit c.guard.neg ∧ slice (encodeCompact cop c) 4 2 = c.guard.p.toNat := by
    simp only [slice, encodeCompact, encodeGuard]
    refine ⟨?_, ?_, ?_, ?_, ?_, ?_⟩ <;> omega
  obtain ⟨f1, f2, f3, f4, f5, f6⟩ := f
  refine ⟨?_, ?_, ?_, ?_⟩
  · simp only [encodeCompact, encodeGuard]; omega
  · simp only [encodeCompact, encodeGuard]; omega
  · simp only [slice, encodeCompact, encodeGuard]; omega
  · simp only [decodeC32, decodeGuard, f1, f2, f3, f4, f5, f6, bit_eq_one, BitVec.ofNat_toNat, BitVec.setWidth_eq]

/-! ### Bytes -/

@[simp] theorem length_leBytes (n w : Nat) : (leBytes n w).length = n := by
  induction n generalizing w with
  | zero => rfl
  | succ n ih => simp [leBytes, ih]

theorem leNat_leBytes (n w : Nat) (h : w < 256 ^ n) : leNat (leBytes n w) = w := by
  induction n generalizing w with
  | zero => simp only [leBytes, leNat]; omega
  | succ n ih =>
    have : w / 256 < 256 ^ n := by rw [Nat.div_lt_iff_lt_mul (by decide)]; simpa [Nat.pow_succ] using h
    simp only [leBytes, leNat, ih _ this, BitVec.toNat_ofNat]
    omega

theorem leBytes_take (n k w : Nat) (h : k ≤ n) : (leBytes n w).take k = leBytes k w := by
  induction n generalizing w k with
  | zero => obtain rfl : k = 0 := by omega
            rfl
  | succ n ih =>
    cases k with
    | zero => rfl
    | succ k => simp [leBytes, ih k (w / 256) (by omega)]

theorem leNat_lt (bs : List Byte) : leNat bs < 256 ^ bs.length := by
  induction bs with
  | nil => decide
  | cons b bs ih =>
    have := b.isLt
    simp only [leNat, List.length_cons, Nat.pow_succ]
    omega

theorem leBytes_mod (n w : Nat) : leBytes n (w % 256 ^ n) = leBytes n w := by
  induction n generalizing w with
  | zero => rfl
  | succ n ih =>
    have h1 : w % 256 ^ (n + 1) / 256 = w / 256 % 256 ^ n := by rw [Nat.pow_succ, Nat.mul_comm, Nat.mod_mul_right_div_self]
    have h2 : BitVec.ofNat 8 (w % 256 ^ (n + 1)) = BitVec.ofNat 8 w := by
      apply BitVec.eq_of_toNat_eq
      simp only [BitVec.toNat_ofNat, Nat.pow_succ]
      exact Nat.mod_mul_left_mod _ _ _
    simp only [leBytes, h1, h2, ih]

theorem leNat_take4 (w : Nat) : leNat ((leBytes 8 w).take 4) = w % 2 ^ 32 := by
  rw [leBytes_take 8 4 w (by decide), ← leBytes_mod 4 w, leNat_leBytes 4 _ (Nat.mod_lt _ (by decide))]
  norm_num

/-! ### The two formats -/

/-- Decoding where the first parcel announces 4 bytes. -/
theorem decode_four {bs : List Byte} (h : bs.length = 4) (hl : leNat bs % 4 = 0) :
    decode bs = accept (ofCompact (slice (leNat bs) 15 9) (decodeC32 (leNat bs))) 4 := by
  have t : bs.take 4 = bs := List.take_of_length_le (le_of_eq h)
  have l : lengthOf (leNat bs) = some 4 := by rw [lengthOf, hl]; rfl
  unfold decode decodeAt
  rw [if_neg (by omega), t]
  simp only [l]
  rw [if_neg (by decide), if_neg (by omega), if_pos trivial]

/-- Decoding where it announces 8. -/
theorem decode_eight {bs : List Byte} (h : bs.length = 8) (hl : leNat (bs.take 4) % 4 = 1) :
    decode bs = accept (ofOpcode (slice (leNat bs) 19 11) (decodeOps (leNat bs) none)) 8 := by
  have t : bs.take 8 = bs := List.take_of_length_le (le_of_eq h)
  have l : lengthOf (leNat (bs.take 4)) = some 8 := by rw [lengthOf, hl]; rfl
  unfold decode decodeAt
  rw [if_neg (by omega)]
  simp only [l, t]
  rw [if_neg (by decide), if_neg (by omega), if_neg (by decide), if_neg (by decide)]

/-- Decoding where it announces 12. -/
theorem decode_twelve {bs cs : List Byte} (h : bs.length = 8) (hc : cs.length = 4) (hl : leNat (bs.take 4) % 4 = 2) :
    decode (bs ++ cs) = accept (ofOpcode (slice (leNat bs) 19 11) (decodeOps (leNat bs) (some (BitVec.ofNat 32 (leNat cs))))) 12 := by
  have t4 : (bs ++ cs).take 4 = bs.take 4 := List.take_append_of_le_length (by omega)
  have t8 : (bs ++ cs).take 8 = bs := by rw [List.take_append_of_le_length (by omega), List.take_of_length_le (le_of_eq h)]
  have d8 : ((bs ++ cs).drop 8).take 4 = cs := by
    rw [List.drop_append_of_le_length (by omega), List.drop_of_length_le (le_of_eq h), List.nil_append, List.take_of_length_le (le_of_eq hc)]
  have l : lengthOf (leNat (bs.take 4)) = some 12 := by rw [lengthOf, hl]; rfl
  have n : (bs ++ cs).length = 12 := by rw [List.length_append, h, hc]
  unfold decode decodeAt
  rw [n, t4, t8, d8, if_neg (by decide)]
  simp only [l]
  rw [if_neg (by decide), if_neg (by decide), if_neg (by decide), if_pos trivial]

/-- A well-formed instruction is accepted. -/
theorem accept_wf {i : Instr} (n : Nat) (h : i.wf = true) : accept (some i) n = .ok (i, n) := by
  rw [accept, h]
  rfl

/-- What the family says of an instruction: its bytes decode to it, and all of them are used. -/
def Laws.Encoding.Statement (i : Instr) : Prop := i.wf = true → i.parts ≠ .event → decode (encode i) = .ok (i, (encode i).length)

/-- An S64 or L96 instruction whose opcode decodes to it. -/
theorem decode_op {i : Instr} {code : Nat} {o : Ops} (hp : i.parts = .op code o) (hc : code < 512) (hi : i.wf = true → ofOpcode code o = some i) :
    Laws.Encoding.Statement i := by
  intro hw _
  obtain ⟨h0, h1, h2, h3⟩ := decodeOps_encodeOps code o hc
  generalize hn : encodeOps code o = w at h0 h1 h2 h3
  have h64 : leNat (leBytes 8 w) = w := leNat_leBytes 8 w (lt_of_lt_of_eq h0 (by norm_num))
  have h4 : leNat ((leBytes 8 w).take 4) % 4 = if o.lit.isSome then 2 else 1 := by
    rw [leNat_take4, ← h1, slice]; omega
  have e : encode i = leBytes 8 w ++ (match o.lit with | some l => leBytes 4 l.toNat | none => []) := by
    rw [encode, hp]; simp only [hn] <;> rfl
  cases hl : o.lit with
  | none =>
    rw [hl] at h3 h4 e
    simp only [List.append_nil] at e
    rw [e, decode_eight (length_leBytes 8 w) h4, h64, h2, h3, hi hw, accept_wf 8 hw, length_leBytes]
  | some l =>
    rw [hl] at h3 h4 e
    simp only at e
    have h5 : leNat (leBytes 4 l.toNat) = l.toNat := leNat_leBytes 4 _ (lt_of_lt_of_eq l.isLt (by norm_num))
    rw [e, decode_twelve (length_leBytes 8 w) (length_leBytes 4 _) h4, h64, h5, BitVec.ofNat_toNat, BitVec.setWidth_eq, h2, h3, hi hw,
      accept_wf 12 hw, List.length_append, length_leBytes, length_leBytes]

theorem ofOpcode_mov (o : Ops) (h : (Instr.mov o).wf = true) : ofOpcode 0x24 o = some (.mov o) := by
  have e : ofOpcode 0x24 o = some (if o.opmod.toNat = 0 then .mov o else .movIx o) := rfl
  have w : o.opmod.toNat = 0 := by
    simp only [Instr.wf, Instr.parts, Bool.and_eq_true, beq_iff_eq] at h
    exact h.2
  rw [e, if_pos w]

theorem ofOpcode_movIx (o : Ops) (h : (Instr.movIx o).wf = true) : ofOpcode 0x24 o = some (.movIx o) := by
  have e : ofOpcode 0x24 o = some (if o.opmod.toNat = 0 then .mov o else .movIx o) := rfl
  have w : o.opmod.toNat = 1 := by
    simp only [Instr.wf, Instr.parts, Bool.and_eq_true, beq_iff_eq] at h
    exact h.2
  rw [e, if_neg (by omega)]

/-- A C32 instruction whose opcode decodes to it. -/
theorem decode_compact {i : Instr} {cop : Nat} {c : C32} (hp : i.parts = .compact cop c) (hc : cop < 128) (hi : ofCompact cop c = some i) :
    Laws.Encoding.Statement i := by
  intro hw _
  obtain ⟨h0, h1, h2, h3⟩ := decodeC32_encodeCompact cop c hc
  generalize hn : encodeCompact cop c = w at h0 h1 h2 h3
  have h5 : leNat (leBytes 4 w) = w := leNat_leBytes 4 w (lt_of_lt_of_eq h0 (by norm_num))
  have e : encode i = leBytes 4 w := by rw [encode, hp]; simp only [hn]
  rw [e, decode_four (length_leBytes 4 w) (by rw [h5]; exact h1), h5, h2, h3, hi, accept_wf 4 hw, length_leBytes]

/-- A step that no instruction word encodes. -/
theorem decode_event {i : Instr} (hp : i.parts = .event) : Laws.Encoding.Statement i := fun _ h => absurd hp h

/-! ### One lemma for each constructor -/

namespace Laws.Encoding

theorem instructionFetch x0 x1 : Statement (.instructionFetch x0 x1) := decode_event rfl
theorem stallExpiry x0 x1 : Statement (.stallExpiry x0 x1) := decode_event rfl
theorem regrouping x0 : Statement (.regrouping x0) := decode_event rfl
theorem pauseExpiry x0 x1 : Statement (.pauseExpiry x0 x1) := decode_event rfl
theorem iadd (o : Ops) : Statement (.iadd o) := decode_op rfl (by decide) (fun _ => rfl)
theorem isub (o : Ops) : Statement (.isub o) := decode_op rfl (by decide) (fun _ => rfl)
theorem imul (o : Ops) : Statement (.imul o) := decode_op rfl (by decide) (fun _ => rfl)
theorem imulh (o : Ops) : Statement (.imulh o) := decode_op rfl (by decide) (fun _ => rfl)
theorem imad (o : Ops) : Statement (.imad o) := decode_op rfl (by decide) (fun _ => rfl)
theorem imadw (o : Ops) : Statement (.imadw o) := decode_op rfl (by decide) (fun _ => rfl)
theorem idiv (o : Ops) : Statement (.idiv o) := decode_op rfl (by decide) (fun _ => rfl)
theorem irem (o : Ops) : Statement (.irem o) := decode_op rfl (by decide) (fun _ => rfl)
theorem imin (o : Ops) : Statement (.imin o) := decode_op rfl (by decide) (fun _ => rfl)
theorem imax (o : Ops) : Statement (.imax o) := decode_op rfl (by decide) (fun _ => rfl)
theorem iabs (o : Ops) : Statement (.iabs o) := decode_op rfl (by decide) (fun _ => rfl)
theorem ineg (o : Ops) : Statement (.ineg o) := decode_op rfl (by decide) (fun _ => rfl)
theorem iclamp (o : Ops) : Statement (.iclamp o) := decode_op rfl (by decide) (fun _ => rfl)
theorem iadds (o : Ops) : Statement (.iadds o) := decode_op rfl (by decide) (fun _ => rfl)
theorem isubs (o : Ops) : Statement (.isubs o) := decode_op rfl (by decide) (fun _ => rfl)
theorem and (o : Ops) : Statement (.and o) := decode_op rfl (by decide) (fun _ => rfl)
theorem or (o : Ops) : Statement (.or o) := decode_op rfl (by decide) (fun _ => rfl)
theorem xor (o : Ops) : Statement (.xor o) := decode_op rfl (by decide) (fun _ => rfl)
theorem andn (o : Ops) : Statement (.andn o) := decode_op rfl (by decide) (fun _ => rfl)
theorem not (o : Ops) : Statement (.not o) := decode_op rfl (by decide) (fun _ => rfl)
theorem shl (o : Ops) : Statement (.shl o) := decode_op rfl (by decide) (fun _ => rfl)
theorem shr (o : Ops) : Statement (.shr o) := decode_op rfl (by decide) (fun _ => rfl)
theorem sar (o : Ops) : Statement (.sar o) := decode_op rfl (by decide) (fun _ => rfl)
theorem rol (o : Ops) : Statement (.rol o) := decode_op rfl (by decide) (fun _ => rfl)
theorem ror (o : Ops) : Statement (.ror o) := decode_op rfl (by decide) (fun _ => rfl)
theorem popc (o : Ops) : Statement (.popc o) := decode_op rfl (by decide) (fun _ => rfl)
theorem clz (o : Ops) : Statement (.clz o) := decode_op rfl (by decide) (fun _ => rfl)
theorem ctz (o : Ops) : Statement (.ctz o) := decode_op rfl (by decide) (fun _ => rfl)
theorem brev (o : Ops) : Statement (.brev o) := decode_op rfl (by decide) (fun _ => rfl)
theorem bswap (o : Ops) : Statement (.bswap o) := decode_op rfl (by decide) (fun _ => rfl)
theorem bfx (o : Ops) : Statement (.bfx o) := decode_op rfl (by decide) (fun _ => rfl)
theorem bfi (o : Ops) : Statement (.bfi o) := decode_op rfl (by decide) (fun _ => rfl)
theorem sext (o : Ops) : Statement (.sext o) := decode_op rfl (by decide) (fun _ => rfl)
theorem zext (o : Ops) : Statement (.zext o) := decode_op rfl (by decide) (fun _ => rfl)
theorem lea (o : Ops) : Statement (.lea o) := decode_op rfl (by decide) (fun _ => rfl)
theorem sel (o : Ops) : Statement (.sel o) := decode_op rfl (by decide) (fun _ => rfl)
theorem mov (o : Ops) : Statement (.mov o) := decode_op rfl (by decide) (ofOpcode_mov o)
theorem movIx (o : Ops) : Statement (.movIx o) := decode_op rfl (by decide) (ofOpcode_movIx o)
theorem movi (o : Ops) : Statement (.movi o) := decode_op rfl (by decide) (fun _ => rfl)
theorem movg (o : Ops) : Statement (.movg o) := decode_op rfl (by decide) (fun _ => rfl)
theorem movl (o : Ops) : Statement (.movl o) := decode_op rfl (by decide) (fun _ => rfl)
theorem spec (o : Ops) : Statement (.spec o) := decode_op rfl (by decide) (fun _ => rfl)
theorem fadd (o : Ops) : Statement (.fadd o) := decode_op rfl (by decide) (fun _ => rfl)
theorem fsub (o : Ops) : Statement (.fsub o) := decode_op rfl (by decide) (fun _ => rfl)
theorem fmul (o : Ops) : Statement (.fmul o) := decode_op rfl (by decide) (fun _ => rfl)
theorem ffma (o : Ops) : Statement (.ffma o) := decode_op rfl (by decide) (fun _ => rfl)
theorem ffms (o : Ops) : Statement (.ffms o) := decode_op rfl (by decide) (fun _ => rfl)
theorem fnma (o : Ops) : Statement (.fnma o) := decode_op rfl (by decide) (fun _ => rfl)
theorem fmin (o : Ops) : Statement (.fmin o) := decode_op rfl (by decide) (fun _ => rfl)
theorem fmax (o : Ops) : Statement (.fmax o) := decode_op rfl (by decide) (fun _ => rfl)
theorem fabs (o : Ops) : Statement (.fabs o) := decode_op rfl (by decide) (fun _ => rfl)
theorem fneg (o : Ops) : Statement (.fneg o) := decode_op rfl (by decide) (fun _ => rfl)
theorem fcpys (o : Ops) : Statement (.fcpys o) := decode_op rfl (by decide) (fun _ => rfl)
theorem fdiv (o : Ops) : Statement (.fdiv o) := decode_op rfl (by decide) (fun _ => rfl)
theorem fsqrt (o : Ops) : Statement (.fsqrt o) := decode_op rfl (by decide) (fun _ => rfl)
theorem frcp (o : Ops) : Statement (.frcp o) := decode_op rfl (by decide) (fun _ => rfl)
theorem frsq (o : Ops) : Statement (.frsq o) := decode_op rfl (by decide) (fun _ => rfl)
theorem fexp2 (o : Ops) : Statement (.fexp2 o) := decode_op rfl (by decide) (fun _ => rfl)
theorem flog2 (o : Ops) : Statement (.flog2 o) := decode_op rfl (by decide) (fun _ => rfl)
theorem fsin (o : Ops) : Statement (.fsin o) := decode_op rfl (by decide) (fun _ => rfl)
theorem fcos (o : Ops) : Statement (.fcos o) := decode_op rfl (by decide) (fun _ => rfl)
theorem ftanh (o : Ops) : Statement (.ftanh o) := decode_op rfl (by decide) (fun _ => rfl)
theorem frnd (o : Ops) : Statement (.frnd o) := decode_op rfl (by decide) (fun _ => rfl)
theorem fcvt (o : Ops) : Statement (.fcvt o) := decode_op rfl (by decide) (fun _ => rfl)
theorem ftoi (o : Ops) : Statement (.ftoi o) := decode_op rfl (by decide) (fun _ => rfl)
theorem itof (o : Ops) : Statement (.itof o) := decode_op rfl (by decide) (fun _ => rfl)
theorem fscale (o : Ops) : Statement (.fscale o) := decode_op rfl (by decide) (fun _ => rfl)
theorem fclass (o : Ops) : Statement (.fclass o) := decode_op rfl (by decide) (fun _ => rfl)
theorem fgetexp (o : Ops) : Statement (.fgetexp o) := decode_op rfl (by decide) (fun _ => rfl)
theorem vdot (o : Ops) : Statement (.vdot o) := decode_op rfl (by decide) (fun _ => rfl)
theorem vdota (o : Ops) : Statement (.vdota o) := decode_op rfl (by decide) (fun _ => rfl)
theorem vpack (o : Ops) : Statement (.vpack o) := decode_op rfl (by decide) (fun _ => rfl)
theorem vunpk (o : Ops) : Statement (.vunpk o) := decode_op rfl (by decide) (fun _ => rfl)
theorem vperm (o : Ops) : Statement (.vperm o) := decode_op rfl (by decide) (fun _ => rfl)
theorem vsad (o : Ops) : Statement (.vsad o) := decode_op rfl (by decide) (fun _ => rfl)
theorem vavg (o : Ops) : Statement (.vavg o) := decode_op rfl (by decide) (fun _ => rfl)
theorem vins (o : Ops) : Statement (.vins o) := decode_op rfl (by decide) (fun _ => rfl)
theorem vext (o : Ops) : Statement (.vext o) := decode_op rfl (by decide) (fun _ => rfl)
theorem xshfl (o : Ops) : Statement (.xshfl o) := decode_op rfl (by decide) (fun _ => rfl)
theorem xbcast (o : Ops) : Statement (.xbcast o) := decode_op rfl (by decide) (fun _ => rfl)
theorem xred (o : Ops) : Statement (.xred o) := decode_op rfl (by decide) (fun _ => rfl)
theorem xscan (o : Ops) : Statement (.xscan o) := decode_op rfl (by decide) (fun _ => rfl)
theorem xballot (o : Ops) : Statement (.xballot o) := decode_op rfl (by decide) (fun _ => rfl)
theorem xvote (o : Ops) : Statement (.xvote o) := decode_op rfl (by decide) (fun _ => rfl)
theorem xmatch (o : Ops) : Statement (.xmatch o) := decode_op rfl (by decide) (fun _ => rfl)
theorem icmp (o : Ops) : Statement (.icmp o) := decode_op rfl (by decide) (fun _ => rfl)
theorem fcmp (o : Ops) : Statement (.fcmp o) := decode_op rfl (by decide) (fun _ => rfl)
theorem pand (o : Ops) : Statement (.pand o) := decode_op rfl (by decide) (fun _ => rfl)
theorem por (o : Ops) : Statement (.por o) := decode_op rfl (by decide) (fun _ => rfl)
theorem pxor (o : Ops) : Statement (.pxor o) := decode_op rfl (by decide) (fun _ => rfl)
theorem pnot (o : Ops) : Statement (.pnot o) := decode_op rfl (by decide) (fun _ => rfl)
theorem pmov (o : Ops) : Statement (.pmov o) := decode_op rfl (by decide) (fun _ => rfl)
theorem bra (o : Ops) : Statement (.bra o) := decode_op rfl (by decide) (fun _ => rfl)
theorem brx (o : Ops) : Statement (.brx o) := decode_op rfl (by decide) (fun _ => rfl)
theorem call (o : Ops) : Statement (.call o) := decode_op rfl (by decide) (fun _ => rfl)
theorem calli (o : Ops) : Statement (.calli o) := decode_op rfl (by decide) (fun _ => rfl)
theorem ret (o : Ops) : Statement (.ret o) := decode_op rfl (by decide) (fun _ => rfl)
theorem exit (o : Ops) : Statement (.exit o) := decode_op rfl (by decide) (fun _ => rfl)
theorem meet (o : Ops) : Statement (.meet o) := decode_op rfl (by decide) (fun _ => rfl)
theorem join (o : Ops) : Statement (.join o) := decode_op rfl (by decide) (fun _ => rfl)
theorem leave (o : Ops) : Statement (.leave o) := decode_op rfl (by decide) (fun _ => rfl)
theorem wait (o : Ops) : Statement (.wait o) := decode_op rfl (by decide) (fun _ => rfl)
theorem mset (o : Ops) : Statement (.mset o) := decode_op rfl (by decide) (fun _ => rfl)
theorem mget (o : Ops) : Statement (.mget o) := decode_op rfl (by decide) (fun _ => rfl)
theorem mop (o : Ops) : Statement (.mop o) := decode_op rfl (by decide) (fun _ => rfl)
theorem widen (o : Ops) : Statement (.widen o) := decode_op rfl (by decide) (fun _ => rfl)
theorem narrow (o : Ops) : Statement (.narrow o) := decode_op rfl (by decide) (fun _ => rfl)
theorem yield (o : Ops) : Statement (.yield o) := decode_op rfl (by decide) (fun _ => rfl)
theorem pause (o : Ops) : Statement (.pause o) := decode_op rfl (by decide) (fun _ => rfl)
theorem nop (o : Ops) : Statement (.nop o) := decode_op rfl (by decide) (fun _ => rfl)
theorem bari (o : Ops) : Statement (.bari o) := decode_op rfl (by decide) (fun _ => rfl)
theorem bara (o : Ops) : Statement (.bara o) := decode_op rfl (by decide) (fun _ => rfl)
theorem barw (o : Ops) : Statement (.barw o) := decode_op rfl (by decide) (fun _ => rfl)
theorem barx (o : Ops) : Statement (.barx o) := decode_op rfl (by decide) (fun _ => rfl)
theorem bart (o : Ops) : Statement (.bart o) := decode_op rfl (by decide) (fun _ => rfl)
theorem gbar (o : Ops) : Statement (.gbar o) := decode_op rfl (by decide) (fun _ => rfl)
theorem gbarp (o : Ops) : Statement (.gbarp o) := decode_op rfl (by decide) (fun _ => rfl)
theorem fence (o : Ops) : Statement (.fence o) := decode_op rfl (by decide) (fun _ => rfl)
theorem gwait (o : Ops) : Statement (.gwait o) := decode_op rfl (by decide) (fun _ => rfl)
theorem ld (o : Ops) : Statement (.ld o) := decode_op rfl (by decide) (fun _ => rfl)
theorem st (o : Ops) : Statement (.st o) := decode_op rfl (by decide) (fun _ => rfl)
theorem lda (o : Ops) : Statement (.lda o) := decode_op rfl (by decide) (fun _ => rfl)
theorem stl (o : Ops) : Statement (.stl o) := decode_op rfl (by decide) (fun _ => rfl)
theorem lds (o : Ops) : Statement (.lds o) := decode_op rfl (by decide) (fun _ => rfl)
theorem sts (o : Ops) : Statement (.sts o) := decode_op rfl (by decide) (fun _ => rfl)
theorem ldsx (o : Ops) : Statement (.ldsx o) := decode_op rfl (by decide) (fun _ => rfl)
theorem stsf (o : Ops) : Statement (.stsf o) := decode_op rfl (by decide) (fun _ => rfl)
theorem ldw (o : Ops) : Statement (.ldw o) := decode_op rfl (by decide) (fun _ => rfl)
theorem ldc (o : Ops) : Statement (.ldc o) := decode_op rfl (by decide) (fun _ => rfl)
theorem pref (o : Ops) : Statement (.pref o) := decode_op rfl (by decide) (fun _ => rfl)
theorem cinv (o : Ops) : Statement (.cinv o) := decode_op rfl (by decide) (fun _ => rfl)
theorem cflush (o : Ops) : Statement (.cflush o) := decode_op rfl (by decide) (fun _ => rfl)
theorem icinv (o : Ops) : Statement (.icinv o) := decode_op rfl (by decide) (fun _ => rfl)
theorem ldref (o : Ops) : Statement (.ldref o) := decode_op rfl (by decide) (fun _ => rfl)
theorem stref (o : Ops) : Statement (.stref o) := decode_op rfl (by decide) (fun _ => rfl)
theorem ldh (o : Ops) : Statement (.ldh o) := decode_op rfl (by decide) (fun _ => rfl)
theorem sth (o : Ops) : Statement (.sth o) := decode_op rfl (by decide) (fun _ => rfl)
theorem pin (o : Ops) : Statement (.pin o) := decode_op rfl (by decide) (fun _ => rfl)
theorem unpin (o : Ops) : Statement (.unpin o) := decode_op rfl (by decide) (fun _ => rfl)
theorem refaddr (o : Ops) : Statement (.refaddr o) := decode_op rfl (by decide) (fun _ => rfl)
theorem refcmp (o : Ops) : Statement (.refcmp o) := decode_op rfl (by decide) (fun _ => rfl)
theorem aadd (o : Ops) : Statement (.aadd o) := decode_op rfl (by decide) (fun _ => rfl)
theorem aand (o : Ops) : Statement (.aand o) := decode_op rfl (by decide) (fun _ => rfl)
theorem aor (o : Ops) : Statement (.aor o) := decode_op rfl (by decide) (fun _ => rfl)
theorem axor (o : Ops) : Statement (.axor o) := decode_op rfl (by decide) (fun _ => rfl)
theorem amin (o : Ops) : Statement (.amin o) := decode_op rfl (by decide) (fun _ => rfl)
theorem amax (o : Ops) : Statement (.amax o) := decode_op rfl (by decide) (fun _ => rfl)
theorem axchg (o : Ops) : Statement (.axchg o) := decode_op rfl (by decide) (fun _ => rfl)
theorem acas (o : Ops) : Statement (.acas o) := decode_op rfl (by decide) (fun _ => rfl)
theorem redadd (o : Ops) : Statement (.redadd o) := decode_op rfl (by decide) (fun _ => rfl)
theorem redmin (o : Ops) : Statement (.redmin o) := decode_op rfl (by decide) (fun _ => rfl)
theorem redmax (o : Ops) : Statement (.redmax o) := decode_op rfl (by decide) (fun _ => rfl)
theorem redseq (o : Ops) : Statement (.redseq o) := decode_op rfl (by decide) (fun _ => rfl)
theorem gred (o : Ops) : Statement (.gred o) := decode_op rfl (by decide) (fun _ => rfl)
theorem gredw (o : Ops) : Statement (.gredw o) := decode_op rfl (by decide) (fun _ => rfl)
theorem atomicApply x0 : Statement (.atomicApply x0) := decode_event rfl
theorem atomicReply x0 : Statement (.atomicReply x0) := decode_event rfl
theorem redseqApply x0 : Statement (.redseqApply x0) := decode_event rfl
theorem gredChunkDone x0 : Statement (.gredChunkDone x0) := decode_event rfl
theorem groupMemberFailure x0 x1 x2 : Statement (.groupMemberFailure x0 x1 x2) := decode_event rfl
theorem cpy (o : Ops) : Statement (.cpy o) := decode_op rfl (by decide) (fun _ => rfl)
theorem cpy2d (o : Ops) : Statement (.cpy2d o) := decode_op rfl (by decide) (fun _ => rfl)
theorem cpym (o : Ops) : Statement (.cpym o) := decode_op rfl (by decide) (fun _ => rfl)
theorem cpyx (o : Ops) : Statement (.cpyx o) := decode_op rfl (by decide) (fun _ => rfl)
theorem cpyw (o : Ops) : Statement (.cpyw o) := decode_op rfl (by decide) (fun _ => rfl)
theorem cpymChunkPosted x0 x1 : Statement (.cpymChunkPosted x0 x1) := decode_event rfl
theorem copyCompletion x0 : Statement (.copyCompletion x0) := decode_event rfl
theorem cbinit (o : Ops) : Statement (.cbinit o) := decode_op rfl (by decide) (fun _ => rfl)
theorem cbpush (o : Ops) : Statement (.cbpush o) := decode_op rfl (by decide) (fun _ => rfl)
theorem cbpop (o : Ops) : Statement (.cbpop o) := decode_op rfl (by decide) (fun _ => rfl)
theorem cbdone (o : Ops) : Statement (.cbdone o) := decode_op rfl (by decide) (fun _ => rfl)
theorem cbstat (o : Ops) : Statement (.cbstat o) := decode_op rfl (by decide) (fun _ => rfl)
theorem qpush (o : Ops) : Statement (.qpush o) := decode_op rfl (by decide) (fun _ => rfl)
theorem qpop (o : Ops) : Statement (.qpop o) := decode_op rfl (by decide) (fun _ => rfl)
theorem qstat (o : Ops) : Statement (.qstat o) := decode_op rfl (by decide) (fun _ => rfl)
theorem overflowRefill x0 x1 : Statement (.overflowRefill x0 x1) := decode_event rfl
theorem mzero (o : Ops) : Statement (.mzero o) := decode_op rfl (by decide) (fun _ => rfl)
theorem mldb (o : Ops) : Statement (.mldb o) := decode_op rfl (by decide) (fun _ => rfl)
theorem mma (o : Ops) : Statement (.mma o) := decode_op rfl (by decide) (fun _ => rfl)
theorem mmap (o : Ops) : Statement (.mmap o) := decode_op rfl (by decide) (fun _ => rfl)
theorem mminplus (o : Ops) : Statement (.mminplus o) := decode_op rfl (by decide) (fun _ => rfl)
theorem mmaxtimes (o : Ops) : Statement (.mmaxtimes o) := decode_op rfl (by decide) (fun _ => rfl)
theorem morand (o : Ops) : Statement (.morand o) := decode_op rfl (by decide) (fun _ => rfl)
theorem scacc (o : Ops) : Statement (.scacc o) := decode_op rfl (by decide) (fun _ => rfl)
theorem maccld (o : Ops) : Statement (.maccld o) := decode_op rfl (by decide) (fun _ => rfl)
theorem maccst (o : Ops) : Statement (.maccst o) := decode_op rfl (by decide) (fun _ => rfl)
theorem mpsst (o : Ops) : Statement (.mpsst o) := decode_op rfl (by decide) (fun _ => rfl)
theorem mready (o : Ops) : Statement (.mready o) := decode_op rfl (by decide) (fun _ => rfl)
theorem mwait (o : Ops) : Statement (.mwait o) := decode_op rfl (by decide) (fun _ => rfl)
theorem melect (o : Ops) : Statement (.melect o) := decode_op rfl (by decide) (fun _ => rfl)
theorem matrixRetire x0 : Statement (.matrixRetire x0) := decode_event rfl
theorem trap (o : Ops) : Statement (.trap o) := decode_op rfl (by decide) (fun _ => rfl)
theorem bkpt (o : Ops) : Statement (.bkpt o) := decode_op rfl (by decide) (fun _ => rfl)
theorem eret (o : Ops) : Statement (.eret o) := decode_op rfl (by decide) (fun _ => rfl)
theorem csrr (o : Ops) : Statement (.csrr o) := decode_op rfl (by decide) (fun _ => rfl)
theorem csrw (o : Ops) : Statement (.csrw o) := decode_op rfl (by decide) (fun _ => rfl)
theorem csrx (o : Ops) : Statement (.csrx o) := decode_op rfl (by decide) (fun _ => rfl)
theorem safe (o : Ops) : Statement (.safe o) := decode_op rfl (by decide) (fun _ => rfl)
theorem launch (o : Ops) : Statement (.launch o) := decode_op rfl (by decide) (fun _ => rfl)
theorem lwait (o : Ops) : Statement (.lwait o) := decode_op rfl (by decide) (fun _ => rfl)
theorem tlbinv (o : Ops) : Statement (.tlbinv o) := decode_op rfl (by decide) (fun _ => rfl)
theorem snap (o : Ops) : Statement (.snap o) := decode_op rfl (by decide) (fun _ => rfl)
theorem enrd (o : Ops) : Statement (.enrd o) := decode_op rfl (by decide) (fun _ => rfl)
theorem wclear (o : Ops) : Statement (.wclear o) := decode_op rfl (by decide) (fun _ => rfl)
theorem halt (o : Ops) : Statement (.halt o) := decode_op rfl (by decide) (fun _ => rfl)
theorem iaddC32 (c : C32) : Statement (.iaddC32 c) := decode_compact rfl (by decide) rfl
theorem isubC32 (c : C32) : Statement (.isubC32 c) := decode_compact rfl (by decide) rfl
theorem andC32 (c : C32) : Statement (.andC32 c) := decode_compact rfl (by decide) rfl
theorem orC32 (c : C32) : Statement (.orC32 c) := decode_compact rfl (by decide) rfl
theorem xorC32 (c : C32) : Statement (.xorC32 c) := decode_compact rfl (by decide) rfl
theorem shlC32 (c : C32) : Statement (.shlC32 c) := decode_compact rfl (by decide) rfl
theorem shrC32 (c : C32) : Statement (.shrC32 c) := decode_compact rfl (by decide) rfl
theorem sarC32 (c : C32) : Statement (.sarC32 c) := decode_compact rfl (by decide) rfl
theorem movC32 (c : C32) : Statement (.movC32 c) := decode_compact rfl (by decide) rfl
theorem moviC32 (c : C32) : Statement (.moviC32 c) := decode_compact rfl (by decide) rfl
theorem faddC32 (c : C32) : Statement (.faddC32 c) := decode_compact rfl (by decide) rfl
theorem fmulC32 (c : C32) : Statement (.fmulC32 c) := decode_compact rfl (by decide) rfl
theorem fminC32 (c : C32) : Statement (.fminC32 c) := decode_compact rfl (by decide) rfl
theorem fmaxC32 (c : C32) : Statement (.fmaxC32 c) := decode_compact rfl (by decide) rfl
theorem braC32 (c : C32) : Statement (.braC32 c) := decode_compact rfl (by decide) rfl
theorem nopC32 (c : C32) : Statement (.nopC32 c) := decode_compact rfl (by decide) rfl
theorem yieldC32 (c : C32) : Statement (.yieldC32 c) := decode_compact rfl (by decide) rfl
theorem pauseC32 (c : C32) : Statement (.pauseC32 c) := decode_compact rfl (by decide) rfl
theorem waitC32 (c : C32) : Statement (.waitC32 c) := decode_compact rfl (by decide) rfl
theorem joinC32 (c : C32) : Statement (.joinC32 c) := decode_compact rfl (by decide) rfl
theorem leaveC32 (c : C32) : Statement (.leaveC32 c) := decode_compact rfl (by decide) rfl
theorem exitC32 (c : C32) : Statement (.exitC32 c) := decode_compact rfl (by decide) rfl
theorem retC32 (c : C32) : Statement (.retC32 c) := decode_compact rfl (by decide) rfl
theorem globalLoadReply x0 x1 : Statement (.globalLoadReply x0 x1) := decode_event rfl
theorem homeStorePerform x0 : Statement (.homeStorePerform x0) := decode_event rfl
theorem leaseExpiry x0 : Statement (.leaseExpiry x0) := decode_event rfl
theorem hostRead x0 x1 : Statement (.hostRead x0 x1) := decode_event rfl
theorem hostWritePermission x0 x1 x2 : Statement (.hostWritePermission x0 x1 x2) := decode_event rfl
theorem hostEviction x0 x1 : Statement (.hostEviction x0 x1) := decode_event rfl
theorem hostAmo x0 x1 x2 x3 x4 : Statement (.hostAmo x0 x1 x2 x3 x4) := decode_event rfl
theorem backInvalidateSnoop x0 x1 : Statement (.backInvalidateSnoop x0 x1) := decode_event rfl
theorem faultService x0 : Statement (.faultService x0) := decode_event rfl
theorem transitRetry x0 : Statement (.transitRetry x0) := decode_event rfl
theorem fqAnswer x0 : Statement (.fqAnswer x0) := decode_event rfl
theorem fqSizeWrite x0 x1 : Statement (.fqSizeWrite x0 x1) := decode_event rfl
theorem machineCheck x0 x1 x2 x3 x4 : Statement (.machineCheck x0 x1 x2 x3 x4) := decode_event rfl
theorem linkLoss x0 x1 : Statement (.linkLoss x0 x1) := decode_event rfl
theorem preemptRequest x0 x1 : Statement (.preemptRequest x0 x1) := decode_event rfl
theorem preemptWatchdog x0 : Statement (.preemptWatchdog x0) := decode_event rfl
theorem saveComplete x0 : Statement (.saveComplete x0) := decode_event rfl
theorem ctxSequencerSave x0 : Statement (.ctxSequencerSave x0) := decode_event rfl
theorem restoreStart x0 x1 : Statement (.restoreStart x0 x1) := decode_event rfl
theorem blockAdmission x0 x1 : Statement (.blockAdmission x0 x1) := decode_event rfl
theorem gangEnd x0 : Statement (.gangEnd x0) := decode_event rfl
theorem launchCompletion x0 : Statement (.launchCompletion x0) := decode_event rfl
theorem energyWindowReset x0 : Statement (.energyWindowReset x0) := decode_event rfl
theorem energyPlannerTick x0 x1 x2 : Statement (.energyPlannerTick x0 x1 x2) := decode_event rfl
theorem weightRefreshStart x0 : Statement (.weightRefreshStart x0) := decode_event rfl
theorem weightRefreshEnd x0 : Statement (.weightRefreshEnd x0) := decode_event rfl
theorem heapcolWrite x0 x1 : Statement (.heapcolWrite x0 x1) := decode_event rfl
theorem compactionLineCopy x0 : Statement (.compactionLineCopy x0) := decode_event rfl
theorem compactionComplete x0 : Statement (.compactionComplete x0) := decode_event rfl
theorem migrationRequest x0 x1 x2 x3 : Statement (.migrationRequest x0 x1 x2 x3) := decode_event rfl
theorem migrationLineCopy x0 x1 : Statement (.migrationLineCopy x0 x1) := decode_event rfl
theorem migrationComplete x0 : Statement (.migrationComplete x0) := decode_event rfl
theorem migrationHoldExpiry x0 : Statement (.migrationHoldExpiry x0) := decode_event rfl
theorem codeCompaction x0 : Statement (.codeCompaction x0) := decode_event rfl
theorem crossingArrival x0 x1 : Statement (.crossingArrival x0 x1) := decode_event rfl
theorem hostJalrCrossing x0 x1 x2 x3 x4 x5 : Statement (.hostJalrCrossing x0 x1 x2 x3 x4 x5) := decode_event rfl
theorem regCmd x0 x1 x2 : Statement (.regCmd x0 x1 x2) := decode_event rfl
theorem hostLaunch x0 x1 : Statement (.hostLaunch x0 x1) := decode_event rfl
theorem measureExtend x0 : Statement (.measureExtend x0) := decode_event rfl
theorem oplogFree x0 x1 : Statement (.oplogFree x0 x1) := decode_event rfl
theorem leasectlWrite x0 : Statement (.leasectlWrite x0) := decode_event rfl
theorem funcmodeWrite x0 x1 : Statement (.funcmodeWrite x0 x1) := decode_event rfl
theorem controlRegisterWrite x0 x1 : Statement (.controlRegisterWrite x0 x1) := decode_event rfl
theorem snapshotTrigger x0 : Statement (.snapshotTrigger x0) := decode_event rfl
theorem instructionSample x0 : Statement (.instructionSample x0) := decode_event rfl
theorem sampleRecordWrite x0 : Statement (.sampleRecordWrite x0) := decode_event rfl
theorem singleStep x0 x1 : Statement (.singleStep x0 x1) := decode_event rfl
theorem clearingDone x0 : Statement (.clearingDone x0) := decode_event rfl
theorem getTdispVersion x0 x1 : Statement (.getTdispVersion x0 x1) := decode_event rfl
theorem getTdispCapabilities x0 x1 : Statement (.getTdispCapabilities x0 x1) := decode_event rfl
theorem lockInterfaceRequest x0 x1 x2 x3 : Statement (.lockInterfaceRequest x0 x1 x2 x3) := decode_event rfl
theorem getDeviceInterfaceReport x0 x1 x2 x3 : Statement (.getDeviceInterfaceReport x0 x1 x2 x3) := decode_event rfl
theorem getDeviceInterfaceState x0 x1 : Statement (.getDeviceInterfaceState x0 x1) := decode_event rfl
theorem startInterfaceRequest x0 x1 x2 : Statement (.startInterfaceRequest x0 x1 x2) := decode_event rfl
theorem stopInterfaceRequest x0 x1 : Statement (.stopInterfaceRequest x0 x1) := decode_event rfl
theorem unsupportedTdispRequest x0 x1 x2 : Statement (.unsupportedTdispRequest x0 x1 x2) := decode_event rfl
theorem tdispAnswer x0 : Statement (.tdispAnswer x0) := decode_event rfl
theorem tdispEventPost x0 : Statement (.tdispEventPost x0) := decode_event rfl
theorem tdiLock x0 x1 : Statement (.tdiLock x0 x1) := decode_event rfl
theorem tdiStart x0 x1 : Statement (.tdiStart x0 x1) := decode_event rfl
theorem tdiStop x0 x1 : Statement (.tdiStop x0 x1) := decode_event rfl
theorem frozenItemWrite x0 x1 x2 x3 x4 : Statement (.frozenItemWrite x0 x1 x2 x3 x4) := decode_event rfl
theorem getVersion x0 x1 : Statement (.getVersion x0 x1) := decode_event rfl
theorem getCapabilities x0 x1 : Statement (.getCapabilities x0 x1) := decode_event rfl
theorem negotiateAlgorithms x0 x1 : Statement (.negotiateAlgorithms x0 x1) := decode_event rfl
theorem getDigests x0 x1 : Statement (.getDigests x0 x1) := decode_event rfl
theorem getCertificate x0 x1 : Statement (.getCertificate x0 x1) := decode_event rfl
theorem challenge x0 x1 : Statement (.challenge x0 x1) := decode_event rfl
theorem getMeasurements x0 x1 : Statement (.getMeasurements x0 x1) := decode_event rfl
theorem keyExchange x0 x1 : Statement (.keyExchange x0 x1) := decode_event rfl
theorem finish x0 x1 : Statement (.finish x0 x1) := decode_event rfl
theorem heartbeat x0 x1 : Statement (.heartbeat x0 x1) := decode_event rfl
theorem keyUpdate x0 x1 : Statement (.keyUpdate x0 x1) := decode_event rfl
theorem endSession x0 x1 : Statement (.endSession x0 x1) := decode_event rfl
theorem vendorDefinedRequest x0 x1 : Statement (.vendorDefinedRequest x0 x1) := decode_event rfl
theorem worldExport x0 x1 : Statement (.worldExport x0 x1) := decode_event rfl
theorem handoverConfirm x0 x1 : Statement (.handoverConfirm x0 x1) := decode_event rfl
theorem handoverTimeout x0 : Statement (.handoverTimeout x0) := decode_event rfl
theorem handoverRetry x0 x1 : Statement (.handoverRetry x0 x1) := decode_event rfl
theorem counterRead x0 x1 : Statement (.counterRead x0 x1) := decode_event rfl
theorem allowListChange x0 x1 : Statement (.allowListChange x0 x1) := decode_event rfl
theorem l2wmapWrite x0 x1 x2 : Statement (.l2wmapWrite x0 x1 x2) := decode_event rfl
theorem resetRelease : Statement (.resetRelease) := decode_event rfl
theorem bootStep x0 : Statement (.bootStep x0) := decode_event rfl
theorem synchronisationMarginReached x0 x1 : Statement (.synchronisationMarginReached x0 x1) := decode_event rfl
theorem reductionAcknowledgement x0 : Statement (.reductionAcknowledgement x0) := decode_event rfl
theorem unsupportedSpdmRequest x0 x1 : Statement (.unsupportedSpdmRequest x0 x1) := decode_event rfl
theorem debuggerStop x0 x1 : Statement (.debuggerStop x0 x1) := decode_event rfl
theorem debuggerResume x0 x1 : Statement (.debuggerResume x0 x1) := decode_event rfl
theorem debuggerStateWrite x0 x1 x2 x3 : Statement (.debuggerStateWrite x0 x1 x2 x3) := decode_event rfl
theorem handoverRecordArrival x0 : Statement (.handoverRecordArrival x0) := decode_event rfl
theorem peerDeviceContribution x0 x1 x2 x3 x4 : Statement (.peerDeviceContribution x0 x1 x2 x3 x4) := decode_event rfl

end Laws.Encoding

end Sys2Proof
end

