-- ==== Sys2Proof/Tests/Slice0.lean ====
section
/-! SUPPORT. Tests of single steps, and for every statement that has hypotheses a state and operands that meet them. -/

namespace Sys2Proof.Tests
open Sys2Proof.Machine
set_option maxRecDepth 100000
set_option Elab.async false

/-! ### States and fields that the tests share -/

/-- A bundle of some lanes of the one gang of withFetchWord, lanes that have their threads, about to issue an instruction of 8 bytes. -/
def bundle (L : Mask) : State :=
  let s := State.reset.withFetchWord 64 0
  let t : Thread := { Thread.start (word progVa) 1 0 0 .runnable with bundle := some 0 }
  ({ s with gangs := s.gangs.map fun (g : Gang) => { g with
      threads := (List.range 32).map fun k => if L.getLsbD k then { t with tid := k } else Thread.absent } }).begin
    { gang := 0, lanes := L, pc := word progVa, len := 8, raw := 0 }
/-- A lane alone. -/
def demo : State := bundle 1
/-- Lanes 0 and 1. -/
def pair : State := bundle 3

/-- A state with a d register of lane k set; with lane k changed; with the gang changed. -/
def setD (s : State) (k n v : Nat) : State := s.onThread 0 k fun t => t.setD n (word v)
def setG (s : State) (f : Gang → Gang) : State := { s with gangs := s.gangs.map f }

/-- d4 from d2 and d3. -/
def three : Ops := { plainOps with dst := 4, a := 2, b := 3 }
def typed (t : Ty) : Ops := { three with ty := t }
/-- The fields of a compact instruction. -/
def small (t : BitVec 2) (d b : BitVec 7) : C32 := { ctype := t, b := b, dst := d, stall := 0, guard := ⟨false, 7⟩ }

/-- The state after an instruction. -/
def next (i : Instr) (s : State) : State :=
  match exec i s with
  | .next t => t
  | _ => s
/-- What it leaves in a d register of lane k. -/
def dOf (i : Instr) (s : State) (k n : Nat) : Word := ((next i s).cl k).getD n

/-- A gang in canonical form, computed. -/
def whole (g : Gang) : Bool :=
  g.threads.length == 32 && SMap.wf 0 g.g && SMap.wf 0 g.m && SMap.wf 0 g.arrive
    && g.threads.all fun t => SMap.wf 0 t.d && SMap.wf 0 t.h && SMap.wf [] t.windows
theorem canonical_of {g : Gang} (h : whole g = true) : g.Canonical := by
  simp only [whole, Bool.and_eq_true, beq_iff_eq, List.all_eq_true] at h
  exact ⟨h.1.1.1.1, h.1.1.1.2, h.1.1.2, h.1.2, fun t ht => ⟨(h.2 t ht).1.1, (h.2 t ht).1.2, (h.2 t ht).2⟩⟩
/-- An issue of a resident gang in canonical form, computed. -/
def issuing (s : State) : Bool := s.resident s.cur.gang && whole s.cg
theorem issuing_of {s : State} (h : issuing s = true) : s.Issuing := by
  unfold issuing at h
  rw [Bool.and_eq_true] at h
  exact ⟨h.1, canonical_of h.2⟩
/-- A bundle whose threads run and are one bundle, computed. -/
def running (s : State) : Bool :=
  (List.range 32).all fun k => !s.cur.lanes.getLsbD k || decide ((s.cl k).cond = .runnable ∧ (s.cl k).wait = .no ∧
    (s.cl k).bundle = some ((s.cl (lowest s.cur.lanes)).bundle.getD 0))
theorem running_of {s : State} (h : running s = true) : s.Running := by
  refine ⟨(s.cl (lowest s.cur.lanes)).bundle.getD 0, fun k hk => ?_⟩
  have hk' : k < 32 := by
    by_contra hc
    rw [BitVec.getLsbD_of_ge _ _ (by omega)] at hk
    cases hk
  have := (List.all_eq_true.mp h) k (List.mem_range.mpr hk')
  simpa [hk] using this

/-! ### Decoding: words that the manual writes out (its worked encodings, from R21, R36, R38, R41) -/

theorem test_decode_arithmetic :
    decodeTableWord 64 0x02940E243052182D =
      some (.ffma { plainOps with guard := ⟨true, 3⟩, dst := 5, a := 6, b := 9, c := 7, clsB := true, ty := .f32, rnd := .rtz }) := by
  decide +kernel
theorem test_decode_compact :
    decodeTableWord 32 0x0487001C = some (.iaddC32 (small 0 7 9)) ∧ decodeTableWord 32 0x3FFD1C1C = some (.braC32 (small 0 0x7D 0x7F)) ∧
    decodeTableWord 32 0x00001E1C = some (.nopC32 (small 0 0 0)) := by
  decide +kernel
theorem test_decode_barriers :
    decodeTableWord 96 0x00000000000000000007281E = some (.gbar { plainOps with lit := some 0 }) ∧
    decodeTableWord 64 0x0004001800371805 = some (.barx { plainOps with guard := ⟨false, 1⟩, dst := 3, b := 6, clsB := true }) := by
  decide +kernel
theorem test_decode_memory :
    decodeTableWord 96 0x0000000820F002002068101E =
      some (.lda { plainOps with dst := 6, a := 4, c := 1, ty := .b64, opmod := 1, lit := some 8 }) ∧
    decodeTableWord 64 0x00F200005868081D = some (.st { plainOps with dst := 6, a := 11, clsA := true, ty := .b64 }) := by
  decide +kernel
theorem test_decode_atomics :
    decodeTableWord 64 0x20F20010505A381D =
      some (.acas { plainOps with dst := 5, a := 10, b := 4, clsA := true, ty := .b64, opmod := 1 }) ∧
    decodeTableWord 64 0x00822628600A581D =
      some (.redseq { plainOps with a := 12, b := 10, c := 19, clsA := true, ty := .f64 }) := by
  decide +kernel
theorem test_decode_queues_and_copies :
    decodeTableWord 64 0x0000001C300B301D = some (.cbpush { plainOps with a := 6, b := 7 }) ∧
    decodeTableWord 96 0x00000800003F1030029B101E =
      some (.cpym { plainOps with
        dst := 41, b := 12, c := 8, clsD := true, clsA := true, clsB := true, clsC := true, ty := .i64, lit := some 0x800 }) := by
  decide +kernel
theorem test_decode_matrix :
    decodeTableWord 64 0x00C7D84CF95C1805 =
      some (.mmap { plainOps with
        guard := ⟨false, 1⟩, dst := 21, a := 31, b := 19, c := 0x6C, clsD := true, clsA := true, clsB := true, ty := .k8 }) := by
  decide +kernel
theorem test_decode_system :
    decodeTableWord 96 0x0000000200000200002E301E = some (.safe { plainOps with dst := 2, c := 1, lit := some 2 }) ∧
    decodeTableWord 64 0x10F0000040C1201D = some (.mov { plainOps with dst := 12, a := 8, ty := .b64, ix := true }) := by
  decide +kernel
/-- R42: an unassigned opcode, R22: a field that must be zero, and the forms that R136, R186, R187 and R188 make illegal. -/
theorem test_decode_refuses :
    decodeTableWord 64 (0xCC * 2 ^ 11 + 7 * 2 ^ 61 + 0x1D) = none ∧ decodeTableWord 64 (0xAD * 2 ^ 11 + 3 * 2 ^ 61 + 0x1D) = none ∧
    decodeTableWord 64 (0xCC * 2 ^ 11 + 4 * 2 ^ 61 + 2 ^ 34 + 0x1D) = none ∧ decodeTableWord 64 (0xAD * 2 ^ 11 + 2 * 2 ^ 61 + 2 ^ 20 + 0x1D) = none ∧
    decodeTableWord 64 (0xA5 * 2 ^ 11 + 3 * 2 ^ 61 + 0x1D) = none ∧ decodeTableWord 64 (0xA7 * 2 ^ 11 + 3 * 2 ^ 52 + 6 * 2 ^ 41 + 0x1D) = none ∧
    decodeTableWord 64 (0x029 * 2 ^ 11 + 0x1D) = none ∧ decodeTableWord 64 (0xD1 * 2 ^ 11 + 2 ^ 20 + 0x1D) = none ∧
    decodeTableWord 32 0x3 = none := by
  decide +kernel

/-! ### Well-formedness: an ill-formed term for each check, which the check refuses -/

theorem test_wf_accepts : (Instr.iadd (typed .i16)).wf = true ∧ (Instr.iaddC32 (small 1 7 9)).wf = true := by decide +kernel
/-- R22: an unused field, a class bit, a predicate, a pair, a mask, a window, an h register, a tile, a barrier, a small number. -/
theorem test_wf_kinds :
    (Instr.ineg (typed .i16)).wf = false ∧ (Instr.ld { plainOps with b := 3, clsB := true }).wf = false ∧
    (Instr.cpy { plainOps with dst := 4, a := 2, b := 3, c := 3 }).wf = false ∧
    (Instr.pand { plainOps with dst := 8 }).wf = false ∧ (Instr.icmp { plainOps with dst := 64 }).wf = false ∧
    (Instr.join { plainOps with dst := 12 }).wf = false ∧ (Instr.ldref { plainOps with dst := 16, a := 2, ty := .b64 }).wf = false ∧
    (Instr.mzero { plainOps with dst := 8 }).wf = false ∧ (Instr.barx { plainOps with dst := 32 }).wf = false ∧
    (Instr.spec { plainOps with dst := 4, a := 12 }).wf = false := by
  decide +kernel
/-- R30, R31, R35, R36: the type, op_mod, ix, sat, rnd, lo, an S64 form and a literal that the entry does not allow. -/
theorem test_wf_modifiers :
    (Instr.iadd (typed .f32)).wf = false ∧ (Instr.iadd { typed .i16 with opmod := 1 }).wf = false ∧
    (Instr.spec { plainOps with dst := 4, ix := true }).wf = false ∧ (Instr.idiv { typed .i16 with sat := true }).wf = false ∧
    (Instr.iadd { typed .i16 with rnd := .rup }).wf = false ∧ (Instr.vsad { typed .i8 with lo := true }).wf = false ∧
    (Instr.bra plainOps).wf = false ∧ (Instr.ineg { plainOps with dst := 4, a := 2, lit := some 1 }).wf = false ∧
    (Instr.iadd { typed .i16 with lit := some 1 }).wf = false := by
  decide +kernel
/-- R85, R142, R173, R345, R350: the checks that no single column states. -/
theorem test_wf_extra :
    (Instr.fcvt { plainOps with dst := 4, a := 2, ty := .f32, c := 0x58 }).wf = true ∧
    (Instr.fcvt { plainOps with dst := 4, a := 2, ty := .f32, c := 0x10 }).wf = false ∧
    (Instr.mma { plainOps with dst := 21, a := 31, b := 19, c := 0x25, clsD := true, ty := .i8 }).wf = false ∧
    (Instr.pause { plainOps with lit := some 65536 }).wf = false ∧ (Instr.trap { plainOps with lit := some 65536 }).wf = false ∧
    (Instr.safe { plainOps with lit := some 0x01000000 }).wf = false ∧ (Instr.movIx { plainOps with a := 5 }).wf = false := by
  decide +kernel
/-- R1, R40: compact fields, and steps of units that the package does not have. -/
theorem test_wf_compact_and_steps :
    (Instr.iaddC32 (small 2 7 9)).wf = false ∧ (Instr.nopC32 (small 0 1 0)).wf = false ∧ (Instr.waitC32 (small 0 12 0)).wf = false ∧
    (Instr.stallExpiry 0 32).wf = false ∧ (Instr.regrouping 1536).wf = false ∧ (Instr.regrouping 1535).wf = true := by
  decide +kernel

/-! ### Lane arithmetic -/

/-- Fragment 1 of the manual: IADD.I16, wrapping and saturating; FFMA.F32 with a g register. -/
def fragment1 : State :=
  setG (setD (setD (setD (setD (setD demo 0 2 0x7FFF0001FFFF0010) 0 3 0x0001000200010005) 0 8 0xAAAABBBBCCCCDDDD) 0 6 0xC040000040000000)
    0 7 0x3F8000003F800000) fun g => g.setG 9 0x3F0000003F000000
theorem test_iadd :
    dOf (.iadd (typed .i16)) fragment1 0 4 = 0x8000000300000015 ∧
    dOf (.iadd { typed .i16 with dst := 8, lo := true }) fragment1 0 8 = 0xAAAABBBBCCCC0015 ∧
    dOf (.iadd { typed .i16 with dst := 9, sat := true }) fragment1 0 9 = 0x7FFF000300000015 := by
  decide +kernel
theorem test_ffma :
    dOf (.ffma { plainOps with dst := 5, a := 6, b := 9, c := 7, clsB := true, ty := .f32 }) fragment1 0 5 = 0xBF00000040000000 := by
  decide +kernel
/-- R162: IDIV and IREM by zero. -/
theorem test_idiv :
    dOf (.idiv (typed .i64)) (setD demo 0 2 7) 0 4 = 0xFFFFFFFFFFFFFFFF ∧ dOf (.irem (typed .i64)) (setD demo 0 2 7) 0 4 = 7 := by
  decide +kernel
/-- Fragment 2, lanes 0 to 2, lines 4 and 5: the compares, and how the zeroing one clears p3 and p4 in lane 2, where its guard is false. -/
def fragment2 : State :=
  let r := fun s k a b c => setD (setD (setD s k 10 a) k 11 b) k 12 c
  (setG (r (r (r (bundle 7) 0 1 2 5) 1 1 2 7) 2 3 2 5) fun g => g.setG 5 5).onThread 0 2 fun t => { t with p := 0b0011000 }
def line4 : Instr := .icmp { plainOps with dst := 0x11, a := 10, b := 11, c := 2, ty := .i64 }
def line5 : Instr := .icmp { plainOps with guard := ⟨false, 1⟩, dst := 0x23, a := 12, b := 5, clsB := true, ty := .i64, opmod := 2 }
/-- The same with p1 and p2 as line 4 leaves them. -/
def compared : State :=
  ((fragment2.onThread 0 0 fun t => { t with p := 0b10 }).onThread 0 1 fun t => { t with p := 0b10 }).onThread 0 2 fun t => { t with p := 0b0011100 }
theorem test_icmp :
    ((next line4 fragment2).cl 0).p = 0b0000010 ∧ ((next line4 fragment2).cl 2).p = 0b0011100 ∧
    ((next line5 compared).cl 0).p = 0b0001010 ∧ ((next line5 compared).cl 1).p = 0b0010010 ∧ ((next line5 compared).cl 2).p = 0b0000100 := by
  decide +kernel
/-- Fragment 5: the tree of XRED over five lanes. -/
def fragment5 : State :=
  setD (setD (setD (setD (setD (bundle 31) 0 40 0x3FF0000000000000) 1 40 0x4340000000000000) 2 40 0x3FF0000000000000) 3 40 0xC340000000000000)
    4 40 0x3FF0000000000000
theorem test_xred : dOf (.xred { plainOps with dst := 41, a := 40, ty := .f64 }) fragment5 4 41 = 0x4000000000000000 := by decide +kernel
/-- R184: the worked example of XSHFL. -/
def shuffled : State :=
  setD (setD (setD (setD pair 0 3 0x0004000300020001) 1 3 0x0008000700060005) 0 4 0x0000004000010061) 1 4 0x0000002000400060
theorem test_xshfl :
    dOf (.xshfl { plainOps with dst := 5, a := 3, b := 4, ty := .i16 }) shuffled 0 5 = 0x0001000300050008 ∧
    dOf (.xshfl { plainOps with dst := 5, a := 3, b := 4, ty := .i16 }) shuffled 1 5 = 0x0001000200030004 := by
  decide +kernel
/-- R176: a dot product of four pairs of bytes and the word of srcC. -/
theorem test_vdota :
    dOf (.vdota { plainOps with dst := 4, a := 2, b := 3, c := 5, ty := .i8 })
      (setD (setD (setD demo 0 2 0x00000000FF020304) 0 3 0x0000000002030405) 0 5 10) 0 4 = 46 := by
  decide +kernel
/-- Fragment 6: CALLI takes each lane to its own function, and d1 holds the address after it. -/
def calling : State := setD (setD pair 0 50 (progVa + 0x1000)) 1 50 (progVa + 0x1040)
theorem test_calli :
    ((next (.calli { plainOps with a := 50 }) calling).cl 1).pc = word (progVa + 0x1040) ∧
    dOf (.calli { plainOps with a := 50 }) calling 0 1 = word (progVa + 8) := by
  decide +kernel

/-! ### Witnesses: states and operands that meet the hypotheses of the statements, every clause -/

/-- A bundle's gang at the limits of what the statements ask: it is resident, canonical, and its threads run. -/
theorem witness_issue : demo.Issuing ∧ demo.Running ∧ pair.Issuing ∧ pair.Running :=
  ⟨issuing_of (by decide +kernel), running_of (by decide +kernel), issuing_of (by decide +kernel), running_of (by decide +kernel)⟩

/-- IntegerElementResults, MovesAndWideSums, FloatElementResults, ConversionResults, CrossLaneResults, ComparesAndPredicates: the checks pass, of
each opcode of their lists, with a d and with a g destination, and of the compact forms. -/
theorem witness_lane_checks :
    (∀ op ∈ [0x00, 0x01, 0x02, 0x03, 0x04, 0x06, 0x07, 0x08, 0x09, 0x0A, 0x0B, 0x0C, 0x0F, 0x10, 0x11, 0x12, 0x13, 0x14, 0x15, 0x16, 0x17, 0x18,
        0x19, 0x1A, 0x1B, 0x1C, 0x1D, 0x1E, 0x1F, 0x20, 0x21, 0x86, 0x22, 0x23, 0x24, 0x25, 0xCB, 0x28, 0x0D, 0x0E, 0x05, 0x40, 0x41, 0x42, 0x43, 0x44,
        0x45, 0x46, 0x47, 0x48, 0x49, 0x4A, 0x4B, 0x4C, 0x4D, 0x4E, 0x4F, 0x50, 0x51, 0x52, 0x53, 0x54, 0x59, 0x5A, 0x55, 0x56, 0x57, 0x58, 0x80, 0x81,
        0x82, 0x83, 0x84, 0x85, 0x87, 0x88, 0xA0, 0xA1, 0xA2, 0xA3, 0xA4, 0xA5, 0xA6, 0xA7, 0xA8, 0xA9, 0xAA, 0xAB, 0xAC, 0xAD],
      pair.checks op three = .ok 3 ∧ pair.checks op { three with clsD := true } = .ok 3) ∧
    (∀ op ∈ [0x00, 0x01, 0x0F, 0x10, 0x11, 0x14, 0x15, 0x16, 0x40, 0x42, 0x46, 0x47], pair.checks op (compactArith (small 1 4 3)) = .ok 3) ∧
    pair.checks 0x24 (compactOps (small 0 4 3) .b64 4 3 0 none) = .ok 3 ∧
    pair.checks 0x25 (compactOps (small 0 4 3) (compactTy (small 0 4 3)) 4 0 0 (some (compactLit 7 3))) = .ok 3 := by
  decide +kernel

/-- A destination that lanes agree on, and one that they do not (State.Delivers): lane 1 differs. -/
theorem witness_deliveries : (∀ k < 2, pair.opA three k = pair.opA three (lowest 3)) ∧
    (setD pair 1 2 5).opA three 1 ≠ (setD pair 1 2 5).opA three (lowest 3) := by
  decide +kernel

/-- IntegerDeliveryAndDivision and BitOperationsMoveBits: a type of the list with each case of division, and with bits at the ends of a word. -/
theorem witness_division :
    Ty.isInt .i8 = true ∧ (0x80 : Nat) < 2 ^ Ty.width .i8 ∧ valueOf .i8 0x80 = -2 ^ 7 ∧ valueOf .i8 0xFF = -1 ∧ quotient .i8 0x80 0xFF = 0x80 ∧
    quotient .i8 0x80 0 = 0xFF ∧ quotient .i8 0x80 2 = 0xC0 ∧ shl 8 1 8 = 0 ∧ sar 8 0x80 255 = 0xFF := by
  decide +kernel

/-- MovesAndWideSums: SPEC's selectors, MOVG at the last g register, MOVL's sources, and the types of IMADW, IADDS and ISUBS. -/
theorem witness_moves :
    pair.checks 0x28 { three with a := 11 } = .ok 3 ∧ pair.checks 0x26 { three with a := 127, ty := .b64 } = .ok 3 ∧
    (∀ k < 2, (127 : Nat) + (pair.opB three k).toNat ≤ 127) ∧ pair.cg.uninitChk = false ∧ pair.cg.gFailed = [] ∧
    pair.checks 0x27 { three with opmod := 2, ty := .b64 } = .ok 3 ∧ pair.crossChecks { three with opmod := 2, ty := .b64 } 3 (fun _ => [1]) = none ∧
    (Instr.imadw (typed .i32)).wf = true ∧ (Instr.iadds { typed .n64 with c := 1 }).wf = true ∧
    (Instr.isubs { typed .n64 with c := 7 }).wf = true := by
  decide +kernel

/-- ConversionResults, ExactStepsAndTables: a NaN, infinities, zero, a normal and a subnormal number, a power of two, an integer, a half and a
fraction, and an integer type. -/
theorem witness_values :
    Fmt.f32.decode 0x7F800001 = .nan true ∧ Fmt.f32.decode 0xFF800000 = .inf true ∧ (Fmt.f32.decode 0x40400000).finite = true ∧
    Ty.isInt .i8 = true ∧ (Fmt.f32.decode 0x80000000).exact = 0 ∧ (Fmt.f32.decode 1).exact ≠ 0 ∧ (Fmt.f32.decode 0x40000000).exact = (2 : ℚ) ^ (1 : ℤ) ∧
    (Fmt.f32.decode 0x40400000).exact = ((3 : ℤ) : ℚ) ∧ (Fmt.f32.decode 0xBF000000).exact = ((-1 : ℤ) : ℚ) + 1 / 2 ∧
    (Fmt.f32.decode 0x3E800000).exact = 1 / 4 ∧ (Fmt.f32.decode 0xBF000000).exact < 0 := by
  refine ⟨by decide +kernel, by decide +kernel, by decide +kernel, rfl, ?_, ?_, ?_, ?_, ?_, ?_, ?_⟩ <;>
    norm_num [Fmt.decode, FV.exact, Fmt.f32, Fmt.width, Fmt.qmin, Fmt.bias]

/-- StepsRoundOnce: a number below the smallest normal magnitude after FRCP, and one that is not. -/
theorem witness_rounding :
    (Fmt.f32 ∈ [Fmt.f64, Fmt.f32, Fmt.f16, Fmt.bf16, Fmt.kay8]) ∧ Fmt.f32.k8 = false ∧ Fmt.kay8.k8 = true ∧
    Fmt.f32.normal ≤ |1 / (FV.fin false 3 0).exact| ∧ |1 / (FV.fin false 1 127).exact| < Fmt.f32.normal := by
  refine ⟨by simp, rfl, rfl, ?_, ?_⟩ <;> norm_num [Fmt.normal, Fmt.decode, FV.exact, Fmt.f32, Fmt.width, Fmt.qmin, Fmt.bias]

/-- PackedResults and CrossLaneResults: well-formed forms with integer and floating-point types, and shuffles that read lanes that take part. -/
theorem witness_packed_and_cross :
    (Instr.vdot (typed .i8)).wf = true ∧ Ty.isInt .i8 = true ∧ (Instr.vdota (typed .k8)).wf = true ∧ Ty.isInt .k8 = false ∧
    (Instr.vpack (typed .i16)).wf = true ∧ (Instr.vunpk { plainOps with dst := 4, a := 2, ty := .i16, opmod := 1 }).wf = true ∧
    (Instr.vperm { typed .b64 with c := 5 }).wf = true ∧ (Instr.vins { typed .i16 with b := 3 }).wf = true ∧
    (Instr.vsad (typed .i8)).wf = true ∧ (Instr.vext { typed .f32 with b := 1 }).wf = true ∧
    shuffled.crossChecks { plainOps with dst := 5, a := 3, b := 4, ty := .i16 } 3
      (fun k => (List.range 4).map fun j => sub (shuffled.opB { plainOps with dst := 5, a := 3, b := 4, ty := .i16 } k) 16 j % 32) = none ∧
    (Instr.xbcast (typed .i16)).wf = true ∧ pair.crossChecks three 3 (fun _ => [0]) = none ∧ (Instr.xballot { plainOps with dst := 4, a := 7 }).wf = true ∧
    (Instr.xmatch { plainOps with dst := 4, a := 2, ty := .b64 }).wf = true := by
  decide +kernel

/-- ComparesAndPredicates: every predicate that the compares tabulate is named by a well-formed term, and PMOV's three forms. -/
theorem witness_compares :
    (∀ c : Fin 6, (Instr.icmp { typed .i64 with c := BitVec.ofNat 7 c }).wf = true) ∧
    (∀ c : Fin 8, (Instr.fcmp { typed .f64 with c := BitVec.ofNat 7 c, opmod := 7 }).wf = true) ∧
    (∀ m : Fin 3, (Instr.xvote { plainOps with dst := 10, a := 1, opmod := BitVec.ofNat 3 m }).wf = true) ∧
    (Instr.pand { plainOps with dst := 1, a := 2, b := 3, opmod := 3 }).wf = true ∧ (Instr.pnot { plainOps with dst := 1, a := 2 }).wf = true ∧
    (Instr.pmov { plainOps with dst := 1, a := 2 }).wf = true ∧ (Instr.pmov { plainOps with dst := 4, opmod := 1 }).wf = true ∧
    (Instr.pmov { plainOps with a := 2, opmod := 2 }).wf = true := by
  decide +kernel

/-- BranchesAndTransfers: lanes that land on aligned addresses of a Flidan page, and a lane with a misaligned target. -/
theorem witness_transfers :
    issuing calling = true ∧ running calling = true ∧ (∀ op ∈ [0xC1, 0xC3, 0xC4], calling.checks op { plainOps with a := 50 } = .ok 3) ∧
    (∀ k < 2, (calling.opA { plainOps with a := 50 } k).toNat % 4 = 0) ∧
    ((calling.landings (calling.opA { plainOps with a := 50 }) (lanes 3)).2.all fun e => e.2 == .stay) = true ∧
    (∀ op ∈ [0xC0, 0xC2], calling.checks op { plainOps with lit := some 4 } = .ok 3) ∧
    calling.checks 0xC4 (compactOps (small 0 0 0) .i8 0 1 0 none) = .ok 3 ∧
    those 3 (fun k => ((setD calling 1 50 2).opA { plainOps with a := 50 } k).toNat % 4 != 0) = 2 := by
  decide +kernel

/-- Lane 0 issues; lane 1 is held at mask register 1, whose round lacks lane 0 alone. -/
def held : State :=
  setG ({ (pair.onThread 0 1 fun t => { t with cond := .held 1, bundle := none, waitLen := 4 }) with cur := demo.cur }) fun g =>
    (g.setM 1 3).setA 1 2
/-- ExitEndsThreads: a gang without groups, widening or request; the end of lane 0 completes the round of mask register 1. -/
theorem witness_exit :
    issuing held = true ∧ running held = true ∧ held.checks 0xC5 plainOps = .ok 1 ∧
    held.checks 0xC5 (compactOps (small 0 0 0) .i8 0 0 0 none) = .ok 1 ∧ held.groupsOf held.cg = [] ∧ held.cg.widened = none ∧
    held.cg.request = none ∧ held.cg.getA 1 &&& ~~~1 = 2 ∧ held.cg.getM 1 &&& ~~~1 = 2 ∧ (held.cl 1).cond = .held 1 ∧ (held.cl 1).wait = .no := by
  decide +kernel
/-- R132, R109: and the held lane then goes on. -/
theorem test_exit_completes_a_round :
    ((next (.exit plainOps) held).cl 0).cond = .exited ∧ ((next (.exit plainOps) held).cl 1).cond = .runnable ∧
    ((next (.exit plainOps) held).cl 1).pc = word (progVa + 4) := by
  decide +kernel

/-- MaskWrites and WaitsMeetsAndHints: the checks of their instructions, operands on which lanes agree and differ, and a mask with arrivals. -/
theorem witness_masks :
    (∀ op ∈ [0xC6, 0xC7, 0xC8, 0xC9, 0xCA, 0xCC, 0xCF, 0xD0, 0xD1], pair.checks op { plainOps with dst := 11, b := 2 } = .ok 3) ∧
    (∀ op ∈ [0xC7, 0xC8, 0xC9, 0xCF, 0xD0, 0xD1], pair.checks op (compactOps (small 0 11 0) .i8 11 0 0 none) = .ok 3) ∧
    (∀ k < 2, pair.opBNat { plainOps with b := 2 } k = pair.opBNat { plainOps with b := 2 } (lowest 3)) ∧
    (∀ k < 32, (pair.cl k).cond ≠ .stopped .safePoint) ∧
    -- WAIT mK, dN: the lanes differ; they agree on a mask that arrivals contradict; they agree and no lane has arrived
    those 3 (fun k => ((setD pair 1 2 5).opA three k).setWidth 32 != ((setD pair 1 2 5).opA three (lowest 3)).setWidth 32) = 2 ∧
    held.cg.getA 1 ≠ 0 ∧ ((held.opA three (lowest 1)).setWidth 32 : Mask) ≠ held.cg.getM 1 ∧ pair.cg.getA 1 = 0 := by
  decide +kernel
/-- R109, R111: lane 0 arrives last, so it and the held lane go on. -/
theorem test_wait_completes :
    ((next (.wait { plainOps with dst := 1 }) (held.onThread 0 0 fun t => { t with meet := word progVa })).cl 1).cond = .runnable ∧
    (next (.wait { plainOps with dst := 1 }) (held.onThread 0 0 fun t => { t with meet := word progVa })).cg.getA 1 = 0 := by
  decide +kernel

/-- The one thread of a gang that came by a crossing, with a count and a stride. -/
def guest : State := setG (setD (setD demo 0 2 4) 0 3 256) fun g => { g with byCrossing := true }
/-- A widened gang whose lane 0 issues: lane 1 has exited, or not. -/
def widened (c : Cond) : State :=
  setG ({ (pair.onThread 0 1 fun t => { t with cond := c, bundle := none }) with cur := demo.cur }) fun g => { g with widened := some 2 }
/-- WidenAndNarrow: a count of 0 and of 33, a stride not divisible by 16, a gang that may not widen, one that may; NARROW alone and not. -/
theorem witness_widen :
    issuing guest = true ∧ running guest = true ∧ guest.checks 0xCD { three with dst := 1 } = .ok 1 ∧
    those 1 (fun k => decide ((demo.opA three k).toNat = 0 ∨ 32 < (demo.opA three k).toNat)) = 1 ∧
    (32 : Nat) < ((setD demo 0 2 33).opA three 0).toNat ∧ ((setD guest 0 3 8).opBNat three 0).toNat % 16 ≠ 0 ∧
    those 1 (fun k => decide ((guest.opA three k).toNat = 0 ∨ 32 < (guest.opA three k).toNat)) = 0 ∧
    those 1 (fun k => (guest.opBNat three k).toNat % 16 != 0) = 0 ∧ guest.cg.byCrossing = true ∧ guest.cg.widened = none ∧
    (∀ k < 32, 0 < k → (guest.cl k).cond = .exited) ∧ guest.cur.lanes = 1 ∧ (setD demo 0 2 4).cg.byCrossing = false ∧
    issuing (widened .exited) = true ∧ (widened .exited).checks 0xCE plainOps = .ok 1 ∧ (widened .exited).cg.widened ≠ none ∧
    (widened .exited).cg.request = none ∧ (widened .exited).groupsOf (widened .exited).cg = [] ∧
    (∀ K < 12, (widened .exited).cg.getA K = 0) ∧ issuing (widened .runnable) = true ∧ demo.checks 0xCE plainOps = .ok 1 := by
  decide +kernel
/-- R138: the d2 of lane 1 of the manual's example, a stride below that of lane 0. -/
theorem test_widen : dOf (.widen { plainOps with dst := 1, a := 5, lit := some 256 }) (setD (setD guest 0 5 4) 0 2 0x00007FFFFFFFE000) 1 2
    = 0x00007FFFFFFFDF00 := by
  decide +kernel

/-- The gang's block with a scratch allocation of 4 KiB on its core, all of it written with zeros where a test writes nothing else. -/
def alloc : Alloc :=
  { launch := 1, block := 0, core := 0, size := 4096, world := 0, banks := [(0, 16)], clean := [], bytes := [], seed := 0, valid := []
    poison := [], full := [], bars := [], threads := 2 }
def scratchy : State := { pair with allocs := [alloc] }
/-- The same with barrier 3 marked by a failed copy. -/
def marked : State := { pair with allocs := [alloc.setBar 3 { alloc.bar 3 with failed := some (.poison, 8) }] }
/-- CoreBarriers: an allocation in canonical form, not marked; BARI's bounds 1 and 2048; lanes that agree; a marked barrier. -/
theorem witness_core_barriers :
    issuing scratchy = true ∧ running scratchy = true ∧ scratchy.cg.byCrossing = false ∧ scratchy.ownAlloc = some alloc ∧
    (SMap.wf none alloc.bytes && SMap.wf false alloc.valid && SMap.wf false alloc.poison && SMap.wf false alloc.full
      && SMap.wf (Bar.start alloc.threads) alloc.bars) = true ∧
    (∀ op ∈ [0xE0, 0xE1, 0xE2, 0xE3, 0xE4], scratchy.checks op { plainOps with dst := 3, a := 3, lit := some 1 } = .ok 3) ∧
    (scratchy.opBNat { plainOps with lit := some 1 } (lowest 3)).toNat = 1 ∧ (scratchy.opBNat { plainOps with lit := some 2048 } 1).toNat = 2048 ∧
    (alloc.bar 3).failed = none ∧ (marked.ownAlloc.map fun a => (a.bar 3).failed) = some (some (.poison, 8)) ∧
    (∀ op ∈ [0xE1, 0xE2, 0xE4], marked.checks op { plainOps with dst := 3, a := 3, lit := some 1 } = .ok 3) := by
  decide +kernel
/-- R145, R148, R149: both threads arrive in one BARA, so the round is complete and its generation has counted on. -/
theorem test_bara_completes :
    (((next (.bara { plainOps with dst := 4, a := 3 }) scratchy).ownAlloc.getD alloc).bar 3).gen = 1 ∧
    (((next (.bara { plainOps with dst := 4, a := 3 }) scratchy).ownAlloc.getD alloc).bar 3).arrivals = 0 ∧
    dOf (.bara { plainOps with dst := 4, a := 3 }) scratchy 0 4 = 0 := by
  decide +kernel

/-- A group of one member on this device. -/
def group5 : Group := { number := 5, remote := false, members := [0], peers := [], badGred := none, badGredw := none }
/-- The launch has group 5, of which this gang is the one member. -/
def grouped : State :=
  { pair with launches := pair.launches.map fun l => { l with groups := [group5] } }
/-- GroupBarriers: a member's gang, releases that are complete; a group that is no member's; a round with no arrival, and a complete one. -/
theorem witness_group_barriers :
    issuing grouped = true ∧ running grouped = true ∧ (∀ op ∈ [0xE5, 0xE6, 0xE8], grouped.checks op { plainOps with lit := some 5 } = .ok 3) ∧
    (grouped.opBNat { plainOps with lit := some 5 } (lowest 3)).toNat = 5 ∧ grouped.isMember grouped.cg 5 = true ∧
    grouped.isMember grouped.cg 6 = false ∧ (∀ k < 2, grouped.groupHold { plainOps with lit := some 5 } k = false) ∧
    grouped.busyAsync grouped.cur.gang = false ∧
    grouped.groupOf 1 5 = some group5 ∧ (grouped.roundOf 1 5).arrived = [] ∧
    ((grouped.roundWith 5 3 true).arrived = [(0, 0), (0, 1)]) ∧
    (grouped.gangNamed 1 0).isSome = true ∧ (∀ k < 32, 2 ≤ k → (grouped.cg.lane k).cond = .exited) ∧
    ((grouped.gangs.map Gang.key) = [0]) ∧ phaseSet grouped.cg 5 (grouped.roundWith 5 3 true) = none := by
  decide +kernel
/-- R153: both threads arrive, and go on past GBAR. -/
theorem test_gbar_completes :
    ((next (.gbar { plainOps with lit := some 5 }) grouped).cl 0).pc = word (progVa + 8) ∧
    ((next (.gbar { plainOps with lit := some 5 }) grouped).roundOf 1 5).round = 1 := by
  decide +kernel

/-- A store of lane 0 on its way to its home. -/
def storing : State :=
  { demo with stores := [{ gang := 0, lane := 0, core := 0, world := 0, pa := progVa + 4096, bytes := [1], issued := 0, bank := false, piece := false, begun := false,
                             priv := false, accepted := false }] }
/-- Fences: a fence whose release part is incomplete, and one whose part is complete. -/
theorem witness_fences :
    (Instr.fence { plainOps with a := 2, opmod := 5 }).wf = true ∧ demo.checks 0xE7 { plainOps with a := 2, opmod := 5 } = .ok 1 ∧
    issuing storing = true ∧ storing.checks 0xE7 { plainOps with a := 2, opmod := 5 } = .ok 1 ∧
    (storing.stores.any fun x => x.gang == 0 && x.lane == 0) = true ∧ demo.stores = [] ∧ demo.atoms = [] ∧ demo.acks = [] ∧
    (demo.cl 0).hzn.toNat + demo.marginNs.toNat ≤ demo.gtime := by
  decide +kernel

/-- Every lane of an access translates, and none meets a watchpoint, computed. -/
def clear (s : State) (x : MemCtx) (acc : Access) (kind info : Nat) (ls : List LaneAcc) : Bool :=
  (s.translateLanes x acc info ls).bad.isEmpty &&
    (s.watch x.key kind 0 ((s.translateLanes x acc info ls).good.map fun e => (e.1.ops.lane, e.1.vas))).isNone
theorem clear_of {s : State} {x : MemCtx} {acc : Access} {kind info : Nat} {ls : List LaneAcc} (h : clear s x acc kind info ls = true) :
    s.Clear x acc kind info ls (s.translateLanes x acc info ls) := by
  simp only [clear, Bool.and_eq_true, List.isEmpty_iff, Option.isNone_iff_eq_none] at h
  exact ⟨rfl, h.1, h.2⟩

/-- An address of the mapped page, and lanes 0 and 1 with addresses in d2. -/
def spot : Nat := progVa + 0x2000
def addressed : State := setD (setD (setD (setD pair 0 2 spot) 1 2 (spot + 8)) 0 4 0x1122334455667788) 1 4 5
/-- An access of n bytes of both lanes at d2 plus d3. -/
def reach (s : State) (i : Instr) (o : Ops) (c : Nat → Word) : MemCtx := s.asked i 3 (s.opA o) (s.opBSigned o) c
def spans (x : MemCtx) (n : Nat) : List LaneAcc := x.ops.map fun p => { ops := p, vas := (List.range n).map fun j => p.a + p.b + word j }

/-- TranslationFollowsTheTable: the table of the address space holds one entry. -/
def mappedAs (pte : Nat) : State := demo.poke (progRoot + 8) (leBytes 8 pte)
def userPte : Nat := 0x1F + 2 ^ 27 * 2 ^ 10 + 2 ^ 54
/-- Whether the walk finds a leaf for an access, and whether its translation then succeeds. -/
def walks (pte : Nat) (acc : Access) : Bool := match (mappedAs pte).lookup 0 progPacket.xlate (word spot) acc with | .ok _ => true | .error _ => false
def passes (pte : Nat) (acc : Access) (priv : Bool) : Bool :=
  match (mappedAs pte).translate 0 progPacket.xlate (word spot) acc priv with | .ok _ => true | .error _ => false
theorem witness_translation :
    demo.memoryCanonical ∧ canonical (word (2 ^ 47)) = false ∧ canonical (word spot) = true ∧
    -- in turn: no user page; a fetch with privilege; no x; as RV64; no r; no w; no aa; in transit
    (walks (userPte - 0x10) .load && walks userPte .fetch && walks (userPte - 8) .fetch && walks (userPte + 2 ^ 54) .fetch &&
      walks (userPte - 6) .load && walks (userPte - 4) .store && walks userPte .reduction && walks (userPte + 2 ^ 60) .store) = true ∧
    (passes (userPte - 0x10) .load false || passes userPte .fetch true || passes (userPte - 8) .fetch false || passes (userPte + 2 ^ 54) .fetch false ||
      passes (userPte - 6) .load false || passes (userPte - 4) .store false || passes userPte .reduction false ||
      passes (userPte + 2 ^ 60) .store false) = false ∧
    passes userPte .load false = true ∧ walks 0 .load = false ∧ walks (userPte - 2) .load = false ∧
    -- a walk from the root, and an entry that the core has cached
    (mappedAs userPte).tlb = [] ∧ SMap.get 0 (mappedAs userPte).guests 1 = 0 ∧ Word.field progPacket.xlate 43 0 * 4096 = progRoot ∧
    Pte.d (word (userPte + 0xC0)) = true ∧
    (TlbEntry.mk 0 1 (progVa / 4096) (word (userPte + 0xC0)) 3).covers 0 (asidOf progPacket.xlate) (word spot) = true := by
  unfold State.memoryCanonical
  decide +kernel
/-- R265: the walk sets a, and for a store d, in the entry in memory. -/
theorem test_walk_marks :
    (match (mappedAs userPte).translate 0 progPacket.xlate (word spot) .store false with
      | .ok (t, pa, _) => t.peekWord (progRoot + 8) == word (userPte + 0xC0) && pa == spot
      | .error _ => false) = true := by
  decide +kernel

/-- No lane of an access that translates reads poison, computed. -/
def unpoisoned (s : State) (x : MemCtx) (acc : Access) (ls : List LaneAcc) : Bool :=
  ((s.translateLanes x acc 0 ls).s.poisonTrap x (s.translateLanes x acc 0 ls).good).isNone
/-- The addresses of the lanes lie in a device page, and a store of lane 0 to it is on its way. -/
def paging : State := { addressed with
  platform := { Platform.none with windows := [spot] }, stores := storing.stores.map fun x => { x with pa := spot + 0x40 } }
/-- GlobalLoads and GlobalStores: two lanes that translate, into d and g registers; LDC within its bank; STL whose release part is incomplete. -/
def banked : State := { addressed with launches := addressed.launches.map fun l => { l with packet := { l.packet with constAddr := word spot } } }
theorem witness_global_accesses :
    issuing addressed = true ∧ running addressed = true ∧
    (∀ op ∈ [0x100, 0x101, 0x102, 0x103], addressed.checks op (typed .b64) = .ok 3) ∧ banked.checks 0x109 { plainOps with dst := 4, a := 3, ty := .b64 } = .ok 3 ∧
    (∀ k < 2, (addressed.memAddr (typed .b64) k).toNat % 8 = 0) ∧
    clear addressed (reach addressed (.ld (typed .b64)) (typed .b64) fun _ => 0) .load 1 0
      (spans (reach addressed (.ld (typed .b64)) (typed .b64) fun _ => 0) 8) = true ∧
    clear addressed (reach addressed (.st (typed .b64)) (typed .b64) (addressed.opDst (typed .b64))) .store 2 0
      (spans (reach addressed (.st (typed .b64)) (typed .b64) (addressed.opDst (typed .b64))) 8) = true ∧
    unpoisoned addressed (reach addressed (.ld (typed .b64)) (typed .b64) fun _ => 0) .load
      (spans (reach addressed (.ld (typed .b64)) (typed .b64) fun _ => 0) 8) = true ∧
    (∀ k < 2, addressed.pageHold (typed .b64) k = false) ∧ paging.pageHold (typed .b64) 0 = true ∧
    banked.bankOf 1 0 ≠ 0 ∧ (∀ k < 2, (banked.memAddr { plainOps with dst := 4, a := 3, ty := .b64 } k).toNat + 8 ≤ 65536) ∧
    (∀ k < 2, addressed.releaseDone 0 k 5 = true) ∧ storing.checks 0x103 (typed .b64) = .ok 1 ∧ storing.releaseDone 0 0 5 = false := by
  decide +kernel
/-- R201: a store stands in the core's L1, and memory is unchanged. -/
theorem test_st :
    ((next (.st (typed .b64)) addressed).stores.map fun x => (x.lane, x.pa)) = [(0, spot), (1, spot + 8)] ∧
    (next (.st (typed .b64)) addressed).peek spot = 0 := by
  decide +kernel
/-- R206: a load's register is pending, and its value is that of the moment of its issue. -/
theorem test_ld :
    ((next (.ld (typed .b64)) addressed).cl 0).pending = [.d 4] ∧ (next (.ld (typed .b64)) addressed).loads.length = 2 := by
  decide +kernel

/-- MisalignedAccessesTrap: lane 1 is misaligned, and no lane waits. -/
def askew : State := setD addressed 1 2 (spot + 4)
theorem witness_misaligned :
    issuing askew = true ∧ (∀ op ∈ [0x102, 0x103, 0x106, 0x107, 0x140, 0x141, 0x142, 0x143, 0x144, 0x145, 0x146, 0x147, 0x148, 0x149, 0x14A],
      askew.checks op (typed .b64) = .ok 3) ∧ (∀ k < 2, askew.atomHold (typed .b64) k = false ∧ askew.releaseHold (typed .b64) k = false ∧ askew.pageHold (typed .b64) k = false) ∧
    those 3 (fun k => (askew.memAddr (typed .b64) k).toNat % (Ty.width .b64 / 8) != 0) = 2 ∧
    those 3 (fun k => (askew.opA (typed .b64) k).toNat % (Ty.width .b64 / 8) != 0) = 2 := by
  decide +kernel

/-- ScratchAccesses and FullEmptyLines: an allocation, offsets inside it, LDW inside the weight store, a full and an empty line. -/
def stored : State := setD (setD scratchy 0 2 128) 1 2 4088
def refreshing : State := { stored with dies := [(0, { Die.reset with inWindow := true })] }
def fullLine : State := { stored with allocs := [{ alloc with full := [(1, true)] }] }
theorem witness_scratch :
    issuing stored = true ∧ (∀ op ∈ [0x102, 0x103, 0x104, 0x105, 0x106, 0x107, 0x108], stored.checks op { typed .b64 with c := 1 } = .ok 3) ∧
    (∀ al rd, ((stored.settle 0 8 true true (stored.addrs (typed .b64) 3)).scratchTraps 0 8 al rd (stored.addrs (typed .b64) 3)).isNone = true ∧
      ((stored.settle 0 8 false true (stored.addrs (typed .b64) 3)).scratchTraps 0 8 al rd (stored.addrs (typed .b64) 3)).isNone = true) ∧
    (Instr.lds (typed .b64)).wf = true ∧ (Instr.lda { typed .b64 with c := 1 }).wf = true ∧ stored.refreshNow 0 = false ∧ refreshing.refreshNow 0 = true ∧
    (∀ k < 2, (stored.memAddr (typed .b64) k).toNat + 8 ≤ Config.weightBytes) ∧ (stored.die 0).weightPoison = [] ∧ (∀ k < 2, stored.releaseDone 0 k 1 = true) ∧
    stored.allocAt 1 0 0 = some alloc ∧
    -- one guarded lane, at a line that is empty, and at one that is full
    (Instr.ldsx (typed .b64)).wf = true ∧ (Instr.stsf (typed .b64)).wf = true ∧
    { stored with cur := demo.cur }.checks 0x106 (typed .b64) = .ok (laneMask 0) ∧ stored.gangSpot 0 (word 128) = some (0, 128) ∧
    (stored.scratchPlace 0 8 true [(0, word 128)]).isNone = true ∧ (∀ rd, (stored.scratchTouch 0 8 rd [(0, word 128)]).isNone = true) ∧
    ((stored.settle 0 8 true true [(0, word 128)]).spots 0 (word 128) 8).all (fun p => (stored.refused 0 p).isNone) = true ∧
    stored.memAddr (typed .b64) 0 = word 128 ∧ SMap.get false alloc.full 1 = false ∧ fullLine.allocAt 1 0 0 = some { alloc with full := [(1, true)] } := by
  decide +kernel
theorem test_stsf_and_ldsx :
    (((next (.stsf (typed .b64)) { stored with cur := demo.cur }).ownAlloc.getD alloc).full = [(1, true)]) ∧
    (((next (.ldsx (typed .b64)) { fullLine with cur := demo.cur }).ownAlloc.getD alloc).full = []) ∧
    ((next (.ldsx (typed .b64)) { stored with cur := demo.cur }).cl 0).pc = word progVa := by
  decide +kernel

/-- CacheInstructions: lanes that translate; a line still leased, and one that is not. -/
def leased : State := { addressed with leases := [{ core := 3, line := spot / 128, granted := 0, expiry := 5000, data := some [] }] }
theorem witness_caches :
    (SMap.wf 0 addressed.owned && SMap.wf none addressed.hostLines && SMap.wf false addressed.poisonLines && SMap.wf 0 addressed.lineWorld
      && SMap.wf none addressed.seals) = true ∧
    (∀ op ∈ [0x10A, 0x10B, 0x10C, 0x10D], addressed.checks op { plainOps with a := 2, b := 3 } = .ok 3) ∧
    (addressed.translateLanes (reach addressed (.cinv three) three fun _ => 0) .load 0
      ((reach addressed (.cinv three) three fun _ => 0).ops.map fun p => { ops := p, vas := [p.a + p.b + 0] })).bad = [] ∧
    (addressed.translateLanes (reach addressed (.icinv three) three fun _ => 0) .probe 0
      ((reach addressed (.icinv three) three fun _ => 0).ops.map fun p => { ops := p, vas := [p.a + p.b + 0] })).bad = [] ∧
    leased.flushHold { plainOps with a := 2, b := 3 } 0 = true ∧ (∀ k < 2, addressed.flushHold { plainOps with a := 2, b := 3 } k = false) ∧
    (∀ k < 2, addressed.icinvHold { plainOps with a := 2, b := 3 } k = false) ∧ addressed.checks 0x10D { plainOps with c := 1, opmod := 2 } = .ok 3 := by
  decide +kernel

/-- A heap of one object of 64 bytes, at index 1, with a count of pins; every page is of class managed and cached by core 0. -/
def heaped (pins : Nat) : State :=
  let s := (mappedAs (userPte + 0xC0 + 2 ^ 57)).poke (progVa + 0x4000) (leBytes 8 (progVa + 0x5000) ++ leBytes 8 2)
  let s := (s.poke (progVa + 0x5010) (leBytes 8 (progVa + 0x6000 + 1) ++ leBytes 4 64 ++ leBytes 2 pins)).onThread 0 0 fun t =>
    ((t.setH 1 (word (2 ^ 24))).setH 2 (word (2 ^ 62 + 2 ^ 24 + 8))).setD 2 (word spot)
  { s with
    heaps := [{ asid := 1, colour := true, active := false, desc := word (progVa + 0x4000) }]
    tlb := [{ core := 0, asid := 1, vpage := progVa / 4096, pte := word (userPte + 0xC0 + 2 ^ 57), level := 3 }] }
def object (colour : Bool) : Obj := { index := 1, copy := word (progVa + 0x6000), size := 64, entry := word (progVa + 0x5010), colour := colour }
/-- A reference of lane 0 resolves under cached translations. -/
def resolves (s : State) (r : Word) : Bool :=
  match s.resolve 0 0 progPacket.xlate false r with | .ok (t, x) => decide (t = s) && decide (x = object true) | .error _ => false
def inside (i : Instr) (o : Ops) (acc : Access) (kind : Nat) (a c : Word) (vas : List Word) : Bool :=
  clear (heaped 0) ((heaped 0).asked i 1 (fun _ => a) ((heaped 0).opBSigned o) fun _ => c) acc kind 0
    [{ ops := { lane := 0, a := a, b := (heaped 0).opBSigned o 0, c := c }, vas := vas }]
def bytesAt (va n : Nat) : List Word := (List.range n).map fun j => word (va + j)
theorem witness_heap :
    issuing (heaped 0) = true ∧ running (heaped 0) = true ∧
    (∀ op ∈ [0x10E, 0x10F, 0x110, 0x111, 0x112, 0x113, 0x114, 0x115], (heaped 0).checks op { plainOps with dst := 1, a := 2, ty := .b64 } = .ok 1) ∧
    resolves (heaped 0) (word (2 ^ 24)) = true ∧ resolves (heaped 0) (word (2 ^ 62 + 2 ^ 24 + 8)) = true ∧
    inside (.ldh { plainOps with dst := 4, a := 2, ty := .b64 }) { plainOps with dst := 4, a := 2, ty := .b64 } .load 1 (word (2 ^ 62 + 2 ^ 24 + 8)) 0
      (bytesAt (progVa + 0x6008) 8) = true ∧
    inside (.sth { plainOps with dst := 4, a := 2, ty := .b64 }) { plainOps with dst := 4, a := 2, ty := .b64 } .store 2 (word (2 ^ 62 + 2 ^ 24 + 8)) 0
      (bytesAt (progVa + 0x6008) 8) = true ∧
    inside (.ldref { plainOps with dst := 3, a := 2 }) { plainOps with dst := 3, a := 2 } .load 1 (word spot) 0 (bytesAt spot 8) = true ∧
    inside (.stref { plainOps with dst := 1, a := 2 }) { plainOps with dst := 1, a := 2 } .store 2 (word spot) (word (2 ^ 24)) (bytesAt spot 8) = true ∧
    unpoisoned (heaped 0) ((heaped 0).asked (.ldh three) 1 (fun _ => word spot) ((heaped 0).opBSigned three) fun _ => 0) .load
      [{ ops := { lane := 0, a := word spot, b := 0, c := 0 }, vas := bytesAt (progVa + 0x6008) 8 },
       { ops := { lane := 0, a := word spot, b := 0, c := 0 }, vas := bytesAt spot 8 }] = true ∧
    -- REFADDR of a reference that is pinned and of one that is not; REFCMP of null
    refPinned (word (2 ^ 62 + 2 ^ 24 + 8)) = true ∧ refPinned (word (2 ^ 24)) = false ∧ refIndex 0 = 0 := by
  decide +kernel
/-- A count of pins read from the object's entry, under cached translations. -/
def countOf (s : State) : Option Nat :=
  match s.tableRead 0 0 progPacket.xlate ((object true).entry + 12) false 2 with | .ok (t, n) => if t = s then some n else none | .error _ => none
def countAt (s : State) : List Nat :=
  match s.translateVas 0 progPacket.xlate .store false none [(object true).entry + 12, (object true).entry + 13] with
  | .ok (t, pas) => if t = s then pas else []
  | .error _ => []
theorem witness_pins :
    (heaped 65535).memoryCanonical ∧ resolves (heaped 65535) (word (2 ^ 24)) = true ∧ countOf (heaped 65535) = some 65535 ∧
    countOf (heaped 65534) = some 65534 ∧ countOf (heaped 0) = some 0 ∧ countAt (heaped 0) = [progVa + 0x501C, progVa + 0x501D] ∧
    ((heaped 0).readError (heaped 0).cg.world (lineOf (progVa + 0x501C))).isNone = true ∧ (heaped 0).sec.keysGone = [] := by
  unfold State.memoryCanonical
  decide +kernel
theorem test_pin :
    (next (.pin { plainOps with dst := 1 }) (heaped 255)).peek (progVa + 0x501D) = 1 ∧
    refPinned (((next (.pin { plainOps with dst := 1 }) (heaped 255)).cl 0).getH 1) = true ∧
    ((next (.pin { plainOps with dst := 1 }) (heaped 65535)).cl 0).trapCause = 0x1A := by
  decide +kernel

/-- Atomics: the page permits them, the lanes translate, slots are free; a lane without a slot, and one whose release part is incomplete. -/
def atomic : State := setD (setD ((pair.poke (progRoot + 8) (leBytes 8 (userPte + 0xC0 + 2 ^ 56)))) 0 2 spot) 1 2 (spot + 8)
def fourSlots : State := atomic.onThread 0 1 fun t => { t with slots := 4 }
def atomOps : Ops := { plainOps with dst := 4, a := 2, b := 3, c := 5, ty := .i64 }
theorem witness_atomics :
    issuing atomic = true ∧ running atomic = true ∧
    (∀ op ∈ [0x140, 0x141, 0x142, 0x143, 0x144, 0x145, 0x146, 0x147, 0x148, 0x149, 0x14A], atomic.checks op atomOps = .ok 3) ∧
    (∀ k < 2, (atomic.cl k).slots < 4 ∧ atomic.releaseDone 0 k 0 = true) ∧ (fourSlots.cl 1).slots = 4 ∧ storing.releaseDone 0 0 5 = false ∧
    (reach atomic (.aadd atomOps) atomOps (atomic.opC atomOps)).ops.all (fun p => (p.a + p.b).toNat % 8 == 0) = true ∧
    clear atomic (reach atomic (.aadd atomOps) atomOps (atomic.opC atomOps)) .atomic 3 0
      (spans (reach atomic (.aadd atomOps) atomOps (atomic.opC atomOps)) 8) = true ∧
    clear atomic (reach atomic (.redadd atomOps) atomOps (atomic.opC atomOps)) .reduction 4 0
      (spans (reach atomic (.redadd atomOps) atomOps (atomic.opC atomOps)) 8) = true ∧
    unpoisoned atomic (reach atomic (.aadd atomOps) atomOps (atomic.opC atomOps)) .atomic
      (spans (reach atomic (.aadd atomOps) atomOps (atomic.opC atomOps)) 8) = true ∧
    atomic.atoms = [] ∧ atomic.rings = [] ∧ Ty.isInt .i64 = true := by
  decide +kernel
/-- No service gang has a request, and nothing of its kind is spilled. -/
theorem witness_service_room (owner : Nat) : atomic.serviceLoad owner + 32 ≤ 512 ∧ atomic.spilledAny (owner / 12) kindService owner = false := by
  have a : atomic.atoms = [] := by decide +kernel
  have r : atomic.rings = [] := by decide +kernel
  simp [State.serviceLoad, State.spilledAny, a, r]
theorem test_acas :
    AtomOp.apply (.cas 7) .b64 7 9 = 9 ∧ AtomOp.apply (.cas 7) .b64 9 13 = 9 ∧ AtomOp.apply .add .i32 0xFFFFFFFF 1 = 0 ∧
    ((next (.aadd atomOps) atomic).atoms.map fun a => (a.lane, a.pa)) = [(0, spot), (1, spot + 8)] := by
  decide +kernel

/-- SequencedReductions, of lane 0 alone: an index beyond 32 bits; a misaligned word; one that is new, next, or held already. -/
def seqState (index at' : Nat) : State := { setD (setD atomic 0 3 index) 0 2 at' with cur := demo.cur }
def seqHeld : State := { seqState 3 spot with
  redseqs := [{ launch := 1, pa := spot, ty := .i64, next := 2, held := [(3, some 5)], stamps := [], spilled := [] }] }
def seqAcc (s : State) : MemCtx := s.asked (.redseq atomOps) 1 (s.opA atomOps) (s.opBReg atomOps) (s.opC atomOps)
theorem witness_sequences :
    issuing (seqState 0 spot) = true ∧ running (seqState 0 spot) = true ∧ (seqState 0 spot).checks 0x14B atomOps = .ok (laneMask 0) ∧
    ((seqState (2 ^ 32) spot).opBReg atomOps 0).toNat = 2 ^ 32 ∧ ((seqState (2 ^ 32 - 1) spot).opBReg atomOps 0).toNat = 2 ^ 32 - 1 ∧
    ((seqState 0 (spot + 1)).opA atomOps 0).toNat % 8 ≠ 0 ∧
    clear (seqState 0 spot) (seqAcc (seqState 0 spot)) .reduction 4 0
      ((seqAcc (seqState 0 spot)).ops.map fun p => { ops := p, vas := (List.range 8).map fun j => p.a + word j }) = true ∧
    ((seqState 0 spot).translateLanes (seqAcc (seqState 0 spot)) .reduction 0
      ((seqAcc (seqState 0 spot)).ops.map fun p => { ops := p, vas := (List.range 8).map fun j => p.a + word j })).good.length = 1 ∧
    ((seqState 0 spot).seqOf 1 spot .i64).next = 0 ∧ (seqHeld.seqOf 1 spot .i64).next = 2 ∧
    SMap.get none (seqHeld.seqOf 1 spot .i64).held 3 ≠ none ∧ SMap.get none (seqHeld.seqOf 1 spot .i64).held 2 = none ∧
    (seqState 0 spot).seqLoad (ownerOf spot) < 1024 ∧ (seqState 0 spot).spilledAny (ownerOf spot / 12) kindRedseq (ownerOf spot) = false := by
  decide +kernel

/-- GroupReductionsBegin: a legal shape with the gang's group, and shapes that are wrong; an open round of another operation. -/
def reducing (shape shape' : Nat) : State := setG { grouped with cur := { grouped.cur with lanes := 3 } } fun g =>
  (g.setG 8 (word shape)).setG 9 (word shape')
/-- The device's peer list is not rank 0's. -/
def misled : State := grouped.onGroup 1 5 fun e => { e with badGred := some true, badGredw := some true }
def gredOps : Ops := { plainOps with dst := 4, a := 2, b := 3, c := 8, clsC := true, ty := .f32 }
theorem witness_group_reductions :
    issuing (reducing 4096 5) = true ∧ running (reducing 4096 5) = true ∧ (reducing 4096 5).checks 0x14C gredOps = .ok 3 ∧
    ((reducing 4096 5).cg.getG 8).toNat % 2 ^ 32 = 4096 ∧ ((reducing 4095 5).cg.getG 8).toNat % 4096 ≠ 0 ∧
    2 ^ 28 < ((reducing (2 ^ 28 + 4096) 5).cg.getG 8).toNat ∧ ((reducing 4096 5).cg.getG 9).toNat % 256 = 5 ∧
    ((reducing 4096 5).cg.getG 9).toNat / 256 % 2 ^ 11 = 0 ∧ (reducing 4096 5).isMember (reducing 4096 5).cg 5 = true ∧
    (reducing 4096 5).isMember (reducing 4096 5).cg 7 = false ∧
    (∀ k < 2, (reducing 4096 5).opA gredOps k = (reducing 4096 5).opA gredOps 0 ∧ (reducing 4096 5).opB gredOps k = (reducing 4096 5).opB gredOps 0) ∧
    (∀ k < 2, (reducing 4096 5).releaseDone 0 k ((reducing 4096 5).groupScope 1 5) = true) ∧
    grouped.checks 0x14D { plainOps with dst := 4, a := 2, ty := .i64, lit := some 5 } = .ok 3 ∧
    (grouped.opBNat { plainOps with lit := some 256 } 0).toNat = 256 ∧ group5.badGredw ≠ some true ∧
    (misled.groupOf 1 5).bind (fun e => e.badGredw) = some true ∧
    (∀ k < 2, grouped.groupHold { plainOps with lit := some 5 } k = false) := by
  decide +kernel

/-- FaultingLanesAreLogged: lane 1's address is not mapped; a log with a free number, and one without. -/
def unmapped : State := setD addressed 1 2 (2 ^ 40)
def fullLog : State := { unmapped with
  oplog := (List.range 16).map fun n => { partition := 0, entry := n, gang := 0, lanes := 1, insn := .nop plainOps, pc := 0, raw := 0, ops := [], priv := false, others := false, late := 0 } }
def someBad (s : State) : Option Nat :=
  match memoryOp (.ld (typed .b64)) s (reach s (.ld (typed .b64)) (typed .b64) fun _ => 0) with
  | some (.ok (_, bad)) => bad.head?.map (·.1)
  | _ => none
theorem witness_faulting :
    issuing unmapped = true ∧ running unmapped = true ∧ unmapped.checks 0x100 (typed .b64) = .ok 3 ∧ someBad unmapped = some 1 ∧
    (∀ k < 2, unmapped.pageHold (typed .b64) k = false) ∧ unmapped.faults = [] ∧
    (∀ n < 16, fullLog.oplog.any (fun e => e.partition == 0 && e.entry == n) = true) ∧ unmapped.oplog = [] ∧ someBad fullLog = some 1 := by
  decide +kernel
theorem test_logging :
    (next (.ld (typed .b64)) unmapped).oplog.length = 1 ∧ (next (.ld (typed .b64)) unmapped).faults.length = 1 ∧
    ((next (.ld (typed .b64)) unmapped).cl 1).pc = word (progVa + 8) := by
  decide +kernel

/-- CopiesBegin: uniform operands that pass the checks, and not; no bytes; 16 outstanding; shapes of CPY2D and CPYX. -/
def copying (size : Nat) : State :=
  setG (setD (setD (setD (setD scratchy 0 2 1024) 1 2 1024) 0 3 spot) 1 3 spot) fun g => ((g.setG 8 (word size)).setG 9 0).setG 20 (word (2 ^ 32 + 16))
def copyOps : Ops := { plainOps with dst := 12, a := 2, b := 3, c := 8, clsD := true, clsC := true }
def copyOf (s : State) (o : Ops) : CopyReq :=
  { dst := .scratch, src := .global, base := s.opA o 0, srcBase := s.opBReg o 0, table := none, bar := none, weightWrite := false
    rows := [{ dst := s.opA o 0, src := s.opBReg o 0, size := (s.opC o 0).toNat }] }
def busyCopies : State := { copying 256 with
  copies := (List.range 16).map fun n =>
    { id := n, gang := 0, launch := 1, block := 0, core := 0, world := 0, xlate := 0, lanes := 1, token := n, bar := none, weightWrite := false, chunks := []
      delivered := 0, priv := false, w := 0, pc := 0 } }
theorem witness_copies :
    issuing (copying 256) = true ∧ running (copying 256) = true ∧ (∀ op ∈ [0x160, 0x161, 0x162, 0x163, 0x164], (copying 256).checks op copyOps = .ok 3 ∧
      (copying 256).checks op { copyOps with guard := ⟨true, 7⟩ } = .ok 0) ∧
    (∀ k < 2, (copying 256).opA copyOps k = (copying 256).opA copyOps 0 ∧ (copying 256).opBReg copyOps k = (copying 256).opBReg copyOps 0 ∧
      (copying 256).opC copyOps k = (copying 256).opC copyOps 0) ∧
    (setD (copying 256) 1 2 0).opA copyOps 1 ≠ (setD (copying 256) 1 2 0).opA copyOps 0 ∧
    (copying 256).copyChecks 3 (copyOf (copying 256) copyOps) = none ∧ ((copying 8192).copyChecks 3 (copyOf (copying 8192) copyOps)).isSome = true ∧
    (copyOf (copying 0) copyOps).total = 0 ∧ (copyOf (copying 256) copyOps).total ≠ 0 ∧ (copying 256).outstanding 0 = 0 ∧
    busyCopies.outstanding 0 = 16 ∧ (copying 256).cg.byCrossing = false ∧ (copying 256).ownAlloc ≠ none ∧ addressed.ownAlloc = none ∧
    -- the shapes of CPY2D and CPYX
    (let shape := ((copying 256).regG 20).toNat; shape / 2 ^ 24 % 2 ^ 8 = 0 ∧ shape / 2 ^ 48 = 0) ∧
    (let shape := ((copying (2 ^ 24)).regG 8).toNat; shape / 2 ^ 24 % 2 ^ 8 ≠ 0) := by
  decide +kernel
/-- Fragment 4: a copy of 256 bytes: its token is pending, and its two pieces are on their way. -/
theorem test_cpy :
    (next (.cpy copyOps) (copying 256)).cg.gPending = [12] ∧ ((next (.cpy copyOps) (copying 256)).copies.map fun c => c.chunks.map (·.size)) = [[128, 128]] ∧
    ((next (.cpy copyOps) (copying 0)).cg.gPending = []) := by
  decide +kernel

/-- QueuesAndBatches: a context with room, full, done, with an eligible constraint and without; queue windows of a gang and of its shadow. -/
def batch (items : List Constraint) (count : Nat) : State :=
  { setD pair 1 2 1 with cbs := [(0, some { launch := 1, count := count, bodies := 4, items := items })], cur := demo.cur }
def one (r f : Bool) : Constraint := { body := 0, tag := 7, released := r, finished := f, spilled := false }
def ctx (s : State) : CbCtx := (s.openCtx 0).getD { launch := 0, count := 0, bodies := 0, items := [] }
def shadowing : State :=
  setG { pair with gangs := pair.gangs ++ pair.gangs.map fun g => { g with key := 1 } } fun g =>
    if g.key = 0 then { g with shadowOf := some 1 } else { g with shadow := some 0 }
theorem witness_batches :
    (∀ op ∈ [0x165, 0x166, 0x167, 0x168, 0x169, 0x16A, 0x16B, 0x16C], (batch [] 1).checks op { plainOps with a := 0, dst := 0 } = .ok 1 ∧
      pair.checks op { plainOps with guard := ⟨true, 7⟩ } = .ok 0) ∧
    SMap.wf none (batch [] 1).cbs = true ∧ issuing (batch [] 1) = true ∧ running (batch [] 1) = true ∧
    -- CBINIT: counts at their bounds; a context that is free, and one that is not
    ((setD demo 0 2 (2 ^ 32 - 1)).opA three 0).toNat ≠ 0 ∧ ((setD demo 0 2 0).opA three 0).toNat = 0 ∧ demo.ctxOf 0 0 = none ∧
    (batch [] 1).ctxOf 0 0 = some { launch := 1, count := 1, bodies := 4, items := [] } ∧ (ctx (batch [] 1)).done ≠ (ctx (batch [] 1)).count ∧
    -- CBPUSH: no open context; room, none left; a body that does not exist
    demo.openCtx 0 = none ∧ (ctx (batch [] 1)).items.length = 0 ∧ (ctx (batch [one false false] 1)).count ≤ (ctx (batch [one false false] 1)).items.length ∧
    (bodiesOf 4).any (fun b => decide (4 ≤ b)) = true ∧ (batch [] 1).releaseDone 0 0 3 = true ∧ (batch [] 1).inputLoad 0 + 1 ≤ 4096 ∧
    (batch [] 1).spilledAny 0 kindConstraint 0 = false ∧ (batch [] 1).poppers 0 0 1 = [] ∧
    -- CBPOP: all done; an eligible one; none eligible
    (ctx (batch [one true true] 1)).done = 1 ∧ (ctx (batch [one false false] 2)).eligible 0 = true ∧
    ((ctx (batch [one true false] 2)).eligible 0 = false) ∧
    -- CBDONE: a value that names the constraint, and one that names none
    (ctx (batch [one true false] 2)).named 7 = some 0 ∧ (ctx (batch [one true false] 2)).named 8 = none ∧
    ((ctx (batch [one true false] 2)).finish [(0, 7)]).2 = [] ∧
    -- windows
    demo.cg.shadowOf = none ∧ shadowing.cg.shadowOf = some 1 ∧ shadowing.resident 1 = true ∧ (shadowing.gangAt 1).threads.length = 32 ∧
    (∀ k < 32, SMap.wf [] ((shadowing.gangAt 1).lane k).windows = true) ∧
    (∀ k < 2, shadowing.windowHeld 1 k 0 < 8 ∧ shadowing.windowSpilled 1 k 0 = 0) ∧ shadowing.checks 0x16A { plainOps with a := 2 } = .ok 3 ∧
    -- QPOP: an empty window whose shadow thread has gone, and one whose shadow thread may still push
    demo.windowHeld 0 0 0 = 0 ∧ demo.window 0 0 0 = [] ∧ demo.shadowGone 0 0 = true ∧ shadowing.shadowGone 1 0 = false := by
  decide +kernel
theorem witness_none_eligible (i : Nat) : (ctx (batch [one true false] 2)).eligible i = false := by
  rcases i with _ | i
  · decide +kernel
  · have h : (ctx (batch [one true false] 2)).items = [one true false] := by decide +kernel
    simp [CbCtx.eligible, h]
theorem test_cbpop :
    dOf (.cbpop { plainOps with dst := 4 }) (batch [one false false] 2) 0 4 = 7 ∧
    dOf (.cbpop { plainOps with dst := 4 }) (batch [one true true] 1) 0 4 = 0x8000000000000000 := by
  decide +kernel

/-- MatrixIssueAndWaits: uniform aligned operands in bounds; others; a queue with 8 entries; a leader's paired operation; a gang of a leader with its
follower's. -/
def arrayed (n : Nat) (op : MatrixOp) : State :=
  let e : MatrixEntry :=
    { op := op, gang := 0, launch := 1, block := 0, world := 0, xlate := 0, lanes := 1, token := none, priv := false, reads := [], writes := [], spoiled := [], moved := []
      insn := 0, pc := 0 }
  { scratchy with arrays := [(0, { Array8.reset with queue := List.replicate n e })] }
def tileOps : Ops := { plainOps with dst := 9, a := 2, b := 3, clsD := true, ty := .f16, c := 0x50 }
def pairedGangs : State := { scratchy with gangs := scratchy.gangs ++ scratchy.gangs.map fun g => { g with key := 64 } }
/-- The bundle is one of the follower's gang. -/
def follower : State := { pairedGangs with cur := { pairedGangs.cur with gang := 64 }, arrays := (arrayed 1 (.mul true .f16 .f16 0 0 0 .rne false)).arrays }
theorem witness_matrix :
    SMap.wf Array8.reset scratchy.arrays = true ∧ SMap.wf Array8.reset (arrayed 8 (.zero 0)).arrays = true ∧
    (∀ op ∈ [0x180, 0x181, 0x182, 0x183, 0x184, 0x185, 0x186, 0x187, 0x188, 0x189, 0x18A, 0x18B, 0x18C, 0x18D],
      scratchy.checks op tileOps = .ok 3 ∧ scratchy.checks op { tileOps with guard := ⟨true, 7⟩ } = .ok 0) ∧
    (∀ k < 2, scratchy.opA tileOps k = scratchy.opA tileOps 0 ∧ scratchy.opBReg tileOps k = scratchy.opBReg tileOps 0) ∧
    (setD scratchy 1 2 64).opA tileOps 1 ≠ (setD scratchy 1 2 64).opA tileOps 0 ∧
    ((MatrixOp.mul true .f16 .f16 0 0 0 .rne false).paired = true ∧ scratchy.pairRefused = true ∧ pairedGangs.pairRefused = false) ∧
    ((setD scratchy 0 2 32).opA tileOps 0).toNat % 64 ≠ 0 ∧ (scratchy.opA tileOps 0).toNat % 64 = 0 ∧
    scratchy.rangesTrap 3 (some 0) ((MatrixOp.mul false .f16 .f16 0 0 0 .rne false).readRanges 0) = none ∧ scratchy.refusesMatrix 0 = false ∧
    (scratchy.array 0).queue.length < 8 ∧ ((arrayed 8 (.zero 0)).array 0).queue.length = 8 ∧ follower.refusesMatrix 8 = true ∧
    ((arrayed 1 (.zero 0)).arrays.any fun a => a.2.queue.any fun e => e.gang == 0) = true ∧ scratchy.cg.scaccError = none ∧
    9 ∉ scratchy.cg.gPending ∧ 9 ∈ (setG scratchy fun g => { g with gPending := [9] }).cg.gPending := by
  decide +kernel
/-- R79, R82: MMA enters the queue, and its token is pending. -/
theorem test_mma :
    ((next (.mma tileOps) scratchy).array 0).queue.length = 1 ∧ (next (.mma tileOps) scratchy).cg.gPending = [9] ∧
    ((next (.mma tileOps) (setD (setD scratchy 0 2 32) 1 2 32)).cl 0).trapCause = 0x0A := by
  decide +kernel

/-- TrapEntry and ReturnsFromTraps: no handler; a thread with privilege; a handler with a frame that can be stored; BKPT to the debugger. -/
def handled : State :=
  let s := mappedAs (userPte + 0xC0)
  let s := setG { s with
      tlb := [{ core := 0, asid := 1, vpage := progVa / 4096, pte := word (userPte + 0xC0), level := 3 }]
      launches := s.launches.map fun l => { l with packet := { l.packet with trapFrames := word (progVa + 0x8000) } } } fun g =>
    { g with trapVec := word (progVa + 0x9000) }
  s.poke (progVa + 0x8000) (leBytes 8 11 ++ leBytes 8 22 ++ leBytes 8 0x42 ++ leBytes 8 (progVa + 0x40))
def inHandler (m : Mode) : State := handled.onThread 0 0 fun t => { t with mode := m, frame := word (progVa + 0x8000), trapPc := word (progVa + 8) }
def framed (s : State) (acc : Access) (va : Word) : Bool :=
  match s.translateRange 0 s.cg.xlate va acc true 32 with | .ok (t, pas) => decide (t = s) && pas.length == 32 | .error _ => false
theorem witness_traps :
    issuing handled = true ∧ running handled = true ∧ demo.cg.trapVec = 0 ∧ handled.cg.trapVec ≠ 0 ∧ handled.cur.lanes = laneMask 0 ∧
    (handled.cl 0).priv = false ∧ ((inHandler .handler).cl 0).priv = true ∧ (handled.launchOn handled.cg.launch 0).isSome = true ∧
    framed handled .store (word (progVa + 0x8000)) = true ∧ (∀ op ∈ [0x1C0, 0x1C1, 0x1C2], demo.checks op { plainOps with lit := some 7 } = .ok 1 ∧
      demo.checks op { plainOps with guard := ⟨true, 7⟩ } = .ok 0) ∧ (setG demo fun g => { g with bkptDbg := true }).cg.bkptDbg = true ∧
    -- returns: from a handler with its frame, whose frame cannot be read, from a routine, without privilege
    issuing (inHandler .handler) = true ∧ running (inHandler .handler) = true ∧ ((inHandler .handler).cl 0).oplogValid = false ∧
    (inHandler .handler).cg.saveArea = 0 ∧ framed (inHandler .handler) .load (word (progVa + 0x8000)) = true ∧
    framed (demo.onThread 0 0 fun t => { t with mode := .handler }) .load 0 = false ∧ ((inHandler .save).cl 0).mode = .save := by
  decide +kernel
/-- R345, R333: TRAP enters the handler: the resume word is the address after it, d1 the frame. -/
theorem test_trap :
    ((next (.trap { plainOps with lit := some 7 }) handled).cl 0).pc = word (progVa + 0x9000) ∧
    ((next (.trap { plainOps with lit := some 7 }) handled).cl 0).trapPc = word progVa ∧
    ((next (.trap { plainOps with lit := some 7 }) handled).cl 0).trapInfo = 7 ∧
    dOf (.trap { plainOps with lit := some 7 }) handled 0 1 = word (progVa + 0x8000) := by
  decide +kernel
/-- R335, R346: ERET gives d1, d2, the predicates and the pc what the frame holds. -/
theorem test_eret :
    dOf (.eret plainOps) (inHandler .handler) 0 1 = 11 ∧ dOf (.eret plainOps) (inHandler .handler) 0 2 = 22 ∧
    ((next (.eret plainOps) (inHandler .handler)).cl 0).p = 0x42 ∧ ((next (.eret plainOps) (inHandler .handler)).cl 0).pc = word (progVa + 0x40) ∧
    ((next (.eret plainOps) (inHandler .save)).cl 0).pc = word (progVa + 8) ∧ ((next (.eret plainOps) demo).cl 0).trapCause = 1 := by
  decide +kernel

/-- ControlRegisters: numbers listed and not, with privilege and without, in world 0 and in another, uniform operands and not. -/
def secret : State := { inHandler .handler with worlds := [(0, 3)] }
theorem witness_control_registers :
    (∀ op ∈ [0x1C3, 0x1C4, 0x1C5], pair.checks op { plainOps with dst := 4, a := 2, b := 3 } = .ok 3 ∧
      pair.checks op { plainOps with guard := ⟨true, 7⟩ } = .ok 0) ∧
    Csr.ofNumber 127 = none ∧ Csr.ofNumber 0x30 = some .world ∧ ((demo.cl (lowest 1)).priv = false) ∧ ((inHandler .handler).cl (lowest 1)).priv = true ∧
    (inHandler .handler).worldOf 0 = 0 ∧ secret.worldOf 0 = 3 ∧ (demo.heapOf (asidOf demo.cg.xlate)).active = false ∧
    SMap.wf Die.reset demo.dies = true ∧ (setD pair 1 3 5).opBNat three 1 ≠ (setD pair 1 3 5).opBNat three (lowest 3) ∧
    (∀ k < 2, pair.opBNat three k = pair.opBNat three (lowest 3)) ∧ ((setD demo 0 3 32).opBNat three 0).getLsbD 5 = true ∧
    demo.requestStands 0 = false ∧ ((demo.gangs.map fun g => g.key) = [0]) := by
  decide +kernel
/-- R348, R362, R209: CSRW of LEASECTL keeps the bounds; CSRR of WORLD; CSRW without privilege traps with reason 1. -/
theorem test_csr :
    (next (.csrw { plainOps with a := 0x28, b := 3 }) (setD (inHandler .handler) 0 3 0)).leaseNs = 50 ∧
    (next (.csrw { plainOps with a := 0x28, b := 3 }) (setD (inHandler .handler) 0 3 0)).marginNs = 4 ∧
    dOf (.csrr { plainOps with dst := 4, a := 0x30 }) secret 0 4 = 3 ∧
    ((next (.csrw { plainOps with a := 2 }) demo).cl 0).trapAddr = 1 := by
  decide +kernel

/-- SystemOperations: SAFE with a request and without; packets that start a launch and that are malformed; words that read done and not; TLBINV's and
WCLEAR's operands, legal and not; the trigger armed and not; a save routine with nothing outstanding, and with. -/
def packetBytes : List Byte :=
  leBytes 8 progVa ++ leBytes 4 1 ++ leBytes 2 1 ++ leBytes 1 16 ++ leBytes 1 0 ++ leBytes 4 0 ++ leBytes 4 0x100 ++ leBytes 16 0 ++ leBytes 8 progPacket.xlate.toNat
def launching : State := (setD handled 0 2 spot).poke spot packetBytes
def launchOps : Ops := { plainOps with dst := 4, a := 2 }
def planned (s : State) : Option Planned := match s.planLane false (s.opA launchOps 0) with | (_, .planned q) => some q | _ => none
def requested : State := setG { pair with cur := demo.cur } fun g => { g with request := some 5000 }
def shot : State := (inHandler .handler).onThread 0 0 fun t => { t with wait := .shoot 0 }
def waited (w : Nat) : State := (setD demo 0 2 spot).poke spot (leBytes 8 w)
theorem witness_system :
    (∀ op ∈ [0x1C6, 0x1C7, 0x1C8, 0x1C9, 0x1CA, 0x1CB, 0x1CC, 0x1CD], demo.checks op { launchOps with lit := none } = .ok 1 ∧
      demo.checks op { launchOps with guard := ⟨true, 7⟩ } = .ok 0) ∧
    demo.safeStops 0 = false ∧ (requested.logged 0 0 = false ∧ (requested.cl 0).slots = 0 ∧ (requested.cl 1).cond ≠ .exited) ∧
    launching.releaseDone 0 0 5 = true ∧ (launching.opA launchOps 0).toNat % 128 = 0 ∧ (planned launching).map (·.status) = some 0 ∧
    (planned (setD launching 0 2 (spot + 128))).map (·.status) = some 1 ∧ launching.launchQueueFull 0 0 = false ∧
    (planned launching).map (fun q => q.packet.busyDies) = some [0] ∧
    clear (waited 0) ((waited 0).asked (.lwait launchOps) 1 ((waited 0).opA launchOps) (fun _ => 0) fun _ => 0) .load 1 0
      [{ ops := { lane := 0, a := word spot, b := 0, c := 0 }, vas := bytesAt spot 8 }] = true ∧
    unpoisoned (waited 0) ((waited 0).asked (.lwait launchOps) 1 ((waited 0).opA launchOps) (fun _ => 0) fun _ => 0) .load
      [{ ops := { lane := 0, a := word spot, b := 0, c := 0 }, vas := bytesAt spot 8 }] = true ∧
    -- TLBINV by ASID, wrong by one bit; WCLEAR of partition 1, and of one with a resident gang
    ((setD demo 0 3 1).opBReg three 0).toNat / 2 ^ 16 = 0 ∧ ((setD demo 0 3 (2 ^ 16)).opBReg three 0).toNat / 2 ^ 16 ≠ 0 ∧ demo.shootDone 0 = true ∧
    (shot.checks 0x1C9 { launchOps with lit := none } = .ok 1 ∧ (shot.cl 0).wait = .shoot 0 ∧ (shot.cl 0).priv = true ∧ (∀ k < 32, 0 < k → (shot.cl k).wait = .no)) ∧
    demo.snapUser = false ∧ demo.snapArmed = false ∧ ((inHandler .save).cl (lowest 1)).mode = .save ∧ (inHandler .save).busyAsync 0 = false ∧
    busyCopies.busyAsync 0 = true := by
  decide +kernel
/-- R351, R319: LAUNCH of a packet starts launch 2 and queues its block; of a malformed one it completes with status 1. R352: LWAIT. -/
theorem test_launch :
    dOf (.launch launchOps) launching 0 4 = 2 ∧ ((next (.launch launchOps) launching).die 0).queue 0 = [.block 2 0] ∧
    ((next (.lwait launchOps) (waited 5)).cl 0).pc = word progVa ∧ dOf (.lwait launchOps) (waited (2 ^ 63 + 9)) 0 4 = word (2 ^ 63 + 9) := by
  decide +kernel
/-- R356: WCLEAR of a partition that holds a gang is refused, of an empty one waits for its clearing. -/
theorem test_wclear :
    ((next (.wclear { plainOps with lit := some 0x30002 }) (inHandler .handler)).clearing.map fun c => (c.partition, c.world)) = [(1, 3)] ∧
    ((next (.wclear { plainOps with lit := some 0x30001 }) (inHandler .handler)).cl 0).cond = .stopped .trap := by
  decide +kernel

/-! ### What happens between instructions -/

/-- Work of the memory system that is pending: a load of lane 0 under a lease and a second one of its line, two stores of overlapping bytes, an atomic
and a reduction, a reply, an acknowledgement, a sequence whose next contribution is held. -/
def load1 : PLoad :=
  { gang := 0, lane := 0, core := 0, dst := .d 4, lines := [spot / 128], ty := .b64, lo := false, home := 5, lease := some 6, owned := false, spots := [], issued := 0 }
def store1 : PStore :=
  { gang := 0, lane := 0, core := 0, world := 0, pa := spot, bytes := [7, 8], issued := 0, bank := false, piece := false, begun := false
    priv := false, accepted := false }
def atom1 : AtomReq :=
  { gang := 0, lane := 0, launch := 1, core := 0, world := 0, dst := some 4, op := .add, ty := .i64, pa := spot + 8, value := 3, scope := 1, applied := none
    issued := 0, spilled := false, framed := false }
def busy : State := { demo with
  loads := [load1, load1], stores := [store1, store1], acks := [(0, 0, 900)]
  atoms := [atom1, { atom1 with dst := none, pa := spot + 16 }, { atom1 with applied := some (9, 900) }, { atom1 with pa := spot + 8 }]
  redseqs := [{ launch := 1, pa := spot + 24, ty := .i64, next := 2, held := [(2, some 5)], stamps := [], spilled := [] }] }
def distant (accepted : Bool) : State := { demo with
  platform := { Platform.none with remote := [(spot, 4096)] }, stores := [{ store1 with accepted := accepted }] }
def bankStore : PStore := { store1 with pa := 2 ^ 64 + 128, bank := true }
def banking : State := { scratchy with stores := [bankStore] }
theorem witness_memory_events :
    busy.memoryCanonical ∧ (SMap.wf 0 busy.owned && SMap.wf none busy.hostLines && SMap.wf false busy.poisonLines && SMap.wf 0 busy.lineWorld
      && SMap.wf none busy.seals) = true ∧
    (!busy.remoteAt spot && (busy.ioPage spot).isNone && (busy.readError 0 (lineOf spot)).isNone && !busy.inMove (lineOf (spot + 24))) = true ∧
    -- a store to another device's memory, one that its home has accepted, one to a scratch bank
    (distant false).remoteAt spot = true ∧ (distant true).stores[0]? = some { store1 with accepted := true } ∧
    (bankCore bankStore.pa, bankOff bankStore.pa) = (0, 128) ∧ (banking.gangAlloc 0 0).isSome = true ∧ (banking.refused 0 (0, 128)).isNone = true ∧
    busy.resident 0 = true ∧ whole (busy.gangAt 0) = true ∧ busy.loads[0]? = some load1 ∧ busy.loads[1]? = some load1 ∧
    busy.stores[0]? = some store1 ∧ busy.stores[1]? = some store1 ∧ busy.tag (lineOf spot) = 0 ∧
    (busy.atoms[0]?.map (busy.atomBlocked 0)) = some false ∧ (busy.atoms[1]?.map (busy.atomBlocked 1)) = some false ∧
    (busy.atoms[3]?.map (busy.atomBlocked 3)) = some true ∧
    (busy.atoms[2]?.map fun r => (r.applied, r.dst, r.framed)) = some (some (9, 900), some 4, false) ∧
    busy.acks[0]? = some (0, 0, 900) ∧
    (busy.redseqs[0]?.map fun q => (q.held.filter fun e => !q.spilled.contains e.1).head? == some (q.next, some 5)) = some true ∧
    (busy.launchOf 1).isSome = true := by
  unfold State.memoryCanonical
  decide +kernel
/-- R206, R201, R244, R219, R247: a reply under the lease; a store at its home; an atomic; an acknowledgement; a contribution. -/
theorem test_memory_events :
    dOf (.globalLoadReply 0 .lease) busy 0 4 = 6 ∧ (next (.homeStorePerform 0) busy).peek spot = 7 ∧
    (next (.homeStorePerform 1) busy).peek spot = 0 ∧ (next (.atomicApply 0) busy).peek (spot + 8) = 3 ∧
    ((next (.reductionAcknowledgement 0) busy).cl 0).hzn = 900 ∧ ((next (.homeStorePerform 0) (distant false)).stores.map (·.accepted)) = [true] ∧
    ((next (.homeStorePerform 0) banking).scratchByte 0 0 0 129) = 8 ∧ (next (.redseqApply 0) busy).peek (spot + 24) = 5 := by
  decide +kernel

/-- TimePasses: a bundle whose pc is fetched; a line outside the pool; a migration in its hold; a gang under a request that it has not taken. -/
def holding : State := { requested with migrations :=
  [{ asid := 1, page := progVa / 4096, xlate := progPacket.xlate, requester := 0, source := progVa / 4096, dest := progVa / 4096 + 16, next := 0, bits := 12, relinked := false, failedLines := []
     aborted := false, holdUntil := some 1200 }] }
theorem witness_time :
    SMap.wf Die.reset demo.dies = true ∧ (demo.gangAt 0).firstFetch = none ∧ (demo.gangAt 0).bundleOf 0 ≠ 0 ∧
    ((refreshing.die 0).inWindow = true ∧ (demo.die 0).inWindow = false ∧ (demo.die 0).refreshValid = false) ∧
    ({ demo with releasing := [5] } : State).leased 5 = false ∧ ((demo.gangAt 0).lane 0).pc.toNat % 4 = 0 ∧
    (match demo.translate 0 progPacket.xlate (word progVa) .fetch false with | .ok _ => true | .error _ => false) = true ∧
    (let nops := State.reset.withFetchWord 32 0x00001E1C; match (nops.fetch 0 1 (word progVa) false).2 with | .instr _ _ _ => true | _ => false) = true ∧
    (holding.migrations[0]?.bind fun m => m.holdUntil) = some 1200 ∧
    holding.resident 0 = true ∧ whole (holding.gangAt 0) = true ∧ (holding.gangAt 0).request = some 5000 ∧ (holding.gangAt 0).taken = false := by
  decide +kernel
/-- R338: at its deadline the request ends, and R142: a pause ends. -/
theorem test_time :
    ((next (.preemptWatchdog 0) holding).gangAt 0).request = none ∧ (next (.preemptWatchdog 0) holding).gtime = 5000 ∧
    (next (.pauseExpiry 0 0) (demo.onThread 0 0 fun t => { t with pauseUntil := 70 })).clock = 70 := by
  decide +kernel

/-- HostCoherence: a line that may be read, one that another world has sealed; a leased line and one that is not; a page that may migrate; a migration
with lines to copy. -/
def sealed : State := { demo with lineWorld := [(spot / 128, 5)] }
def migrating : State := { mappedAs 0 with migrations := [{ (holding.migrations.headD
  { asid := 1, page := 0, xlate := 0, requester := 0, source := 0, dest := 0, next := 0, bits := 0, relinked := false, failedLines := [], aborted := false, holdUntil := none }) with
  holdUntil := none }] }
/-- A table of three levels under the root, whose last maps progVa as one 4 KiB page with the bits of a leaf. -/
def paged (s : State) : State :=
  (((s.poke (progRoot + 8) (leBytes 8 (2 * 2 ^ 10 + 1))).poke 8192 (leBytes 8 (3 * 2 ^ 10 + 1))).poke 12288 (leBytes 8 (4 * 2 ^ 10 + 1))).poke 16384
    (leBytes 8 (0xDF + progVa / 4096 * 2 ^ 10 + 2 ^ 54))
theorem witness_host :
    demo.memoryCanonical ∧ (demo.readError 0 (spot / 128)).isNone = true ∧ (sealed.readError 0 (spot / 128)).isSome = true ∧
    demo.inMove (spot / 128) = false ∧ (demo.ioPage spot).isNone = true ∧ (paged migrating).xlateOf 1 = progPacket.xlate ∧
    leased.leased (spot / 128) = true ∧ demo.leased (spot / 128) = false ∧ spot % 8 = 0 ∧ demo.pageBusy 1 (progVa / 4096) = false ∧
    (match (paged migrating).walk progPacket.xlate (pageVa (progVa / 4096)) with
      | .ok l => !Pte.ml l.pte && l.at' == 16384 && l.at' % 8 == 0 && (paged migrating).tag (lineOf l.at') == 0 && leafBits l.pte l.level == 12
      | .error _ => false) = true ∧
    ((paged migrating).migrations[0]?.bind fun m => m.holdUntil) = none ∧ (paged migrating).frameBusy progVa 4096 = false ∧
    ((paged migrating).migrations[0]?.map fun m => (m.next, m.source)) = some (0, progVa / 4096) := by
  unfold State.memoryCanonical
  decide +kernel
/-- R275, R305: a line is copied, and the completed migration gives the leaf its new frame. -/
theorem test_migration :
    (next (.migrationLineCopy 0 true) ((paged migrating).poke progVa [9])).peek (progVa + 16 * 4096) = 9 ∧
    (match (next (.migrationComplete 0) { paged migrating with migrations := (paged migrating).migrations.map fun m => { m with next := 32 } }).walk
        progPacket.xlate (pageVa (progVa / 4096)) with
      | .ok l => decide (Pte.ppn l.pte = progVa / 4096 + 16)
      | .error _ => false) = true := by
  decide +kernel

/-- CopiesLand: a piece between each two kinds of place; a copy held and one that is not; a barrier to post to; a copy whose pieces have all landed. -/
def moving (dst src : Place) (bar : Option Nat) : State :=
  let k : Chunk := { dst := dst, src := src, size := 16, overlap := [], held := [], done := [] }
  { scratchy with copies := [{ id := 1, gang := 0, launch := 1, block := 0, core := 0, world := 0, xlate := progPacket.xlate, lanes := 1, token := 12
                               bar := bar, weightWrite := false, chunks := [k], delivered := 0, priv := false, w := 0, pc := 0 }] }
def landed : State := { moving (.scratch 0 0) (.global 0) none with copies := (moving (.scratch 0 0) (.global 0) none).copies.map fun c =>
  { c with chunks := [], delivered := 256 } }
/-- A piece is read and written without an error. -/
def lands (s : State) : Bool :=
  match s.copies with
  | [c] =>
    match c.chunks with
    | [k] =>
      match s.fetchChunk c k with
      | .ok (s1, bs) => (match s1.storeChunk c k bs with | .ok _ => bs.length == 16 | .error _ => false) && !s.copyHeld 1 && !s.refreshing k &&
        (s.chunkRefused c k).isNone && (s.chunkError c (word spot) 16 false).isNone && (s.chunkError c (word spot) 16 true).isNone &&
        (match s.fetchChunk c (k.byte 3) with | .ok (_, [_]) => (s.chunkRefused c (k.byte 3)).isNone | _ => false)
      | .error _ => false
    | _ => false
  | _ => false
theorem witness_copies_land :
    (lands (moving (.scratch 0 64) (.global (word spot)) none) && lands (moving (.global (word spot)) (.scratch 0 64) none) &&
      lands (moving (.scratch 0 64) (.scratch 0 128) (some 3)) && lands (moving (.scratch 0 64) (.weight 0 128) none) &&
      lands (moving (.weight 0 64) (.global (word spot)) none)) = true ∧
    { moving (.scratch 0 64) (.global (word spot)) none with faults :=
      [{ who := .copy 1, cause := .pfRead, va := 0, pc := 0, info := 0, access := 1, priv := false, xlate := 0, record := [], entry := none, transit := false, posted := none }] }.copyHeld 1 = true ∧
    (∀ n < 16, (scratchy.refusing 1 0 0 0 (64 + n)).isNone = true ∧ scratchy.unretired 1 0 0 (64 + n) none = false) ∧ demo.sec.keysGone = [] ∧
    (landed.copies.map fun c => c.chunks) = [[]] ∧ landed.resident 0 = true ∧ whole (landed.gangAt 0) = true ∧
    (landed.allocAt 1 0 0).isSome = true := by
  decide +kernel
/-- R76: the token holds the bytes delivered. -/
theorem test_copy_token : ((next (.copyCompletion 0) landed).gangAt 0).getG 12 = 256 := by decide +kernel

/-- MatrixRetirement: an array with one instruction in its queue, with its latch loaded and not; rows that are read and hold no undefined byte. -/
def entry (op : MatrixOp) : MatrixEntry :=
  { op := op, gang := 0, launch := 1, block := 0, world := 0, xlate := progPacket.xlate, lanes := 1, token := some 9, priv := false, reads := [], writes := []
    spoiled := [], moved := [], insn := 0, pc := word progVa }
def full : Alloc := { alloc with bytes := (List.range 64).map fun n => (n, some (BitVec.ofNat 8 (n % 2))), valid := (List.range 16).map fun n => (n, true) }
def queued (t : Option Ty) (op : MatrixOp) : State :=
  { scratchy with allocs := [full], arrays := [(0, { Array8.reset with latched := t, latch := [(3, 2), (65, 5)], queue := [entry op] })] }
def runs (s : State) : Bool :=
  match (s.array 0).queue with
  | e :: _ => (match s.runMatrix e 0 false with | .done _ _ _ _ _ => !s.matrixHeld e 0 | _ => false)
  | [] => false
theorem witness_retirement :
    SMap.wf Array8.reset (queued (some .i8) (.zero 0)).arrays = true ∧ SMap.wf 0 ((queued (some .i8) (.zero 0)).array 0).tiles = true ∧
    (runs (queued none (.zero 0)) && runs (queued (some .i8) (.mul false .i8 .i8 0 0 0 .rne false)) &&
      runs (queued none (.load true false .i8 0 0))) = true ∧
    (match (queued none (.zero 0)).operandRows (entry (.zero 0)) 0 0 (rowsAt 0 0 0 64) with
      | .ok rows => rows.length == 8 && rows.all fun r => r.length == 64 && r.all fun b => !b.undef && decide (b.val < 256)
      | .error _ => false) = true ∧
    ((entry (.zero 0)).token = some 9) ∧ ((queued none (.zero 0)).weightPoisoned 0 0 0).isNone = true ∧ (queued none (.zero 0)).resident 0 = true ∧ whole ((queued none (.zero 0)).gangAt 0) = true := by
  decide +kernel
/-- R85: element (0, 0) is the sum of a row's products with column 0, here 1 · 2 at byte 3; element (0, 1) with column 1, here 1 · 5 at byte 1. -/
theorem test_mma_retires :
    SMap.get 0 ((next (.matrixRetire (0, .whole)) (queued (some .i8) (.mul false .i8 .i8 0 0 0 .rne false))).array 0).tiles 0 = 2 ∧
    SMap.get 0 ((next (.matrixRetire (0, .whole)) (queued (some .i8) (.mul false .i8 .i8 0 0 0 .rne false))).array 0).tiles 1 = 5 ∧
    ((next (.matrixRetire (0, .whole)) (queued (some .i8) (.mul false .i8 .i8 0 0 0 .rne false))).gangAt 0).getG 9 = 512 := by
  decide +kernel

/-- GroupEngineEvents: a reduction of the group's one member that is ready; a round of no member's; a ring with a slot. -/
def reduction (num : Nat) : State :=
  let part : GredPart := { gang := 0, num := num, lanes := 1, pc := 0, token := 9, src := word spot, dst := word (spot + 4096), status := word (spot + 8192), xlate := progPacket.xlate, world := 0, issued := 0, w := 0, priv := false }
  { grouped with greds := [{ launch := 1, grp := 5, op := 0, ty := .i64, count := 2, parts := [part], next := 0, peers := [], failed := [], failedAt := 0 }] }
def ringed : State :=
  let slot : RingSlot := { offset := 0, kind := kindService, queue := ownerOf (spot + 8), item := (0, 0), stamp := 0 }
  { busy with rings := [{ launch := 1, die := 0, head := 0, tail := 64, high := 64, live := [slot] }] }
theorem witness_group_engine :
    ((reduction 0).greds[0]?.map fun r => (reduction 0).gredMembers r group5 && r.peersReady group5) = some true ∧
    ((reduction 0).greds[0]?.map (reduction 0).gredHeld) = some false ∧
    ((reduction 1).greds[0]?.map fun r => (reduction 1).gredMembers r group5) = some false ∧
    (ringed.ringOf 1 0).live.length = 1 ∧ ((ringed.ringOf 1 0).live.head?.map (ringed.refillRoom 0)) = some true ∧
    ((ringed.ringOf 1 0).live.head?.map (ringed.laterSpill 0 1)) = some false := by
  decide +kernel

/-- A range inside a page that maps is a run of addresses. -/
theorem range_of_page {s u : State} {core : Nat} {x va : Word} {acc : Access} {priv : Bool} {pa : Nat} {pte : Word}
    (h : s.translate core x va acc priv = .ok (u, pa, pte)) (al : va.toNat % 4096 = 0) :
    ∀ n < 4096, s.translateRange core x va acc priv (n + 1) = .ok (u, (List.range (n + 1)).map (pa + ·))
  | 0, _ => by simp [State.translateRange, word, h]
  | n + 1, hn => by
    rw [State.translateRange, range_of_page h al n (by omega)]
    have : (va + word (n + 1)).toNat % 4096 ≠ 0 := by simp only [word, BitVec.toNat_add, BitVec.toNat_ofNat]; omega
    show (if n + 1 ≠ 0 ∧ (va + word (n + 1)).toNat % 4096 ≠ 0 then _ else _) = _
    rw [if_pos ⟨by omega, this⟩]
    simp [List.range_succ, Nat.add_assoc]
/-- So the chunk of a member whose source page maps is read, where no line of it is poisoned. -/
theorem elems_of_page {s u : State} {r : Gred} {p : GredPart} {pa : Nat} {pte : Word}
    (h : s.translate (coreOf p.gang) p.xlate (p.src + word (gredChunk * r.next)) .load p.priv = .ok (u, pa, pte))
    (al : (p.src + word (gredChunk * r.next)).toNat % 4096 = 0) (clean : ∀ w n, u.poisoned w n = false) : ∃ v els, s.gredElems r p = .ok (v, els, none) := by
  obtain ⟨n, size, hn⟩ : ∃ n, gredChunk = n + 1 ∧ n < 4096 := ⟨4095, rfl, by omega⟩
  have hr := range_of_page h al n hn
  rw [← size] at hr
  have none : ∀ l : List Nat, l.find? (fun _ => false) = none := fun l => by simp
  unfold State.gredElems
  simp only [hr, clean, none]
  exact ⟨_, _, rfl⟩
theorem sources_of_one {s v : State} {r : Gred} {p : GredPart} {els : List Nat} (he : s.gredElems r p = .ok (v, els, none)) :
    s.gredSources r [p] = .ok (v, [(p.num, els)]) := by
  have unfolded : ∀ q, s.gredElems r p = q → s.gredSources r [p] = (match q with
      | .error f => .error (.fault p f .load)
      | .ok (u, _, some va) => .error (.poison u p.gang va)
      | .ok (u, es, none) => .ok (u, [(p.num, es)])) := by
    intro q hq
    subst hq
    rfl
  exact unfolded _ he
/-- The chunk of the one member is read. -/
theorem witness_group_chunk : ∃ r s1 src, (reduction 0).greds[0]? = some r ∧ r.count ≠ 0 ∧ (reduction 0).gredSources r r.parts = .ok (s1, src) := by
  have h : (match (reduction 0).translate 0 progPacket.xlate (word spot) .load false with
      | .ok (u, _, _) => u.poisonLines.isEmpty && u.lineWorld.isEmpty && decide (u.platform = Platform.none)
      | .error _ => false) = true := by decide +kernel
  split at h
  case h_2 => cases h
  case h_1 u pa pte ht =>
    obtain ⟨⟨hp, hw⟩, hq⟩ : (u.poisonLines = [] ∧ u.lineWorld = []) ∧ u.platform = Platform.none := by simpa using h
    have clean : ∀ w n, u.poisoned w n = false := fun w n => by
      simp [State.poisoned, State.readError, State.macFails, State.tag, State.ioPage, Platform.pages, Platform.none, hp, hw, hq, SMap.get]
    have ⟨r, hr⟩ : ∃ r, (reduction 0).greds[0]? = some r := ⟨_, rfl⟩
    have ⟨p, hparts, hg, hs, hx, hpriv, hn⟩ : ∃ p, r.parts = [p] ∧ p.gang = 0 ∧ p.src = word spot ∧ p.xlate = progPacket.xlate ∧ p.priv = false ∧ r.next = 0 := by
      cases hr; exact ⟨_, rfl, rfl, rfl, rfl, rfl, rfl⟩
    have hc : r.count ≠ 0 := by cases hr; decide
    have start : p.src + word (gredChunk * r.next) = word spot := by rw [hs, hn, Nat.mul_zero]; decide +kernel
    have ⟨v, els, he⟩ : ∃ v els, (reduction 0).gredElems r p = .ok (v, els, none) :=
      elems_of_page (u := u) (pa := pa) (pte := pte) (by rw [start, hg, hx, hpriv]; exact ht) (by rw [start]; decide +kernel) clean
    exact ⟨r, v, [(p.num, els)], hr, hc, (congrArg _ hparts).trans (sources_of_one he)⟩

/-- SchedulingEvents: nothing to admit, a block and its placement; a gang that has ended and one that has not; a launch over; requests; a save that is
due; a saved gang with a slot. -/
def submitted : State := { demo with
  gangs := [], bootStep := 9, launches := progLaunch :: [{ progLaunch with num := 2, running := [] }]
  dies := [(0, { Die.reset with blocks := [(0, [.block 2 0])], clockMHz := 3300 })] }
/-- A launch whose packet, malformed since, die 0 has yet to read. -/
def unreading : State := { submitted with launches := submitted.launches.map fun l => if l.num = 2 then { l with unread := [0], place := spot } else l }
def finished : State := setG demo fun g => { g with threads := g.threads.map fun t => { t with cond := .exited } }
def completed : State := { setD demo 0 2 spot with gangs := [], launches := [{ progLaunch with running := [], ended := 1, packet := { progPacket with completion := word spot } }] }
def savingGang (m : Mode) (w : Wait) (c : Cond) : State := setG (demo.onThread 0 0 fun t => { t with mode := m, wait := w, cond := c }) fun g =>
  { g with taken := true, saveArea := word (progVa + 0x20000) }
theorem witness_scheduling :
    (∀ l ∈ submitted.launches, 0 ∉ l.unread) ∧ ((unreading.launches.filter fun l => l.unread.contains 0).map (·.num)) = [2] ∧ demo.nextAdmission 0 = none ∧ (submitted.nextAdmission 0).isSome = true ∧
    ((submitted.nextAdmission 0).map fun a => submitted.placed a.2.2.2 0 (pairKeys false [0])) = some true ∧
    ((submitted.nextAdmission 0).map fun a => submitted.placed a.2.2.2 0 (pairKeys false [3072])) = some false ∧
    SMap.wf [] (submitted.die 0).blocks = true ∧ demo.resident 0 = true ∧ (demo.gangAt 0).live ≠ 0 ∧ (finished.gangAt 0).live = 0 ∧ finished.quiet 0 = true ∧
    (finished.gangAt 0).shadowOf = none ∧ demo.launchOver 1 = false ∧ completed.launchOver 1 = true ∧ (completed.launchOf 1).isSome = true ∧
    demo.requestStands 0 = false ∧ requested.requestStands 0 = true ∧ (demo.gangAt 0).request = none ∧ (demo.gangAt 0).taken = false ∧
    ((savingGang .save .halt .runnable).gangAt 0).taken = true ∧ (savingGang .save .halt .runnable).drained 0 = true ∧
    (((savingGang .save .halt .runnable).gangAt 0).lane 0).mode = .save ∧
    (((savingGang .user .no (.stopped .safePoint)).gangAt 0).lane 0).cond = .stopped .safePoint := by
  decide +kernel
def setQueue (s : State) : State := { s with dies := [(0, { Die.reset with blocks := [(0, [.saved 1 0])], clockMHz := 3300 })] }
def savedOne : State := { setQueue demo with gangs := [], saved := [{
  launch := 1, block := 0, idx := 0, die := 0, core := 0, allot := 128, area := word (progVa + 0x20000), lanes := 1, carrier := true, group := none, phase := 0
  kept := { flags := [], scacc := none, live := 1, arrivals := [] }, slot := none }] }
theorem witness_restore :
    (match savedOne.saved with
      | [v] => (savedOne.restoreReady progLaunch v 8).isSome && savedOne.carrierGone v
      | _ => false) = true ∧ (match savedOne.saved with | [v] => savedOne.slotFor progLaunch [] v 3072 | _ => true) = false := by
  decide +kernel
/-- R319: a die drops the blocks of a packet that it reads as malformed. R320, R322: a block is admitted into its slot; R318: a launch's completion word; R338: a request. -/
theorem test_scheduling :
    ((next (.blockAdmission 0 [0]) unreading).gangs = [] ∧ ((next (.blockAdmission 0 [0]) unreading).die 0).queue 0 = []) ∧
    ((next (.blockAdmission 0 [0]) submitted).gangs.map fun g => (g.key, g.launch, (g.lane 0).pc)) = [(0, 2, word progVa)] ∧
    (next (.launchCompletion 1) completed).peekWord spot = word (2 ^ 63 + 1) ∧
    ((next (.preemptRequest .debugger [0]) demo).gangAt 0).request = some (demo.gtime + 1000000) := by
  decide +kernel

/-- CrossingsAndHostCommands: a crossing to the device and a slot that is free and one that is not; one to the host; a host thread at a Flidan page and
at none; registrations that are refused and not; packets of a host. -/
def crossing (toDevice : Bool) : Crossing :=
  { toDevice := toDevice, kind := .call, launch := 1, block := 0, tid := 0, xlate := progPacket.xlate, target := word progVa, image := [(10, 77)], fcsr := 0
    host := 2, gangIdx := 0, pte := progPte, level := 3, issued := 0, stepping := false, held := false }
def hostThread1 : HostThread :=
  { launch := 0, block := 0, tid := 17, gangIdx := 0, host := 2, xlate := progPacket.xlate, hgatp := 0, ring := word (spot + 8192), records := 0, away := false
    image := [(5, progVa)], fcsr := 0, pc := word spot, registered := true, mode := .user, vec := HostVector.arrived, kept := [], pending := []
    first := some (progPte, 3), loads := [], stores := [], stopped := false, stepping := false }
/-- Its instruction is jalr x1, 0(x5). -/
def hosted : State := { handled.poke spot (leBytes 4 0x000280E7) with crossings := [crossing true, crossing false], hostThreads := [hostThread1, { hostThread1 with launch := 1, tid := 0, away := true }] }
theorem witness_crossings :
    hosted.crossings[0]? = some (crossing true) ∧ hosted.crossings[1]? = some (crossing false) ∧ hosted.slotFits 8 = true ∧ hosted.slotFits 0 = false ∧
    SMap.wf 0 (crossing true).image = true ∧ hosted.hostThreads[0]? = some hostThread1 ∧ hosted.hostReady hostThread1 = true ∧
    SMap.wf HostCore.reset hosted.hostCores = true ∧ hostDecode 0x000280E7 = (.jalr 1 5 0, 4) ∧
    (match (hosted.hostTake hostThread1).hostFetch hostThread1 with
      | .ok (s1, n) => n == 0x000280E7 && (s1.flidanLeaf hostThread1 0).isNone && (s1.flidanLeaf hostThread1 (word progVa)).isSome
      | .error _ => false) = true ∧
    hosted.regBad 2 true (word (2 ^ 25)) = true ∧ hosted.regBad 2 false 0 = true ∧ hosted.regBad 2 true 17 = false ∧
    (launching.poisoned 0 spot = false ∧ 9 ≤ launching.bootStep ∧ spot % 128 = 0) ∧ (State.reset.bootStep < 9) ∧
    (match launching.plan hubCore true true (Packet.parse packetBytes) (word spot) spot with | .ok (s1, q) => (s1.launchBreach q).isNone | .error _ => false) = true := by
  decide +kernel
/-- R296, R300: a crossing arrives with its registers; a host thread leaves for a Flidan page, with the address after its instruction in x1. -/
theorem test_crossing :
    ((next (.crossingArrival 0 8) hosted).gangAt 8).byCrossing = true ∧ (((next (.crossingArrival 0 8) hosted).gangAt 8).lane 0).getD 10 = 77 ∧
    ((next (.hostJalrCrossing 2 0 .call (word progVa) (SMap.getList 0 hostThread1.image 1 63) 0) hosted).crossings.map fun c => (c.target, SMap.get 0 c.image 1)) =
      [(word progVa, 0), (word progVa, 0), (word progVa, word (spot + 4))] ∧
    (next (.hostLaunch 0 (word spot)) launching).launches.length = 2 := by
  decide +kernel

/-- FaultService: a queue with room; a fault at an address that maps, one in transit, one that does not map; a posted record; named threads. -/
def faulted (va : Nat) (posted : Option Nat) (transit : Bool) : State := { handled with
  hub := { handled.hub with fqBase := word (progVa + 0x10000), fqSize := 64, fqTail := 1 }
  faults := [{ who := .insn 0 1 none, cause := .pfRead, va := word va, pc := 0, info := 0, access := 1, priv := false, xlate := progPacket.xlate
               record := leBytes 64 0, entry := none, transit := transit, posted := posted }] }
def rewalks (s : State) : Option (Option Cause) := s.faults.head?.map fun f => (s.rewalk f).map (·.1)
theorem witness_fault_service :
    rewalks (faulted spot none false) = some none ∧ rewalks (faulted (2 ^ 40) none false) = some (some .pfNotPresent) ∧
    ((faulted spot (some 1) false).faults.head?.bind fun f => f.posted) = some 1 ∧
    (faulted spot none false).hub.fqBase ≠ 0 ∧ (faulted spot none false).hub.fqSize.toNat = 2 ^ 6 ∧
    (word (faulted spot none false).hub.fqTail - (faulted spot none false).hub.fqHead).toNat < 64 ∧ demo.hub.fqBase = 0 ∧
    (∀ h ∈ demo.gangs, h.threads.length = 32) ∧ ((handled.onThread 0 0 fun t => { t with oplogValid := true }).cl 0).oplogValid = true := by
  decide +kernel
/-- R363, R269: a record is posted under the tail's index; software's answer 0 retries. -/
theorem test_fault_service :
    (next (.faultService 0) (faulted (2 ^ 40) none false)).hub.fqTail = 2 ∧ (next (.faultService 0) (faulted spot none false)).faults = [] ∧
    (next (.fqAnswer 1) (faulted spot (some 1) false)).faults = [] ∧
    (((next (.machineCheck 1 0 77 [] false) demo).gangAt 0).lane 0).trapCause = 0x3F := by
  decide +kernel

/-- DebuggerAndObservation: a thread that runs, is held, is stopped, has exited, is being stepped; the trigger armed; a partition whose die samples. -/
def armed : State := { demo with snapArmed := true, snapPin := true, samples := [], issues := [(0, 200)], dies := [(0, { Die.reset with sampleBase := word (progVa + 0x30000), sampleSize := 4096, sampleShift := 8 })] }
theorem witness_debugger :
    demo.resident 0 = true ∧ whole (demo.gangAt 0) = true ∧ ((demo.gangAt 0).lane 0).cond = .runnable ∧ ((demo.gangAt 0).lane 1).cond = .exited ∧
    ((held.gangAt 0).lane 1).cond = .held 1 ∧ ((demo.onThread 0 0 fun t => { t with cond := .stopped .debugger }).cl 0).cond = .stopped .debugger ∧
    ((demo.onThread 0 0 fun t => { t with stepping := 2 }).cl 0).stepping = 2 ∧ (demo.gangAt 0).allot = 128 ∧
    (((next (.debuggerStop 0 1) held).gangAt 0).lane 1).wait = .mask 1 ∧ (((next (.debuggerStop 0 1) held).gangAt 0).lane 1).cond = .stopped .debugger ∧ demo.snapArmed = false ∧ armed.snapPin = true ∧
    armed.cur.len ≠ 0 ∧ partOf armed.cur.gang = 0 ∧ armed.samplesAt 0 = true ∧ demo.samplesAt 0 = false ∧ demo.samples = [] ∧
    ((next (.instructionSample 0) armed).samples.find? fun r => r.partition == 0).isSome = true ∧
    (hosted.hostTake hostThread1).hostRunning 2 = some 0 ∧ (scratchy.gangAlloc 0 0).isSome = true ∧ (scratchy.refusing 1 0 0 0 9).isNone = true := by
  decide +kernel
/-- R124, R375: threads of both kinds of core, and scratch. -/
theorem test_debugger :
    ((next (.debuggerStop (Config.slots + 2) 0) (hosted.hostTake hostThread1)).hostThreads.map (·.stopped)) = [true, false] ∧
    (next (.debuggerStateWrite 0 0 (.scratch 9) 0x15A) scratchy).scratchByte 0 0 0 9 = 0x5A ∧
    ((next (.debuggerStop 0 0) demo).cl 0).cond = .stopped .debugger ∧ ((next (.debuggerStateWrite 0 0 (.d 127) 5) demo).cl 0).getD 127 = 5 ∧
    (((next (.singleStep 0 0) (demo.onThread 0 0 fun t => { t with stepping := 2 })).cl 0).trapCause = 0x31) := by
  decide +kernel

/-- Compaction: a cycle at its first line and one at its end; an object condemned, pinned, free to move; a table of code that is legal and not. -/
def cycling (cursor : Nat) : State :=
  let s := heaped 0
  let s := s.poke (progVa + 0x4010) (leBytes 8 (progVa + 0xA000) ++ leBytes 8 0 ++ leBytes 8 (progVa + 0x6000) ++ leBytes 8 (progVa + 0x6080) ++ leBytes 8 (progVa + 0xC000))
  { s with heaps := s.heaps.map fun h => { h with active := true }, cycles := [{
      asid := 1, xlate := progPacket.xlate, begun := decide (cursor ≠ 0), cursor := cursor, range := progVa + 0x6000, limit := progVa + 0x6080
      destNext := progVa + 0xC000, moved := 0, moving := [] }] }
def lineStep (s : State) : Option Nat := match s.cycleOf 1 with
  | some c => (match s.engineRead c.xlate (s.heapOf 1).descAt 64 with | .ok (_, bs) => some (leNat ((bs.drop 0x20).take 8)) | .error _ => none)
  | none => none
def coded (t l : Nat) : State :=
  let s := demo.poke spot (leBytes 8 progVa ++ leBytes 8 (progVa + 64) ++ leBytes 8 l ++ leBytes 8 0)
  { s with hub := { s.hub with ccAsid := 1, ccTable := word t, ccCount := 1 } }
theorem witness_compaction :
    (demo.heapOf 1).active = false ∧ ((cycling 0).heapOf 1).active = true ∧ demo.cycleOf 1 = none ∧ ((cycling 0).cycleOf 1).isSome = true ∧
    lineStep (cycling 0) = some (progVa + 0x6000) ∧
    (((cycling (progVa + 0x6080)).cycleOf 1).map fun c => decide (c.limit ≤ c.cursor) && c.moving.isEmpty) = some true ∧
    (coded spot 32).badTable = false ∧ (coded spot 33).badTable = true ∧ (coded (spot + 16) 32).badTable = true ∧
    (∀ g ∈ (coded spot 32).gangs, g.saving = false ∧ g.request = none ∧ g.threads.length = 32) ∧
    (∃ g ∈ (inHandler .save).gangs, g.saving = true) := by
  decide +kernel
/-- R341: the pcs of the address space move with their code. -/
theorem test_code_compaction : ((next (.codeCompaction 1) (coded spot 32)).cl 0).pc = word (progVa + 64) := by decide +kernel
/-- R284: the object of the line gets its new copy. -/
theorem test_compaction :
    (next (.compactionLineCopy 1) (cycling 0)).peekWord (progVa + 0x5010) = word (progVa + 0xC001) ∧
    (((next (.compactionComplete 1) (cycling (progVa + 0x6080))).heapOf 1).active = false) := by
  decide +kernel

/-- ConfigurationAndBoot: a change of the image and none; refused and legal measurements; counters that a world shows and not; clearings; boot. -/
def clearingState : State := { secret with clearing := [{ partition := 0, world := 5 }] }
/-- A way of a slice is world 5's, which has a line there. -/
def taken : State := { sealed with sec := { sealed.sec with l2wmap := [(16 * ownerOf spot + 7, 5)] } }
theorem witness_configuration :
    demo.memoryCanonical ∧ SMap.wf 0 demo.sec.ms = true ∧ SMap.wf Die.reset demo.dies = true ∧ SMap.wf none demo.seals = true ∧
    SMap.wf Ctrl.reset demo.ctrls = true ∧ SMap.wf 0 (demo.ctrl 0).payload = true ∧ (spot / 128, 5) ∈ taken.lineWorld ∧
    SMap.get none (taken.writeWay (ownerOf spot) 7 0).seals (spot / 128) = some { line := spot / 128, world := 5, intact := true } ∧
    ({ demo with leaseNs := 50, marginNs := 4 } : State).leasectl ≠ demo.leasectl ∧ ({ demo with leaseNs := 400 } : State).leasectl = demo.leasectl ∧
    demo.worldOf 0 = 0 ∧ (SMap.get 0 secret.sec.allow 3 : BitVec 32).getLsbD 0 = false ∧ demo.clearing = [] ∧
    (clearingState.clearing.find? fun c => c.partition == 0).isSome = true ∧ SMap.wf 0 clearingState.worlds = true ∧ SMap.wf Array8.reset demo.arrays = true ∧
    Csr.ofNumber 0x28 = some .leasectl ∧ State.reset.released = false ∧ demo.released = true ∧ demo.bootStep = 9 ∧ demo.bootFailed = false ∧
    ((next .resetRelease State.reset).released = true ∧ (next .resetRelease State.reset).bootStep = 1) := by
  unfold State.memoryCanonical
  decide +kernel
/-- R378: the cleared partition has its new world; R393: steps 4 and 9; R366: the service's answer word. -/
theorem test_configuration :
    (next (.clearingDone 0) clearingState).worldOf 0 = 5 ∧ (next (.bootStep true) { demo with bootStep := 8 }).hostThreads.length = Config.hosts ∧
    ((next (.controlRegisterWrite 0x1048 9) demo).ctrl 0).rword = 9 ∧ (next (.bootStep false) { demo with bootStep := 3 }).bootStep = 4 ∧
    (next (.leasectlWrite 0) demo).leaseNs = 50 ∧ (next (.controlRegisterWrite 0x018 9) demo).hub.fqHead = 9 := by
  decide +kernel

/-- DeviceInterfaces: an interface in each state, a request posted and not, events waiting and none. -/
def interface (st : TdiState) (posted : Bool) : State := { demo with ctrls := [(0, { Ctrl.reset with
  posted := posted, code := 0x84, tdis := [(5, { Tdi.reset with state := st, vfCommand := 4 })], events := if posted then [] else [(5, 7)] })] }
theorem witness_interfaces :
    SMap.wf Ctrl.reset (interface .run true).ctrls = true ∧ SMap.wf Tdi.reset ((interface .run true).ctrl 0).tdis = true ∧
    (((interface .run true).ctrl 0).tdiAt 5).state = .run ∧ (((interface .locked false).ctrl 0).tdiAt 5).state = .locked ∧
    (((interface .error false).ctrl 0).tdiAt 5).state = .error ∧ (((interface .locked false).ctrl 0).tdiAt 47).state = .unlocked ∧
    ((interface .run true).ctrl 0).posted = true ∧ ((interface .run false).ctrl 0).posted = false ∧ ((interface .run false).ctrl 0).events = [(5, 7)] ∧
    ((interface .run true).ctrl 0).rseq = ((interface .run true).ctrl 0).seq ∧
    -- the ports up and not; another interface whose stop is applied
    demo.bootFailed = false ∧ 8 ≤ demo.bootStep ∧ State.reset.bootStep < 8 ∧
    (({ demo with ctrls := [(0, { Ctrl.reset with tdis := [(6, { Tdi.reset with state := .run, stopping := true })] })] } : State).ctrl 0).stopping = true ∧
    (((interface .run true).ctrl 0).tdiAt 5).stopping = false ∧ ((interface .run true).ctrl 0).code ≠ 0xE0 ∧ demo.funcBit 0 7 = true ∧
    ({ demo with dies := [(0, { Die.reset with funcMode := 0x7F })] } : State).funcBit 0 7 = false := by
  decide +kernel
/-- R365, R368, R370: a start from RUN is not made; a frozen item's write puts the interface in ERROR; a request beyond the interfaces is refused. -/
theorem test_interfaces :
    ((((next (.frozenItemWrite 0 5 .vfCommand 0 0) (interface .locked false)).ctrl 0).tdiAt 5).state = .error) ∧
    (((next (.frozenItemWrite 0 5 .vfCommand 0 0) (interface .locked false)).ctrl 0).completed.map (·.2)) = [false] ∧
    ((((next (.tdiStart 0 5) (interface .locked false)).ctrl 0).tdiAt 5).state = .run) ∧
    (((next (.getDeviceInterfaceState 0 5) (interface .run false)).ctrl 0).sent = [(0x05, 5, 0, [2])]) := by
  decide +kernel

/-- AttestationAndHandover: requests that are answered and that wait for boot; a world with a record and without; a record in time and late. Whether a
given signature or certificate is ours is the free result of a cipher (Config), so no closed term meets or refutes that premise. -/
def exported (deadline attempts : Nat) : State := { demo with sec := { demo.sec with handovers := [(3, 9, attempts, deadline, List.replicate 320 0)], keysGone := [3] } }
theorem witness_handover :
    8 ≤ demo.bootStep ∧ demo.bootFailed = false ∧ State.reset.bootStep < 8 ∧ 3 ∈ (exported 0 0).sec.keysGone ∧ demo.sec.keysGone = [] ∧ demo.sec.handovers = [] ∧
    ((exported 5000 0).sec.handovers.find? fun h => h.1 == 3 && h.2.1 == 9).isSome = true ∧ demo.gtime ≤ 5000 ∧ 900 < demo.gtime ∧
    ((exported 5000 0).sec.handovers.find? fun h => h.1 == 3 && h.2.2.2.1 != 0).isSome = true ∧
    ((exported 0 0).sec.handovers.find? fun h => h.1 == 3 && h.2.2.2.1 != 0).isNone = true ∧
    -- an answer to a late confirmation of world 3
    (lateAnswer 3 9).length = 13 ∧ (lateAnswer 3 9).take 5 = [0x13, 0x7F, 0x01, 0, 3] := by
  decide +kernel
/-- R382: a confirmation in time removes the record; after its time it is refused with code 1. -/
theorem test_handover :
    (next (.handoverConfirm 3 9) (exported 5000 0)).sec.handovers = [] ∧ (next (.handoverConfirm 3 9) (exported 900 0)).sec.sent = [(16, [0x13, 0x7F, 0x01, 0, 3, 9, 0, 0, 0, 0, 0, 0, 0])] ∧
    (next (.handoverRetry 3 9) (exported 0 0)).sec.handovers.length = 1 := by
  decide +kernel

/-! ### Encoding, the step, the invariant, the checks -/

/-- R21, R26: words of the manual's own encodings; VDOTA.I8 d4, d2, d3, d5 written out field by field (R21, R29, R176). -/
theorem test_decode_others :
    decodeTableWord 64 0x4034001462353805 = some line5 ∧
    decodeTableWord 64 0x0080000142951015 = some (.xred { plainOps with guard := ⟨false, 5⟩, dst := 41, a := 40, ty := .f64 }) ∧
    decodeTableWord 64 0x104E181D = some (.csrr { plainOps with dst := 4, a := 2 }) ∧
    decodeTableWord 64 (1 + 7 * 2 ^ 2 + 0x081 * 2 ^ 11 + 4 * 2 ^ 20 + 2 * 2 ^ 27 + 3 * 2 ^ 34 + 5 * 2 ^ 41 + 0x0 * 2 ^ 52) =
      some (.vdota { typed .i8 with c := 5 }) := by
  decide +kernel

/-- DecodeAndEncodeAgree: an instruction in its block, and bytes that each refusal meets. -/
theorem witness_decode_encode :
    (Instr.iadd (typed .i16)).wf = true ∧ (Instr.iadd (typed .i16)).parts ≠ .event ∧ 24 % 32 + (encode (.iadd (typed .i16))).length ≤ 32 ∧
    decodeAt 24 (encode (.iadd (typed .i16))) = .ok (.iadd (typed .i16), 8) ∧
    decodeAt 28 (leBytes 12 0x1D) = .error .fetchBoundary ∧ decodeAt 0 (leBytes 12 3) = .error .illegalLength ∧
    decodeAt 28 (leBytes 12 (0x17 * 2 ^ 9 + 0x1C)) = .error .illegalInsn ∧ decodeAt 0 (leBytes 12 (0x1FF * 2 ^ 11 + 0x1D)) = .error .illegalInsn := by
  decide +kernel

/-- A step from reset with one instruction placed where it is fetched: IADD.I16 d4, d2, d3. -/
def placed : State := State.reset.withFetchWord 64 0x0010000C104000DD
/-- StepRunsDecodedInstruction: what its second clause asks, here of a bundle at progVa; steps that the agenda names and one that is none. -/
theorem witness_step :
    placed.agenda = [] ∧ placed.tick.stepped = none ∧ placed.tick.engineTurn = false ∧ (placed.tick.choice.map fun c => (c.key, c.lane)) = some (0, 0) ∧
    ((placed.tick.turned.gangAt 0).lane 0).pc = word progVa ∧ progVa % 4 = 0 ∧
    (match placed.tick.turned.translate 0 progPacket.xlate (word progVa) .fetch false with
      | .ok (v, pa, _) => (pa == progVa) && !v.poisoned 0 pa && (v.icache.isEmpty) &&
          (match decodeAt (progVa % 32) ((List.range 32).map fun n => v.view 0 (pa / 32 * 32 + n)) with
            | .ok (i, len) => decide (i = .iadd { typed .i16 with stall := 3 }) && len == 8
            | .error _ => false)
      | .error _ => false) = true ∧
    (Instr.regrouping 3).parts = .event ∧ (Instr.regrouping 3).wf = true ∧ (Instr.iadd (typed .i16)).parts ≠ .event ∧
    demo.resident 0 = true ∧ running demo = true := by
  decide +kernel
def stepped (s : State) : Option State := match step s with | .next t => some t | _ => none
theorem test_step :
    ((stepped placed).map fun t => ((t.gangAt 0).lane 0).pc) = some (word (progVa + 8)) ∧
    ((stepped { placed with agenda := [.regrouping 3] }).map fun t => t.agenda) = some [] ∧
    ((stepped { placed with agenda := [.iadd (typed .i16)] }).map fun t => t.clock) = none := by
  decide +kernel

/-- StepKeepsInvariants: a state in the invariant that steps. -/
theorem witness_inv : placed.Inv ∧ (stepped placed).isSome = true := by
  have hg : placed.gangs.all whole = true := by decide +kernel
  have none : placed.allocs = [] ∧ placed.redseqs = [] ∧ placed.crossings = [] ∧ placed.hostThreads = [] := by decide +kernel
  refine ⟨?_, by decide +kernel⟩
  exact {
    memory := by unfold State.memoryCanonical; decide +kernel
    gangs := fun g h => canonical_of (List.all_eq_true.mp hg g h)
    slots := by decide +kernel
    scratch := fun a h => by rw [none.1] at h; cases h
    tables := ⟨by decide +kernel, by decide +kernel, by decide +kernel, by decide +kernel, by decide +kernel⟩
    arrays := ⟨by decide +kernel, fun _ => ⟨rfl, rfl⟩⟩
    dies := ⟨by decide +kernel, fun _ => ⟨rfl, rfl, rfl, rfl⟩⟩
    controllers := ⟨by decide +kernel, fun _ => rfl⟩
    batches := by decide +kernel
    buffers := fun q h => by rw [none.2.1] at h; cases h
    crossings := fun c h => by rw [none.2.2.1] at h; cases h
    hosts := ⟨by decide +kernel, by decide +kernel, fun h m => by rw [none.2.2.2] at m; cases m⟩
    rows := by decide +kernel
    slotsMeasured := by decide +kernel
    worlds := by decide +kernel }

/-- ChecksPassOrTrap: a bundle that nothing catches, one whose guard is false, a direct field beyond the allotment, an indexed one. -/
theorem witness_checks :
    ((readsOf 0x00 three ++ writesOf 0x00 three).all fun r => match r with | .d n => decide (n < demo.cg.allot) | _ => true) = true ∧
    demo.cg.stallChk = false ∧ demo.cg.uninitChk = false ∧ demo.cg.shadowOf = none ∧ demo.cg.gFailed = [] ∧
    (match demo.checks 0x00 three with | .ok L => L == 1 | .error _ => false) = true ∧
    (match demo.checks 0x00 { three with guard := ⟨true, 7⟩ } with | .ok L => L == 0 | .error _ => false) = true ∧
    Dest.d 120 ∈ readsOf 0x00 { three with a := 120 } ++ writesOf 0x00 { three with a := 120 } ∧
    (setG demo fun g => { g with allot := 64 }).cg.allot ≤ 120 ∧
    (demo.onThread 0 0 fun t => { t with ix := 126 }).cg.allot ≤ aNum { three with ix := true } ((demo.onThread 0 0 fun t => { t with ix := 126 }).cl 0) ∧
    (match (demo.onThread 0 0 fun t => { t with ix := 126 }).checks 0x23 { three with ix := true } with
      | .ok _ => false | .error r => r.cause == .regIndexBounds) = true ∧
    -- a zeroing compare under ?!p7
    (let z := { plainOps with guard := ⟨true, 7⟩, dst := 0x0A, a := 2, ty := .i64, opmod := 2 }
     (Instr.icmp z).wf = true ∧ demo.checks 0xA7 z = .ok 0 ∧ issuing demo = true) := by
  decide +kernel
end Sys2Proof.Tests
end

section
/-! SUPPORT. O58 is refuted: the invariant of the package says nothing of the slots that are kept for saved gangs. -/

namespace Sys2Proof.Machine

/-- A saved gang of block 0 of launch 1 whose block has been admitted again: slot 0 is kept for its restore (R340). Its area is the program's page. -/
def keptForSlot0 : Saved where
  launch := 1
  block := 0
  idx := 0
  die := 0
  core := 0
  allot := 128
  area := word progVa
  lanes := 1
  carrier := false
  group := none
  phase := 0
  kept := { flags := [], scacc := none, live := 1, arrivals := [] }
  slot := some 0

/-- Die 0 with context saves and restores by routine (FUNCMODE, R312), so that a restored gang starts with its registers at 0. -/
def dieByRoutine : Die := { Die.reset with funcMode := 0 }

/-- The kept slot is taken: the program's gang is resident in slot 0. The invariant says that no two gangs share a slot, and nothing of the slots that are
kept for saved ones. -/
def keptSlotTaken (agenda : List Instr) : State :=
  { State.reset.withFetchWord 64 0 with agenda := agenda, saved := [keptForSlot0], dies := [(0, dieByRoutine)] }

/-- The keys of the resident gangs after a step. -/
def keysAfter : Host.Outcome State Fault Refusal → List Nat
  | .next t => t.gangs.map fun g => g.key
  | _ => []

theorem canonical_of_noRegisters {t : Thread} (hd : t.d = []) (hh : t.h = []) (hw : t.windows = []) : t.Canonical where
  d := by rw [hd]; rfl
  h := by rw [hh]; rfl
  windows := by rw [hw]; rfl

theorem canonical_progGang : progGang.Canonical where
  whole := rfl
  regs := rfl
  m := rfl
  arrive := rfl
  threads t ht := by
    obtain rfl | ht := List.mem_cons.mp ht
    · exact canonical_of_noRegisters rfl rfl rfl
    · obtain rfl := List.eq_of_mem_replicate ht
      exact canonical_of_noRegisters rfl rfl rfl

theorem die_keptSlotTaken (agenda : List Instr) (d : Nat) : (keptSlotTaken agenda).die d = if d = 0 then dieByRoutine else Die.reset := by
  cases d <;> rfl

theorem inv_keptSlotTaken (agenda : List Instr) : (keptSlotTaken agenda).Inv where
  memory := by
    have h : SMap.wf 0 (State.reset.withFetchWord 64 0).mem = true := SMap.wf_setList (SMap.wf_setList rfl _ _) _ _
    exact h
  gangs g hg := List.mem_singleton.mp hg ▸ canonical_progGang
  slots := List.nodup_singleton _
  scratch _ ha := nomatch ha
  tables := ⟨rfl, rfl, rfl, rfl, rfl⟩
  arrays := ⟨rfl, fun _ => ⟨rfl, rfl⟩⟩
  dies := by
    have table : SMap.wf Die.reset [(0, dieByRoutine)] = true := by decide +kernel
    refine ⟨table, fun d => ?_⟩
    rw [die_keptSlotTaken]
    split <;> exact ⟨rfl, rfl, rfl, rfl⟩
  controllers := ⟨rfl, fun _ => rfl⟩
  batches := rfl
  buffers _ hq := nomatch hq
  crossings _ hc := nomatch hc
  hosts := ⟨rfl, rfl, fun _ hh => nomatch hh⟩
  rows := rfl
  slotsMeasured := rfl
  worlds := rfl

/-- RESTORE_START puts the saved gang into its kept slot without asking whether the slot is free. -/
theorem keys_after_restore_keptSlotTaken : keysAfter (step (keptSlotTaken [.restoreStart 0 0])) = [0, 0] := by decide +kernel

/-- Refutes O58: the invariant is not inductive. It allows a state in which the slot that is kept for a saved gang (R340) holds another gang, and
RESTORE_START then puts the saved gang there as well, so that two gangs share slot 0. -/
theorem not_stepKeepsInvariants : ¬ Obligations.StepKeepsInvariants := by
  intro keeps
  have keys := keys_after_restore_keptSlotTaken
  cases out : step (keptSlotTaken [.restoreStart 0 0]) with
  | next t =>
    have distinct : (t.gangs.map fun g => g.key).Nodup := (keeps _ t (inv_keptSlotTaken _) out).slots
    have shared : (t.gangs.map fun g => g.key) = [0, 0] := by rwa [out] at keys
    rw [shared] at distinct
    exact absurd distinct (by decide)
  | fault r => rw [out] at keys; cases keys
  | refused r => rw [out] at keys; cases keys

end Sys2Proof.Machine
end

section
/-! SUPPORT. Regrouping (R104): what a regrouping makes of a gang, and what the clock's coming to a number leaves. -/

namespace Sys2Proof.Machine

/-! ### Regrouping -/

theorem find_map_of_key {f : Gang → Gang} (hf : ∀ g, (f g).key = g.key) (gs : List Gang) (key : Nat) :
    ((gs.map f).find? fun g => g.key == key) = (gs.find? fun g => g.key == key).map f := by
  rw [List.find?_map]
  congr 2
  funext g
  simp [Function.comp, hf]

/-- A resident gang after a change of every gang that keeps their keys. -/
theorem State.gangAt_map {s t : State} {f : Gang → Gang} (hf : ∀ g, (f g).key = g.key) (ht : t.gangs = s.gangs.map f) {key : Nat}
    (h : s.resident key = true) : t.gangAt key = f (s.gangAt key) := by
  unfold State.gangAt
  rw [ht, find_map_of_key hf]
  obtain ⟨g, hg, hk⟩ := List.any_eq_true.mp h
  cases hfind : s.gangs.find? fun g => g.key == key with
  | none => exact absurd hk (List.find?_eq_none.mp hfind g hg)
  | some g' => rfl

theorem State.resident_map {s t : State} {f : Gang → Gang} (hf : ∀ g, (f g).key = g.key) (ht : t.gangs = s.gangs.map f) (key : Nat) :
    t.resident key = s.resident key := by
  unfold State.resident
  rw [ht, List.any_map]
  congr 1
  funext g
  simp [Function.comp, hf]

/-- The lanes that share a bundle with lane k at a regrouping (R104). -/
def State.mates (s : State) (g : Gang) (k : Nat) : Mask :=
  those (maskOf (s.bundled g.key)) fun j => g.together (maskOf (s.ready g.key)).getLsbD j k

/-- A lane after a regrouping: its bundle's tag is the lowest of its mates (R104), and one that joins a bundle again is synchronised (R196). -/
theorem State.lane_regroupGang (s : State) {g : Gang} (h : g.threads.length = 32) {k : Nat} (hk : k < 32) :
    (s.regroupGang g).lane k =
      { (if s.bundled g.key k = true ∧ (g.lane k).bundle = none then (g.lane k).sync s.clock (s.coreHorizon (coreOf g.key)) else g.lane k) with
        bundle := if s.bundled g.key k then some (lowest (s.mates g k)) else none } := by
  unfold State.regroupGang
  rw [Gang.lane_onLanes h]
  simp only [BitVec.getLsbD_allOnes, getLsbD_maskOf, hk, decide_true, Bool.true_and, if_true]
  rfl

/-- What two lanes of one bundle have in common (R104, R124). -/
theorem Gang.together_iff {g : Gang} {ready : Nat → Bool} {j k : Nat} :
    g.together ready j k = true ↔
      j = k ∨ (g.lane j).pc = (g.lane k).pc ∧ ready j = ready k ∧ (g.lane j).stepping = 0 ∧ (g.lane k).stepping = 0 := by
  simp [Gang.together, and_assoc]

theorem Gang.together_refl (g : Gang) (ready : Nat → Bool) (k : Nat) : g.together ready k k = true :=
  Gang.together_iff.mpr (.inl rfl)

theorem Gang.together_symm {g : Gang} {ready : Nat → Bool} {j k : Nat} (h : g.together ready j k = true) : g.together ready k j = true := by
  rw [Gang.together_iff] at h ⊢
  obtain rfl | ⟨hpc, hready, hj, hk⟩ := h
  · exact .inl rfl
  · exact .inr ⟨hpc.symm, hready.symm, hk, hj⟩

theorem Gang.together_trans {g : Gang} {ready : Nat → Bool} {i j k : Nat} (h : g.together ready i j = true) (h' : g.together ready j k = true) :
    g.together ready i k = true := by
  rw [Gang.together_iff] at h h' ⊢
  obtain rfl | ⟨hpc, hready, hi, hj⟩ := h
  · exact h'
  · obtain rfl | ⟨hpc', hready', -, hk⟩ := h'
    · exact .inr ⟨hpc, hready, hi, hj⟩
    · exact .inr ⟨hpc.trans hpc', hready.trans hready', hi, hk⟩

theorem State.getLsbD_mates (s : State) (g : Gang) (j k : Nat) :
    (s.mates g k).getLsbD j = (decide (j < 32) && s.bundled g.key j && g.together (maskOf (s.ready g.key)).getLsbD j k) := by
  rw [State.mates, getLsbD_those, getLsbD_maskOf]

theorem State.mates_congr {s : State} {g : Gang} {j k : Nat} (h : g.together (maskOf (s.ready g.key)).getLsbD j k = true) :
    s.mates g j = s.mates g k := by
  refine BitVec.eq_of_getLsbD_eq fun i _ => ?_
  rw [State.getLsbD_mates, State.getLsbD_mates]
  congr 1
  exact Bool.eq_iff_iff.mpr ⟨fun hi => Gang.together_trans hi h, fun hi => Gang.together_trans hi (Gang.together_symm h)⟩

/-- The lowest mate of a bundled lane is one of its mates. -/
theorem State.together_lowest_mates {s : State} {g : Gang} {k : Nat} (hk : k < 32) (hb : s.bundled g.key k = true) :
    g.together (maskOf (s.ready g.key)).getLsbD (lowest (s.mates g k)) k = true := by
  have self : (s.mates g k).getLsbD k = true := by
    rw [State.getLsbD_mates, hb, Gang.together_refl]; simp [hk]
  have low := lowest_mem (m := s.mates g k) fun e => by rw [e] at self; simp at self
  rw [State.getLsbD_mates] at low
  simp only [Bool.and_eq_true] at low
  exact low.2

/-- Two bundled lanes get one tag just when they belong together: the relation is an equivalence, so the lowest mate names its class. -/
theorem State.lowest_mates_eq_iff {s : State} {g : Gang} {j k : Nat} (hj : j < 32) (hk : k < 32) (bj : s.bundled g.key j = true)
    (bk : s.bundled g.key k = true) :
    lowest (s.mates g j) = lowest (s.mates g k) ↔ g.together (maskOf (s.ready g.key)).getLsbD j k = true := by
  constructor
  · intro e
    have low := State.together_lowest_mates hj bj
    rw [e] at low
    exact Gang.together_trans (Gang.together_symm low) (State.together_lowest_mates hk bk)
  · intro h
    rw [State.mates_congr h]

/-- Of a gang of a state, t holds what a regrouping in a state before makes of it (R104, R196). -/
structure State.Regrouped (before t : State) (key : Nat) : Prop where
  rest : t.gangAt key = { before.gangAt key with threads := (t.gangAt key).threads }
  lanes : ∀ j < 32,
    (t.gangAt key).lane j =
      { (if before.bundled key j = true ∧ ((before.gangAt key).lane j).bundle = none then
          { (before.gangAt key).lane j with
            synced := before.clock, seen := max ((before.gangAt key).lane j).seen (before.coreHorizon (coreOf key)) }
          else (before.gangAt key).lane j) with
        bundle := ((t.gangAt key).lane j).bundle } ∧
    (before.bundled key j = false → ((t.gangAt key).lane j).bundle = none)
  bundles : ∀ j j', j < 32 → j' < 32 → before.bundled key j = true → before.bundled key j' = true →
    (((t.gangAt key).lane j).bundle = ((t.gangAt key).lane j').bundle ↔
      j = j' ∨ ((before.gangAt key).lane j).pc = ((before.gangAt key).lane j').pc ∧
        before.ready key j = before.ready key j' ∧ ((before.gangAt key).lane j).stepping = 0 ∧ ((before.gangAt key).lane j').stepping = 0)

theorem State.regrouped_of_regroupGang {before t : State} {key : Nat} (hr : before.resident key = true)
    (hw : (before.gangAt key).threads.length = 32) (ht : t.gangAt key = before.regroupGang (before.gangAt key)) : before.Regrouped t key where
  rest := by rw [ht]; rfl
  lanes j hj := by
    rw [ht, State.lane_regroupGang before hw hj, State.gangAt_key hr]
    exact ⟨rfl, fun hb => by simp [hb]⟩
  bundles j j' hj hj' bj bj' := by
    have hkey := State.gangAt_key hr
    rw [ht, State.lane_regroupGang before hw hj, State.lane_regroupGang before hw hj', hkey]
    simp only [bj, bj', if_true, Option.some.injEq]
    rw [State.lowest_mates_eq_iff hj hj' (by rwa [hkey]) (by rwa [hkey]), Gang.together_iff, hkey, getLsbD_maskOf, getLsbD_maskOf]
    simp [hj, hj']

/-- Everything of a thread is as it was, but its bundle and what happens before it (R104, R196). -/
def Thread.SameButBundle (t u : Thread) : Prop := u = { t with bundle := u.bundle, synced := u.synced, seen := u.seen }

theorem Thread.SameButBundle.refl (t : Thread) : t.SameButBundle t := rfl

theorem Thread.SameButBundle.trans {t u v : Thread} (h : t.SameButBundle u) (h' : u.SameButBundle v) : t.SameButBundle v := by
  unfold Thread.SameButBundle at h h' ⊢
  rw [h] at h'
  exact h'

theorem State.sameButBundle_lane_regroupGang (s : State) {g : Gang} (h : g.threads.length = 32) {k : Nat} (hk : k < 32) :
    (g.lane k).SameButBundle ((s.regroupGang g).lane k) := by
  rw [State.lane_regroupGang s h hk]
  split <;> rfl

/-- What regroupings leave of the gangs (R104): a gang stays resident and whole, and its lanes change their bundles alone. -/
structure State.OnlyBundles (s t : State) : Prop where
  resident : ∀ key, t.resident key = s.resident key
  whole : ∀ key, s.resident key = true → (s.gangAt key).threads.length = 32 → (t.gangAt key).threads.length = 32
  lanes : ∀ key, s.resident key = true → (s.gangAt key).threads.length = 32 → ∀ j < 32,
    ((s.gangAt key).lane j).SameButBundle ((t.gangAt key).lane j)

theorem State.OnlyBundles.refl (s : State) : s.OnlyBundles s :=
  ⟨fun _ => rfl, fun _ _ h => h, fun _ _ _ _ _ => rfl⟩

theorem State.OnlyBundles.trans {s t u : State} (h : s.OnlyBundles t) (h' : t.OnlyBundles u) : s.OnlyBundles u where
  resident key := (h'.resident key).trans (h.resident key)
  whole key hr hw := h'.whole key ((h.resident key).trans hr) (h.whole key hr hw)
  lanes key hr hw j hj := (h.lanes key hr hw j hj).trans (h'.lanes key ((h.resident key).trans hr) (h.whole key hr hw) j hj)

theorem State.gangAt_regroupAll {s : State} {key : Nat} (h : s.resident key = true) :
    s.regroupAll.gangAt key = s.regroupGang (s.gangAt key) :=
  State.gangAt_map (f := s.regroupGang) (fun _ => rfl) rfl h

theorem State.onlyBundles_regroupAll (s : State) : s.OnlyBundles s.regroupAll where
  resident key := State.resident_map (f := s.regroupGang) (fun _ => rfl) rfl key
  whole key hr hw := by rw [State.gangAt_regroupAll hr]; exact (Gang.onLanes_length ..).trans hw
  lanes key hr hw j hj := by rw [State.gangAt_regroupAll hr]; exact s.sameButBundle_lane_regroupGang hw hj

/-- The state at the next multiple of four clocks, where a regrouping falls due (R104). -/
def State.atNextGroup (s : State) : State := { s with clock := (s.clock / 4 + 1) * 4 }

theorem State.onlyBundles_regroups (n : Nat) (s : State) : s.OnlyBundles (State.regroups n s) := by
  induction n generalizing s with
  | zero => exact .refl s
  | succ n ih =>
    have h := State.onlyBundles_regroupAll s.atNextGroup
    exact .trans ⟨h.resident, h.whole, h.lanes⟩ (ih s.atNextGroup.regroupAll)

theorem State.regroups_rest (n : Nat) (s : State) :
    State.regroups n s = { s with clock := (State.regroups n s).clock, gangs := (State.regroups n s).gangs } := by
  induction n generalizing s with
  | zero => rfl
  | succ n ih => exact ih s.atNextGroup.regroupAll

/-- The clock comes to a number: beside it only the gangs change. -/
theorem State.clockTo_rest (s : State) (c : Nat) : s.clockTo c = { s with clock := c, gangs := (s.clockTo c).gangs } := by
  unfold State.clockTo
  rw [State.regroups_rest]

theorem State.clockTo_gangs_of_no_group {s : State} {c : Nat} (h : c / 4 = s.clock / 4) : (s.clockTo c).gangs = s.gangs := by
  simp [State.clockTo, h, State.regroups]

/-- Where one regrouping falls due on the way, the gangs are as it leaves them. -/
theorem State.clockTo_gangs_of_one_group {s : State} {c : Nat} (h : c / 4 = s.clock / 4 + 1) :
    (s.clockTo c).gangs = s.atNextGroup.regroupAll.gangs := by
  simp [State.clockTo, h, State.regroups, State.atNextGroup]

theorem State.onlyBundles_clockTo (s : State) (c : Nat) : s.OnlyBundles (s.clockTo c) :=
  have h := State.onlyBundles_regroups (c / 4 - s.clock / 4) s
  ⟨h.resident, h.whole, h.lanes⟩

theorem State.regrouped_clockTo {s : State} {c key : Nat} (h : c / 4 = s.clock / 4 + 1) (hr : s.resident key = true)
    (hw : (s.gangAt key).threads.length = 32) : s.atNextGroup.Regrouped (s.clockTo c) key :=
  State.regrouped_of_regroupGang (before := s.atNextGroup) hr hw
    (State.gangAt_map (s := s.atNextGroup) (f := s.atNextGroup.regroupGang) (fun _ => rfl) (State.clockTo_gangs_of_one_group h) hr)

/-- A regrouping of one partition (R104): its gangs are regrouped, the others stay as they are. -/
theorem State.gangAt_regroup (s : State) (part : Nat) {key : Nat} (h : s.resident key = true) :
    (s.regroup part).gangAt key = if partOf key = part then s.regroupGang (s.gangAt key) else s.gangAt key := by
  have e := State.gangAt_map (s := s) (t := s.regroup part) (f := fun g => if partOf g.key = part then s.regroupGang g else g)
    (fun g => by split <;> rfl) rfl h
  simpa only [State.gangAt_key h] using e

theorem State.regrouped_regroup {s : State} {part key : Nat} (hp : partOf key = part) (hr : s.resident key = true)
    (hw : (s.gangAt key).threads.length = 32) : s.Regrouped (s.regroup part) key :=
  State.regrouped_of_regroupGang hr hw (by rw [State.gangAt_regroup s part hr, if_pos hp])

end Sys2Proof.Machine
end

section
/-! SUPPORT. A bundle's fetch of its block (R225, R226). -/

namespace Sys2Proof.Machine

/-! ### Fetching -/

/-- The lanes of a bundle that all run privileged, or all do not, fetch together. -/
theorem State.fetchLanes_of_uniform {s : State} {key : Nat} {M : Mask} (pc : Word)
    (h : ∀ j, M.getLsbD j = true → ((s.gangAt key).lane j).priv = ((s.gangAt key).lane (lowest M)).priv) : s.fetchLanes key M pc = M := by
  unfold State.fetchLanes
  refine if_pos ?_
  cases hp : ((s.gangAt key).lane (lowest M)).priv with
  | false => exact .inl (those_eq_zero.mpr fun j hj => (h j hj).trans hp)
  | true =>
    refine .inr (eq_zero_of_lanes fun j => ?_)
    cases hj : M.getLsbD j with
    | false => simp [hj]
    | true => simp [hj, h j hj, hp]

theorem State.gangs_walkerStore (s : State) (pa : Nat) (bs : List Byte) : (s.walkerStore pa bs).gangs = s.gangs := rfl

theorem State.gangs_markUsed (s : State) (a : Nat) (e : Word) (writes : Bool) : (s.markUsed a e writes).gangs = s.gangs := by
  unfold State.markUsed
  split
  · rfl
  · exact State.gangs_walkerStore ..

theorem State.gangs_markLeaf (s : State) (l : Leaf) (writes : Bool) : (s.markLeaf l writes).gangs = s.gangs := by
  unfold State.markLeaf
  dsimp only
  split
  · rw [State.gangs_markUsed, State.gangs_markUsed]
  · rw [State.gangs_markUsed]

/-- A translation leaves the gangs as they are. -/
theorem State.gangs_translate {s s1 : State} {core pa : Nat} {xlate va lvl : Word} {acc : Access} {priv : Bool}
    (h : s.translate core xlate va acc priv = .ok (s1, pa, lvl)) : s1.gangs = s.gangs := by
  unfold State.translate at h
  split at h
  · cases h
  · split at h
    · cases h
    · split at h
      · cases h
      · cases h
        split
        · rfl
        · exact State.gangs_markLeaf ..

theorem State.gangAt_congr {s t : State} (h : t.gangs = s.gangs) (key : Nat) : t.gangAt key = s.gangAt key := by
  unfold State.gangAt
  rw [h]

/-- Only a core's own copies of fetch blocks change. -/
structure State.OnlyBlocksOf (s t : State) (core : Nat) : Prop where
  rest : t = { s with icache := t.icache }
  others : ∀ b, b.core ≠ core → (b ∈ t.icache ↔ b ∈ s.icache)

theorem State.OnlyBlocksOf.refl (s : State) (core : Nat) : s.OnlyBlocksOf s core := ⟨rfl, fun _ _ => Iff.rfl⟩

theorem State.OnlyBlocksOf.trans {s t u : State} {core : Nat} (h : s.OnlyBlocksOf t core) (h' : t.OnlyBlocksOf u core) :
    s.OnlyBlocksOf u core where
  rest := by rw [h'.rest, h.rest]
  others b hb := (h'.others b hb).trans (h.others b hb)

/-- The block that a fetch of a physical address takes in at a moment (R225). -/
def State.blockTaken (s : State) (core world asid pa : Nat) : FetchBlock :=
  { core := core, world := world, asid := asid, pa := pa / 32 * 32, bytes := s.freshBlock core pa }

theorem State.blockTaken_mem_takeBlock (s : State) (core world asid pa : Nat) :
    s.blockTaken core world asid pa ∈ (s.takeBlock core world asid pa).icache := List.mem_cons_self

theorem State.onlyBlocksOf_takeBlock (s : State) (core world asid pa : Nat) : s.OnlyBlocksOf (s.takeBlock core world asid pa) core where
  rest := rfl
  others b hb := by
    have new : b ≠ s.blockTaken core world asid pa := fun e => hb (by rw [e]; rfl)
    show b ∈ s.blockTaken core world asid pa :: _ ↔ _
    rw [List.mem_cons, or_iff_right new]
    split
    · rfl
    · split
      · rename_i o ho
        have old : b ≠ o := fun e => by
          have := List.mem_of_getLast? ho
          simp only [List.mem_filter, beq_iff_eq] at this
          exact hb (e ▸ this.2)
        simp [old]
      · rfl

theorem State.onlyBlocksOf_keepBlock (s : State) (core world asid pa : Nat) : s.OnlyBlocksOf (s.keepBlock core world asid pa) core := by
  unfold State.keepBlock
  split
  · exact s.onlyBlocksOf_takeBlock core world asid pa
  · exact .refl s core

theorem State.onlyBlocksOf_refetch (s : State) (core world asid pa : Nat) : s.OnlyBlocksOf (s.refetch core world asid pa) core := by
  unfold State.refetch
  split
  · exact .refl s core
  · exact s.onlyBlocksOf_takeBlock core world asid pa

/-- After the fetch unit has read a block again, the core keeps a copy with the bytes of this moment (R226). -/
theorem State.exists_fresh_refetch (s : State) (core world asid pa : Nat) :
    ∃ b ∈ (s.refetch core world asid pa).icache, b.core = core ∧ b.world = world ∧ b.pa = pa / 32 * 32 ∧ b.bytes = s.freshBlock core pa := by
  unfold State.refetch
  split
  · next h =>
    obtain ⟨b, hb, fresh⟩ := List.any_eq_true.mp h
    simp only [State.keptBlocks, List.mem_filter, Bool.and_eq_true, beq_iff_eq] at hb
    obtain ⟨hmem, ⟨hcore, hworld⟩, hpa⟩ := hb
    exact ⟨b, hmem, hcore, hworld, hpa, by simpa using fresh⟩
  · exact ⟨_, s.blockTaken_mem_takeBlock core world asid pa, rfl, rfl, rfl, rfl⟩

/-- A fetch that finds an instruction keeps its block. -/
theorem State.fetchAt_of_instr {s : State} {key : Nat} {m : Mask} {pc : Word} {pa : Nat} {i : Instr} {len : Nat} {raw : Word}
    (h : (s.fetchAt key m pc pa).2 = .instr i len raw) :
    s.fetchAt key m pc pa = (s.keepBlock (coreOf key) (s.gangAt key).world (asidOf (s.gangAt key).xlate) pa, .instr i len raw) := by
  unfold State.fetchAt at h ⊢
  dsimp only at h ⊢
  split at h
  · cases h
  · next hp =>
    rw [if_neg hp]
    exact Prod.ext rfl h

theorem State.fetchPlace_of_translate {s s1 : State} {key : Nat} (m : Mask) {pc : Word} {priv : Bool} {pa : Nat} {lvl : Word}
    (aligned : pc.toNat % 4 = 0) (walks : (s.gangAt key).firstFetch = none)
    (h : s.translate (coreOf key) (s.gangAt key).xlate pc .fetch priv = .ok (s1, pa, lvl)) : s.fetchPlace key m pc priv = .ok (s1, pa) := by
  simp [State.fetchPlace, aligned, walks, h]

/-- INSTRUCTION_FETCH of a bundle whose pc maps and holds an instruction: the state after the translation, but for the blocks of the bundle's core, of
which one has the bytes of this moment. -/
theorem State.fetchStep_of_instr {s s1 : State} {key k pa len : Nat} {lvl raw : Word} {i : Instr} {M : Mask} {priv : Bool}
    (bundled : (s.gangAt key).bundleOf k ≠ 0) (aligned : ((s.gangAt key).lane k).pc.toNat % 4 = 0)
    (walks : (s.gangAt key).firstFetch = none) (hM : M = s.fetchLanes key ((s.gangAt key).bundleOf k) ((s.gangAt key).lane k).pc)
    (hpriv : priv = ((s.gangAt key).lane (lowest M)).priv)
    (maps : s.translate (coreOf key) (s.gangAt key).xlate ((s.gangAt key).lane k).pc .fetch priv = .ok (s1, pa, lvl))
    (found : (s.fetch key M ((s.gangAt key).lane k).pc priv).2 = .instr i len raw) :
    s1.OnlyBlocksOf (s.fetchStep key k) (coreOf key) ∧
      ∃ b ∈ (s.fetchStep key k).icache, b.core = coreOf key ∧ b.world = (s.gangAt key).world ∧ b.pa = pa / 32 * 32 ∧
        b.bytes = s1.freshBlock (coreOf key) pa := by
  have place := State.fetchPlace_of_translate M aligned walks maps
  have kept := State.fetchAt_of_instr (s := s1) (key := key) (m := M) (pc := ((s.gangAt key).lane k).pc) (pa := pa) (by
    simpa only [State.fetch, place] using found)
  have same := State.gangAt_congr (State.gangs_translate maps) key
  rw [same] at kept
  have keeps := s1.onlyBlocksOf_keepBlock (coreOf key) (s.gangAt key).world (asidOf (s.gangAt key).xlate) pa
  have step : s.fetchStep key k =
      (s1.keepBlock (coreOf key) (s.gangAt key).world (asidOf (s.gangAt key).xlate) pa).refetch
        (coreOf key) (s.gangAt key).world (asidOf (s.gangAt key).xlate) pa := by
    have same' : (s1.keepBlock (coreOf key) (s.gangAt key).world (asidOf (s.gangAt key).xlate) pa).gangAt key = s.gangAt key := by
      rw [keeps.rest]; exact same
    unfold State.fetchStep
    simp only [bundled, if_false, ← hM, ← hpriv, place, kept, same']
  rw [step]
  refine ⟨keeps.trans (State.onlyBlocksOf_refetch ..), ?_⟩
  have fresh : (s1.keepBlock (coreOf key) (s.gangAt key).world (asidOf (s.gangAt key).xlate) pa).freshBlock (coreOf key) pa =
      s1.freshBlock (coreOf key) pa := by
    rw [keeps.rest]; rfl
  exact fresh ▸ State.exists_fresh_refetch ..

end Sys2Proof.Machine
end

section
/-! SUPPORT. What time does to dies, leases, the energy planner and pre-emption requests, and O41. -/

namespace Sys2Proof.Machine

/-! ### Dies -/

theorem State.die_onDie {s : State} (h : SMap.wf Die.reset s.dies = true) (d e : Nat) (f : Die → Die) :
    (s.onDie d f).die e = if e = d then f (s.die d) else s.die e := SMap.get_set h d e (f (s.die d))

theorem State.wf_dies_onDie {s : State} (h : SMap.wf Die.reset s.dies = true) (d : Nat) (f : Die → Die) :
    SMap.wf Die.reset (s.onDie d f).dies = true := SMap.wf_set h d (f (s.die d))

/-- A pool line leaves the pool lines of every die of a list, and nothing else of the state changes. -/
theorem State.untrack_dies {s : State} (h : SMap.wf Die.reset s.dies = true) (line : Nat) (ds : List Nat) :
    let t := ds.foldl (fun s d => s.onDie d fun x => { x with poolLines := x.poolLines.filter (· ≠ line) }) s
    t = { s with dies := t.dies } ∧
      ∀ d, (t.die d).poolLines = if d ∈ ds then (s.die d).poolLines.filter (· ≠ line) else (s.die d).poolLines := by
  induction ds generalizing s with
  | nil => exact ⟨rfl, fun d => by simp⟩
  | cons e ds ih =>
    obtain ⟨rest, pool⟩ := ih (State.wf_dies_onDie h e fun x => { x with poolLines := x.poolLines.filter (· ≠ line) })
    refine ⟨rest, fun d => ?_⟩
    rw [List.foldl_cons, pool, State.die_onDie h]
    by_cases hde : d = e <;> by_cases hd : d ∈ ds <;> simp [hde, hd, List.filter_filter]

theorem State.untrack_spec {s : State} (h : SMap.wf Die.reset s.dies = true) (line : Nat) :
    s.untrack line = { s with dies := (s.untrack line).dies, releasing := s.releasing.filter (· ≠ line) } ∧
      ∀ d < 4, ((s.untrack line).die d).poolLines = (s.die d).poolLines.filter (· ≠ line) := by
  obtain ⟨rest, pool⟩ := State.untrack_dies h line (List.range Config.dies)
  refine ⟨?_, fun d hd => ?_⟩
  · unfold State.untrack
    dsimp only
    rw [rest]
  · have hmem : d ∈ List.range Config.dies := List.mem_range.mpr hd
    exact (pool d).trans (if_pos hmem)

/-! ### Leases -/

/-- The leases that an expiry of a line leaves (R206, R213). -/
def State.unexpired (s : State) (line : Nat) : List Lease := s.leases.filter fun l => l.line != line || decide (s.gtime < l.expiry)

theorem State.leased_unexpired (s : State) (line : Nat) : ({ s with leases := s.unexpired line } : State).leased line = s.leased line := by
  simp only [State.leased, State.unexpired, List.any_filter]
  congr 1
  funext l
  cases h : l.line == line <;> simp [bne, h]

/-! ### The draw of energy -/

/-- What charging draws to blocks and launches of a die changes (R324): its account of what they drew, and the launches' charges. -/
structure State.OnlyDrawn (s t : State) (d : Nat) : Prop where
  rest : t = { s with dies := t.dies, launches := t.launches }
  wf : SMap.wf Die.reset t.dies = true
  others : ∀ e, e ≠ d → t.die e = s.die e
  here : t.die d = { s.die d with drawn := (t.die d).drawn }

theorem State.OnlyDrawn.refl {s : State} (h : SMap.wf Die.reset s.dies = true) (d : Nat) : s.OnlyDrawn s d :=
  ⟨rfl, h, fun _ _ => rfl, rfl⟩

theorem State.OnlyDrawn.trans {s t u : State} {d : Nat} (h : s.OnlyDrawn t d) (h' : t.OnlyDrawn u d) : s.OnlyDrawn u d where
  rest := by rw [h'.rest, h.rest]
  wf := h'.wf
  others e he := (h'.others e he).trans (h.others e he)
  here := by rw [h'.here, h.here]

theorem State.onlyDrawn_foldl {α : Type} {d : Nat} {f : State → α → State}
    (hf : ∀ (s : State) a, SMap.wf Die.reset s.dies = true → s.OnlyDrawn (f s a) d) (as : List α) {s : State} (h : SMap.wf Die.reset s.dies = true) :
    s.OnlyDrawn (as.foldl f s) d := by
  induction as generalizing s with
  | nil => exact .refl h d
  | cons a as ih => exact (hf s a h).trans (ih (hf s a h).wf)

theorem State.onlyDrawn_onLaunch {s : State} (h : SMap.wf Die.reset s.dies = true) (d n : Nat) (g : Launch → Launch) :
    s.OnlyDrawn (s.onLaunch n g) d := ⟨rfl, h, fun _ _ => rfl, rfl⟩

theorem State.onlyDrawn_onDie {s : State} (h : SMap.wf Die.reset s.dies = true) (d : Nat) (f : List (Nat × Nat × Nat) → List (Nat × Nat × Nat)) :
    s.OnlyDrawn (s.onDie d fun x => { x with drawn := f x.drawn }) d where
  rest := rfl
  wf := State.wf_dies_onDie h d _
  others e he := by rw [State.die_onDie h, if_neg he]
  here := by rw [State.die_onDie h, if_pos rfl]

/-- A charge to a block and to its launch. -/
theorem State.onlyDrawn_onDie_onLaunch {s : State} (h : SMap.wf Die.reset s.dies = true) (d n : Nat)
    (f : List (Nat × Nat × Nat) → List (Nat × Nat × Nat)) (g : Launch → Launch) :
    s.OnlyDrawn ((s.onDie d fun x => { x with drawn := f x.drawn }).onLaunch n g) d :=
  (State.onlyDrawn_onDie h d f).trans (State.onlyDrawn_onLaunch (State.onlyDrawn_onDie h d f).wf d n g)

theorem State.onlyDrawn_charge {s : State} (h : SMap.wf Die.reset s.dies = true) (d : Nat) (c : Nat × Nat) : s.OnlyDrawn (s.charge d c) d := by
  unfold State.charge
  dsimp only
  split
  · exact .refl h d
  · exact State.onlyDrawn_onDie_onLaunch h d _ (List.map _) _

/-- The bytes that blocks requested on a die are accounted for (R391). -/
def State.accounted (s : State) (d : Nat) : State := { s with requested := s.requested.filter fun e => e.1 != d }

theorem State.OnlyDrawn.accounted {s t : State} {d : Nat} (h : s.OnlyDrawn t d) : (s.accounted d).OnlyDrawn (t.accounted d) d where
  rest := by unfold State.accounted; rw [h.rest]
  wf := h.wf
  others := h.others
  here := h.here

/-- The memory, link and fabric draw of a die is charged to the blocks that requested bytes there (R324, R391). -/
theorem State.onlyDrawn_chargeBytes {s : State} (h : SMap.wf Die.reset s.dies = true) (d fabric : Nat) :
    (s.accounted d).OnlyDrawn (s.chargeBytes d fabric) d :=
  State.onlyDrawn_foldl (fun _ _ hu => State.onlyDrawn_onDie_onLaunch hu d _ (List.map _) _) _ h

/-- Draws that are cut to what is left come to no more than that, and to all of them where it suffices (R3). -/
theorem foldl_clipDraws (room n : Nat) (cs : List (Nat × Nat)) :
    (clipDraws room cs).foldl (fun n c => n + c.2) n = n + min room (cs.map fun c => c.2).sum := by
  induction cs generalizing room n with
  | nil => simp [clipDraws]
  | cons c cs ih =>
    rw [clipDraws, List.foldl_cons, ih, List.map_cons, List.sum_cons]
    omega

/-- The draw of a tick within the budget: leakage and idle first, then memory, link and fabric, then the gangs (R3, R324). -/
def drawWithin (room idle fabric : Nat) (charges : List (Nat × Nat)) : Nat :=
  (clipDraws (room - min idle room - min fabric (room - min idle room)) charges).foldl (fun n c => n + c.2)
    (min idle room + min fabric (room - min idle room))

theorem drawWithin_eq (room idle fabric : Nat) (charges : List (Nat × Nat)) :
    drawWithin room idle fabric charges = min room (idle + fabric + (charges.map fun c => c.2).sum) := by
  rw [drawWithin, foldl_clipDraws]
  omega

/-- What the budget of a die leaves at its next tick (R3, R325). -/
def State.drawRoom (s : State) (d : Nat) : Nat :=
  (s.die d).enBudget.toNat - ((s.die d).usedAt ((s.die d).nextTick - 1)).toNat

/-- What a die has used after its next tick, at which it draws an amount (R324, R325). -/
def State.usedAfterTick (s : State) (d draw : Nat) : Nat :=
  let now := max s.gtime (s.die d).nextTick
  if windowOf ((s.die d).nextTick - 1) = windowOf now then ((s.die d).usedAt ((s.die d).nextTick - 1)).toNat + draw
  else ((s.die d).usedAt now).toNat

/-- The state of a die's next tick when its draws have been charged (R324). -/
def State.tickCharged (s : State) (d : Nat) (charges : List (Nat × Nat)) (idle fabric : Nat) : State :=
  let room := s.drawRoom d
  let moved := min fabric (room - min idle room)
  ((clipDraws (room - min idle room - moved) charges).foldl (fun s c => s.charge d c) (s.bring (s.die d).nextTick)).chargeBytes d moved

/-- ENERGY_PLANNER_TICK charges the draws and then sets the die's energy fields (R325). -/
theorem State.planEnergy_eq (s : State) (d : Nat) (charges : List (Nat × Nat)) (idle fabric : Nat) :
    s.planEnergy d charges idle fabric =
      let draw := drawWithin (s.drawRoom d) idle fabric charges
      (s.tickCharged d charges idle fabric).onDie d fun x =>
        { x with
          enUsed := word (s.usedAfterTick d draw)
          enWindow := windowOf (max s.gtime (s.die d).nextTick)
          planned := x.planned + 1
          lastDraw := draw
          clockMHz := nextClock x.clockMHz (s.die d).enBudget.toNat (projected (s.usedAfterTick d draw) draw (s.die d).nextTick)
          issueStopped := (s.bring (s.die d).nextTick).issueStopped d || decide ((s.die d).enBudget.toNat ≤ s.usedAfterTick d draw) } :=
  rfl

/-- The charges of a tick: GTIME is its moment, the requests of the die are accounted for, and of its dies the one has drawn. -/
theorem State.onlyDrawn_tickCharged {s : State} (h : SMap.wf Die.reset s.dies = true) (d : Nat) (charges : List (Nat × Nat)) (idle fabric : Nat) :
    ((s.bring (s.die d).nextTick).accounted d).OnlyDrawn (s.tickCharged d charges idle fabric) d := by
  have gangs : ∀ draws : List (Nat × Nat), (s.bring (s.die d).nextTick).OnlyDrawn (draws.foldl (fun s c => s.charge d c) (s.bring (s.die d).nextTick)) d :=
    fun draws => State.onlyDrawn_foldl (fun _ c hu => State.onlyDrawn_charge hu d c) draws h
  exact (gangs _).accounted.trans (State.onlyDrawn_chargeBytes (gangs _).wf d _)

/-- The effect of a tick of the energy planner on a die (R324, R325): what it has used, its window, its clock. -/
theorem State.planEnergy_spec {s : State} (h : SMap.wf Die.reset s.dies = true) (d : Nat) (charges : List (Nat × Nat)) (idle fabric : Nat) :
    let x := s.die d
    let t := s.planEnergy d charges idle fabric
    let now := max s.gtime x.nextTick
    let draw := min (s.drawRoom d) (idle + fabric + (charges.map fun c => c.2).sum)
    let used := s.usedAfterTick d draw
    t = { s with gtime := now, dies := t.dies, launches := t.launches, requested := s.requested.filter fun r => r.1 != d } ∧
    (∀ e, e ≠ d → t.die e = s.die e) ∧
    (t.die d).enUsed = word used ∧ (t.die d).enWindow = windowOf now ∧ (t.die d).planned = x.planned + 1 ∧
    (x.enBudget.toNat ≤ used → (t.die d).issueStopped = true) ∧
    (t.die d).clockMHz = nextClock x.clockMHz x.enBudget.toNat (projected used draw x.nextTick) := by
  have charged := State.onlyDrawn_tickCharged h d charges idle fabric
  dsimp only at charged ⊢
  rw [State.planEnergy_eq, drawWithin_eq]
  dsimp only
  refine ⟨?_, fun e he => ?_, ?_⟩
  · rw [charged.rest]; rfl
  · rw [State.die_onDie charged.wf, if_neg he]; exact charged.others e he
  · rw [State.die_onDie charged.wf, if_pos rfl, charged.here]
    exact ⟨rfl, rfl, rfl, fun hb => by simp [hb], rfl⟩

/-! ### Requests -/

theorem Gang.releaseStops_key (g : Gang) : g.releaseStops.key = g.key := by
  unfold Gang.releaseStops
  split <;> rfl

/-- The threads of a gang that are stopped at SAFEs go on (R308). -/
theorem Gang.releaseStops_of_not_taken {g : Gang} (h : g.taken = false) :
    g.releaseStops = g.onLanes (BitVec.allOnes 32) fun _ t => if t.atSafe then { t with cond := .runnable, bundle := none } else t := by
  rw [Gang.releaseStops, h]; rfl

/-- A gang whose request is withdrawn at its deadline (R338). -/
def Gang.requestOver (g : Gang) : Gang := { g.releaseStops with request := none }

theorem Gang.lane_requestOver {g : Gang} (h : g.taken = false) (hw : g.threads.length = 32) {j : Nat} (hj : j < 32) :
    g.requestOver.lane j =
      if (g.lane j).cond = .stopped .safePoint then { g.lane j with cond := .runnable, bundle := none } else g.lane j := by
  have e : g.requestOver.lane j = g.releaseStops.lane j := rfl
  rw [e, Gang.releaseStops_of_not_taken h, Gang.lane_onLanes hw, BitVec.getLsbD_allOnes]
  simp [hj, Thread.atSafe]

/-- PREEMPT_WATCHDOG on a standing request that is not taken (R338): GTIME is its deadline, it is withdrawn, and a record is posted. -/
theorem State.watchdog_of_request {s : State} {key deadline : Nat} (hr : s.resident key = true)
    (hq : (s.gangAt key).request = some deadline) (ht : (s.gangAt key).taken = false) :
    ∃ record, s.watchdog key = ((s.bring deadline).onGang key Gang.requestOver).post record := by
  simp only [State.watchdog, hq, hr, ht]
  exact ⟨_, rfl⟩

/-! ### The steps of time -/

/-- STALL_EXPIRY and PAUSE_EXPIRY bring the clock to the end of a count, through the regroupings on the way (R26, R104, R142). -/
theorem exec_expiry {s : State} {key k : Nat} {i : Instr} {c : Nat}
    (h : (i, c) ∈ [(Instr.stallExpiry key k, ((s.gangAt key).lane k).readyAt), (Instr.pauseExpiry key k, ((s.gangAt key).lane k).pauseUntil)]) :
    exec i s = .next (s.clockTo (max s.clock c)) := by
  simp only [List.mem_cons, List.not_mem_nil, or_false, Prod.mk.injEq] at h
  obtain ⟨rfl, rfl⟩ | ⟨rfl, rfl⟩ := h <;> rfl

theorem exec_regrouping_due {s : State} (h : s.clock % 4 = 0) (part : Nat) : exec (.regrouping part) s = .next (s.regroup part) :=
  congrArg Host.Outcome.next (if_pos h)

/-- REGROUPING between two multiples of four clocks happens at the next one (R104). -/
theorem exec_regrouping_early {s : State} (h : s.clock % 4 ≠ 0) (part : Nat) :
    exec (.regrouping part) s = .next (s.clockTo ((s.clock / 4 + 1) * 4)) :=
  congrArg Host.Outcome.next (if_neg h)

/-- LEASE_EXPIRY of a line that no die is to release, or on which a lease still runs (R206). -/
theorem State.expireLeases_of_held {s : State} {line : Nat} (h : line ∉ s.releasing ∨ s.leased line = true) :
    s.expireLeases line = { s with leases := s.unexpired line } := by
  refine if_neg fun hc => ?_
  simp only [Bool.and_eq_true, Bool.not_eq_true', List.contains_iff_mem] at hc
  obtain ⟨hmem, hleased⟩ := hc
  have hl : s.leased line = false := s.leased_unexpired line ▸ hleased
  exact h.elim (absurd hmem) fun ht => by simp [hl] at ht

/-- LEASE_EXPIRY of a pool line that its die is to release: the last lease drops it (R279). -/
theorem State.expireLeases_of_releasing {s : State} {line : Nat} (h : line ∈ s.releasing) (hl : s.leased line = false) :
    s.expireLeases line = ({ s with leases := s.unexpired line } : State).untrack line := by
  refine if_pos ?_
  simp only [Bool.and_eq_true, Bool.not_eq_true', List.contains_iff_mem]
  exact ⟨h, (s.leased_unexpired line).trans hl⟩

/-- A step that brings GTIME to a moment and changes a die there. -/
theorem State.die_bring_onDie {s : State} (h : SMap.wf Die.reset s.dies = true) (m d : Nat) (f : Die → Die) (e : Nat) :
    ((s.bring m).onDie d f).die e = if e = d then f (s.die d) else s.die e := State.die_onDie (s := s.bring m) h d e f

/-- PREEMPT_WATCHDOG of a standing request that its gang has not taken (R338): the gang goes on, and nothing else but the record changes. -/
theorem State.watchdog_spec {s : State} {key deadline : Nat} (hr : s.resident key = true)
    (hq : (s.gangAt key).request = some deadline) (ht : (s.gangAt key).taken = false) :
    ∃ t item, exec (.preemptWatchdog key) s = .next t ∧
      t = { s with gtime := max s.gtime deadline, gangs := t.gangs, faults := s.faults ++ [item] } ∧ item.who = .record ∧
      (∀ key', key' ≠ key → t.gangAt key' = s.gangAt key') ∧ t.gangAt key = (s.gangAt key).requestOver := by
  obtain ⟨record, e⟩ := State.watchdog_of_request hr hq ht
  refine ⟨_, _, congrArg Host.Outcome.next e, rfl, rfl, fun key' hne => ?_, ?_⟩
  · exact State.gangAt_onGang_other (s.bring deadline) Gang.requestOver (fun g _ => Gang.releaseStops_key g) hne
  · exact State.gangAt_onGang (s := s.bring deadline) hr Gang.requestOver fun g _ => Gang.releaseStops_key g

/-- Settles O41, step by step of time, each by its lemma above. -/
theorem timePasses : Obligations.TimePasses := by
  intro s key k hdies
  dsimp only
  refine ⟨fun i c hi => ?_, fun part => ?_, fun M hM => State.fetchLanes_of_uniform _ hM, ?_, fun line => ⟨?_, ?_⟩, rfl, fun d => ?_, fun d => ?_,
    ?_, ?_, ?_⟩
  · refine ⟨_, exec_expiry hi, s.clockTo_rest _, State.clockTo_gangs_of_no_group, fun key' hr hc => ⟨fun hgroup => ?_, fun j hj => ?_⟩⟩
    · have h := State.regrouped_clockTo hgroup hr hc.whole
      exact ⟨h.rest, h.lanes, h.bundles⟩
    · exact (s.onlyBundles_clockTo _).lanes key' hr hc.whole j hj
  · by_cases hclock : s.clock % 4 = 0
    · refine ⟨_, exec_regrouping_due hclock part, fun _ => ⟨rfl, fun key' hr hc => ⟨fun hp => ?_, fun hp => ?_⟩⟩, fun hn => absurd hclock hn⟩
      · rw [State.gangAt_regroup s part hr, if_neg hp]
      · have h := State.regrouped_regroup hp hr hc.whole
        exact ⟨h.rest, h.lanes, h.bundles⟩
    · refine ⟨_, exec_regrouping_early hclock part, fun hn => absurd hn hclock, fun _ => ⟨s.clockTo_rest _, fun key' hr hc => ?_⟩⟩
      have h := State.regrouped_clockTo (s := s) (c := (s.clock / 4 + 1) * 4) (by omega) hr hc.whole
      exact ⟨h.rest, h.lanes, h.bundles⟩
  · intro s1 pa lvl i len raw bundled aligned walks maps found
    obtain ⟨only, fresh⟩ := State.fetchStep_of_instr bundled aligned walks rfl rfl maps found
    exact ⟨_, rfl, only.rest, only.others, fresh⟩
  · intro held
    exact congrArg Host.Outcome.next (State.expireLeases_of_held held)
  · intro hmem hleased
    obtain ⟨rest, pool⟩ := State.untrack_spec (s := { s with leases := s.unexpired line }) hdies line
    exact ⟨_, congrArg Host.Outcome.next (State.expireLeases_of_releasing hmem hleased), rest, pool⟩
  · exact ⟨_, rfl, rfl, State.die_bring_onDie hdies _ d _⟩
  · refine ⟨fun hv => ?_, fun hv => ?_, fun hw => ?_, fun hw => ?_⟩
    · exact congrArg Host.Outcome.next (if_pos (by simp [hv]))
    · exact ⟨_, congrArg Host.Outcome.next (if_neg (by simp [hv])), rfl, State.die_bring_onDie hdies _ d _⟩
    · exact congrArg Host.Outcome.next (if_pos (by simp [hw]))
    · exact ⟨_, congrArg Host.Outcome.next (if_neg (by simp [hw])), rfl, State.die_bring_onDie hdies _ d _⟩
  · intro d charges idle
    exact ⟨_, rfl, State.planEnergy_spec hdies d charges idle.1 idle.2⟩
  · intro i m h hm hh
    simp only [exec, execMigrationHoldExpiry, hm, hh]
  · intro deadline hr hc hq ht
    obtain ⟨t, item, step, rest, record, others, gang⟩ := State.watchdog_spec hr hq ht
    refine ⟨t, item, step, rest, record, others, ?_, fun j hj => ?_⟩
    · rw [gang, Gang.requestOver, Gang.releaseStops_of_not_taken ht]; rfl
    · rw [gang]; exact Gang.lane_requestOver ht hc.whole hj

end Sys2Proof.Machine
end

section
/-! SUPPORT. The checks that instructions share (R44): when each of them finds nothing, what it traps, and what they answer together. With them what a
zeroing compare leaves where its checks pass in no lane (R187), and on which free values ChecksPassOrTrap rests. -/

namespace Sys2Proof.Machine

/-! ### The guard (R11) -/

theorem State.guarded_iff (s : State) (g : Guard) (k : Nat) :
    (s.guarded g).getLsbD k = true ↔ s.cur.lanes.getLsbD k = true ∧ s.regP k (s.cl k) g.p.toNat ≠ g.neg := by
  rw [State.guarded, getLsbD_those, Bool.and_eq_true, bne_iff_ne]

theorem State.guarded_eq_zero {s : State} {g : Guard} (h : ∀ k, s.cur.lanes.getLsbD k = true → s.regP k (s.cl k) g.p.toNat = g.neg) :
    s.guarded g = 0 :=
  those_eq_zero.mpr fun k hk => by rw [h k hk, bne_self_eq_false]

/-- p7 reads true (R22), unless it is held to be the register of a result on its way and the free choice of R26 falls on the value from before. -/
theorem State.regP_seven {s : State} {k : Nat} {t : Thread}
    (h : t.early (.p 7) s.clock = none ∨ s.freeBool (k * 512 + regCode (.p 7)) = false) : s.regP k t 7 = true := by
  have new : s.pick k t (.p 7) 1 = 1 := by
    unfold State.pick
    split
    · rfl
    · next x hx =>
      have old := h.resolve_left fun none => by rw [none] at hx; cases hx
      rw [old]; rfl
  show (s.pick k t (.p 7) 1 == 1) = true
  rw [new]; rfl

theorem State.regP_seven_of_early {s : State} {k : Nat} {t : Thread} {x : Tracked} (hx : t.early (.p 7) s.clock = some x)
    (hf : s.freeBool (k * 512 + regCode (.p 7)) = true) : s.regP k t 7 = (x.old == 1) := by
  simp only [State.regP, State.pick, hx, hf, if_true]

/-! ### Each check -/

/-- A direct field names a d register at or above the allotment (R24, R25). -/
def State.NamesBeyond (s : State) (op : Nat) (o : Ops) : Prop := ∃ n, Dest.d n ∈ readsOf op o ++ writesOf op o ∧ s.cg.allot ≤ n

theorem any_beyond_iff {rs : List Dest} {a : Nat} : (rs.any fun r => r.beyond a) = true ↔ ∃ n, Dest.d n ∈ rs ∧ a ≤ n := by
  rw [List.any_eq_true]
  constructor
  · rintro ⟨r, hr, hb⟩
    cases r with
    | d n => exact ⟨n, hr, of_decide_eq_true hb⟩
    | g n | h n | p n | frame n | none => cases hb
  · rintro ⟨n, hn, ha⟩
    exact ⟨.d n, hn, decide_eq_true ha⟩

theorem State.directBounds_of_not_beyond {s : State} {op : Nat} {o : Ops} (hop : op ≠ 0xE6) (h : ¬s.NamesBeyond op o) :
    s.directBounds op o = none := by
  have fields : ((readsOf op o ++ writesOf op o).any fun r => r.beyond s.cg.allot) = false :=
    Bool.eq_false_iff.mpr fun hb => h (any_beyond_iff.mp hb)
  unfold State.directBounds
  simp only [fields, beq_false_of_ne hop, Bool.false_and, Bool.or_false, Bool.false_eq_true, if_false]

theorem State.directBounds_of_beyond {s : State} {op : Nat} {o : Ops} (h : s.NamesBeyond op o) :
    s.directBounds op o = some { cause := .regIndexBounds, mask := s.cur.lanes, addr := s.freeAddr, info := s.freeInfo } := by
  unfold State.directBounds
  simp only [any_beyond_iff.mpr h, Bool.true_or, if_true]

theorem State.stallCheck_off {s : State} {op : Nat} {o : Ops} (h : s.cg.stallChk = false) : s.stallCheck op o = none := by
  unfold State.stallCheck
  rw [h]; rfl

theorem State.indirectBounds_of_within {s : State} {o : Ops} {L : Mask}
    (h : ∀ k, L.getLsbD k = true → o.ix = true → aNum o (s.cl k) < s.cg.allot) : s.indirectBounds o L = none := by
  refine if_neg (not_not_intro (those_eq_zero.mpr fun k hk => ?_))
  cases hix : o.ix
  · rfl
  · simpa using h k hk hix

/-- An indexed srcA traps the lanes in which it is at or above the allotment (R24, R35). -/
theorem State.indirectBounds_of_beyond {s : State} {o : Ops} {L : Mask} (hix : o.ix = true)
    (h : ∃ k, L.getLsbD k = true ∧ s.cg.allot ≤ aNum o (s.cl k)) :
    ∃ r, s.indirectBounds o L = some r ∧ r.cause = .regIndexBounds ∧
      ∀ k, r.mask.getLsbD k = true ↔ L.getLsbD k = true ∧ s.cg.allot ≤ aNum o (s.cl k) := by
  obtain ⟨j, hj, hbeyond⟩ := h
  refine ⟨_, if_pos fun none => ?_, rfl, fun k => ?_⟩
  · have within := those_eq_zero.mp none j hj
    simp [hix, hbeyond] at within
  · simp [hix]

theorem State.failedToken_of_none {s : State} (h : s.cg.gFailed = []) (L : Mask) (rs : List Dest) : s.failedToken L rs = none := by
  induction rs with
  | nil => rfl
  | cons r rs ih =>
    cases r with
    | g n => simp only [State.failedToken, h, List.find?_nil, ih]
    | d n | h n | p n | frame n | none => exact ih

theorem State.sharedChecks_no_lane (s : State) (op : Nat) (o : Ops) : s.sharedChecks op o 0 = none := rfl

theorem State.sharedChecks_off {s : State} (hshadow : s.cg.shadowOf = none) (huninit : s.cg.uninitChk = false) (hfailed : s.cg.gFailed = [])
    (op : Nat) (o : Ops) (L : Mask) : s.sharedChecks op o L = none := by
  unfold State.sharedChecks
  simp only [hshadow, huninit, State.failedToken_of_none hfailed, Option.isSome_none, Bool.false_and, Bool.false_eq_true, if_false, ite_self]

/-! ### All of them -/

theorem State.checks_ok {s : State} {op : Nat} {o : Ops} (hdirect : s.directBounds op o = none) (hstall : s.stallCheck op o = none)
    (hindirect : s.indirectBounds o (s.guarded o.guard) = none) (hshared : s.sharedChecks op o (s.guarded o.guard) = none) :
    s.checks op o = .ok (s.guarded o.guard) := by
  simp only [State.checks, hdirect, hstall, hindirect, hshared]

theorem State.checks_direct {s : State} {op : Nat} {o : Ops} {r : TrapReq} (h : s.directBounds op o = some r) : s.checks op o = .error r := by
  simp only [State.checks, h]

theorem State.checks_indirect {s : State} {op : Nat} {o : Ops} {r : TrapReq} (hdirect : s.directBounds op o = none)
    (hstall : s.stallCheck op o = none) (hindirect : s.indirectBounds o (s.guarded o.guard) = some r) : s.checks op o = .error r := by
  simp only [State.checks, hdirect, hstall, hindirect]

/-- In no lane nothing is left to check but the direct fields (R25). -/
theorem State.checks_no_lane {s : State} {op : Nat} {o : Ops} (hdirect : s.directBounds op o = none) (hstall : s.stallCheck op o = none)
    (h : s.guarded o.guard = 0) : s.checks op o = .ok 0 := by
  rw [State.checks_ok hdirect hstall (State.indirectBounds_of_within fun k hk => ?_) (by rw [h]; exact s.sharedChecks_no_lane op o), h]
  rw [h] at hk
  simp at hk

theorem State.issueFlow_checks_trap {s : State} {op : Nat} {o : Ops} {r : TrapReq} (hc : s.checks op o = .error r)
    (body : Mask → Except TrapReq State) : s.issueFlow op o body = s.trap r := by
  simp only [State.issueFlow, hc]

/-! ### Writing a pair of predicates -/

theorem Thread.resultP_resultP_eq (t : Thread) (n m : Nat) (a b : Bool) (lat clock : Nat) (pc : Word) :
    (t.resultP n a lat clock pc).resultP m b lat clock pc =
      { t with p := ((t.resultP n a lat clock pc).resultP m b lat clock pc).p,
               tracked := ((t.resultP n a lat clock pc).resultP m b lat clock pc).tracked } := by
  rw [Thread.resultP_eq (t.resultP n a lat clock pc) m b, Thread.resultP_eq t n a]

theorem Thread.getP_resultP_resultP (t : Thread) (n m j : Nat) (a b : Bool) (lat clock : Nat) (pc : Word) :
    ((t.resultP n a lat clock pc).resultP m b lat clock pc).getP j
      = if (j = n ∨ j = m) ∧ j < 7 then (if j = m then b else a) else t.getP j := by
  rw [Thread.getP_resultP, Thread.getP_resultP]
  by_cases h7 : j < 7
  · have first : (j = n ∧ n < 7) ↔ j = n := and_iff_left_of_imp fun e => e ▸ h7
    have second : (j = m ∧ m < 7) ↔ j = m := and_iff_left_of_imp fun e => e ▸ h7
    simp only [first, second, h7, and_true]
    by_cases hm : j = m
    · simp only [hm, or_true, if_true]
    · simp only [hm, or_false, if_false]
  · have first : ¬(j = n ∧ n < 7) := fun ⟨e, hn⟩ => h7 (e ▸ hn)
    have second : ¬(j = m ∧ m < 7) := fun ⟨e, hm⟩ => h7 (e ▸ hm)
    simp only [first, second, h7, and_false, if_false]

theorem State.Whole.writePair {s : State} (h : s.Whole) (o : Ops) (m : Mask) (lat : Nat) (v : Nat → Bool × Bool) : (s.writePair o m lat v).Whole :=
  h.onLanes m _

theorem State.getP_writePair {s : State} (h : s.Whole) (o : Ops) (m : Mask) (lat : Nat) (v : Nat → Bool × Bool) (k n : Nat) :
    ((s.writePair o m lat v).cl k).getP n = if pairOf o m k n then pairValue o v k n else (s.cl k).getP n := by
  rw [State.writePair, State.cl_onLanes h]
  cases hmk : m.getLsbD k
  · simp [pairOf, hmk]
  · rw [if_pos rfl, Thread.getP_resultP_resultP]
    simp [pairOf, pairValue, hmk]

theorem State.getP_advance {s : State} (h : s.Whole) (stall : Nat) (yld : Bool) (k n : Nat) :
    ((s.advance stall yld).cl k).getP n = (s.cl k).getP n := by
  rw [State.cl_advance h]
  split <;> rfl

theorem State.getP_onLanes_raise {s : State} (h : s.Whole) {key : Nat} (hkey : key = s.cur.gang) (m : Mask) (fl : Nat → FFlags) (k n : Nat) :
    ((s.onLanes key m fun k t => t.raise (fl k)).cl k).getP n = (s.cl k).getP n := by
  rw [hkey, State.cl_onLanes h]
  split <;> rfl

/-- A pair of predicates is written in some lanes of the bundle, which goes on. -/
theorem State.writePair_advance {s : State} (h : s.Whole) {m : Mask} (hm : ∀ k, m.getLsbD k = true → s.cur.lanes.getLsbD k = true)
    (o : Ops) (lat : Nat) (v : Nat → Bool × Bool) :
    s.WroteLanes ((s.writePair o m lat v).advance o.stall.toNat o.yld) o noReg (fun _ _ => 0) (pairOf o m) (pairValue o v)
      (fun _ => 0) (fun _ => false) := by
  have lane := State.cl_onLanes_advance h m (fun k t => (t.resultP (o.dst.toNat % 8) (v k).1 lat s.clock s.cur.pc).resultP (o.dst.toNat / 8 % 8)
    (v k).2 lat s.clock s.cur.pc) o.stall.toNat o.yld
  refine { toOnlyBundle := State.onLanes_advance_bundle h hm _ _ _, on := fun k hk => ?_, only := fun k hk => ?_, d := fun k n hk => ?_,
           valid := fun k n hk _ => ?_, p := fun k n hk => ?_, flags := fun k hk => ?_, reserved := fun k hk => ?_ }
  case refine_5 => rw [State.getP_advance (h.writePair o m lat v), State.getP_writePair h]
  all_goals rw [State.writePair, lane k hk]
  · rw [Thread.resultP_resultP_eq]
    constructor <;> (split <;> rfl)
  · rw [Thread.resultP_resultP_eq]
    unfold Thread.RegistersOnly
    split <;> rfl
  · rw [Thread.resultP_resultP_eq]
    split <;> rfl
  · rw [Thread.resultP_resultP_eq]
    split <;> rfl
  · rw [Thread.resultP_resultP_eq]
    refine Eq.trans ?_ (BitVec.or_zero).symm
    split <;> rfl
  · rw [Thread.resultP_resultP_eq, Bool.or_false]
    split <;> rfl

/-! ### Compares (R187) -/

theorem State.onLanes_zero (s : State) (key : Nat) (f : Nat → Thread → Thread) : s.onLanes key 0 f = s := by
  unfold State.onLanes State.onGang
  simp only [Gang.onLanes_zero, ite_self, List.map_id']

/-- A zeroing compare in no lane clears its pair in every lane of the bundle. -/
theorem State.compare_no_lane {s : State} {op : Nat} {o : Ops} (hz : o.opmod.toNat / 2 = 1) (hc : s.checks op o = .ok 0)
    (f : Nat → Bool × FFlags) :
    s.compare op o f = (s.writePair o s.cur.lanes 4 fun _ => (false, false)).advance o.stall.toNat o.yld := by
  refine State.issue_ok hc ?_
  have all : s.cur.lanes &&& ~~~(0 : Mask) = s.cur.lanes := BitVec.and_allOnes
  have none : ∀ v, s.writePair o 0 4 v = s := fun v => State.onLanes_zero s _ _
  simp only [hz, if_true, all, none, State.onLanes_zero]

theorem State.predicateResult_of_compare_no_lane {s : State} {i : Instr} {op : Nat} {o : Ops} {f : Nat → Bool × FFlags} (h : s.Whole)
    (he : exec i s = .next (s.compare op o f)) (hz : o.opmod.toNat / 2 = 1) (hc : s.checks op o = .ok 0) :
    s.PredicateResult i o (pairOf o s.cur.lanes) (pairValue o fun _ => (false, false)) (fun _ => 0) :=
  ⟨_, he.trans (congrArg _ (State.compare_no_lane hz hc f)), State.writePair_advance h (fun _ hk => hk) o 4 _⟩

/-- What a compare does to the predicates of its bundle. -/
theorem State.getP_compare {s : State} {op : Nat} {o : Ops} {L : Mask} (h : s.Whole) (hc : s.checks op o = .ok L) (f : Nat → Bool × FFlags)
    (k n : Nat) :
    ((s.compare op o f).cl k).getP n =
      if o.opmod.toNat / 2 = 1 ∧ pairOf o (s.cur.lanes &&& ~~~L) k n then false
      else if pairOf o L k n then
        pairValue o (fun k => combinePair o.opmod.toNat (f k).1 (s.regP k (s.cl k) (o.dst.toNat % 8)) (s.regP k (s.cl k) (o.dst.toNat / 8 % 8))) k n
      else (s.cl k).getP n := by
  have pair := fun v => h.writePair o L 4 v
  have raised : ∀ v, ((s.writePair o L 4 v).onLanes s.cur.gang L fun k t => t.raise (f k).2).Whole := fun v => (pair v).onLanes L _
  have raise := fun v => State.getP_onLanes_raise (pair v) (key := s.cur.gang) rfl L fun k => (f k).2
  rw [State.compare, State.issue_ok hc rfl]
  by_cases hz : o.opmod.toNat / 2 = 1
  · simp only [hz, if_true, true_and]
    rw [State.getP_advance ((raised _).writePair o _ 4 _), State.getP_writePair (raised _), raise, State.getP_writePair h]
    simp [pairValue]
  · simp only [hz, if_false, false_and]
    rw [State.getP_advance (raised _), raise, State.getP_writePair h]

/-! ### ChecksPassOrTrap and the free values -/

/-- Under ?!p7 no lane is guarded (R11), where p7 reads true. -/
theorem State.guarded_never {s : State} {g : Guard} (hg : g = ⟨true, 7⟩)
    (h : ∀ k, s.cur.lanes.getLsbD k = true → (s.cl k).early (.p 7) s.clock = none ∨ s.freeBool (k * 512 + regCode (.p 7)) = false) :
    s.guarded g = 0 := by
  subst hg
  exact State.guarded_eq_zero fun k hk => State.regP_seven (h k hk)

/-- A zeroing compare under ?!p7 clears its pair in every lane of the bundle (assumption 71), where p7 reads true. -/
theorem State.predicateResult_of_compare_never {s : State} {i : Instr} {op : Nat} {o : Ops} {f : Nat → Bool × FFlags} {L : Mask} (hi : s.Issuing)
    (he : exec i s = .next (s.compare op o f)) (hg : o.guard = ⟨true, 7⟩) (hz : o.opmod.toNat / 2 = 1) (hc : s.checks op o = .ok L)
    (h : ∀ k, s.cur.lanes.getLsbD k = true → (s.cl k).early (.p 7) s.clock = none ∨ s.freeBool (k * 512 + regCode (.p 7)) = false) :
    s.PredicateResult i o (pairOf o s.cur.lanes) (pairValue o fun _ => (false, false)) (fun _ => 0) := by
  have none : L = 0 := (State.checks_guarded hc).trans (State.guarded_never hg h)
  exact State.predicateResult_of_compare_no_lane hi.toWhole he hz (none ▸ hc)

/-- A failed check is a trap of the instruction, and nothing else happens (R44). -/
theorem exec_of_checks_trap {s : State} {i : Instr} {op : Nat} {o : Ops} {r : TrapReq}
    (hi : (i, op) ∈
        [(Instr.iadd o, 0x00), (.imad o, 0x04), (.sel o, 0x23), (.fadd o, 0x40), (.fdiv o, 0x4B), (.fcvt o, 0x55), (.vdot o, 0x80), (.vperm o, 0x84),
         (.xshfl o, 0xA0), (.xred o, 0xA2), (.icmp o, 0xA7), (.pand o, 0xA9), (.bra o, 0xC0), (.call o, 0xC2), (.exit o, 0xC5), (.barx o, 0xE3),
         (.csrr o, 0x1C3)])
    (hc : s.checks op o = .error r) : exec i s = .next (s.trap r) := by
  have issue := fun body => congrArg (Host.Outcome.next (φ := Fault) (ρ := Refusal)) (State.checks_trap hc body)
  have flow := fun body => congrArg (Host.Outcome.next (φ := Fault) (ρ := Refusal)) (State.issueFlow_checks_trap hc body)
  simp only [List.mem_cons, List.not_mem_nil, or_false, Prod.mk.injEq] at hi
  obtain ⟨rfl, rfl⟩ | ⟨rfl, rfl⟩ | ⟨rfl, rfl⟩ | ⟨rfl, rfl⟩ | ⟨rfl, rfl⟩ | ⟨rfl, rfl⟩ | ⟨rfl, rfl⟩ | ⟨rfl, rfl⟩ | ⟨rfl, rfl⟩ | ⟨rfl, rfl⟩ |
    ⟨rfl, rfl⟩ | ⟨rfl, rfl⟩ | ⟨rfl, rfl⟩ | ⟨rfl, rfl⟩ | ⟨rfl, rfl⟩ | ⟨rfl, rfl⟩ | ⟨rfl, rfl⟩ := hi
  iterate 12 · exact issue _
  iterate 3 · exact flow _
  iterate 2 · exact issue _

/-- A thread that is held to wait for a result in p7, whose value from before is 0. Thread.resultP tracks no p7, but State.Issuing
allows it. -/
def threadAwaitingP7 : Thread :=
  { Thread.start (word progVa) 1 0 0 .runnable with bundle := some 0, tracked := [{ reg := .p 7, ready := 1, producer := 0, old := 0 }] }

/-- A bundle of 32 such threads, whose free values are those of a state. -/
def State.awaitingP7 (s : State) : State :=
  { State.reset with
    gangs := [Gang.start 0 1 0 0 128 progPacket.xlate 0 (List.replicate 32 threadAwaitingP7) 0]
    cur := { gang := 0, lanes := BitVec.allOnes 32, pc := word progVa, len := 8, raw := 0 }
    clock := 0, freeCtr := s.freeCtr }

/-- The fields of ?!p7 ICMP.EQ.ZG of d0 and d0 into p0 and p1. -/
def neverZeroing : Ops := { plainOps with guard := ⟨true, 7⟩, dst := 8, ty := .i64, opmod := 2 }

theorem State.issuing_awaitingP7 (s : State) : s.awaitingP7.Issuing where
  resident := rfl
  canonical := {
    whole := rfl
    regs := rfl
    m := rfl
    arrive := rfl
    threads := fun _ ht => List.eq_of_mem_replicate ht ▸ canonical_of_noRegisters rfl rfl rfl }

theorem State.lanes_awaitingP7 (s : State) {k : Nat} (hk : k < 32) : s.awaitingP7.cur.lanes.getLsbD k = true := by
  show (BitVec.allOnes 32).getLsbD k = true
  rw [BitVec.getLsbD_allOnes]
  exact decide_eq_true hk

theorem State.cl_awaitingP7 (s : State) {k : Nat} (hk : k < 32) : s.awaitingP7.cl k = threadAwaitingP7 :=
  List.getD_replicate _ hk

theorem State.checks_awaitingP7 (s : State) :
    s.awaitingP7.checks 0xA7 neverZeroing = .ok (s.awaitingP7.guarded neverZeroing.guard) := by
  refine State.checks_ok (State.directBounds_of_not_beyond (by decide) ?_) (State.stallCheck_off rfl)
    (State.indirectBounds_of_within fun _ _ hix => nomatch hix) (State.sharedChecks_off rfl rfl rfl _ _ _)
  have fields : ((readsOf 0xA7 neverZeroing ++ writesOf 0xA7 neverZeroing).any fun r => r.beyond 128) = false := by decide
  exact fun hb => Bool.eq_false_iff.mp fields (any_beyond_iff.mpr hb)

/-- Where the free choice falls on the value from before, the compare is executed in the lane, and finds d0 equal to itself. -/
theorem State.getP_compare_awaitingP7 {s : State} {k : Nat} (hk : k < 32) (hf : s.freeBool (k * 512 + regCode (.p 7)) = true) :
    ∃ t, exec (.icmp neverZeroing) s.awaitingP7 = .next t ∧ (t.cl k).getP 0 = true := by
  have hlane := s.lanes_awaitingP7 hk
  have hp7 : s.awaitingP7.regP k (s.awaitingP7.cl k) 7 = false := by
    rw [State.cl_awaitingP7 s hk]
    exact State.regP_seven_of_early (s := s.awaitingP7) (t := threadAwaitingP7) rfl hf
  have hL : (s.awaitingP7.guarded neverZeroing.guard).getLsbD k = true :=
    (State.guarded_iff _ _ k).mpr ⟨hlane, by
      show s.awaitingP7.regP k (s.awaitingP7.cl k) 7 ≠ true
      rw [hp7]; decide⟩
  refine ⟨_, rfl, ?_⟩
  rw [State.getP_compare s.issuing_awaitingP7.toWhole s.checks_awaitingP7]
  have written : pairOf neverZeroing (s.awaitingP7.guarded neverZeroing.guard) k 0 = true := by
    rw [pairOf, hL]; rfl
  have outside : pairOf neverZeroing (s.awaitingP7.cur.lanes &&& ~~~(s.awaitingP7.guarded neverZeroing.guard)) k 0 = false := by
    simp [pairOf, hL]
  rw [if_neg (by simp [outside]), if_pos written]
  show icmpCond 0 (valueOf .i64 (sub (s.awaitingP7.opA neverZeroing k) 64 0)) (valueOf .i64 (sub (s.awaitingP7.opA neverZeroing k) 64 0)) = true
  simp [icmpCond]

/-- ChecksPassOrTrap holds, where no free choice of R26 falls on the old value of p7. -/
theorem checksPassOrTrap_of_freeBool (h : ∀ (s : State) k, k < 32 → s.freeBool (k * 512 + regCode (.p 7)) = false) :
    Obligations.ChecksPassOrTrap := by
  intro s op o guarded direct
  have hguard : ∀ k, (s.guarded o.guard).getLsbD k = true ↔ guarded k := s.guarded_iff o.guard
  refine ⟨fun hop hd hs hix hshadow huninit hfailed => ?_, fun hop hd hs hg => ?_, fun hd => ?_, fun hop hd hs hbad => ?_,
    fun i r hi hc => exec_of_checks_trap hi hc, fun i L hi _ issuing hg hz hc => ?_⟩
  · exact ⟨_, State.checks_ok (State.directBounds_of_not_beyond hop hd) (State.stallCheck_off hs)
      (State.indirectBounds_of_within fun k hk => hix k ((hguard k).mp hk)) (State.sharedChecks_off hshadow huninit hfailed op o _), hguard⟩
  · have none := State.guarded_eq_zero (s := s) (g := o.guard) fun k hk => by_contra fun ne => hg k ⟨hk, ne⟩
    exact State.checks_no_lane (State.directBounds_of_not_beyond hop hd) (State.stallCheck_off hs) none
  · exact ⟨_, State.checks_direct (State.directBounds_of_beyond hd), rfl, rfl⟩
  · obtain ⟨j, hj, hix, hbeyond⟩ := hbad
    obtain ⟨r, hr, hcause, hmask⟩ := State.indirectBounds_of_beyond hix ⟨j, (hguard j).mpr hj, hbeyond⟩
    refine ⟨r, State.checks_indirect (State.directBounds_of_not_beyond hop hd) (State.stallCheck_off hs) hr, hcause, fun k => ?_⟩
    rw [hmask, hguard]
  · have free : ∀ k, s.cur.lanes.getLsbD k = true → (s.cl k).early (.p 7) s.clock = none ∨ s.freeBool (k * 512 + regCode (.p 7)) = false :=
      fun k hk => .inr (h s k (BitVec.lt_of_getLsbD hk))
    simp only [List.mem_cons, List.not_mem_nil, or_false, Prod.mk.injEq] at hi
    obtain ⟨rfl, rfl⟩ | ⟨rfl, rfl⟩ := hi
    · exact State.predicateResult_of_compare_never issuing rfl hg hz hc free
    · exact State.predicateResult_of_compare_never issuing rfl hg hz hc free

theorem freeBool_of_checksPassOrTrap (h : Obligations.ChecksPassOrTrap) (s : State) {k : Nat} (hk : k < 32) :
    s.freeBool (k * 512 + regCode (.p 7)) = false := by
  by_contra hf
  obtain ⟨t, step, hp0⟩ := State.getP_compare_awaitingP7 hk (Bool.eq_true_of_not_eq_false hf)
  obtain ⟨-, -, -, -, -, compare⟩ := h s.awaitingP7 0xA7 neverZeroing
  obtain ⟨u, step', wrote⟩ := compare _ _ List.mem_cons_self (by decide) s.issuing_awaitingP7 rfl rfl s.checks_awaitingP7
  obtain rfl : t = u := Host.Outcome.next.inj (step.symm.trans step')
  have hlane := s.lanes_awaitingP7 hk
  have cleared := wrote.p k 0 hlane
  have written : pairOf neverZeroing s.awaitingP7.cur.lanes k 0 = true := by rw [pairOf, hlane]; rfl
  rw [hp0, if_pos written] at cleared
  cases cleared

/-- O60 stays open, and this is why: under ?!p7 its last clause takes every lane to be unguarded; but State.Issuing allows a lane that holds p7 to be on
its way, and a read of p7 is then the free choice of R26. Config.freeBit is opaque, so no proof can learn how that choice falls, and neither O60 nor its
negation has one. A hypothesis that no lane holds p7 to be on its way would close the gap (State.predicateResult_of_compare_never). -/
theorem checksPassOrTrap_iff :
    Obligations.ChecksPassOrTrap ↔ ∀ (s : State) k, k < 32 → s.freeBool (k * 512 + regCode (.p 7)) = false :=
  ⟨fun h s _ hk => freeBool_of_checksPassOrTrap h s hk, checksPassOrTrap_of_freeBool⟩

end Sys2Proof.Machine
end

section
/-! SUPPORT. Floating-point instructions (R169 to R174), and O5. -/

namespace Sys2Proof.Machine

/-- A floating-point instruction delivers its step of the elements' bits, with the flags of the step. -/
theorem State.flaggedResult_felems {s : State} {op lat : Nat} {o : Ops} {L : Mask} {i : Instr} {f : Nat → Nat → Nat → Nat × FFlags}
    (hi : s.Issuing) (hc : s.checks op o = .ok L) (he : exec i s = .next (s.laneStep op o lat (s.felems o f))) :
    s.FlaggedResult i o L
      (fun k j => f (sub (s.opA o k) o.ty.width j) (sub (s.opB o k) o.ty.width j) (sub (s.opC o k) o.ty.width j)) (fun _ => false) :=
  State.flaggedResult_of lat hi hc he fun _ => rfl

/-- Settles O5: each instruction of the list is an issue of State.felems for its step, the compact forms for the fields of their S64 forms. -/
theorem floatElementResults : Obligations.FloatElementResults := by
  intro s L o p c i op f issuing fm fc row checks
  have deliver : ∀ {lat : Nat}, exec i s = .next (s.laneStep op p lat (s.felems p f)) → s.FlaggedResult i p L _ _ :=
    State.flaggedResult_felems issuing checks
  simp only [List.mem_cons, List.not_mem_nil, or_false, Prod.mk.injEq] at row
  obtain ⟨rfl, rfl, rfl, rfl⟩ | ⟨rfl, rfl, rfl, rfl⟩ | ⟨rfl, rfl, rfl, rfl⟩ | ⟨rfl, rfl, rfl, rfl⟩ | ⟨rfl, rfl, rfl, rfl⟩ |
    ⟨rfl, rfl, rfl, rfl⟩ | ⟨rfl, rfl, rfl, rfl⟩ | ⟨rfl, rfl, rfl, rfl⟩ | ⟨rfl, rfl, rfl, rfl⟩ | ⟨rfl, rfl, rfl, rfl⟩ |
    ⟨rfl, rfl, rfl, rfl⟩ | ⟨rfl, rfl, rfl, rfl⟩ | ⟨rfl, rfl, rfl, rfl⟩ | ⟨rfl, rfl, rfl, rfl⟩ | ⟨rfl, rfl, rfl, rfl⟩ |
    ⟨rfl, rfl, rfl, rfl⟩ | ⟨rfl, rfl, rfl, rfl⟩ | ⟨rfl, rfl, rfl, rfl⟩ | ⟨rfl, rfl, rfl, rfl⟩ | ⟨rfl, rfl, rfl, rfl⟩ |
    ⟨rfl, rfl, rfl, rfl⟩ | ⟨rfl, rfl, rfl, rfl⟩ | ⟨rfl, rfl, rfl, rfl⟩ | ⟨rfl, rfl, rfl, rfl⟩ | ⟨rfl, rfl, rfl, rfl⟩ |
    ⟨rfl, rfl, rfl, rfl⟩ | ⟨rfl, rfl, rfl, rfl⟩ := row
  all_goals exact deliver rfl

end Sys2Proof.Machine
end

section
/-! SUPPORT. Numbers of integer types (R45), the trees and scans of R66 and R67 over segments of lanes, and O11. -/

namespace Sys2Proof.Machine

/-! ### Numbers of integer types (R45) -/

theorem signedOf_emod (w v : Nat) : signedOf w v % (2 ^ w : Nat) = (v : Int) % (2 ^ w : Nat) := by
  unfold signedOf
  split
  · rw [Int.sub_emod_right, Int.natCast_emod, Int.emod_emod_of_dvd _ dvd_rfl]
  · rw [Int.natCast_emod, Int.emod_emod_of_dvd _ dvd_rfl]

/-- The number that an element stands for is the element modulo 2^w. -/
theorem valueOf_emod (t : Ty) (v : Nat) : valueOf t v % (2 ^ t.width : Nat) = (v : Int) % (2 ^ t.width : Nat) := by
  unfold valueOf
  split
  · exact signedOf_emod t.width v
  · rw [Int.natCast_emod, Int.emod_emod_of_dvd _ dvd_rfl]

theorem natCast_wrapTo (w : Nat) (z : Int) : (wrapTo w z : Int) = z % (2 ^ w : Nat) :=
  Int.toNat_of_nonneg (Int.emod_nonneg _ (by positivity))

theorem wrapTo_congr {w : Nat} {y z : Int} (h : y % (2 ^ w : Nat) = z % (2 ^ w : Nat)) : wrapTo w y = wrapTo w z := by
  rw [wrapTo, wrapTo, h]

theorem wrapTo_natCast (w n : Nat) : wrapTo w (n : Int) = n % 2 ^ w := by
  rw [wrapTo, ← Int.natCast_emod, Int.toNat_natCast]

theorem wrapTo_lt (w : Nat) (z : Int) : wrapTo w z < 2 ^ w := by
  have h := Int.emod_lt_of_pos z (b := (2 ^ w : Nat)) (by positivity)
  rw [← natCast_wrapTo] at h
  exact_mod_cast h

/-- An element is its number, wrapped. -/
theorem wrapTo_valueOf (t : Ty) {v : Nat} (h : v < 2 ^ t.width) : wrapTo t.width (valueOf t v) = v := by
  rw [wrapTo_congr (valueOf_emod t v), wrapTo_natCast, Nat.mod_eq_of_lt h]

theorem valueOf_wrapTo_emod (t : Ty) (z : Int) : valueOf t (wrapTo t.width z) % (2 ^ t.width : Nat) = z % (2 ^ t.width : Nat) := by
  rw [valueOf_emod, natCast_wrapTo, Int.emod_emod_of_dvd _ dvd_rfl]

theorem Ty.isFloat_of_isInt {t : Ty} (h : t.isInt = true) : t.isFloat = false := by
  revert h
  cases t <;> decide

/-! ### Segments of lanes -/

/-- The numbers i to i + n, put together from the left. -/
def segment (g : Int → Int → Int) (y : Nat → Int) (i : Nat) : Nat → Int
  | 0 => y i
  | n + 1 => g (segment g y i n) (y (i + n + 1))

/-- Two adjacent segments make one. -/
theorem segment_append {g : Int → Int → Int} (assoc : ∀ a b c, g (g a b) c = g a (g b c)) (y : Nat → Int) (i m n : Nat) :
    g (segment g y i m) (segment g y (i + m + 1) n) = segment g y i (m + n + 1) := by
  induction n with
  | zero => rfl
  | succ n ih =>
    have place : i + m + 1 + n + 1 = i + (m + n + 1) + 1 := by omega
    rw [segment, ← assoc, ih, place]
    rfl

/-- Of an operation that chooses one of two numbers, a segment is one of its numbers. -/
theorem exists_segment_eq {g : Int → Int → Int} (choice : ∀ a b, g a b = a ∨ g a b = b) (y : Nat → Int) (i n : Nat) :
    ∃ j, segment g y i n = y j := by
  induction n with
  | zero => exact ⟨i, rfl⟩
  | succ n ih =>
    obtain ⟨j, hj⟩ := ih
    rcases choice (segment g y i n) (y (i + n + 1)) with h | h
    · exact ⟨j, h.trans hj⟩
    · exact ⟨i + n + 1, h⟩

theorem sum_range_eq_segment (y : Nat → Int) (n : Nat) : ((List.range (n + 1)).map y).sum = segment (· + ·) y 0 n := by
  induction n with
  | zero => simp [segment]
  | succ n ih =>
    rw [List.range_succ, List.map_append, List.sum_append, ih, segment]
    simp

theorem foldl_range_eq_segment {g : Int → Int → Int} (idem : ∀ a, g a a = a) (y : Nat → Int) (n : Nat) :
    (List.range (n + 1)).foldl (fun m j => g m (y j)) (y 0) = segment g y 0 n := by
  induction n with
  | zero => exact idem (y 0)
  | succ n ih =>
    rw [List.range_succ, List.foldl_append, ih, segment]
    simp

/-! ### Trees and scans over segments (R66, R67) -/

section
variable {f : Nat → Nat → Nat × FFlags} {x : Nat → Nat} {S : Nat → Nat → Nat}

/-- A tree's element holds what its segment of lanes does. -/
theorem treeAt_eq_segment (one : ∀ i, S i 0 = x i) (join : ∀ i m n, (f (S i m) (S (i + m + 1) n)).1 = S i (m + n + 1)) (l i : Nat) :
    treeAt f x l i = S (i * 2 ^ l) (2 ^ l - 1) := by
  induction l generalizing i with
  | zero => simp [treeAt, one]
  | succ l ih =>
    have pos : 0 < 2 ^ l := Nat.two_pow_pos l
    have left : 2 * i * 2 ^ l = i * 2 ^ (l + 1) := by ring
    have right : (2 * i + 1) * 2 ^ l = i * 2 ^ (l + 1) + (2 ^ l - 1) + 1 := by rw [Nat.add_mul, left]; omega
    have whole : 2 ^ l - 1 + (2 ^ l - 1) + 1 = 2 ^ (l + 1) - 1 := by rw [Nat.pow_succ]; omega
    rw [treeAt, ih, ih, left, right, join, whole]

/-- After s steps a lane of a scan holds what the 2^s lanes up to it do, or all of them where there are no more. -/
theorem scanAt_eq_segment (one : ∀ i, S i 0 = x i) (join : ∀ i m n, (f (S i m) (S (i + m + 1) n)).1 = S i (m + n + 1)) (s k : Nat) :
    scanAt f x s k = S (k - (2 ^ s - 1)) (min k (2 ^ s - 1)) := by
  induction s generalizing k with
  | zero => simp [scanAt, one]
  | succ s ih =>
    have pos : 0 < 2 ^ s := Nat.two_pow_pos s
    rw [scanAt, ih, ih, Nat.pow_succ]
    generalize 2 ^ s = d at pos
    split
    · have start : k - (d - 1) = k - d - (d - 1) + min (k - d) (d - 1) + 1 := by omega
      rw [start, join]
      congr 1 <;> omega
    · congr 1 <;> omega

end

/-! ### The operations of trees on integers (R180) -/

/-- ADD, MIN and MAX of two numbers. -/
def combineNum : Nat → Int → Int → Int
  | 0 => (· + ·)
  | 1 => min
  | _ => max

theorem combineNum_assoc (op : Nat) (a b c : Int) : combineNum op (combineNum op a b) c = combineNum op a (combineNum op b c) := by
  match op with
  | 0 => exact Int.add_assoc a b c
  | 1 => exact min_assoc a b c
  | _ + 2 => exact max_assoc a b c

theorem combine_int {t : Ty} (h : t.isInt = true) (op : Nat) (r : Rnd) (a b : Nat) :
    (combine t op r false a b).1 = wrapTo t.width (combineNum op (valueOf t a) (valueOf t b)) := by
  unfold combine
  rw [Ty.isFloat_of_isInt h]
  match op with
  | 0 => rfl
  | 1 => rfl
  | _ + 2 => rfl

/-- ADD, MIN or MAX of what two segments hold is what both together hold, each wrapped into an element. -/
theorem combine_wrapTo_segment {t : Ty} (h : t.isInt = true) (op : Nat) (r : Rnd) {x : Nat → Nat} (hx : ∀ j, x j < 2 ^ t.width) (i m n : Nat) :
    let S := fun i n => wrapTo t.width (segment (combineNum op) (fun j => valueOf t (x j)) i n)
    (combine t op r false (S i m) (S (i + m + 1) n)).1 = S i (m + n + 1) := by
  intro S
  have chosen : (∀ a b, combineNum op a b = a ∨ combineNum op a b = b) → ∀ i n,
      valueOf t (S i n) = segment (combineNum op) (fun j => valueOf t (x j)) i n := fun choice i n => by
    obtain ⟨j, hj⟩ := exists_segment_eq choice (fun j => valueOf t (x j)) i n
    show valueOf t (wrapTo t.width _) = _
    rw [hj, wrapTo_valueOf t (hx j)]
  rw [combine_int h]
  show _ = wrapTo t.width (segment (combineNum op) (fun j => valueOf t (x j)) i (m + n + 1))
  rw [← segment_append (combineNum_assoc op)]
  rcases op with _ | _ | op
  · refine wrapTo_congr ?_
    show (valueOf t _ + valueOf t _) % _ = (_ + _) % _
    rw [Int.add_emod, valueOf_wrapTo_emod, valueOf_wrapTo_emod, ← Int.add_emod]
  · have choice := chosen fun a b => min_choice a b
    rw [choice, choice]
  · have choice := chosen fun a b => max_choice a b
    rw [choice, choice]

/-- Settles O11: tree and scan hold the segments of lanes 0 to 31 and 0 to k, and a segment is the sum, the minimum or the maximum. -/
theorem integerTreesAreSums : Obligations.IntegerTreesAreSums := by
  intro t r x k ht hx hk fold op hop
  have one : ∀ i, wrapTo t.width (segment (combineNum op) (fun j => valueOf t (x j)) i 0) = x i := fun i => wrapTo_valueOf t (hx i)
  have join := combine_wrapTo_segment ht op r hx
  have whole : ∀ n, fold op (n + 1) = wrapTo t.width (segment (combineNum op) (fun j => valueOf t (x j)) 0 n) := fun n =>
    match op, hop with
    | 0, _ => congrArg (wrapTo t.width) (sum_range_eq_segment _ n)
    | 1, _ => congrArg (wrapTo t.width) (foldl_range_eq_segment min_self _ n)
    | 2, _ => congrArg (wrapTo t.width) (foldl_range_eq_segment max_self _ n)
  constructor
  · rw [treeAt_eq_segment one join, whole 31]
    rfl
  · have start : k - (2 ^ 5 - 1) = 0 := by omega
    have count : min k (2 ^ 5 - 1) = k := by omega
    rw [scanAt_eq_segment one join, start, count, whole k]

end Sys2Proof.Machine
end

section
/-! SUPPORT. Elements of packed words, the fields that an entry of the encoding tables leaves clear, and what a lane instruction delivers beyond its
elements (R22, R30 to R32). -/

namespace Sys2Proof.Machine

/-! ### The encoding tables -/

theorem exists_row_of_opsOk {op : Nat} {o : Ops} (h : opsOk op o = true) : ∃ r, rowOf op o = some r ∧ r.ok o = true := by
  unfold opsOk at h
  split at h
  · cases h
  · next r hr => exact ⟨r, hr, (Bool.and_eq_true_iff.mp h).1⟩

theorem Row.ok_of_opsOk {op : Nat} {o : Ops} {r : Row} (h : opsOk op o = true) (hr : rowOf op o = some r) : r.ok o = true := by
  obtain ⟨r', hr', ok⟩ := exists_row_of_opsOk h
  obtain rfl : r = r' := Option.some.inj (hr.symm.trans hr')
  exact ok

theorem opsOk_of_wf {i : Instr} {op : Nat} {o : Ops} (hp : i.parts = .op op o) (h : i.wf = true) : opsOk op o = true := by
  unfold Instr.wf at h
  rw [hp] at h
  exact (Bool.and_eq_true_iff.mp h).1

/-- Where an entry has no lo form, lo is clear (R32). -/
theorem Ops.lo_eq_false {op : Nat} {o : Ops} {r : Row} (h : opsOk op o = true) (hr : rowOf op o = some r) (hl : r.lo = false) : o.lo = false := by
  have ok := Row.ok_of_opsOk h hr
  simp only [Row.ok, hl, Bool.and_eq_true, Bool.false_or, Bool.not_eq_true'] at ok
  exact ok.2

theorem Ops.ty_mem {op : Nat} {o : Ops} {r : Row} (h : opsOk op o = true) (hr : rowOf op o = some r) : o.ty ∈ r.tys := by
  have ok := Row.ok_of_opsOk h hr
  simp only [Row.ok, Bool.and_eq_true, List.contains_iff_mem] at ok
  obtain ⟨⟨⟨⟨⟨⟨⟨-, ty⟩, -⟩, -⟩, -⟩, -⟩, -⟩, -⟩ := ok
  exact ty

/-- Where an entry allows no literal, srcB is of its kind (R22, R36). -/
theorem Ops.b_ok {op : Nat} {o : Ops} {r : Row} (h : opsOk op o = true) (hr : rowOf op o = some r) (hl : r.lit = .no) :
    r.b.ok o.b.toNat o.clsB = true := by
  have ok := Row.ok_of_opsOk h hr
  simp only [Row.ok, hl, Bool.and_eq_true] at ok
  obtain ⟨⟨⟨⟨⟨⟨⟨⟨⟨⟨b, -⟩, -⟩, -⟩, -⟩, -⟩, -⟩, -⟩, -⟩, -⟩, -⟩ := ok
  cases lit : o.lit with
  | none =>
    rw [lit] at b
    exact (Bool.and_eq_true_iff.mp b).2
  | some l =>
    rw [lit] at b
    cases b

theorem mergeLo_of_not_lo {o : Ops} (h : o.lo = false) (old new : Word) : mergeLo o old new = new := by
  simp [mergeLo, h]

/-! ### Elements of words -/

theorem packElems_eq (w : Nat) (xs : List Nat) : packElems w xs = word (packed w xs) := rfl

theorem packed_concat (w x : Nat) (xs : List Nat) : packed w (xs ++ [x]) = packed w xs + x % 2 ^ w * 2 ^ (w * xs.length) := by
  induction xs with
  | nil => simp [packed]
  | cons y xs ih =>
    have step : ∀ ys, packed w (y :: ys) = packed w ys * 2 ^ w + y % 2 ^ w := fun _ => rfl
    rw [List.cons_append, step, ih, step, List.length_cons, Nat.mul_succ, Nat.pow_add]
    ring

theorem spread_eq_packed (w v : Nat) : spread w v = word (packed w (List.replicate (64 / w) v)) := by
  unfold spread
  congr 1
  induction 64 / w with
  | zero => rfl
  | succ n ih =>
    rw [List.range_succ, List.foldl_append, ih, List.replicate_succ', packed_concat, List.length_replicate]
    rfl

/-- Every element of a spread word is the one that is spread (R36). -/
theorem sub_spread (w v : Nat) {j : Nat} (hj : j < 64 / w) : sub (spread w v) w j = v % 2 ^ w := by
  rw [spread_eq_packed, sub_packed]
  · rw [List.getD_replicate _ hj]
  · rw [List.length_replicate]; exact Nat.mul_div_le 64 w

theorem sub_mod (v : Word) (w j : Nat) : sub v w j % 2 ^ w = sub v w j := Nat.mod_eq_of_lt (sub_lt v w j)

theorem getLsbD_word_toNat (m : Mask) (j : Nat) : (word m.toNat).getLsbD j = (decide (j < 64) && m.getLsbD j) :=
  BitVec.getLsbD_ofNat 64 m.toNat j

/-! ### Results of lanes -/

theorem perSub_congr {o : Ops} {f g : Nat → Nat × FFlags} (h : ∀ j, j < elemCount o → f j = g j) : perSub o f = perSub o g := by
  have same : (List.range (elemCount o)).map f = (List.range (elemCount o)).map g :=
    List.map_congr_left fun j hj => h j (List.mem_range.mp hj)
  unfold perSub
  unfold elemCount at same
  simp only [same]

theorem elemCount_le (o : Ops) : elemCount o ≤ o.ty.count := by
  unfold elemCount
  split
  · exact Ty.count_pos o.ty
  · exact le_rfl

/-- What the unguarded lanes, and the elements that a type has not, would deliver is of no account. -/
theorem State.FlaggedResult.congr {s : State} {i : Instr} {o : Ops} {L : Mask} {f g : Nat → Nat → Nat × FFlags} {dy : Nat → Bool}
    (h : s.FlaggedResult i o L f dy) (same : ∀ k j, L.getLsbD k = true → j < o.ty.count → f k j = g k j) : s.FlaggedResult i o L g dy := by
  obtain ⟨val, delivers, elements⟩ := h
  have flags : ∀ k, L.getLsbD k = true → flagsOf (elemCount o) (fun j => (f k j).2) = flagsOf (elemCount o) (fun j => (g k j).2) := fun k hk => by
    rw [← perSub_flags, ← perSub_flags, perSub_congr fun j hj => same k j hk (lt_of_lt_of_le hj (elemCount_le o))]
  refine ⟨val, ?_, fun k j hk hj => by rw [elements k j hk hj, same k j hk hj]⟩
  convert delivers using 2 with k
  by_cases hk : L.getLsbD k = true
  · rw [if_pos hk, if_pos hk, flags k hk]
  · rw [if_neg hk, if_neg hk]

/-- A lane instruction without a lo form that raises no flag delivers its values whole. -/
theorem State.value_delivers_whole {s : State} {op : Nat} {o : Ops} {L : Mask} {i : Instr} (lat : Nat) {f : Nat → LaneOut} {v : Nat → Word}
    (hi : s.Issuing) (hc : s.checks op o = .ok L) (hlo : o.lo = false) (he : exec i s = .next (s.laneStep op o lat f))
    (hv : ∀ k, f k = { val := v k }) : s.Delivers (exec i s) o L v noReg noReg (fun _ => 0) (fun _ => false) := by
  have h := State.value_delivers lat hi hc he hv
  simp only [mergeLo_of_not_lo hlo] at h
  exact h

/-- A lane instruction that moves elements delivers them, and raises no flag. -/
theorem State.moves_delivers {s : State} {op : Nat} {o : Ops} {L : Mask} {i : Instr} (lat : Nat) {f : Nat → Nat → Nat} (hi : s.Issuing)
    (hc : s.checks op o = .ok L) (he : exec i s = .next (s.laneStep op o lat fun k => perSub o fun j => (f k j, {}))) :
    ∃ val, s.Delivers (exec i s) o L val noReg noReg (fun _ => 0) (fun _ => false) ∧
      ∀ k j, L.getLsbD k = true → j < o.ty.count →
        sub (val k) o.ty.width j = if o.lo = true ∧ j ≠ 0 then sub (s.dstBefore o k) o.ty.width j else f k j % 2 ^ o.ty.width :=
  ⟨_, State.value_delivers lat hi hc he fun k =>
      congrArg (fun fl => ({ val := (perSub o fun j => (f k j, {})).val, flags := fl } : LaneOut)) (foldl_clear_flags _ (f k)),
    fun k _ _ hj => sub_result o (s.dstBefore o k) _ hj⟩

end Sys2Proof.Machine
end

section
/-! SUPPORT. The trees and scans of R66 and R67 as the lists of the model run them, and O10. -/

namespace Sys2Proof.Machine

/-! ### Flags of several steps -/

/-- The flags of a list of steps, together (R50). -/
def flagsAll (fs : List FFlags) : FFlags := fs.foldl FFlags.or {}

theorem FFlags.or_assoc (a b c : FFlags) : (a.or b).or c = a.or (b.or c) := by
  simp only [FFlags.or, Bool.or_assoc]

theorem FFlags.or_clear (a : FFlags) : a.or {} = a := by
  simp only [FFlags.or, Bool.or_false]

theorem FFlags.clear_or (a : FFlags) : FFlags.or {} a = a := by
  simp only [FFlags.or, Bool.false_or]

theorem foldl_or_eq (fs : List FFlags) (a : FFlags) : fs.foldl FFlags.or a = a.or (flagsAll fs) := by
  unfold flagsAll
  induction fs generalizing a with
  | nil => exact (FFlags.or_clear a).symm
  | cons b fs ih =>
    rw [List.foldl_cons, List.foldl_cons, ih, ih (FFlags.or {} b), FFlags.clear_or, FFlags.or_assoc]

theorem flagsAll_cons (a : FFlags) (fs : List FFlags) : flagsAll (a :: fs) = a.or (flagsAll fs) := by
  rw [flagsAll, List.foldl_cons, foldl_or_eq, FFlags.clear_or]

theorem flagsAll_append (as bs : List FFlags) : flagsAll (as ++ bs) = (flagsAll as).or (flagsAll bs) := by
  rw [flagsAll, List.foldl_append, foldl_or_eq]
  rfl

theorem foldl_or_map {α : Type} (c : α → FFlags) (xs : List α) : xs.foldl (fun acc x => acc.or (c x)) {} = flagsAll (xs.map c) := by
  rw [flagsAll, List.foldl_map]

/-- Steps that are not taken raise no flag. -/
theorem flagsAll_map_ite {α : Type} (p : α → Prop) [DecidablePred p] (c : α → FFlags) (xs : List α) :
    flagsAll (xs.map fun x => if p x then c x else {}) = flagsAll ((xs.filter p).map c) := by
  induction xs with
  | nil => rfl
  | cons x xs ih =>
    rw [List.map_cons, flagsAll_cons, ih]
    by_cases h : p x
    · rw [if_pos h, List.filter_cons_of_pos (by simpa using h), List.map_cons, flagsAll_cons]
    · rw [if_neg h, List.filter_cons_of_neg (by simpa using h), FFlags.clear_or]

/-! ### Trees (R66) -/

/-- A level of a tree: its elements and the flags of its steps. -/
theorem treeLevel_range (f : Nat → Nat → Nat × FFlags) (y : Nat → Nat) (n : Nat) :
    treeLevel f ((List.range (2 * n)).map y) =
      ((List.range n).map fun i => (f (y (2 * i)) (y (2 * i + 1))).1, flagsAll ((List.range n).map fun i => (f (y (2 * i)) (y (2 * i + 1))).2)) := by
  induction n generalizing y with
  | zero => rfl
  | succ n ih =>
    have pair : (List.range (2 * (n + 1))).map y = y 0 :: y 1 :: (List.range (2 * n)).map fun j => y (j + 2) := by
      rw [Nat.mul_succ, List.range_succ_eq_map, List.range_succ_eq_map]
      simp [Function.comp_def]
    rw [pair, treeLevel, ih, List.range_succ_eq_map, List.map_cons, List.map_cons, flagsAll_cons]
    simp only [List.map_map]
    rfl

/-- The flags of the steps of level l + 1 of a tree with n + 1 levels to go. -/
def levelFlags (f : Nat → Nat → Nat × FFlags) (x : Nat → Nat) (l n : Nat) : List FFlags :=
  (List.range (2 ^ n)).map fun i => (f (treeAt f x l (2 * i)) (treeAt f x l (2 * i + 1))).2

theorem treeReduce_range (f : Nat → Nat → Nat × FFlags) (x : Nat → Nat) (n l : Nat) :
    treeReduce f n ((List.range (2 ^ n)).map (treeAt f x l)) =
      ([treeAt f x (l + n) 0], flagsAll ((List.range n).flatMap fun m => levelFlags f x (l + m) (n - 1 - m))) := by
  induction n generalizing l with
  | zero => rfl
  | succ n ih =>
    have next : (List.range (2 ^ n)).map (fun i => (f (treeAt f x l (2 * i)) (treeAt f x l (2 * i + 1))).1) =
        (List.range (2 ^ n)).map (treeAt f x (l + 1)) := rfl
    have shift : ∀ m, levelFlags f x (l + (m + 1)) (n + 1 - 1 - (m + 1)) = levelFlags f x (l + 1 + m) (n - 1 - m) := fun m => by
      congr 1 <;> omega
    have top : l + 1 + n = l + (n + 1) := by omega
    rw [treeReduce, Nat.pow_succ', treeLevel_range, next]
    dsimp only
    rw [ih, List.range_succ_eq_map, List.flatMap_cons, flagsAll_append, List.flatMap_map]
    simp only [shift, Nat.succ_eq_add_one, top]
    rfl

/-- Over 32 lanes: the tree's value and its flags. -/
theorem treeReduce_lanes (f : Nat → Nat → Nat × FFlags) (x : Nat → Nat) :
    treeReduce f 5 ((List.range 32).map x) = ([treeAt f x 5 0], treeFlags f x) :=
  treeReduce_range f x 5 0

/-! ### Scans (R67) -/

/-- The flags of step s + 1 of a scan. -/
def stepFlags (f : Nat → Nat → Nat × FFlags) (x : Nat → Nat) (s : Nat) : List FFlags :=
  ((List.range 32).filter fun k => 2 ^ s ≤ k).map fun k => (f (scanAt f x s (k - 2 ^ s)) (scanAt f x s k)).2

theorem getD_map_range (y : Nat → Nat) {n k : Nat} (h : k < n) : ((List.range n).map y).getD k 0 = y k := by
  rw [List.getD_eq_getElem _ _ (by simpa using h)]
  simp

theorem scanStep_range (f : Nat → Nat → Nat × FFlags) (x : Nat → Nat) (s : Nat) :
    scanStep f (2 ^ s) ((List.range 32).map (scanAt f x s)) = ((List.range 32).map (scanAt f x (s + 1)), flagsAll (stepFlags f x s)) := by
  have lanes : ((List.range 32).map fun k =>
        if 2 ^ s ≤ k then f (((List.range 32).map (scanAt f x s)).getD (k - 2 ^ s) 0) (((List.range 32).map (scanAt f x s)).getD k 0)
        else (((List.range 32).map (scanAt f x s)).getD k 0, {})) =
      (List.range 32).map fun k => if 2 ^ s ≤ k then f (scanAt f x s (k - 2 ^ s)) (scanAt f x s k) else (scanAt f x s k, {}) :=
    List.map_congr_left fun k hk => by
      have hk := List.mem_range.mp hk
      rw [getD_map_range _ hk, getD_map_range _ (lt_of_le_of_lt (Nat.sub_le ..) hk)]
  unfold scanStep
  rw [List.length_map, List.length_range]
  simp only [lanes, List.map_map, foldl_or_map]
  refine Prod.ext (List.map_congr_left fun k _ => ?_) ?_
  · simp only [Function.comp_apply, scanAt]
    split <;> rfl
  · show flagsAll _ = flagsAll _
    rw [stepFlags, ← flagsAll_map_ite]
    refine congrArg flagsAll (List.map_congr_left fun k _ => ?_)
    simp only [Function.comp_apply]
    split <;> rfl

theorem foldl_scanStep_range (f : Nat → Nat → Nat × FFlags) (x : Nat → Nat) (n : Nat) :
    (List.range n).foldl (fun acc s => ((scanStep f (2 ^ s) acc.1).1, acc.2.or (scanStep f (2 ^ s) acc.1).2)) ((List.range 32).map x, {}) =
      ((List.range 32).map (scanAt f x n), flagsAll ((List.range n).flatMap (stepFlags f x))) := by
  induction n with
  | zero => rfl
  | succ n ih =>
    rw [List.range_succ (n := n), List.foldl_append, ih, List.flatMap_append, flagsAll_append, List.foldl_cons, List.foldl_nil, scanStep_range,
      List.flatMap_singleton]

/-- Over 32 lanes: what each lane of a scan holds, and the scan's flags. -/
theorem scanAll_lanes (f : Nat → Nat → Nat × FFlags) (x : Nat → Nat) :
    scanAll f ((List.range 32).map x) = ((List.range 32).map (scanAt f x 5), scanFlags f x) :=
  foldl_scanStep_range f x 5

/-! ### The instructions -/

/-- Elements and the flags of other steps put together. -/
theorem perSub_with_flags (o : Ops) (v : Nat → Nat) (fl : Nat → FFlags) :
    { perSub o (fun j => (v j, {})) with flags := flagsAll ((List.range (elemCount o)).map fl) } = perSub o fun j => (v j, fl j) := by
  have flags : (perSub o fun j => (v j, fl j)).flags = flagsAll ((List.range (elemCount o)).map fl) := by
    simp only [perSub, flagsAll, elemCount, List.foldl_map]
  rw [← flags]
  simp only [perSub, List.foldr_map]

/-- Elements that are read from columns, with the flags of the columns. -/
theorem perSub_columns (o : Ops) (col : Nat → List Nat × FFlags) (read : List Nat × FFlags → Nat) :
    let cols := (List.range (elemCount o)).map col
    { perSub o (fun j => (read (cols.getD j ([], {})), {})) with flags := cols.foldl (fun acc c => acc.or c.2) {} } =
      perSub o fun j => (read (col j), (col j).2) := by
  intro cols
  have column : perSub o (fun j => (read (cols.getD j ([], {})), {})) = perSub o fun j => (read (col j), {}) :=
    perSub_congr fun j hj => by
      rw [List.getD_eq_getElem _ _ (by simpa [cols] using hj)]
      simp [cols]
  rw [column, foldl_or_map, List.map_map]
  exact perSub_with_flags o _ _

theorem State.exec_xred {s : State} {o : Ops} {L : Mask} (hc : s.checks 0xA2 o = .ok L) :
    exec (.xred o) s = .next (s.laneStep 0xA2 o 16 fun _ => perSub o fun j =>
      let f := combine o.ty (o.opmod.toNat % 4) o.rnd o.sat
      let x := s.taking o L (o.opmod.toNat % 4) j
      (treeAt f x 5 0, treeFlags f x)) := by
  refine congrArg Host.Outcome.next (State.issue_eq_laneStep hc ?_)
  have tree := fun j => treeReduce_lanes (combine o.ty (o.opmod.toNat % 4) o.rnd o.sat) (s.taking o L (o.opmod.toNat % 4) j)
  have position : ∀ j, s.position o L (o.opmod.toNat % 4) j = (List.range 32).map (s.taking o L (o.opmod.toNat % 4) j) := fun _ => rfl
  simp only [position, tree, List.headD_cons]

/-- What a lane has of a scan: the lanes up to it, or under .ex those below it (R182). -/
def scanLane (o : Ops) (v : Nat → Nat) (k : Nat) : Nat :=
  if 4 ≤ o.opmod.toNat then (if k = 0 then identity o.ty (o.opmod.toNat % 4) else v (k - 1)) else v k

theorem State.exec_xscan {s : State} {o : Ops} {L : Mask} (hc : s.checks 0xA3 o = .ok L) :
    exec (.xscan o) s = .next (s.laneStep 0xA3 o 16 fun k => perSub o fun j =>
      let f := combine o.ty (o.opmod.toNat % 4) o.rnd o.sat
      let x := s.taking o L (o.opmod.toNat % 4) j
      (scanLane o (fun k => ((List.range 32).map (scanAt f x 5)).getD k 0) k, scanFlags f x)) := by
  refine congrArg Host.Outcome.next (State.issue_eq_laneStep hc ?_)
  have scan := fun j => scanAll_lanes (combine o.ty (o.opmod.toNat % 4) o.rnd o.sat) (s.taking o L (o.opmod.toNat % 4) j)
  have position : ∀ j, s.position o L (o.opmod.toNat % 4) j = (List.range 32).map (s.taking o L (o.opmod.toNat % 4) j) := fun _ => rfl
  simp only [position, scan]
  congr 1
  funext k
  exact perSub_columns o _ fun c => scanLane o (fun k => c.1.getD k 0) k

/-- Lane and element that XSHFL reads, as R184 lists them. -/
theorem shflSource_eq (o : Ops) (k j idx : Nat) :
    shflSource o k j idx =
      ((match o.opmod.toNat % 4 with
        | 0 => idx % 32
        | 1 => if idx % 32 ≤ k then k - idx % 32 else k
        | 2 => if k + idx % 32 < 32 then k + idx % 32 else k
        | _ => k ^^^ (idx % 32)),
       if o.opmod.toNat % 4 = 0 then idx / 32 % o.ty.count else j) := by
  have below : o.opmod.toNat % 4 < 4 := Nat.mod_lt _ (by decide)
  unfold shflSource
  generalize o.opmod.toNat % 4 = kind at below
  match kind, below with
  | 0, _ => rfl
  | 1, _ =>
    by_cases h : idx % 32 ≤ k
    · simp [h, Nat.not_lt.mpr h]
    · simp [h, Nat.lt_of_not_le h]
  | 2, _ =>
    by_cases h : k + idx % 32 < 32
    · simp [h, Nat.not_le.mpr h]
    · simp [h, Nat.le_of_not_lt h]
  | 3, _ => rfl

theorem State.exec_xshfl {s : State} {o : Ops} {L : Mask} (hc : s.checks 0xA0 o = .ok L)
    (hx : s.crossChecks o L (fun k => (List.range (elemCount o)).map fun j => (shflSource o k j (sub (s.opB o k) o.ty.width j)).1) = none) :
    exec (.xshfl o) s = .next (s.laneStep 0xA0 o 8 fun k => perSub o fun j =>
      (sub (s.opA o (shflSource o k j (sub (s.opB o k) o.ty.width j)).1) o.ty.width (shflSource o k j (sub (s.opB o k) o.ty.width j)).2, {})) := by
  refine congrArg Host.Outcome.next (State.issue_eq_laneStep hc ?_)
  unfold elemCount at hx
  simp only [hx]

theorem State.uniform_ok {s : State} {L : Mask} {v : Nat → Word} (h : ∀ k, L.getLsbD k = true → v k = v (lowest L)) :
    s.uniform L v = .ok (v (lowest L)) := by
  have none : differing L v = 0 := those_eq_zero.mpr fun k hk => by rw [h k hk, bne_self_eq_false]
  unfold State.uniform
  simp [none]

theorem State.exec_xbcast {s : State} {o : Ops} {L : Mask} (hc : s.checks 0xA1 o = .ok L)
    (hu : ∀ k, L.getLsbD k = true → s.opBNat o k = s.opBNat o (lowest L))
    (hx : s.crossChecks o L (fun _ => [(s.opBNat o (lowest L)).toNat % 32]) = none) :
    exec (.xbcast o) s = .next (s.laneStep 0xA1 o 8 fun _ =>
      let v := s.opA o ((s.opBNat o (lowest L)).toNat % 32)
      { val := if o.opmod.toNat % 2 = 1 then
          spread o.ty.width (sub v o.ty.width (Word.field (s.opBNat o (lowest L)) 10 8 % o.ty.count)) else v }) := by
  refine congrArg Host.Outcome.next (State.issue_eq_laneStep hc ?_)
  simp only [State.uniform_ok hu, hx]

theorem State.exec_xballot {s : State} {o : Ops} {L : Mask} (hc : s.checks 0xA4 o = .ok L) :
    exec (.xballot o) s = .next (s.laneStep 0xA4 o 8 fun _ =>
      { val := word (those L fun k => s.regP k (s.cl k) o.a.toNat != (o.opmod.toNat % 2 == 1)).toNat }) :=
  congrArg Host.Outcome.next (State.issue_eq_laneStep hc rfl)

/-- Settles O10: each instruction is a lane instruction, and XRED and XSCAN run the tree and the scan of R66 and R67. -/
theorem crossLaneResults : Obligations.CrossLaneResults := by
  intro s L o issuing w op f x
  refine ⟨?_, ?_, ?_, ?_, ?_, ?_⟩
  · intro checks
    exact State.flaggedResult_of 16 issuing checks (State.exec_xred checks) fun _ => rfl
  · intro checks
    refine (State.flaggedResult_of 16 issuing checks (State.exec_xscan checks) fun _ => rfl).congr fun k j hk hj => ?_
    have hk : k < 32 := BitVec.lt_of_getLsbD hk
    simp only [scanLane, getD_map_range _ hk, getD_map_range _ (lt_of_le_of_lt (Nat.sub_le k 1) hk)]
    rfl
  · intro checks index d lane elem cross
    have source : ∀ k j, shflSource o k j (sub (s.opB o k) o.ty.width j) = (lane k j, elem k j) := fun k j => shflSource_eq o k j _
    have step := State.exec_xshfl checks (by simpa only [source] using cross)
    simp only [source] at step
    obtain ⟨val, delivers, elements⟩ := State.moves_delivers 8 issuing checks step
    exact ⟨val, delivers, fun k j hk hj => by rw [elements k j hk hj, sub_mod]⟩
  · intro wf checks uniform b lane cross
    have hlo : o.lo = false := Ops.lo_eq_false (opsOk_of_wf (i := .xbcast o) rfl wf) rfl rfl
    refine ⟨_, State.value_delivers_whole 8 issuing checks hlo (State.exec_xbcast checks uniform cross) fun _ => rfl, fun k j _ hj => ?_⟩
    split
    · rw [sub_spread _ _ hj, sub_mod, Word.field, Nat.shiftRight_eq_div_pow]
      rfl
    · rfl
  · intro wf checks
    have hlo : o.lo = false := Ops.lo_eq_false (opsOk_of_wf (i := .xballot o) rfl wf) rfl rfl
    refine ⟨_, State.value_delivers_whole 8 issuing checks hlo (State.exec_xballot checks) fun _ => rfl, fun k j _ hj => ?_⟩
    rw [getLsbD_word_toNat, getLsbD_those, decide_eq_true hj, Bool.true_and]
  · intro wf checks
    have hlo : o.lo = false := Ops.lo_eq_false (opsOk_of_wf (i := .xmatch o) rfl wf) rfl rfl
    refine ⟨_, State.value_delivers_whole 8 issuing checks hlo rfl fun _ => rfl, fun k j _ hj => ?_⟩
    rw [getLsbD_word_toNat, getLsbD_those, decide_eq_true hj, Bool.true_and, ← State.checks_guarded checks]

end Sys2Proof.Machine
end

section
/-! SUPPORT. What the packed block computes of words (R175 to R179), and O9. -/

namespace Sys2Proof.Machine

/-! ### Dot products (R65, R176) -/

theorem foldl_add_eq_sum {α : Type} [AddMonoid α] (g : Nat → α) (js : List Nat) (a : α) :
    js.foldl (fun acc j => acc + g j) a = a + (js.map g).sum := by
  induction js generalizing a with
  | nil => simp
  | cons j js ih => rw [List.foldl_cons, ih, List.map_cons, List.sum_cons, add_assoc]

theorem signedOf_toNat (v : Word) : signedOf 64 v.toNat = v.toInt := by
  have below := v.isLt
  rw [signedOf, BitVec.toInt_eq_toNat_cond, Nat.mod_eq_of_lt below]
  split <;> split <;> omega

theorem dotLane_int {o : Ops} (h : o.ty.isInt = true) (a b : Word) (c : Option Word) :
    dotLane o a b c = { val := word (narrowTo o.ty.signed 64 o.sat
      (((List.range o.ty.count).map fun j => valueOf o.ty (sub a o.ty.width j) * valueOf o.ty (sub b o.ty.width j)).sum +
        c.elim 0 fun c => if o.ty.signed then c.toInt else (c.toNat : Int))) } := by
  unfold dotLane
  rw [if_pos h, intDot, foldl_add_eq_sum, Int.zero_add]
  cases c with
  | none => rfl
  | some c => simp only [signedOf_toNat, Option.elim_some]

/-- Of the types of VDOT, K8 alone is a floating-point type without a negative zero (R410). -/
theorem not_isFloat_iff_of_dot {t : Ty} (ht : t ∈ Ty.dot) (hi : t.isInt = false) : (!t.isFloat) = true ↔ t = .k8 := by
  revert ht hi
  cases t <;> decide

theorem dotLane_float {o : Ops} (h : o.ty.isInt = false) (a b : Word) (c : Option Word) :
    dotLane o a b c =
      let out := Fmt.f32.deliver o.rnd o.sat (sumAll o.rnd (floatProducts o.ty a b ++ c.toList.map fun c => Fmt.f32.decode (sub c 32 0)))
      { val := word out.1, flags := out.2 } := by
  unfold dotLane
  rw [if_neg (by simp [h])]
  cases c <;> rfl

/-! ### Packing (R177 to R179) -/

/-- An element of two lists of elements, put together in a word. -/
theorem sub_packElems_append {w n : Nat} (h : w * (2 * n) ≤ 64) (f g : Nat → Nat) {j : Nat} (hj : j < 2 * n) :
    sub (packElems w ((List.range n).map f ++ (List.range n).map g)) w j = (if j < n then f j else g (j - n)) % 2 ^ w := by
  rw [packElems_eq, sub_packed (by simpa [two_mul] using h)]
  congr 1
  split
  · next low => rw [List.getD_append _ _ _ _ (by simpa using low), getD_map_range _ low]
  · next high => rw [List.getD_append_right _ _ _ _ (by simpa using high), List.length_map, List.length_range, getD_map_range _ (by omega)]

theorem sub_packElems {w n : Nat} (h : w * n ≤ 64) (f : Nat → Nat) {j : Nat} (hj : j < n) :
    sub (packElems w ((List.range n).map f)) w j = f j % 2 ^ w := by
  rw [packElems_eq, sub_packed (by simpa using h), getD_map_range _ hj]

/-- An element below a place is that of what lies below the place. -/
theorem elem_below {w i j l : Nat} (h : i < j) (x : Nat) : (x * 2 ^ (w * j) + l) / 2 ^ (w * i) % 2 ^ w = l / 2 ^ (w * i) % 2 ^ w := by
  obtain ⟨d, rfl⟩ : ∃ d, j = i + 1 + d := ⟨j - (i + 1), by omega⟩
  have place : x * 2 ^ (w * (i + 1 + d)) + l = 2 ^ (w * i) * (x * 2 ^ (w * d) * 2 ^ w) + l := by
    rw [Nat.mul_add, Nat.mul_succ, Nat.pow_add, Nat.pow_add]; ring
  rw [place, Nat.mul_add_div (Nat.two_pow_pos _), Nat.mul_add_mod_self_right]

/-- An element above a place is that of what lies above the place and its own element. -/
theorem elem_above {w i j l m : Nat} (h : j < i) (hl : l < 2 ^ (w * j)) (hm : m < 2 ^ w) (x : Nat) :
    ((x * 2 ^ w + m) * 2 ^ (w * j) + l) / 2 ^ (w * i) % 2 ^ w = x / 2 ^ (w * (i - j - 1)) % 2 ^ w := by
  obtain ⟨d, rfl⟩ : ∃ d, i = j + 1 + d := ⟨i - (j + 1), by omega⟩
  have place : 2 ^ (w * (j + 1 + d)) = 2 ^ (w * j) * (2 ^ w * 2 ^ (w * d)) := by
    rw [Nat.mul_add, Nat.mul_succ, Nat.pow_add, Nat.pow_add]; ring
  have rest : j + 1 + d - j - 1 = d := by omega
  rw [place, rest, ← Nat.div_div_eq_div_mul, ← Nat.div_div_eq_div_mul, Nat.mul_comm _ (2 ^ (w * j)), Nat.mul_add_div (Nat.two_pow_pos _),
    Nat.div_eq_of_lt hl, Nat.add_zero, Nat.mul_comm x, Nat.mul_add_div (Nat.two_pow_pos _), Nat.div_eq_of_lt hm, Nat.add_zero]

/-- A number, taken apart at an element. -/
theorem split_at_elem (n w j : Nat) :
    n = (n / 2 ^ (w * j) / 2 ^ w * 2 ^ w + n / 2 ^ (w * j) % 2 ^ w) * 2 ^ (w * j) + n % 2 ^ (w * j) := by
  rw [Nat.div_add_mod', Nat.div_add_mod']

/-- VINS replaces one element of a word and keeps the others (R179). -/
theorem sub_insertSub {w j : Nat} (h : w * (j + 1) ≤ 64) (old : Word) (v i : Nat) :
    sub (insertSub w j old v) w i = if i = j then v % 2 ^ w else sub old w i := by
  have whole := split_at_elem old.toNat w j
  have bound := old.isLt
  unfold insertSub sub
  generalize old.toNat = n at whole bound
  have hl : n % 2 ^ (w * j) < 2 ^ (w * j) := Nat.mod_lt _ (Nat.two_pow_pos _)
  have hm : n / 2 ^ (w * j) % 2 ^ w < 2 ^ w := Nat.mod_lt _ (Nat.two_pow_pos _)
  have hv : v % 2 ^ w < 2 ^ w := Nat.mod_lt _ (Nat.two_pow_pos _)
  have hq : n / 2 ^ (w * j) / 2 ^ w < 2 ^ (64 - w * (j + 1)) := by
    rw [Nat.div_div_eq_div_mul, ← Nat.pow_add, ← Nat.mul_succ, Nat.div_lt_iff_lt_mul (Nat.two_pow_pos _), ← Nat.pow_add,
      Nat.sub_add_cancel h]
    exact bound
  generalize n / 2 ^ (w * j) / 2 ^ w = q at whole hq
  generalize n / 2 ^ (w * j) % 2 ^ w = m at whole hm
  generalize n % 2 ^ (w * j) = l at whole hl
  subst whole
  have new : (q * 2 ^ w + m) * 2 ^ (w * j) + l - m * 2 ^ (w * j) + v % 2 ^ w * 2 ^ (w * j) = (q * 2 ^ w + v % 2 ^ w) * 2 ^ (w * j) + l := by
    rw [Nat.add_mul, Nat.add_mul]; omega
  have fits : (q * 2 ^ w + v % 2 ^ w) * 2 ^ (w * j) + l < 2 ^ 64 := by
    have size : 2 ^ 64 = 2 ^ (64 - w * (j + 1)) * (2 ^ w * 2 ^ (w * j)) := by
      rw [← Nat.pow_add, ← Nat.pow_add]
      congr 1
      rw [Nat.mul_succ] at h ⊢
      omega
    calc (q * 2 ^ w + v % 2 ^ w) * 2 ^ (w * j) + l < (q * 2 ^ w + v % 2 ^ w + 1) * 2 ^ (w * j) := by rw [Nat.succ_mul]; omega
      _ ≤ ((q + 1) * 2 ^ w) * 2 ^ (w * j) := Nat.mul_le_mul_right _ (by rw [Nat.succ_mul]; omega)
      _ ≤ 2 ^ 64 := by rw [size, Nat.mul_assoc]; exact Nat.mul_le_mul_right _ hq
  rw [new, toNat_word fits]
  rcases Nat.lt_trichotomy i j with below | rfl | above
  · rw [if_neg (by omega), elem_below below, elem_below below]
  · rw [if_pos rfl, Nat.mul_comm _ (2 ^ (w * i)), Nat.mul_add_div (Nat.two_pow_pos _), Nat.div_eq_of_lt hl, Nat.add_zero,
      Nat.mul_add_mod_self_right, Nat.mod_mod]
  · rw [if_neg (by omega), elem_above above hl hv, elem_above above hl hm]

theorem Ty.width_le (t : Ty) : t.width ≤ 64 := by cases t <;> decide

/-- VEXT extends an element of a signed type by its sign (R179). -/
theorem extended_eq (t : Ty) (v : Nat) :
    extended t v = if t.signed then BitVec.ofInt 64 (signedOf t.width v) else word (v % 2 ^ t.width) := by
  unfold extended
  split
  · unfold sext signedOf
    have width : 2 ^ t.width ≤ 2 ^ 64 := Nat.pow_le_pow_right (by decide) (Ty.width_le t)
    split
    · rw [word, ← BitVec.ofInt_natCast]
      refine BitVec.eq_of_toNat_eq ?_
      rw [BitVec.toNat_ofInt, BitVec.toNat_ofInt, Int.natCast_add, Int.ofNat_sub width]
      have turn : ((v % 2 ^ t.width : Nat) : Int) + ((2 ^ 64 : Nat) - (2 ^ t.width : Nat)) =
          (v % 2 ^ t.width : Nat) - (2 ^ t.width : Nat) + (2 ^ 64 : Nat) := by ring
      rw [turn, Int.add_emod_right]
    · rw [word, BitVec.ofInt_natCast]
  · rfl

theorem vsadLane_eq (t : Ty) (a b c : Word) :
    vsadLane t a b c =
      c + word ((List.range t.count).map fun j => (valueOf t (sub a t.width j) - valueOf t (sub b t.width j)).natAbs).sum := by
  rw [vsadLane, foldl_add_eq_sum, word, BitVec.ofNat_add, BitVec.ofNat_toNat, BitVec.setWidth_eq]
  rfl

theorem Ty.halves_of_narrow {t : Ty} (ht : t ∈ Ty.narrow) : 64 / t.width = 2 * (64 / (2 * t.width)) := by
  revert ht
  cases t <;> decide

/-! ### The instructions -/

/-- VDOT and VDOTA of floating-point elements: one rounding of the exact sum, and its flags (R65, R176). -/
theorem State.dot_delivers {s : State} {op : Nat} {o : Ops} {L : Mask} {i : Instr} {c : Nat → Option Word} (issuing : s.Issuing)
    (checks : s.checks op o = .ok L) (hlo : o.lo = false) (hf : o.ty.isInt = false)
    (he : exec i s = .next (s.laneStep op o 6 fun k => dotLane o (s.opA o k) (s.opB o k) (c k))) :
    let out := fun k => Fmt.f32.deliver o.rnd o.sat (sumAll o.rnd
      (floatProducts o.ty (s.opA o k) (s.opB o k) ++ (c k).toList.map fun c => Fmt.f32.decode (sub c 32 0)))
    s.Delivers (exec i s) o L (fun k => word (out k).1) noReg noReg (fun k => if L.getLsbD k then (out k).2.bits else 0) (fun _ => false) := by
  intro out
  have lane : (fun k => dotLane o (s.opA o k) (s.opB o k) (c k)) = fun k => { val := word (out k).1, flags := (out k).2 } :=
    funext fun k => dotLane_float hf _ _ _
  have delivers := State.laneStep_delivers issuing checks 6 fun k => ({ val := word (out k).1, flags := (out k).2 } : LaneOut)
  simp only [mergeLo_of_not_lo hlo, Bool.and_false] at delivers
  rw [he, lane]
  exact delivers

/-- The products of a dot product: the exact products of the elements, a zero product of two K8 elements +0 (R410). -/
theorem floatProducts_eq {t : Ty} (ht : t ∈ Ty.dot) (hf : t.isInt = false) (a b : Word) :
    floatProducts t a b = (List.range t.count).map fun j =>
      match ((Fmt.of t).decode (sub a t.width j)).mul ((Fmt.of t).decode (sub b t.width j)) with
      | .fin n m e => if m = 0 ∧ t = .k8 then FV.fin false 0 0 else .fin n m e
      | v => v := by
  refine congrArg (List.map · (List.range t.count)) (funext fun j => ?_)
  unfold productOf
  cases ((Fmt.of t).decode (sub a t.width j)).mul ((Fmt.of t).decode (sub b t.width j)) with
  | fin n m e => exact if_congr (and_congr_right' (not_isFloat_iff_of_dot ht hf)) rfl rfl
  | nan s => rfl
  | inf n => rfl

/-- Settles O9, instruction by instruction: dot products, elements that are moved, and values of the whole word. -/
theorem packedResults : Obligations.PackedResults := by
  intro s L o issuing w A B C products decode product fproducts c64
  have width : w * o.ty.count = 64 := Ty.width_mul_count o.ty
  refine ⟨?_, ?_, ?_, ?_⟩
  · intro i op x row wf int checks
    simp only [List.mem_cons, List.not_mem_nil, or_false, Prod.mk.injEq] at row
    obtain ⟨rfl, rfl, rfl⟩ | ⟨rfl, rfl, rfl⟩ := row
    · have hlo : o.lo = false := Ops.lo_eq_false (opsOk_of_wf (i := .vdot o) rfl wf) rfl rfl
      exact State.value_delivers_whole 6 issuing checks hlo rfl fun k => dotLane_int int _ _ none
    · have hlo : o.lo = false := Ops.lo_eq_false (opsOk_of_wf (i := .vdota o) rfl wf) rfl rfl
      exact State.value_delivers_whole 6 issuing checks hlo rfl fun k => dotLane_int int _ _ (some _)
  · intro i op x row wf float checks out
    have exact_products : ∀ {r}, rowOf op o = some r → r.tys = Ty.dot → opsOk op o = true →
        ∀ k, floatProducts o.ty (s.opA o k) (s.opB o k) = fproducts k := fun hr ht ok k =>
      floatProducts_eq (ht ▸ Ops.ty_mem ok hr) float _ _
    simp only [List.mem_cons, List.not_mem_nil, or_false, Prod.mk.injEq] at row
    obtain ⟨rfl, rfl, rfl⟩ | ⟨rfl, rfl, rfl⟩ := row
    · have ok := opsOk_of_wf (i := .vdot o) rfl wf
      have delivers := State.dot_delivers (i := .vdot o) (c := fun _ => none) issuing checks (Ops.lo_eq_false ok rfl rfl) float rfl
      simp only [exact_products rfl rfl ok] at delivers
      exact delivers
    · have ok := opsOk_of_wf (i := .vdota o) rfl wf
      have delivers := State.dot_delivers (i := .vdota o) (c := fun k => some (s.opC o k)) issuing checks (Ops.lo_eq_false ok rfl rfl) float rfl
      simp only [exact_products rfl rfl ok] at delivers
      exact delivers
  · intro i op u n f row wf checks
    simp only [List.mem_cons, List.not_mem_nil, or_false, Prod.mk.injEq] at row
    obtain ⟨rfl, rfl, rfl, rfl, rfl⟩ | ⟨rfl, rfl, rfl, rfl, rfl⟩ | ⟨rfl, rfl, rfl, rfl, rfl⟩ | ⟨rfl, rfl, rfl, rfl, rfl⟩ := row
    · have ok := opsOk_of_wf (i := .vpack o) rfl wf
      have halves := Ty.halves_of_narrow (Ops.ty_mem ok rfl)
      refine ⟨_, State.value_delivers_whole 6 issuing checks (Ops.lo_eq_false ok rfl rfl) rfl fun _ => rfl, fun k j _ hj => ?_⟩
      rw [halves] at hj
      have fits : w * (2 * (64 / (2 * w))) ≤ 64 := halves ▸ Nat.mul_div_le 64 w
      refine (sub_packElems_append fits _ _ hj).trans ?_
      dsimp only
      split <;> rfl
    · have ok := opsOk_of_wf (i := .vunpk o) rfl wf
      exact ⟨_, State.value_delivers_whole 6 issuing checks (Ops.lo_eq_false ok rfl rfl) rfl fun _ => rfl, fun k j _ hj =>
        sub_packElems (Nat.mul_div_le 64 (2 * w)) _ hj⟩
    · have ok := opsOk_of_wf (i := .vperm o) rfl wf
      exact ⟨_, State.value_delivers_whole 6 issuing checks (Ops.lo_eq_false ok rfl rfl) rfl fun _ => rfl, fun k j _ hj =>
        sub_packElems (by decide) _ hj⟩
    · have ok := opsOk_of_wf (i := .vins o) rfl wf
      have place : o.b.toNat ≤ o.ty.count - 1 := by
        have b := Ops.b_ok ok rfl rfl
        simp only [Kind.ok, Bool.and_eq_true, decide_eq_true_eq] at b
        exact b.1
      have fits : w * (o.b.toNat + 1) ≤ 64 := by
        rw [← width]
        have := Ty.count_pos o.ty
        exact Nat.mul_le_mul_left w (by omega)
      refine ⟨_, State.value_delivers_whole 6 issuing checks (Ops.lo_eq_false ok rfl rfl) rfl fun _ => rfl, fun k j _ hj => ?_⟩
      refine (sub_insertSub fits _ _ j).trans ?_
      dsimp only
      split
      · rfl
      · exact (sub_mod _ _ _).symm
  · intro i op v row wf checks
    simp only [List.mem_cons, List.not_mem_nil, or_false, Prod.mk.injEq] at row
    obtain ⟨rfl, rfl, rfl⟩ | ⟨rfl, rfl, rfl⟩ := row
    · have hlo : o.lo = false := Ops.lo_eq_false (opsOk_of_wf (i := .vsad o) rfl wf) rfl rfl
      exact State.value_delivers_whole 6 issuing checks hlo rfl fun k => congrArg (LaneOut.mk · {} false) (vsadLane_eq ..)
    · have hlo : o.lo = false := Ops.lo_eq_false (opsOk_of_wf (i := .vext o) rfl wf) rfl rfl
      refine State.value_delivers_whole 6 issuing checks hlo rfl fun k => congrArg (LaneOut.mk · {} false) ?_
      rw [extended_eq, sub_mod]

end Sys2Proof.Machine
end

section
/-! SUPPORT. Codes of a format and the numbers they stand for (R46, R52): a code is a sign and a magnitude, and a magnitude counts the format's numbers
upward from 0. -/

namespace Sys2Proof.Machine

/-! ### The formats -/

/-- What the formats of R46 and R52 have in common: a fraction and an exponent field; and K8's NaN is the code of its sign bit alone. -/
structure Fmt.Regular (f : Fmt) : Prop where
  mb : 1 ≤ f.mb
  eb : 2 ≤ f.eb
  k8 : f.k8 = true → f.eb + f.mb = 7

theorem Fmt.regular {f : Fmt} (h : f ∈ [Fmt.f64, Fmt.f32, Fmt.f16, Fmt.bf16, Fmt.kay8]) : f.Regular := by
  simp only [List.mem_cons, List.not_mem_nil, or_false] at h
  obtain rfl | rfl | rfl | rfl | rfl := h <;> exact ⟨by decide, by decide, by decide⟩

/-- The exponent field of infinity, or one more than K8's largest. -/
def Fmt.topField (f : Fmt) : Nat := if f.k8 then 2 ^ f.eb else 2 ^ f.eb - 1

theorem Fmt.infBits_eq (f : Fmt) : f.infBits = f.topField * 2 ^ f.mb := by
  unfold Fmt.infBits Fmt.topField
  split
  · exact Nat.pow_add 2 f.eb f.mb
  · rfl

theorem Fmt.Regular.topField_ge {f : Fmt} (h : f.Regular) : 3 ≤ f.topField := by
  have four : 2 ^ 2 ≤ 2 ^ f.eb := Nat.pow_le_pow_right (by decide) h.eb
  unfold Fmt.topField
  split <;> omega

theorem Fmt.topField_le (f : Fmt) : f.topField ≤ 2 ^ f.eb := by
  unfold Fmt.topField
  split
  · exact le_rfl
  · exact Nat.sub_le _ _

theorem Fmt.infBits_le (f : Fmt) : f.infBits ≤ 2 ^ (f.eb + f.mb) := by
  rw [f.infBits_eq, Nat.pow_add]
  exact Nat.mul_le_mul_right _ f.topField_le

/-! ### Magnitudes -/

/-- The significand of a magnitude: its fraction, with the hidden bit of a normal number. -/
def Fmt.sig (f : Fmt) (mag : Nat) : Nat := if mag / 2 ^ f.mb = 0 then mag % 2 ^ f.mb else 2 ^ f.mb + mag % 2 ^ f.mb

/-- The exponent of a magnitude, above that of subnormals. -/
def Fmt.lift (f : Fmt) (mag : Nat) : Nat := mag / 2 ^ f.mb - 1

/-- The number of a magnitude, in units of the smallest subnormal. -/
def Fmt.units (f : Fmt) (mag : Nat) : Nat := f.sig mag * 2 ^ f.lift mag

/-- The magnitude that counts n units of 2^k subnormal units stands for just that. -/
theorem Fmt.magnitude_spec (f : Fmt) {n k : Nat} (hn : n < 2 ^ (f.mb + 1)) (hk : n < 2 ^ f.mb → k = 0) :
    f.sig (k * 2 ^ f.mb + n) = n ∧ f.lift (k * 2 ^ f.mb + n) = k := by
  unfold Fmt.sig Fmt.lift
  have pos : 0 < 2 ^ f.mb := Nat.two_pow_pos _
  rw [Nat.pow_succ] at hn
  by_cases small : n < 2 ^ f.mb
  · obtain rfl := hk small
    simp [Nat.div_eq_of_lt small, Nat.mod_eq_of_lt small]
  · have split : k * 2 ^ f.mb + n = 2 ^ f.mb * (k + 1) + (n - 2 ^ f.mb) := by rw [Nat.mul_succ, Nat.mul_comm]; omega
    have low : n - 2 ^ f.mb < 2 ^ f.mb := by omega
    rw [split, Nat.mul_add_div pos, Nat.div_eq_of_lt low, Nat.mul_add_mod_self_left, Nat.mod_eq_of_lt low]
    constructor
    · rw [if_neg (by omega)]; omega
    · omega

theorem Fmt.units_magnitude (f : Fmt) {n k : Nat} (hn : n < 2 ^ (f.mb + 1)) (hk : n < 2 ^ f.mb → k = 0) :
    f.units (k * 2 ^ f.mb + n) = n * 2 ^ k := by
  obtain ⟨sig, lift⟩ := f.magnitude_spec hn hk
  rw [Fmt.units, sig, lift]

/-- Every magnitude counts some units in this way. -/
theorem Fmt.magnitude_eq (f : Fmt) (mag : Nat) :
    mag = f.lift mag * 2 ^ f.mb + f.sig mag ∧ f.sig mag < 2 ^ (f.mb + 1) ∧ (f.sig mag < 2 ^ f.mb → f.lift mag = 0) := by
  have low : mag % 2 ^ f.mb < 2 ^ f.mb := Nat.mod_lt _ (Nat.two_pow_pos _)
  have whole := Nat.div_add_mod mag (2 ^ f.mb)
  unfold Fmt.sig Fmt.lift
  rw [Nat.pow_succ]
  generalize mag / 2 ^ f.mb = field at whole
  generalize mag % 2 ^ f.mb = fraction at whole low
  generalize 2 ^ f.mb = p at whole low
  rcases field with _ | d
  · rw [if_pos rfl]
    exact ⟨by simpa using whole.symm, by omega, fun _ => rfl⟩
  · rw [if_neg (Nat.succ_ne_zero d), Nat.add_sub_cancel]
    refine ⟨?_, by omega, fun h => by omega⟩
    rw [← whole, Nat.mul_succ, Nat.mul_comm]
    omega

/-- From one magnitude to the next there is one unit of its exponent, also where the exponent changes. -/
theorem Fmt.units_succ (f : Fmt) (mag : Nat) : f.units (mag + 1) = (f.sig mag + 1) * 2 ^ f.lift mag := by
  obtain ⟨eq, bound, sub⟩ := f.magnitude_eq mag
  have pos : 0 < 2 ^ f.mb := Nat.two_pow_pos _
  have next : mag + 1 = f.lift mag * 2 ^ f.mb + (f.sig mag + 1) := by omega
  by_cases carry : f.sig mag + 1 = 2 ^ (f.mb + 1)
  · have up : mag + 1 = (f.lift mag + 1) * 2 ^ f.mb + 2 ^ f.mb := by
      rw [next, carry, Nat.succ_mul, Nat.pow_succ]; omega
    rw [up, f.units_magnitude (by rw [Nat.pow_succ]; omega) (fun h => absurd h (lt_irrefl _)), carry, Nat.pow_succ, Nat.pow_succ]
    ring
  · rw [next, f.units_magnitude (by omega) fun h => sub (by omega)]

theorem Fmt.units_zero (f : Fmt) : f.units 0 = 0 := by
  simp [Fmt.units, Fmt.sig]

theorem Fmt.units_strictMono (f : Fmt) : StrictMono f.units :=
  strictMono_nat_of_lt_succ fun mag => by
    rw [f.units_succ]
    exact Nat.mul_lt_mul_of_pos_right (Nat.lt_succ_self _) (Nat.two_pow_pos _)

/-- No magnitude lies between two neighbours. -/
theorem Fmt.units_le_or_ge (f : Fmt) (lo mag : Nat) : f.units mag ≤ f.units lo ∨ f.units (lo + 1) ≤ f.units mag :=
  (Nat.lt_or_ge lo mag).symm.imp (fun h => f.units_strictMono.monotone h) fun h => f.units_strictMono.monotone h

/-- The last two steps below infinity are of one size (R50). -/
theorem Fmt.Regular.units_infBits {f : Fmt} (h : f.Regular) :
    f.units f.infBits + f.units (f.infBits - 2) = 2 * f.units (f.infBits - 1) := by
  obtain ⟨d, hd⟩ : ∃ d, f.topField = d + 2 := ⟨f.topField - 2, by have := h.topField_ge; omega⟩
  have two : 2 ^ 1 ≤ 2 ^ f.mb := Nat.pow_le_pow_right (by decide) h.mb
  have top : f.infBits = d * 2 ^ f.mb + (2 ^ (f.mb + 1) - 2) + 1 + 1 := by
    rw [f.infBits_eq, hd, Nat.add_mul, Nat.pow_succ]; omega
  have bound : 2 ^ (f.mb + 1) - 2 < 2 ^ (f.mb + 1) := by rw [Nat.pow_succ]; omega
  have normal : ¬2 ^ (f.mb + 1) - 2 < 2 ^ f.mb := by rw [Nat.pow_succ]; omega
  have last : d * 2 ^ f.mb + (2 ^ (f.mb + 1) - 2) + 1 = d * 2 ^ f.mb + (2 ^ (f.mb + 1) - 1) := by rw [Nat.pow_succ]; omega
  have one := f.units_magnitude (n := 2 ^ (f.mb + 1) - 2) (k := d) bound fun h => absurd h normal
  have two := f.units_magnitude (n := 2 ^ (f.mb + 1) - 1) (k := d) (by rw [Nat.pow_succ]; omega) fun h => by rw [Nat.pow_succ] at h; omega
  obtain ⟨sig, lift⟩ := f.magnitude_spec (n := 2 ^ (f.mb + 1) - 1) (k := d) (by rw [Nat.pow_succ]; omega) fun h => by rw [Nat.pow_succ] at h; omega
  have minus_one : f.infBits - 1 = d * 2 ^ f.mb + (2 ^ (f.mb + 1) - 1) := by omega
  have minus_two : f.infBits - 2 = d * 2 ^ f.mb + (2 ^ (f.mb + 1) - 2) := by omega
  rw [minus_one, minus_two, top, last, f.units_succ, sig, lift, one, two]
  obtain ⟨c, hc⟩ : ∃ c, 2 ^ (f.mb + 1) = c + 2 := ⟨2 ^ (f.mb + 1) - 2, by rw [Nat.pow_succ]; omega⟩
  rw [hc, Nat.add_sub_cancel, show c + 2 - 1 = c + 1 by omega]
  ring

/-! ### Codes -/

theorem Fmt.Regular.signBit_even {f : Fmt} (h : f.Regular) (neg : Bool) : f.signBit neg % 2 = 0 := by
  unfold Fmt.signBit
  split
  · rw [Nat.pow_mod, Nat.mod_self, Nat.zero_pow (by have := h.mb; omega), Nat.zero_mod]
  · rfl

/-- The fields of a code of a sign and a magnitude. -/
theorem Fmt.fields_code (f : Fmt) (neg : Bool) {mag : Nat} (h : mag < 2 ^ (f.eb + f.mb)) :
    let b := f.signBit neg + mag
    b % 2 ^ f.width = b ∧ (2 ^ (f.eb + f.mb) ≤ b ↔ neg = true) ∧ b / 2 ^ f.mb % 2 ^ f.eb = mag / 2 ^ f.mb ∧ b % 2 ^ f.mb = mag % 2 ^ f.mb := by
  have width : 2 ^ f.width = 2 * 2 ^ (f.eb + f.mb) := by
    rw [Fmt.width, Nat.add_assoc, Nat.add_comm, Nat.pow_succ, Nat.mul_comm]
  have field : mag / 2 ^ f.mb < 2 ^ f.eb := by rw [Nat.div_lt_iff_lt_mul (Nat.two_pow_pos _), ← Nat.pow_add]; exact h
  rw [width]
  unfold Fmt.signBit
  cases neg
  · rw [if_neg (by decide), Nat.zero_add]
    exact ⟨Nat.mod_eq_of_lt (by omega), by simp [h], Nat.mod_eq_of_lt field, rfl⟩
  · rw [if_pos rfl]
    refine ⟨Nat.mod_eq_of_lt (by omega), by simp, ?_, ?_⟩
    · rw [Nat.pow_add, Nat.mul_comm (2 ^ f.eb), Nat.mul_add_div (Nat.two_pow_pos _), Nat.add_mod_left, Nat.mod_eq_of_lt field]
    · rw [Nat.pow_add, Nat.mul_comm (2 ^ f.eb), Nat.mul_add_mod_self_left]

/-- The finite codes: a sign and a magnitude below infinity's; of K8 no negative zero. -/
theorem Fmt.Regular.decode_code {f : Fmt} (h : f.Regular) {neg : Bool} {mag : Nat} (below : mag < f.infBits)
    (negZero : f.k8 = true → neg = true → mag ≠ 0) : f.decode (f.signBit neg + mag) = .fin neg (f.sig mag) (f.qmin + f.lift mag) := by
  obtain ⟨whole, sign, field, fraction⟩ := f.fields_code neg (lt_of_lt_of_le below f.infBits_le)
  have signed : decide (2 ^ (f.eb + f.mb) ≤ f.signBit neg + mag) = neg := by simp only [sign, Bool.decide_eq_true]
  unfold Fmt.decode
  simp only [whole, field, fraction, signed]
  have value : (if mag / 2 ^ f.mb = 0 then FV.fin neg (mag % 2 ^ f.mb) f.qmin
      else .fin neg (2 ^ f.mb + mag % 2 ^ f.mb) (f.qmin + (mag / 2 ^ f.mb - 1 : Nat))) = .fin neg (f.sig mag) (f.qmin + f.lift mag) := by
    unfold Fmt.sig Fmt.lift
    split
    · next zero => simp [zero]
    · rfl
  cases k8 : f.k8
  · have finite : mag / 2 ^ f.mb ≠ 2 ^ f.eb - 1 := fun top => by
      rw [f.infBits_eq, Fmt.topField, if_neg (by simp [k8]), ← top] at below
      exact absurd (Nat.div_mul_le_self mag (2 ^ f.mb)) (Nat.not_le.mpr below)
    simp only [Bool.false_eq_true, if_false, if_neg finite]
    exact value
  · have number : f.signBit neg + mag ≠ 0x80 := by
      have size : f.infBits = 128 := by rw [Fmt.infBits, if_pos k8, h.k8 k8]; rfl
      have negZero := negZero k8
      unfold Fmt.signBit
      rw [h.k8 k8]
      cases neg
      · simp; omega
      · simp at negZero ⊢; omega
    simp only [if_true, if_neg number]
    exact value

/-- Every finite number of a format is the number of a sign and a magnitude below infinity's. -/
theorem Fmt.Regular.exists_code {f : Fmt} (h : f.Regular) {c : Nat} (finite : (f.decode c).finite = true) :
    ∃ neg mag, mag < f.infBits ∧ f.decode c = .fin neg (f.sig mag) (f.qmin + f.lift mag) := by
  have below : c % 2 ^ f.width < 2 * 2 ^ (f.eb + f.mb) := by
    have width : 2 ^ f.width = 2 * 2 ^ (f.eb + f.mb) := by
      rw [Fmt.width, Nat.add_assoc, Nat.add_comm, Nat.pow_succ, Nat.mul_comm]
    rw [← width]
    exact Nat.mod_lt _ (Nat.two_pow_pos _)
  obtain ⟨neg, mag, size, code⟩ : ∃ neg mag, mag < 2 ^ (f.eb + f.mb) ∧ c % 2 ^ f.width = f.signBit neg + mag := by
    by_cases sign : 2 ^ (f.eb + f.mb) ≤ c % 2 ^ f.width
    · exact ⟨true, c % 2 ^ f.width - 2 ^ (f.eb + f.mb), by omega, by simp [Fmt.signBit]; omega⟩
    · exact ⟨false, c % 2 ^ f.width, by omega, by simp [Fmt.signBit]⟩
  have same : f.decode c = f.decode (f.signBit neg + mag) := by
    unfold Fmt.decode
    rw [← code, Nat.mod_mod]
  rw [same] at finite ⊢
  have small : mag < f.infBits := by
    by_contra high
    obtain ⟨whole, sign, field, fraction⟩ := f.fields_code neg size
    have k8 : f.k8 = false := by
      cases k8 : f.k8
      · rfl
      · rw [Fmt.infBits, if_pos k8] at high
        exact absurd size high
    have top : mag / 2 ^ f.mb = 2 ^ f.eb - 1 := by
      have upper : mag / 2 ^ f.mb < 2 ^ f.eb := by rw [Nat.div_lt_iff_lt_mul (Nat.two_pow_pos _), ← Nat.pow_add]; exact size
      have lower : 2 ^ f.eb - 1 ≤ mag / 2 ^ f.mb := by
        rw [Nat.le_div_iff_mul_le (Nat.two_pow_pos _)]
        rw [f.infBits_eq, Fmt.topField, if_neg (by simp [k8])] at high
        omega
      omega
    unfold Fmt.decode at finite
    simp only [whole, field, fraction, k8, top, Bool.false_eq_true, if_false, if_true] at finite
    split at finite <;> cases finite
  refine ⟨neg, mag, small, h.decode_code small fun k8 sign zero => ?_⟩
  subst sign zero
  have code : f.signBit true + 0 = 0x80 := by simp [Fmt.signBit, h.k8 k8]
  rw [code] at finite
  unfold Fmt.decode at finite
  have width : f.width = 8 := by have := h.k8 k8; unfold Fmt.width; omega
  simp [k8, width] at finite
  cases finite

end Sys2Proof.Machine
end

section
/-! SUPPORT. One rounding of a real number (R33, R49, R50, R54): a rounded magnitude, told apart from its neighbours on the line, meets
Fmt.RoundedOnce. -/

namespace Sys2Proof.Machine

/-! ### Signs -/

/-- A number of a sign. -/
def withSign (neg : Bool) (x : ℝ) : ℝ := if neg then -x else x

theorem withSign_mul (neg : Bool) (x y : ℝ) : withSign neg (x * y) = withSign neg x * y := by
  unfold withSign
  split
  · exact (neg_mul x y).symm
  · rfl

theorem abs_withSign (neg : Bool) (x : ℝ) : |withSign neg x| = |x| := by
  unfold withSign
  split
  · exact abs_neg x
  · rfl

theorem withSign_inj {neg : Bool} {x y : ℝ} : withSign neg x = withSign neg y ↔ x = y := by
  unfold withSign
  split
  · exact neg_inj
  · rfl

theorem withSign_withSign (neg : Bool) (x : ℝ) : withSign neg (withSign neg x) = x := by
  unfold withSign
  split
  · exact neg_neg x
  · rfl

theorem withSign_abs (x : ℝ) : withSign (decide (x < 0)) |x| = x := by
  unfold withSign
  by_cases h : x < 0
  · rw [if_pos (decide_eq_true h), abs_of_neg h, neg_neg]
  · rw [if_neg (by simpa using h), abs_of_nonneg (not_lt.mp h)]

/-! ### The numbers of codes -/

/-- The smallest subnormal of a format. -/
noncomputable def Fmt.unit (f : Fmt) : ℝ := (2 : ℝ) ^ f.qmin

theorem Fmt.unit_pos (f : Fmt) : 0 < f.unit := by unfold Fmt.unit; positivity

theorem FV.exact_fin (neg : Bool) (m : Nat) (e : Int) : ((FV.fin neg m e).exact : ℝ) = withSign neg ((m : ℝ) * (2 : ℝ) ^ e) := by
  unfold FV.exact withSign
  cases neg <;> simp

theorem FV.exact_magnitude (f : Fmt) (neg : Bool) (mag : Nat) :
    ((FV.fin neg (f.sig mag) (f.qmin + f.lift mag)).exact : ℝ) = withSign neg (f.units mag) * f.unit := by
  rw [FV.exact_fin, ← withSign_mul, Fmt.units, Fmt.unit, zpow_add₀ two_ne_zero, zpow_natCast]
  push_cast
  ring_nf

theorem Fmt.units_lt_cast {f : Fmt} {m n : Nat} : (f.units m : ℝ) < f.units n ↔ m < n := by
  rw [Nat.cast_lt, f.units_strictMono.lt_iff_lt]

theorem Fmt.units_le_cast {f : Fmt} {m n : Nat} : (f.units m : ℝ) ≤ f.units n ↔ m ≤ n := by
  rw [Nat.cast_le, f.units_strictMono.le_iff_le]

/-- The code of a sign and a magnitude; K8 has one zero (R52). -/
def Fmt.code (f : Fmt) (neg : Bool) (mag : Nat) : Nat := if mag = 0 then f.zero neg else f.signBit neg + mag

namespace Fmt.Regular
variable {f : Fmt} (h : f.Regular)
include h

theorem infBits_pos : 0 < f.infBits := by
  rw [f.infBits_eq]
  have := h.topField_ge
  exact Nat.mul_pos (by omega) (Nat.two_pow_pos _)

theorem infBits_even : f.infBits % 2 = 0 := by
  obtain ⟨d, hd⟩ : ∃ d, f.mb = d + 1 := ⟨f.mb - 1, by have := h.mb; omega⟩
  rw [f.infBits_eq, hd, Nat.pow_succ, ← Nat.mul_assoc, Nat.mul_mod_left]

/-- What a code stands for: its sign is lost only for the zero of K8. -/
theorem decode_code_eq (neg : Bool) {mag : Nat} (below : mag < f.infBits) :
    ∃ neg', f.decode (f.code neg mag) = .fin neg' (f.sig mag) (f.qmin + f.lift mag) ∧ (mag ≠ 0 ∨ f.k8 = false → neg' = neg) := by
  unfold Fmt.code
  by_cases zero : mag = 0
  · subst zero
    rw [if_pos rfl, Fmt.zero]
    cases k8 : f.k8
    · exact ⟨neg, by simpa using h.decode_code below (neg := neg) fun e => by simp [k8] at e, fun _ => rfl⟩
    · exact ⟨false, by simpa [Fmt.signBit] using h.decode_code below (neg := false) fun _ => nofun, fun e => by simp at e⟩
  · rw [if_neg zero]
    exact ⟨neg, h.decode_code below fun _ _ => zero, fun _ => rfl⟩

theorem finite_code (neg : Bool) {mag : Nat} (below : mag < f.infBits) : (f.decode (f.code neg mag)).finite = true := by
  obtain ⟨neg', code, -⟩ := h.decode_code_eq neg below
  rw [code]
  rfl

theorem neg_code (k8 : f.k8 = false) (neg : Bool) {mag : Nat} (below : mag < f.infBits) : (f.decode (f.code neg mag)).neg = neg := by
  obtain ⟨neg', code, sign⟩ := h.decode_code_eq neg below
  rw [code]
  exact sign (.inr k8)

theorem exact_code (neg : Bool) {mag : Nat} (below : mag < f.infBits) :
    ((f.decode (f.code neg mag)).exact : ℝ) = withSign neg (f.units mag) * f.unit := by
  obtain ⟨neg', code, sign⟩ := h.decode_code_eq neg below
  rw [code, FV.exact_magnitude]
  by_cases zero : mag = 0
  · simp [zero, f.units_zero, withSign]
  · rw [sign (.inl zero)]

theorem code_mod_two (neg : Bool) (mag : Nat) : f.code neg mag % 2 = mag % 2 := by
  have even := h.signBit_even neg
  unfold Fmt.code Fmt.zero
  split
  · next zero =>
    rw [zero]
    split
    · rfl
    · exact even
  · omega

/-- A magnitude's number, from the code without a sign. -/
theorem exact_positive {mag : Nat} (below : mag < f.infBits) : ((f.decode mag).exact : ℝ) = f.units mag * f.unit := by
  have value := h.decode_code (neg := false) below fun _ => nofun
  rw [show f.signBit false + mag = mag by simp [Fmt.signBit]] at value
  rw [value, FV.exact_magnitude]
  rfl

theorem two_le_infBits : 2 ≤ f.infBits := by
  have := h.infBits_pos
  have := h.infBits_even
  omega

theorem top_eq : (f.top : ℝ) = f.units (f.infBits - 1) * f.unit := by
  have := h.infBits_pos
  have code : f.largest false = f.infBits - 1 := by simp [Fmt.largest, Fmt.signBit]
  rw [Fmt.top, code, h.exact_positive (by omega)]

/-- One step above the largest finite number (R50). -/
theorem top_add_topStep : (f.top : ℝ) + f.topStep = f.units f.infBits * f.unit := by
  have := h.two_le_infBits
  have code : f.largest false - 1 = f.infBits - 2 := by simp [Fmt.largest, Fmt.signBit]; omega
  have step : (f.units f.infBits : ℝ) + f.units (f.infBits - 2) = 2 * f.units (f.infBits - 1) := by exact_mod_cast h.units_infBits
  rw [Fmt.topStep, Rat.cast_sub, h.top_eq, code, h.exact_positive (by omega)]
  linear_combination -f.unit * step

theorem normal_eq : (f.normal : ℝ) = f.units (2 ^ f.mb) * f.unit := by
  refine h.exact_positive ?_
  rw [f.infBits_eq]
  have := h.topField_ge
  exact lt_mul_left (Nat.two_pow_pos _) (by omega)

/-- A finite number of the format, in units and in a sign's view: it keeps clear of the line between two neighbouring magnitudes. -/
theorem exists_units {c : Nat} (finite : (f.decode c).finite = true) (neg : Bool) (lo : Nat) :
    ∃ z : ℝ, ((f.decode c).exact : ℝ) = withSign neg z * f.unit ∧ (z ≤ f.units lo ∨ f.units (lo + 1) ≤ z) ∧ (-z ≤ f.units lo ∨ f.units (lo + 1) ≤ -z) := by
  obtain ⟨neg', mag, -, code⟩ := h.exists_code finite
  have clear : (f.units mag : ℝ) ≤ f.units lo ∨ (f.units (lo + 1) : ℝ) ≤ f.units mag := by exact_mod_cast f.units_le_or_ge lo mag
  have opposite : -(f.units mag : ℝ) ≤ f.units lo := by
    have : (0 : ℝ) ≤ f.units mag := Nat.cast_nonneg _
    have : (0 : ℝ) ≤ f.units lo := Nat.cast_nonneg _
    linarith
  refine ⟨withSign neg (withSign neg' (f.units mag)), by rw [withSign_withSign, code, FV.exact_magnitude], ?_⟩
  have sides : withSign neg (withSign neg' (f.units mag)) = f.units mag ∨ withSign neg (withSign neg' (f.units mag)) = -f.units mag := by
    unfold withSign
    cases neg <;> cases neg' <;> simp
  rcases sides with side | side <;> rw [side]
  · exact ⟨clear, .inl opposite⟩
  · exact ⟨.inl opposite, by rwa [neg_neg]⟩

end Fmt.Regular

/-! ### Nearest numbers (R33) -/

/-- d is the rounding of v in a mode as far as the number y may say. -/
def NearestTo (r : Rnd) (v d y : ℝ) (even : Prop) : Prop :=
  match r with
  | .rne => |d - v| ≤ |y - v| ∧ (|d - v| = |y - v| → y ≠ d → even)
  | .rtz => |d| ≤ |v| ∧ 0 ≤ d * v ∧ (|y| ≤ |v| → |y| ≤ |d|)
  | .rdn => d ≤ v ∧ (y ≤ v → y ≤ d)
  | .rup => v ≤ d ∧ (v ≤ y → d ≤ y)

theorem Fmt.nearest_iff (f : Fmt) (r : Rnd) (v : ℝ) (b : Nat) :
    f.Nearest r v b ↔ (f.decode b).finite = true ∧
      ∀ c, (f.decode c).finite = true → NearestTo r v (f.decode b).exact (f.decode c).exact (b % 2 = 0) := Iff.rfl

theorem nearestTo_mul {r : Rnd} {v d y u : ℝ} {even : Prop} (hu : 0 < u) (n : NearestTo r v d y even) :
    NearestTo r (v * u) (d * u) (y * u) even := by
  cases r
  case rne =>
    obtain ⟨near, tie⟩ := n
    unfold NearestTo
    simp only [← sub_mul, abs_mul, abs_of_pos hu, mul_le_mul_iff_left₀ hu, mul_left_inj' hu.ne']
    exact ⟨near, fun same other => tie same fun e => other (by rw [e])⟩
  case rtz =>
    obtain ⟨size, sign, best⟩ := n
    unfold NearestTo
    simp only [abs_mul, abs_of_pos hu, mul_le_mul_iff_left₀ hu]
    have square : d * u * (v * u) = d * v * u ^ 2 := by ring
    exact ⟨size, by rw [square]; positivity, best⟩
  case rdn =>
    obtain ⟨below, best⟩ := n
    exact ⟨mul_le_mul_of_nonneg_right below hu.le, fun hy => mul_le_mul_of_nonneg_right (best (le_of_mul_le_mul_right hy hu)) hu.le⟩
  case rup =>
    obtain ⟨above, best⟩ := n
    exact ⟨mul_le_mul_of_nonneg_right above hu.le, fun hy => mul_le_mul_of_nonneg_right (best (le_of_mul_le_mul_right hy hu)) hu.le⟩

/-- The mode as a magnitude of a sign is rounded in it. -/
def Rnd.ofSign (r : Rnd) (neg : Bool) : Rnd :=
  match r with
  | .rdn => if neg then .rup else .rdn
  | .rup => if neg then .rdn else .rup
  | r => r

theorem nearestTo_withSign {r : Rnd} {neg : Bool} {v d y : ℝ} {even : Prop} (n : NearestTo (Rnd.ofSign r neg) v d y even) :
    NearestTo r (withSign neg v) (withSign neg d) (withSign neg y) even := by
  cases neg
  case false => cases r <;> exact n
  case true =>
    cases r
    case rne =>
      obtain ⟨near, tie⟩ := n
      have flip : ∀ x : ℝ, |-x - -v| = |x - v| := fun x => by rw [← abs_neg, neg_sub_neg, neg_sub]
      unfold NearestTo withSign
      simp only [if_true, flip]
      exact ⟨near, fun same other => tie same fun e => other (by rw [e])⟩
    case rtz =>
      obtain ⟨size, sign, best⟩ := n
      unfold NearestTo withSign
      simp only [if_true, abs_neg, neg_mul_neg]
      exact ⟨size, sign, best⟩
    case rdn =>
      obtain ⟨above, best⟩ := n
      exact ⟨neg_le_neg above, fun hy => neg_le_neg (best (neg_le_neg_iff.mp hy))⟩
    case rup =>
      obtain ⟨below, best⟩ := n
      exact ⟨neg_le_neg below, fun hy => neg_le_neg (best (neg_le_neg_iff.mp hy))⟩

/-- Below the middle of two neighbours the lower is nearest; in the middle they are as near. -/
theorem abs_sub_low_le {a b v z : ℝ} (low : a ≤ v) (half : 2 * v ≤ a + b) (clear : z ≤ a ∨ b ≤ z) :
    |a - v| ≤ |z - v| ∧ (|a - v| = |z - v| → z ≠ a → a + b = 2 * v) := by
  rw [abs_sub_comm a v, abs_of_nonneg (sub_nonneg.mpr low)]
  rcases clear with left | right
  · rw [abs_sub_comm z v, abs_of_nonneg (by linarith)]
    exact ⟨by linarith, fun same other => absurd (by linarith) other⟩
  · rw [abs_of_nonneg (by linarith)]
    exact ⟨by linarith, fun same _ => by linarith⟩

/-- Above the middle the upper is nearest. -/
theorem abs_sub_high_le {a b v z : ℝ} (high : v ≤ b) (half : a + b ≤ 2 * v) (clear : z ≤ a ∨ b ≤ z) :
    |b - v| ≤ |z - v| ∧ (|b - v| = |z - v| → z ≠ b → a + b = 2 * v) := by
  rw [abs_of_nonneg (sub_nonneg.mpr high)]
  rcases clear with left | right
  · rw [abs_sub_comm z v, abs_of_nonneg (by linarith)]
    exact ⟨by linarith, fun same _ => by linarith⟩
  · rw [abs_of_nonneg (by linarith)]
    exact ⟨by linarith, fun same other => absurd (by linarith) other⟩

/-! ### A magnitude between its neighbours -/

/-- A magnitude in units exceeds the largest finite number when it is rounded with no bound on exponents (R50). -/
def Fmt.Overflows (f : Fmt) (r : Rnd) (V : ℝ) : Prop :=
  match r with
  | .rne => (f.units (f.infBits - 1) : ℝ) + f.units f.infBits ≤ 2 * V
  | .rtz | .rdn => (f.units f.infBits : ℝ) ≤ V
  | .rup => (f.units (f.infBits - 1) : ℝ) < V

/-- V lies from magnitude lo on and below the next; nx says whether it is off lo, and up whether the mode takes the next. -/
structure Fmt.Between (f : Fmt) (r : Rnd) (V : ℝ) (lo : Nat) (up nx : Bool) : Prop where
  low : f.units lo ≤ V
  high : V < f.units (lo + 1)
  nx_iff : nx = true ↔ (f.units lo : ℝ) ≠ V
  up_iff : up = true ↔
    match r with
    | .rne => f.units lo + f.units (lo + 1) < 2 * V ∨ (f.units lo + f.units (lo + 1) = 2 * V ∧ lo % 2 = 1)
    | .rtz | .rdn => False
    | .rup => nx = true

namespace Fmt.Between
variable {f : Fmt} {r : Rnd} {V : ℝ} {lo : Nat} {up nx : Bool} (b : f.Between r V lo up nx)
include b

theorem units_le_iff (n : Nat) : (f.units n : ℝ) ≤ V ↔ n ≤ lo := by
  constructor
  · intro le
    exact Nat.lt_succ_iff.mp (Fmt.units_lt_cast.mp (lt_of_le_of_lt le b.high))
  · exact fun le => (Fmt.units_le_cast.mpr le).trans b.low

theorem units_lt_iff (n : Nat) : (f.units n : ℝ) < V ↔ n < lo + bit nx := by
  rw [lt_iff_le_and_ne, b.units_le_iff]
  cases h : nx
  · have same : (f.units lo : ℝ) = V := by
      by_contra ne
      rw [b.nx_iff.mpr ne] at h
      cases h
    rw [← same, ne_eq, Nat.cast_inj, f.units_strictMono.injective.eq_iff]
    exact lt_iff_le_and_ne.symm
  · have off := b.nx_iff.mp h
    constructor
    · rintro ⟨le, -⟩
      exact Nat.lt_succ_of_le le
    · intro lt
      have le : n ≤ lo := Nat.lt_succ_iff.mp lt
      refine ⟨le, fun e => ?_⟩
      rcases Nat.lt_or_eq_of_le le with below | rfl
      · exact absurd (Fmt.units_lt_cast.mpr below) (by rw [e]; exact not_lt.mpr b.low)
      · exact off e

theorem nx_eq_false_iff : nx = false ↔ (f.units lo : ℝ) = V := by
  rw [← Bool.not_eq_true, b.nx_iff, not_ne_iff]

/-- A number of the format is taken as it is. -/
theorem up_eq_false (exact : nx = false) : up = false := by
  have same := b.nx_eq_false_iff.mp exact
  have step : (f.units lo : ℝ) < f.units (lo + 1) := Fmt.units_lt_cast.mpr (Nat.lt_succ_self lo)
  refine Bool.eq_false_iff.mpr fun up => ?_
  have up_iff := b.up_iff.mp up
  cases r
  case rne =>
    rcases up_iff with above | ⟨middle, -⟩ <;> linarith
  case rtz => exact up_iff
  case rdn => exact up_iff
  case rup => exact absurd (exact.symm.trans up_iff) Bool.false_ne_true

theorem units_taken_eq_iff : (f.units (lo + bit up) : ℝ) = V ↔ nx = false := by
  constructor
  · intro same
    cases up
    · exact b.nx_eq_false_iff.mpr same
    · exact absurd same.symm b.high.ne
  · intro exact
    rw [b.up_eq_false exact]
    exact b.nx_eq_false_iff.mp exact

/-- The magnitude that the mode takes, beside every number that keeps clear of the line between the neighbours. -/
theorem nearestTo {z : ℝ} (clear : z ≤ f.units lo ∨ f.units (lo + 1) ≤ z) (clear' : -z ≤ f.units lo ∨ f.units (lo + 1) ≤ -z) :
    NearestTo r V (f.units (lo + bit up)) z ((lo + bit up) % 2 = 0) := by
  have up_iff := b.up_iff
  have positive : (0 : ℝ) ≤ f.units lo := Nat.cast_nonneg _
  have absV : |V| = V := abs_of_nonneg (positive.trans b.low)
  have best : z ≤ V → z ≤ f.units lo := fun hz => clear.resolve_right fun ge => absurd b.high (not_lt.mpr (ge.trans hz))
  have best' : -z ≤ V → -z ≤ f.units lo := fun hz => clear'.resolve_right fun ge => absurd b.high (not_lt.mpr (ge.trans hz))
  cases r
  case rne =>
    cases up
    · obtain ⟨half, tie⟩ := not_or.mp (mt up_iff.mpr Bool.false_ne_true)
      obtain ⟨near, same⟩ := abs_sub_low_le b.low (not_lt.mp half) clear
      refine ⟨near, fun e other => ?_⟩
      have even : lo % 2 ≠ 1 := fun odd => tie ⟨same e other, odd⟩
      show lo % 2 = 0
      omega
    · have half := up_iff.mp rfl
      obtain ⟨near, same⟩ := abs_sub_high_le b.high.le (half.elim le_of_lt fun e => e.1.le) clear
      refine ⟨near, fun e other => ?_⟩
      have odd : lo % 2 = 1 := half.elim (fun lt => absurd (same e other) lt.ne) And.right
      show (lo + 1) % 2 = 0
      omega
  case rtz =>
    obtain rfl : up = false := Bool.eq_false_iff.mpr up_iff.mp
    unfold NearestTo
    rw [show lo + bit false = lo from rfl, absV, abs_of_nonneg positive]
    refine ⟨b.low, mul_nonneg positive (positive.trans b.low), fun hz => ?_⟩
    obtain ⟨left, right⟩ := abs_le.mp hz
    exact abs_le.mpr ⟨by linarith [best' (by linarith)], best right⟩
  case rdn =>
    obtain rfl : up = false := Bool.eq_false_iff.mpr up_iff.mp
    exact ⟨b.low, best⟩
  case rup =>
    obtain rfl : up = nx := Bool.eq_iff_iff.mpr up_iff
    cases up
    · have exact := b.nx_eq_false_iff.mp rfl
      exact ⟨exact.ge, fun hz => exact.le.trans hz⟩
    · have off := b.nx_iff.mp rfl
      exact ⟨b.high.le, fun hz => clear.resolve_left fun le => off (le_antisymm b.low (hz.trans le))⟩

/-- The magnitude is at or beyond infinity's just when the number rounds beyond the largest finite one (R50). -/
theorem overflows_iff (h : f.Regular) : f.Overflows r V ↔ f.infBits ≤ lo + bit up := by
  have two := h.two_le_infBits
  have even := h.infBits_even
  have up_iff := b.up_iff
  have step : (f.units (f.infBits - 1) : ℝ) < f.units f.infBits := Fmt.units_lt_cast.mpr (by omega)
  cases r
  case rne =>
    show (f.units (f.infBits - 1) : ℝ) + f.units f.infBits ≤ 2 * V ↔ _
    rcases Nat.lt_trichotomy (lo + 1) f.infBits with below | last | above
    · have small : V < f.units (f.infBits - 1) := lt_of_lt_of_le b.high (Fmt.units_le_cast.mpr (by omega))
      have bound : bit up ≤ 1 := by cases up <;> decide
      exact iff_of_false (by linarith) (by omega)
    · have odd : lo % 2 = 1 := by omega
      rw [← last, Nat.add_sub_cancel]
      cases up
      · obtain ⟨half, tie⟩ := not_or.mp (mt up_iff.mpr Bool.false_ne_true)
        exact iff_of_false (fun le => le.lt_or_eq.elim half fun e => tie ⟨e, odd⟩) (Nat.not_succ_le_self lo)
      · exact iff_of_true ((up_iff.mp rfl).elim le_of_lt fun e => e.1.le) le_rfl
    · have large : (f.units f.infBits : ℝ) ≤ V := (b.units_le_iff _).mpr (by omega)
      exact iff_of_true (by linarith) (by omega)
  case rtz =>
    obtain rfl : up = false := Bool.eq_false_iff.mpr up_iff.mp
    exact b.units_le_iff _
  case rdn =>
    obtain rfl : up = false := Bool.eq_false_iff.mpr up_iff.mp
    exact b.units_le_iff _
  case rup =>
    obtain rfl : up = nx := Bool.eq_iff_iff.mpr up_iff
    refine (b.units_lt_iff _).trans ?_
    omega

end Fmt.Between

/-! ### One rounding -/

/-- The code and flags of a rounded magnitude (R50, R54). -/
def Fmt.finish (f : Fmt) (r : Rnd) (sat neg : Bool) (lo : Nat) (up nx : Bool) : Nat × FFlags :=
  if f.infBits ≤ lo + bit up then
    (if sat = true ∨ f.k8 = true ∨ Rnd.ofSign r neg = .rtz ∨ Rnd.ofSign r neg = .rdn then f.largest neg else f.inf neg, { ovf := true, nx := true })
  else (f.code neg (lo + bit up), { nx := nx, uf := nx && decide (lo + bit up < 2 ^ f.mb) })

/-- R50's overflow, of a magnitude in units. -/
theorem Fmt.Regular.beyond_iff {f : Fmt} (h : f.Regular) (r : Rnd) (v : ℝ) :
    f.Beyond r v ↔ f.Overflows (Rnd.ofSign r (decide (v < 0))) (|v| / f.unit) := by
  have pos := f.unit_pos
  have largest := h.top_eq
  have beyond := h.top_add_topStep
  have toward : (f.top : ℝ) + f.topStep ≤ |v| ↔ (f.units f.infBits : ℝ) ≤ |v| / f.unit := by rw [le_div_iff₀ pos, beyond]
  have away : (f.top : ℝ) < |v| ↔ (f.units (f.infBits - 1) : ℝ) < |v| / f.unit := by rw [lt_div_iff₀ pos, largest]
  cases r
  case rne =>
    show (f.top : ℝ) + f.topStep / 2 ≤ |v| ↔ (_ + _ : ℝ) ≤ _
    rw [← mul_div_assoc, le_div_iff₀ pos, add_mul, ← largest, ← beyond]
    constructor <;> intro half <;> linarith
  case rtz => exact toward
  case rdn =>
    unfold Fmt.Beyond Rnd.ofSign Fmt.Overflows
    by_cases neg : v < 0
    · simpa only [neg, if_true, decide_true, ← abs_of_neg neg] using away
    · simpa only [neg, if_false, decide_false, Bool.false_eq_true, abs_of_nonneg (not_lt.mp neg)] using toward
  case rup =>
    unfold Fmt.Beyond Rnd.ofSign Fmt.Overflows
    by_cases neg : v < 0
    · simpa only [neg, if_true, decide_true, ← abs_of_neg neg] using toward
    · simpa only [neg, if_false, decide_false, Bool.false_eq_true, abs_of_nonneg (not_lt.mp neg)] using away

/-- Where a rounding stops at the largest finite number, in the words of Fmt.RoundedOnce. -/
theorem Rnd.ofSign_toward_iff {r : Rnd} {v : ℝ} (nonzero : v ≠ 0) :
    (Rnd.ofSign r (decide (v < 0)) = .rtz ∨ Rnd.ofSign r (decide (v < 0)) = .rdn) ↔ (r = .rtz ∨ r = .rdn ∧ 0 < v ∨ r = .rup ∧ v < 0) := by
  rcases lt_or_gt_of_ne nonzero with neg | pos
  · have not_pos : ¬0 < v := neg.not_gt
    cases r <;> simp [Rnd.ofSign, neg, not_pos]
  · have not_neg : ¬v < 0 := pos.not_gt
    cases r <;> simp [Rnd.ofSign, pos, not_neg]

/-- A number whose magnitude lies between two neighbours, finished, is rounded once. -/
theorem Fmt.Regular.roundedOnce_finish {f : Fmt} (h : f.Regular) {r : Rnd} {sat : Bool} {v : ℝ} {lo : Nat} {up nx : Bool} (nonzero : v ≠ 0)
    (b : f.Between (Rnd.ofSign r (decide (v < 0))) (|v| / f.unit) lo up nx) :
    f.RoundedOnce r sat v (f.finish r sat (decide (v < 0)) lo up nx) := by
  have pos := f.unit_pos
  have reach : f.Beyond r v ↔ f.infBits ≤ lo + bit up := (h.beyond_iff r v).trans (b.overflows_iff h)
  have value : v = withSign (decide (v < 0)) (|v| / f.unit) * f.unit := by
    rw [← withSign_mul, div_mul_cancel₀ _ pos.ne', withSign_abs]
  refine ⟨fun beyond => ?_, fun within => ?_⟩
  · have finish := Fmt.finish.eq_1 f r sat (decide (v < 0)) lo up nx
    rw [if_pos (reach.mp beyond)] at finish
    rw [finish]
    simp only [Rnd.ofSign_toward_iff nonzero, and_self]
  · have below : lo + bit up < f.infBits := Nat.not_le.mp (mt reach.mpr within)
    have finish := Fmt.finish.eq_1 f r sat (decide (v < 0)) lo up nx
    rw [if_neg (Nat.not_le.mpr below)] at finish
    have number := h.exact_code (decide (v < 0)) below
    have exact_iff : ((f.decode (f.code (decide (v < 0)) (lo + bit up))).exact : ℝ) = v ↔ nx = false := by
      rw [number, ← b.units_taken_eq_iff]
      conv_lhs => rhs; rw [value]
      rw [mul_left_inj' pos.ne', withSign_inj]
    rw [finish]
    refine ⟨(f.nearest_iff r v _).mpr ⟨h.finite_code _ below, fun c finite => ?_⟩, rfl, rfl, rfl, fun k8 => h.neg_code k8 _ below, ?_, ?_⟩
    · obtain ⟨z, code, clear, clear'⟩ := h.exists_units finite (decide (v < 0)) lo
      have near := nearestTo_mul pos (nearestTo_withSign (b.nearestTo clear clear'))
      rw [number, code, h.code_mod_two]
      rwa [← value] at near
    · show nx = true ↔ _
      rw [ne_eq, exact_iff, Bool.not_eq_false]
    · show (nx && decide (lo + bit up < 2 ^ f.mb)) = true ↔ _
      have tiny : |(f.decode (f.code (decide (v < 0)) (lo + bit up))).exact| < f.normal ↔ lo + bit up < 2 ^ f.mb := by
        rw [← Rat.cast_lt (K := ℝ), Rat.cast_abs, number, abs_mul, abs_of_pos pos, abs_withSign, h.normal_eq, mul_lt_mul_iff_left₀ pos,
          abs_of_nonneg (Nat.cast_nonneg _), Fmt.units_lt_cast]
      rw [ne_eq, exact_iff, Bool.not_eq_false, tiny, Bool.and_eq_true, decide_eq_true_eq]

end Sys2Proof.Machine
end

section
/-! SUPPORT. Fmt.round as a quotient and a remainder (R49): what it rounds is a number between two neighbours, so it rounds once. -/

namespace Sys2Proof.Machine

theorem bitLen_spec {n : Nat} (h : n ≠ 0) : 0 < bitLen n ∧ 2 ^ (bitLen n - 1) ≤ n ∧ n < 2 ^ bitLen n := by
  unfold bitLen
  rw [if_neg h]
  exact ⟨Nat.succ_pos _, Nat.log2_self_le h, Nat.lt_log2_self⟩

/-! ### The remainder of a quotient -/

/-- A real number has a quotient, and the remainder compares with half of the divisor as the number does with the middle of its step. -/
structure QuotRem (T : ℝ) (quot rem half : Nat) : Prop where
  low : quot ≤ T
  high : T < quot + 1
  rem_iff : rem ≠ 0 ↔ (quot : ℝ) ≠ T
  above_iff : half < rem ↔ 2 * (quot : ℝ) + 1 < 2 * T
  middle_iff : (rem = half ∧ rem ≠ 0) ↔ 2 * (quot : ℝ) + 1 = 2 * T

theorem quotRem_nat (n : Nat) : QuotRem n n 0 0 where
  low := le_rfl
  high := lt_add_one _
  rem_iff := by simp
  above_iff := by simp
  middle_iff := by simp

/-- Of a natural number: its own quotient and remainder. -/
theorem quotRem_div (n : Nat) {h : Nat} (pos : 0 < h) : QuotRem ((n : ℝ) / (2 * h : Nat)) (n / (2 * h)) (n % (2 * h)) h := by
  have whole : ((2 * h * (n / (2 * h)) + n % (2 * h) : Nat) : ℝ) = n := by exact_mod_cast Nat.div_add_mod n (2 * h)
  have below : n % (2 * h) < 2 * h := Nat.mod_lt _ (by omega)
  have step : (0 : ℝ) < (2 * h : Nat) := by exact_mod_cast (by omega : 0 < 2 * h)
  generalize n / (2 * h) = q at whole
  generalize n % (2 * h) = r at whole below
  have value : (n : ℝ) = q * (2 * h : Nat) + r := by rw [← whole]; push_cast; ring
  have below' : (r : ℝ) < (2 * h : Nat) := by exact_mod_cast below
  refine ⟨?_, ?_, ?_, ?_, ?_⟩
  · rw [le_div_iff₀ step, value]
    linarith [Nat.cast_nonneg (α := ℝ) r]
  · rw [div_lt_iff₀ step, value]
    linarith
  · rw [ne_eq, ne_eq, eq_div_iff step.ne', value, left_eq_add, Nat.cast_eq_zero]
  · rw [mul_div_assoc', lt_div_iff₀ step, value, ← Nat.cast_lt (α := ℝ)]
    push_cast
    constructor <;> intro lt <;> linarith
  · rw [mul_div_assoc', eq_div_iff step.ne', value, ← Nat.cast_inj (R := ℝ)]
    push_cast
    constructor
    · rintro ⟨e, -⟩
      linarith
    · intro e
      have same : (r : ℝ) = h := by linarith
      exact ⟨same, by have := Nat.cast_inj.mp same; omega⟩

/-- Of a number strictly between 4 m and 4 m + 4: those of 4 m + 1, where the divisor is a multiple of 8. -/
theorem quotRem_sticky {t : ℝ} {m c : Nat} (pos : 0 < c) (low : 4 * (m : ℝ) < t) (high : t < 4 * (m : ℝ) + 4) :
    QuotRem (t / (8 * c : Nat)) ((4 * m + 1) / (8 * c)) ((4 * m + 1) % (8 * c)) (4 * c) := by
  have step : (0 : ℝ) < (8 * c : Nat) := by exact_mod_cast (by omega : 0 < 8 * c)
  obtain ⟨q, j, hj, whole⟩ : ∃ q j, j < 2 * c ∧ m = 2 * c * q + j :=
    ⟨m / (2 * c), m % (2 * c), Nat.mod_lt _ (by omega), (Nat.div_add_mod m (2 * c)).symm⟩
  have value : 4 * m + 1 = 8 * c * q + (4 * j + 1) := by rw [whole]; ring
  have below : 4 * j + 1 < 8 * c := by omega
  have cast : (m : ℝ) = 2 * c * q + j := by rw [whole]; push_cast; ring
  rw [value, Nat.mul_add_div (by omega), Nat.div_eq_of_lt below, Nat.add_zero, Nat.mul_add_mod_self_left, Nat.mod_eq_of_lt below]
  rw [cast] at low high
  have nonneg : (0 : ℝ) ≤ j := Nat.cast_nonneg j
  have room : (j : ℝ) + 1 ≤ 2 * c := by exact_mod_cast hj
  refine ⟨?_, ?_, ?_, ?_, ?_⟩
  · rw [le_div_iff₀ step]
    push_cast
    linarith
  · rw [div_lt_iff₀ step]
    push_cast
    linarith
  · refine iff_of_true (Nat.succ_ne_zero _) fun e => ?_
    rw [eq_div_iff step.ne'] at e
    push_cast at e
    linarith
  · rw [mul_div_assoc', lt_div_iff₀ step]
    push_cast
    constructor
    · intro lt
      have : (c : ℝ) ≤ j := by exact_mod_cast (by omega : c ≤ j)
      linarith
    · intro lt
      by_contra le
      have : (j : ℝ) + 1 ≤ c := by exact_mod_cast (by omega : j + 1 ≤ c)
      linarith
  · refine iff_of_false (fun e => by omega) fun e => ?_
    rw [mul_div_assoc', eq_div_iff step.ne'] at e
    push_cast at e
    rcases Nat.lt_or_ge j c with lt | ge
    · have : (j : ℝ) + 1 ≤ c := by exact_mod_cast lt
      linarith
    · have : (c : ℝ) ≤ j := by exact_mod_cast ge
      linarith

/-- A quotient of as many bits as the format keeps, and its remainder, place the number between two neighbours. -/
theorem Fmt.Regular.between_quotRem {f : Fmt} (h : f.Regular) (r : Rnd) (neg : Bool) {T : ℝ} {k quot rem half : Nat} (d : QuotRem T quot rem half)
    (fits : quot < 2 ^ (f.mb + 1)) (sub : quot < 2 ^ f.mb → k = 0) :
    f.Between (Rnd.ofSign r neg) (T * 2 ^ k) (k * 2 ^ f.mb + quot) (roundsUp r neg quot rem half) (rem != 0) := by
  obtain ⟨sig, lift⟩ := f.magnitude_spec fits sub
  have pos : (0 : ℝ) < 2 ^ k := by positivity
  have lower : (f.units (k * 2 ^ f.mb + quot) : ℝ) = quot * 2 ^ k := by rw [f.units_magnitude fits sub]; push_cast; rfl
  have upper : (f.units (k * 2 ^ f.mb + quot + 1) : ℝ) = (quot + 1) * 2 ^ k := by rw [f.units_succ, sig, lift]; push_cast; rfl
  have nx_iff : (rem != 0) = true ↔ (f.units (k * 2 ^ f.mb + quot) : ℝ) ≠ T * 2 ^ k := by
    rw [bne_iff_ne, d.rem_iff, lower, ne_eq, ne_eq, mul_left_inj' pos.ne']
  have parity : (k * 2 ^ f.mb + quot) % 2 = quot % 2 := by
    obtain ⟨i, hi⟩ : ∃ i, f.mb = i + 1 := ⟨f.mb - 1, by have := h.mb; omega⟩
    rw [hi, Nat.pow_succ, ← Nat.mul_assoc, Nat.mul_add_mod_self_right]
  refine ⟨?_, ?_, nx_iff, ?_⟩
  · rw [lower]
    exact mul_le_mul_of_nonneg_right d.low pos.le
  · rw [upper]
    exact mul_lt_mul_of_pos_right d.high pos
  · cases r
    case rne =>
      show (decide (half < rem) || (rem == half && rem != 0 && quot % 2 == 1)) = true ↔ (_ < _ ∨ _)
      have sum : (quot : ℝ) * 2 ^ k + (quot + 1) * 2 ^ k = (2 * quot + 1) * 2 ^ k := by ring
      rw [lower, upper, sum, ← mul_assoc, mul_lt_mul_iff_left₀ pos, mul_left_inj' pos.ne', parity, ← d.above_iff, ← d.middle_iff]
      simp only [Bool.or_eq_true, Bool.and_eq_true, decide_eq_true_eq, beq_iff_eq, bne_iff_ne]
    case rtz => exact iff_of_false Bool.false_ne_true id
    case rdn =>
      cases neg
      · exact iff_of_false Bool.false_ne_true id
      · exact Iff.rfl
    case rup =>
      cases neg
      · exact Iff.rfl
      · exact iff_of_false Bool.false_ne_true id

/-! ### Fmt.round -/

/-- The exponent of the unit in which m · 2^e is rounded: mb + 1 bits are kept, and no bit below the smallest subnormal. -/
def Fmt.quantum (f : Fmt) (m : Nat) (e : Int) : Int := max (e + (bitLen m : Int) - 1 - f.mb) f.qmin

/-- A rounded quotient as a magnitude, also where it carries into the next exponent. -/
theorem Fmt.magnitude_carry (f : Fmt) {q : Int} {quot : Nat} (up : Bool) (least : f.qmin ≤ q) (fits : quot < 2 ^ (f.mb + 1))
    (sub : quot < 2 ^ f.mb → q = f.qmin) :
    let n := quot + bit up
    let n' := if n = 2 ^ (f.mb + 1) then 2 ^ f.mb else n
    let q' := if n = 2 ^ (f.mb + 1) then q + 1 else q
    let mag := (q - f.qmin).toNat * 2 ^ f.mb + quot + bit up
    (if n' < 2 ^ f.mb then n' else (q' - f.qmin + 1).toNat * 2 ^ f.mb + (n' - 2 ^ f.mb)) = mag ∧ (n' < 2 ^ f.mb ↔ mag < 2 ^ f.mb) := by
  intro n n' q' mag
  obtain ⟨k, rfl⟩ : ∃ k : Nat, q = f.qmin + k := ⟨(q - f.qmin).toNat, by omega⟩
  have lifted : (f.qmin + k - f.qmin).toNat = k := by omega
  have mag_eq : mag = k * 2 ^ f.mb + n := by simp only [mag, n, lifted, Nat.add_assoc]
  have bound : bit up ≤ 1 := by cases up <;> decide
  have pos : 0 < 2 ^ f.mb := Nat.two_pow_pos _
  rw [Nat.pow_succ] at fits
  rw [mag_eq]
  by_cases carry : n = 2 ^ (f.mb + 1)
  · have next : (f.qmin + k + 1 - f.qmin + 1).toNat = k + 2 := by omega
    simp only [n', q', if_pos carry, next, lt_irrefl, if_false, Nat.sub_self, Nat.add_zero, false_iff]
    rw [carry, Nat.pow_succ, Nat.add_mul]
    omega
  · have next : (f.qmin + k - f.qmin + 1).toNat = k + 1 := by omega
    simp only [n', q', if_neg carry, next]
    by_cases small : n < 2 ^ f.mb
    · obtain rfl : k = 0 := by
        have := sub (lt_of_le_of_lt (Nat.le_add_right _ _) small)
        omega
      simp [small]
    · rw [if_neg small, Nat.succ_mul]
      omega

/-- Fmt.round in two steps: the quotient's magnitude, and its finish. -/
theorem Fmt.round_eq_finish (f : Fmt) (r : Rnd) (sat neg : Bool) (m : Nat) (e : Int) (sticky : Bool) :
    let n := 4 * m + bit sticky
    let q := f.quantum n (e - 2)
    let quot := shiftInt n (e - 2 - q)
    let rem := if e - 2 < q then n % 2 ^ (q - (e - 2)).toNat else 0
    quot < 2 ^ (f.mb + 1) → (quot < 2 ^ f.mb → q = f.qmin) →
    f.round r sat neg m e sticky =
      f.finish r sat neg ((q - f.qmin).toNat * 2 ^ f.mb + quot) (roundsUp r neg quot rem (2 ^ (q - (e - 2)).toNat / 2)) (rem != 0) := by
  intro n q quot rem fits sub
  obtain ⟨mag, small⟩ := f.magnitude_carry (roundsUp r neg quot rem (2 ^ (q - (e - 2)).toNat / 2)) (le_max_right _ _) fits sub
  unfold Fmt.round Fmt.finish
  refine if_congr (iff_of_eq (congrArg (f.infBits ≤ ·) mag)) ?_ (Prod.ext ?_ ?_)
  · cases r <;> cases neg <;> simp [Rnd.ofSign]
  · exact congrArg (fun n => if n = 0 then f.zero neg else f.signBit neg + n) mag
  · exact congrArg (fun b => ({ nx := rem != 0, uf := rem != 0 && b } : FFlags)) (decide_eq_decide.mpr small)

/-- The quotient keeps as many bits as the format does, all of them unless the smallest subnormal bounds it. -/
theorem Fmt.quotient_bits (f : Fmt) {n : Nat} (hn : n ≠ 0) (e : Int) :
    shiftInt n (e - f.quantum n e) < 2 ^ (f.mb + 1) ∧ (shiftInt n (e - f.quantum n e) < 2 ^ f.mb → f.quantum n e = f.qmin) := by
  obtain ⟨some, low, high⟩ := bitLen_spec hn
  have least : e + (bitLen n : Int) - 1 - f.mb ≤ f.quantum n e := le_max_left _ _
  have one : f.quantum n e = f.qmin ∨ f.quantum n e = e + (bitLen n : Int) - 1 - f.mb := (max_choice _ _).symm
  generalize f.quantum n e = q at least one
  unfold shiftInt
  split
  · next left =>
    obtain ⟨d, rfl⟩ : ∃ d : Nat, e = q + d := ⟨(e - q).toNat, by omega⟩
    have shift : (q + d - q).toNat = d := by omega
    rw [shift]
    refine ⟨?_, fun small => one.resolve_right fun eq => absurd small (Nat.not_lt.mpr ?_)⟩
    · calc n * 2 ^ d < 2 ^ bitLen n * 2 ^ d := Nat.mul_lt_mul_of_pos_right high (Nat.two_pow_pos d)
        _ = 2 ^ (bitLen n + d) := (Nat.pow_add ..).symm
        _ ≤ 2 ^ (f.mb + 1) := Nat.pow_le_pow_right (by decide) (by omega)
    · calc 2 ^ f.mb = 2 ^ (bitLen n - 1 + d) := by congr 1; omega
        _ = 2 ^ (bitLen n - 1) * 2 ^ d := Nat.pow_add ..
        _ ≤ n * 2 ^ d := Nat.mul_le_mul_right _ low
  · next right =>
    obtain ⟨d, rfl⟩ : ∃ d : Nat, q = e + d := ⟨(q - e).toNat, by omega⟩
    have shift : (-(e - (e + d))).toNat = d := by omega
    rw [shift]
    refine ⟨?_, fun small => one.resolve_right fun eq => absurd small (Nat.not_lt.mpr ?_)⟩
    · rw [Nat.div_lt_iff_lt_mul (Nat.two_pow_pos d), ← Nat.pow_add]
      exact lt_of_lt_of_le high (Nat.pow_le_pow_right (by decide) (by omega))
    · rw [Nat.le_div_iff_mul_le (Nat.two_pow_pos d), ← Nat.pow_add]
      exact le_trans (Nat.pow_le_pow_right (by decide) (by omega)) low

/-- m · 2^e is the size of a number; or, when sticky is set, the number lies above it and below (m + 1) · 2^e, and m has bits to spare (R49). -/
structure Fmt.Holds (f : Fmt) (m : Nat) (e : Int) (sticky : Bool) (x : ℝ) : Prop where
  nonzero : m ≠ 0
  exact : sticky = false → x = m * (2 : ℝ) ^ e
  inexact : sticky = true → 2 ^ (f.mb + 1) ≤ m ∧ m * (2 : ℝ) ^ e < x ∧ x < (m + 1) * (2 : ℝ) ^ e

/-- The quotient and remainder that Fmt.round finds are those of the number in the unit in which it is rounded. -/
theorem Fmt.Holds.quotRem {f : Fmt} {m : Nat} {e : Int} {sticky : Bool} {x : ℝ} (holds : f.Holds m e sticky x) :
    let n := 4 * m + bit sticky
    let q := f.quantum n (e - 2)
    QuotRem (x / (2 : ℝ) ^ q) (shiftInt n (e - 2 - q)) (if e - 2 < q then n % 2 ^ (q - (e - 2)).toNat else 0) (2 ^ (q - (e - 2)).toNat / 2) := by
  intro n q
  have pos : ∀ z : ℤ, (0 : ℝ) < (2 : ℝ) ^ z := fun z => zpow_pos two_pos z
  have quarter : (2 : ℝ) ^ e = 4 * (2 : ℝ) ^ (e - 2) := by
    rw [show e = e - 2 + 2 by ring, zpow_add₀ two_ne_zero, show e - 2 + 2 - 2 = e - 2 by ring, mul_comm]
    norm_num
  have spare : sticky = true → e - 2 + 3 ≤ q := fun st => by
    obtain ⟨bits, -, -⟩ := holds.inexact st
    have hn : n ≠ 0 := by have := holds.nonzero; omega
    obtain ⟨some, -, high⟩ := bitLen_spec hn
    have big : 2 ^ (f.mb + 3) < 2 ^ bitLen n := lt_of_le_of_lt (by rw [Nat.pow_add] at bits ⊢; omega) high
    have len : f.mb + 3 < bitLen n := (Nat.pow_lt_pow_iff_right (by decide)).mp big
    have least : e - 2 + (bitLen n : Int) - 1 - f.mb ≤ q := le_max_left _ _
    omega
  by_cases shifts : e - 2 < q
  · obtain ⟨d, hd⟩ : ∃ d : Nat, q = e - 2 + d + 1 := ⟨(q - (e - 2) - 1).toNat, by omega⟩
    have sh : (q - (e - 2)).toNat = d + 1 := by omega
    have sh' : (-(e - 2 - q)).toNat = d + 1 := by omega
    have scale : (2 : ℝ) ^ q = (2 : ℝ) ^ (e - 2) * ((2 * 2 ^ d : Nat) : ℝ) := by
      rw [hd, zpow_add₀ two_ne_zero, zpow_add₀ two_ne_zero, zpow_natCast, zpow_one]
      push_cast
      ring
    have half : 2 ^ (d + 1) / 2 = 2 ^ d := by rw [Nat.pow_succ, Nat.mul_div_cancel _ (by decide)]
    rw [if_pos shifts, shiftInt, if_neg (by omega), sh, sh', scale, ← div_div, half, Nat.pow_succ']
    cases st : sticky
    · have number : x / (2 : ℝ) ^ (e - 2) = (4 * m : Nat) := by
        rw [holds.exact st, quarter, div_eq_iff (pos _).ne']
        push_cast
        ring
      rw [number]
      simpa [n, st, bit] using quotRem_div (4 * m) (Nat.two_pow_pos d)
    · obtain ⟨-, low, high⟩ := holds.inexact st
      obtain ⟨c, rfl⟩ : ∃ c, d = c + 2 := ⟨d - 2, by have := spare st; omega⟩
      rw [quarter] at low high
      have number := quotRem_sticky (t := x / (2 : ℝ) ^ (e - 2)) (m := m) (Nat.two_pow_pos c)
        (by rw [lt_div_iff₀ (pos _)]; linarith) (by rw [div_lt_iff₀ (pos _)]; linarith)
      have eight : 2 * 2 ^ (c + 2) = 8 * 2 ^ c := by ring
      have four : 2 ^ (c + 2) = 4 * 2 ^ c := by ring
      rw [eight, four]
      simpa [n, st, bit] using number
  · have st : sticky = false := by
      cases st : sticky
      · rfl
      · have := spare st
        omega
    have none : (q - (e - 2)).toNat = 0 := by omega
    have number : x / (2 : ℝ) ^ q = (n * 2 ^ (e - 2 - q).toNat : Nat) := by
      obtain ⟨d, hd⟩ : ∃ d : Nat, e - 2 = q + d := ⟨(e - 2 - q).toNat, by omega⟩
      have sh : (e - 2 - q).toNat = d := by omega
      rw [holds.exact st, quarter, sh, hd, zpow_add₀ two_ne_zero, zpow_natCast, div_eq_iff (pos _).ne']
      simp only [n, st, bit]
      push_cast
      ring
    rw [if_neg shifts, none, shiftInt, if_pos (by omega), number]
    exact quotRem_nat _

/-- Fmt.round rounds once whatever m, e and sticky hold (R49, R50, R54). -/
theorem Fmt.Regular.roundedOnce_round {f : Fmt} (h : f.Regular) (r : Rnd) (sat : Bool) {m : Nat} {e : Int} {sticky : Bool} {v : ℝ} (nonzero : v ≠ 0)
    (holds : f.Holds m e sticky |v|) : f.RoundedOnce r sat v (f.round r sat (decide (v < 0)) m e sticky) := by
  have hn : 4 * m + bit sticky ≠ 0 := by have := holds.nonzero; omega
  obtain ⟨fits, sub⟩ := f.quotient_bits hn (e - 2)
  have least : f.qmin ≤ f.quantum (4 * m + bit sticky) (e - 2) := le_max_right _ _
  rw [f.round_eq_finish r sat _ m e sticky fits sub]
  refine h.roundedOnce_finish nonzero ?_
  have between := h.between_quotRem r (decide (v < 0)) (k := (f.quantum (4 * m + bit sticky) (e - 2) - f.qmin).toNat) holds.quotRem fits
    fun small => by rw [sub small, sub_self]; rfl
  have scale : |v| / f.unit = |v| / (2 : ℝ) ^ f.quantum (4 * m + bit sticky) (e - 2) *
      2 ^ (f.quantum (4 * m + bit sticky) (e - 2) - f.qmin).toNat := by
    rw [Fmt.unit, ← zpow_natCast, Int.toNat_of_nonneg (by omega), zpow_sub₀ two_ne_zero, div_mul_div_cancel₀ (zpow_pos two_pos _).ne']
  rw [scale]
  exact between

end Sys2Proof.Machine
end

section
/-! SUPPORT. What FDIV, FSQRT, FRCP and FRSQ hand to their one rounding (R169, R171), and O7. -/

namespace Sys2Proof.Machine

theorem withSign_neg_iff {neg : Bool} {x : ℝ} (pos : 0 < x) : decide (withSign neg x < 0) = neg := by
  unfold withSign
  cases neg
  · simpa using pos.le
  · simpa using pos

theorem withSign_ne_zero {neg : Bool} {x : ℝ} (pos : 0 < x) : withSign neg x ≠ 0 := by
  unfold withSign
  cases neg
  · exact pos.ne'
  · exact neg_ne_zero.mpr pos.ne'

theorem withSign_div (a b : Bool) (x y : ℝ) : withSign a x / withSign b y = withSign (a != b) (x / y) := by
  unfold withSign
  cases a <;> cases b <;> simp [neg_div, div_neg]

/-- One rounding of a sign and a size. -/
theorem Fmt.Regular.roundedOnce_signed {f : Fmt} (h : f.Regular) (r : Rnd) (sat neg : Bool) {m : Nat} {e : Int} {sticky : Bool} {x : ℝ} (pos : 0 < x)
    (holds : f.Holds m e sticky x) : f.RoundedOnce r sat (withSign neg x) (f.round r sat neg m e sticky) := by
  have once := h.roundedOnce_round r sat (withSign_ne_zero (neg := neg) pos) (m := m) (e := e) (sticky := sticky)
    (by rwa [abs_withSign, abs_of_pos pos])
  rwa [withSign_neg_iff pos] at once

theorem pos_of_fin {m : Nat} (hm : m ≠ 0) (e : Int) : (0 : ℝ) < m * (2 : ℝ) ^ e :=
  mul_pos (Nat.cast_pos.mpr (Nat.pos_of_ne_zero hm)) (zpow_pos two_pos e)

/-! ### Quotients and roots -/

/-- A floor and whether it is off its number hold the number. -/
theorem Fmt.holds_of_floor (f : Fmt) {m : Nat} {e : Int} {sticky : Bool} {y : ℝ} (bits : 2 ^ (f.mb + 1) ≤ m) (low : m ≤ y) (high : y < m + 1)
    (off : sticky = true ↔ (m : ℝ) ≠ y) : f.Holds m e sticky (y * (2 : ℝ) ^ e) where
  nonzero := by have := Nat.two_pow_pos (f.mb + 1); omega
  exact st := by
    have same : (m : ℝ) = y := by
      by_contra ne
      rw [off.mpr ne] at st
      cases st
    rw [same]
  inexact st := ⟨bits, mul_lt_mul_of_pos_right (lt_of_le_of_ne low (off.mp st)) (zpow_pos two_pos e),
    mul_lt_mul_of_pos_right high (zpow_pos two_pos e)⟩

/-- The quotient of natural numbers as a floor. -/
theorem natDiv_floor (a : Nat) {n : Nat} (hn : n ≠ 0) :
    ((a / n : Nat) : ℝ) ≤ (a : ℝ) / n ∧ (a : ℝ) / n < (a / n : Nat) + 1 ∧ ((a % n != 0) = true ↔ ((a / n : Nat) : ℝ) ≠ (a : ℝ) / n) := by
  have pos : (0 : ℝ) < n := Nat.cast_pos.mpr (Nat.pos_of_ne_zero hn)
  have whole : ((n * (a / n) + a % n : Nat) : ℝ) = a := by exact_mod_cast Nat.div_add_mod a n
  have below : ((a % n : Nat) : ℝ) < n := Nat.cast_lt.mpr (Nat.mod_lt _ (Nat.pos_of_ne_zero hn))
  have least : (0 : ℝ) ≤ (a % n : Nat) := Nat.cast_nonneg _
  push_cast at whole
  refine ⟨?_, ?_, ?_⟩
  · rw [le_div_iff₀ pos]
    linarith
  · rw [div_lt_iff₀ pos]
    linarith
  · rw [bne_iff_ne, ne_eq, ne_eq, eq_div_iff pos.ne', ← Nat.cast_eq_zero (R := ℝ)]
    constructor <;> intro ne e <;> exact ne (by linarith)

/-- The root of a natural number as a floor of the root of any number up to the next. -/
theorem natSqrt_floor {a : Nat} {y : ℝ} (low : a ≤ y) (high : y < a + 1) :
    ((Nat.sqrt a : Nat) : ℝ) ≤ √y ∧ √y < (Nat.sqrt a : Nat) + 1 ∧
      ((a : ℝ) ≠ y ∨ Nat.sqrt a * Nat.sqrt a ≠ a ↔ ((Nat.sqrt a : Nat) : ℝ) ≠ √y) := by
  have floor : ((Nat.sqrt a * Nat.sqrt a : Nat) : ℝ) ≤ a := Nat.cast_le.mpr (Nat.sqrt_le a)
  have next : ((a + 1 : Nat) : ℝ) ≤ ((Nat.sqrt a + 1) * (Nat.sqrt a + 1) : Nat) := Nat.cast_le.mpr (Nat.succ_le_of_lt (Nat.lt_succ_sqrt a))
  have nonneg : (0 : ℝ) ≤ y := (Nat.cast_nonneg a).trans low
  push_cast at floor next
  refine ⟨Real.le_sqrt_of_sq_le (by nlinarith), (Real.sqrt_lt' (by positivity)).mpr (by nlinarith), ?_⟩
  rw [← not_and_or, not_iff_not, eq_comm (b := √y), Real.sqrt_eq_iff_mul_self_eq nonneg (Nat.cast_nonneg _), ← Nat.cast_inj (R := ℝ)]
  push_cast
  constructor
  · rintro ⟨same, square⟩
    rw [← same, square]
  · intro square
    exact ⟨le_antisymm low (by linarith), le_antisymm floor (by linarith)⟩

/-! ### The steps -/

section
variable {f : Fmt} (h : f.Regular) (r : Rnd) (sat : Bool) {m n : Nat} (e g : Int) (hm : m ≠ 0) (hn : n ≠ 0)
include h hm

theorem Fmt.Regular.roundedOnce_deliver (a : Bool) : f.RoundedOnce r sat (FV.fin a m e).exact (f.deliver r sat (.fin a m e)) := by
  have step : f.deliver r sat (.fin a m e) = f.round r sat a m e false := if_neg hm
  rw [step, FV.exact_fin]
  exact h.roundedOnce_signed r sat a (pos_of_fin hm e) ⟨hm, fun _ => rfl, nofun⟩

include hn in
theorem Fmt.Regular.roundedOnce_div (a b : Bool) :
    f.RoundedOnce r sat (((FV.fin a m e).exact / (FV.fin b n g).exact : ℚ) : ℝ) (f.div r sat (.fin a m e) (.fin b n g)) := by
  have step : f.div r sat (.fin a m e) (.fin b n g) =
      f.round r sat (a != b) (m * 2 ^ (bitLen n + f.mb + 6) / n) (e - g - (bitLen n + f.mb + 6 : Nat)) (m * 2 ^ (bitLen n + f.mb + 6) % n != 0) :=
    (if_neg hn).trans (if_neg hm)
  obtain ⟨-, -, high⟩ := bitLen_spec hn
  generalize hk : bitLen n + f.mb + 6 = k at step
  obtain ⟨low, below, off⟩ := natDiv_floor (m * 2 ^ k) hn
  have bits : 2 ^ (f.mb + 1) ≤ m * 2 ^ k / n := by
    rw [Nat.le_div_iff_mul_le (Nat.pos_of_ne_zero hn)]
    calc 2 ^ (f.mb + 1) * n ≤ 2 ^ (f.mb + 1) * 2 ^ bitLen n := Nat.mul_le_mul_left _ high.le
      _ = 2 ^ (f.mb + 1 + bitLen n) := (Nat.pow_add ..).symm
      _ ≤ 2 ^ k := Nat.pow_le_pow_right (by decide) (by omega)
      _ ≤ m * 2 ^ k := Nat.le_mul_of_pos_left _ (Nat.pos_of_ne_zero hm)
  have size : (m : ℝ) * (2 : ℝ) ^ e / (n * (2 : ℝ) ^ g) = ((m * 2 ^ k : Nat) : ℝ) / n * (2 : ℝ) ^ (e - g - k : Int) := by
    have pos := (pos_of_fin hn g).ne'
    have nonzero : (n : ℝ) ≠ 0 := Nat.cast_ne_zero.mpr hn
    rw [zpow_sub₀ two_ne_zero, zpow_sub₀ two_ne_zero, zpow_natCast]
    push_cast
    field_simp
  rw [Rat.cast_div, FV.exact_fin, FV.exact_fin, withSign_div, step]
  refine h.roundedOnce_signed r sat (a != b) (div_pos (pos_of_fin hm e) (pos_of_fin hn g)) ?_
  rw [size]
  exact f.holds_of_floor bits low below off

theorem Fmt.Regular.roundedOnce_sqrt :
    f.RoundedOnce r sat (√((FV.fin false m e).exact : ℝ)) (f.sqrt r sat (.fin false m e)) := by
  have step : f.sqrt r sat (.fin false m e) =
      let k := 2 * (f.mb + 6) + (e % 2).toNat
      f.round r sat false (Nat.sqrt (m * 2 ^ k)) ((e - k) / 2) (Nat.sqrt (m * 2 ^ k) * Nat.sqrt (m * 2 ^ k) != m * 2 ^ k) :=
    if_neg hm
  generalize hk : 2 * (f.mb + 6) + (e % 2).toNat = k at step
  dsimp only at step
  obtain ⟨d, hd⟩ : ∃ d : Int, e = 2 * d + k := ⟨(e - k) / 2, by omega⟩
  have half : (e - k) / 2 = d := by omega
  have bits : 2 ^ (f.mb + 1) ≤ Nat.sqrt (m * 2 ^ k) := by
    rw [Nat.le_sqrt, ← Nat.pow_add]
    exact (Nat.pow_le_pow_right (by decide) (by omega)).trans (Nat.le_mul_of_pos_left _ (Nat.pos_of_ne_zero hm))
  obtain ⟨low, below, off⟩ := natSqrt_floor (a := m * 2 ^ k) le_rfl (lt_add_one _)
  have size : √((FV.fin false m e).exact : ℝ) = √((m * 2 ^ k : Nat) : ℝ) * (2 : ℝ) ^ d := by
    have number : ((FV.fin false m e).exact : ℝ) = ((m * 2 ^ k : Nat) : ℝ) * ((2 : ℝ) ^ d) ^ 2 := by
      rw [FV.exact_fin, hd, zpow_add₀ two_ne_zero, two_mul, zpow_add₀ two_ne_zero, zpow_natCast]
      push_cast
      show (m : ℝ) * _ = _
      ring
    rw [number, Real.sqrt_mul (Nat.cast_nonneg _), Real.sqrt_sq (zpow_pos two_pos d).le]
  have pos : (0 : ℝ) < √((m * 2 ^ k : Nat) : ℝ) * (2 : ℝ) ^ d := by
    have := Nat.two_pow_pos k
    have := Nat.pos_of_ne_zero hm
    positivity
  rw [step, size, half]
  refine h.roundedOnce_signed r sat false pos (f.holds_of_floor bits low below ?_)
  rw [bne_iff_ne, ← off]
  exact (or_iff_right (not_not_intro rfl)).symm

theorem Fmt.Regular.roundedOnce_rsq :
    f.RoundedOnce .rne sat (1 / √((FV.fin false m e).exact : ℝ)) (f.rsq sat (.fin false m e)) := by
  have step : f.rsq sat (.fin false m e) =
      let k := bitLen m + 2 * (f.mb + 6)
      let j := k + (k + (e % 2).toNat) % 2
      f.round .rne sat false (Nat.sqrt (2 ^ j / m)) (-(j + e) / 2)
        (2 ^ j % m != 0 || Nat.sqrt (2 ^ j / m) * Nat.sqrt (2 ^ j / m) != 2 ^ j / m) :=
    if_neg hm
  obtain ⟨-, -, high⟩ := bitLen_spec hm
  have even : ∃ d : Int, e = -((bitLen m + 2 * (f.mb + 6) + (bitLen m + 2 * (f.mb + 6) + (e % 2).toNat) % 2 : Nat) : Int) - 2 * d :=
    ⟨-((bitLen m + 2 * (f.mb + 6) + (bitLen m + 2 * (f.mb + 6) + (e % 2).toNat) % 2 : Nat) + e) / 2, by omega⟩
  have least : bitLen m + 2 * (f.mb + 6) ≤ bitLen m + 2 * (f.mb + 6) + (bitLen m + 2 * (f.mb + 6) + (e % 2).toNat) % 2 := Nat.le_add_right _ _
  dsimp only at step
  generalize bitLen m + 2 * (f.mb + 6) + (bitLen m + 2 * (f.mb + 6) + (e % 2).toNat) % 2 = j at step even least
  obtain ⟨d, hd⟩ := even
  have half : -(j + e) / 2 = d := by omega
  obtain ⟨floor, next, rem⟩ := natDiv_floor (2 ^ j) hm
  obtain ⟨low, below, off⟩ := natSqrt_floor floor next
  have bits : 2 ^ (f.mb + 1) ≤ Nat.sqrt (2 ^ j / m) := by
    rw [Nat.le_sqrt, ← Nat.pow_add, Nat.le_div_iff_mul_le (Nat.pos_of_ne_zero hm)]
    calc 2 ^ (f.mb + 1 + (f.mb + 1)) * m ≤ 2 ^ (f.mb + 1 + (f.mb + 1)) * 2 ^ bitLen m := Nat.mul_le_mul_left _ high.le
      _ = 2 ^ (f.mb + 1 + (f.mb + 1) + bitLen m) := (Nat.pow_add ..).symm
      _ ≤ 2 ^ j := Nat.pow_le_pow_right (by decide) (by omega)
  have cast : (m : ℝ) ≠ 0 := Nat.cast_ne_zero.mpr hm
  have size : 1 / √((FV.fin false m e).exact : ℝ) = √(((2 ^ j : Nat) : ℝ) / m) * (2 : ℝ) ^ d := by
    have number : ((2 ^ j : Nat) : ℝ) / m * ((2 : ℝ) ^ d) ^ 2 = ((FV.fin false m e).exact : ℝ)⁻¹ := by
      rw [FV.exact_fin, hd, zpow_sub₀ two_ne_zero, two_mul, zpow_add₀ two_ne_zero, zpow_neg, zpow_natCast]
      push_cast
      show _ = ((m : ℝ) * _)⁻¹
      field_simp
    rw [one_div, ← Real.sqrt_inv, ← number, Real.sqrt_mul (by positivity), Real.sqrt_sq (zpow_pos two_pos d).le]
  have pos : (0 : ℝ) < √(((2 ^ j : Nat) : ℝ) / m) * (2 : ℝ) ^ d := by
    have := Nat.pos_of_ne_zero hm
    have := Nat.two_pow_pos j
    positivity
  rw [step, size, half]
  refine h.roundedOnce_signed .rne sat false pos (f.holds_of_floor bits low below ?_)
  rw [Bool.or_eq_true, rem, bne_iff_ne, off]

/-- FRCP's test for a result below the smallest normal magnitude (R171). -/
theorem Fmt.Regular.rcp_below_iff (a : Bool) :
    ((-e - (f.qmin + f.mb) : Int) < 0 ∨ 2 ^ (-e - (f.qmin + f.mb)).toNat < m) ↔ |1 / (FV.fin a m e).exact| < f.normal := by
  have pos := pos_of_fin hm e
  have normal : (f.normal : ℝ) = (2 : ℝ) ^ (f.qmin + f.mb) := by
    have units : f.units (2 ^ f.mb) = 2 ^ f.mb := by
      simpa using f.units_magnitude (n := 2 ^ f.mb) (k := 0) (by rw [Nat.pow_succ]; have := Nat.two_pow_pos f.mb; omega) fun _ => rfl
    rw [h.normal_eq, units, Fmt.unit, zpow_add₀ two_ne_zero, zpow_natCast, mul_comm]
    push_cast
    rfl
  have size : |1 / (FV.fin a m e).exact| < f.normal ↔ (2 : ℝ) ^ (-e - (f.qmin + f.mb)) < m := by
    rw [← Rat.cast_lt (K := ℝ), Rat.cast_abs, Rat.cast_div, Rat.cast_one, abs_div, abs_one, FV.exact_fin, abs_withSign, abs_of_pos pos, normal,
      div_lt_iff₀ pos, zpow_sub₀ two_ne_zero, div_lt_iff₀ (zpow_pos two_pos _), zpow_neg, inv_lt_iff_one_lt_mul₀ (zpow_pos two_pos e)]
    constructor <;> intro lt <;> linarith
  rw [size]
  rcases lt_or_ge (-e - (f.qmin + f.mb) : Int) 0 with neg | nonneg
  · refine iff_of_true (.inl neg) ?_
    calc (2 : ℝ) ^ (-e - (f.qmin + f.mb) : Int) < 1 := zpow_lt_one_of_neg₀ one_lt_two neg
      _ ≤ m := Nat.one_le_cast.mpr (Nat.pos_of_ne_zero hm)
  · rw [or_iff_right (not_lt.mpr nonneg)]
    obtain ⟨d, hd⟩ := Int.eq_ofNat_of_zero_le nonneg
    rw [hd, Int.toNat_natCast, zpow_natCast]
    norm_cast

theorem Fmt.Regular.rcp_fin (a : Bool) :
    f.rcp sat (.fin a m e) =
      if |1 / (FV.fin a m e).exact| < f.normal then (f.zero a, { uf := true, nx := true })
      else f.round .rne sat a (2 ^ (bitLen m + f.mb + 6) / m) (-e - (bitLen m + f.mb + 6 : Nat)) (2 ^ (bitLen m + f.mb + 6) % m != 0) := by
  refine (if_neg hm).trans (if_congr ?_ rfl rfl)
  rw [Bool.or_eq_true, decide_eq_true_eq, decide_eq_true_eq, h.rcp_below_iff e hm]

theorem Fmt.Regular.roundedOnce_rcp (a : Bool) (normal : f.normal ≤ |1 / (FV.fin a m e).exact|) :
    f.RoundedOnce .rne sat ((1 / (FV.fin a m e).exact : ℚ) : ℝ) (f.rcp sat (.fin a m e)) := by
  have step := h.rcp_fin sat e hm a
  rw [if_neg (not_lt.mpr normal)] at step
  obtain ⟨-, -, high⟩ := bitLen_spec hm
  generalize hk : bitLen m + f.mb + 6 = k at step
  obtain ⟨low, below, off⟩ := natDiv_floor (2 ^ k) hm
  have bits : 2 ^ (f.mb + 1) ≤ 2 ^ k / m := by
    rw [Nat.le_div_iff_mul_le (Nat.pos_of_ne_zero hm)]
    calc 2 ^ (f.mb + 1) * m ≤ 2 ^ (f.mb + 1) * 2 ^ bitLen m := Nat.mul_le_mul_left _ high.le
      _ = 2 ^ (f.mb + 1 + bitLen m) := (Nat.pow_add ..).symm
      _ ≤ 2 ^ k := Nat.pow_le_pow_right (by decide) (by omega)
  have cast : (m : ℝ) ≠ 0 := Nat.cast_ne_zero.mpr hm
  have number : ((1 / (FV.fin a m e).exact : ℚ) : ℝ) = withSign a (((2 ^ k : Nat) : ℝ) / m * (2 : ℝ) ^ (-e - k : Int)) := by
    have one : (1 : ℝ) = withSign false 1 := rfl
    rw [Rat.cast_div, Rat.cast_one, FV.exact_fin, one, withSign_div, Bool.false_bne, zpow_sub₀ two_ne_zero, zpow_neg, zpow_natCast]
    congr 1
    push_cast
    field_simp
  have pos : (0 : ℝ) < ((2 ^ k : Nat) : ℝ) / m * (2 : ℝ) ^ (-e - k : Int) := by
    have := Nat.pos_of_ne_zero hm
    have := Nat.two_pow_pos k
    positivity
  rw [number, step]
  exact h.roundedOnce_signed .rne sat a pos (f.holds_of_floor bits low below off)

end

/-- Settles O7: each step hands to Fmt.round a number that m, e and sticky hold. -/
theorem stepsRoundOnce : Obligations.StepsRoundOnce := by
  intro f r sat a b m n e g hf hm hn x y
  have h := Fmt.regular hf
  refine ⟨h.roundedOnce_deliver r sat e hm a, fun _ => ⟨h.roundedOnce_div r sat e g hm hn a b, ?_, ?_, h.roundedOnce_rcp sat e hm a, fun below => ?_⟩⟩
  · rintro rfl
    exact h.roundedOnce_sqrt r sat e hm
  · rintro rfl
    exact h.roundedOnce_rsq sat e hm
  · exact (h.rcp_fin sat e hm a).trans (if_pos below)

end Sys2Proof.Machine
end

section
/-! SUPPORT. The exact steps between operands and rounding (R48, R65, R170), and the values that the manual tabulates (R52 to R55, R171). -/

namespace Sys2Proof.Machine

/-! ### Sums -/

/-- A finite value aligned to a smaller exponent keeps its number. -/
theorem signed_shiftInt (a : Bool) (m : Nat) {e g : Int} (le : g ≤ e) :
    ((FV.signed a (shiftInt m (e - g)) : Int) : ℚ) * 2 ^ g = (FV.fin a m e).exact := by
  obtain ⟨d, rfl⟩ : ∃ d : Nat, e = g + d := ⟨(e - g).toNat, by omega⟩
  have shift : shiftInt m (g + d - g) = m * 2 ^ d := by
    rw [add_sub_cancel_left, shiftInt, if_pos (Int.natCast_nonneg d), Int.toNat_natCast]
  rw [shift, FV.exact, zpow_add₀ two_ne_zero, zpow_natCast]
  unfold FV.signed
  cases a <;> push_cast <;> simp <;> ring

theorem FV.exact_signed (v : Int) (g : Int) : (FV.fin (v < 0) v.natAbs g).exact = (v : ℚ) * 2 ^ g := by
  have size : (if decide (v < 0) = true then -1 else 1 : ℚ) * (v.natAbs : ℚ) = v := by
    rw [Nat.cast_natAbs]
    by_cases neg : v < 0
    · rw [if_pos (decide_eq_true neg), abs_of_neg neg, Int.cast_neg, neg_one_mul, neg_neg]
    · rw [if_neg (by simpa using neg), abs_of_nonneg (not_lt.mp neg), one_mul]
  rw [FV.exact, size]

theorem mul_two_zpow_eq_zero {v g : Int} : (v : ℚ) * 2 ^ g = 0 ↔ v = 0 := by
  rw [mul_eq_zero, or_iff_left (zpow_pos two_pos g).ne', Int.cast_eq_zero]

theorem addFin_exact (r : Rnd) (a b : Bool) (m n : Nat) (e g : Int) :
    (addFin r a m e b n g).finite = true ∧ (addFin r a m e b n g).exact = (FV.fin a m e).exact + (FV.fin b n g).exact ∧
      ((FV.fin a m e).exact + (FV.fin b n g).exact = 0 → (addFin r a m e b n g).neg = if m = 0 ∧ n = 0 ∧ a = b then a else r == .rdn) := by
  have sum : ((FV.signed a (shiftInt m (e - min e g)) + FV.signed b (shiftInt n (g - min e g)) : Int) : ℚ) * 2 ^ min e g =
      (FV.fin a m e).exact + (FV.fin b n g).exact := by
    rw [Int.cast_add, add_mul, signed_shiftInt a m (min_le_left e g), signed_shiftInt b n (min_le_right e g)]
  rw [← sum, mul_two_zpow_eq_zero]
  unfold addFin
  dsimp only
  generalize FV.signed a (shiftInt m (e - min e g)) + FV.signed b (shiftInt n (g - min e g)) = v
  by_cases zero : v = 0
  · simp only [if_pos zero]
    exact ⟨rfl, by simp [zero, FV.exact], fun _ => rfl⟩
  · simp only [if_neg zero]
    exact ⟨rfl, FV.exact_signed v _, fun e => absurd e zero⟩

/-- A list of finite values is a list of signs, integers and exponents. -/
def FV.ofTriple (t : Bool × Nat × Int) : FV := .fin t.1 t.2.1 t.2.2

theorem exists_triples {vs : List FV} (finite : vs.all FV.finite = true) : ∃ ts : List (Bool × Nat × Int), vs = ts.map FV.ofTriple := by
  induction vs with
  | nil => exact ⟨[], rfl⟩
  | cons v vs ih =>
    obtain ⟨head, tail⟩ := Bool.and_eq_true_iff.mp finite
    obtain ⟨ts, rfl⟩ := ih tail
    cases v with
    | nan s => cases head
    | inf n => cases head
    | fin a m e => exact ⟨(a, m, e) :: ts, rfl⟩

theorem foldl_min_le (ts : List (Bool × Nat × Int)) (g : Int) :
    ts.foldl (fun g t => min g t.2.2) g ≤ g ∧ ∀ t ∈ ts, ts.foldl (fun g t => min g t.2.2) g ≤ t.2.2 := by
  induction ts generalizing g with
  | nil => exact ⟨le_rfl, nofun⟩
  | cons t ts ih =>
    obtain ⟨le, all⟩ := ih (min g t.2.2)
    refine ⟨le.trans (min_le_left _ _), fun u mem => ?_⟩
    rcases List.mem_cons.mp mem with rfl | mem
    · exact le.trans (min_le_right _ _)
    · exact all u mem

theorem foldl_signed_exact {g : Int} (ts : List (Bool × Nat × Int)) (le : ∀ t ∈ ts, g ≤ t.2.2) (acc : Int) :
    ((ts.foldl (fun acc t => acc + FV.signed t.1 (shiftInt t.2.1 (t.2.2 - g))) acc : Int) : ℚ) * 2 ^ g =
      acc * 2 ^ g + ((ts.map FV.ofTriple).map FV.exact).sum := by
  induction ts generalizing acc with
  | nil => simp
  | cons t ts ih =>
    rw [List.foldl_cons, ih fun u mem => le u (List.mem_cons_of_mem t mem), Int.cast_add, add_mul, signed_shiftInt _ _ (le t List.mem_cons_self)]
    simp only [List.map_cons, List.sum_cons, FV.ofTriple]
    ring

/-- R65: of finite values the sum is formed as one integer multiple of their least power of 2. -/
theorem sumAll_ofTriple (r : Rnd) (ts : List (Bool × Nat × Int)) :
    let g := ts.foldl (fun g t => min g t.2.2) 0
    let total := ts.foldl (fun acc t => acc + FV.signed t.1 (shiftInt t.2.1 (t.2.2 - g))) 0
    ∃ sign, sumAll r (ts.map FV.ofTriple) = if total = 0 then .fin sign 0 0 else .fin (total < 0) total.natAbs g := by
  have nans : ¬(ts.map FV.ofTriple).any FV.isNan = true := by
    rw [List.any_map, List.any_eq_true]
    rintro ⟨t, -, nan⟩
    exact Bool.false_ne_true nan
  unfold sumAll
  rw [if_neg nans]
  split
  · next n ns infs =>
    obtain ⟨v, mem, inf⟩ := List.mem_filterMap.mp (infs ▸ List.mem_cons_self : n ∈ _)
    obtain ⟨t, -, rfl⟩ := List.mem_map.mp mem
    cases inf
  · simp only [List.foldl_map]
    exact ⟨_, rfl⟩

theorem sumAll_exact (r : Rnd) {vs : List FV} (finite : vs.all FV.finite = true) :
    (sumAll r vs).finite = true ∧ (sumAll r vs).exact = (vs.map FV.exact).sum := by
  obtain ⟨ts, rfl⟩ := exists_triples finite
  have sum := foldl_signed_exact ts (foldl_min_le ts 0).2 0
  obtain ⟨sign, step⟩ := sumAll_ofTriple r ts
  rw [Int.cast_zero, zero_mul, zero_add] at sum
  rw [← sum, step]
  split
  · next zero => exact ⟨rfl, by simp [zero, FV.exact]⟩
  · exact ⟨rfl, FV.exact_signed _ _⟩

/-! ### Special operands -/

theorem FV.mul_fin_exact (a b : Bool) (m n : Nat) (e g : Int) :
    ((FV.fin a m e).mul (.fin b n g)).exact = (FV.fin a m e).exact * (FV.fin b n g).exact := by
  have signs : (if (a != b) = true then -1 else 1 : ℚ) = (if a = true then -1 else 1) * (if b = true then -1 else 1) := by
    cases a <;> cases b <;> norm_num
  show (if (a != b) = true then -1 else 1) * ((m * n : Nat) : ℚ) * 2 ^ (e + g) = (if a = true then -1 else 1) * (m : ℚ) * 2 ^ e * _
  rw [zpow_add₀ two_ne_zero, signs, FV.exact]
  push_cast
  ring

theorem FV.nan_steps (r : Rnd) (s : Bool) (y : FV) :
    ((FV.nan s).mul y).isNan = true ∧ (y.mul (FV.nan s)).isNan = true ∧ ((FV.nan s).add r y).isNan = true ∧ (y.add r (FV.nan s)).isNan = true := by
  cases y <;> exact ⟨rfl, rfl, rfl, rfl⟩

theorem Fmt.decode_nan {f : Fmt} (hf : f ∈ [Fmt.f64, Fmt.f32, Fmt.f16, Fmt.bf16]) : f.decode f.nan = .nan false := by
  simp only [List.mem_cons, List.not_mem_nil, or_false] at hf
  obtain rfl | rfl | rfl | rfl := hf <;> decide +kernel

theorem Fmt.pick_nan {f : Fmt} (nan : f.decode f.nan = .nan false) (a : Bool) (c : Nat) : (f.pick a c f.nan).1 = f.nan ∧ (f.pick a f.nan c).1 = f.nan := by
  unfold Fmt.pick
  rw [nan]
  simp [FV.isNan]

/-! ### Tables -/

theorem kay8_codes : ∀ row ∈ ([(0x00, 0), (0x01, 1 / 512), (0x07, 7 / 512), (0x08, 1 / 64), (0x38, 1), (0x7F, 480), (0xFF, -480)] : List (Nat × ℚ)),
    (Fmt.kay8.decode row.1).finite = true ∧ (Fmt.kay8.decode row.1).exact = row.2 := by
  decide +kernel

/-- R53, R54: conversions from F32 in RNE. -/
theorem kay8_conversions :
    ∀ row ∈ ([ (0x00000000, 0x00, {}), (0x80000000, 0x00, {}), (0x3A800000, 0x00, { uf := true, nx := true }),
               (0xBA800000, 0x00, { uf := true, nx := true }), (0x3AC00000, 0x01, { uf := true, nx := true }), (0x3B000000, 0x01, {}),
               (0x3C700000, 0x08, { nx := true }), (0x3F880000, 0x38, { nx := true }), (0x43E80000, 0x7E, { nx := true }),
               (0x43EB0000, 0x7F, { nx := true }), (0x43F00000, 0x7F, {}), (0x447A0000, 0x7F, { ovf := true, nx := true }),
               (0x7F800000, 0x7F, { ovf := true, nx := true }), (0xC47A0000, 0xFF, { ovf := true, nx := true }),
               (0xFF800000, 0xFF, { ovf := true, nx := true }), (0x7FC00000, 0x80, {}), (0x7F800001, 0x80, { nv := true }) ]
       : List (Nat × Nat × FFlags)),
      Fmt.kay8.deliver .rne false (Fmt.f32.decode row.1) = row.2 := by
  decide +kernel

theorem dyDecode_codes :
    ∀ row ∈ ([ (0x77, 0), (0x00, 2), (0x88, -2), (0x01, 3 / 2), (0x07, 1), (0x70, 1), (0x11, 1), (0x76, 1 / 64) ] : List (Nat × ℚ)),
      (dyDecode row.1).exact = row.2 := by
  decide +kernel

theorem rcp_f32_codes :
    ∀ row ∈ ([ (0x40400000, 0x3EAAAAAB, { nx := true }), (0x00400000, 0x7F000000, {}), (0x00100000, 0x7F800000, { ovf := true, nx := true }),
               (0x7E800000, 0x00800000, {}), (0x7F000000, 0x00000000, { uf := true, nx := true }), (0x80000000, 0xFF800000, { dz := true }),
               (0x7F800000, 0x00000000, {}) ] : List (Nat × Nat × FFlags)),
      Fmt.f32.rcp false (Fmt.f32.decode row.1) = row.2 := by
  decide +kernel

end Sys2Proof.Machine
end

section
/-! SUPPORT. When Fmt.round is exact and when it is not (R49, R50): numbers that a format has, powers of 2, and magnitudes with a bit below the last one
kept. -/

namespace Sys2Proof.Machine

/-- A result is the finite number q, and raises no flag. -/
def Fmt.Gives (f : Fmt) (y : Nat × FFlags) (q : ℚ) : Prop := (f.decode y.1).finite = true ∧ (f.decode y.1).exact = q ∧ y.2 = {}

/-- A result raises nx, and neither nv nor dz. -/
def Inexact (y : Nat × FFlags) : Prop := y.2.nx = true ∧ y.2.nv = false ∧ y.2.dz = false

/-- What lies below the unit in which n · 2^e is rounded. -/
def Fmt.remainder (f : Fmt) (n : Nat) (e : Int) : Nat := if e < f.quantum n e then n % 2 ^ (f.quantum n e - e).toNat else 0

theorem Fmt.round_flags (f : Fmt) (r : Rnd) (sat neg : Bool) (m : Nat) (e : Int) (sticky : Bool) :
    (f.round r sat neg m e sticky).2 = { ovf := true, nx := true } ∨
      ∃ uf, (f.round r sat neg m e sticky).2 = { nx := f.remainder (4 * m + bit sticky) (e - 2) != 0, uf := uf } := by
  have cases : f.round r sat neg m e sticky = _ ∨ f.round r sat neg m e sticky = _ := @ite_eq_or_eq _ _ _ _ _
  exact cases.imp (congrArg Prod.snd) fun within => ⟨_, congrArg Prod.snd within⟩

theorem Fmt.inexact_round (f : Fmt) (r : Rnd) (sat neg : Bool) {m : Nat} {e : Int} {sticky : Bool}
    (rest : f.remainder (4 * m + bit sticky) (e - 2) ≠ 0) : Inexact (f.round r sat neg m e sticky) := by
  unfold Inexact
  obtain flags | ⟨uf, flags⟩ := f.round_flags r sat neg m e sticky
  · rw [flags]
    exact ⟨rfl, rfl, rfl⟩
  · rw [flags]
    exact ⟨bne_iff_ne.mpr rest, rfl, rfl⟩

/-- A sticky magnitude is inexact where a bit of it is not kept. -/
theorem Fmt.inexact_round_sticky (f : Fmt) (r : Rnd) (sat neg : Bool) {m : Nat} {e : Int} (below : e - 2 < f.quantum (4 * m + 1) (e - 2)) :
    Inexact (f.round r sat neg m e true) := by
  refine f.inexact_round r sat neg ?_
  show f.remainder (4 * m + 1) (e - 2) ≠ 0
  obtain ⟨d, hd⟩ : ∃ d, (f.quantum (4 * m + 1) (e - 2) - (e - 2)).toNat = d + 1 :=
    ⟨(f.quantum (4 * m + 1) (e - 2) - (e - 2)).toNat - 1, by omega⟩
  rw [Fmt.remainder, if_pos below, hd, Nat.pow_succ']
  intro zero
  have := Nat.dvd_of_mod_eq_zero zero
  have : 2 ∣ 4 * m + 1 := (Nat.dvd_mul_right 2 _).trans this
  omega

theorem Fmt.inexact_round_tiny (f : Fmt) (r : Rnd) (sat neg : Bool) (m : Nat) {e : Int} (tiny : e - 2 < f.qmin) :
    Inexact (f.round r sat neg m e true) :=
  f.inexact_round_sticky r sat neg (lt_of_lt_of_le tiny (le_max_right _ _))

theorem Fmt.inexact_round_long (f : Fmt) (r : Rnd) (sat neg : Bool) {m : Nat} (e : Int) (long : 2 ^ f.mb ≤ m) :
    Inexact (f.round r sat neg m e true) := by
  obtain ⟨-, -, high⟩ := bitLen_spec (n := 4 * m + 1) (Nat.succ_ne_zero _)
  have bits : f.mb + 2 < bitLen (4 * m + 1) := by
    refine (Nat.pow_lt_pow_iff_right (a := 2) (by decide)).mp (lt_of_le_of_lt ?_ high)
    rw [Nat.pow_add]
    omega
  exact f.inexact_round_sticky r sat neg (lt_of_lt_of_le (by omega) (le_max_left _ _))

/-- A number of mb + 1 bits, none below the smallest subnormal, is kept whole. -/
theorem Fmt.remainder_short (f : Fmt) {m : Nat} {e : Int} (short : m < 2 ^ (f.mb + 1)) (least : f.qmin ≤ e) :
    f.remainder (4 * m + bit false) (e - 2) = 0 := by
  have bits : bitLen (4 * m) ≤ f.mb + 3 := by
    rcases Nat.eq_zero_or_pos m with rfl | pos
    · exact Nat.zero_le _
    · obtain ⟨some, low, -⟩ := bitLen_spec (n := 4 * m) (by omega)
      have : bitLen (4 * m) - 1 < f.mb + 3 := by
        refine (Nat.pow_lt_pow_iff_right (a := 2) (by decide)).mp (lt_of_le_of_lt low ?_)
        rw [Nat.pow_succ, Nat.pow_succ]
        omega
      omega
  have unit : f.quantum (4 * m) (e - 2) ≤ e := max_le (by omega) least
  show f.remainder (4 * m) (e - 2) = 0
  unfold Fmt.remainder
  split
  · refine Nat.mod_eq_zero_of_dvd ((pow_dvd_pow 2 (?_ : _ ≤ 2)).trans (Nat.dvd_mul_right 4 m))
    omega
  · rfl

/-- A power of 2 below the smallest subnormal is lost. -/
theorem Fmt.remainder_one (f : Fmt) {e : Int} (tiny : e < f.qmin) : f.remainder (4 * 1 + bit false) (e - 2) ≠ 0 := by
  have unit : f.qmin ≤ f.quantum 4 (e - 2) := le_max_right _ _
  show f.remainder 4 (e - 2) ≠ 0
  obtain ⟨d, hd⟩ : ∃ d, (f.quantum 4 (e - 2) - (e - 2)).toNat = d + 3 := ⟨(f.quantum 4 (e - 2) - (e - 2)).toNat - 3, by omega⟩
  have large : 4 < 2 ^ (d + 3) := by rw [Nat.pow_succ, Nat.pow_succ, Nat.pow_succ]; have := Nat.two_pow_pos d; omega
  rw [Fmt.remainder, if_pos (by omega), hd, Nat.mod_eq_of_lt large]
  decide

/-! ### Bounds of a format -/

namespace Fmt.Regular
variable {f : Fmt} (h : f.Regular)
include h

theorem topStep_pos : (0 : ℝ) < f.topStep := by
  have := h.infBits_pos
  have step : (f.units (f.infBits - 1) : ℝ) < f.units f.infBits := Fmt.units_lt_cast.mpr (by omega)
  have sum := h.top_add_topStep
  rw [h.top_eq] at sum
  have := mul_lt_mul_of_pos_right step f.unit_pos
  linarith

/-- The number one step above the largest is the next power of 2 (R50). -/
theorem top_add_topStep_eq (k8 : f.k8 = false) : (f.top : ℝ) + f.topStep = (2 : ℝ) ^ (f.bias + 1 : Int) := by
  obtain ⟨d, hd⟩ : ∃ d, f.topField = d + 1 := ⟨f.topField - 1, by have := h.topField_ge; omega⟩
  have exponent : (d : Int) = f.bias + 1 + (f.bias - 1) := by
    obtain ⟨i, hi⟩ : ∃ i, f.eb = i + 1 := ⟨f.eb - 1, by have := h.eb; omega⟩
    have := Nat.two_pow_pos i
    unfold Fmt.topField at hd
    rw [if_neg (by simp [k8]), hi, Nat.pow_succ] at hd
    unfold Fmt.bias
    rw [hi, Nat.add_sub_cancel]
    omega
  have code : f.infBits = d * 2 ^ f.mb + 2 ^ f.mb := by rw [f.infBits_eq, hd, Nat.succ_mul]
  have units : f.units f.infBits = 2 ^ f.mb * 2 ^ d := by
    rw [code]
    exact f.units_magnitude (Nat.pow_lt_pow_right (by decide) (Nat.lt_succ_self _)) fun lt => absurd lt (lt_irrefl _)
  rw [h.top_add_topStep, units, Fmt.unit, Fmt.qmin]
  push_cast
  rw [← zpow_natCast, ← zpow_natCast, ← zpow_add₀ two_ne_zero, ← zpow_add₀ two_ne_zero]
  congr 1
  omega

theorem two_zpow_bias_le_top (k8 : f.k8 = false) : (2 : ℝ) ^ (f.bias : Int) ≤ f.top := by
  have two := h.two_le_infBits
  have code : f.largest false - 1 = f.infBits - 2 := by simp [Fmt.largest, Fmt.signBit]; omega
  have least : (0 : ℝ) ≤ f.units (f.infBits - 2) * f.unit := mul_nonneg (Nat.cast_nonneg _) f.unit_pos.le
  have double := h.top_add_topStep_eq k8
  rw [zpow_add₀ two_ne_zero, zpow_one, Fmt.topStep, Rat.cast_sub, code, h.exact_positive (by omega)] at double
  linarith

/-- Numbers up to the largest are within the format in RNE (R50). -/
theorem not_beyond {v : ℝ} (le : |v| ≤ f.top) : ¬f.Beyond .rne v := by
  have := h.topStep_pos
  show ¬(f.top : ℝ) + f.topStep / 2 ≤ |v|
  linarith

theorem beyond_two_zpow (k8 : f.k8 = false) {z : Int} (large : f.bias < z) : f.Beyond .rne ((2 : ℝ) ^ z) := by
  have step := h.topStep_pos
  have sum := h.top_add_topStep_eq k8
  have le : (2 : ℝ) ^ (f.bias + 1 : Int) ≤ 2 ^ z := zpow_le_zpow_right₀ one_le_two (by omega)
  show (f.top : ℝ) + f.topStep / 2 ≤ |(2 : ℝ) ^ z|
  rw [abs_of_pos (zpow_pos two_pos z)]
  linarith

/-- A number that the format has is delivered as it is, with its sign and no flag (R49). -/
theorem round_short (k8 : f.k8 = false) (neg : Bool) {m : Nat} {e : Int} (nonzero : m ≠ 0) (short : m < 2 ^ (f.mb + 1)) (least : f.qmin ≤ e)
    (within : (m : ℝ) * (2 : ℝ) ^ e ≤ f.top) :
    f.Gives (f.round .rne false neg m e false) (FV.fin neg m e).exact ∧ (f.decode (f.round .rne false neg m e false).1).neg = neg := by
  have pos := pos_of_fin nonzero e
  have once := h.roundedOnce_signed .rne false neg pos (m := m) (e := e) (sticky := false) ⟨nonzero, fun _ => rfl, nofun⟩
  obtain ⟨nearest, nv, dz, ovf, sign, nx_iff, uf_iff⟩ := once.within (h.not_beyond (by rwa [abs_withSign, abs_of_pos pos]))
  obtain ⟨uf, flags⟩ := (f.round_flags .rne false neg m e false).resolve_left fun beyond => by rw [beyond] at ovf; cases ovf
  rw [f.remainder_short short least] at flags
  rw [flags] at nx_iff uf_iff
  have value := not_not.mp (mt nx_iff.mpr Bool.false_ne_true)
  obtain rfl : uf = false := Bool.eq_false_iff.mpr (mt uf_iff.mp fun both => both.1 value)
  have cast : ((f.decode (f.round .rne false neg m e false).1).exact : ℝ) = ((FV.fin neg m e).exact : ℝ) := by rw [value, FV.exact_fin]
  refine ⟨⟨((f.nearest_iff _ _ _).mp nearest).1, Rat.cast_injective cast, flags⟩, by rw [sign k8, withSign_neg_iff pos]⟩

/-- A power of 2 above the largest number overflows, and one below the smallest is lost. -/
theorem inexact_round_one (k8 : f.k8 = false) (neg : Bool) {z : Int} (outside : ¬(f.qmin ≤ z ∧ z ≤ f.bias)) :
    Inexact (f.round .rne false neg 1 z false) := by
  rcases lt_or_ge z f.qmin with tiny | least
  · exact f.inexact_round .rne false neg (f.remainder_one tiny)
  · have one := h.roundedOnce_signed .rne false neg (pos_of_fin one_ne_zero z) (m := 1) (e := z) (sticky := false) ⟨one_ne_zero, fun _ => rfl, nofun⟩
    have beyond := h.beyond_two_zpow k8 (z := z) (by omega)
    obtain ⟨flags, -⟩ := one.beyond (by
      show _ ≤ |_|
      rw [Nat.cast_one, one_mul, abs_withSign]
      exact beyond)
    unfold Inexact
    rw [flags]
    exact ⟨rfl, rfl, rfl⟩

end Fmt.Regular
end Sys2Proof.Machine
end

section
/-! SUPPORT. FEXP2, FLOG2, FSIN, FCOS and FTANH (R171): their exact cases as conditions on the operand in fixed point, and O8. -/

namespace Sys2Proof.Machine

/-! ### The formats of R171 -/

/-- What F32, F16 and BF16 have in common. -/
structure Fmt.Elementary (f : Fmt) : Prop where
  regular : f.Regular
  k8 : f.k8 = false
  least : -149 ≤ f.qmin
  zero : f.qmin ≤ 0
  bias : f.bias ≤ 127
  short : f.mb ≤ 23
  exponents : -f.qmin < 2 ^ (f.mb + 1) ∧ (f.bias : Int) < 2 ^ (f.mb + 1)
  precision : f.mb + 1 ≤ f.bias

theorem Fmt.elementary {f : Fmt} (h : f ∈ [Fmt.f32, Fmt.f16, Fmt.bf16]) : f.Elementary := by
  have regular : f.Regular := Fmt.regular (by simp only [List.mem_cons, List.not_mem_nil, or_false] at h ⊢; tauto)
  simp only [List.mem_cons, List.not_mem_nil, or_false] at h
  obtain rfl | rfl | rfl := h <;> exact ⟨regular, rfl, by decide, by decide, by decide, by decide, by decide, by decide⟩

/-- What a decoded operand keeps to: no bit below the smallest subnormal, and no number above the largest. -/
theorem Fmt.Regular.decode_bounds {f : Fmt} (h : f.Regular) {c : Nat} {neg : Bool} {m : Nat} {e : Int} (code : f.decode c = .fin neg m e) :
    f.qmin ≤ e ∧ (m = 0 → e = f.qmin) ∧ (m : ℝ) * (2 : ℝ) ^ e ≤ f.top := by
  obtain ⟨neg', mag, below, value⟩ := h.exists_code (c := c) (by rw [code]; rfl)
  obtain ⟨rfl, rfl, rfl⟩ := FV.fin.inj (code.symm.trans value)
  obtain ⟨-, -, sub⟩ := f.magnitude_eq mag
  refine ⟨by omega, fun zero => ?_, ?_⟩
  · rw [sub (by rw [zero]; exact Nat.two_pow_pos _)]
    exact add_zero _
  · have number := FV.exact_magnitude f false mag
    rw [FV.exact_fin] at number
    calc (f.sig mag : ℝ) * (2 : ℝ) ^ (f.qmin + f.lift mag) = f.units mag * f.unit := number
      _ ≤ f.units (f.infBits - 1) * f.unit := mul_le_mul_of_nonneg_right (Fmt.units_le_cast.mpr (by omega)) f.unit_pos.le
      _ = f.top := h.top_eq.symm

/-! ### Exact and inexact results -/

namespace Fmt.Elementary
variable {f : Fmt} (h : f.Elementary)
include h

theorem two_zpow_le_top {z : Int} (le : z ≤ f.bias) : (2 : ℝ) ^ z ≤ f.top :=
  (zpow_le_zpow_right₀ one_le_two le).trans (h.regular.two_zpow_bias_le_top h.k8)

theorem round_two_zpow (neg : Bool) {z : Int} (least : f.qmin ≤ z) (most : z ≤ f.bias) :
    f.Gives (f.round .rne false neg 1 z false) (FV.fin neg 1 z).exact := by
  refine (h.regular.round_short h.k8 neg one_ne_zero (Nat.one_lt_two_pow (Nat.succ_ne_zero _)) least ?_).1
  rw [Nat.cast_one, one_mul]
  exact h.two_zpow_le_top most

theorem round_one (neg : Bool) : f.Gives (f.round .rne false neg 1 0 false) (if neg = true then -1 else 1) := by
  have one := h.round_two_zpow neg h.zero (Int.natCast_nonneg _)
  have value : (FV.fin neg 1 0).exact = if neg = true then -1 else 1 := by cases neg <;> norm_num [FV.exact]
  rwa [value] at one

/-- An exponent of the format is a number of the format. -/
theorem deliver_exponent {z : Int} (least : f.qmin ≤ z) (most : z ≤ f.bias) :
    f.Gives (f.deliver .rne false (.fin (z < 0) z.natAbs 0)) z ∧ (f.decode (f.deliver .rne false (.fin (z < 0) z.natAbs 0)).1).neg = decide (z < 0) := by
  have value := FV.exact_signed z 0
  rw [zpow_zero, mul_one] at value
  by_cases zero : z = 0
  · subst zero
    have code : f.deliver .rne false (.fin (decide ((0 : Int) < 0)) (0 : Int).natAbs 0) = (f.code false 0, {}) := rfl
    have pos := h.regular.infBits_pos
    have number := h.regular.exact_code false pos
    rw [f.units_zero] at number
    rw [code]
    refine ⟨⟨h.regular.finite_code false pos, Rat.cast_injective (α := ℝ) (number.trans ?_), rfl⟩, h.regular.neg_code h.k8 false pos⟩
    simp [withSign]
  · have nonzero : z.natAbs ≠ 0 := Int.natAbs_ne_zero.mpr zero
    have step : f.deliver .rne false (.fin (z < 0) z.natAbs 0) = f.round .rne false (z < 0) z.natAbs 0 false := if_neg nonzero
    obtain ⟨low, high⟩ := h.exponents
    have short : z.natAbs < 2 ^ (f.mb + 1) := by
      have size : (z.natAbs : Int) < 2 ^ (f.mb + 1) := by rw [Int.natCast_natAbs, abs_lt]; constructor <;> omega
      exact_mod_cast size
    rw [step, ← value]
    refine h.regular.round_short h.k8 _ nonzero short h.zero ?_
    calc (z.natAbs : ℝ) * (2 : ℝ) ^ (0 : Int) ≤ (2 : ℝ) ^ ((f.mb + 1 : Nat) : Int) := by
          rw [zpow_zero, mul_one, zpow_natCast]
          exact_mod_cast short.le
      _ ≤ f.top := h.two_zpow_le_top (by exact_mod_cast h.precision)

theorem inexact_roundFix (neg : Bool) (v : Nat) : Inexact (f.roundFix neg v 0) :=
  f.inexact_round_tiny .rne false neg _ (by have := h.least; omega)

end Fmt.Elementary

/-! ### The operand in fixed point -/

/-- A finite value of no bit below 2^(−256) in fixed point. -/
def fixedPoint (neg : Bool) (m : Nat) (e : Int) : Int := FV.signed neg (shiftInt m (e + 256))

section
variable {neg : Bool} {m : Nat} {e : Int} (least : -256 ≤ e)
include least

theorem fixedPoint_eq : (fixedPoint neg m e : ℚ) = (FV.fin neg m e).exact * 2 ^ 256 := by
  rw [← signed_shiftInt neg m least, sub_neg_eq_add, mul_assoc]
  norm_num [fixedPoint]

theorem exact_eq_int_iff (z : Int) : (FV.fin neg m e).exact = z ↔ fixedPoint neg m e = z * 2 ^ 256 := by
  rw [← Int.cast_inj (α := ℚ), fixedPoint_eq least]
  push_cast
  constructor <;> intro eq <;> linarith

theorem exact_eq_half_iff (z : Int) : (FV.fin neg m e).exact = z + 1 / 2 ↔ 2 * fixedPoint neg m e = (2 * z + 1) * 2 ^ 256 := by
  rw [← Int.cast_inj (α := ℚ)]
  push_cast
  rw [fixedPoint_eq least]
  constructor <;> intro eq <;> linarith

theorem halfTurns_eq : halfTurns m e = shiftInt m (e + 256) % (2 * fixOne) := by
  unfold halfTurns
  by_cases whole : 0 ≤ e
  · obtain ⟨k, rfl⟩ := Int.eq_ofNat_of_zero_le whole
    have shift : shiftInt m ((k : Int) + 256) = m * 2 ^ k * fixOne := by
      rw [shiftInt, if_pos (by omega), show ((k : Int) + 256).toNat = k + 256 by omega, Nat.pow_add, ← Nat.mul_assoc]
      rfl
    rw [if_pos whole, shift, Nat.mul_mod_mul_right, Nat.mul_mod_mul_right, Int.toNat_natCast]
    rcases k with _ | k
    · rfl
    · have even : ∀ i, m * 2 ^ (i + 1) % 2 = 0 := fun i => by rw [Nat.pow_succ, ← Nat.mul_assoc, Nat.mul_mod_left]
      rw [show min (k + 1) 300 = min k 299 + 1 by omega, even, even]
  · rw [if_neg whole]

/-! ### FSIN and FCOS -/

/-- An integral operand is a whole number of half turns, and odd just when one is left. -/
theorem halfTurns_integer {z : Int} (int : (FV.fin neg m e).exact = z) : halfTurns m e = if z % 2 = 0 then 0 else fixOne := by
  have fixed := (exact_eq_int_iff least z).mp int
  rw [halfTurns_eq least, fixOne]
  unfold fixedPoint FV.signed at fixed
  split at fixed <;> split <;> omega

/-- An operand half way between integers is half a turn from an axis, on the side that its sign and the integer below it say. -/
theorem halfTurns_half {z : Int} (half : (FV.fin neg m e).exact = z + 1 / 2) :
    2 * (halfTurns m e % fixOne) = fixOne ∧ (neg != decide (fixOne ≤ halfTurns m e)) = decide (z % 2 ≠ 0) := by
  have fixed := (exact_eq_half_iff least z).mp half
  rw [halfTurns_eq least, fixOne]
  unfold fixedPoint FV.signed at fixed
  cases neg
  · rw [if_neg Bool.false_ne_true] at fixed
    exact ⟨by omega, by rw [Bool.false_bne, decide_eq_decide]; omega⟩
  · rw [if_pos rfl] at fixed
    exact ⟨by omega, by rw [Bool.true_bne, ← decide_not, decide_eq_decide]; omega⟩

theorem halfTurns_ne_integer (int : ¬∃ z : Int, (FV.fin neg m e).exact = z) : halfTurns m e % fixOne ≠ 0 := by
  intro zero
  rw [halfTurns_eq least, fixOne] at zero
  refine int ⟨fixedPoint neg m e / 2 ^ 256, (exact_eq_int_iff least _).mpr ?_⟩
  unfold fixedPoint FV.signed
  split <;> omega

theorem halfTurns_ne_half (half : ¬∃ z : Int, (FV.fin neg m e).exact = z + 1 / 2) : 2 * (halfTurns m e % fixOne) ≠ fixOne := by
  intro eq
  rw [halfTurns_eq least, fixOne] at eq
  refine half ⟨fixedPoint neg m e / 2 ^ 256, (exact_eq_half_iff least _).mpr ?_⟩
  unfold fixedPoint FV.signed
  split <;> omega

end

/-- FCOS doubles its half turns, FSIN takes them within one half turn: the test for a quarter turn is the same. -/
theorem quarter_iff (t : Nat) : 2 * t % (2 * fixOne) = fixOne ↔ 2 * (t % fixOne) = fixOne := by
  rw [Nat.mul_mod_mul_left]

namespace Fmt.Elementary
variable {f : Fmt} (h : f.Elementary) {neg : Bool} {m : Nat} {e : Int}

theorem sinPi_integer (least : -256 ≤ e) {z : Int} (int : (FV.fin neg m e).exact = z) : f.sinPi (.fin neg m e) = (f.zero neg, {}) := by
  refine if_pos ?_
  rw [halfTurns_integer least int]
  split <;> simp

theorem cosPi_half (least : -256 ≤ e) {z : Int} (half : (FV.fin neg m e).exact = z + 1 / 2) : f.cosPi (.fin neg m e) = (f.zero false, {}) := by
  obtain ⟨quarter, -⟩ := halfTurns_half least half
  have one : fixOne ≠ 0 := by decide
  exact (if_neg (by omega)).trans (if_pos ((quarter_iff _).mpr quarter))

variable (least : -256 ≤ e)
include h least

theorem cosPi_integer {z : Int} (int : (FV.fin neg m e).exact = z) : f.Gives (f.cosPi (.fin neg m e)) (if z % 2 = 0 then 1 else -1) := by
  have turns := halfTurns_integer least int
  have whole : halfTurns m e % fixOne = 0 := by rw [turns]; split <;> simp
  have sign : (halfTurns m e != 0) = decide (z % 2 ≠ 0) := by
    rw [turns]
    split
    · next even => simp [even]
    · next odd => simpa [odd] using (by decide : fixOne ≠ 0)
  have step : f.cosPi (.fin neg m e) = f.round .rne false (halfTurns m e != 0) 1 0 false := if_pos whole
  have one := h.round_one (decide (z % 2 ≠ 0))
  rw [step, sign]
  simpa only [decide_eq_true_eq, ne_eq, ite_not] using one

theorem sinPi_half {z : Int} (half : (FV.fin neg m e).exact = z + 1 / 2) : f.Gives (f.sinPi (.fin neg m e)) (if z % 2 = 0 then 1 else -1) := by
  obtain ⟨quarter, sign⟩ := halfTurns_half least half
  have positive : fixOne ≠ 0 := by decide
  have step : f.sinPi (.fin neg m e) = f.round .rne false (neg != decide (fixOne ≤ halfTurns m e)) 1 0 false :=
    (if_neg (by omega)).trans (if_pos quarter)
  have one := h.round_one (decide (z % 2 ≠ 0))
  rw [step, sign]
  simpa only [decide_eq_true_eq, ne_eq, ite_not] using one

theorem inexact_sinPi_cosPi (int : ¬∃ z : Int, (FV.fin neg m e).exact = z) (half : ¬∃ z : Int, (FV.fin neg m e).exact = z + 1 / 2) :
    Inexact (f.sinPi (.fin neg m e)) ∧ Inexact (f.cosPi (.fin neg m e)) := by
  have whole := halfTurns_ne_integer least int
  have quarter := halfTurns_ne_half least half
  have sin : f.sinPi (.fin neg m e) = f.roundFix _ _ 0 := (if_neg whole).trans (if_neg quarter)
  have cos : f.cosPi (.fin neg m e) = f.roundFix _ _ 0 := (if_neg whole).trans (if_neg (mt (quarter_iff _).mp quarter))
  rw [sin, cos]
  exact ⟨h.inexact_roundFix _ _, h.inexact_roundFix _ _⟩

end Fmt.Elementary
end Sys2Proof.Machine
end

section
/-! SUPPORT. The exact cases of FEXP2, FLOG2 and FTANH (R171), and O8. -/

namespace Sys2Proof.Machine

/-! ### Sizes -/

theorem FV.exact_eq_zero_iff (neg : Bool) (m : Nat) (e : Int) : (FV.fin neg m e).exact = 0 ↔ m = 0 := by
  have pos := (zpow_pos (two_pos : (0 : ℚ) < 2) e).ne'
  unfold FV.exact
  cases neg <;> simp [pos]

theorem FV.exact_positive (m : Nat) (e : Int) : (FV.fin false m e).exact = m * 2 ^ e := by
  simp [FV.exact]

theorem FV.exact_negative (m : Nat) (e : Int) : (FV.fin true m e).exact = -(m * 2 ^ e) := by
  simp [FV.exact]

theorem FV.abs_exact (neg : Bool) (m : Nat) (e : Int) : |(FV.fin neg m e).exact| = m * 2 ^ e := by
  have nonneg : (0 : ℚ) ≤ m * 2 ^ e := by positivity
  cases neg
  · rw [FV.exact_positive, abs_of_nonneg nonneg]
  · rw [FV.exact_negative, abs_neg, abs_of_nonneg nonneg]

theorem FV.neg_of_exact_pos {neg : Bool} {m : Nat} {e : Int} (positive : 0 < (FV.fin neg m e).exact) : neg = false := by
  cases neg
  · rfl
  · rw [FV.exact_negative, neg_pos] at positive
    exact absurd positive (not_lt.mpr (by positivity))

theorem FV.neg_of_exact_neg {neg : Bool} {m : Nat} {e : Int} (negative : (FV.fin neg m e).exact < 0) : neg = true := by
  cases neg
  · rw [FV.exact_positive] at negative
    exact absurd negative (not_lt.mpr (by positivity))
  · rfl

/-- The leading bit of a number bounds its size by two neighbouring powers of 2. -/
theorem leading_bit {m : Nat} (nonzero : m ≠ 0) (e : Int) :
    (2 : ℚ) ^ (e + bitLen m - 1) ≤ m * 2 ^ e ∧ (m : ℚ) * 2 ^ e < 2 ^ (e + bitLen m - 1 + 1) := by
  obtain ⟨some, low, high⟩ := bitLen_spec nonzero
  obtain ⟨k, hk⟩ : ∃ k, bitLen m = k + 1 := ⟨bitLen m - 1, by omega⟩
  have pos : (0 : ℚ) < 2 ^ e := zpow_pos two_pos e
  rw [hk] at low high ⊢
  have first : e + (k + 1 : Nat) - 1 = k + e := by omega
  have next : (k + e + 1 : Int) = (k + 1 : Nat) + e := by omega
  rw [first, next, zpow_add₀ two_ne_zero, zpow_add₀ two_ne_zero, zpow_natCast, zpow_natCast]
  exact ⟨mul_le_mul_of_nonneg_right (by exact_mod_cast low) pos.le, mul_lt_mul_of_pos_right (by exact_mod_cast high) pos⟩

/-- A number whose leading bit is its only one is a power of 2. -/
theorem eq_leading_bit_iff {m : Nat} (nonzero : m ≠ 0) (e : Int) : m = 2 ^ (bitLen m - 1) ↔ (m : ℚ) * 2 ^ e = 2 ^ (e + bitLen m - 1) := by
  obtain ⟨some, -, -⟩ := bitLen_spec nonzero
  have exponent : e + bitLen m - 1 = (bitLen m - 1 : Nat) + e := by omega
  rw [exponent, zpow_add₀ two_ne_zero, zpow_natCast, mul_left_inj' (zpow_pos two_pos e).ne', ← Nat.cast_inj (R := ℚ)]
  push_cast
  rfl

theorem eq_two_zpow_iff {m : Nat} (nonzero : m ≠ 0) (e z : Int) : (m : ℚ) * 2 ^ e = 2 ^ z ↔ m = 2 ^ (bitLen m - 1) ∧ z = e + bitLen m - 1 := by
  rw [eq_leading_bit_iff nonzero e]
  constructor
  · intro power
    obtain ⟨low, high⟩ := leading_bit nonzero e
    rw [power] at low high
    have least := (zpow_le_zpow_iff_right₀ (one_lt_two (α := ℚ))).mp low
    have most := (zpow_lt_zpow_iff_right₀ (one_lt_two (α := ℚ))).mp high
    have exponent : z = e + bitLen m - 1 := by omega
    exact ⟨exponent ▸ power, exponent⟩
  · rintro ⟨power, rfl⟩
    exact power

/-! ### FEXP2 -/

theorem fixOne_le_fixExp2 (x : Nat) : fixOne ≤ fixExp2 x := Nat.le_add_right _ _

section
variable (f : Fmt) (neg : Bool) (m : Nat) (e : Int)

theorem Fmt.exp2_fin :
    f.exp2 (.fin neg m e) =
      if 12 < e + bitLen m then f.round .rne false false 1 (if neg = true then -4000 else 4000) false
      else if (fixedPoint neg m e % (fixOne : Int)).toNat = 0 then f.round .rne false false 1 (fixedPoint neg m e / (fixOne : Int)) false
      else f.roundFix false (fixExp2 (fixedPoint neg m e % (fixOne : Int)).toNat) (fixedPoint neg m e / (fixOne : Int)) := rfl

theorem Fmt.log2_fin (nonzero : m ≠ 0) :
    f.log2 (.fin false m e) =
      if m = 2 ^ (bitLen m - 1) then f.deliver .rne false (.fin (e + bitLen m - 1 < 0) (e + bitLen m - 1).natAbs 0)
      else if (e + bitLen m - 1) * (fixOne : Int) + fixLog2 (m * 2 ^ (257 - bitLen m)) < 0 then
        f.roundFix true ((-((e + bitLen m - 1) * (fixOne : Int) + fixLog2 (m * 2 ^ (257 - bitLen m)))).toNat - 2 ^ 16) 0
      else f.roundFix false ((e + bitLen m - 1) * (fixOne : Int) + fixLog2 (m * 2 ^ (257 - bitLen m))).toNat 0 :=
  if_neg nonzero

end

theorem Fmt.log2_negative (f : Fmt) {neg : Bool} {m : Nat} {e : Int} (negative : (FV.fin neg m e).exact < 0) : f.log2 (.fin neg m e) = (f.nan, { nv := true }) := by
  have nonzero : m ≠ 0 := fun zero => negative.ne ((FV.exact_eq_zero_iff neg m e).mpr zero)
  obtain rfl := FV.neg_of_exact_neg negative
  exact if_neg nonzero

/-- An operand of an exponent that a format has is no larger than 2^11. -/
theorem small_of_exponent {neg : Bool} {m : Nat} {e z : Int} (int : (FV.fin neg m e).exact = z) (size : |z| ≤ 149) (low : m = 0 → e ≤ 0) :
    ¬12 < e + bitLen m := by
  rintro large
  by_cases zero : m = 0
  · have := low zero
    rw [zero, show bitLen 0 = 0 from rfl] at large
    omega
  · obtain ⟨least, -⟩ := leading_bit zero e
    rw [← FV.abs_exact neg, int] at least
    have : (2 : ℚ) ^ (12 : Int) ≤ 2 ^ (e + bitLen m - 1) := zpow_le_zpow_right₀ one_le_two (by omega)
    have : |(z : ℚ)| ≤ 149 := by exact_mod_cast size
    have : (2 : ℚ) ^ (12 : Int) = 4096 := by norm_num
    linarith

namespace Fmt.Elementary
variable {f : Fmt} (h : f.Elementary) {neg : Bool} {m : Nat} {e : Int}
include h

theorem exp2_integer (bits : f.qmin ≤ e) (origin : m = 0 → e = f.qmin) {z : Int} (int : (FV.fin neg m e).exact = z) (least : f.qmin ≤ z)
    (most : z ≤ f.bias) : f.Gives (f.exp2 (.fin neg m e)) ((2 : ℚ) ^ z) := by
  have := h.least
  have := h.bias
  have small := small_of_exponent int (abs_le.mpr ⟨by omega, by omega⟩) fun zero => (origin zero).trans_le h.zero
  have fixed : fixedPoint neg m e = z * (fixOne : Int) := (exact_eq_int_iff (by omega) z).mp int
  have positive : (fixOne : Int) ≠ 0 := by decide
  have step : f.exp2 (.fin neg m e) = f.round .rne false false 1 z false := by
    rw [f.exp2_fin, if_neg small, fixed, Int.mul_emod_left, Int.mul_ediv_cancel _ positive]
    rfl
  have value := h.round_two_zpow false least most
  rwa [FV.exact_positive, Nat.cast_one, one_mul, ← step] at value

theorem inexact_exp2 (bits : f.qmin ≤ e) (outside : ¬∃ z : Int, (FV.fin neg m e).exact = z ∧ f.qmin ≤ z ∧ z ≤ f.bias) :
    Inexact (f.exp2 (.fin neg m e)) := by
  have := h.least
  have := h.bias
  rw [f.exp2_fin]
  split
  · refine h.regular.inexact_round_one h.k8 false ?_
    split <;> omega
  · split
    · next whole =>
      refine h.regular.inexact_round_one h.k8 false fun inside => outside ⟨_, (exact_eq_int_iff (by omega) _).mpr ?_, inside⟩
      have positive : (0 : Int) < (fixOne : Int) := by decide
      have divides := Int.emod_nonneg (fixedPoint neg m e) positive.ne'
      exact (Int.ediv_mul_cancel (Int.dvd_of_emod_eq_zero (by omega))).symm
    · refine f.inexact_round_long .rne false false _ ?_
      calc 2 ^ f.mb ≤ 2 ^ 23 := Nat.pow_le_pow_right (by decide) h.short
        _ ≤ fixOne / 2 ^ 16 := by decide
        _ ≤ _ := Nat.div_le_div_right (fixOne_le_fixExp2 _)

/-! ### FLOG2 -/

theorem log2_power (bits : f.qmin ≤ e) (within : (m : ℝ) * (2 : ℝ) ^ e ≤ f.top) {z : Int} (power : (FV.fin neg m e).exact = (2 : ℚ) ^ z) :
    f.Gives (f.log2 (.fin neg m e)) z ∧ (f.decode (f.log2 (.fin neg m e)).1).neg = decide (z < 0) := by
  have pos : (0 : ℚ) < 2 ^ z := zpow_pos two_pos z
  have nonzero : m ≠ 0 := fun zero => by rw [(FV.exact_eq_zero_iff neg m e).mpr zero] at power; exact pos.ne power
  obtain rfl := FV.neg_of_exact_pos (pos.trans_eq power.symm)
  rw [FV.exact_positive] at power
  have size : (m : ℝ) * (2 : ℝ) ^ e = (2 : ℝ) ^ z := by
    have cast := congrArg (Rat.cast (K := ℝ)) power
    push_cast at cast
    exact cast
  have most : z < f.bias + 1 := by
    have top := h.regular.topStep_pos
    have next := h.regular.top_add_topStep_eq h.k8
    rw [size] at within
    exact (zpow_lt_zpow_iff_right₀ (one_lt_two (α := ℝ))).mp (by linarith)
  obtain ⟨lead, exponent⟩ := (eq_two_zpow_iff nonzero e z).mp power
  have some := (bitLen_spec nonzero).1
  have step : f.log2 (.fin false m e) = f.deliver .rne false (.fin (z < 0) z.natAbs 0) := by
    rw [f.log2_fin m e nonzero, if_pos lead, ← exponent]
  rw [step]
  exact h.deliver_exponent (by omega) (by omega)

theorem inexact_log2 (positive : 0 < (FV.fin neg m e).exact) (power : ∀ z : Int, (FV.fin neg m e).exact ≠ (2 : ℚ) ^ z) :
    Inexact (f.log2 (.fin neg m e)) := by
  have nonzero : m ≠ 0 := fun zero => positive.ne' ((FV.exact_eq_zero_iff neg m e).mpr zero)
  obtain rfl := FV.neg_of_exact_pos positive
  have several : m ≠ 2 ^ (bitLen m - 1) := fun lead =>
    power _ ((FV.exact_positive m e).trans ((eq_leading_bit_iff nonzero e).mp lead))
  rw [f.log2_fin m e nonzero, if_neg several]
  split
  · exact h.inexact_roundFix _ _
  · exact h.inexact_roundFix _ _

/-! ### FTANH -/

theorem inexact_tanh (nonzero : m ≠ 0) : Inexact (f.tanh (.fin neg m e)) := by
  have := h.least
  have step : f.tanh (.fin neg m e) =
      if e + bitLen m < -80 then f.round .rne false neg (m * 2 ^ 100 - 1) (e - 100) true
      else if 7 < e + bitLen m then f.round .rne false neg (2 ^ 200 - 1) (-200) true
      else f.roundFix neg _ 0 := if_neg nonzero
  rw [step]
  split
  · refine f.inexact_round_long .rne false neg _ ?_
    have bits : 2 ^ f.mb ≤ 2 ^ 23 := Nat.pow_le_pow_right (by decide) h.short
    have := Nat.pos_of_ne_zero nonzero
    omega
  · split
    · exact f.inexact_round_tiny .rne false neg _ (by omega)
    · exact h.inexact_roundFix _ _

end Fmt.Elementary

/-! ### O8 -/

/-- R48, R65, R170: exact steps. -/
theorem exact_steps_of_finite (r : Rnd) (a b : Bool) (m n : Nat) (e g : Int) :
    let x := FV.fin a m e
    let y := FV.fin b n g
    (x.mul y).finite = true ∧ (x.mul y).exact = x.exact * y.exact ∧ (x.mul y).neg = (a != b) ∧
      (x.add r y).finite = true ∧ (x.add r y).exact = x.exact + y.exact ∧
      (x.exact + y.exact = 0 → (x.add r y).neg = if m = 0 ∧ n = 0 ∧ a = b then a else r == .rdn) :=
  ⟨rfl, FV.mul_fin_exact a b m n e g, rfl, addFin_exact r a b m n e g⟩

theorem special_steps {f : Fmt} (hf : f ∈ [Fmt.f64, Fmt.f32, Fmt.f16, Fmt.bf16]) (r : Rnd) (sat a b : Bool) {m : Nat} (c : Nat) (e : Int) (nonzero : m ≠ 0) :
    f.sqrt r sat (.fin true 0 e) = (f.zero true, {}) ∧ f.sqrt r sat (.fin true m e) = (f.nan, { nv := true }) ∧
      f.div r sat (.fin a m e) (.fin b 0 0) = (f.inf (a != b), { dz := true }) ∧
      f.deliver r sat (.nan a) = (f.nan, { nv := a }) ∧ f.deliver r sat (.inf a) = (f.inf a, {}) ∧
      f.decode f.nan = .nan false ∧ (f.pick a c f.nan).1 = f.nan ∧ (f.pick a f.nan c).1 = f.nan := by
  have k8 : f.k8 = false := by simp only [List.mem_cons, List.not_mem_nil, or_false] at hf; obtain rfl | rfl | rfl | rfl := hf <;> rfl
  have infinite : f.deliver r sat (.inf a) = (f.inf a, if f.k8 = true then { ovf := true, nx := true } else {}) := rfl
  refine ⟨rfl, if_neg nonzero, if_neg nonzero, rfl, ?_, Fmt.decode_nan hf, Fmt.pick_nan (Fmt.decode_nan hf) a c⟩
  rw [infinite, k8]
  rfl

/-- Settles O8: exact steps are integers aligned to one power of 2, tables are computed, and the exact cases of FEXP2 to FTANH are told from the operand in
fixed point. -/
theorem exactStepsAndTables : Obligations.ExactStepsAndTables := by
  refine ⟨⟨exact_steps_of_finite, fun r vs => sumAll_exact r, ?_, fun f r sat a b m c e hf => special_steps hf r sat a b c e⟩,
    ⟨kay8_codes, by decide +kernel, kay8_conversions, dyDecode_codes, rcp_f32_codes⟩, ?_⟩
  · intro r a b s m e y
    exact ⟨rfl, rfl, rfl, rfl, FV.nan_steps r s y⟩
  intro f a hf x gives inexact invalid
  have h := Fmt.elementary hf
  refine ⟨?_, ?_, ?_⟩
  · rintro sg hx y hy
    rw [hx] at hy
    simp only [List.mem_cons, List.not_mem_nil, or_false] at hy
    obtain rfl | rfl | rfl | rfl | rfl := hy <;> rfl
  · rintro neg hx
    rw [hx]
    exact ⟨rfl, by cases neg <;> rfl, rfl, rfl, h.round_one neg⟩
  · intro finite
    obtain ⟨neg, m, e, code⟩ : ∃ neg m e, x = .fin neg m e := by
      cases hx : x with
      | nan s => rw [hx] at finite; cases finite
      | inf n => rw [hx] at finite; cases finite
      | fin neg m e => exact ⟨neg, m, e, rfl⟩
    obtain ⟨bits, origin, within⟩ := h.regular.decode_bounds code
    have least : -256 ≤ e := by have := h.least; omega
    rw [code]
    exact ⟨fun z => h.exp2_integer bits origin, h.inexact_exp2 bits,
      fun zero => have none := (FV.exact_eq_zero_iff neg m e).mp zero; ⟨if_pos none, if_pos none⟩, f.log2_negative,
      fun z => h.log2_power bits within, h.inexact_log2, fun z int => ⟨Fmt.Elementary.sinPi_integer least int, h.cosPi_integer least int⟩,
      fun z half => ⟨h.sinPi_half least half, Fmt.Elementary.cosPi_half least half⟩, h.inexact_sinPi_cosPi least,
      fun nonzero => h.inexact_tanh (mt (FV.exact_eq_zero_iff neg m e).mpr nonzero)⟩

end Sys2Proof.Machine
end

section
/-! SUPPORT. Gang operations (R74): what an issue of one comes to, and what a change of the issuing gang leaves when its bundle goes on. -/

namespace Sys2Proof.Machine

/-! ### The bundle goes on -/

/-- A lane of the bundle goes on to the next instruction (R106). -/
theorem State.cl_advance_bundle {s : State} (h : s.Whole) (o : Ops) {k : Nat} (hk : s.cur.lanes.getLsbD k = true) :
    (s.advance o.stall.toNat o.yld).cl k = s.goesOn o (s.cl k) := by
  rw [State.cl_advance h, if_pos hk]; rfl

/-- An issue whose whole effect is that its bundle goes on. -/
theorem State.threadResult_of_advance {s : State} {i : Instr} {o : Ops} (h : s.Whole)
    (he : exec i s = .next (s.advance o.stall.toNat o.yld)) : s.ThreadResult i fun _ t => s.goesOn o t :=
  ⟨_, he, .advance h _ _, fun _ hk => State.cl_advance_bundle h o hk⟩

/-- What a change of the issuing gang that does one thing to each of its lanes leaves, once the bundle goes on. -/
structure State.GangGoesOn (s t : State) (o : Ops) (f : Gang → Gang) (φ : Thread → Thread) : Prop where
  others : ∀ key, key ≠ s.cur.gang → t.gangAt key = s.gangAt key
  gang : t.cg = { f s.cg with threads := t.cg.threads }
  outside : ∀ k, s.cur.lanes.getLsbD k = false → t.cl k = φ (s.cl k)
  bundle : ∀ k, s.cur.lanes.getLsbD k = true → t.cl k = s.goesOn o (φ (s.cl k))

theorem State.gangGoesOn_onGang_advance {s : State} (h : s.Whole) (o : Ops) {f : Gang → Gang} {φ : Thread → Thread} (hkey : ∀ g, (f g).key = g.key)
    (hlen : ∀ g, (f g).threads.length = g.threads.length) (hlane : ∀ g k, (f g).lane k = φ (g.lane k)) :
    s.GangGoesOn ((s.onGang s.cur.gang f).advance o.stall.toNat o.yld) o f φ := by
  have whole := h.onGang f hkey hlen
  have gang : State.cg (s.onGang s.cur.gang f) = f s.cg := State.cg_onGang h.resident f fun g _ => hkey g
  have lane : ∀ k, State.cl (s.onGang s.cur.gang f) k = φ (s.cl k) := fun k => by
    unfold State.cl; rw [gang, hlane]
  have goes := State.OnlyBundle.advance whole o.stall.toNat o.yld
  refine ⟨fun key hne => ?_, by rw [goes.gang, gang], fun k hk => ?_, fun k hk => ?_⟩
  · exact (goes.others key hne).trans (State.gangAt_onGang_other s f (fun g _ => hkey g) hne)
  · rw [goes.lanes k hk, lane]
  · rw [State.cl_advance_bundle whole o (by exact hk), lane]; rfl

/-- A gang with a register pending (R28), if it is to be. -/
def Gang.expecting (pending : Bool) (n : Nat) (g : Gang) : Gang :=
  { g with gPending := if pending = true ∧ n ≠ 0 then n :: g.gPending else g.gPending }

theorem State.onGang_id (s : State) (key : Nat) : s.onGang key (fun g => g) = s := by
  simp [State.onGang]

/-- The token of a gang operation becomes pending, where it has one; g0 never does. -/
theorem State.pend_token (s : State) (key k : Nat) (pending : Bool) (n : Nat) :
    (if pending then s.pend key k (.g n) else s) = s.onGang key (Gang.expecting pending n) := by
  cases pending with
  | false => exact (s.onGang_id key).symm
  | true =>
    by_cases hn : n = 0
    · subst hn; exact (s.onGang_id key).symm
    · simp only [State.pend, if_true, if_neg hn]
      congr 1
      funext g
      simp [Gang.expecting, hn]

/-! ### Gang operations -/

theorem getLsbD_gangDiffers (L : Mask) (fs : List (Nat → Word)) (k : Nat) :
    (gangDiffers L fs).getLsbD k = (L.getLsbD k && fs.any fun f => f k != f (lowest L)) := by
  have fold : ∀ m : Mask, (fs.foldl (fun m f => m ||| differing L f) m).getLsbD k =
      (m.getLsbD k || (L.getLsbD k && fs.any fun f => f k != f (lowest L))) := by
    induction fs with
    | nil => simp
    | cons f fs ih =>
      intro m
      rw [List.foldl_cons, ih, BitVec.getLsbD_or, differing, getLsbD_those, List.any_cons]
      cases L.getLsbD k <;> simp [Bool.or_assoc]
  exact (fold 0).trans (by simp)

/-- The lanes that trap over operands that differ (R74). -/
theorem gangDiffers_eq (L : Mask) (fs : List (Nat → Word)) :
    gangDiffers L fs = those L fun k => fs.any fun f => f k != f (lowest L) :=
  BitVec.eq_of_getLsbD_eq fun k _ => by rw [getLsbD_gangDiffers, getLsbD_those]

theorem gangDiffers_eq_zero {L : Mask} {fs : List (Nat → Word)} :
    gangDiffers L fs = 0 ↔ ∀ f ∈ fs, ∀ k, L.getLsbD k = true → f k = f (lowest L) := by
  rw [gangDiffers_eq, those_eq_zero]
  simp only [List.any_eq_false, bne_iff_ne, ne_eq, not_not]
  exact ⟨fun h f hf k hk => h k hk f hf, fun h k hk f hf => h f hf k hk⟩

section
variable {s : State} {op : Nat} {o : Ops} {fs : List (Nat → Word)} {body : Mask → Except TrapReq (Option State)} {L : Mask}

theorem State.gangOp_no_lane (hc : s.checks op o = .ok 0) : s.gangOp op o fs body = s.advance o.stall.toNat o.yld := by
  simp [State.gangOp, State.issueFlow, hc]

theorem State.gangOp_differ (hc : s.checks op o = .ok L) (hL : L ≠ 0) (hd : ¬∀ f ∈ fs, ∀ k, L.getLsbD k = true → f k = f (lowest L)) :
    s.gangOp op o fs body = s.trap (s.nonuniform (those L fun k => fs.any fun f => f k != f (lowest L))) := by
  have differ : gangDiffers L fs ≠ 0 := fun h => hd (gangDiffers_eq_zero.mp h)
  rw [← gangDiffers_eq]
  simp only [State.gangOp, State.issueFlow, hc, hL, if_false, differ, ne_eq, not_false_eq_true, if_true]

variable (hc : s.checks op o = .ok L) (hL : L ≠ 0) (hu : ∀ f ∈ fs, ∀ k, L.getLsbD k = true → f k = f (lowest L))
include hc hL hu

theorem State.gangOp_trap {t : TrapReq} (hb : body L = .error t) : s.gangOp op o fs body = s.trap t := by
  simp only [State.gangOp, State.issueFlow, hc, hL, if_false, gangDiffers_eq_zero.mpr hu, ne_eq, not_true_eq_false, hb]

theorem State.gangOp_wait (hb : body L = .ok none) : s.gangOp op o fs body = s := by
  simp only [State.gangOp, State.issueFlow, hc, hL, if_false, gangDiffers_eq_zero.mpr hu, ne_eq, not_true_eq_false, hb]

theorem State.gangOp_next {t : State} (hb : body L = .ok (some t)) : s.gangOp op o fs body = t.advance o.stall.toNat o.yld := by
  simp only [State.gangOp, State.issueFlow, hc, hL, if_false, gangDiffers_eq_zero.mpr hu, ne_eq, not_true_eq_false, hb]

end

end Sys2Proof.Machine
end

section
/-! SUPPORT. The issue of matrix instructions (R74, R78 to R80, R82 to R89), and O35. -/

namespace Sys2Proof.Machine

/-! ### Arrays -/

theorem State.array_onArray {s : State} (h : SMap.wf Array8.reset s.arrays = true) (p q : Nat) (f : Array8 → Array8) :
    (s.onArray p f).array q = if q = p then f (s.array p) else s.array q := SMap.get_set h p q (f (s.array p))

/-! ### The table of R82 -/

/-- The matrix instructions as their issues see them, in the guarded lanes: opcode, operands that must be uniform, whether they have a token, the number
of which some values must be multiples, those values, and what enters the array's queue (R82, R84 to R88). -/
def State.matrixTable (s : State) (o : Ops) (L : Mask) : List (Instr × Nat × List (Nat → Word) × Bool × Nat × List Word × MatrixOp) :=
  let low := lowest L
  let off : Word := match o.lit with | some l => sext 32 l.toNat | none => 0
  let a := s.opA o low + off
  let st := s.opBReg o low
  let two := [s.opA o, s.opBReg o]
  let slab := [s.opA o low, off, st]
  let odd := o.opmod.toNat % 2 == 1
  let tile := o.c.toNat % 8
  let bytes := if o.ty = .f64 then 8 else 4
  let step := if st = 0 then word (8 * bytes) else st
  [ (Instr.mzero o, 0x180, [], false, 1, [], MatrixOp.zero o.dst.toNat),
    (Instr.mldb o, 0x181, two, true, 64, slab, .load odd (o.opmod.toNat / 4 == 1) o.ty a st),
    (Instr.mma o, 0x182, two, true, 64, slab, .mul false o.ty o.ty2 tile a st o.rnd o.sat),
    (Instr.mmap o, 0x183, two, true, 64, slab, .mul true o.ty o.ty2 tile a st o.rnd o.sat),
    (Instr.mminplus o, 0x184, two, true, 64, slab, .minPlus odd tile a st o.rnd),
    (Instr.mmaxtimes o, 0x185, two, true, 64, slab, .maxTimes odd tile a st o.rnd),
    (Instr.morand o, 0x186, two, true, 64, slab, .orAnd odd tile a st),
    (Instr.scacc o, 0x187, [s.opA o, s.opBReg o, s.opC o], false, 4, [st, s.opC o low],
      .scale o.dst.toNat (o.opmod.toNat % 4) a st (s.opC o low) o.rnd o.sat),
    (Instr.maccld o, 0x188, two, true, bytes, [a, step], .tileLoad odd o.ty o.c.toNat a step),
    (Instr.maccst o, 0x189, two, true, bytes, [a, step], .tileStore odd o.ty o.c.toNat a step),
    (Instr.mpsst o, 0x18A, two, true, bytes, [a, step], .tileStore odd o.ty o.c.toNat a step) ]

/-! ### The checks of its own, in their order (assumption 62) -/

/-- The weight ranges of MLDB.W lie inside the weight store (R84). -/
def MatrixOp.inWeights : MatrixOp → Prop
  | .load _ true _ a st => ∀ j < 8, (a + word j * st).toNat + 64 ≤ Config.weightBytes
  | _ => True

/-- What State.matrixIssue checks of a load of the weight store. -/
def MatrixOp.weightTrap (L : Mask) : MatrixOp → Option TrapReq
  | .load _ true _ a st => Machine.weightTrap L .load ((List.range 8).map fun i => (a + word i * st, 64))
  | _ => none

theorem weightTrap_eq_none {L : Mask} {acc : Access} {rs : List (Word × Nat)} (h : ∀ r ∈ rs, r.1.toNat + r.2 ≤ Config.weightBytes) :
    weightTrap L acc rs = none := by
  have inside : rs.filter (fun r => decide (Config.weightBytes < r.1.toNat + r.2)) = [] :=
    List.filter_eq_nil_iff.mpr fun r hr => by simpa using h r hr
  simp only [weightTrap, inside]

theorem MatrixOp.weightTrap_eq_none {L : Mask} {op : MatrixOp} (h : op.inWeights) : op.weightTrap L = none := by
  unfold MatrixOp.weightTrap
  split
  · refine Machine.weightTrap_eq_none fun r hr => ?_
    obtain ⟨j, hj, rfl⟩ := List.mem_map.mp hr
    exact h j (List.mem_range.mp hj)
  · rfl

theorem misalignedOf_eq_none {n : Nat} {vs : List Word} {s : State} {L : Mask} (h : ∀ v ∈ vs, v.toNat % n = 0) : misalignedOf n vs s L = none := by
  have aligned : vs.filter (fun v => v.toNat % n != 0) = [] := List.filter_eq_nil_iff.mpr fun v hv => by simp [h v hv]
  simp only [misalignedOf, aligned]

theorem misalignedOf_head {n : Nat} {vs : List Word} {s : State} {L : Mask} {v : Word} (h : (vs.filter fun v => v.toNat % n != 0).head? = some v) :
    misalignedOf n vs s L = some { cause := .misaligned, mask := L, addr := v, info := s.freeInfo } := by
  unfold misalignedOf
  split
  · next none => rw [none] at h; cases h
  · next w ws first => rw [first] at h; cases h; rfl

theorem State.rangesTrap_eq_none {s : State} {L : Mask} {sel : Option Nat} {rs : List OpRange}
    (h : ∀ r ∈ rs, (∀ n, sel = some n → Word.field r.addr 22 20 = n) ∧ s.endTrap L r.core r.field [(r.addr, r.size)] = none) :
    s.rangesTrap L sel rs = none := by
  refine List.findSome?_eq_none_iff.mpr fun r hr => ?_
  obtain ⟨core, bounds⟩ := h r hr
  have same : ¬(sel.any fun n => Word.field r.addr 22 20 != n) = true := by
    cases sel with
    | none => simp
    | some n => simp [core n rfl]
  rw [if_neg same, bounds]

theorem State.rangesTrap_head {s : State} {L : Mask} {n : Nat} {rs : List OpRange} {r : OpRange} (h : rs.head? = some r)
    (hn : Word.field r.addr 22 20 ≠ n) :
    s.rangesTrap L (some n) rs = some { cause := .scratchBounds, mask := L, addr := r.addr, info := word r.field } := by
  obtain ⟨rs', rfl⟩ := List.head?_eq_some_iff.mp h
  simp [State.rangesTrap, hn]

/-! ### The issue -/

/-- What enters the queue of the array of the issuing gang (R82). -/
def State.matrixEntry (s : State) (o : Ops) (L : Mask) (token : Bool) (op : MatrixOp) : MatrixEntry :=
  let core := coreOf s.cg.key
  { op := op, gang := s.cg.key, launch := s.cg.launch, block := s.cg.block, world := s.cg.world, xlate := s.cg.xlate, lanes := L
    token := if token then some o.dst.toNat else none, priv := (s.cl (lowest L)).priv
    reads := (op.readRanges core).flatMap (s.rangePlace s.cg), writes := (op.writeRanges core).flatMap (s.rangePlace s.cg), spoiled := []
    moved := [], insn := s.cur.raw, pc := s.cur.pc }

/-- The state in which the entry stands in the queue. -/
def State.queued (s : State) (e : MatrixEntry) : State := s.onArray (partOf s.cg.key) fun a => { a with queue := a.queue ++ [e] }

/-- What the issue of a matrix instruction comes to in its guarded lanes: a trap, a wait, or the state with the entry queued (R82). -/
def State.matrixBody (s : State) (o : Ops) (L : Mask) (token : Bool) (align : Nat) (vals : List Word) (sel : Option Nat) (op : MatrixOp) :
    Except TrapReq (Option State) :=
  let core := coreOf s.cg.key
  let p := partOf s.cg.key
  if op.paired ∧ s.pairRefused then .error (s.illegal L 0)
  else match misalignedOf align vals s L with
    | some t => .error t
    | none =>
      match s.rangesTrap L sel (op.readRanges core ++ op.writeRanges core) with
      | some t => .error t
      | none =>
        match op.weightTrap L with
        | some t => .error t
        | none =>
          if s.refusesMatrix p ∨ Config.matrixLimit ≤ (s.array p).queue.length then .ok none
          else
            let s1 := s.queued (s.matrixEntry o L token op)
            .ok (some (if token then s1.pend s.cg.key 0 (.g o.dst.toNat) else s1))

/-- Each of the matrix instructions is a gang operation with that body; a product takes its core from the selector of srcA (R85). -/
theorem exec_of_mem_matrixTable {s : State} {o : Ops} {L : Mask} {i : Instr} {code : Nat} {fs : List (Nat → Word)} {token : Bool} {align : Nat}
    {vals : List Word} {op : MatrixOp} (h : (i, code, fs, token, align, vals, op) ∈ s.matrixTable o L) :
    ∃ body, exec i s = .next (s.gangOp code o fs body) ∧ body L =
      s.matrixBody o L token align vals (if 0x182 ≤ code ∧ code ≤ 0x186 then some (Word.field (s.opA o (lowest L)) 22 20) else none) op := by
  simp only [State.matrixTable, List.mem_cons, List.not_mem_nil, or_false, Prod.mk.injEq] at h
  rcases h with ⟨rfl, rfl, rfl, rfl, rfl, rfl, rfl⟩ | ⟨rfl, rfl, rfl, rfl, rfl, rfl, rfl⟩ | ⟨rfl, rfl, rfl, rfl, rfl, rfl, rfl⟩ |
    ⟨rfl, rfl, rfl, rfl, rfl, rfl, rfl⟩ | ⟨rfl, rfl, rfl, rfl, rfl, rfl, rfl⟩ | ⟨rfl, rfl, rfl, rfl, rfl, rfl, rfl⟩ |
    ⟨rfl, rfl, rfl, rfl, rfl, rfl, rfl⟩ | ⟨rfl, rfl, rfl, rfl, rfl, rfl, rfl⟩ | ⟨rfl, rfl, rfl, rfl, rfl, rfl, rfl⟩ |
    ⟨rfl, rfl, rfl, rfl, rfl, rfl, rfl⟩ | ⟨rfl, rfl, rfl, rfl, rfl, rfl, rfl⟩ <;>
  exact ⟨_, rfl, rfl⟩

section
variable {s : State} {o : Ops} {L : Mask} {token : Bool} {align : Nat} {vals : List Word} {sel : Option Nat} {op : MatrixOp}

theorem State.matrixBody_pairRefused (hp : op.paired = true ∧ s.pairRefused = true) :
    s.matrixBody o L token align vals sel op = .error (s.illegal L 0) := if_pos hp

variable (hp : ¬(op.paired = true ∧ s.pairRefused = true))
include hp

theorem State.matrixBody_misaligned {v : Word} (h : (vals.filter fun v => v.toNat % align != 0).head? = some v) :
    s.matrixBody o L token align vals sel op = .error { cause := .misaligned, mask := L, addr := v, info := s.freeInfo } := by
  simp only [State.matrixBody, hp, if_false, misalignedOf_head h]

variable (ha : ∀ v ∈ vals, v.toNat % align = 0)
include ha

theorem State.matrixBody_otherCore {n : Nat} {r : OpRange} (hsel : sel = some n)
    (hr : (op.readRanges (coreOf s.cg.key) ++ op.writeRanges (coreOf s.cg.key)).head? = some r) (hn : Word.field r.addr 22 20 ≠ n) :
    s.matrixBody o L token align vals sel op = .error { cause := .scratchBounds, mask := L, addr := r.addr, info := word r.field } := by
  subst hsel
  simp only [State.matrixBody, hp, if_false, misalignedOf_eq_none ha, State.rangesTrap_head hr hn]

variable
  (hr : ∀ r ∈ op.readRanges (coreOf s.cg.key) ++ op.writeRanges (coreOf s.cg.key),
    (∀ n, sel = some n → Word.field r.addr 22 20 = n) ∧ s.endTrap L r.core r.field [(r.addr, r.size)] = none)
  (hw : op.inWeights)
include hr hw

theorem State.matrixBody_wait (hq : s.refusesMatrix (partOf s.cg.key) = true ∨ 8 ≤ (s.array (partOf s.cg.key)).queue.length) :
    s.matrixBody o L token align vals sel op = .ok none := by
  have full : s.refusesMatrix (partOf s.cg.key) = true ∨ Config.matrixLimit ≤ (s.array (partOf s.cg.key)).queue.length := hq
  simp only [State.matrixBody, hp, if_false, misalignedOf_eq_none ha, State.rangesTrap_eq_none hr, MatrixOp.weightTrap_eq_none hw, full, if_true]

theorem State.matrixBody_queued (hf : s.refusesMatrix (partOf s.cg.key) = false) (hq : (s.array (partOf s.cg.key)).queue.length < 8) :
    s.matrixBody o L token align vals sel op =
      .ok (some ((s.queued (s.matrixEntry o L token op)).onGang s.cg.key (Gang.expecting token o.dst.toNat))) := by
  have room : ¬(s.refusesMatrix (partOf s.cg.key) = true ∨ Config.matrixLimit ≤ (s.array (partOf s.cg.key)).queue.length) := by
    rintro (refused | full)
    · rw [hf] at refused; cases refused
    · exact absurd hq (Nat.not_lt.mpr full)
  simp only [State.matrixBody, hp, if_false, misalignedOf_eq_none ha, State.rangesTrap_eq_none hr, MatrixOp.weightTrap_eq_none hw, room,
    State.pend_token]

end

/-- A matrix instruction that enters the queue of its partition's array: what the issue leaves. -/
theorem State.queued_advance {s : State} (hi : s.Issuing) (ha : SMap.wf Array8.reset s.arrays = true) (o : Ops) (token : Bool) (e : MatrixEntry) :
    let t := ((s.queued e).onGang s.cur.gang (Gang.expecting token o.dst.toNat)).advance o.stall.toNat o.yld
    t = { s with arrays := t.arrays, gangs := t.gangs } ∧
    (∀ q, t.array q = if q = partOf s.cg.key then
      { s.array (partOf s.cg.key) with queue := (s.array (partOf s.cg.key)).queue ++ [e] } else s.array q) ∧
    s.GangGoesOn t o (Gang.expecting token o.dst.toNat) id := by
  have whole : (s.queued e).Whole := ⟨hi.resident, hi.canonical.whole⟩
  have goes := State.gangGoesOn_onGang_advance whole o (f := Gang.expecting token o.dst.toNat) (φ := id)
    (fun _ => rfl) (fun _ => rfl) (fun _ _ => rfl)
  exact ⟨rfl, fun q => State.array_onArray ha (partOf s.cg.key) q fun a => { a with queue := a.queue ++ [e] }, goes.others, goes.gang, goes.outside, goes.bundle⟩

/-! ### Waits (R83, R89) -/

theorem State.mreadyHold_iff {s : State} {key k : Nat} :
    s.mreadyHold key k = true ↔ (∃ p a, (p, a) ∈ s.arrays ∧ ∃ e ∈ a.queue, e.gang = key) ∨
      ∃ x ∈ s.stores, x.bank = true ∧ x.gang = key ∧ x.lane = k := by
  simp [State.mreadyHold, State.matrixBusy, and_assoc]

theorem those_ne_zero {m : Mask} {p : Nat → Bool} : those m p ≠ 0 ↔ ∃ k, m.getLsbD k = true ∧ p k = true := by
  rw [ne_eq, those_eq_zero]
  simp

/-- The gang has a matrix instruction unretired, or a guarded thread a scratch store that has not been performed (R89). -/
theorem State.mready_holds_iff {s : State} {L : Mask} (hL : L ≠ 0) :
    those L (s.mreadyHold s.cur.gang) ≠ 0 ↔ (∃ p a, (p, a) ∈ s.arrays ∧ ∃ e ∈ a.queue, e.gang = s.cur.gang) ∨
      ∃ k, L.getLsbD k = true ∧ ∃ x ∈ s.stores, x.bank = true ∧ x.gang = s.cur.gang ∧ x.lane = k := by
  simp only [those_ne_zero, State.mreadyHold_iff]
  constructor
  · rintro ⟨k, hk, unretired | store⟩
    · exact .inl unretired
    · exact .inr ⟨k, hk, store⟩
  · rintro (unretired | ⟨k, hk, store⟩)
    · exact ⟨_, lowest_mem hL, .inl unretired⟩
    · exact ⟨k, hk, .inr store⟩

section
variable {s : State} {o : Ops} {L : Mask} (hc : s.checks 0x18B o = .ok L) (hL : L ≠ 0)
include hc hL

theorem State.mready_of_held (h : those L (s.mreadyHold s.cur.gang) ≠ 0) : s.mready o = s :=
  State.issueFlow_ok hc (by simp only [hL, if_false, h, ne_eq, not_false_eq_true, if_true])

variable (h : those L (s.mreadyHold s.cur.gang) = 0)
include h

theorem State.mready_of_ready (he : s.cg.scaccError = none) : s.mready o = s.advance o.stall.toNat o.yld :=
  State.issueFlow_ok hc (by simp only [hL, if_false, h, ne_eq, not_true_eq_false, he])

theorem State.mready_of_error {e : ScaccError} (he : s.cg.scaccError = some e) :
    s.mready o = (s.onGang s.cur.gang fun g => { g with scaccError := none }).trap { cause := e.cause, mask := L, addr := e.address, info := e.insn } :=
  State.issueFlow_ok hc (by simp only [hL, if_false, h, ne_eq, not_true_eq_false, he])

end

/-- In no guarded lane a matrix instruction only goes on. -/
theorem exec_matrix_no_lane {s : State} {o : Ops} {i : Instr} {op : Nat}
    (h : (i, op) ∈ [(Instr.mzero o, 0x180), (Instr.mldb o, 0x181), (Instr.mma o, 0x182), (Instr.mmap o, 0x183), (Instr.mminplus o, 0x184),
      (Instr.mmaxtimes o, 0x185), (Instr.morand o, 0x186), (Instr.scacc o, 0x187), (Instr.maccld o, 0x188), (Instr.maccst o, 0x189),
      (Instr.mpsst o, 0x18A), (Instr.mready o, 0x18B), (Instr.mwait o, 0x18C)]) (hc : s.checks op o = .ok 0) :
    exec i s = .next (s.advance o.stall.toNat o.yld) := by
  simp only [List.mem_cons, List.not_mem_nil, or_false, Prod.mk.injEq] at h
  rcases h with ⟨rfl, rfl⟩ | ⟨rfl, rfl⟩ | ⟨rfl, rfl⟩ | ⟨rfl, rfl⟩ | ⟨rfl, rfl⟩ | ⟨rfl, rfl⟩ | ⟨rfl, rfl⟩ | ⟨rfl, rfl⟩ | ⟨rfl, rfl⟩ | ⟨rfl, rfl⟩ |
    ⟨rfl, rfl⟩ | ⟨rfl, rfl⟩ | ⟨rfl, rfl⟩
  case inr.inr.inr.inr.inr.inr.inr.inr.inr.inr.inr.inl => exact congrArg _ (State.issueFlow_ok hc (if_pos rfl))
  case inr.inr.inr.inr.inr.inr.inr.inr.inr.inr.inr.inr =>
    exact congrArg _ (State.issueWhen_ok hc (those_eq_zero.mpr fun k hk => by simp at hk) rfl)
  all_goals exact congrArg _ (State.gangOp_no_lane hc)

/-- MELECT delivers the half of the core's pair, and names the lowest guarded lane (R83). -/
theorem exec_melect_delivers {s : State} {o : Ops} {L : Mask} (hi : s.Issuing) (hc : s.checks 0x18D o = .ok L) :
    s.Delivers (exec (.melect o) s) o L (fun k => mergeLo o (s.dstBefore o k) (word (coreOf s.cur.gang % 2))) (predOf L o.a.toNat)
      (fun k _ => k == lowest L) (fun _ => 0) fun _ => false := by
  have h := State.laneStep_pred_delivers hi hc 0 (fun _ => { val := word (coreOf s.cur.gang % 2) }) o.a.toNat (fun k => k == lowest L) 0
    (fun L => (s.writeBack o 0 L fun _ => { val := word (coreOf s.cur.gang % 2) }).map fun s' =>
      s'.onLanes s.cur.gang L fun k t => t.resultP o.a.toNat (k == lowest L) 0 s.clock s.cur.pc) rfl
  have noFlags : (fun k => if L.getLsbD k then ({ val := word (coreOf s.cur.gang % 2) } : LaneOut).flags.bits else 0) = fun _ => (0 : BitVec 5) := by
    funext k; split <;> rfl
  have noReserved : (fun k => L.getLsbD k && ({ val := word (coreOf s.cur.gang % 2) } : LaneOut).dy) = fun _ => false :=
    funext fun _ => Bool.and_false _
  rw [noFlags, noReserved] at h
  exact h

/-- The weight ranges that MLDB.W checks are those of the base and stride in its operands (R84). -/
theorem inWeights_of_mem_matrixTable {s : State} {o : Ops} {L : Mask} {i : Instr} {code : Nat} {fs : List (Nat → Word)} {token : Bool} {align : Nat}
    {vals : List Word} {op : MatrixOp} (h : (i, code, fs, token, align, vals, op) ∈ s.matrixTable o L)
    (hw : ∀ own t, op = .load own true t (s.opA o (lowest L) + match o.lit with | some l => sext 32 l.toNat | none => 0) (s.opBReg o (lowest L)) →
      ∀ j < 8, ((s.opA o (lowest L) + match o.lit with | some l => sext 32 l.toNat | none => 0) + word j * s.opBReg o (lowest L)).toNat + 64 ≤ 2 ^ 28) :
    op.inWeights := by
  simp only [State.matrixTable, List.mem_cons, List.not_mem_nil, or_false, Prod.mk.injEq] at h
  rcases h with ⟨-, -, -, -, -, -, rfl⟩ | ⟨-, -, -, -, -, -, rfl⟩ | ⟨-, -, -, -, -, -, rfl⟩ | ⟨-, -, -, -, -, -, rfl⟩ | ⟨-, -, -, -, -, -, rfl⟩ |
    ⟨-, -, -, -, -, -, rfl⟩ | ⟨-, -, -, -, -, -, rfl⟩ | ⟨-, -, -, -, -, -, rfl⟩ | ⟨-, -, -, -, -, -, rfl⟩ | ⟨-, -, -, -, -, -, rfl⟩ |
    ⟨-, -, -, -, -, -, rfl⟩
  case inr.inl =>
    cases hb : o.opmod.toNat / 4 == 1 with
    | false => trivial
    | true => exact hw _ _ (by rw [hb])
  all_goals trivial

/-- Settles O35: its own checks in their order, the entry in the queue, and the instructions that wait. -/
theorem matrixIssueAndWaits : Obligations.MatrixIssueAndWaits := by
  refine ⟨?_, ?_⟩
  · intro s L o i code fs token align vals op hi _ ha hL hc low key core p off a st two slab odd tile bytes step mem uniform core' ranges inWeights
    have mem' : _ ∈ s.matrixTable o L := mem
    obtain ⟨body, issue, hbody⟩ := exec_of_mem_matrixTable mem'
    have hkey : s.cg.key = s.cur.gang := State.gangAt_key hi.resident
    rw [issue]
    refine ⟨fun hu => ?_, fun hu paired refused => ?_, fun hu hp v hv => ?_, fun hu hp aligned r n hr hn hne => ?_,
      fun hu hp aligned hr hw => ⟨fun full => ?_, fun open' room => ?_⟩⟩
    · rw [State.gangOp_differ hc hL hu]; rfl
    · rw [State.gangOp_trap hc hL hu (hbody.trans (State.matrixBody_pairRefused ⟨paired, refused⟩))]; rfl
    · rw [State.gangOp_trap hc hL hu (hbody.trans (State.matrixBody_misaligned hp hv))]
    · rw [State.gangOp_trap hc hL hu (hbody.trans (State.matrixBody_otherCore hp aligned hn (by rw [hkey]; exact hr) hne))]
    · have weights := inWeights_of_mem_matrixTable mem' hw
      rw [State.gangOp_wait hc hL hu (hbody.trans (State.matrixBody_wait hp aligned (by rw [hkey]; exact hr) weights (by rw [hkey]; exact full)))]
    · have weights := inWeights_of_mem_matrixTable mem' hw
      rw [State.gangOp_next hc hL hu (hbody.trans (State.matrixBody_queued hp aligned (by rw [hkey]; exact hr) weights (by rw [hkey]; exact open')
        (by rw [hkey]; exact room)))]
      obtain ⟨rest, arrays, others, gang, outside, bundle⟩ := State.queued_advance hi ha o token (s.matrixEntry o L token op)
      rw [hkey] at arrays ⊢
      refine ⟨_, s.matrixEntry o L token op, rfl, rest, arrays, ?_, others, ?_, outside, bundle⟩
      · simp only [State.matrixEntry, hkey]; rfl
      · have zero : o.dst ≠ 0 ↔ o.dst.toNat ≠ 0 := by simp [BitVec.toNat_eq]
        simp only [zero]
        exact gang
  · intro s L o hi _
    refine ⟨fun i op mem hc => State.threadResult_of_advance hi.toWhole (exec_matrix_no_lane mem hc), fun hc hL => ?_,
      fun hc hL => ⟨fun pending => ?_, fun ready => ?_⟩, exec_melect_delivers hi⟩
    · dsimp only
      have free : ¬_ → those L (s.mreadyHold s.cur.gang) = 0 := fun idle => not_not.mp fun h => idle ((State.mready_holds_iff hL).mp h)
      refine ⟨fun held => ?_, fun idle none => ?_, fun e idle some => ?_⟩
      · exact congrArg _ (State.mready_of_held hc hL ((State.mready_holds_iff hL).mpr held))
      · exact State.threadResult_of_advance hi.toWhole (congrArg _ (State.mready_of_ready hc hL (free idle) none))
      · exact ⟨_, congrArg _ (State.mready_of_error hc hL (free idle) some), State.OnlyGang.onGang s _ fun _ => rfl,
          State.cg_onGang hi.resident _ fun _ _ => rfl⟩
    · exact congrArg _ (State.issueFlow_ok hc (if_pos (those_ne_zero.mpr ⟨_, lowest_mem hL, by simpa using pending⟩)))
    · exact State.threadResult_of_advance hi.toWhole
        (congrArg _ (State.issueWhen_ok hc (those_eq_zero.mpr fun k _ => by simpa using ready) rfl))

end Sys2Proof.Machine
end

section
/-! SUPPORT. Scratch (R69 to R72, R198, R200): what a change of an allocation leaves, and what performing a thread's earlier accesses keeps. -/

namespace Sys2Proof.Machine

/-! ### Allocations -/

/-- A change that leaves it the allocation of the same block on the same core. -/
def Alloc.KeepsName (f : Alloc → Alloc) : Prop := ∀ a, (f a).launch = a.launch ∧ (f a).block = a.block ∧ (f a).core = a.core

theorem State.allocAt_onAlloc (s : State) {f : Alloc → Alloc} (hf : Alloc.KeepsName f) (launch block core launch' block' core' : Nat) :
    (s.onAlloc launch block core f).allocAt launch' block' core' =
      if launch' = launch ∧ block' = block ∧ core' = core then (s.allocAt launch block core).map f else s.allocAt launch' block' core' := by
  have named : ∀ a : Alloc, ((if a.launch = launch ∧ a.block = block ∧ a.core = core then f a else a).launch = a.launch) ∧
      ((if a.launch = launch ∧ a.block = block ∧ a.core = core then f a else a).block = a.block) ∧
      ((if a.launch = launch ∧ a.block = block ∧ a.core = core then f a else a).core = a.core) := fun a => by
    split
    · exact hf a
    · exact ⟨rfl, rfl, rfl⟩
  have find : (s.onAlloc launch block core f).allocAt launch' block' core' =
      (s.allocAt launch' block' core').map fun a => if a.launch = launch ∧ a.block = block ∧ a.core = core then f a else a := by
    unfold State.allocAt State.onAlloc
    rw [List.find?_map]
    congr 2
    funext a
    obtain ⟨hl, hb, hc⟩ := named a
    simp only [Function.comp, hl, hb, hc]
  rw [find]
  cases h : s.allocAt launch' block' core' with
  | none =>
    split
    · next same => obtain ⟨rfl, rfl, rfl⟩ := same; rw [h]; rfl
    · rfl
  | some a =>
    have name := List.find?_some h
    simp only [Bool.and_eq_true, beq_iff_eq] at name
    obtain ⟨⟨rfl, rfl⟩, rfl⟩ := name
    split
    · next same => obtain ⟨rfl, rfl, rfl⟩ := same; rw [h]; simp
    · next other => simp [show ¬(a.launch = launch ∧ a.block = block ∧ a.core = core) from other]

/-- Storing bytes changes nothing of an allocation but what its words hold. -/
theorem Alloc.puts_rest (a : Alloc) (off : Nat) (bs : List Byte) (poison : Bool) :
    a.puts off bs poison = { a with bytes := (a.puts off bs poison).bytes, valid := (a.puts off bs poison).valid, poison := (a.puts off bs poison).poison } := by
  induction bs generalizing a off with
  | nil => rfl
  | cons b bs ih => rw [Alloc.puts, ih]; rfl

theorem Alloc.keepsName_puts (off : Nat) (bs : List Byte) (poison : Bool) : Alloc.KeepsName fun a => a.puts off bs poison :=
  fun a => by dsimp only; rw [a.puts_rest]; exact ⟨rfl, rfl, rfl⟩

/-! ### Performing accesses of scratch -/

theorem State.violate_rest (s : State) (owner : LogOwner) (address : Word) (requester : BitVec 32) (kind fromW toW : Nat) :
    s.violate owner address requester kind fromW toW = { s with vlogs := (s.violate owner address requester kind fromW toW).vlogs } := by
  unfold State.violate
  dsimp only
  split <;> rfl

theorem State.logBanks_rest (s : State) (world : Nat) (req : BitVec 32) (banks : List (Nat × Word)) :
    s.logBanks world req banks = { s with vlogs := (s.logBanks world req banks).vlogs } := by
  induction banks generalizing s with
  | nil => rfl
  | cons b bs ih => rw [State.logBanks, ih, State.violate_rest]

/-- What performing stores to scratch, and reading it for loads, leaves as it was: all but the accesses on their way, what allocations hold, what the
matrix instructions remember of it, and the violation logs. -/
structure State.Settled (s t : State) : Prop where
  rest : t = { s with stores := t.stores, loads := t.loads, allocs := t.allocs, arrays := t.arrays, vlogs := t.vlogs }
  size : ∀ launch block core, (t.allocAt launch block core).map Alloc.size = (s.allocAt launch block core).map Alloc.size

theorem State.Settled.refl (s : State) : s.Settled s := ⟨rfl, fun _ _ _ => rfl⟩

theorem State.Settled.trans {s t u : State} (h : s.Settled t) (h' : t.Settled u) : s.Settled u :=
  ⟨by rw [h'.rest, h.rest], fun launch block core => (h'.size launch block core).trans (h.size launch block core)⟩

/-- Steps that each leave a relation's facts leave them together. -/
theorem State.foldl_of_trans {α : Type} {R : State → State → Prop} (refl : ∀ s, R s s) (trans : ∀ {s t u}, R s t → R t u → R s u)
    {f : State → α → State} (step : ∀ s a, R s (f s a)) (xs : List α) (s : State) : R s (xs.foldl f s) := by
  induction xs generalizing s with
  | nil => exact refl s
  | cons x xs ih => exact trans (step s x) (ih (f s x))

theorem State.settled_scratchPut (s : State) (key core off : Nat) (bs : List Byte) : s.Settled (s.scratchPut key core off bs) := by
  unfold State.scratchPut
  split
  · rw [State.logBanks_rest]; exact ⟨rfl, fun _ _ _ => rfl⟩
  · refine ⟨rfl, fun launch block core' => ?_⟩
    show ((s.onAlloc _ _ core fun a => a.puts off bs false).allocAt launch block core').map Alloc.size = _
    rw [State.allocAt_onAlloc s (Alloc.keepsName_puts off bs false)]
    split
    · next same =>
      obtain ⟨rfl, rfl, rfl⟩ := same
      rw [Option.map_map]
      congr 1
      funext a
      simp only [Function.comp]
      rw [a.puts_rest]
    · rfl

theorem State.settled_onTheWay (s : State) (loads : List PLoad) (stores : List PStore) : s.Settled { s with loads := loads, stores := stores } :=
  ⟨rfl, fun _ _ _ => rfl⟩

theorem State.settled_performBanks (s : State) (due : List PStore) : s.Settled (due.foldl State.performBank s) :=
  State.foldl_of_trans (R := State.Settled) State.Settled.refl State.Settled.trans (fun s _ => State.settled_scratchPut s _ _ _ _) due s

theorem State.settled_settleStores (s : State) (key k : Nat) (within : Nat → Nat → Bool) : s.Settled (s.settleStores key k within) := by
  unfold State.settleStores
  exact (State.settled_onTheWay s s.loads _).trans (State.settled_performBanks _ _)

theorem State.settled_settleRanges (s : State) (L : Mask) (ranges : List (Word × Nat)) : s.Settled (s.settleRanges L ranges) :=
  State.foldl_of_trans State.Settled.refl State.Settled.trans (fun s k => State.settled_settleStores s _ k _) _ _

theorem State.settled_settleSources (s : State) (L : Mask) (r : CopyReq) : s.Settled (s.settleSources L r) := by
  unfold State.settleSources
  split
  · exact State.settled_settleRanges s L _
  · exact .refl s

/-! ### Blocks -/

/-- What a lane's access of scratch looks at besides the bytes is as it was: the issue in progress, the gangs but for what their threads do, and the
sizes of the allocations. -/
structure State.SameBlocks (s t : State) : Prop where
  cur : t.cur = s.cur
  clock : t.clock = s.clock
  resident : ∀ key, t.resident key = s.resident key
  gang : ∀ key, t.gangAt key = { s.gangAt key with threads := (t.gangAt key).threads }
  length : ∀ key, (t.gangAt key).threads.length = (s.gangAt key).threads.length
  priv : ∀ key k, ((t.gangAt key).lane k).priv = ((s.gangAt key).lane k).priv
  size : ∀ launch block core, (t.allocAt launch block core).map Alloc.size = (s.allocAt launch block core).map Alloc.size

theorem State.SameBlocks.refl (s : State) : s.SameBlocks s := ⟨rfl, rfl, fun _ => rfl, fun _ => rfl, fun _ => rfl, fun _ _ => rfl, fun _ _ _ => rfl⟩

theorem State.SameBlocks.trans {s t u : State} (h : s.SameBlocks t) (h' : t.SameBlocks u) : s.SameBlocks u where
  cur := h'.cur.trans h.cur
  clock := h'.clock.trans h.clock
  resident key := (h'.resident key).trans (h.resident key)
  gang key := by rw [h'.gang, h.gang]
  length key := (h'.length key).trans (h.length key)
  priv key k := (h'.priv key k).trans (h.priv key k)
  size launch block core := (h'.size launch block core).trans (h.size launch block core)

theorem State.SameBlocks.of_gangs {s t : State} (gangs : t.gangs = s.gangs) (cur : t.cur = s.cur) (clock : t.clock = s.clock)
    (size : ∀ launch block core, (t.allocAt launch block core).map Alloc.size = (s.allocAt launch block core).map Alloc.size) : s.SameBlocks t where
  cur := cur
  clock := clock
  resident key := by unfold State.resident; rw [gangs]
  gang key := by rw [State.gangAt_congr gangs]
  length key := by rw [State.gangAt_congr gangs]
  priv key k := by rw [State.gangAt_congr gangs]
  size := size

section
variable {s t : State} (h : s.SameBlocks t)
include h

/-- A block has an allocation on a core as before, of the same size. -/
theorem State.SameBlocks.allocAt (launch block core : Nat) :
    (s.allocAt launch block core = none ∧ t.allocAt launch block core = none) ∨
      ∃ a b, s.allocAt launch block core = some a ∧ t.allocAt launch block core = some b ∧ b.size = a.size := by
  have size := h.size launch block core
  cases hs : s.allocAt launch block core with
  | none => rw [hs] at size; exact .inl ⟨rfl, Option.map_eq_none_iff.mp size⟩
  | some a =>
    rw [hs] at size
    obtain ⟨b, hb, same⟩ := Option.map_eq_some_iff.mp size
    exact .inr ⟨a, b, rfl, hb, same⟩

theorem State.SameBlocks.spot (launch block core : Nat) (a : Word) : t.spot launch block core a = s.spot launch block core a := by
  unfold State.spot
  split
  · rfl
  · next c _ =>
    obtain ⟨hs, ht⟩ | ⟨a, b, hs, ht, same⟩ := h.allocAt launch block c
    · rw [hs, ht]
    · rw [hs, ht]; simp only [same]

theorem State.SameBlocks.gangSpot (key : Nat) (a : Word) : t.gangSpot key a = s.gangSpot key a := by
  unfold State.gangSpot
  rw [h.gang]
  simp only [h.spot]

theorem State.SameBlocks.spots (key : Nat) (a : Word) (n : Nat) : t.spots key a n = s.spots key a n := by
  unfold State.spots
  rw [show t.gangSpot key = s.gangSpot key from funext fun a => h.gangSpot key a]

theorem State.SameBlocks.placeOf (key : Nat) (side : Side) (a : Word) : t.placeOf key side a = s.placeOf key side a := by
  unfold State.placeOf
  rw [h.gangSpot]

theorem State.SameBlocks.beyond (key core : Nat) (a : Word) (n : Nat) : t.beyond key core a n = s.beyond key core a n := by
  unfold State.beyond
  rw [h.gang]
  by_cases crossed : (s.gangAt key).byCrossing = true
  · simp only [crossed, if_true]
  · cases scratchCore core a with
    | none => simp only [crossed, if_false, Option.bind_none, Bool.false_eq_true]
    | some c =>
      simp only [crossed, if_false, Option.bind_some, Bool.false_eq_true]
      obtain ⟨hs, ht⟩ | ⟨al, al', hs, ht, same⟩ := h.allocAt (s.gangAt key).launch (s.gangAt key).block c
      · rw [hs, ht]
      · rw [hs, ht]; simp only [same]

theorem State.SameBlocks.endTrap (L : Mask) (core operand : Nat) (ranges : List (Word × Nat)) :
    t.endTrap L core operand ranges = s.endTrap L core operand ranges := by
  unfold State.endTrap
  simp only [h.cur, h.beyond]

theorem State.SameBlocks.whole (hs : s.Whole) : t.Whole :=
  ⟨by rw [h.cur, h.resident]; exact hs.resident, by unfold State.cg; rw [h.cur, h.length]; exact hs.length⟩

end

/-! ### What a settled state shows -/

section
variable {s t : State} (h : s.Settled t)
include h

theorem State.Settled.gangs : t.gangs = s.gangs := by rw [h.rest]
theorem State.Settled.cur : t.cur = s.cur := by rw [h.rest]
theorem State.Settled.clock : t.clock = s.clock := by rw [h.rest]
theorem State.Settled.copies : t.copies = s.copies := by rw [h.rest]

theorem State.Settled.sameBlocks : s.SameBlocks t := .of_gangs h.gangs h.cur h.clock h.size

theorem State.Settled.cg : t.cg = s.cg := by unfold State.cg; rw [h.cur, State.gangAt_congr h.gangs]

theorem State.Settled.cl (k : Nat) : t.cl k = s.cl k := by unfold State.cl; rw [h.cg]

theorem State.Settled.outstanding (part : Nat) : t.outstanding part = s.outstanding part := by
  unfold State.outstanding
  rw [h.copies]

end

end Sys2Proof.Machine
end

section
/-! SUPPORT. The issue of copies (R74, R76, R78, R90 to R95), and O33. -/

namespace Sys2Proof.Machine

/-! ### Pieces (R91, R94) -/

theorem Place.plus_plus (p : Place) (m n : Nat) : (p.plus m).plus n = p.plus (m + n) := by
  cases p <;> simp [Place.plus, word, BitVec.ofNat_add, Nat.add_assoc, BitVec.add_assoc]

/-- The bytes that a piece moves: each with where it goes and where it comes from. -/
def Chunk.moves (x : Chunk) : List (Place × Place) := (List.range x.size).map fun j => (x.dst.plus j, x.src.plus j)

/-- A piece is of some bytes, all in one 128-byte line of the destination (R94). -/
def Chunk.InLine (x : Chunk) : Prop := 0 < x.size ∧ x.dst.index % 128 + x.size ≤ 128

theorem inLine_of_mem_cutRun {fuel n : Nat} {d src : Place} {x : Chunk} (hx : x ∈ cutRun fuel d src n) : x.InLine := by
  induction fuel generalizing d src n with
  | zero => simp [cutRun] at hx
  | succ fuel ih =>
    cases n with
    | zero => simp [cutRun] at hx
    | succ n =>
      simp only [cutRun, List.mem_cons] at hx
      rcases hx with rfl | hx
      · constructor <;> simp only <;> omega
      · exact ih hx

/-- The pieces of a run move its bytes, each once and in order. -/
theorem moves_cutRun {fuel n : Nat} (h : n < fuel) (d src : Place) :
    (cutRun fuel d src n).flatMap Chunk.moves = (List.range n).map fun j => (d.plus j, src.plus j) := by
  induction fuel generalizing d src n with
  | zero => omega
  | succ fuel ih =>
    cases n with
    | zero => rfl
    | succ n =>
      simp only [cutRun, List.flatMap_cons]
      generalize hk : min (128 - d.index % 128) (n + 1) = k
      have some : 0 < k := by omega
      have within : k ≤ n + 1 := by omega
      rw [ih (show n + 1 - k < fuel by omega), show (List.range (n + 1)) = List.range (k + (n + 1 - k)) by congr 1; omega, List.range_add, List.map_append,
        List.map_map]
      congr 1
      refine List.map_congr_left fun j _ => ?_
      simp only [Function.comp, Place.plus_plus]

theorem markOverlap_rest (ranges : List (Place × Nat)) (x : Chunk) : markOverlap ranges x = { x with overlap := (markOverlap ranges x).overlap } := by
  unfold markOverlap
  split <;> rfl

theorem moves_markOverlap (ranges : List (Place × Nat)) (x : Chunk) : (markOverlap ranges x).moves = x.moves := by
  rw [markOverlap_rest]; rfl

theorem inLine_markOverlap {ranges : List (Place × Nat)} {x : Chunk} (h : x.InLine) : (markOverlap ranges x).InLine := by
  rw [markOverlap_rest]; exact h

/-- The pieces of the runs of a copy, the bytes of an overlap not yet marked. -/
def State.runPieces (s : State) (key : Nat) (r : CopyReq) : List Chunk :=
  (r.rows.map fun x => (s.placeOf key r.dst x.dst, s.placeOf key r.src x.src, x.size)).flatMap fun x => cutRun (x.2.2 + 1) x.1 x.2.1 x.2.2

theorem State.chunksOf_eq (s : State) (key : Nat) (r : CopyReq) : ∃ ranges, s.chunksOf key r =
    if r.dst = .scratch ∧ r.src = .scratch then (s.runPieces key r).map (markOverlap ranges) else s.runPieces key r := ⟨_, rfl⟩

theorem State.inLine_of_mem_runPieces {s : State} {key : Nat} {r : CopyReq} {x : Chunk} (hx : x ∈ s.runPieces key r) : x.InLine := by
  obtain ⟨run, _, hx⟩ := List.mem_flatMap.mp hx
  exact inLine_of_mem_cutRun hx

theorem State.inLine_of_mem_chunksOf {s : State} {key : Nat} {r : CopyReq} {x : Chunk} (hx : x ∈ s.chunksOf key r) : x.InLine := by
  obtain ⟨ranges, eq⟩ := s.chunksOf_eq key r
  rw [eq] at hx
  split at hx
  · obtain ⟨y, hy, rfl⟩ := List.mem_map.mp hx
    exact inLine_markOverlap (State.inLine_of_mem_runPieces hy)
  · exact State.inLine_of_mem_runPieces hx

/-- The pieces of a copy move every byte of every run, in order. -/
theorem State.moves_chunksOf (s : State) (key : Nat) (r : CopyReq) : (s.chunksOf key r).flatMap Chunk.moves =
    r.rows.flatMap fun y => (List.range y.size).map fun j => ((s.placeOf key r.dst y.dst).plus j, (s.placeOf key r.src y.src).plus j) := by
  have pieces : (s.runPieces key r).flatMap Chunk.moves =
      r.rows.flatMap fun y => (List.range y.size).map fun j => ((s.placeOf key r.dst y.dst).plus j, (s.placeOf key r.src y.src).plus j) := by
    unfold State.runPieces
    rw [List.flatMap_assoc, List.flatMap_map]
    congr 1
    funext y
    exact moves_cutRun (Nat.lt_succ_self _) _ _
  obtain ⟨ranges, eq⟩ := s.chunksOf_eq key r
  rw [eq, ← pieces]
  split
  · rw [List.flatMap_map]
    congr 1
    funext x
    exact moves_markOverlap ranges x
  · rfl

theorem State.Settled.chunksOf {s t : State} (h : s.Settled t) (key : Nat) (r : CopyReq) : t.chunksOf key r = s.chunksOf key r := by
  unfold State.chunksOf
  simp only [h.sameBlocks.placeOf]

/-! ### The body of an issue -/

/-- The copy that an issue begins (R76, R91). -/
def State.copyBegun (s : State) (o : Ops) (L : Mask) (r : CopyReq) : Copy :=
  { id := s.clock, gang := s.cg.key, launch := s.cg.launch, block := s.cg.block, core := coreOf s.cg.key, world := s.cg.world, xlate := s.cg.xlate,
    lanes := L, token := o.dst.toNat, bar := r.bar, weightWrite := r.weightWrite, chunks := s.chunksOf s.cg.key r, delivered := 0,
    priv := (s.cl (lowest L)).priv, w := 0, pc := s.cur.pc }

/-- A state, but that the copy that an issue begins stands among the outstanding ones. -/
def State.copying (s u : State) (o : Ops) (L : Mask) (r : CopyReq) : State := { u with copies := s.copies ++ [s.copyBegun o L r] }

/-- What the issue of a copy comes to in its guarded lanes, when one request is checked and one is moved, from a state on in which the copy's table
has been read: a trap, a wait, a token at once, or the state with the copy begun (R78, R91). -/
def State.copyBody (s from' : State) (o : Ops) (L : Mask) (checked r : CopyReq) : Except TrapReq (Option State) :=
  match s.copyChecks L checked with
  | some t => .error t
  | none =>
    if r.total = 0 then .ok (some (s.onGang s.cg.key fun g => g.endAtOnce o.dst.toNat 0))
    else if Config.copyLimit ≤ s.outstanding (partOf s.cg.key) then .ok none
    else .ok (some ((s.copying (from'.settleSources L r) o L r).pend s.cg.key 0 (.g o.dst.toNat)))

/-- A change of the issuing gang and its bundle, seen from a state with the same gangs. -/
theorem State.GangGoesOn.of_gangs {s v t : State} {o : Ops} {f : Gang → Gang} {φ : Thread → Thread} (h : v.GangGoesOn t o f φ) (gangs : v.gangs = s.gangs)
    (cur : v.cur = s.cur) (clock : v.clock = s.clock) : s.GangGoesOn t o f φ := by
  have cg : v.cg = s.cg := by unfold State.cg; rw [cur, State.gangAt_congr gangs]
  have cl : ∀ k, v.cl k = s.cl k := fun k => by unfold State.cl; rw [cg]
  refine ⟨fun key hne => ?_, by rw [h.gang, cg], fun k hk => ?_, fun k hk => ?_⟩
  · rw [h.others key (by rw [cur]; exact hne), State.gangAt_congr gangs]
  · rw [h.outside k (by rw [cur]; exact hk), cl]
  · rw [h.bundle k (by rw [cur]; exact hk), cl]
    simp only [State.goesOn, State.goesTo, cur, clock]

/-- A copy that starts after its table was read starts as at its issue. -/
theorem State.startCopy_of_settled {s u : State} (h : s.Settled u) (o : Ops) (L : Mask) {r : CopyReq} (hr : r.total ≠ 0) (hc : u.copyChecks L r = none) :
    u.startCopy o L r = if Config.copyLimit ≤ s.outstanding (partOf s.cg.key) then .ok none
      else .ok (some ((s.copying (u.settleSources L r) o L r).pend s.cg.key 0 (.g o.dst.toNat))) := by
  have sources := State.settled_settleSources u L r
  have all := h.trans sources
  simp only [State.startCopy, hc, hr, if_false, h.outstanding, h.cg, all.copies, all.clock, all.chunksOf, all.cl, all.cur, State.copying, State.copyBegun]

theorem State.startCopy_eq (s : State) (o : Ops) (L : Mask) (r : CopyReq) : s.startCopy o L r = s.copyBody s o L r r := by
  unfold State.copyBody
  cases hc : s.copyChecks L r with
  | some t => simp only [State.startCopy, hc]
  | none =>
    by_cases hr : r.total = 0
    · simp only [State.startCopy, hc, hr, if_true]
    · rw [State.startCopy_of_settled (.refl s) o L hr hc, if_neg hr]

/-- What a copy whose guarded lanes agree comes to (R78, R91). -/
structure State.CopyStarts (s : State) (L : Mask) (o : Ops) (i : Instr) (from' : State) (checked r : CopyReq) : Prop where
  trap : ∀ t, s.copyChecks L checked = some t → exec i s = .next (s.trap t)
  ended : s.copyChecks L checked = none → r.total = 0 →
    ∃ t, exec i s = .next t ∧ t = { s with gangs := t.gangs } ∧
      s.GangGoesOn t o (fun g => g.endAtOnce o.dst.toNat 0) fun u => u.forget (.g o.dst.toNat)
  wait : s.copyChecks L checked = none → r.total ≠ 0 → 16 ≤ s.outstanding (partOf s.cur.gang) → exec i s = .next s
  begun : s.copyChecks L checked = none → r.total ≠ 0 → s.outstanding (partOf s.cur.gang) < 16 →
    ∃ t, exec i s = .next t ∧ t = { from'.settleSources L r with copies := s.copies ++ [s.copyBegun o L r], gangs := t.gangs } ∧
      s.GangGoesOn t o (Gang.expecting true o.dst.toNat) id

section
variable {s from' : State} {L : Mask} {o : Ops} {i : Instr} {code : Nat} {fs : List (Nat → Word)} {checked r : CopyReq}

theorem State.copyStarts {body : Mask → Except TrapReq (Option State)} (hi : s.Issuing) (hs : s.Settled from') (hL : L ≠ 0)
    (hc : s.checks code o = .ok L) (hu : ∀ f ∈ fs, ∀ k, L.getLsbD k = true → f k = f (lowest L))
    (he : exec i s = .next (s.gangOp code o fs body)) (hb : body L = s.copyBody from' o L checked r) : s.CopyStarts L o i from' checked r := by
  have hkey : s.cg.key = s.cur.gang := State.gangAt_key hi.resident
  have limit : Config.copyLimit = 16 := rfl
  refine ⟨fun t trap => ?_, fun pass empty => ?_, fun pass some full => ?_, fun pass some room => ?_⟩ <;> rw [he]
  · rw [State.gangOp_trap hc hL hu (t := t) (by rw [hb, State.copyBody, trap])]
  · rw [State.gangOp_next hc hL hu (t := s.onGang s.cur.gang fun g => g.endAtOnce o.dst.toNat 0) (by
      rw [hb, State.copyBody, pass]; simp only [empty, if_true, hkey])]
    exact ⟨_, rfl, rfl, State.gangGoesOn_onGang_advance hi.toWhole o (fun g => Gang.resultG_key g _ _) (fun g => Gang.resultG_length g _ _)
      fun g k => Gang.lane_resultG g _ _ k⟩
  · rw [State.gangOp_wait hc hL hu (by
      rw [hb, State.copyBody, pass]; simp only [some, if_false]; rw [if_pos (by rw [hkey, limit]; exact full)])]
  · have settled := hs.trans (State.settled_settleSources from' L r)
    rw [State.gangOp_next hc hL hu (t := (s.copying (from'.settleSources L r) o L r).onGang s.cur.gang (Gang.expecting true o.dst.toNat)) (by
      rw [hb, State.copyBody, pass, ← State.pend_token _ _ 0]
      simp only [some, if_false]
      rw [if_neg (by rw [hkey, limit]; omega), hkey]
      rfl)]
    generalize from'.settleSources L r = u at settled ⊢
    have cur : (s.copying u o L r).cur = s.cur := settled.cur
    have whole : (s.copying u o L r).Whole := have w := settled.sameBlocks.whole hi.toWhole; ⟨w.resident, w.length⟩
    have goes := State.gangGoesOn_onGang_advance whole o (f := Gang.expecting true o.dst.toNat) (φ := id) (fun _ => rfl) (fun _ => rfl) fun _ _ => rfl
    rw [cur] at goes
    exact ⟨_, rfl, rfl, goes.of_gangs settled.gangs cur settled.clock⟩

end

/-! ### Shapes and tables (R92) -/

theorem Word.field_eq (v : Word) (hi lo : Nat) : Word.field v hi lo = v.toNat / 2 ^ lo % 2 ^ (hi + 1 - lo) := by
  rw [Word.field, Nat.shiftRight_eq_div_pow]

theorem shapeBad_iff (v : Word) : shapeBad v = true ↔ v.toNat / 2 ^ 24 % 2 ^ 8 ≠ 0 ∨ v.toNat / 2 ^ 48 ≠ 0 := by
  have top : v.toNat / 2 ^ 48 % 2 ^ 16 = v.toNat / 2 ^ 48 := Nat.mod_eq_of_lt (by have := v.isLt; omega)
  unfold shapeBad
  rw [Word.field_eq, Word.field_eq, show 63 + 1 - 48 = 16 from rfl, top]
  simp

theorem CopyReq.total_eq_sum (r : CopyReq) : r.total = (r.rows.map CopyRow.size).sum := by
  have from' : ∀ (rows : List CopyRow) (n : Nat), rows.foldl (fun n x => n + x.size) n = n + (rows.map CopyRow.size).sum := by
    intro rows
    induction rows with
    | nil => simp
    | cons x xs ih => intro n; simp [ih, Nat.add_assoc]
  simp [CopyReq.total, from']

/-- The bytes of a copy of rows of one size. -/
theorem CopyReq.total_of_rows {r : CopyReq} {n size : Nat} {row : Nat → CopyRow} (h : r.rows = (List.range n).map row) (hs : ∀ i, (row i).size = size) :
    r.total = n * size := by
  rw [CopyReq.total_eq_sum, h, List.map_map, show CopyRow.size ∘ row = fun _ => size from funext hs]
  simp

/-- Ranges that lie inside the allocations do so whichever operand they stand in. -/
theorem State.endTrap_eq_none {s : State} {L : Mask} {core operand : Nat} {ranges : List (Word × Nat)} :
    s.endTrap L core operand ranges = none ↔ ∀ r ∈ ranges, s.beyond s.cur.gang core r.1 r.2 = none := by
  unfold State.endTrap
  rw [← List.filterMap_eq_nil_iff]
  split
  · next h => simp [h]
  · next h => simp [h]

/-- The request that CPYX checks: its table, and its packed rows (R92). -/
def State.tableReq (s : State) (o : Ops) (L : Mask) (size count : Nat) : CopyReq :=
  { dst := .scratch, src := .scratch, base := s.copyDst o L, srcBase := s.opBReg o (lowest L), table := some (s.opBReg o (lowest L), count), bar := none
    weightWrite := false, rows := (List.range count).map fun i => { dst := s.copyDst o L + word (i * size), src := 0, size := size } }

/-- The request that CPYX moves, its table as it stands in a state (R92). -/
def State.tabledReq (s u : State) (o : Ops) (L : Mask) (gather : Bool) (size count : Nat) : CopyReq :=
  let packed := fun i => s.copyDst o L + word (i * size)
  let listed := fun i => u.scratchLoad s.cur.gang (lowest L) (s.opBReg o (lowest L) + word (8 * i)) 8
  { dst := if gather then .scratch else .global, src := if gather then .global else .scratch, base := s.copyDst o L, srcBase := s.opBReg o (lowest L)
    rows := (List.range count).map fun i =>
      { dst := if gather then packed i else listed i, src := if gather then listed i else packed i, size := size }
    table := none, bar := none, weightWrite := false }

theorem State.total_tabledReq (s u : State) (o : Ops) (L : Mask) (gather : Bool) (size count : Nat) :
    (s.tabledReq u o L gather size count).total = count * size := CopyReq.total_of_rows rfl fun _ => rfl

/-- A copy that has passed its checks has its destinations in scratch in bounds. -/
theorem State.endTrap_of_copyChecks {s : State} {L : Mask} {r : CopyReq} (hn : r.total ≠ 0) (hd : r.dst = .scratch) (hc : s.copyChecks L r = none) :
    s.endTrap L (coreOf s.cur.gang) 0 (r.rows.map fun x => (x.dst, x.size)) = none := by
  unfold State.copyChecks at hc
  rw [List.findSome?_eq_none_iff] at hc
  have second := hc _ (List.mem_cons_of_mem _ List.mem_cons_self)
  simpa only [hn, hd, ne_eq, not_false_eq_true, if_true, id] using second

/-- Of a copy between scratch and memory, of no table, the bounds of its scratch ranges are all there is to check. -/
theorem State.copyChecks_eq_none {s : State} {L : Mask} {r : CopyReq} (hn : r.total ≠ 0) (ht : r.table = none) (hw : r.weightWrite = false)
    (hd : r.dst ≠ .weight) (hs : r.src ≠ .weight)
    (dsts : r.dst = .scratch → s.endTrap L (coreOf s.cur.gang) 0 (r.rows.map fun x => (x.dst, x.size)) = none)
    (srcs : r.src = .scratch → s.endTrap L (coreOf s.cur.gang) 1 (r.rows.map fun x => (x.src, x.size)) = none) : s.copyChecks L r = none := by
  unfold State.copyChecks
  simp only [hn, ht, hw, hd, hs, ne_eq, not_false_eq_true, if_true, if_false, and_false, Bool.false_eq_true, false_and,
    List.findSome?_cons, List.findSome?_nil, id]
  have dst : (if r.dst = .scratch then s.endTrap L (coreOf s.cur.gang) 0 (r.rows.map fun x => (x.dst, x.size)) else none) = none := by
    split
    · next h => exact dsts h
    · rfl
  have src : (if r.src = .scratch then s.endTrap L (coreOf s.cur.gang) 1 (r.rows.map fun x => (x.src, x.size)) else none) = none := by
    split
    · next h => exact srcs h
    · rfl
  rw [dst, src]

/-- Once the table and the packed rows have passed their checks, nothing is left to check of what CPYX moves. -/
theorem State.copyChecks_tabledReq {s u v : State} (h : s.Settled v) {o : Ops} {L : Mask} (gather : Bool) {size count : Nat} (hn : count * size ≠ 0)
    (hc : s.copyChecks L (s.tableReq o L size count) = none) : v.copyChecks L (s.tabledReq u o L gather size count) = none := by
  have total : (s.tableReq o L size count).total = count * size := CopyReq.total_of_rows rfl fun _ => rfl
  have packed := State.endTrap_eq_none.mp (State.endTrap_of_copyChecks (by rw [total]; exact hn) rfl hc)
  have inside : ∀ operand, v.endTrap L (coreOf v.cur.gang) operand
      ((List.range count).map fun i => (s.copyDst o L + word (i * size), size)) = none := fun operand => by
    rw [h.sameBlocks.endTrap, h.cur, State.endTrap_eq_none]
    simpa [State.tableReq] using packed
  have rows : (s.tabledReq u o L gather size count).total ≠ 0 := by rw [State.total_tabledReq]; exact hn
  cases gather with
  | true =>
    refine State.copyChecks_eq_none rows rfl rfl (by simp [State.tabledReq]) (by simp [State.tabledReq]) (fun _ => ?_) fun scratch => ?_
    · simpa [State.tabledReq, Function.comp_def] using inside 0
    · simp [State.tabledReq] at scratch
  | false =>
    refine State.copyChecks_eq_none rows rfl rfl (by simp [State.tabledReq]) (by simp [State.tabledReq]) (fun scratch => ?_) fun _ => ?_
    · simp [State.tabledReq] at scratch
    · simpa [State.tabledReq, Function.comp_def] using inside 1

/-- The body of CPYX: a shape that is illegal, or a copy whose table is read once the lanes' earlier stores to it are performed (R92, R93). -/
theorem State.exec_cpyx {s : State} (hi : s.Issuing) (o : Ops) (L : Mask) : ∃ body,
    exec (.cpyx o) s = .next (s.gangOp 0x163 o [s.opA o, s.opBReg o] body) ∧
      let shape := (s.regG o.c.toNat).toNat
      let size := shape % 2 ^ 24
      let count := if size = 0 then 0 else shape / 2 ^ 32 % 2 ^ 16
      let tabled := s.settleRanges L [(s.opBReg o (lowest L), 8 * count)]
      body L = if shapeBad (s.regG o.c.toNat) then .error (s.illegal L 0)
        else s.copyBody tabled o L (s.tableReq o L size count) (s.tabledReq tabled o L (o.opmod.toNat % 4 == 0) size count) := by
  refine ⟨_, rfl, ?_⟩
  have hkey : s.cg.key = s.cur.gang := State.gangAt_key hi.resident
  have size : Word.field (s.regG o.c.toNat) 23 0 = (s.regG o.c.toNat).toNat % 2 ^ 24 := by rw [Word.field_eq]; simp
  have count : Word.field (s.regG o.c.toNat) 47 32 = (s.regG o.c.toNat).toNat / 2 ^ 32 % 2 ^ 16 := Word.field_eq _ _ _
  dsimp only
  rw [size, count]
  split
  · rfl
  · generalize hn : (if (s.regG o.c.toNat).toNat % 2 ^ 24 = 0 then 0 else (s.regG o.c.toNat).toNat / 2 ^ 32 % 2 ^ 16) = n
    generalize (s.regG o.c.toNat).toNat % 2 ^ 24 = m at *
    have settled := State.settled_settleRanges s L [(s.opBReg o (lowest L), 8 * n)]
    generalize s.settleRanges L [(s.opBReg o (lowest L), 8 * n)] = u at *
    have bytes : (s.tabledReq u o L (o.opmod.toNat % 4 == 0) m n).total = 0 ↔ n = 0 := by
      rw [State.total_tabledReq, Nat.mul_eq_zero]
      exact ⟨fun h => h.elim id fun zero => by rw [← hn, if_pos zero], .inl⟩
    unfold State.copyBody
    split
    · next t trap =>
      rw [show s.copyChecks L (s.tableReq o L m n) = some t from trap]
    · next pass =>
      rw [show s.copyChecks L (s.tableReq o L m n) = none from pass]
      by_cases zero : n = 0
      · rw [if_pos zero]
        simp only [bytes.mpr zero, if_true, hkey]
      · have total : (s.tabledReq u o L (o.opmod.toNat % 4 == 0) m n).total ≠ 0 := mt bytes.mp zero
        have mn : n * m ≠ 0 := by rw [State.total_tabledReq] at total; exact total
        simp only [zero, total, if_false]
        exact State.startCopy_of_settled settled o L total (State.copyChecks_tabledReq settled _ mn pass)

/-- The request of a copy of one run (R92, R94, R95). -/
def State.runReq (s : State) (o : Ops) (L : Mask) (bar : Option Nat) (weightWrite : Bool) : CopyReq :=
  let sides := copySides weightWrite (o.opmod.toNat % 4)
  { dst := sides.1, src := sides.2, base := s.copyDst o L, srcBase := s.opBReg o (lowest L)
    rows := [{ dst := s.copyDst o L, src := s.opBReg o (lowest L), size := (s.opC o (lowest L)).toNat }], table := none, bar := bar
    weightWrite := weightWrite }

theorem State.plainCopy_eq (s : State) (op : Nat) (o : Ops) (L : Mask) (bar : Option Nat) (weightWrite : Bool) : ∃ body,
    s.plainCopy op o bar weightWrite = s.gangOp op o [s.opA o, s.opBReg o, s.opC o] body ∧
      body L = if bar.isSome ∧ (s.cg.byCrossing ∨ s.ownAlloc = none) then .error (s.illegal L 0)
        else s.copyBody s o L (s.runReq o L bar weightWrite) (s.runReq o L bar weightWrite) :=
  ⟨_, rfl, by rw [← State.startCopy_eq]; rfl⟩

/-- The request of a copy of rows at strides (R92). -/
def State.rowsReq (s : State) (o : Ops) (L : Mask) : CopyReq :=
  let shape := (s.regG o.c.toNat).toNat
  let strides := (s.regG (o.c.toNat + 1)).toNat
  let size := shape % 2 ^ 24
  let sides := copySides false (o.opmod.toNat % 4)
  { dst := sides.1, src := sides.2, base := s.copyDst o L, srcBase := s.opBReg o (lowest L)
    rows := (List.range (if size = 0 then 0 else shape / 2 ^ 32 % 2 ^ 16)).map fun i =>
      { dst := s.copyDst o L + word (i * (strides % 2 ^ 32)), src := s.opBReg o (lowest L) + word (i * (strides / 2 ^ 32)), size := size }
    table := none, bar := none, weightWrite := false }

theorem State.exec_cpy2d (s : State) (o : Ops) (L : Mask) : ∃ body,
    exec (.cpy2d o) s = .next (s.gangOp 0x161 o [s.opA o, s.opBReg o] body) ∧
      body L = if o.c.toNat % 2 = 1 ∨ shapeBad (s.regG o.c.toNat) then .error (s.illegal L 0)
        else s.copyBody s o L (s.rowsReq o L) (s.rowsReq o L) := by
  refine ⟨_, rfl, ?_⟩
  have high : ∀ v : Word, v.toNat / 2 ^ 32 % 2 ^ 32 = v.toNat / 2 ^ 32 := fun v => Nat.mod_eq_of_lt (by have := v.isLt; omega)
  rw [← State.startCopy_eq]
  simp only [Word.field_eq, high, State.rowsReq, Nat.reduceAdd, Nat.reduceSub, pow_zero, Nat.div_one]
  congr 3
  split
  · rfl
  · rfl

/-- The copies, with the operands that must be uniform (R92, R94, R95). -/
def State.copyTable (s : State) (o : Ops) : List (Instr × Nat × List (Nat → Word)) :=
  let plain := [s.opA o, s.opBReg o, s.opC o]
  [(Instr.cpy o, 0x160, plain), (Instr.cpy2d o, 0x161, [s.opA o, s.opBReg o]), (Instr.cpym o, 0x162, plain),
    (Instr.cpyx o, 0x163, [s.opA o, s.opBReg o]), (Instr.cpyw o, 0x164, plain)]

theorem exec_of_mem_copyTable {s : State} {o : Ops} {i : Instr} {code : Nat} {fs : List (Nat → Word)} (h : (i, code, fs) ∈ s.copyTable o) :
    ∃ body, exec i s = .next (s.gangOp code o fs body) := by
  simp only [State.copyTable, List.mem_cons, List.not_mem_nil, or_false, Prod.mk.injEq] at h
  rcases h with ⟨rfl, rfl, rfl⟩ | ⟨rfl, rfl, rfl⟩ | ⟨rfl, rfl, rfl⟩ | ⟨rfl, rfl, rfl⟩ | ⟨rfl, rfl, rfl⟩ <;> exact ⟨_, rfl⟩

/-- A token that its issue has written: what the gang holds once the bundle goes on (R77, R91). -/
theorem State.GangGoesOn.ended {s t : State} {o : Ops} {n : Nat} {φ : Thread → Thread} (h : s.GangGoesOn t o (fun g => g.endAtOnce n 0) φ)
    (hwf : SMap.wf 0 s.cg.g = true) :
    t.cg = { s.cg with threads := t.cg.threads, g := t.cg.g, gValid := t.cg.gValid, gFailed := t.cg.gFailed, tokenEnd := t.cg.tokenEnd } ∧
      ∀ m, t.cg.getG m = if m = n then 0 else s.cg.getG m := by
  have held : t.cg.g = (s.cg.endAtOnce n 0).g := by rw [h.gang]
  refine ⟨?_, fun m => ?_⟩
  · rw [h.gang]
    simp only [Gang.endAtOnce, Gang.resultG_eq]
    rw [Gang.setG_eq]
  · have wrote : t.cg.getG m = if m = n ∧ n ≠ 0 then 0 else s.cg.getG m := by
      rw [← Gang.getG_resultG hwf]
      unfold Gang.getG
      rw [held]
      rfl
    rw [wrote]
    by_cases hm : m = n
    · subst hm
      by_cases zero : m = 0
      · subst zero; rfl
      · simp [zero]
    · simp [hm]

/-- Settles O33: each copy is a gang operation whose body checks one request and begins another. -/
theorem copiesBegin : Obligations.CopiesBegin := by
  intro s L o hi _ hL low key base src shape strides size count illShaped dir ends one row packed tabled listed table goes illegal starts uniform plain all
  have hkey : s.cg.key = s.cur.gang := State.gangAt_key hi.resident
  have assemble : ∀ {i from' checked r}, s.CopyStarts L o i from' checked r → starts i from' checked r := by
    intro i from' checked r h
    refine ⟨h.trap, fun pass empty => ?_, h.wait, fun pass some room => ?_⟩
    · obtain ⟨t, out, rest, gone⟩ := h.ended pass empty
      exact ⟨t, out, rest, ⟨gone.others, fun k _ hk => gone.outside k hk, gone.bundle⟩, gone.ended hi.canonical.regs⟩
    · obtain ⟨t, out, rest, gone⟩ := h.begun pass some room
      refine ⟨t, s.copyBegun o L r, out, rest, ⟨gone.others, fun k _ hk => gone.outside k hk, gone.bundle⟩, ?_, ?_,
        fun x hx => State.inLine_of_mem_chunksOf hx, ?_⟩
      · rw [gone.gang]
        by_cases zero : o.dst = 0 <;> simp [Gang.expecting, zero, BitVec.toNat_eq]
      · simp only [State.copyBegun, hkey]; rfl
      · rw [show key = s.cg.key from hkey.symm]; exact State.moves_chunksOf s s.cg.key r
  refine ⟨fun i op fs mem hc => ?_, fun i op fs mem hc hu => ?_, fun hc hu => ?_, fun hc hu => ⟨fun refused => ?_, fun own alloc => ?_⟩, fun hc hu => ?_,
    fun hc hu => ⟨fun bad => ?_, fun even good => ?_⟩, fun hc hu => ⟨fun bad => ?_, fun good => ?_⟩⟩
  · obtain ⟨body, issue⟩ := exec_of_mem_copyTable (s := s) mem
    exact State.threadResult_of_advance hi.toWhole (issue.trans (congrArg _ (State.gangOp_no_lane hc)))
  · obtain ⟨body, issue⟩ := exec_of_mem_copyTable (s := s) mem
    rw [issue, State.gangOp_differ hc hL hu]; rfl
  · obtain ⟨body, issue, hb⟩ := s.plainCopy_eq 0x160 o L none false
    exact assemble (State.copyStarts hi (.refl s) hL hc hu (congrArg Host.Outcome.next issue) (hb.trans (if_neg (by simp))))
  · obtain ⟨body, issue, hb⟩ := s.plainCopy_eq 0x162 o L (some (o.ty.code + o.opmod.toNat / 4 * 16)) false
    exact (congrArg Host.Outcome.next issue).trans (congrArg _ (State.gangOp_trap hc hL hu (hb.trans (if_pos ⟨rfl, refused⟩))))
  · obtain ⟨body, issue, hb⟩ := s.plainCopy_eq 0x162 o L (some (o.ty.code + o.opmod.toNat / 4 * 16)) false
    exact assemble (State.copyStarts hi (.refl s) hL hc hu (congrArg Host.Outcome.next issue) (hb.trans (if_neg (by simp [own, alloc]))))
  · obtain ⟨body, issue, hb⟩ := s.plainCopy_eq 0x164 o L none true
    exact assemble (State.copyStarts hi (.refl s) hL hc hu (congrArg Host.Outcome.next issue) (hb.trans (if_neg (by simp))))
  · obtain ⟨body, issue, hb⟩ := s.exec_cpy2d o L
    exact issue.trans (congrArg _ (State.gangOp_trap hc hL hu (hb.trans (if_pos (bad.imp id (shapeBad_iff _).mpr)))))
  · obtain ⟨body, issue, hb⟩ := s.exec_cpy2d o L
    refine assemble (State.copyStarts hi (.refl s) hL hc hu issue (hb.trans (if_neg ?_)))
    rintro (odd | bad)
    · omega
    · exact good ((shapeBad_iff _).mp bad)
  · obtain ⟨body, issue, hb⟩ := State.exec_cpyx hi o L
    exact issue.trans (congrArg _ (State.gangOp_trap hc hL hu (hb.trans (if_pos ((shapeBad_iff _).mpr bad)))))
  · obtain ⟨body, issue, hb⟩ := State.exec_cpyx hi o L
    have settled := State.settled_settleRanges s L [(src, 8 * count)]
    have begins := State.copyStarts hi settled hL hc hu issue (hb.trans (if_neg fun bad => good ((shapeBad_iff _).mp bad)))
    by_cases gather : dir = 0
    · rw [if_pos gather]
      rw [show (o.opmod.toNat % 4 == 0) = true from beq_iff_eq.mpr gather] at begins
      exact assemble begins
    · rw [if_neg gather]
      rw [show (o.opmod.toNat % 4 == 0) = false from beq_eq_false_iff_ne.mpr gather] at begins
      exact assemble begins

end Sys2Proof.Machine
end

section
/-! SUPPORT. Translations (R265, R266): what a walk writes, and what it leaves. -/

namespace Sys2Proof.Machine

/-! ### What a walker changes -/

/-- What translations leave as it was: all but the bytes of entries that they mark, with who holds them, and what the cores keep of translations. -/
structure State.Walked (s t : State) : Prop where
  rest : t = { s with mem := t.mem, dirty := t.dirty, owned := t.owned, hostLines := t.hostLines, hostCores := t.hostCores, tlb := t.tlb }

theorem State.Walked.refl (s : State) : s.Walked s := ⟨rfl⟩

theorem State.Walked.trans {s t u : State} (h : s.Walked t) (h' : t.Walked u) : s.Walked u :=
  ⟨by rw [h'.rest, h.rest]⟩

theorem State.walked_walkerStore (s : State) (pa : Nat) (bs : List Byte) : s.Walked (s.walkerStore pa bs) := ⟨rfl⟩

theorem State.walked_markUsed (s : State) (a : Nat) (e : Word) (writes : Bool) : s.Walked (s.markUsed a e writes) := by
  unfold State.markUsed
  split
  · exact .refl s
  · exact State.walked_walkerStore s a _

theorem State.walked_markLeaf (s : State) (l : Leaf) (writes : Bool) : s.Walked (s.markLeaf l writes) := by
  unfold State.markLeaf
  dsimp only
  split
  · exact (State.walked_markUsed s _ _ _).trans (State.walked_markUsed _ _ _ _)
  · exact State.walked_markUsed s _ _ _

theorem State.walked_fill (s : State) (core : Nat) (xlate va : Word) (acc : Access) (l : Leaf) : s.Walked (s.fill core xlate va acc l) :=
  (State.walked_markLeaf s l acc.writes).trans ⟨rfl⟩

theorem State.walked_translate {s t : State} {core pa : Nat} {xlate va pte : Word} {acc : Access} {priv : Bool}
    (h : s.translate core xlate va acc priv = .ok (t, pa, pte)) : s.Walked t := by
  unfold State.translate at h
  split at h
  · cases h
  · split at h
    · cases h
    · split at h
      · cases h
      · cases h
        split
        · exact .refl s
        · exact State.walked_fill s _ _ _ _ _

theorem State.walked_translateRange {s t : State} {core n : Nat} {xlate va : Word} {acc : Access} {priv : Bool} {pas : List Nat}
    (h : s.translateRange core xlate va acc priv n = .ok (t, pas)) : s.Walked t := by
  induction n generalizing t pas with
  | zero => cases h; exact .refl s
  | succ n ih =>
    unfold State.translateRange at h
    split at h
    · cases h
    · next u us before =>
      dsimp only at h
      split at h
      · cases h; exact ih before
      · split at h
        · cases h
        · next v pa pte last => cases h; exact (ih before).trans (State.walked_translate last)

theorem State.Walked.gangs {s t : State} (h : s.Walked t) : t.gangs = s.gangs := by rw [h.rest]

theorem State.Walked.sameBlocks {s t : State} (h : s.Walked t) : s.SameBlocks t :=
  .of_gangs h.gangs (by rw [h.rest]) (by rw [h.rest]) fun launch block core => by
    rw [show t.allocAt launch block core = s.allocAt launch block core by unfold State.allocAt; rw [h.rest]]

end Sys2Proof.Machine
end

section
/-! SUPPORT. Accesses of scratch (R69 to R71, R198, R200): issues over a state whose earlier accesses are done, and O25. -/

namespace Sys2Proof.Machine

/-! ### The earlier accesses of a thread, done -/

/-- A change of the gang of a slot that holds none changes nothing. -/
theorem State.onGang_of_not_resident {s : State} {key : Nat} (h : s.resident key = false) (f : Gang → Gang) : s.onGang key f = s := by
  have none : ∀ g ∈ s.gangs, ¬g.key = key := by simpa [State.resident] using h
  have same : (s.gangs.map fun g => if g.key = key then f g else g) = s.gangs :=
    (List.map_congr_left fun g hg => if_neg (none g hg)).trans (List.map_id _)
  unfold State.onGang
  rw [same]

theorem map_mapLanes {α : Type} (m : Mask) (f : Nat → Thread → Thread) (j : Nat) (ts : List Thread) (p : Thread → α) (hp : ∀ k t, p (f k t) = p t) :
    (mapLanes m f j ts).map p = ts.map p := by
  induction ts generalizing j with
  | nil => rfl
  | cons t ts ih =>
    rw [mapLanes, List.map_cons, List.map_cons, ih]
    congr 1
    split
    · exact hp j t
    · rfl

/-- What a change of some lanes does not touch, it leaves in all. -/
theorem Gang.onLanes_keeps {α : Type} (g : Gang) (m : Mask) (f : Nat → Thread → Thread) (p : Thread → α) (hp : ∀ k t, p (f k t) = p t) (k : Nat) :
    p ((g.onLanes m f).lane k) = p (g.lane k) := by
  have same : ((mapLanes m f 0 g.threads)[k]?).map p = (g.threads[k]?).map p := by
    rw [← List.getElem?_map, ← List.getElem?_map, map_mapLanes m f 0 g.threads p hp]
  unfold Gang.lane Gang.onLanes
  rw [List.getD_eq_getElem?_getD, List.getD_eq_getElem?_getD]
  dsimp only
  cases hm : (mapLanes m f 0 g.threads)[k]? <;> cases hg : g.threads[k]? <;> rw [hm, hg] at same <;> simp_all

theorem State.sameBlocks_onThread (s : State) (key k : Nat) {f : Thread → Thread} (hf : ∀ t, (f t).priv = t.priv) : s.SameBlocks (s.onThread key k f) := by
  cases resident : s.resident key with
  | false =>
    rw [show s.onThread key k f = s from State.onGang_of_not_resident resident _]
    exact .refl s
  | true =>
    have own : (s.onThread key k f).gangAt key = (s.gangAt key).onLanes (laneMask k) fun _ t => f t := State.gangAt_onGang resident _ fun _ _ => rfl
    have other : ∀ key', key' ≠ key → (s.onThread key k f).gangAt key' = s.gangAt key' := fun key' h =>
      State.gangAt_onGang_other s _ (fun _ _ => rfl) h
    refine ⟨rfl, rfl, State.resident_onGang s _ fun _ _ => rfl, fun key' => ?_, fun key' => ?_, fun key' j => ?_, fun _ _ _ => rfl⟩ <;>
      by_cases h : key' = key
    · subst h; rw [own]; rfl
    · rw [other key' h]
    · subst h; rw [own]; exact Gang.onLanes_length _ _ _
    · rw [other key' h]
    · subst h; rw [own]; exact Gang.onLanes_keeps _ _ _ Thread.priv (fun _ t => hf t) j
    · rw [other key' h]

theorem State.sameBlocks_pushStore (s : State) (key lane world pa : Nat) (bs : List Byte) (piece : Bool) :
    s.SameBlocks (s.pushStore key lane world pa bs piece) :=
  .of_gangs rfl rfl rfl fun _ _ _ => rfl

theorem State.sameBlocks_pushCells (s : State) (key lane world : Nat) (pas : List Nat) (bs : List Byte) :
    s.SameBlocks (s.pushCells key lane world pas bs) := by
  unfold State.pushCells
  split
  · exact State.sameBlocks_pushStore s ..
  · exact State.foldl_of_trans (R := State.SameBlocks) State.SameBlocks.refl State.SameBlocks.trans (fun s _ => State.sameBlocks_pushStore s ..) _ s

theorem State.sameBlocks_frameResult (s : State) (key k n : Nat) (f : Word → Word) : s.SameBlocks (s.frameResult key k n f) := by
  unfold State.frameResult
  dsimp only
  split
  · exact .refl s
  · next walked => exact (State.walked_translateRange walked).sameBlocks.trans (State.sameBlocks_pushCells ..)

theorem Thread.priv_setD (t : Thread) (n : Nat) (v : Word) : (t.setD n v).priv = t.priv := by
  unfold Thread.setD
  split <;> rfl

theorem State.sameBlocks_deliver (s : State) (l : PLoad) (v : Word) : s.SameBlocks (s.deliver l v) := by
  unfold State.deliver
  split
  · exact State.sameBlocks_frameResult s _ _ _ _
  · exact State.sameBlocks_onThread s _ _ fun t => Thread.priv_setD t _ _
  · exact State.sameBlocks_onThread s _ _ fun t => rfl

theorem State.sameBlocks_settleLoads (s : State) (key k : Nat) (within : Nat → Nat → Bool) : s.SameBlocks (s.settleLoads key k within) := by
  unfold State.settleLoads
  exact (State.settled_onTheWay s _ s.stores).sameBlocks.trans (State.foldl_of_trans (R := State.SameBlocks) State.SameBlocks.refl State.SameBlocks.trans
    (fun s l => State.sameBlocks_deliver s l (s.bankValue l)) _ _)

/-- Before lanes read scratch only stores to it are performed, and loads of it have read. -/
theorem State.settled_settle (s : State) (key n : Nat) (atOnce : Bool) (ls : List (Nat × Word)) : s.Settled (s.settle key n false atOnce ls) := by
  refine State.foldl_of_trans (R := State.Settled) State.Settled.refl State.Settled.trans (fun s e => ?_) ls s
  have stores := State.settled_settleStores s key e.1 (atSpots (s.spots key e.2 n))
  dsimp only
  rw [if_neg (by decide)]
  split
  · exact stores.trans (State.settled_onTheWay _ _ _)
  · exact stores

theorem State.sameBlocks_settle (s : State) (key n : Nat) (write atOnce : Bool) (ls : List (Nat × Word)) :
    s.SameBlocks (s.settle key n write atOnce ls) := by
  cases write with
  | false => exact (State.settled_settle s key n atOnce ls).sameBlocks
  | true =>
    refine State.foldl_of_trans (R := State.SameBlocks) State.SameBlocks.refl State.SameBlocks.trans (fun s e => ?_) ls s
    have stores := State.settled_settleStores s key e.1 (atSpots (s.spots key e.2 n))
    dsimp only
    rw [if_pos rfl]
    exact stores.sameBlocks.trans (State.sameBlocks_settleLoads _ key e.1 _)

/-! ### Issues over a state with the same gangs -/

/-- A state in which an issue finds what it found in another: the gangs, the issue, the clock and the free values. -/
structure State.SameIssue (s u : State) : Prop where
  gangs : u.gangs = s.gangs
  cur : u.cur = s.cur
  clock : u.clock = s.clock
  freeCtr : u.freeCtr = s.freeCtr

theorem State.Settled.sameIssue {s u : State} (h : s.Settled u) : s.SameIssue u := ⟨h.gangs, h.cur, h.clock, by rw [h.rest]⟩

section
variable {s u : State} (h : s.SameIssue u)
include h

theorem State.SameIssue.cg : u.cg = s.cg := by unfold State.cg; rw [h.cur, State.gangAt_congr h.gangs]
theorem State.SameIssue.cl : u.cl = s.cl := by unfold State.cl; rw [h.cg]
theorem State.SameIssue.freeAddr : u.freeAddr = s.freeAddr := by unfold State.freeAddr State.free; rw [h.freeCtr]
theorem State.SameIssue.freeInfo : u.freeInfo = s.freeInfo := by unfold State.freeInfo State.free; rw [h.freeCtr]
theorem State.SameIssue.invalid : u.invalid = s.invalid := by unfold State.invalid; rw [h.cl, h.cg]
theorem State.SameIssue.dstBefore : u.dstBefore = s.dstBefore := by unfold State.dstBefore; rw [h.cl, h.cg]

theorem State.SameIssue.issuing (hi : s.Issuing) : u.Issuing :=
  ⟨by unfold State.resident; rw [h.gangs, h.cur]; exact hi.resident, by rw [h.cg]; exact hi.canonical⟩

theorem State.SameIssue.uninit (L : Mask) (rs : List Dest) : u.uninit L rs = s.uninit L rs := by
  induction rs with
  | nil => rfl
  | cons r rs ih => unfold State.uninit; rw [ih, h.invalid, h.freeAddr]

theorem State.SameIssue.failedToken (L : Mask) (rs : List Dest) : u.failedToken L rs = s.failedToken L rs := by
  induction rs with
  | nil => rfl
  | cons r rs ih =>
    cases r with
    | g n => unfold State.failedToken; simp only [ih, h.cg]
    | _ => unfold State.failedToken; rw [ih]

theorem State.SameIssue.freeBool : u.freeBool = s.freeBool := by unfold State.freeBool; rw [h.freeCtr]

theorem State.SameIssue.pick : u.pick = s.pick := by unfold State.pick; rw [h.clock, h.freeBool]

theorem State.SameIssue.operand : u.operand = s.operand := by
  unfold State.operand State.regG State.earlyG State.regD
  rw [h.cg, h.freeBool, h.cl, h.clock, h.pick]

theorem State.SameIssue.memAddr : u.memAddr = s.memAddr := by
  unfold State.memAddr State.opA State.opBSigned
  rw [h.operand, h.cl]

theorem State.SameIssue.checks (op : Nat) (o : Ops) : u.checks op o = s.checks op o := by
  have regP : u.regP = s.regP := by unfold State.regP; rw [h.pick]
  have opB : u.opB = s.opB := by unfold State.opB; rw [h.operand, h.cl]
  have stall : u.stallCheck = s.stallCheck := by
    unfold State.stallCheck State.indirectReads State.movgNum
    rw [h.cg, h.cl, h.clock, h.freeInfo, h.cur, opB]
  have shared : u.sharedChecks = s.sharedChecks := by
    unfold State.sharedChecks
    simp only [h.cg, h.cl, h.freeAddr, h.invalid, h.uninit, h.failedToken, State.illegal, h.cur]
  unfold State.checks State.directBounds State.guarded State.indirectBounds
  rw [stall, shared, h.cg, h.cl, h.freeAddr, h.freeInfo, h.cur, regP]

end

/-! ### Results over another state -/

/-- A result is written in gangs alone. -/
theorem State.writeBack_gangs {u t : State} {o : Ops} {lat : Nat} {L : Mask} {f : Nat → LaneOut} (h : u.writeBack o lat L f = .ok t) :
    t = { u with gangs := t.gangs } := by
  unfold State.writeBack at h
  split at h
  · cases h; rfl
  · split at h
    · cases h; rfl
    · dsimp only at h
      split at h
      · cases h
      · cases h; rfl

/-- Writing a result does not look at the leases. -/
theorem State.writeBack_leases (u : State) (o : Ops) (lat : Nat) (L : Mask) (f : Nat → LaneOut) (leases : List Lease) :
    State.writeBack { u with leases := leases } o lat L f = (u.writeBack o lat L f).map fun t => { t with leases := leases } := by
  unfold State.writeBack
  split
  · rfl
  · split
    · rfl
    · by_cases h : differing L (fun k => mergeLo o (u.cg.getG o.dst.toNat) (f k).val) ≠ 0
      · refine (if_pos h).trans ?_; dsimp only; rw [if_pos h]; rfl
      · refine (if_neg h).trans ?_; dsimp only; rw [if_neg h]; rfl

/-- Of a g register that is to be written once, lanes that differ trap (R23). -/
theorem State.writeBack_differ {u : State} {o : Ops} {lat : Nat} {L : Mask} {f : Nat → LaneOut} (hd : o.clsD = true)
    (h : ∃ k, L.getLsbD k = true ∧ mergeLo o (u.cg.getG o.dst.toNat) (f k).val ≠ mergeLo o (u.cg.getG o.dst.toNat) (f (lowest L)).val) :
    u.writeBack o lat L f = .error (u.nonuniform (those L fun k =>
      mergeLo o (u.cg.getG o.dst.toNat) (f k).val != mergeLo o (u.cg.getG o.dst.toNat) (f (lowest L)).val)) := by
  obtain ⟨k, hk, hv⟩ := h
  have hL : L ≠ 0 := fun zero => by rw [zero] at hk; simp at hk
  have differ : differing L (fun k => mergeLo o (u.cg.getG o.dst.toNat) (f k).val) ≠ 0 := those_ne_zero.mpr ⟨k, hk, bne_iff_ne.mpr hv⟩
  simp only [State.writeBack, hd, hL, Bool.not_true, Bool.false_eq_true, if_false, if_pos differ]
  rfl

/-- In lanes that agree a g register is written. -/
theorem State.writeBack_agree {u : State} {o : Ops} {lat : Nat} {L : Mask} {f : Nat → LaneOut}
    (h : o.clsD = true → ∀ k, L.getLsbD k = true → mergeLo o (u.cg.getG o.dst.toNat) (f k).val = mergeLo o (u.cg.getG o.dst.toNat) (f (lowest L)).val) :
    ∃ t, u.writeBack o lat L f = .ok t := by
  cases hd : o.clsD with
  | false => exact ⟨_, by simp only [State.writeBack, hd, Bool.not_false, if_true]; rfl⟩
  | true =>
    by_cases hL : L = 0
    · exact ⟨u, by simp [State.writeBack, hd, hL]⟩
    · have agree : differing L (fun k => mergeLo o (u.cg.getG o.dst.toNat) (f k).val) = 0 :=
        those_eq_zero.mpr fun k hk => by simp [h hd k hk]
      exact ⟨_, by
        simp only [State.writeBack, hd, hL, Bool.not_true, Bool.false_eq_true, if_false, agree, ne_eq, not_true_eq_false]
        rfl⟩

/-- What an issue comes to that writes a result over a state of its own making; a trap leaves it as it began. -/
def State.wroteOver (s u : State) (o : Ops) (L : Mask) (f : Nat → LaneOut) : State :=
  match u.writeBack o 0 L f with
  | .error t => s.trap t
  | .ok t => t.advance o.stall.toNat o.yld

theorem State.wroteOver_ok {s u t : State} {o : Ops} {L : Mask} {f : Nat → LaneOut} (h : u.writeBack o 0 L f = .ok t) :
    s.wroteOver u o L f = t.advance o.stall.toNat o.yld := by rw [State.wroteOver, h]

theorem State.SameIssue.deliversOver {s u : State} (h : s.SameIssue u) (hi : s.Issuing) {op : Nat} {o : Ops} {L : Mask} (hc : s.checks op o = .ok L)
    (v : Nat → Word) :
    s.DeliversOver u (.next (s.wroteOver u o L fun k => { val := v k })) o L fun k => mergeLo o (s.dstBefore o k) (v k) := by
  have huc : u.checks op o = .ok L := (h.checks op o).trans hc
  have delivers := State.laneStep_delivers (h.issuing hi) huc 0 fun k => { val := v k }
  have noFlags : (fun k => if L.getLsbD k then ({ val := v k } : LaneOut).flags.bits else 0) = fun _ => (0 : BitVec 5) := by
    funext k; split <;> rfl
  have noReserved : (fun k => L.getLsbD k && ({ val := v k } : LaneOut).dy) = fun _ => false := funext fun _ => Bool.and_false _
  rw [noFlags, noReserved, h.dstBefore] at delivers
  have same : (o.clsD = true → ∀ k, L.getLsbD k = true → mergeLo o (u.cg.getG o.dst.toNat) (v k) = mergeLo o (u.cg.getG o.dst.toNat) (v (lowest L))) →
      s.wroteOver u o L (fun k => { val := v k }) = u.laneStep op o 0 fun k => { val := v k } := fun agree => by
    obtain ⟨t, ht⟩ := State.writeBack_agree (u := u) (o := o) (lat := 0) (L := L) (f := fun k => { val := v k }) agree
    rw [State.wroteOver_ok ht]
    exact (State.issue_ok huc ht).symm
  refine ⟨fun hd => ?_, fun hd agree => ?_, fun hd differ => ?_⟩
  · rw [same fun hd' => by rw [hd] at hd'; cases hd']
    exact delivers.each hd
  · rw [same fun _ k hk => by simpa only [State.dstBefore, hd, if_true, h.cg] using agree k hk]
    exact delivers.once hd agree
  · simp only [State.dstBefore, hd, if_true, ← h.cg] at differ ⊢
    rw [State.wroteOver, State.writeBack_differ hd differ]
    simp only [State.nonuniform, h.freeAddr, h.freeInfo]

/-! ### Accesses that set out -/

theorem nodup_lanes (L : Mask) : (lanes L).Nodup := List.Nodup.filter _ List.nodup_range

theorem State.OnlyBundle.refl (s : State) : s.OnlyBundle s := ⟨⟨rfl, fun _ _ => rfl, fun _ => rfl⟩, rfl, fun _ _ => rfl⟩

/-- A d register of some lanes becomes pending (R28): only those lanes change. -/
theorem State.foldl_pend {s : State} (h : s.Whole) (n : Nat) {ks : List Nat} (hn : ks.Nodup) (hk : ∀ k ∈ ks, s.cur.lanes.getLsbD k = true) :
    let t := ks.foldl (fun t k => t.pend s.cur.gang k (.d n)) s
    t.Whole ∧ s.OnlyBundle t ∧ ∀ k, t.cl k = if k ∈ ks then (s.cl k).pend (.d n) else s.cl k := by
  induction ks generalizing s with
  | nil => exact ⟨h, .refl s, fun k => by simp⟩
  | cons k ks ih =>
    obtain ⟨fresh, hn⟩ := List.nodup_cons.mp hn
    have first := hk k List.mem_cons_self
    have lane : ∀ j, (laneMask k).getLsbD j = decide (j = k) := getLsbD_laneMask (BitVec.lt_of_getLsbD first)
    have whole := h.onLanes (laneMask k) fun _ t => t.pend (.d n)
    have only := State.OnlyBundle.onLanes h (laneMask k) (fun _ t => t.pend (.d n)) fun j hj => by
      rw [lane, decide_eq_true_eq] at hj; subst hj; exact first
    have cl := State.cl_onLanes h (laneMask k) fun _ t => t.pend (.d n)
    obtain ⟨whole', only', cl'⟩ := ih whole hn fun j hj => hk j (List.mem_cons_of_mem _ hj)
    refine ⟨whole', only.trans only', fun j => ?_⟩
    refine (cl' j).trans ?_
    rw [cl, lane]
    by_cases hj : j = k
    · subst hj; simp [fresh]
    · simp [hj]

/-- A load of a lane that sets out for its banks, at an address (R200). -/
def State.bankLoad (s : State) (o : Ops) (k : Nat) (a : Word) : PLoad :=
  { gang := s.cur.gang, lane := k, core := coreOf s.cur.gang, dst := .d o.dst.toNat, lines := [], ty := o.ty, lo := o.lo, home := 0, lease := none
    owned := false, spots := s.spots s.cur.gang a (accWidth o.ty), issued := s.clock }

theorem State.SameBlocks.bankLoad {s t : State} (h : s.SameBlocks t) (o : Ops) : t.bankLoad o = s.bankLoad o := by
  funext k a
  unfold State.bankLoad
  rw [h.cur, h.clock, h.spots]

theorem State.foldl_pend_loads (s : State) (key n : Nat) (ks : List Nat) (loads : List PLoad) :
    ks.foldl (fun s k => State.pend s key k (.d n)) { s with loads := loads } =
      { ks.foldl (fun s k => State.pend s key k (.d n)) s with loads := loads } := by
  induction ks generalizing s with
  | nil => rfl
  | cons k ks ih => exact ih (s.pend key k (.d n))

theorem State.foldl_pend_rest (s : State) (key n : Nat) (ks : List Nat) :
    ks.foldl (fun s k => State.pend s key k (.d n)) s = { s with gangs := (ks.foldl (fun s k => State.pend s key k (.d n)) s).gangs } := by
  induction ks generalizing s with
  | nil => rfl
  | cons k ks ih => exact ih (s.pend key k (.d n))

/-- Loads that set out in turn: all of them are on their way, and their registers pending. -/
theorem State.foldl_sendBank (s : State) (o : Ops) (ks : List Nat) (addr : Nat → Word) :
    ks.foldl (fun t k => t.sendBank o k (addr k)) s =
      { ks.foldl (fun t k => State.pend t s.cur.gang k (.d o.dst.toNat)) s with loads := s.loads ++ ks.map fun k => s.bankLoad o k (addr k) } := by
  induction ks generalizing s with
  | nil => simp
  | cons k ks ih =>
    have first : s.sendBank o k (addr k) =
        { s.pend s.cur.gang k (.d o.dst.toNat) with loads := s.loads ++ [s.bankLoad o k (addr k)] } := rfl
    have same : s.SameBlocks (s.sendBank o k (addr k)) :=
      (State.settled_onTheWay s (s.loads ++ [s.bankLoad o k (addr k)]) s.stores).sameBlocks.trans (State.sameBlocks_onThread _ s.cur.gang k fun t => by
        unfold Thread.pend; split <;> rfl)
    rw [List.foldl_cons, ih, same.bankLoad, same.cur, first, State.foldl_pend_loads, List.map_cons, ← List.append_cons]
    rfl

/-- The stores that a lane's store at an address sets off for their banks (R194, R200). -/
def State.bankStores (s : State) (key k : Nat) (a : Word) (n : Nat) (v : Word) : List PStore :=
  let new := fun (p : Nat × Nat) (bs : List Byte) (piece : Bool) => { s.newStore key k (s.gangAt key).world (bankAddr p) bs piece with bank := true }
  if a.toNat % n = 0 then ((s.spots key a n).head?.toList).map fun p => new p (leBytes n v.toNat) false
  else ((s.spots key a n).zip (leBytes n v.toNat)).map fun e => new e.1 [e.2] true

theorem State.foldl_pushBank (s : State) (key n : Nat) (ks : List Nat) (addr v : Nat → Word) :
    ks.foldl (fun t k => t.pushBank key k (addr k) n (v k)) s =
      { s with stores := s.stores ++ ks.flatMap fun k => s.bankStores key k (addr k) n (v k) } := by
  induction ks generalizing s with
  | nil => simp
  | cons k ks ih =>
    rw [List.foldl_cons, ih, List.flatMap_cons, ← List.append_assoc]
    rfl

/-- Stores set out alike from a state whose earlier accesses are done. -/
theorem State.SameBlocks.bankStores {s t : State} (h : s.SameBlocks t) (o : Ops) (n k : Nat) :
    t.bankStores s.cur.gang k (s.memAddr o k) n (s.opDst o k) = s.bankStoresOf o n k := by
  have new : ∀ pa bs piece, { t.newStore s.cur.gang k (t.gangAt s.cur.gang).world pa bs piece with bank := true } =
      { s.storeOf k (pa, bs, piece) with bank := true } := fun pa bs piece => by
    unfold State.newStore State.storeOf
    rw [h.priv, h.clock, h.gang]
    rfl
  unfold State.bankStores State.bankStoresOf
  simp only [new, h.spots]
  split
  · simp only [List.map_map, Function.comp_def]
  · simp only [List.map_map, Function.comp_def]

/-! ### The weight store (R96, R228) -/

theorem firstOutside_eq_none {size n : Nat} {off : Word} (h : off.toNat + n ≤ size) : firstOutside size off n = none := by
  unfold firstOutside
  rw [List.find?_eq_none]
  intro b hb
  obtain ⟨j, hj, rfl⟩ := List.mem_map.mp hb
  have below := List.mem_range.mp hj
  have le : (off + word j).toNat ≤ off.toNat + j := by
    rw [BitVec.toNat_add, word, BitVec.toNat_ofNat]
    exact (Nat.mod_le _ _).trans (Nat.add_le_add_left (Nat.mod_le _ _) _)
  simp only [decide_eq_true_eq, not_le]
  omega

theorem spaceTrap_eq_none {size n info : Nat} {ls : List (Nat × Word)} (h : ∀ e ∈ ls, e.2.toNat + n ≤ size) : spaceTrap size n info ls = none := by
  have inside : ls.filter (fun e => (firstOutside size e.2 n).isSome) = [] :=
    List.filter_eq_nil_iff.mpr fun e he => by rw [firstOutside_eq_none (h e he)]; simp
  simp only [spaceTrap, inside]

theorem SMap.getList_eq {α : Type} (dflt : α) (m : SMap α) (k n : Nat) :
    SMap.getList dflt m k n = (List.range n).map fun j => SMap.get dflt m (k + j) := by
  induction n generalizing k with
  | zero => rfl
  | succ n ih =>
    rw [SMap.getList, ih, List.range_succ_eq_map, List.map_cons, List.map_map]
    congr 1
    refine List.map_congr_left fun j _ => ?_
    simp only [Function.comp]
    congr 1
    omega

theorem State.weightPoisonTrap_eq_none {s : State} {die n : Nat} {ls : List (Nat × Word)}
    (h : ∀ e ∈ ls, ∀ j < n, SMap.get false (s.die die).weightPoison (e.2.toNat + j) = false) : s.weightPoisonTrap die n ls = none := by
  have clean : ls.filter (fun e => (SMap.getList false (s.die die).weightPoison e.2.toNat n).any id) = [] :=
    List.filter_eq_nil_iff.mpr fun e he => by
      rw [SMap.getList_eq]
      simpa using fun j hj => h e he j hj
  simp only [State.weightPoisonTrap, clean]

/-! ### The accesses -/

theorem Thread.pend_d (t : Thread) (n : Nat) : t.pend (.d n) = if n ≠ 0 then { t with pending := .d n :: t.pending } else t := by
  cases n <;> rfl

theorem State.SameBlocks.goesOn {s u : State} (h : s.SameBlocks u) (o : Ops) : u.goesOn o = s.goesOn o := by
  funext t
  simp only [State.goesOn, State.goesTo, h.cur, h.clock]

/-- The loads of guarded lanes set out, and the bundle goes on. -/
theorem State.loads_set_out {s u : State} {o : Ops} {L : Mask} (hs : s.SameIssue u) (whole : u.Whole)
    (hsub : ∀ k, L.getLsbD k = true → s.cur.lanes.getLsbD k = true) :
    let t := ((s.addrs o L).foldl (fun t e => t.sendBank o e.1 e.2) u).advance o.stall.toNat o.yld
    t = { u with loads := u.loads ++ (lanes L).map (u.bankLoadOf o (accWidth o.ty)), gangs := t.gangs } ∧
      State.OnlyBundle { u with loads := t.loads } t ∧ ∀ k, s.cur.lanes.getLsbD k = true → t.cl k =
        s.goesOn o (if L.getLsbD k = true ∧ o.dst ≠ 0 then { u.cl k with pending := .d o.dst.toNat :: (u.cl k).pending } else u.cl k) := by
  rw [show s.addrs o L = (lanes L).map fun k => (k, u.memAddr o k) by rw [hs.memAddr]; rfl, List.foldl_map, State.foldl_sendBank, ← State.foldl_pend_loads]
  have loads : (lanes L).map (fun k => u.bankLoad o k (u.memAddr o k)) = (lanes L).map (u.bankLoadOf o (accWidth o.ty)) := rfl
  rw [loads]
  generalize hv : ({ u with loads := u.loads ++ (lanes L).map (u.bankLoadOf o (accWidth o.ty)) } : State) = v
  have cur : v.cur = s.cur := by rw [← hv]; exact hs.cur
  have clock : v.clock = s.clock := by rw [← hv]; exact hs.clock
  have wholeV : v.Whole := by rw [← hv]; exact ⟨whole.resident, whole.length⟩
  have clV : v.cl = u.cl := by rw [← hv]; rfl
  obtain ⟨after, only, cl⟩ := State.foldl_pend wholeV o.dst.toNat (nodup_lanes L) fun k hk => by rw [cur]; exact hsub k (mem_lanes.mp hk)
  have rest := State.foldl_pend_rest v v.cur.gang o.dst.toNat (lanes L)
  rw [show u.cur.gang = v.cur.gang by rw [← hv]]
  generalize (lanes L).foldl (fun t k => t.pend v.cur.gang k (.d o.dst.toNat)) v = p at after only cl rest ⊢
  have curP : p.cur = v.cur := by rw [rest]
  have clockP : p.clock = v.clock := by rw [rest]
  refine ⟨?_, ?_, fun k hk => ?_⟩
  · rw [show p.advance o.stall.toNat o.yld = { p with gangs := (p.advance o.stall.toNat o.yld).gangs } from rfl, rest, ← hv]
  · rw [show ({ u with loads := (p.advance o.stall.toNat o.yld).loads } : State) = v by
      rw [← hv]; show ({ u with loads := p.loads } : State) = _; rw [rest, ← hv]]
    exact only.trans (State.OnlyBundle.advance after _ _)
  · rw [State.cl_advance_bundle after o (by rw [curP, cur]; exact hk), cl, clV]
    have goes : p.goesOn o = s.goesOn o := by
      funext t
      simp only [State.goesOn, State.goesTo, curP, cur, clockP, clock]
    have zero : o.dst ≠ 0 ↔ o.dst.toNat ≠ 0 := by simp [BitVec.toNat_eq]
    rw [goes, Thread.pend_d]
    simp only [mem_lanes, zero]
    by_cases guarded : L.getLsbD k = true <;> by_cases some : o.dst.toNat = 0 <;> simp [guarded, some]

/-- The stores of guarded lanes set out, and the bundle goes on. -/
theorem State.stores_set_out {s w : State} {o : Ops} {L : Mask} (hs : s.SameBlocks w) (whole : w.Whole) (n : Nat) :
    let t := ((s.addrs o L).foldl (fun t e => t.pushBank s.cur.gang e.1 e.2 n (s.opDst o e.1)) w).advance o.stall.toNat o.yld
    t = { w with stores := w.stores ++ (lanes L).flatMap (s.bankStoresOf o n), gangs := t.gangs } ∧
      State.OnlyBundle { w with stores := t.stores } t ∧ ∀ k, s.cur.lanes.getLsbD k = true → t.cl k = s.goesOn o (w.cl k) := by
  rw [show s.addrs o L = (lanes L).map fun k => (k, s.memAddr o k) from rfl, List.foldl_map, State.foldl_pushBank, List.flatMap_congr fun k _ => hs.bankStores o n k]
  have wholeV : State.Whole { w with stores := w.stores ++ (lanes L).flatMap (s.bankStoresOf o n) } := ⟨whole.resident, whole.length⟩
  refine ⟨rfl, State.OnlyBundle.advance wholeV _ _, fun k hk => ?_⟩
  have bundle : w.cur.lanes.getLsbD k = true := by rw [hs.cur]; exact hk
  rw [State.cl_advance_bundle wholeV o bundle, ← hs.goesOn]
  rfl

/-- A load delivers at its issue over a state in which the earlier accesses are done. -/
theorem State.issue_wroteOver {s u : State} {op : Nat} {o : Ops} {L : Mask} {f : Nat → LaneOut} {body : Mask → Except TrapReq State}
    (hc : s.checks op o = .ok L) (hb : body L = u.writeBack o 0 L f) : s.issue op o body = s.wroteOver u o L f := by
  simp only [State.issue, hc, hb, State.wroteOver] <;> rfl

/-- An acquire gives up leases, whether before the result is written or after (R157, R232). -/
theorem State.writeBack_acquired (u : State) (o : Ops) (L : Mask) (f : Nat → LaneOut) (core scope : Nat) :
    ((u.writeBack o 0 L f).map fun t => if L = 0 then t else t.acquireAt core scope) =
      State.writeBack { u with leases := if L ≠ 0 then u.acquired core scope else u.leases } o 0 L f := by
  rw [State.writeBack_leases u o 0 L f (if L ≠ 0 then u.acquired core scope else u.leases)]
  cases h : u.writeBack o 0 L f with
  | error t => rfl
  | ok t =>
    have leases : t.leases = u.leases := by rw [State.writeBack_gangs h]
    simp only [Except.map]
    by_cases hL : L = 0
    · simp only [hL, ne_eq, not_true_eq_false, if_true, if_false, ← leases]
    · simp only [hL, ne_eq, not_false_eq_true, if_true, if_false, State.acquireAt, State.acquired]
      split
      · rw [← leases]
      · rw [leases]

/-- Where no guarded lane waits an issue that may wait is one that does not. -/
theorem State.issueWhen_ready {s : State} {op : Nat} {o : Ops} {L : Mask} {waits : Nat → Bool} {body : Mask → Except TrapReq State}
    (hc : s.checks op o = .ok L) (hw : ∀ k, L.getLsbD k = true → waits k = false) : s.issueWhen op o waits body = s.issue op o body := by
  simp only [State.issueWhen, State.issueFlow, State.issue, hc, those_eq_zero.mpr hw, ne_eq, not_true_eq_false, if_false]
  cases body L <;> rfl

theorem State.issueWhen_held {s : State} {op : Nat} {o : Ops} {L : Mask} {waits : Nat → Bool} {body : Mask → Except TrapReq State}
    (hc : s.checks op o = .ok L) (hw : ∃ k, L.getLsbD k = true ∧ waits k = true) : s.issueWhen op o waits body = s :=
  State.issueFlow_ok hc (if_pos (those_ne_zero.mpr hw))

/-- STS and STL.S are scratch stores (R231, R232). -/
theorem exec_scratchStore {s : State} {o : Ops} {i : Instr} {op : Nat} {waits : Nat → Bool}
    (mem : (i, op, waits) ∈ [(Instr.sts o, 0x105, never), (Instr.stl o, 0x103, s.releaseHold o)]) (space : i = .stl o → o.c.toNat = 1) :
    exec i s = .next (s.scratchStoreOp op o (i == .stl o) waits) := by
  simp only [List.mem_cons, List.not_mem_nil, or_false, Prod.mk.injEq] at mem
  rcases mem with ⟨rfl, rfl, rfl⟩ | ⟨rfl, rfl, rfl⟩
  · rw [show (Instr.sts o == Instr.stl o) = false by simp]; rfl
  · rw [beq_self_eq_true]; exact congrArg _ (if_pos (space rfl))

/-- Settles O25: what a thread's earlier accesses leave, then the lanes' own, at once or set out for their banks. -/
theorem scratchAccesses : Obligations.ScratchAccesses := by
  intro s L o hi _ key core n u v w load
  have settledU : s.Settled u := State.settled_settle s key n o.clsD (s.addrs o L)
  have settledV : s.Settled v := State.settled_settle s key n true (s.addrs o L)
  have sameW : s.SameBlocks w := State.sameBlocks_settle s key n true true (s.addrs o L)
  refine ⟨fun hc clear => ⟨fun hd => ?_, fun hd => ?_⟩, fun hc space clear => ?_, fun hc => ⟨fun hL refresh => ?_, fun ready inside => ?_⟩,
    fun i op waits mem space hc => ⟨fun held => ?_, fun free clear => ?_⟩⟩
  · have issue : exec (.lds o) s = .next (((s.addrs o L).foldl (fun t e => t.sendBank o e.1 e.2) u).advance o.stall.toNat o.yld) :=
      congrArg _ (State.issue_ok hc (by
        dsimp only
        rw [show (s.settle s.cur.gang (accWidth o.ty) false o.clsD (s.addrs o L)).scratchTraps s.cur.gang (accWidth o.ty) false true (s.addrs o L) = none
          from clear, if_neg (by rw [hd]; decide)]
        rfl))
    exact ⟨_, issue, State.loads_set_out settledU.sameIssue (settledU.sameBlocks.whole hi.toWhole) (State.checks_sub hc)⟩
  · have issue : exec (.lds o) s = .next (s.wroteOver u o L fun k => { val := load u k }) :=
      congrArg _ (State.issue_wroteOver hc (by
        dsimp only
        rw [show (s.settle s.cur.gang (accWidth o.ty) false o.clsD (s.addrs o L)).scratchTraps s.cur.gang (accWidth o.ty) false true (s.addrs o L) = none
          from clear, if_pos hd]
        rfl))
    rw [issue]
    exact settledU.sameIssue.deliversOver hi hc (load u)
  · have same := settledV.sameIssue
    have acquires : s.SameIssue { v with leases := if L ≠ 0 then v.acquired core o.opmod.toNat else v.leases } :=
      ⟨same.gangs, same.cur, same.clock, same.freeCtr⟩
    have addrs : v.addrs o L = s.addrs o L := by unfold State.addrs; rw [same.memAddr]
    have issue : exec (.lda o) s = .next (s.wroteOver { v with leases := if L ≠ 0 then v.acquired core o.opmod.toNat else v.leases } o L
        fun k => { val := load v k }) :=
      congrArg _ ((if_pos space).trans (State.issue_wroteOver hc (by
        rw [← State.writeBack_acquired]
        dsimp only
        rw [show s.settle s.cur.gang (accWidth o.ty) false true (s.addrs o L) = v from rfl, same.cur, addrs,
          show v.scratchTraps s.cur.gang (accWidth o.ty) true true (s.addrs o L) = none from clear, same.memAddr]
        rfl)))
    rw [issue]
    exact acquires.deliversOver hi hc (load v)
  · exact congrArg _ (State.issueWhen_held hc ⟨_, lowest_mem hL, refresh⟩)
  · have open' : ∀ k, L.getLsbD k = true → s.refreshNow (dieOf s.cur.gang) = false := fun k hk =>
      ready fun zero => by rw [zero] at hk; simp at hk
    have guarded : ∀ e ∈ s.addrs o L, ∃ k, L.getLsbD k = true ∧ e = (k, s.memAddr o k) := fun e he => by
      obtain ⟨k, hk, rfl⟩ := List.mem_map.mp he
      exact ⟨k, mem_lanes.mp hk, rfl⟩
    have space : spaceTrap Config.weightBytes (accWidth o.ty) (2 ^ 8) (s.addrs o L) = none := spaceTrap_eq_none fun e he => by
      obtain ⟨k, hk, rfl⟩ := guarded e he
      exact (inside k hk).1
    have clean : s.weightPoisonTrap (dieOf s.cur.gang) (accWidth o.ty) (s.addrs o L) = none := State.weightPoisonTrap_eq_none fun e he j hj => by
      obtain ⟨k, hk, rfl⟩ := guarded e he
      exact (inside k hk).2 _ (List.mem_map.mpr ⟨j, List.mem_range.mpr hj, rfl⟩)
    refine State.value_delivers 0 hi hc (congrArg _ ((State.issueWhen_ready hc open').trans (State.issue_eq_laneStep hc ?_))) fun k => rfl
    dsimp only
    rw [space, clean]
    simp only [State.weightLoad, SMap.getList_eq, List.map_map]
    rfl
  · rw [exec_scratchStore mem space, State.scratchStoreOp, State.issueWhen_held hc held]
  · refine ⟨_, ?_, State.stores_set_out sameW (sameW.whole hi.toWhole) n⟩
    rw [exec_scratchStore mem space, State.scratchStoreOp, State.issueWhen_ready hc free]
    refine congrArg _ (State.issue_ok hc ?_)
    dsimp only
    rw [show (s.settle s.cur.gang (accWidth o.ty) true true (s.addrs o L)).scratchTraps s.cur.gang (accWidth o.ty) (i == .stl o) false (s.addrs o L) = none
      from clear]
    rfl

end Sys2Proof.Machine
end

section
/-! SUPPORT. Copies that land (R93, R265), and O43: the store of a piece marks the entries of the page table through which it goes. -/

namespace Sys2Proof.Machine

/-- A piece of one byte of scratch, for the start of the program's page. -/
def markingChunk : Chunk := { dst := .global (word progVa), src := .scratch 0 0, size := 1, overlap := [], held := [], done := [] }

/-- A copy of that piece, by the core of the one gang. -/
def markingCopy : Copy :=
  { id := 1, gang := 0, launch := 1, block := 0, core := 0, world := 0, xlate := progPacket.xlate, lanes := 1, token := 9, bar := none, weightWrite := false
    chunks := [markingChunk], delivered := 0, priv := false, w := 0, pc := word progVa }

/-- The byte that it brings. -/
def markingByte : Carried := { val := 7, valid := true, poison := false }

/-- The one entry of the page table maps the page for user loads and stores; nothing has been accessed or written through it yet (R265). -/
def unmarked : State := { (State.reset.withFetchWord 64 0).poke (progRoot + 8) (leBytes 8 (0x1F + 2 ^ 27 * 2 ^ 10 + 2 ^ 54)) with copies := [markingCopy] }

theorem memoryCanonical_unmarked : unmarked.memoryCanonical :=
  SMap.wf_setList (SMap.wf_setList (SMap.wf_setList rfl _ _) _ _) _ _

theorem tablesCanonical_unmarked : unmarked.TablesCanonical := ⟨rfl, rfl, rfl, rfl, rfl⟩

/-- The physical addresses of the piece's bytes, and the state once the walker has set a and d in the entry. -/
theorem translateRange_unmarked : ∃ s1, unmarked.translateRange 0 progPacket.xlate (word progVa) .store false 1 = .ok (s1, [progVa]) := by
  have places : (match unmarked.translateRange 0 progPacket.xlate (word progVa) .store false 1 with | .ok (_, pas) => pas | .error _ => []) = [progVa] := by
    decide +kernel
  split at places
  · next s1 pas walked => exact ⟨s1, places ▸ walked⟩
  · cases places

/-- What stands in the low byte of the entry once the piece has been stored. -/
theorem storeChunk_unmarked :
    (match unmarked.storeChunk markingCopy markingChunk [markingByte] with | .ok (t, _) => t.peek (progRoot + 8) | .error _ => 0) = 0xDF := by
  decide +kernel

theorem peek_unmarked : unmarked.peek (progRoot + 8) = 0x1F := by decide +kernel

/-- Refutes O43: no byte but those of the piece is to change, but the store of a piece sets a and d in the entry of the page table that maps it
(R265), and the entry's own byte stands outside the piece. -/
theorem not_copiesLand : ¬ Obligations.CopiesLand := by
  intro lands
  obtain ⟨s1, walked⟩ := translateRange_unmarked
  obtain ⟨-, -, -, -, -, -, -, -, -, -, -, stores⟩ := lands unmarked 0 0 markingCopy markingChunk rfl rfl
  obtain ⟨t, w, stored, -, others, -⟩ := stores [markingByte] (word progVa) s1 [progVa] rfl memoryCanonical_unmarked tablesCanonical_unmarked rfl walked rfl
    (fun n hn => by obtain rfl : n = 0 := Nat.lt_one_iff.mp hn; rfl)
    (fun pa hpa => by obtain rfl := List.mem_singleton.mp hpa; exact ⟨by decide +kernel, by decide +kernel, by decide +kernel⟩) (by decide +kernel)
  have marked : t.peek (progRoot + 8) = 0xDF := by have after := storeChunk_unmarked; rwa [stored] at after
  have kept : t.peek (progRoot + 8) = 0x1F := (others (progRoot + 8) (by decide)).trans peek_unmarked
  rw [kept] at marked
  exact absurd marked (by decide)

end Sys2Proof.Machine
end

section
/-! SUPPORT. What the memory system does between instructions: the homes of lines, leases, and one thread of a gang (R201, R205 to R208). -/

namespace Sys2Proof.Machine

/-! ### Memory -/

/-- Memory holds some bytes from an address on, and is as it was elsewhere. -/
def State.Wrote (s t : State) (pa : Nat) (bs : List Byte) : Prop :=
  ∀ a, t.peek a = if pa ≤ a ∧ a < pa + bs.length then bs.getD (a - pa) 0 else s.peek a

theorem State.Wrote.nil (s : State) (pa : Nat) : s.Wrote s pa [] := fun a => (if_neg (by simp)).symm

theorem State.wrote_poke {s : State} (h : s.memoryCanonical) (pa : Nat) (bs : List Byte) : s.Wrote (s.poke pa bs) pa bs := by
  intro a
  split
  · next inside =>
    obtain ⟨j, rfl⟩ := Nat.exists_eq_add_of_le inside.1
    have hj : j < bs.length := by omega
    refine (SMap.get_setList_inside h pa j bs hj).trans ?_
    rw [Nat.add_sub_cancel_left, List.getD_eq_getElem _ _ hj]
  · next outside => exact SMap.get_setList_outside h pa a bs (by omega)

/-! ### The home of a line (R205) -/

/-- A store takes its place at a moment, and changes nothing else but that record. -/
theorem State.placeAt_rest (s : State) (pa n : Nat) :
    s.placeAt pa n = { s with gtime := (s.placeAt pa n).gtime, placedAt := (s.placeAt pa n).placedAt } ∧ s.gtime ≤ (s.placeAt pa n).gtime := by
  unfold State.placeAt
  split
  · exact ⟨rfl, Nat.le_succ _⟩
  · exact ⟨rfl, Nat.le_refl _⟩

/-- What a write at the home of a line leaves as it was. -/
structure State.AtHome (s t : State) : Prop where
  rest : t = { s with
    mem := t.mem, dirty := t.dirty, owned := t.owned, hostLines := t.hostLines, lineWorld := t.lineWorld, seals := t.seals
    poisonLines := t.poisonLines, hostCores := t.hostCores, placedAt := t.placedAt, gtime := t.gtime }
  later : s.gtime ≤ t.gtime

theorem State.AtHome.refl (s : State) : s.AtHome s := ⟨rfl, Nat.le_refl _⟩

/-- A store that its home takes (R205, R377). -/
theorem State.homeStore_here {s : State} (h : s.memoryCanonical) (core : Option Nat) (req : BitVec 32) {world pa : Nat} (bs : List Byte)
    (near : s.remoteAt pa = false) (allowed : s.readError world (lineOf pa) = none) :
    s.AtHome (s.homeStore core req world pa bs) ∧ s.Wrote (s.homeStore core req world pa bs) pa bs := by
  have taken : (if bs.length < 128 ∨ (s.ioPage pa).isSome = true then s.readError world (lineOf pa) else none) = none := by
    split
    · exact allowed
    · rfl
  obtain ⟨placed, later⟩ := s.placeAt_rest pa bs.length
  have canonical : (s.placeAt pa bs.length).memoryCanonical := by rw [placed]; exact h
  have peek : ∀ a, (s.placeAt pa bs.length).peek a = s.peek a := fun a => by rw [placed]; rfl
  have wrote := State.wrote_poke canonical pa bs
  unfold State.homeStore
  simp only [near, Bool.false_eq_true, if_false, taken]
  generalize s.placeAt pa bs.length = v at placed later peek wrote ⊢
  refine ⟨⟨?_, later⟩, fun a => ?_⟩
  · rw [placed]; rfl
  · rw [← peek]; exact wrote a

/-- A store to another device's memory (R211). -/
theorem State.homeStore_remote {s : State} (h : s.memoryCanonical) (core : Option Nat) (req : BitVec 32) (world : Nat) {pa : Nat} (bs : List Byte)
    (far : s.remoteAt pa = true) :
    let t := s.homeStore core req world pa bs
    t = { s with mem := t.mem, dirty := t.dirty, placedAt := t.placedAt, gtime := t.gtime, hostCores := t.hostCores } ∧ s.Wrote t pa bs := by
  obtain ⟨placed, -⟩ := s.placeAt_rest pa bs.length
  have canonical : (s.placeAt pa bs.length).memoryCanonical := by rw [placed]; exact h
  have peek : ∀ a, (s.placeAt pa bs.length).peek a = s.peek a := fun a => by rw [placed]; rfl
  have wrote := State.wrote_poke canonical pa bs
  unfold State.homeStore
  simp only [far, if_true]
  generalize s.placeAt pa bs.length = v at placed peek wrote ⊢
  refine ⟨?_, fun a => ?_⟩
  · rw [placed]; rfl
  · rw [← peek]; exact wrote a

/-! ### Leases (R206, R279) -/

/-- What granting leases leaves as it was. -/
def State.LeasesOnly (s t : State) : Prop :=
  t = { s with leases := t.leases, hostLines := t.hostLines, releasing := t.releasing, dies := t.dies }

theorem State.LeasesOnly.trans {s t u : State} (h : s.LeasesOnly t) (h' : t.LeasesOnly u) : s.LeasesOnly u := by
  unfold State.LeasesOnly at *
  rw [h', h]

theorem State.leasesOnly_releaseOldest (s : State) (die : Nat) : s.LeasesOnly (s.releaseOldest die) := by
  unfold State.releaseOldest
  split
  · exact rfl
  · split <;> exact rfl

theorem State.leasesOnly_roomInL1 (s : State) (core : Nat) : s.LeasesOnly (s.roomInL1 core) := by
  unfold State.roomInL1
  dsimp only
  split
  · exact rfl
  · split <;> exact rfl

theorem State.leasesOnly_giveUpLeases (s : State) (core line : Nat) : s.LeasesOnly (s.giveUpLeases core line) := rfl

theorem State.leasesOnly_trackPool (s : State) (die line : Nat) : s.LeasesOnly (s.trackPool die line) := rfl

theorem State.leasesOnly_grantLease (s : State) (core line : Nat) : s.LeasesOnly (s.grantLease core line) := by
  unfold State.grantLease
  split
  · exact rfl
  · have moved : s.LeasesOnly { s with hostLines := SMap.set none s.hostLines line (leaseHost (SMap.get none s.hostLines line)) } := rfl
    generalize ({ s with hostLines := SMap.set none s.hostLines line (leaseHost (SMap.get none s.hostLines line)) } : State) = v at moved
    dsimp only
    split
    · exact moved.trans (State.leasesOnly_giveUpLeases v core line)
    · split
      · exact (moved.trans (State.leasesOnly_giveUpLeases v core line)).trans (State.leasesOnly_releaseOldest _ _)
      · have room := moved.trans (State.leasesOnly_roomInL1 v core)
        generalize v.roomInL1 core = w at room
        split
        · exact (room.trans (State.leasesOnly_trackPool w _ line)).trans rfl
        · exact room.trans rfl

theorem State.leasesOnly_grantLeases (s : State) (core : Nat) (lines : List Nat) :
    s.LeasesOnly (lines.foldl (fun s line => s.grantLease core line) s) :=
  State.foldl_of_trans (R := State.LeasesOnly) (fun _ => rfl) State.LeasesOnly.trans (fun s line => State.leasesOnly_grantLease s core line) lines s

/-! ### One thread -/

/-- Of the gangs one thread of one changes. -/
structure State.OnlyThread (s t : State) (key k : Nat) : Prop where
  others : ∀ key', key' ≠ key → t.gangAt key' = s.gangAt key'
  gang : t.gangAt key = { s.gangAt key with threads := (t.gangAt key).threads }
  lanes : ∀ j, j ≠ k → (t.gangAt key).lane j = (s.gangAt key).lane j

/-- A slot holds a resident gang in canonical form, with a lane of a number. -/
structure State.Lane (s : State) (key k : Nat) : Prop where
  resident : s.resident key = true
  canonical : (s.gangAt key).Canonical
  below : k < 32

theorem State.onThread_only {s v t : State} {key k : Nat} (h : s.Lane key k) (gangs : v.gangs = s.gangs) (f : Thread → Thread)
    (ht : t.gangs = (v.onThread key k f).gangs) : s.OnlyThread t key k ∧ (t.gangAt key).lane k = f ((s.gangAt key).lane k) := by
  have after : ∀ key', t.gangAt key' = (v.onThread key k f).gangAt key' := State.gangAt_congr ht
  have before : ∀ key', v.gangAt key' = s.gangAt key' := State.gangAt_congr gangs
  have resident : v.resident key = true := by unfold State.resident; rw [gangs]; exact h.resident
  have own : t.gangAt key = (s.gangAt key).onLanes (laneMask k) fun _ u => f u := by
    rw [after, ← before]
    exact State.gangAt_onGang resident _ fun _ _ => rfl
  have lane : ∀ j, (t.gangAt key).lane j = if j = k then f ((s.gangAt key).lane j) else (s.gangAt key).lane j := fun j => by
    rw [own, Gang.lane_onLanes h.canonical.whole, getLsbD_laneMask h.below]
    simp only [decide_eq_true_eq]
  refine ⟨⟨fun key' hne => ?_, by rw [own]; rfl, fun j hj => by rw [lane, if_neg hj]⟩, by rw [lane, if_pos rfl]⟩
  rw [after, ← before]
  exact State.gangAt_onGang_other v _ (fun _ _ => rfl) hne

end Sys2Proof.Machine
end

section
/-! SUPPORT. Replies, performed stores, applied atomics, acknowledgements and sequences (R198 to R207, R219, R243 to R247). -/

namespace Sys2Proof.Machine

/-! ### Loads (R198, R206, R231) -/

theorem any_take_iff {α : Type} {xs : List α} {i : Nat} {p : α → Bool} : (xs.take i).any p = true ↔ ∃ j < i, ∃ e, xs[j]? = some e ∧ p e = true := by
  simp only [List.any_eq_true, List.mem_iff_getElem?, List.getElem?_take]
  constructor
  · rintro ⟨e, ⟨j, hj⟩, he⟩
    split at hj
    · next below => exact ⟨j, below, e, hj, he⟩
    · cases hj
  · rintro ⟨j, below, e, hj, he⟩
    exact ⟨e, ⟨j, by rw [if_pos below]; exact hj⟩, he⟩

/-- An earlier load of the thread of a line of a load, or of bytes of scratch of it, comes first. -/
theorem loadBlocked_iff {ls : List PLoad} {i : Nat} {l : PLoad} : loadBlocked ls i l = true ↔
    ¬∀ j < i, ∀ e, ls[j]? = some e → e.gang = l.gang → e.lane = l.lane → (∀ x ∈ e.lines, x ∉ l.lines) ∧ ∀ x ∈ e.spots, x ∉ l.spots := by
  unfold loadBlocked
  rw [any_take_iff]
  simp only [Bool.and_eq_true, Bool.or_eq_true, beq_iff_eq, List.any_eq_true, List.contains_iff_mem]
  push Not
  constructor
  · rintro ⟨j, hj, e, he, ⟨hg, hl⟩, shared⟩
    refine ⟨j, hj, e, he, hg, hl, fun apart => ?_⟩
    rcases shared with ⟨x, hx, hm⟩ | ⟨x, hx, hm⟩
    · exact absurd hm (apart x hx)
    · exact ⟨x, hx, hm⟩
  · rintro ⟨j, hj, e, he, hg, hl, shared⟩
    refine ⟨j, hj, e, he, ⟨hg, hl⟩, ?_⟩
    by_cases apart : ∀ x ∈ e.lines, x ∉ l.lines
    · exact .inr (shared apart)
    · push Not at apart
      exact .inl apart

theorem PLoad.serve_eq_lease {l : PLoad} {how : Served} : l.serve how = .lease ↔ how = .lease ∧ l.lease ≠ none := by
  cases how with
  | lease => cases hl : l.lease <;> simp [PLoad.serve, hl]
  | owned => cases ho : l.owned <;> simp [PLoad.serve, ho]
  | home => simp [PLoad.serve]

theorem PLoad.serve_eq_home {l : PLoad} {how : Served} :
    l.serve how = .home ↔ ¬(how = .lease ∧ l.lease ≠ none) ∧ ¬(how = .owned ∧ l.owned = true) := by
  cases how with
  | lease => cases hl : l.lease <;> simp [PLoad.serve, hl]
  | owned => cases ho : l.owned <;> simp [PLoad.serve, ho]
  | home => simp [PLoad.serve]

theorem PLoad.value_serve (l : PLoad) (how : Served) : l.value (l.serve how) = if how = .lease then l.lease.getD l.home else l.home := by
  cases how with
  | lease => cases hl : l.lease <;> simp [PLoad.serve, PLoad.value, hl]
  | owned => cases ho : l.owned <;> simp [PLoad.serve, PLoad.value, ho]
  | home => simp [PLoad.serve, PLoad.value]

/-- The loads that stand after one has been answered (R198). -/
def State.loadsAfter (s : State) (i : Nat) (l : PLoad) (how : Served) : List PLoad :=
  (s.loads.eraseIdx i).map fun m =>
    if (how = .lease ∧ l.lease ≠ none) ∨ ¬(m.core = l.core ∧ m.lines.any l.lines.contains = true) then m else { m with lease := none }

/-- The state that a load's reply delivers in: its home has leased its lines where it served it. -/
def State.served (s : State) (i : Nat) (l : PLoad) (how : Served) : State :=
  let s1 := { s with loads := s.loadsAfter i l how }
  if l.spots = [] ∧ l.serve how = .home then l.lines.foldl (fun s line => s.grantLease l.core line) s1 else s1

/-- The value that it delivers. -/
def State.servedValue (s : State) (l : PLoad) (how : Served) : Word :=
  if l.spots ≠ [] then s.bankValue l else if how = .lease then l.lease.getD l.home else l.home

theorem State.leasesOnly_served (s : State) (i : Nat) (l : PLoad) (how : Served) :
    State.LeasesOnly { s with loads := s.loadsAfter i l how } (s.served i l how) := by
  unfold State.served
  dsimp only
  split
  · exact State.leasesOnly_grantLeases _ _ _
  · exact rfl

theorem State.loadReply_blocked {s : State} {i : Nat} {l : PLoad} (hl : s.loads[i]? = some l) (how : Served) (h : loadBlocked s.loads i l = true) :
    s.loadReply i how = s := by
  simp only [State.loadReply, hl, h, if_true]

theorem State.loadReply_first {s : State} {i : Nat} {l : PLoad} (hl : s.loads[i]? = some l) (how : Served) (h : loadBlocked s.loads i l = false) :
    s.loadReply i how = (s.served i l how).deliver l (s.servedValue l how) := by
  have loads : ((s.loads.eraseIdx i).map fun m => if l.serve how = Served.lease then m else m.forget l.core l.lines) = s.loadsAfter i l how := by
    unfold State.loadsAfter
    refine List.map_congr_left fun m _ => ?_
    simp only [PLoad.serve_eq_lease, PLoad.forget]
    by_cases lease : how = .lease ∧ l.lease ≠ none
    · simp only [lease, not_false_eq_true, and_self, if_true, true_or, ne_eq]
    · by_cases mine : m.core = l.core ∧ m.lines.any l.lines.contains = true
      · rw [if_neg lease, if_pos mine, if_neg (by tauto)]
      · rw [if_neg lease, if_neg mine, if_pos (.inr mine)]
  simp only [State.loadReply, hl, h, Bool.false_eq_true, if_false, loads]
  by_cases spots : l.spots = []
  · simp only [State.served, State.servedValue, spots, bne_self_eq_false, Bool.false_eq_true, if_false, true_and, ne_eq, not_true_eq_false,
      PLoad.value_serve]
  · simp only [State.served, State.servedValue, spots, bne_iff_ne, ne_eq, not_false_eq_true, if_true, false_and, if_false]

/-- A thread that a load's value reaches. -/
def Thread.loaded (t : Thread) (n : Nat) (f : Word → Word) : Thread := (t.setD n (f (t.getD n))).unpend (.d n)

theorem Thread.loaded_eq (t : Thread) (n : Nat) (f : Word → Word) : t.loaded n f =
    { t with d := (t.loaded n f).d, dValid := (t.loaded n f).dValid, tracked := (t.loaded n f).tracked, pending := t.pending.erase (.d n) } := by
  unfold Thread.loaded Thread.unpend
  rw [Thread.setD_eq]

theorem Thread.getD_loaded {t : Thread} (h : SMap.wf 0 t.d = true) (n m : Nat) (f : Word → Word) :
    (t.loaded n f).getD m = if m = n ∧ n ≠ 0 then f (t.getD n) else t.getD m := Thread.getD_setD h n m (f (t.getD n))

theorem State.deliver_d (s : State) {l : PLoad} {n : Nat} (hd : l.dst = .d n) (v : Word) :
    s.deliver l v = s.onThread l.gang l.lane fun t => t.loaded n fun old => loadInto l.ty l.lo old v := by
  simp only [State.deliver, hd]
  rfl

/-- A load's reply (R198, R206, R231): where no earlier load comes first its thread takes the value, and nothing else changes but leases. -/
theorem State.loadReply_effect {s : State} {i n : Nat} {l : PLoad} (hl : s.loads[i]? = some l) (hd : l.dst = .d n) (h : s.Lane l.gang l.lane) (how : Served)
    (first : loadBlocked s.loads i l = false) :
    let t := s.loadReply i how
    s.OnlyThread t l.gang l.lane ∧ (∀ pa, t.peek pa = s.peek pa) ∧
      (¬(l.spots = [] ∧ l.serve how = .home) → t = { s with loads := s.loadsAfter i l how, gangs := t.gangs }) ∧
      t = { s with loads := s.loadsAfter i l how, gangs := t.gangs, leases := t.leases, hostLines := t.hostLines, releasing := t.releasing, dies := t.dies } ∧
      (t.gangAt l.gang).lane l.lane =
        ((s.gangAt l.gang).lane l.lane).loaded n fun old => loadInto l.ty l.lo old (s.servedValue l how) := by
  have served := s.leasesOnly_served i l how
  have plain : ¬(l.spots = [] ∧ l.serve how = .home) → s.served i l how = { s with loads := s.loadsAfter i l how } := fun away => if_neg away
  intro t
  have reply : t = (s.served i l how).onThread l.gang l.lane fun t => t.loaded n fun old => loadInto l.ty l.lo old (s.servedValue l how) :=
    (State.loadReply_first hl how first).trans (State.deliver_d _ hd _)
  generalize s.served i l how = v at served plain reply
  unfold State.LeasesOnly at served
  obtain ⟨only, lane⟩ := State.onThread_only (v := v) (t := t) h (by rw [served]) _ (by rw [reply])
  refine ⟨only, fun pa => ?_, fun away => ?_, ?_, lane⟩
  · rw [reply]
    show v.peek pa = s.peek pa
    rw [served]; rfl
  · rw [reply, plain away]; rfl
  · rw [reply, served]; rfl

/-! ### Bytes of an allocation (R71) -/

/-- A word of scratch holds one of some bytes. -/
def inWords (off n w : Nat) : Prop := 0 < n ∧ off / 4 ≤ w ∧ w ≤ (off + n - 1) / 4

theorem inWords_succ (off n w : Nat) : inWords off (n + 1) w ↔ w = off / 4 ∨ inWords (off + 1) n w := by
  unfold inWords
  omega

theorem Alloc.bytes_puts {a : Alloc} (h : SMap.wf none a.bytes = true) (off : Nat) (bs : List Byte) (poison : Bool) (q : Nat) :
    SMap.get none (a.puts off bs poison).bytes q = if off ≤ q ∧ q < off + bs.length then some (bs.getD (q - off) 0) else SMap.get none a.bytes q := by
  induction bs generalizing a off with
  | nil => rw [if_neg (by simp)]; rfl
  | cons b bs ih =>
    rw [Alloc.puts, ih (a := a.put off b poison) (SMap.wf_set h off (some b)), show (a.put off b poison).bytes = SMap.set none a.bytes off (some b) from rfl,
      SMap.get_set h, List.length_cons]
    by_cases first : q = off
    · subst first
      rw [if_neg (by omega), if_pos rfl, if_pos (by omega), Nat.sub_self]
      rfl
    · by_cases inside : off + 1 ≤ q ∧ q < off + 1 + bs.length
      · rw [if_pos inside, if_pos (by omega), show q - off = (q - (off + 1)) + 1 by omega, List.getD_cons_succ]
      · rw [if_neg inside, if_neg first, if_neg (by omega)]

theorem Alloc.valid_puts {a : Alloc} (h : SMap.wf false a.valid = true) (off : Nat) (bs : List Byte) (poison : Bool) (w : Nat) :
    SMap.get false (a.puts off bs poison).valid w = true ↔ SMap.get false a.valid w = true ∨ inWords off bs.length w := by
  induction bs generalizing a off with
  | nil => simp [Alloc.puts, inWords]
  | cons b bs ih =>
    rw [Alloc.puts, ih (a := a.put off b poison) (SMap.wf_set h (off / 4) true), List.length_cons, inWords_succ,
      show (a.put off b poison).valid = SMap.set false a.valid (off / 4) true from rfl, SMap.get_set h]
    by_cases first : w = off / 4 <;> simp [first]

theorem Alloc.poison_puts {a : Alloc} (h : SMap.wf false a.poison = true) (off : Nat) (bs : List Byte) (w : Nat) :
    SMap.get false (a.puts off bs false).poison w = true ↔ SMap.get false a.poison w = true ∧ ¬inWords off bs.length w := by
  induction bs generalizing a off with
  | nil => simp [Alloc.puts, inWords]
  | cons b bs ih =>
    rw [Alloc.puts, ih (a := a.put off b false) (SMap.wf_set h (off / 4) false), List.length_cons, inWords_succ,
      show (a.put off b false).poison = SMap.set false a.poison (off / 4) false from rfl, SMap.get_set h]
    by_cases first : w = off / 4 <;> simp [first]

/-- A store to scratch that its bank takes (R71, R200): the bytes, with the bits of their words; nothing else of any allocation. -/
theorem State.performBank_effect {s : State} {st : PStore} {a : Alloc} (ha : s.gangAlloc st.gang (bankCore st.pa) = some a) (hc : a.Canonical)
    (hn : 0 < st.bytes.length) (taken : s.refused st.gang (bankCore st.pa, bankOff st.pa) = none) :
    let t := s.performBank st
    let g := s.gangAt st.gang
    let off := bankOff st.pa
    t = { s with allocs := t.allocs, arrays := t.arrays } ∧
      (∀ l b c, ¬(l = g.launch ∧ b = g.block ∧ c = bankCore st.pa) → t.allocAt l b c = s.allocAt l b c) ∧
      ∃ a', t.gangAlloc st.gang (bankCore st.pa) = some a' ∧ a' = { a with bytes := a'.bytes, valid := a'.valid, poison := a'.poison } ∧
        (∀ q, a'.byte q = if off ≤ q ∧ q < off + st.bytes.length then st.bytes.getD (q - off) 0 else a.byte q) ∧
        (∀ q, a'.validAt q = (a.validAt q || decide (off / 4 ≤ q / 4 ∧ q / 4 ≤ (off + st.bytes.length - 1) / 4))) ∧
        ∀ q, a'.poisonAt q = (a.poisonAt q && !decide (off / 4 ≤ q / 4 ∧ q / 4 ≤ (off + st.bytes.length - 1) / 4)) := by
  intro t g off
  have put : t = (s.onScratch st.gang (bankCore st.pa) fun a => a.puts off st.bytes false).spoil g.launch g.block (bankCore st.pa) off st.bytes.length none := by
    show s.scratchPut st.gang (bankCore st.pa) (bankOff st.pa) st.bytes = _
    unfold State.scratchPut
    rw [taken]
  have found : ∀ l b c, t.allocAt l b c = if l = g.launch ∧ b = g.block ∧ c = bankCore st.pa then (s.allocAt g.launch g.block (bankCore st.pa)).map
      (fun a => a.puts off st.bytes false) else s.allocAt l b c := fun l b c => by
    rw [put]
    exact State.allocAt_onAlloc s (Alloc.keepsName_puts off st.bytes false) g.launch g.block (bankCore st.pa) l b c
  have gangs : t.gangAt st.gang = g := by rw [put]; rfl
  have words : ∀ w, inWords off st.bytes.length w ↔ off / 4 ≤ w ∧ w ≤ (off + st.bytes.length - 1) / 4 := fun w => by simp [inWords, hn]
  refine ⟨by rw [put]; rfl, fun l b c other => by rw [found, if_neg other], a.puts off st.bytes false, ?_, a.puts_rest off st.bytes false,
    fun q => ?_, fun q => ?_, fun q => ?_⟩
  · unfold State.gangAlloc
    rw [gangs, found, if_pos ⟨rfl, rfl, rfl⟩, show s.allocAt g.launch g.block (bankCore st.pa) = some a from ha]
    rfl
  · have zeroed : (a.puts off st.bytes false).zeroed q = a.zeroed q := by rw [a.puts_rest]; rfl
    have seed : (a.puts off st.bytes false).seed = a.seed := by rw [a.puts_rest]
    unfold Alloc.byte
    rw [zeroed, seed, Alloc.bytes_puts hc.bytes]
    split <;> rfl
  · rw [Bool.eq_iff_iff]
    unfold Alloc.validAt
    rw [Alloc.valid_puts hc.valid, words]
    simp
  · rw [Bool.eq_iff_iff]
    unfold Alloc.poisonAt
    rw [Alloc.poison_puts hc.poison, words]
    simp only [Bool.and_eq_true, Bool.not_eq_true', decide_eq_false_iff_not]

/-! ### Stores (R198, R201, R205, R211) -/

theorem meets_iff {a n b m : Nat} : meets a n b m = true ↔ a < b + m ∧ b < a + n := by simp [meets]

/-- Something that must come before a store has not. -/
theorem State.storeBlocked_iff {s : State} {i : Nat} {st : PStore} : s.storeBlocked i st = true ↔
    (∃ j < i, ∃ e, s.stores[j]? = some e ∧ e.accepted = false ∧ (e.pa < st.pa + st.bytes.length ∧ st.pa < e.pa + e.bytes.length) ∧
        if st.bank then e.gang = st.gang ∧ (e.lane = st.lane ∨ e.issued = st.issued) else e.core = st.core) ∨
      ∃ a ∈ s.atoms, a.gang = st.gang ∧ a.lane = st.lane ∧ a.applied = none ∧ a.issued < st.issued ∧
        a.pa < st.pa + st.bytes.length ∧ st.pa < a.pa + a.ty.width / 8 := by
  have first : ∀ e : PStore, e.first st = true ↔ e.accepted = false ∧ (e.pa < st.pa + st.bytes.length ∧ st.pa < e.pa + e.bytes.length) ∧
      if st.bank then e.gang = st.gang ∧ (e.lane = st.lane ∨ e.issued = st.issued) else e.core = st.core := fun e => by
    unfold PStore.first
    cases st.bank <;> simp [meets_iff, and_assoc]
  unfold State.storeBlocked
  rw [Bool.or_eq_true, any_take_iff]
  simp [first, meets_iff, accWidth, and_assoc]

/-- The other stores once one has left: the rest of an unaligned store has begun (R194). -/
def State.storesAfter (s : State) (i : Nat) (st : PStore) : List PStore :=
  (s.stores.eraseIdx i).map fun t => if t.siblings st then { t with begun := true } else t

theorem exec_homeStorePerform {s : State} {i : Nat} {st : PStore} (hs : s.stores[i]? = some st) (plain : st.bank = true ∨ s.ioPage st.pa = none) :
    exec (.homeStorePerform i) s = .next (s.performStore i) := by
  show execHomeStorePerform i s = _
  unfold execHomeStorePerform
  rw [hs]
  dsimp only
  rcases plain with bank | page
  · rw [bank]; rfl
  · rw [page]; cases st.bank <;> rfl

section
variable {s : State} {i : Nat} {st : PStore} (hs : s.stores[i]? = some st)
include hs

/-- A store to another device's memory completes (R211). -/
theorem State.performStore_accepted (h : s.Lane st.gang st.lane) (ha : st.accepted = true) :
    let t := s.performStore i
    t = { s with stores := s.stores.eraseIdx i, gangs := t.gangs, recent := t.recent } ∧ s.OnlyThread t st.gang st.lane ∧
      (t.gangAt st.gang).lane st.lane = ((s.gangAt st.gang).lane st.lane).horizon s.gtime := by
  intro t
  have perform : t = (State.onThread { s with stores := s.stores.eraseIdx i } st.gang st.lane fun t => t.horizon s.gtime).performed st.core st.issued s.gtime := by
    show s.performStore i = _
    simp only [State.performStore, hs, ha, if_true]
  have thread := State.onThread_only (v := { s with stores := s.stores.eraseIdx i }) (t := t) h rfl _ (by rw [perform]; rfl)
  exact ⟨by rw [perform]; rfl, thread⟩

variable (ha : st.accepted = false)
include ha

theorem State.performStore_blocked (hb : s.storeBlocked i st = true) : s.performStore i = s := by
  simp only [State.performStore, hs, ha, Bool.false_eq_true, if_false, hb, if_true]

variable (hb : s.storeBlocked i st = false)
include hb

theorem State.performStore_bank (bank : st.bank = true) : s.performStore i = State.performBank { s with stores := s.storesAfter i st } st := by
  simp only [State.performStore, hs, ha, Bool.false_eq_true, if_false, hb, bank, if_true]
  rfl

theorem State.performStore_remote (bank : st.bank = false) (far : s.remoteAt st.pa = true) : s.performStore i =
    State.homeStore { s with stores := s.stores.set i { st with accepted := true } } (some st.core) (requesterOf (partOf st.gang)) st.world st.pa st.bytes := by
  simp only [State.performStore, hs, ha, Bool.false_eq_true, if_false, hb, bank, far, if_true]

/-- A store takes its place at its home (R205): its bytes, its completion time in its thread's hzn, and the record of it. -/
theorem State.performStore_here (h : s.Lane st.gang st.lane) (hm : s.memoryCanonical) (bank : st.bank = false) (near : s.remoteAt st.pa = false)
    (allowed : s.readError st.world (lineOf st.pa) = none) :
    let t := s.performStore i
    let w := max (s.leaseEnd (lineOf st.pa)) t.gtime
    t = { s with
      mem := t.mem, dirty := t.dirty, owned := t.owned, hostLines := t.hostLines, lineWorld := t.lineWorld, seals := t.seals
      poisonLines := t.poisonLines, hostCores := t.hostCores, placedAt := t.placedAt, gtime := t.gtime
      stores := s.storesAfter i st, gangs := t.gangs, recent := t.recent } ∧
      s.Wrote t st.pa st.bytes ∧ s.OnlyThread t st.gang st.lane ∧ s.gtime ≤ t.gtime ∧ (st.core, st.issued, w) ∈ t.recent ∧
      (t.gangAt st.gang).lane st.lane = ((s.gangAt st.gang).lane st.lane).horizon w := by
  intro t w
  have home := State.homeStore_here (s := { s with stores := s.storesAfter i st }) hm (some st.core) (requesterOf (partOf st.gang)) (world := st.world)
    st.bytes near allowed
  have perform : t = ((State.homeStore { s with stores := s.storesAfter i st } (some st.core) (requesterOf (partOf st.gang)) st.world st.pa st.bytes).onThread
      st.gang st.lane fun t => t.horizon w).performed st.core st.issued w := by
    show s.performStore i = _
    have gtime : t.gtime = (State.homeStore { s with stores := s.storesAfter i st } (some st.core) (requesterOf (partOf st.gang)) st.world st.pa
        st.bytes).gtime := by
      show (s.performStore i).gtime = _
      simp only [State.performStore, hs, ha, Bool.false_eq_true, if_false, hb, bank, near]
      rfl
    simp only [State.performStore, hs, ha, Bool.false_eq_true, if_false, hb, bank, near, w, gtime]
    rfl
  obtain ⟨⟨rest, later⟩, wrote⟩ := home
  generalize State.homeStore { s with stores := s.storesAfter i st } (some st.core) (requesterOf (partOf st.gang)) st.world st.pa st.bytes = v
    at rest later wrote perform
  have thread := State.onThread_only (v := v) (t := t) h (by rw [rest]) _ (by rw [perform]; rfl)
  refine ⟨by rw [perform, rest]; rfl, fun a => ?_, thread.1, by rw [perform]; exact later, by rw [perform]; exact List.mem_cons_self, thread.2⟩
  rw [perform]
  exact wrote a

end

/-! ### Refusals (R389, R390) -/

theorem VLog.push_mem (l : VLog) (v : Violation) : ∃ w ∈ (l.push v).entries, w.kind = v.kind ∧ w.address = v.address := by
  unfold VLog.push
  split
  · exact ⟨_, List.mem_append_right _ List.mem_cons_self, rfl, rfl⟩
  · exact ⟨_, List.mem_append_right _ List.mem_cons_self, rfl, rfl⟩

/-- A refusal stands in a log. -/
theorem State.violate_logs (s : State) (owner : LogOwner) (address : Word) (requester : BitVec 32) (kind fromW toW : Nat) :
    ∃ l ∈ (s.violate owner address requester kind fromW toW).vlogs, ∃ v ∈ l.entries, v.kind = BitVec.ofNat 8 kind ∧ v.address = address := by
  unfold State.violate
  dsimp only
  split
  · next some =>
    obtain ⟨l, hl, same⟩ := List.any_eq_true.mp some
    exact ⟨_, List.mem_map.mpr ⟨l, hl, if_pos (beq_iff_eq.mp same)⟩, VLog.push_mem l _⟩
  · exact ⟨_, List.mem_append_right _ List.mem_cons_self, VLog.push_mem _ _⟩

/-! ### Atomics (R202, R219, R243, R244, R246) -/

/-- A compare-and-swap that finds another value. -/
def AtomReq.fails (r : AtomReq) (old : Word) : Bool :=
  match r.op with
  | .cas c => old.toNat % 2 ^ r.ty.width != c.toNat % 2 ^ r.ty.width
  | _ => false

/-- What an applied request leaves beside memory, from the state in which it has written, with its completion time: its reply waits, or its
acknowledgement. -/
def State.atomDone (s1 : State) (i : Nat) (r : AtomReq) (old : Word) (w : Nat) : State :=
  let s2 := (s1.giveUpLeases r.core (lineOf r.pa)).performed r.core r.issued w
  match r.dst with
  | some _ => { s2 with atoms := s2.atoms.set i { r with applied := some (old, word w) } }
  | none => { s2 with atoms := s2.atoms.eraseIdx i, acks := s2.acks ++ [(r.gang, r.lane, w)] }

theorem State.atomDone_rest (s1 : State) (i : Nat) (r : AtomReq) (old : Word) (w : Nat) :
    let t := s1.atomDone i r old w
    t = { s1 with
      leases := t.leases, recent := t.recent, atoms := if r.dst = none then s1.atoms.eraseIdx i else s1.atoms.set i { r with applied := some (old, word w) }
      acks := if r.dst = none then s1.acks ++ [(r.gang, r.lane, w)] else s1.acks } ∧ (r.core, r.issued, w) ∈ t.recent := by
  unfold State.atomDone
  cases hd : r.dst with
  | none => exact ⟨rfl, List.mem_cons_self⟩
  | some n => exact ⟨rfl, List.mem_cons_self⟩

section
variable {s : State} {i : Nat} {r : AtomReq} (hr : s.atoms[i]? = some r)
include hr

theorem State.applyAtom_blocked (hb : s.atomBlocked i r = true) : s.applyAtom i = s := by
  simp only [State.applyAtom, hr, hb, if_true]

variable (hb : s.atomBlocked i r = false) (near : s.remoteAt r.pa = false)
include hb near

theorem State.applyAtom_refused {kind : Nat} (error : s.readError r.world (lineOf r.pa) = some kind) : ∃ old w, s.applyAtom i =
    State.atomDone (s.violate (s.lineOwner (lineOf r.pa)) (word (lineOf r.pa * 128)) (requesterOf (partOf r.gang)) kind r.world (s.tag (lineOf r.pa)))
      i r old w := by
  refine ⟨word (leNat (s.openList r.world r.pa (accWidth r.ty))), s.gtime, ?_⟩
  simp only [State.applyAtom, hr, hb, near, error, Bool.false_eq_true, if_false, Bool.not_false, Bool.true_and, Option.isSome_some, if_true,
    Bool.true_or, State.logReads]
  rfl

/-- The word that a request finds (R244; free bytes of a poisoned line, assumption 93). -/
theorem State.applyAtom_allowed (allowed : s.readError r.world (lineOf r.pa) = none) :
    let old := word (leNat (s.openList r.world r.pa (r.ty.width / 8)))
    let s1 := if r.fails old = true then s
      else s.homeStore none (requesterOf (partOf r.gang)) r.world r.pa (leBytes (r.ty.width / 8) (r.op.apply r.ty old r.value).toNat)
    s.applyAtom i = s1.atomDone i r old (if r.fails old = true then s.gtime else max (s.leaseEnd (lineOf r.pa)) s1.gtime) := by
  intro old s1
  have run : s.applyAtom i = s1.atomDone i r old (if r.fails old = true then s.gtime else s.doneTime s1 (lineOf r.pa)) := by
    simp only [State.applyAtom, hr, hb, near, allowed, Bool.false_eq_true, if_false, Bool.not_false, Bool.true_and, Option.isSome_none, Bool.false_or]
    rfl
  exact run

end

end Sys2Proof.Machine
end

section
/-! SUPPORT. What applied atomics, their replies, acknowledgements and sequences touch (R202, R211, R219, R243 to R247), and O40. -/

namespace Sys2Proof.Machine

/-! ### Atomics: what applying one touches -/

/-- A refused request (R390): memory is as it was, and a log names the line. -/
theorem State.applyAtom_refused_effect {s : State} {i : Nat} {r : AtomReq} (hr : s.atoms[i]? = some r) (hb : s.atomBlocked i r = false)
    (near : s.remoteAt r.pa = false) {kind : Nat} (error : s.readError r.world (lineOf r.pa) = some kind) :
    let t := s.applyAtom i
    (∀ a, t.peek a = s.peek a) ∧
      ∃ l ∈ t.vlogs, ∃ v ∈ l.entries, v.kind = BitVec.ofNat 8 kind ∧ v.address = word (lineOf r.pa * 128) := by
  intro t
  obtain ⟨old, w, done⟩ := State.applyAtom_refused hr hb near error
  have logged := s.violate_logs (s.lineOwner (lineOf r.pa)) (word (lineOf r.pa * 128)) (requesterOf (partOf r.gang)) kind r.world (s.tag (lineOf r.pa))
  have rest := s.violate_rest (s.lineOwner (lineOf r.pa)) (word (lineOf r.pa * 128)) (requesterOf (partOf r.gang)) kind r.world (s.tag (lineOf r.pa))
  generalize s.violate (s.lineOwner (lineOf r.pa)) (word (lineOf r.pa * 128)) (requesterOf (partOf r.gang)) kind r.world (s.tag (lineOf r.pa)) = v
    at done logged rest
  obtain ⟨after, -⟩ := State.atomDone_rest v i r old w
  rw [← done] at after
  refine ⟨fun a => ?_, ?_⟩
  · have same : t.mem = s.mem := by rw [show t = _ from after, rest]
    exact congrArg (fun m => SMap.get 0 m a) same
  · rw [show t.vlogs = v.vlogs by rw [show t = _ from after]]
    exact logged

/-- A request that is applied (R243, R244, R246): its word alone is written, with the leases of its core, and its reply or its acknowledgement
waits. -/
theorem State.applyAtom_effect {s : State} {i : Nat} {r : AtomReq} (hr : s.atoms[i]? = some r) (hb : s.atomBlocked i r = false)
    (near : s.remoteAt r.pa = false) (allowed : s.readError r.world (lineOf r.pa) = none) (hm : s.memoryCanonical) :
    let n := r.ty.width / 8
    let old := word (leNat (s.openList r.world r.pa n))
    let t := s.applyAtom i
    let w := if r.fails old = true then s.gtime else max (s.leaseEnd (lineOf r.pa)) t.gtime
    (r.core, r.issued, w) ∈ t.recent ∧
      t = { s with
        mem := t.mem, dirty := t.dirty, owned := t.owned, hostLines := t.hostLines, lineWorld := t.lineWorld, seals := t.seals
        poisonLines := t.poisonLines, hostCores := t.hostCores, placedAt := t.placedAt, gtime := t.gtime, leases := t.leases, recent := t.recent
        atoms := if r.dst = none then s.atoms.eraseIdx i else s.atoms.set i { r with applied := some (old, word w) }
        acks := if r.dst = none then s.acks ++ [(r.gang, r.lane, w)] else s.acks } ∧
      s.Wrote t r.pa (if r.fails old = true then [] else leBytes n (r.op.apply r.ty old r.value).toNat) := by
  intro n old t w
  have written : ∃ v, s.AtHome v ∧ s.Wrote v r.pa (if r.fails old = true then [] else leBytes n (r.op.apply r.ty old r.value).toNat) ∧
      t = v.atomDone i r old (if r.fails old = true then s.gtime else max (s.leaseEnd (lineOf r.pa)) v.gtime) := by
    refine ⟨_, ?_, ?_, State.applyAtom_allowed hr hb near allowed⟩
    · split
      · exact .refl s
      · exact (State.homeStore_here hm none _ _ near allowed).1
    · show s.Wrote (if r.fails old = true then s else _) r.pa _
      split
      · exact .nil s r.pa
      · exact (State.homeStore_here hm none _ _ near allowed).2
  obtain ⟨v, ⟨home, -⟩, wrote, done⟩ := written
  have gtime : ∀ w', (v.atomDone i r old w').gtime = v.gtime := fun w' => by rw [(State.atomDone_rest v i r old w').1]
  rw [show max (s.leaseEnd (lineOf r.pa)) v.gtime = max (s.leaseEnd (lineOf r.pa)) t.gtime by rw [done, gtime]] at done
  obtain ⟨rest, recent⟩ := State.atomDone_rest v i r old w
  rw [← done] at rest recent
  refine ⟨recent, ?_, fun a => ?_⟩
  · rw [rest, home]
  · rw [← wrote a, rest]
    rfl

/-! ### Replies and acknowledgements (R219, R243, R244, R246) -/

theorem mapLanes_same (m : Mask) (f f' : Nat → Thread → Thread) (k : Nat) (ts : List Thread) :
    mapLanes m f' k (mapLanes m f k ts) = mapLanes m (fun k t => f' k (f k t)) k ts := by
  induction ts generalizing k with
  | nil => rfl
  | cons t ts ih =>
    simp only [mapLanes, ih]
    split
    · rfl
    · rfl

/-- Two changes of one thread are one. -/
theorem State.onThread_onThread (s : State) (key k : Nat) (f f' : Thread → Thread) :
    ((s.onThread key k f).onThread key k f').gangs = (s.onThread key k fun t => f' (f t)).gangs := by
  show (s.gangs.map _).map _ = s.gangs.map _
  rw [List.map_map]
  refine List.map_congr_left fun g _ => ?_
  by_cases hk : g.key = key
  · have same : (g.onLanes (laneMask k) fun _ t => f t).key = key := hk
    simp only [Function.comp, hk, if_true, same]
    simp only [Gang.onLanes, mapLanes_same]
  · simp only [Function.comp, hk, if_false]

theorem State.acquireAt_eq (s : State) (core scope : Nat) : s.acquireAt core scope = { s with leases := s.acquired core scope } := by
  unfold State.acquireAt State.acquired
  split <;> rfl

/-- A thread that an atomic's reply reaches at a moment, in a state. -/
def Thread.replied (s : State) (r : AtomReq) (n w : Nat) (old : Word) (t : Thread) : Thread :=
  let u := t.loaded n fun _ => loadExt r.ty old
  { (u.horizon w).sync s.clock (s.coreHorizon r.core) with slots := u.slots - 1 }

theorem Thread.replied_eq (s : State) (r : AtomReq) (n w : Nat) (old : Word) (t : Thread) :
    let u := t.replied s r n w old
    u = { t with
      d := u.d, dValid := u.dValid, tracked := u.tracked, pending := t.pending.erase (.d n), hzn := word (max (momentOf w t.hzn) w), slots := t.slots - 1
      synced := s.clock, seen := max t.seen (s.coreHorizon r.core) } := by
  unfold Thread.replied
  rw [Thread.loaded_eq]
  rfl

/-- An atomic's reply (R219, R243, R244) changes one thread, and the leases of its core at its scope. -/
theorem State.replyAtom_effect {s : State} {i n : Nat} {r : AtomReq} {old w : Word} (hr : s.atoms[i]? = some r) (ha : r.applied = some (old, w))
    (hd : r.dst = some n) (hf : r.framed = false) (h : s.Lane r.gang r.lane) :
    let t := s.replyAtom i
    t = { s with atoms := s.atoms.eraseIdx i, gangs := t.gangs, leases := s.acquired r.core r.scope } ∧ s.OnlyThread t r.gang r.lane ∧
      (t.gangAt r.gang).lane r.lane =
        ((s.gangAt r.gang).lane r.lane).replied s r n (if s.remoteAt r.pa = true then s.gtime else momentOf s.gtime w) old := by
  intro t
  have reply : t = (((State.onThread { s with atoms := s.atoms.eraseIdx i } r.gang r.lane fun t => t.loaded n fun _ => loadExt r.ty old).onThread r.gang
      r.lane fun t => { (t.horizon (if s.remoteAt r.pa = true then s.gtime else momentOf s.gtime w)).sync s.clock (s.coreHorizon r.core) with
        slots := t.slots - 1 }).acquireAt r.core r.scope) := by
    show s.replyAtom i = _
    simp only [State.replyAtom, hr, ha, hd, hf, Bool.false_eq_true, if_false]
    rfl
  rw [State.acquireAt_eq] at reply
  exact ⟨by rw [reply]; rfl, State.onThread_only (v := { s with atoms := s.atoms.eraseIdx i }) (t := t) h rfl _
    (by rw [reply]; exact State.onThread_onThread _ _ _ _ _)⟩

/-- An acknowledgement ends a reduction (R219, R246). -/
theorem State.ackReduction_effect {s : State} {i key k w : Nat} (ha : s.acks[i]? = some (key, k, w)) (h : s.Lane key k) :
    let t := s.ackReduction i
    t = { s with acks := s.acks.eraseIdx i, gangs := t.gangs } ∧ s.OnlyThread t key k ∧
      (t.gangAt key).lane k = ((s.gangAt key).lane k).horizon (if w = 0 then s.gtime else w) := by
  intro t
  have ack : t = State.onThread { s with acks := s.acks.eraseIdx i } key k fun t => t.horizon (if w = 0 then s.gtime else w) := by
    show s.ackReduction i = _
    simp only [State.ackReduction, ha]
  exact ⟨by rw [ack]; rfl, State.onThread_only (v := { s with acks := s.acks.eraseIdx i }) (t := t) h rfl _ (by rw [ack])⟩

/-! ### Sequences (R247) -/

theorem State.seqOf_setSeq (s : State) (q : RedSeq) : (s.setSeq q).seqOf q.launch q.pa q.ty = q := by
  simp [State.seqOf, State.setSeq]

theorem State.seqNext_ready {s : State} {q : RedSeq} {v : Word}
    (h : (q.held.filter fun e => !q.spilled.contains e.1).head? = some (q.next, some v)) : s.seqNext q = some (q.next, v, false) := by
  obtain ⟨es, ready⟩ := List.head?_eq_some_iff.mp h
  have ready : q.ready = (q.next, some v) :: es := ready
  simp only [State.seqNext, ready, if_true, Option.getD_some]

section
variable {s : State} {i : Nat} {q : RedSeq} (hq : s.redseqs[i]? = some q)
include hq

/-- While the page of its word moves a sequence waits (R275). -/
theorem State.applySeq_inMove (moves : s.inMove (lineOf q.pa) = true) : s.applySeq i = s := by
  simp only [State.applySeq, hq, moves, if_true]

/-- A sequence applies its next contribution. -/
theorem State.applySeq_effect {v : Word} {l : Launch} (ready : s.seqNext q = some (q.next, v, false)) (hl : s.launchOf q.launch = some l)
    (still : s.inMove (lineOf q.pa) = false) (hm : s.memoryCanonical) (near : s.remoteAt q.pa = false)
    (allowed : s.readError l.world (lineOf q.pa) = none) :
    let n := q.ty.width / 8
    let t := s.applySeq i
    t = { s with
      mem := t.mem, dirty := t.dirty, owned := t.owned, hostLines := t.hostLines, lineWorld := t.lineWorld, seals := t.seals
      poisonLines := t.poisonLines, hostCores := t.hostCores, placedAt := t.placedAt, gtime := t.gtime, redseqs := t.redseqs } ∧
      s.Wrote t q.pa (leBytes n (AtomOp.apply .add q.ty (word (leNat (s.openList l.world q.pa n))) v).toNat) ∧
      t.seqOf q.launch q.pa q.ty = { q with next := q.next + 1, held := SMap.set none q.held q.next none } := by
  intro n t
  have apply : t = (s.homeStore none 0 l.world q.pa (leBytes n (AtomOp.apply .add q.ty (word (leNat (s.openList l.world q.pa n))) v).toNat)).setSeq
      { q with next := q.next + 1, held := SMap.set none q.held q.next none } := by
    show s.applySeq i = _
    simp only [State.applySeq, hq, still, ready, hl, near, allowed, Bool.false_eq_true, if_false, false_and, Option.isSome_none, Bool.and_false]
    rfl
  obtain ⟨⟨home, -⟩, wrote⟩ := State.homeStore_here hm none 0 (leBytes n (AtomOp.apply .add q.ty (word (leNat (s.openList l.world q.pa n))) v).toNat)
    near allowed
  generalize s.homeStore none 0 l.world q.pa (leBytes n (AtomOp.apply .add q.ty (word (leNat (s.openList l.world q.pa n))) v).toNat) = u
    at apply home wrote
  refine ⟨?_, fun a => ?_, ?_⟩
  · rw [apply, home]; rfl
  · rw [apply]; exact wrote a
  · rw [apply]
    exact u.seqOf_setSeq { q with next := q.next + 1, held := SMap.set none q.held q.next none }

end

end Sys2Proof.Machine
end

section
/-! SUPPORT. The proof of O40: the memory system's events, each from its lemma. -/

namespace Sys2Proof.Machine

theorem AtomReq.fails_eq (r : AtomReq) (old : Word) : r.fails old =
    match r.op with | .cas c => decide (old.toNat % 2 ^ r.ty.width ≠ c.toNat % 2 ^ r.ty.width) | _ => false := by
  unfold AtomReq.fails
  cases r.op with
  | cas c => simp [bne, beq_eq_decide]
  | _ => rfl

/-- Settles O40: each event of the memory system performs what it names, through the one home of a line, the one bank or the one thread. -/
theorem memoryEventsPerform : Obligations.MemoryEventsPerform := by
  unfold Obligations.MemoryEventsPerform
  intro s i hm _ whole onlyThread wrote allowed reaches homes
  have lane : ∀ {key k}, whole key k → s.Lane key k := fun h => ⟨h.1, h.2.1, h.2.2⟩
  have only : ∀ {t key k}, s.OnlyThread t key k → onlyThread t key k := fun h => ⟨h.others, h.gang, h.lanes⟩
  refine ⟨fun how l n hl hd h => ?_, fun st hs ha hn plain => ?_, fun st hs ha plain h => ?_, fun r hr hb => ?_, fun r kind hr hb near error => ?_,
    fun r hr hb ok => ?_, fun r old w n hr happ hd hf h => ?_, fun key k w hk h => ?_, fun q v l hq _ ready hl => ?_⟩
  · intro first atHome value others u
    have home : atHome ↔ l.spots = [] ∧ l.serve how = .home := and_congr_right fun _ => PLoad.serve_eq_home.symm
    refine ⟨fun later => ?_, fun now => ?_⟩
    · exact congrArg Host.Outcome.next (State.loadReply_blocked hl how (loadBlocked_iff.mpr later))
    · have free : loadBlocked s.loads i l = false := Bool.eq_false_iff.mpr fun held => loadBlocked_iff.mp held now
      obtain ⟨thread, peek, away, rest, loaded⟩ := State.loadReply_effect hl hd (lane h) how free
      refine ⟨_, rfl, only thread, peek, fun other => away (home.not.mp other), fun _ => rest, ?_, fun m => ?_⟩
      · rw [loaded]; exact Thread.loaded_eq _ _ _
      · rw [loaded]
        exact Thread.getD_loaded ((lane h).canonical.lane l.lane).d n m _
  · intro meetsBytes held rest u
    rw [exec_homeStorePerform hs plain]
    have held_iff : s.storeBlocked i st = true ↔ held := State.storeBlocked_iff
    have free : ¬held → s.storeBlocked i st = false := fun now => Bool.eq_false_iff.mpr fun blocked => now (held_iff.mp blocked)
    refine ⟨fun later => ?_, fun now bank h ok => ?_, fun now bank far => ?_, fun a now bank halloc hc => ?_⟩
    · rw [State.performStore_blocked hs ha (held_iff.mpr later)]
    · obtain ⟨near, _, taken⟩ := ok
      obtain ⟨after, writes, thread, later, recent, hzn⟩ := State.performStore_here hs ha (free now) (lane h) hm bank near taken
      exact ⟨_, rfl, after, writes, only thread, later, recent, hzn⟩
    · rw [State.performStore_remote hs ha (free now) bank far]
      obtain ⟨after, writes⟩ := State.homeStore_remote (s := { s with stores := s.stores.set i { st with accepted := true } }) hm (some st.core)
        (requesterOf (partOf st.gang)) st.world st.bytes far
      exact ⟨_, rfl, writes, after⟩
    · intro g off own taken
      rw [State.performStore_bank hs ha (free now) bank]
      obtain ⟨after, others, a', found, same, bytes, valid, poison⟩ := State.performBank_effect (s := { s with stores := s.storesAfter i st }) halloc hc hn taken
      exact ⟨_, a', rfl, after, others, found, same, bytes, valid, poison⟩
  · rw [exec_homeStorePerform hs plain]
    obtain ⟨after, thread, hzn⟩ := State.performStore_accepted hs (lane h) ha
    exact ⟨_, rfl, after, only thread, hzn⟩
  · exact congrArg Host.Outcome.next (State.applyAtom_blocked hr hb)
  · exact ⟨_, rfl, State.applyAtom_refused_effect hr hb near error⟩
  · intro n old fails
    obtain ⟨near, _, taken⟩ := ok
    have same : r.fails old = fails := r.fails_eq old
    have effect := State.applyAtom_effect hr hb near taken hm
    dsimp only at effect
    rw [show r.fails (word (leNat (s.openList r.world r.pa (r.ty.width / 8)))) = fails from same] at effect
    obtain ⟨recent, after, writes⟩ := effect
    exact ⟨s.applyAtom i, _, rfl, fun failed => if_pos failed, fun moved => if_neg (by rw [moved]; decide), recent, after, writes⟩
  · intro u at'
    obtain ⟨after, thread, replied⟩ := State.replyAtom_effect hr happ hd hf (lane h)
    refine ⟨_, rfl, after, only thread, ?_, fun m => ?_⟩
    · rw [replied]; exact Thread.replied_eq s r n at' old u
    · rw [replied]
      exact Thread.getD_loaded ((lane h).canonical.lane r.lane).d n m fun _ => loadExt r.ty old
  · obtain ⟨after, thread, hzn⟩ := State.ackReduction_effect hk (lane h)
    exact ⟨_, rfl, after, only thread, hzn⟩
  · refine ⟨fun moves => congrArg Host.Outcome.next (State.applySeq_inMove hq moves), fun still ok => ?_⟩
    intro n
    obtain ⟨near, _, taken⟩ := ok
    exact ⟨_, rfl, State.applySeq_effect hq (State.seqNext_ready ready) hl still hm near taken⟩

end Sys2Proof.Machine
end

section
/-! SUPPORT. The elements of an array's tiles (R62, R64, R79, R84 to R86): element by element, tile by tile. -/

namespace Sys2Proof.Machine

/-! ### Tables -/

theorem SMap.set_get_from {α : Type} [DecidableEq α] {dflt : α} {b : Nat} {m : SMap α} (h : SMap.wfFrom dflt b m = true) (k : Nat) :
    SMap.set dflt m k (SMap.get dflt m k) = m := by
  induction m generalizing b with
  | nil => exact if_pos rfl
  | cons e m ih =>
    obtain ⟨j, v⟩ := e
    simp only [SMap.wfFrom, Bool.and_eq_true, bne_iff_ne, ne_eq] at h
    obtain ⟨⟨-, value⟩, tail⟩ := h
    unfold SMap.set SMap.get
    by_cases same : k = j
    · rw [if_pos same, if_pos same, same, SMap.cons, if_neg value]
    · by_cases before : k < j
      · rw [if_neg same, if_neg same, if_pos before, if_pos before, SMap.cons, if_pos rfl]
      · rw [if_neg same, if_neg same, if_neg before, if_neg before, ih tail]

/-- Writing what a key holds changes nothing. -/
theorem SMap.set_get {α : Type} [DecidableEq α] {dflt : α} {m : SMap α} (h : SMap.wf dflt m = true) (k : Nat) :
    SMap.set dflt m k (SMap.get dflt m k) = m := SMap.set_get_from h k

/-! ### Elements -/

/-- An array is another one but for tiles, and its tiles are in canonical form where the other's are. -/
structure Array8.Tiled (a b : Array8) : Prop where
  rest : b = { a with tiles := b.tiles }
  wf : SMap.wf 0 a.tiles = true → SMap.wf 0 b.tiles = true

theorem Array8.Tiled.refl (a : Array8) : a.Tiled a := ⟨rfl, id⟩

theorem Array8.Tiled.trans {a b c : Array8} (h : a.Tiled b) (h' : b.Tiled c) : a.Tiled c :=
  ⟨by rw [h'.rest, h.rest], fun w => h'.wf (h.wf w)⟩

theorem Array8.tiled_setElem (a : Array8) (tile e v : Nat) : a.Tiled (a.setElem tile e v) := ⟨rfl, fun w => SMap.wf_set w _ _⟩

theorem Array8.tiled_foldl {α : Type} {step : Array8 → α → Array8} (one : ∀ (a : Array8) x, a.Tiled (step a x)) (a : Array8) (xs : List α) :
    a.Tiled (xs.foldl step a) := by
  induction xs generalizing a with
  | nil => exact .refl a
  | cons x xs ih => exact (one a x).trans (ih _)

theorem Array8.elem_setElem {a : Array8} (h : SMap.wf 0 a.tiles = true) (tile e v tile' e' : Nat) :
    (a.setElem tile e v).elem tile' e' = if 64 * tile' + e' = 64 * tile + e then v % 2 ^ 32 else a.elem tile' e' := by
  unfold Array8.elem Array8.setElem
  rw [SMap.get_set h]
  split
  · exact BitVec.toNat_ofNat v 32
  · rfl

/-- The first elements of a tile are written. -/
theorem Array8.tiles_setElems {a : Array8} (h : SMap.wf 0 a.tiles = true) (tile : Nat) (f : Nat → Nat) (n m : Nat) :
    SMap.get 0 ((List.range n).foldl (fun a k => a.setElem tile k (f k)) a).tiles m =
      if 64 * tile ≤ m ∧ m < 64 * tile + n then BitVec.ofNat 32 (f (m - 64 * tile)) else SMap.get 0 a.tiles m := by
  induction n with
  | zero => rw [if_neg (by omega)]; rfl
  | succ n ih =>
    have wf := (Array8.tiled_foldl (fun a k => Array8.tiled_setElem a tile k (f k)) a (List.range n)).wf h
    rw [List.range_succ, List.foldl_append]
    show SMap.get 0 (SMap.set 0 _ (64 * tile + n) (BitVec.ofNat 32 (f n))) m = _
    rw [SMap.get_set wf, ih]
    by_cases last : m = 64 * tile + n
    · rw [if_pos last, if_pos (by omega), last, Nat.add_sub_cancel_left]
    · rw [if_neg last]
      exact if_congr (by omega) rfl rfl

/-- All elements of a tile are written. -/
def Array8.setTile (a : Array8) (t : Nat) (f : Nat → Nat) : Array8 := (List.range 64).foldl (fun a k => a.setElem t k (f k)) a

theorem Array8.tiled_setTile (a : Array8) (t : Nat) (f : Nat → Nat) : a.Tiled (a.setTile t f) :=
  Array8.tiled_foldl (fun a k => Array8.tiled_setElem a t k (f k)) a (List.range 64)

theorem Array8.elem_setTile_other {a : Array8} (h : SMap.wf 0 a.tiles = true) {t' : Nat} (f : Nat → Nat) {t k : Nat} (ht : t ≠ t') (hk : k < 64) :
    (a.setTile t' f).elem t k = a.elem t k := by
  unfold Array8.elem Array8.setTile
  rw [Array8.tiles_setElems h t' f, if_neg (by omega)]

/-- All elements of some tiles are written. -/
def Array8.setTiles (a : Array8) (ts : List Nat) (f : Nat → Nat → Nat) : Array8 := ts.foldl (fun a t => a.setTile t (f t)) a

theorem Array8.tiled_setTiles (a : Array8) (ts : List Nat) (f : Nat → Nat → Nat) : a.Tiled (a.setTiles ts f) :=
  Array8.tiled_foldl (fun a t => Array8.tiled_setTile a t (f t)) a ts

theorem Array8.elem_setTiles_other {a : Array8} (h : SMap.wf 0 a.tiles = true) {ts : List Nat} (f : Nat → Nat → Nat) {t k : Nat} (ht : t ∉ ts) (hk : k < 64) :
    (a.setTiles ts f).elem t k = a.elem t k := by
  induction ts generalizing a with
  | nil => rfl
  | cons t' ts ih =>
    obtain ⟨other, rest⟩ := not_or.mp (List.mem_cons.not.mp ht)
    rw [show a.setTiles (t' :: ts) f = (a.setTile t' (f t')).setTiles ts f from List.foldl_cons ..,
      ih ((Array8.tiled_setTile a t' (f t')).wf h) rest, Array8.elem_setTile_other h (f t') other hk]

theorem State.overtake_eq (s : State) (p : Nat) (ts : List Nat) :
    s.overtake p ts = s.onArray p fun a => a.setTiles ts fun t k => (s.free (40000 + 64 * t + k)).toNat := by
  simp only [State.overtake, Array8.setTiles, Array8.setTile]

theorem State.overtook_eq (s : State) (p : Nat) (was : Array8) (ts : List Nat) :
    s.overtook p was ts = s.onArray p fun a => a.setTiles ts was.elem := rfl

theorem State.overtake_nil {s : State} (h : SMap.wf Array8.reset s.arrays = true) (p : Nat) : s.overtake p [] = s := by
  show { s with arrays := SMap.set Array8.reset s.arrays p (SMap.get Array8.reset s.arrays p) } = s
  rw [SMap.set_get h]

/-- The tiles that no paired operation writes stand as they were (R81). -/
theorem State.elem_overtake {s : State} {p : Nat} (h : SMap.wf Array8.reset s.arrays = true) (hp : SMap.wf 0 (s.array p).tiles = true) {ts : List Nat}
    {t k : Nat} (ht : t ∉ ts) (hk : k < 64) : ((s.overtake p ts).array p).elem t k = (s.array p).elem t k := by
  rw [State.overtake_eq, State.array_onArray h, if_pos rfl]
  exact Array8.elem_setTiles_other hp _ ht hk

/-! ### Accumulators -/

/-- Bits of an accumulator element. -/
def accBits (wide : Bool) : Nat := if wide then 64 else 32

theorem Array8.tiled_setAcc (a : Array8) (wide : Bool) (tile e v : Nat) : a.Tiled (a.setAcc wide tile e v) := by
  unfold Array8.setAcc
  split
  · exact (Array8.tiled_setElem a tile _ _).trans (Array8.tiled_setElem _ tile _ _)
  · exact Array8.tiled_setElem a tile e v

theorem Array8.acc_setAcc {a : Array8} (h : SMap.wf 0 a.tiles = true) (wide : Bool) (tile e v e' : Nat) (hv : v < 2 ^ accBits wide) :
    (a.setAcc wide tile e v).acc wide tile e' = if e' = e then v else a.acc wide tile e' := by
  unfold Array8.acc Array8.setAcc
  cases wide with
  | false =>
    have hv : v < 2 ^ 32 := hv
    simp only [Bool.false_eq_true, if_false]
    rw [Array8.elem_setElem h, Nat.mod_eq_of_lt hv]
    exact if_congr (by omega) rfl rfl
  | true =>
    have hv : v < 2 ^ 64 := hv
    have h' := (Array8.tiled_setElem a tile (2 * e) (v % 2 ^ 32)).wf h
    simp only [if_true]
    rw [Array8.elem_setElem h', Array8.elem_setElem h, Array8.elem_setElem h', Array8.elem_setElem h]
    by_cases same : e' = e
    · subst same
      rw [if_neg (by omega), if_pos rfl, if_pos rfl, if_pos rfl]
      omega
    · rw [if_neg (by omega), if_neg (by omega), if_neg (by omega), if_neg (by omega), if_neg same]

/-- A narrow element written leaves the elements of other tiles as they were. -/
theorem Array8.elem_setAcc_other {a : Array8} (h : SMap.wf 0 a.tiles = true) {tile t e k : Nat} (v : Nat) (ht : t ≠ tile) (he : e < 64) (hk : k < 64) :
    (a.setAcc false tile e v).elem t k = a.elem t k := by
  show (a.setElem tile e v).elem t k = _
  rw [Array8.elem_setElem h, if_neg (by omega)]

/-! ### Element by element -/

/-- The number of an element in its tile. -/
def cellNum (c : Nat × Nat) : Nat := 8 * c.1 + c.2

theorem cellNums_nodup : (cells.map cellNum).Nodup := by decide

theorem mem_cells {i j : Nat} (hi : i < 8) (hj : j < 8) : (i, j) ∈ cells := by
  unfold cells
  rw [List.mem_flatMap]
  exact ⟨i, List.mem_range.mpr hi, List.mem_map.mpr ⟨j, List.mem_range.mpr hj, rfl⟩⟩

theorem cells_lt {c : Nat × Nat} (h : c ∈ cells) : c.1 < 8 ∧ c.2 < 8 := by
  unfold cells at h
  obtain ⟨i, hi, hc⟩ := List.mem_flatMap.mp h
  obtain ⟨j, hj, rfl⟩ := List.mem_map.mp hc
  exact ⟨List.mem_range.mp hi, List.mem_range.mp hj⟩

/-- One element takes its value, with its flags. -/
def Array8.cellStep (wide : Bool) (tile : Nat) (f : Nat → Nat → Nat × FFlags) (acc : Array8 × FFlags) (c : Nat × Nat) : Array8 × FFlags :=
  (acc.1.setAcc wide tile (cellNum c) ((f c.1 c.2).1 % 2 ^ accBits wide), acc.2.or (f c.1 c.2).2)

theorem Array8.cellwise_eq (a : Array8) (s : State) (n : Nat) (wide : Bool) (tile : Nat) {undef : Nat → Nat → Bool} (f : Nat → Nat → Nat → Nat × FFlags)
    (hu : ∀ i j, i < 8 → undef i j = false) :
    a.cellwise s n wide tile undef f = cells.foldl (Array8.cellStep wide tile fun i j => f i j (a.acc wide tile (8 * i + j))) (a, {}) := by
  unfold Array8.cellwise
  refine List.foldl_ext _ _ _ fun acc c hc => ?_
  simp only [hu c.1 c.2 (cells_lt hc).1, Bool.false_eq_true, if_false]
  rfl

section
variable (wide : Bool) (tile : Nat) (f : Nat → Nat → Nat × FFlags)

theorem Array8.tiled_cellSteps (cs : List (Nat × Nat)) (acc : Array8 × FFlags) : acc.1.Tiled (cs.foldl (Array8.cellStep wide tile f) acc).1 := by
  induction cs generalizing acc with
  | nil => exact .refl _
  | cons c cs ih => exact (Array8.tiled_setAcc acc.1 wide tile _ _).trans (ih (Array8.cellStep wide tile f acc c))

/-- Elements that none of some steps computes stay. -/
theorem Array8.acc_cellSteps_other (cs : List (Nat × Nat)) {acc : Array8 × FFlags} (h : SMap.wf 0 acc.1.tiles = true) {e : Nat} (he : e ∉ cs.map cellNum) :
    (cs.foldl (Array8.cellStep wide tile f) acc).1.acc wide tile e = acc.1.acc wide tile e := by
  induction cs generalizing acc with
  | nil => rfl
  | cons c cs ih =>
    obtain ⟨other, rest⟩ := not_or.mp (List.mem_cons.not.mp he)
    rw [List.foldl_cons, ih ((Array8.tiled_setAcc _ _ _ _ _).wf h) rest]
    exact (Array8.acc_setAcc h wide tile _ _ e (Nat.mod_lt _ (Nat.two_pow_pos _))).trans (if_neg other)

/-- Each of the elements takes its value. -/
theorem Array8.acc_cellSteps (cs : List (Nat × Nat)) {acc : Array8 × FFlags} (h : SMap.wf 0 acc.1.tiles = true) (nodup : (cs.map cellNum).Nodup)
    {c : Nat × Nat} (hc : c ∈ cs) :
    (cs.foldl (Array8.cellStep wide tile f) acc).1.acc wide tile (cellNum c) = (f c.1 c.2).1 % 2 ^ accBits wide := by
  induction cs generalizing acc with
  | nil => cases hc
  | cons d cs ih =>
    obtain ⟨fresh, nodup⟩ := List.nodup_cons.mp nodup
    have wf := (Array8.tiled_setAcc acc.1 wide tile (cellNum d) ((f d.1 d.2).1 % 2 ^ accBits wide)).wf h
    rcases List.mem_cons.mp hc with rfl | later
    · rw [List.foldl_cons, Array8.acc_cellSteps_other wide tile f cs wf fresh]
      exact (Array8.acc_setAcc h wide tile _ _ _ (Nat.mod_lt _ (Nat.two_pow_pos _))).trans (if_pos rfl)
    · rw [List.foldl_cons, ih wf nodup later]

theorem Array8.elem_cellSteps_other (cs : List (Nat × Nat)) {acc : Array8 × FFlags} (h : SMap.wf 0 acc.1.tiles = true) (hcs : ∀ c ∈ cs, cellNum c < 64)
    {t k : Nat} (ht : t ≠ tile) (hk : k < 64) : (cs.foldl (Array8.cellStep false tile f) acc).1.elem t k = acc.1.elem t k := by
  induction cs generalizing acc with
  | nil => rfl
  | cons c cs ih =>
    rw [List.foldl_cons, ih ((Array8.tiled_setAcc _ _ _ _ _).wf h) fun c hc => hcs c (List.mem_cons_of_mem _ hc)]
    exact Array8.elem_setAcc_other h _ ht (hcs c List.mem_cons_self) hk

end

section
variable {a : Array8} (h : SMap.wf 0 a.tiles = true) (s : State) (n : Nat) {undef : Nat → Nat → Bool} (hu : ∀ i j, i < 8 → undef i j = false)
include hu

theorem Array8.tiled_cellwise (a : Array8) (s : State) (n : Nat) (wide : Bool) (tile : Nat) (f : Nat → Nat → Nat → Nat × FFlags) :
    a.Tiled (a.cellwise s n wide tile undef f).1 := by
  rw [Array8.cellwise_eq a s n wide tile f hu]
  exact Array8.tiled_cellSteps wide tile _ cells (a, {})

include h

/-- Every element of a tile is computed from its old value. -/
theorem Array8.acc_cellwise (wide : Bool) (tile : Nat) (f : Nat → Nat → Nat → Nat × FFlags) {i j : Nat} (hi : i < 8) (hj : j < 8) :
    (a.cellwise s n wide tile undef f).1.acc wide tile (8 * i + j) = (f i j (a.acc wide tile (8 * i + j))).1 % 2 ^ accBits wide := by
  rw [Array8.cellwise_eq a s n wide tile f hu]
  exact Array8.acc_cellSteps wide tile _ cells (acc := (a, {})) h cellNums_nodup (mem_cells hi hj)

theorem Array8.elem_cellwise_other (tile : Nat) (f : Nat → Nat → Nat → Nat × FFlags) {t k : Nat} (ht : t ≠ tile) (hk : k < 64) :
    (a.cellwise s n false tile undef f).1.elem t k = a.elem t k := by
  rw [Array8.cellwise_eq a s n false tile f hu]
  refine Array8.elem_cellSteps_other tile _ cells (acc := (a, {})) h (fun c hc => ?_) ht hk
  have below := cells_lt hc
  unfold cellNum
  omega

end

end Sys2Proof.Machine
end

section
/-! SUPPORT. Operations of a matrix array on its own tiles and latches (R58 to R65, R84 to R87). -/

namespace Sys2Proof.Machine

/-! ### Operands -/

theorem rowUndef_eq_false {rows : List (List OpByte)} (h : ∀ r ∈ rows, ∀ b ∈ r, b.undef = false) (i : Nat) : rowUndef rows i = false := by
  unfold rowUndef
  rw [List.any_eq_false]
  intro b hb
  rw [List.getD_eq_getElem?_getD] at hb
  cases hr : rows[i]? with
  | none => rw [hr] at hb; cases hb
  | some r =>
    rw [hr] at hb
    exact Bool.eq_false_iff.mp (h r (List.mem_of_getElem? hr) b hb)

/-! ### Zeroing (R84) -/

theorem State.runMatrix_zero {s : State} {p : Nat} (ha : SMap.wf Array8.reset s.arrays = true) (hp : SMap.wf 0 (s.array p).tiles = true) {e : MatrixEntry}
    {tile : Nat} (hop : e.op = .zero tile) :
    ∃ t, s.runMatrix e p false = .done t 0 {} false 0 ∧ t = { s with arrays := t.arrays } ∧
      ∀ n, SMap.get 0 (t.array p).tiles n = if 64 * tile ≤ n ∧ n < 64 * tile + 64 then 0 else SMap.get 0 (s.array p).tiles n := by
  refine ⟨s.onArray p fun a => a.setTile tile fun _ => 0, ?_, rfl, fun n => ?_⟩
  · simp only [State.runMatrix, hop, Array8.setTile]
  · rw [State.array_onArray ha, if_pos rfl]
    exact Array8.tiles_setElems hp tile (fun _ => 0) 64 n

/-! ### Products and semirings (R58 to R64, R85, R86) -/

section
variable {s : State} {e : MatrixEntry} {p : Nat} {tb : Ty} {at' st : Word} {rows : List (List OpByte)}
  (latched : (s.array p).latched = some tb) (read : s.operandRows e p 0 (rowsAt (p / 8) at' st 64) = .ok rows) (eight : rows.length = 8)
include latched read eight

/-- An unpaired product writes its own array. -/
theorem State.runProduct_one (tile tiles : Nat) (f : Array8 → Nat → List (List OpByte) → Array8 × FFlags) :
    ∃ n dy, s.runProduct e p false tb tile tiles at' st f =
      .done (s.onArray p fun _ => { (f (s.array p) n rows).1 with queue := (s.array p).queue }) 512 (FFlags.or {} (f (s.array p) n rows).2) dy 0 := by
  have read : s.operandRows e p 0 (productRows (p / 8) false at' st) = .ok rows := by
    simp only [productRows, Bool.false_eq_true, if_false, List.append_nil, read]
  have own : rows.take 8 = rows := List.take_of_length_le (Nat.le_of_eq eight)
  refine ⟨2000 + 4000 * (p / 8 % 2), tb == .dy8 && (SMap.getList 0 (s.array p).latch 0 512).any fun b => dyReserved b.toNat, ?_⟩
  simp only [State.runProduct, arraysOf, Bool.false_eq_true, if_false, List.any_cons, List.any_nil, latched, bne_self_eq_false, Bool.or_false, read,
    List.foldl_cons, List.foldl_nil, if_true, own, List.length_cons, List.length_nil]

/-- One that computes each element of an accumulator writes those elements. -/
theorem State.runProduct_cells (ha : SMap.wf Array8.reset s.arrays = true) (tile tiles : Nat) (f : Array8 → Nat → List (List OpByte) → Array8 × FFlags)
    (wide : Bool) (value : Nat → Nat → Nat → Nat) (cells : ∀ n i j, i < 8 → j < 8 → (f (s.array p) n rows).1.acc wide tile (8 * i + j) =
      value i j ((s.array p).acc wide tile (8 * i + j)) % 2 ^ accBits wide) :
    ∃ t bytes fl dy w, s.runProduct e p false tb tile tiles at' st f = .done t bytes fl dy w ∧ t = { s with arrays := t.arrays } ∧ bytes = 512 ∧
      (∀ q, q ≠ p → t.array q = s.array q) ∧
      ∀ i j, i < 8 → j < 8 → (t.array p).acc wide tile (8 * i + j) = value i j ((s.array p).acc wide tile (8 * i + j)) % 2 ^ accBits wide := by
  obtain ⟨n, dy, run⟩ := State.runProduct_one latched read eight tile tiles f
  refine ⟨_, _, _, _, _, run, rfl, rfl, fun q hq => ?_, fun i j hi hj => ?_⟩
  · rw [State.array_onArray ha, if_neg hq]
  · rw [State.array_onArray ha, if_pos rfl, ← cells n i j hi hj]
    rfl

end

section
variable (s : State) (n : Nat) {undef : Nat → Nat → Bool} (hu : ∀ i j, i < 8 → undef i j = false) (value : Nat → Nat → Nat → Nat × FFlags)

/-- The values of one block in their tile, with the flags of the blocks before (R61). -/
def State.blockStep (s : State) (n : Nat) (undef : Nat → Nat → Bool) (value : Nat → Nat → Nat → Nat × FFlags) (acc : Array8 × FFlags) (q : Nat) :
    Array8 × FFlags :=
  ((acc.1.cellwise s (n + 400 * q) false (4 + q) undef fun i j _ => value q i j).1,
    acc.2.or (acc.1.cellwise s (n + 400 * q) false (4 + q) undef fun i j _ => value q i j).2)

theorem State.blockStep_fst (acc : Array8 × FFlags) (q : Nat) : (s.blockStep n undef value acc q).1 =
    (acc.1.cellwise s (n + 400 * q) false (4 + q) undef fun i j _ => value q i j).1 := by
  simp only [State.blockStep]

theorem Array8.multiply_blocks (a : Array8) (ta tb : Ty) (rnd : Rnd) (sat : Bool) (rows : List (List OpByte)) :
    a.multiply s n ta tb 4 rnd sat rows = (List.range 4).foldl (s.blockStep n (fun i _ => rowUndef rows i) fun q i j =>
      partialOf ta rnd sat (((products ta tb (rowVals rows i) (a.column j)).drop (16 * q)).take 16)) (a, {}) := rfl

include hu

theorem State.tiled_blockStep (acc : Array8 × FFlags) (q : Nat) : acc.1.Tiled (s.blockStep n undef value acc q).1 := by
  rw [State.blockStep_fst]
  exact Array8.tiled_cellwise hu acc.1 s (n + 400 * q) false (4 + q) _

theorem State.elem_blockSteps_other (qs : List Nat) {acc : Array8 × FFlags} (h : SMap.wf 0 acc.1.tiles = true) {q k : Nat} (hq : q ∉ qs) (hk : k < 64) :
    (qs.foldl (s.blockStep n undef value) acc).1.elem (4 + q) k = acc.1.elem (4 + q) k := by
  induction qs generalizing acc with
  | nil => rfl
  | cons q' qs ih =>
    obtain ⟨other, rest⟩ := not_or.mp (List.mem_cons.not.mp hq)
    rw [List.foldl_cons, ih ((s.tiled_blockStep n hu value acc q').wf h) rest, State.blockStep_fst]
    exact Array8.elem_cellwise_other h s _ hu (4 + q') _ (by omega) hk

theorem State.elem_blockSteps (qs : List Nat) {acc : Array8 × FFlags} (h : SMap.wf 0 acc.1.tiles = true) (nodup : qs.Nodup) {q i j : Nat} (hq : q ∈ qs)
    (hi : i < 8) (hj : j < 8) :
    (qs.foldl (s.blockStep n undef value) acc).1.elem (4 + q) (8 * i + j) = (value q i j).1 % 2 ^ 32 := by
  induction qs generalizing acc with
  | nil => cases hq
  | cons q' qs ih =>
    obtain ⟨fresh, nodup⟩ := List.nodup_cons.mp nodup
    have wf := (s.tiled_blockStep n hu value acc q').wf h
    rcases List.mem_cons.mp hq with rfl | later
    · rw [List.foldl_cons, State.elem_blockSteps_other s n hu value qs wf fresh (show 8 * i + j < 64 by omega),
        State.blockStep_fst]
      exact Array8.acc_cellwise h s (n + 400 * q) hu false (4 + q) _ hi hj
    · rw [List.foldl_cons, ih wf nodup later]

end

section
variable {a : Array8} (h : SMap.wf 0 a.tiles = true) (s : State) (n : Nat) {rows : List (List OpByte)}
  (defined : ∀ r ∈ rows, ∀ b ∈ r, b.undef = false)
include h defined

/-- A product into an accumulator (R62, R85). -/
theorem Array8.acc_multiply (ta tb : Ty) {tile : Nat} (ht : tile ≠ 4) (rnd : Rnd) (sat : Bool) {i j : Nat} (hi : i < 8) (hj : j < 8) :
    (a.multiply s n ta tb tile rnd sat rows).1.acc (ta == .f64) tile (8 * i + j) =
      (accumulate ta rnd sat (products ta tb (rowVals rows i) (a.column j)) (a.acc (ta == .f64) tile (8 * i + j))).1 % 2 ^ accBits (ta == .f64) := by
  unfold Array8.multiply
  dsimp only
  rw [if_neg ht]
  exact Array8.acc_cellwise h s n (fun i _ _ => rowUndef_eq_false defined i) (ta == .f64) tile _ hi hj

/-- The partials of a product's four blocks, in tiles 4 to 7 (R61, R85). -/
theorem Array8.elem_multiply_blocks (ta tb : Ty) (rnd : Rnd) (sat : Bool) {q i j : Nat} (hq : q < 4) (hi : i < 8) (hj : j < 8) :
    (a.multiply s n ta tb 4 rnd sat rows).1.elem (4 + q) (8 * i + j) =
      (partialOf ta rnd sat (((products ta tb (rowVals rows i) (a.column j)).drop (16 * q)).take 16)).1 % 2 ^ 32 := by
  rw [Array8.multiply_blocks]
  exact State.elem_blockSteps s n (fun i _ _ => rowUndef_eq_false defined i) _ (List.range 4) (acc := (a, {})) h List.nodup_range (List.mem_range.mpr hq) hi hj

/-- The sum or product of two elements as a semiring of F32 takes it (R64). -/
def tropicalTerm (isMax : Bool) (rnd : Rnd) (x : Nat × Nat) : Nat :=
  (Fmt.f32.deliver rnd false
    (if isMax then (Fmt.f32.decode x.1).mul (Fmt.f32.decode x.2) else (Fmt.f32.decode x.1).add rnd (Fmt.f32.decode x.2))).1

theorem Array8.acc_tropical (tile : Nat) (isMax : Bool) (rnd : Rnd) {i j : Nat} (hi : i < 8) (hj : j < 8) :
    (a.tropical s n tile isMax rnd rows).1.acc false tile (8 * i + j) =
      ((rowElems .f32 (rowVals rows i)).zip (rowElems .f32 (a.column j))).foldl
        (fun acc x => (Fmt.f32.pick isMax acc (tropicalTerm isMax rnd x)).1) (a.acc false tile (8 * i + j)) % 2 ^ accBits false := by
  refine (Array8.acc_cellwise h s n (fun i _ _ => rowUndef_eq_false defined i) false tile _ hi hj).trans ?_
  refine congrArg (· % 2 ^ accBits false) ?_
  exact (List.foldl_hom Prod.fst fun _ _ => rfl).symm

theorem Array8.acc_orAnd (tile : Nat) {i j : Nat} (hi : i < 8) (hj : j < 8) :
    (a.orAnd s n tile rows).1.acc false tile (8 * i + j) =
      ((rowElems .n32 (rowVals rows i)).zip (rowElems .n32 (a.column j))).foldl (fun acc x => acc ||| (x.1 &&& x.2))
        (a.acc false tile (8 * i + j)) % 2 ^ accBits false :=
  Array8.acc_cellwise h s n (fun i _ _ => rowUndef_eq_false defined i) false tile _ hi hj

end

/-! ### Latches (R84) -/

theorem getD_flatten {α : Type} (d : α) {n : Nat} {rows : List (List α)} (h : ∀ r ∈ rows, r.length = n) (i : Nat) {j : Nat} (hj : j < n) :
    rows.flatten.getD (n * i + j) d = (rows.getD i []).getD j d := by
  induction rows generalizing i with
  | nil => rfl
  | cons r rows ih =>
    have len := h r List.mem_cons_self
    cases i with
    | zero =>
      rw [List.flatten_cons, List.getD_append _ _ _ _ (by omega)]
      simp
    | succ i =>
      rw [List.flatten_cons, List.getD_append_right _ _ _ _ (by rw [len, Nat.mul_succ]; omega), List.getD_cons_succ,
        ← ih (fun r hr => h r (List.mem_cons_of_mem _ hr)) i]
      congr 1
      rw [len, Nat.mul_succ]
      omega

theorem SMap.get_setList_nil {α : Type} [DecidableEq α] (d : α) (vs : List α) (n : Nat) : SMap.get d (SMap.setList d [] 0 vs) n = vs.getD n d := by
  by_cases inside : n < vs.length
  · rw [List.getD_eq_getElem _ _ inside, ← SMap.get_setList_inside (dflt := d) SMap.wf_nil 0 n vs inside, Nat.zero_add]
  · rw [List.getD_eq_default _ _ (by omega)]
    exact SMap.get_setList_outside SMap.wf_nil 0 n vs (by omega)

/-- An array latches eight rows of bytes as elements of a type. -/
def State.latchRows (s : State) (p : Nat) (t : Ty) (rows : List (List OpByte)) : State :=
  s.onArray p fun a => { a with latch := SMap.setList 0 [] 0 (rows.flatten.map fun b => BitVec.ofNat 8 b.val), latched := some t }

theorem State.latchRows_effect {s : State} (ha : SMap.wf Array8.reset s.arrays = true) (p : Nat) (t : Ty) {rows : List (List OpByte)}
    (wide : ∀ r ∈ rows, r.length = 64) :
    let u := s.latchRows p t rows
    (∀ q, q ≠ p → u.array q = s.array q) ∧ (u.array p).latched = some t ∧ (u.array p).tiles = (s.array p).tiles ∧
      ∀ i j, j < 64 → SMap.get 0 (u.array p).latch (64 * i + j) = BitVec.ofNat 8 ((rowVals rows i).getD j 0) := by
  intro u
  have own : u.array p = { s.array p with latch := SMap.setList 0 [] 0 (rows.flatten.map fun b => BitVec.ofNat 8 b.val), latched := some t } := by
    show (s.latchRows p t rows).array p = _
    rw [State.latchRows, State.array_onArray ha, if_pos rfl]
  refine ⟨fun q hq => ?_, by rw [own], by rw [own], fun i j hj => ?_⟩
  · show (s.latchRows p t rows).array q = _
    rw [State.latchRows, State.array_onArray ha, if_neg hq]
  · rw [own]
    show SMap.get 0 (SMap.setList 0 [] 0 _) (64 * i + j) = _
    rw [SMap.get_setList_nil]
    refine (List.getD_map (d := ({ val := 0, undef := false } : OpByte)) (f := fun b : OpByte => BitVec.ofNat 8 b.val) ..).trans ?_
    rw [getD_flatten _ wide i hj]
    exact congrArg (BitVec.ofNat 8) (List.getD_map (d := ({ val := 0, undef := false } : OpByte)) (f := fun b : OpByte => b.val) ..).symm

/-- A load of an array's own latches from scratch. -/
theorem State.runMatrix_load_scratch {s : State} {p : Nat} {e : MatrixEntry} {t : Ty} {at' st : Word} (hop : e.op = .load true false t at' st)
    {rows : List (List OpByte)} (read : s.operandRows e p 0 (rowsAt (p / 8) at' st 64) = .ok rows) :
    s.runMatrix e p false = .done (s.latchRows p t rows) 512 {} false 0 := by
  simp only [State.runMatrix, hop, State.runLoad, Bool.false_eq_true, if_false, read]
  rfl

/-- The rows that a load from the weight store reads. -/
def State.weightRows (s : State) (p : Nat) (at' st : Word) : List (List OpByte) :=
  (List.range 8).map fun i => (SMap.getList 0 (s.die (p / 384)).weight (at' + word i * st).toNat 64).map fun b => { val := b.toNat, undef := false }

theorem State.runMatrix_load_weight {s : State} {p : Nat} {e : MatrixEntry} {t : Ty} {at' st : Word} (hop : e.op = .load true true t at' st)
    (clean : s.weightPoisoned (p / 384) at' st = none) : s.runMatrix e p false = .done (s.latchRows p t (s.weightRows p at' st)) 512 {} false 0 := by
  simp only [State.runMatrix, hop, State.runLoad, Bool.false_eq_true, if_false, if_true, clean]
  rfl

theorem State.weightRows_length (s : State) (p : Nat) (at' st : Word) : ∀ r ∈ s.weightRows p at' st, r.length = 64 := by
  intro r hr
  obtain ⟨i, -, rfl⟩ := List.mem_map.mp hr
  rw [List.length_map, SMap.getList_eq, List.length_map, List.length_range]

theorem State.weightRows_value (s : State) (p : Nat) (at' st : Word) {i j : Nat} (hi : i < 8) (hj : j < 64) :
    BitVec.ofNat 8 ((rowVals (s.weightRows p at' st) i).getD j 0) = SMap.get 0 (s.die (p / 384)).weight ((at' + word i * st).toNat + j) := by
  have row : rowVals (s.weightRows p at' st) i =
      (List.range 64).map fun j => (SMap.get 0 (s.die (p / 384)).weight ((at' + word i * st).toNat + j)).toNat := by
    unfold rowVals State.weightRows
    rw [List.getD_eq_getElem _ _ (by simpa using hi), List.getElem_map, List.getElem_range, SMap.getList_eq, List.map_map, List.map_map]
    rfl
  rw [row, List.getD_eq_getElem _ _ (by simpa using hj), List.getElem_map, List.getElem_range, BitVec.ofNat_toNat, BitVec.setWidth_eq]

end Sys2Proof.Machine
end

section
/-! SUPPORT. The retirement of a matrix instruction (R76, R77, R79, R81), and O44. -/

namespace Sys2Proof.Machine

/-! ### Tokens (R76, R77) -/

theorem Gang.writeToken_key (g : Gang) (n : Nat) (v : Word) (w : Nat) : (g.writeToken n v w).key = g.key := by
  rw [← Gang.resultG_key g n v]
  unfold Gang.writeToken
  split <;> split <;> rfl

theorem Gang.writeToken_gPending (g : Gang) (n : Nat) (v : Word) (w : Nat) : (g.writeToken n v w).gPending = g.gPending.erase n := by
  unfold Gang.writeToken
  split <;> split <;> rfl

theorem Gang.lane_writeToken (g : Gang) (n : Nat) (v : Word) (w k : Nat) : (g.writeToken n v w).lane k = (g.lane k).forget (.g n) := by
  rw [← Gang.lane_resultG g n v k]
  unfold Gang.writeToken
  split <;> split <;> rfl

theorem Gang.getG_writeToken {g : Gang} (h : SMap.wf 0 g.g = true) (n m : Nat) (v : Word) (w : Nat) :
    (g.writeToken n v w).getG m = if m = n ∧ n ≠ 0 then v else g.getG m := by
  rw [← Gang.getG_resultG h n m v]
  unfold Gang.writeToken
  split <;> split <;> rfl

theorem Gang.writeFailed_eq {g : Gang} {n : Nat} (hn : 0 < n) (c : Cause) (bytes : Nat) (addr : Word) (w : Nat) :
    g.writeFailed n c bytes addr w =
      { g.writeToken n (failedOf c bytes) w with gFailed := (n, addr) :: (g.writeToken n (failedOf c bytes) w).gFailed } := by
  unfold Gang.writeFailed
  rw [if_neg (by omega)]

/-! ### The end of an operation -/

/-- An operation's end concerns a gang of which a live lane waits for a phase; no other gang. -/
theorem State.opEnded_idle {t : State} {key : Nat} (idle : ∀ k < 32, ∀ q m n, ((t.gangAt key).lane k).wait ≠ .phase q m n) : t.opEnded key = t := by
  unfold State.opEnded
  refine if_neg ?_
  rw [Bool.not_eq_true, List.any_eq_false]
  intro k hk
  have below : k < 32 := List.mem_range.mp (List.mem_filter.mp hk).1
  have quiet := idle k below
  cases hw : ((t.gangAt key).lane k).wait with
  | phase q m n => exact absurd hw (quiet q m n)
  | _ => simp

/-- The queue's oldest entry leaves it, where the tiles that its reader did not write are put back (R81). -/
theorem State.array_popMatrix_overtook {s : State} (h : SMap.wf Array8.reset s.arrays = true) (p : Nat) (was : Array8) (ts : List Nat) (q : Nat) :
    ((s.overtook p was ts).popMatrix p).array q =
      if q = p then { (s.overtook p was ts).array p with queue := (s.array p).queue.drop 1 } else s.array q := by
  have wf : SMap.wf Array8.reset (s.overtook p was ts).arrays = true := SMap.wf_set h p _
  have queue : ((s.overtook p was ts).array p).queue = (s.array p).queue := by
    rw [State.overtook_eq, State.array_onArray h, if_pos rfl, (Array8.tiled_setTiles (s.array p) ts was.elem).rest]
  unfold State.popMatrix
  rw [State.array_onArray wf, queue]
  split
  · rfl
  · next other => rw [State.overtook_eq, State.array_onArray h, if_neg other]

/-- What the issuing gang takes from an operation that is done (R50, R56, R76), before its end is told. -/
def State.retiredTo (s : State) (e : MatrixEntry) (bytes : Nat) (fl : FFlags) (dy : Bool) (w : Nat) : State :=
  let s2 := s.onThread e.gang (lowest e.lanes) fun t => (t.raise fl).sawReserved dy
  match e.token with
  | some n => s2.onGang e.gang fun g => g.writeToken n (tokenOf bytes) w
  | none => s2

/-- A thread sees a token written. -/
def MatrixEntry.seen (e : MatrixEntry) (t : Thread) : Thread := match e.token with | some m => t.forget (.g m) | none => t

theorem State.retiredTo_rest (s : State) (e : MatrixEntry) (bytes : Nat) (fl : FFlags) (dy : Bool) (w : Nat) :
    s.retiredTo e bytes fl dy w = { s with gangs := (s.retiredTo e bytes fl dy w).gangs } := by
  unfold State.retiredTo
  cases e.token <;> rfl

/-- The gangs once an operation is done: its flags reach the issuing thread, its token the bytes; nothing else changes. -/
theorem State.retiredTo_gangs {s v : State} {e : MatrixEntry} (h : s.Lane e.gang (lowest e.lanes)) (gangs : v.gangs = s.gangs) (bytes : Nat) (fl : FFlags)
    (dy : Bool) (w : Nat) :
    let t := v.retiredTo e bytes fl dy w
    let g := s.gangAt e.gang
    (∀ key, key ≠ e.gang → t.gangAt key = s.gangAt key) ∧
      (t.gangAt e.gang).lane (lowest e.lanes) = e.seen (((g.lane (lowest e.lanes)).raise fl).sawReserved dy) ∧
      (∀ j, j ≠ lowest e.lanes → (t.gangAt e.gang).lane j = e.seen (g.lane j)) ∧
      (e.token = none → ∀ n, (t.gangAt e.gang).getG n = g.getG n) ∧
      ∀ m, e.token = some m → (t.gangAt e.gang).gPending = g.gPending.erase m ∧
        ∀ n, (t.gangAt e.gang).getG n = if n = m ∧ n ≠ 0 then tokenOf bytes else g.getG n := by
  intro t g
  obtain ⟨only, low⟩ := State.onThread_only (v := v) (t := v.onThread e.gang (lowest e.lanes) fun t => (t.raise fl).sawReserved dy) h gangs _ rfl
  have resident : (v.onThread e.gang (lowest e.lanes) fun t => (t.raise fl).sawReserved dy).resident e.gang = true := by
    have kept := State.resident_onGang v (key := e.gang) (fun g => g.onLanes (laneMask (lowest e.lanes)) fun _ t => (t.raise fl).sawReserved dy)
      (fun _ _ => rfl) e.gang
    refine kept.trans ?_
    unfold State.resident
    rw [gangs]
    exact h.resident
  obtain ⟨others, same, lanes⟩ := only
  have regs : ((v.onThread e.gang (lowest e.lanes) fun t => (t.raise fl).sawReserved dy).gangAt e.gang).g = g.g := by rw [same]
  have pending : ((v.onThread e.gang (lowest e.lanes) fun t => (t.raise fl).sawReserved dy).gangAt e.gang).gPending = g.gPending := by rw [same]
  have read : ∀ n, ((v.onThread e.gang (lowest e.lanes) fun t => (t.raise fl).sawReserved dy).gangAt e.gang).getG n = g.getG n := fun n => by
    unfold Gang.getG; rw [regs]
  have taken : t = v.retiredTo e bytes fl dy w := rfl
  unfold State.retiredTo at taken
  dsimp only at taken
  generalize (v.onThread e.gang (lowest e.lanes) fun t => (t.raise fl).sawReserved dy) = u at others low lanes resident regs pending read taken
  unfold MatrixEntry.seen
  cases ht : e.token with
  | none =>
    simp only [ht] at taken
    rw [taken]
    exact ⟨others, low, lanes, fun _ => read, nofun⟩
  | some m =>
    simp only [ht] at taken
    have own : t.gangAt e.gang = (u.gangAt e.gang).writeToken m (tokenOf bytes) w := by
      rw [taken]; exact State.gangAt_onGang resident _ fun g _ => Gang.writeToken_key g _ _ _
    have canonical : SMap.wf 0 (u.gangAt e.gang).g = true := by rw [regs]; exact h.canonical.regs
    refine ⟨fun key hk => ?_, by rw [own, Gang.lane_writeToken, low], fun j hj => by rw [own, Gang.lane_writeToken, lanes j hj], nofun,
      fun m' hm => ?_⟩
    · rw [taken, State.gangAt_onGang_other u _ (fun g _ => Gang.writeToken_key g _ _ _) hk]
      exact others key hk
    · obtain rfl : m = m' := Option.some.inj hm
      refine ⟨by rw [own, Gang.writeToken_gPending, pending], fun n => ?_⟩
      rw [own, Gang.getG_writeToken canonical, read]
      exact if_congr ⟨fun ⟨a, b⟩ => ⟨a, a ▸ b⟩, fun ⟨a, b⟩ => ⟨a, a ▸ b⟩⟩ rfl rfl

/-! ### Retirement (R79) -/

section
variable {s : State} {p : Nat} {e : MatrixEntry} {rest : List MatrixEntry} (hq : (s.array p).queue = e :: rest)
include hq

theorem State.matrixRetire_held (held : s.matrixHeld e p = true) : s.matrixRetire p false = s := by
  simp only [State.matrixRetire, hq, held, if_true]

variable (free : s.matrixHeld e p = false)
include free

theorem State.matrixRetire_fault {f : PageFault} {acc : Access} (run : (s.overtake p (s.overtaken p)).runMatrix e p false = .fault f acc) :
    s.matrixRetire p false = s.sendFault (.matrix p) e.gang e.lanes { f with info := f.info + 2 ^ 14 } acc e.pc e.priv none := by
  simp only [State.matrixRetire, hq, free, Bool.false_eq_true, if_false, run, engineFault]

/-- The tiles that a reader did not write, put back (R81). -/
def State.putBack (s s1 : State) (e : MatrixEntry) (p : Nat) : State :=
  s1.overtook p (s.array p) ((s.overtaken p).filter fun t => !e.op.tilesWritten.contains t)

theorem State.matrixRetire_failed {s1 : State} {cause : Cause} {addr bytes : Word} {m : Nat}
    (run : (s.overtake p (s.overtaken p)).runMatrix e p false = .failed s1 cause addr bytes) (token : e.token = some m) :
    s.matrixRetire p false =
      ((((if cause = .poison then (s.putBack s1 e p).logOperand e p addr else s.putBack s1 e p).popMatrix p).onGang e.gang
        fun g => g.writeFailed m cause bytes.toNat addr 0).opEnded e.gang) := by
  simp only [State.matrixRetire, hq, free, Bool.false_eq_true, if_false, run, State.failMatrix, token, State.putBack]

theorem State.matrixRetire_done {s1 : State} {bytes : Nat} {fl : FFlags} {dy : Bool} {w : Nat}
    (run : (s.overtake p (s.overtaken p)).runMatrix e p false = .done s1 bytes fl dy w) :
    s.matrixRetire p false = (((s.putBack s1 e p).popMatrix p).retiredTo e bytes fl dy w).opEnded e.gang := by
  simp only [State.matrixRetire, hq, free, Bool.false_eq_true, if_false, run]
  rfl

end

theorem State.logOperand_rest (s : State) (e : MatrixEntry) (p : Nat) (addr : Word) :
    s.logOperand e p addr = { s with vlogs := (s.logOperand e p addr).vlogs } := by
  unfold State.logOperand
  split
  · exact State.logBanks_rest s _ _ _
  · rfl

/-- What a failed operation leaves (R76, R77): its entry gone from the queue, its token written with its record, and at most a log. -/
theorem State.failed_effect {s s1 : State} (h : SMap.wf Array8.reset s1.arrays = true) (e : MatrixEntry) (p : Nat) (resident : s1.resident e.gang = true)
    (canonical : (s1.gangAt e.gang).Canonical) (cause : Cause) (addr bytes : Word) {m : Nat} (hm : 0 < m) :
    let t := ((if cause = .poison then (s.putBack s1 e p).logOperand e p addr else s.putBack s1 e p).popMatrix p).onGang e.gang
      fun g => g.writeFailed m cause bytes.toNat addr 0
    t = { s1 with arrays := t.arrays, gangs := t.gangs, vlogs := t.vlogs } ∧ (t.array p).queue = (s1.array p).queue.drop 1 ∧
      (t.gangAt e.gang).gPending = (s1.gangAt e.gang).gPending.erase m ∧
      (∀ n, (t.gangAt e.gang).getG n = if n = m then word (2 ^ 63 + cause.code * 2 ^ 56 + bytes.toNat % 2 ^ 48) else (s1.gangAt e.gang).getG n) ∧
      (m, addr) ∈ (t.gangAt e.gang).gFailed := by
  intro t
  have logged : ∃ u : State, (if cause = .poison then (s.putBack s1 e p).logOperand e p addr else s.putBack s1 e p) = u ∧
      u = { s.putBack s1 e p with vlogs := u.vlogs } := by
    refine ⟨_, rfl, ?_⟩
    split
    · exact State.logOperand_rest _ _ _ _
    · rfl
  obtain ⟨u, hu, rest⟩ := logged
  have after : t = (u.popMatrix p).onGang e.gang fun g => g.writeFailed m cause bytes.toNat addr 0 := by rw [← hu]
  have gangs : u.gangs = s1.gangs := by rw [rest]; rfl
  have own : t.gangAt e.gang = (s1.gangAt e.gang).writeFailed m cause bytes.toNat addr 0 := by
    have there : (u.popMatrix p).resident e.gang = true := by
      show u.gangs.any _ = true
      rw [gangs]
      exact resident
    rw [after, State.gangAt_onGang there _ fun g _ => by rw [Gang.writeFailed_eq hm]; exact Gang.writeToken_key g _ _ _,
      State.gangAt_congr (show (u.popMatrix p).gangs = s1.gangs from gangs)]
  have queue : (t.array p).queue = (s1.array p).queue.drop 1 := by
    have arrays : u.arrays = (s.putBack s1 e p).arrays := by rw [rest]
    have pop : t.array p = ((s.putBack s1 e p).popMatrix p).array p := by
      rw [after]
      show SMap.get Array8.reset (SMap.set Array8.reset u.arrays p _) p = SMap.get Array8.reset (SMap.set Array8.reset (s.putBack s1 e p).arrays p _) p
      unfold State.array
      rw [arrays]
    rw [pop, State.putBack, State.array_popMatrix_overtook h, if_pos rfl]
  rw [own, Gang.writeFailed_eq hm]
  refine ⟨by rw [after, rest]; rfl, queue, Gang.writeToken_gPending _ _ _ _, fun n => ?_, List.mem_cons_self⟩
  refine (Gang.getG_writeToken canonical.regs m n _ 0).trans ?_
  exact if_congr (and_iff_left (by omega)) rfl rfl

end Sys2Proof.Machine
end

section
/-! SUPPORT. The proof of O44: what an array's operations compute, and what their retirement leaves. -/

namespace Sys2Proof.Machine

/-! ### Operations that read eight rows of scratch (R58 to R65, R84 to R86) -/

section
variable {s : State} {e : MatrixEntry} {p : Nat} {at' st : Word} {rows : List (List OpByte)}
  (ha : SMap.wf Array8.reset s.arrays = true) (hp : SMap.wf 0 (s.array p).tiles = true)
  (read : s.operandRows e p 0 (rowsAt (p / 8) at' st 64) = .ok rows) (eight : rows.length = 8) (defined : ∀ r ∈ rows, ∀ b ∈ r, b.undef = false)

/-- The elements of an accumulator of an array are computed, each from its old value, and nothing else changes but its own array's tiles and latches. -/
def State.Cells (s : State) (e : MatrixEntry) (p : Nat) (wide : Bool) (tile : Nat) (value : Nat → Nat → Nat → Nat) : Prop :=
  ∃ t bytes fl dy w, s.runMatrix e p false = .done t bytes fl dy w ∧ t = { s with arrays := t.arrays } ∧ bytes = 512 ∧
    (∀ q, q ≠ p → t.array q = s.array q) ∧
    ∀ i j, i < 8 → j < 8 → (t.array p).acc wide tile (8 * i + j) = value i j ((s.array p).acc wide tile (8 * i + j)) % 2 ^ accBits wide

theorem State.runMatrix_mul_other {ta tb : Ty} {tile : Nat} {rnd : Rnd} {sat : Bool} (hop : e.op = .mul false ta tb tile at' st rnd sat)
    (other : (s.array p).latched ≠ some tb) : s.runMatrix e p false = .failed s .illegalInsn s.freeAddr 0 := by
  have differs : ((s.array p).latched != some tb) = true := bne_iff_ne.mpr other
  simp only [State.runMatrix, hop, State.runProduct, arraysOf, Bool.false_eq_true, if_false, List.any_cons, differs, Bool.true_or, if_true]

theorem State.runMatrix_mul {ta tb : Ty} {tile : Nat} {rnd : Rnd} {sat : Bool} (hop : e.op = .mul false ta tb tile at' st rnd sat) :
    s.runMatrix e p false = s.runProduct e p false tb tile (if tile = 4 then 4 else if ta = .f64 then 2 else 1) at' st fun x n rows =>
      x.multiply s n ta tb tile rnd sat rows := by
  simp only [State.runMatrix, hop]

include ha read eight in
/-- A product that computes each element of an accumulator from its old value. -/
theorem State.cells_of_runProduct {tb : Ty} (wide : Bool) {tile tiles : Nat} {f : Array8 → Nat → List (List OpByte) → Array8 × FFlags}
    (run : s.runMatrix e p false = s.runProduct e p false tb tile tiles at' st f) (latched : (s.array p).latched = some tb) (value : Nat → Nat → Nat → Nat)
    (cells : ∀ n i j, i < 8 → j < 8 → (f (s.array p) n rows).1.acc wide tile (8 * i + j) =
      value i j ((s.array p).acc wide tile (8 * i + j)) % 2 ^ accBits wide) : s.Cells e p wide tile value := by
  unfold State.Cells
  rw [run]
  exact State.runProduct_cells latched read eight ha tile tiles f wide value cells

include ha hp read eight defined

theorem State.cells_mul {ta tb : Ty} {tile : Nat} {rnd : Rnd} {sat : Bool} (hop : e.op = .mul false ta tb tile at' st rnd sat) (ht : tile ≠ 4)
    (latched : (s.array p).latched = some tb) : s.Cells e p (ta == .f64) tile fun i j old =>
      (accumulate ta rnd sat (products ta tb (rowVals rows i) ((s.array p).column j)) old).1 :=
  State.cells_of_runProduct ha read eight _ (State.runMatrix_mul hop) latched _ fun n _ _ hi hj => Array8.acc_multiply hp s n defined ta tb ht rnd sat hi hj

theorem State.runMatrix_blocks {ta tb : Ty} {tile : Nat} {rnd : Rnd} {sat : Bool} (hop : e.op = .mul false ta tb tile at' st rnd sat) (ht : tile = 4)
    (latched : (s.array p).latched = some tb) :
    ∃ t fl dy w, s.runMatrix e p false = .done t 512 fl dy w ∧ (∀ q, q ≠ p → t.array q = s.array q) ∧ ∀ q i j, q < 4 → i < 8 → j < 8 →
      (t.array p).elem (4 + q) (8 * i + j) =
        (partialOf ta rnd sat (((products ta tb (rowVals rows i) ((s.array p).column j)).drop (16 * q)).take 16)).1 % 2 ^ 32 := by
  obtain ⟨n, dy, run⟩ := State.runProduct_one latched read eight tile (if tile = 4 then 4 else if ta = .f64 then 2 else 1)
    fun x n rows => x.multiply s n ta tb tile rnd sat rows
  refine ⟨_, _, _, _, (State.runMatrix_mul hop).trans run, fun q hq => by rw [State.array_onArray ha, if_neg hq], fun q i j hq hi hj => ?_⟩
  have block : ((s.array p).multiply s n ta tb tile rnd sat rows).1.elem (4 + q) (8 * i + j) =
      (partialOf ta rnd sat (((products ta tb (rowVals rows i) ((s.array p).column j)).drop (16 * q)).take 16)).1 % 2 ^ 32 := by
    rw [ht]
    exact Array8.elem_multiply_blocks hp s n defined ta tb rnd sat hq hi hj
  rw [State.array_onArray ha, if_pos rfl]
  exact block

theorem State.cells_minPlus {tile : Nat} {rnd : Rnd} (hop : e.op = .minPlus false tile at' st rnd) (latched : (s.array p).latched = some .f32) :
    s.Cells e p false tile fun i j old => ((rowElems .f32 (rowVals rows i)).zip (rowElems .f32 ((s.array p).column j))).foldl
      (fun acc x => (Fmt.f32.pick false acc (tropicalTerm false rnd x)).1) old := by
  have run : s.runMatrix e p false = s.runProduct e p false .f32 tile 1 at' st fun x n rows => x.tropical s n tile false rnd rows := by
    simp only [State.runMatrix, hop]
  exact State.cells_of_runProduct ha read eight _ run latched _ fun n _ _ hi hj => Array8.acc_tropical hp s n defined tile false rnd hi hj

theorem State.cells_maxTimes {tile : Nat} {rnd : Rnd} (hop : e.op = .maxTimes false tile at' st rnd) (latched : (s.array p).latched = some .f32) :
    s.Cells e p false tile fun i j old => ((rowElems .f32 (rowVals rows i)).zip (rowElems .f32 ((s.array p).column j))).foldl
      (fun acc x => (Fmt.f32.pick true acc (tropicalTerm true rnd x)).1) old := by
  have run : s.runMatrix e p false = s.runProduct e p false .f32 tile 1 at' st fun x n rows => x.tropical s n tile true rnd rows := by
    simp only [State.runMatrix, hop]
  exact State.cells_of_runProduct ha read eight _ run latched _ fun n _ _ hi hj => Array8.acc_tropical hp s n defined tile true rnd hi hj

theorem State.cells_orAnd {tile : Nat} (hop : e.op = .orAnd false tile at' st) (latched : (s.array p).latched = some .n32) :
    s.Cells e p false tile fun i j old => ((rowElems .n32 (rowVals rows i)).zip (rowElems .n32 ((s.array p).column j))).foldl
      (fun acc x => acc ||| (x.1 &&& x.2)) old := by
  have run : s.runMatrix e p false = s.runProduct e p false .n32 tile 1 at' st fun x n rows => x.orAnd s n tile rows := by
    simp only [State.runMatrix, hop]
  exact State.cells_of_runProduct ha read eight _ run latched _ fun n _ _ hi hj => Array8.acc_orAnd hp s n defined tile hi hj

end

theorem accumulate_fst (ta : Ty) (rnd : Rnd) (sat : Bool) (ps : List FV) (old : Nat) : (accumulate ta rnd sat ps old).1 =
    if ta.isInt then narrowTo true 32 sat (intSum ps + signedOf 32 old)
    else ((if ta = .f64 then Fmt.f64 else Fmt.f32).deliver rnd sat (sumAll rnd (ps ++ [(if ta = .f64 then Fmt.f64 else Fmt.f32).decode old]))).1 := by
  unfold accumulate
  cases ta.isInt <;> simp only [if_true, if_false, Bool.false_eq_true]

theorem partialOf_fst (ta : Ty) (rnd : Rnd) (sat : Bool) (ps : List FV) : (partialOf ta rnd sat ps).1 =
    if ta.isInt then (Fmt.f32.deliver rnd sat (.fin (decide (intSum ps < 0)) (intSum ps).natAbs 0)).1 else (Fmt.f32.deliver rnd sat (sumAll rnd ps)).1 := by
  unfold partialOf
  cases ta.isInt <;> simp only [if_true, if_false, Bool.false_eq_true]

/-- One element of a fold of scales (R63, R87), in its order of rounding. -/
theorem foldScale_fst (rnd : Rnd) (sat : Bool) (x srow scol q old : Nat) :
    let f := Fmt.f32
    let sv := (f.deliver rnd sat ((f.decode srow).mul (f.decode scol))).1
    let t := if x = 0xFF then f.nan else (f.deliver rnd sat (((f.decode sv).mul (e8sDecode x)).mul (f.decode q))).1
    (foldScale rnd sat x srow scol q old).1 = (f.deliver rnd sat ((f.decode old).add rnd (f.decode t))).1 := by
  intro f sv t
  unfold foldScale
  by_cases nan : x = 0xFF
  · simp only [t, if_pos nan]
    rfl
  · simp only [t, if_neg nan]
    rfl

/-- Settles O44: an array's operations through their effects on single elements, and retirement through what the issuing gang takes. -/
theorem matrixRetirement : Obligations.MatrixRetirement := by
  unfold Obligations.MatrixRetirement
  intro s p e rest ha hp hq a key low seen others v back idle
  have ended : ∀ t : State, idle t → t.opEnded key = t := fun t => State.opEnded_idle
  refine ⟨fun none => ?_, fun t _ ht k hk => State.elem_overtake ha hp ht hk, fun held => congrArg Host.Outcome.next (State.matrixRetire_held hq held),
    fun f acc free run => congrArg Host.Outcome.next (State.matrixRetire_fault hq free run), ?_, ?_,
    fun tile hop => State.runMatrix_zero ha hp hop, ?_, ?_, foldScale_fst⟩
  · show s.overtake p others = s
    rw [none, State.overtake_nil ha]
  · intro s1 cause addr bytes m free run token hm resident canonical wf
    have effect := State.failed_effect (s := s) wf e p resident canonical cause addr bytes hm
    exact ⟨_, congrArg Host.Outcome.next (State.matrixRetire_failed hq free run token), ended _, effect⟩
  · intro s1 bytes fl dy w free run resident canonical below wf u
    obtain ⟨others', lowest', lanes, plain, token⟩ := State.retiredTo_gangs (v := (s.putBack s1 e p).popMatrix p) ⟨resident, canonical, below⟩ rfl bytes fl dy w
    have after := State.retiredTo_rest ((s.putBack s1 e p).popMatrix p) e bytes fl dy w
    have arrays : ∀ q, (((s.putBack s1 e p).popMatrix p).retiredTo e bytes fl dy w).array q = ((s.putBack s1 e p).popMatrix p).array q := fun q => by
      rw [after]; rfl
    refine ⟨_, congrArg Host.Outcome.next (State.matrixRetire_done hq free run), ended _, ?_, fun q => ?_, others', lowest', fun j _ hj => lanes j hj,
      plain, token⟩
    · rw [after]; rfl
    · rw [arrays]
      exact State.array_popMatrix_overtook wf p _ _ q
  · intro rows at' st read eight defined row cellsOf fp
    refine ⟨fun ta tb tile rnd sat hop other => State.runMatrix_mul_other hop other, fun ta tb tile rnd sat hop small _ latched => ?_,
      fun ta tb rnd sat hop latched => ?_, fun tile rnd hop _ latched => State.cells_minPlus ha hp read eight defined hop latched,
      fun tile rnd hop _ latched => State.cells_maxTimes ha hp read eight defined hop latched,
      fun tile hop _ latched => State.cells_orAnd ha hp read eight defined hop latched, fun t hop _ full => ?_⟩
    · obtain ⟨t, bytes, fl, dy, w, run, same, count, arrays, cells⟩ := State.cells_mul ha hp read eight defined hop (by omega) latched
      refine ⟨t, bytes, fl, dy, w, run, same, count, arrays, fun i j hi hj => ?_⟩
      refine (cells i j hi hj).trans (congrArg (· % 2 ^ accBits (ta == .f64)) ?_)
      exact accumulate_fst ta rnd sat _ _
    · obtain ⟨t, fl, dy, w, run, arrays, cells⟩ := State.runMatrix_blocks ha hp read eight defined hop rfl latched
      refine ⟨t, fl, dy, w, run, arrays, fun q i j hq hi hj => ?_⟩
      refine (cells q i j hq hi hj).trans (congrArg (· % 2 ^ 32) ?_)
      exact partialOf_fst ta rnd sat _
    · obtain ⟨arrays, latched, tiles, latch⟩ := State.latchRows_effect ha p t (rows := rows) fun r hr => (full r hr).1
      exact ⟨_, State.runMatrix_load_scratch hop read, arrays, latched, tiles, fun i j _ hj => latch i j hj⟩
  · intro t at' st hop _ clean
    obtain ⟨arrays, latched, tiles, latch⟩ := State.latchRows_effect ha p t (s.weightRows_length p at' st)
    refine ⟨_, State.runMatrix_load_weight hop clean, rfl, arrays, latched, tiles, fun i j hi hj => ?_⟩
    rw [latch i j hj, State.weightRows_value s p at' st hi hj]

end Sys2Proof.Machine
end

section
/-! SUPPORT. Rounds of mask registers, bundles that split, and threads that end (R103 to R109, R132). -/

namespace Sys2Proof.Machine

/-! ### Threads of the gang of a slot -/

theorem State.resident_onLanes (s : State) (key : Nat) (m : Mask) (f : Nat → Thread → Thread) (key' : Nat) :
    (s.onLanes key m f).resident key' = s.resident key' := State.resident_onGang s (fun g => g.onLanes m f) (fun _ _ => rfl) key'

theorem State.gangAt_onLanes {s : State} {key : Nat} (h : s.resident key = true) (m : Mask) (f : Nat → Thread → Thread) :
    (s.onLanes key m f).gangAt key = (s.gangAt key).onLanes m f := State.gangAt_onGang h (fun g => g.onLanes m f) fun _ _ => rfl

/-! ### Mask registers (R108) -/

/-- A gang has its 32 lanes, and its mask registers are in canonical form. -/
structure Gang.Tabled (g : Gang) : Prop where
  whole : g.threads.length = 32
  m : SMap.wf 0 g.m = true
  arrive : SMap.wf 0 g.arrive = true

theorem Gang.Canonical.tabled {g : Gang} (h : g.Canonical) : g.Tabled := ⟨h.whole, h.m, h.arrive⟩

/-- Of a gang only member masks, arrival masks and threads change. -/
def Gang.OnlyMasks (g h : Gang) : Prop := h = { g with m := h.m, arrive := h.arrive, threads := h.threads }

theorem Gang.OnlyMasks.refl (g : Gang) : g.OnlyMasks g := rfl

theorem Gang.OnlyMasks.trans {f g h : Gang} (a : f.OnlyMasks g) (b : g.OnlyMasks h) : f.OnlyMasks h := by
  unfold Gang.OnlyMasks at *
  rw [b, a]

theorem Gang.OnlyMasks.key {g h : Gang} (a : g.OnlyMasks h) : h.key = g.key := by rw [a]

theorem Gang.onlyMasks_onLanes (g : Gang) (m : Mask) (f : Nat → Thread → Thread) : g.OnlyMasks (g.onLanes m f) := rfl

theorem Gang.Tabled.onLanes {g : Gang} (h : g.Tabled) (m : Mask) (f : Nat → Thread → Thread) : (g.onLanes m f).Tabled :=
  ⟨(g.onLanes_length m f).trans h.whole, h.m, h.arrive⟩

theorem Gang.Tabled.setM {g : Gang} (h : g.Tabled) (K : Nat) (v : Mask) : (g.setM K v).Tabled := ⟨h.whole, SMap.wf_set h.m K v, h.arrive⟩

theorem Gang.Tabled.setA {g : Gang} (h : g.Tabled) (K : Nat) (v : Mask) : (g.setA K v).Tabled := ⟨h.whole, h.m, SMap.wf_set h.arrive K v⟩

theorem Gang.getM_setM {g : Gang} (h : g.Tabled) (K n : Nat) (v : Mask) : (g.setM K v).getM n = if n = K then v else g.getM n :=
  SMap.get_set h.m K n v

theorem Gang.getA_setA {g : Gang} (h : g.Tabled) (K n : Nat) (v : Mask) : (g.setA K v).getA n = if n = K then v else g.getA n :=
  SMap.get_set h.arrive K n v

/-- A mask register's round completes with an arrival mask and a member mask (R108). -/
theorem completes_iff {a m : Mask} : completes a m = true ↔ a ≠ 0 ∧ a = m := by simp [completes]

/-- A thread that the completion of a round of mask register K lets go on (R108, R124). -/
def Thread.letGo (t : Thread) (K : Nat) : Thread :=
  if t.cond = .held K then { t.release with cond := .runnable } else if t.wait = .mask K then t.release else t

theorem Thread.letGo_eq (t : Thread) (K : Nat) : t.letGo K =
    if t.heldAt K = true then { t.released with cond := if t.cond = .held K then .runnable else t.cond } else t := by
  unfold Thread.letGo Thread.heldAt
  by_cases held : t.cond = .held K
  · simp [held, Thread.release, Thread.released]
  · by_cases waits : t.wait = .mask K <;> simp [held, waits, Thread.release, Thread.released]

/-- A thread that is held nowhere goes on as it was. -/
theorem Thread.letGo_of_free {t : Thread} (hc : ∀ K, t.cond ≠ .held K) (hw : t.wait = .no) (K : Nat) : t.letGo K = t := by
  simp [Thread.letGo, hc K, hw]

theorem Thread.letGo_of_held {t : Thread} {K : Nat} (hc : t.cond = .held K) (hw : t.wait = .no) (J : Nat) :
    t.letGo J = if J = K then t.released else t := by
  by_cases e : J = K
  · subst e
    simp [Thread.letGo, hc, Thread.release, Thread.released]
  · have other : Cond.held K ≠ .held J := fun h => e (Cond.held.inj h).symm
    simp [Thread.letGo, hc, hw, other, e]

theorem Gang.lane_releaseHeld {g : Gang} (h : g.Tabled) (K : Nat) (m : Mask) (k : Nat) :
    (g.releaseHeld K m).lane k = if m.getLsbD k then (g.lane k).letGo K else g.lane k :=
  Gang.lane_onLanes h.whole m _ k

theorem Gang.onlyMasks_maskCheck (g : Gang) (K : Nat) : g.OnlyMasks (g.maskCheck K) := by
  unfold Gang.maskCheck
  split <;> rfl

theorem Gang.Tabled.maskCheck {g : Gang} (h : g.Tabled) (K : Nat) : (g.maskCheck K).Tabled := by
  unfold Gang.maskCheck
  split
  · exact (h.setA K 0).onLanes _ _
  · exact h

theorem Gang.getM_maskCheck (g : Gang) (K n : Nat) : (g.maskCheck K).getM n = g.getM n := by
  unfold Gang.maskCheck
  split <;> rfl

theorem Gang.getA_maskCheck {g : Gang} (h : g.Tabled) (K n : Nat) :
    (g.maskCheck K).getA n = if n = K then (if g.getA K ≠ 0 ∧ g.getA K = g.getM K then 0 else g.getA K) else g.getA n := by
  unfold Gang.maskCheck
  simp only [completes_iff]
  split
  · exact Gang.getA_setA h K n 0
  · by_cases e : n = K <;> simp [e]

/-- The completion check lets go every thread that is held at the register, where its round completes (R108). -/
theorem Gang.lane_maskCheck {g : Gang} (h : g.Tabled) (K : Nat) {k : Nat} (hk : k < 32) :
    (g.maskCheck K).lane k = if g.getA K ≠ 0 ∧ g.getA K = g.getM K then (g.lane k).letGo K else g.lane k := by
  unfold Gang.maskCheck
  simp only [completes_iff]
  split
  · rw [Gang.lane_releaseHeld (h.setA K 0), BitVec.getLsbD_allOnes, decide_eq_true hk, if_pos rfl]
    rfl
  · rfl

/-! ### Lanes that leave every mask (R109) -/

/-- The round of a mask register that some lanes leave completes (R109). -/
def Gang.leftDone (g : Gang) (m : Mask) (K : Nat) : Prop := g.getA K &&& ~~~m ≠ 0 ∧ g.getA K &&& ~~~m = g.getM K &&& ~~~m

/-- A mask register without some lanes, before its completion check. -/
def Gang.without (g : Gang) (K : Nat) (m : Mask) : Gang := (g.setM K (g.getM K &&& ~~~m)).setA K (g.getA K &&& ~~~m)

theorem Gang.Tabled.without {g : Gang} (h : g.Tabled) (K : Nat) (m : Mask) : (g.without K m).Tabled := (h.setM K _).setA K _

theorem Gang.getM_without {g : Gang} (h : g.Tabled) (K n : Nat) (m : Mask) :
    (g.without K m).getM n = if n = K then g.getM K &&& ~~~m else g.getM n := Gang.getM_setM h K n _

theorem Gang.getA_without {g : Gang} (h : g.Tabled) (K n : Nat) (m : Mask) :
    (g.without K m).getA n = if n = K then g.getA K &&& ~~~m else g.getA n := Gang.getA_setA (h.setM K _) K n _

theorem Gang.leave_eq (g : Gang) (K : Nat) (m : Mask) : g.leave K m = (g.without K m).maskCheck K := rfl

theorem Gang.getM_leave {g : Gang} (h : g.Tabled) (K n : Nat) (m : Mask) :
    (g.leave K m).getM n = if n = K then g.getM K &&& ~~~m else g.getM n := by
  rw [Gang.leave_eq, Gang.getM_maskCheck, Gang.getM_without h]

open Classical in
theorem Gang.getA_leave {g : Gang} (h : g.Tabled) (K n : Nat) (m : Mask) :
    (g.leave K m).getA n = if n = K then (if g.leftDone m K then 0 else g.getA K &&& ~~~m) else g.getA n := by
  rw [Gang.leave_eq, Gang.getA_maskCheck (h.without K m), Gang.getA_without h, Gang.getA_without h, Gang.getM_without h, if_pos rfl, if_pos rfl]
  unfold Gang.leftDone
  by_cases e : n = K <;> simp [e]

open Classical in
theorem Gang.lane_leave {g : Gang} (h : g.Tabled) (K : Nat) (m : Mask) {k : Nat} (hk : k < 32) :
    (g.leave K m).lane k = if g.leftDone m K then (g.lane k).letGo K else g.lane k := by
  rw [Gang.leave_eq, Gang.lane_maskCheck (h.without K m) K hk, Gang.getA_without h, Gang.getM_without h, if_pos rfl, if_pos rfl]
  unfold Gang.leftDone
  congr 1

/-- The first n mask registers without some lanes, each with its completion check (R109). -/
def Gang.leaveFirst (g : Gang) (m : Mask) (n : Nat) : Gang := (List.range n).foldl (fun g K => g.leave K m) g

theorem Gang.leaveFirst_succ (g : Gang) (m : Mask) (n : Nat) : g.leaveFirst m (n + 1) = (g.leaveFirst m n).leave n m := by
  unfold Gang.leaveFirst
  rw [List.range_succ, List.foldl_append]
  rfl

/-- The first n mask registers have lost some lanes, and the completed rounds have let their threads go; the other registers are as they were. -/
structure Gang.LeftFirst (g h : Gang) (m : Mask) (n : Nat) : Prop where
  only : g.OnlyMasks h
  tabled : h.Tabled
  members : ∀ K, h.getM K = if K < n then g.getM K &&& ~~~m else g.getM K
  standing : ∀ K, n ≤ K → h.getA K = g.getA K
  ended : ∀ K < n, g.leftDone m K → h.getA K = 0
  arrivals : ∀ K < n, ¬g.leftDone m K → h.getA K = g.getA K &&& ~~~m
  free : ∀ k < 32, (∀ K, (g.lane k).cond ≠ .held K) → (g.lane k).wait = .no → h.lane k = g.lane k
  released : ∀ k < 32, ∀ K < n, (g.lane k).cond = .held K → (g.lane k).wait = .no → g.leftDone m K → h.lane k = (g.lane k).released
  held : ∀ k < 32, ∀ K, (g.lane k).cond = .held K → (g.lane k).wait = .no → ¬(K < n ∧ g.leftDone m K) → h.lane k = g.lane k

theorem Gang.leftFirst (g : Gang) (h : g.Tabled) (m : Mask) (n : Nat) : g.LeftFirst (g.leaveFirst m n) m n := by
  induction n with
  | zero =>
    exact ⟨.refl g, h, fun _ => rfl, fun _ _ => rfl, fun _ hK => absurd hK (Nat.not_lt_zero _), fun _ hK => absurd hK (Nat.not_lt_zero _),
      fun _ _ _ _ => rfl, fun _ _ _ hK => absurd hK (Nat.not_lt_zero _), fun _ _ _ _ _ _ => rfl⟩
  | succ n ih =>
    rw [Gang.leaveFirst_succ]
    generalize g.leaveFirst m n = u at ih
    have membersHere : u.getM n = g.getM n := by rw [ih.members, if_neg (Nat.lt_irrefl n)]
    have done : u.leftDone m n ↔ g.leftDone m n := by unfold Gang.leftDone; rw [membersHere, ih.standing n le_rfl]
    have only : u.OnlyMasks (u.leave n m) := Gang.onlyMasks_maskCheck (u.without n m) n
    refine ⟨ih.only.trans only, (ih.tabled.without n m).maskCheck n, fun K => ?_, fun K hK => ?_, fun K hK hd => ?_, fun K hK hd => ?_,
      fun k hk hc hw => ?_, fun k hk K hK hc hw hd => ?_, fun k hk K hc hw hd => ?_⟩
    · rw [Gang.getM_leave ih.tabled, membersHere, ih.members]
      rcases Nat.lt_trichotomy K n with lt | rfl | gt
      · rw [if_neg (by omega), if_pos lt, if_pos (by omega)]
      · rw [if_pos rfl, if_pos (by omega)]
      · rw [if_neg (by omega), if_neg (by omega), if_neg (by omega)]
    · rw [Gang.getA_leave ih.tabled, if_neg (by omega), ih.standing K (by omega)]
    · rw [Gang.getA_leave ih.tabled]
      by_cases here : K = n
      · subst here
        rw [if_pos rfl, if_pos (done.2 hd)]
      · rw [if_neg here, ih.ended K (by omega) hd]
    · rw [Gang.getA_leave ih.tabled]
      by_cases here : K = n
      · subst here
        rw [if_pos rfl, if_neg fun d => hd (done.1 d), ih.standing K le_rfl]
      · rw [if_neg here, ih.arrivals K (by omega) hd]
    · rw [Gang.lane_leave ih.tabled n m hk, ih.free k hk hc hw, Thread.letGo_of_free hc hw, ite_self]
    · rw [Gang.lane_leave ih.tabled n m hk]
      by_cases here : K = n
      · subst here
        rw [if_pos (done.2 hd), ih.held k hk K hc hw fun b => absurd b.1 (Nat.lt_irrefl K), Thread.letGo_of_held hc hw, if_pos rfl]
      · rw [ih.released k hk K (by omega) hc hw hd, Thread.letGo_of_free (by simp [Thread.released]) rfl, ite_self]
    · rw [Gang.lane_leave ih.tabled n m hk, ih.held k hk K hc hw fun b => hd ⟨by omega, b.2⟩, Thread.letGo_of_held hc hw]
      by_cases here : n = K
      · rw [if_neg fun d => hd ⟨by omega, here ▸ done.1 d⟩]
      · rw [if_neg here, ite_self]

theorem Gang.leftFirst_dropLanes {g : Gang} (h : g.Tabled) (m : Mask) : g.LeftFirst (g.dropLanes m) m 12 := g.leftFirst h m 12

/-! ### Bundles that split (R105) -/

theorem Gang.onlyMasks_split (g : Gang) (m : Mask) : g.OnlyMasks (g.split m) := rfl

theorem Gang.lane_split {g : Gang} (h : g.threads.length = 32) (m : Mask) (k : Nat) :
    (g.split m).lane k = if m.getLsbD k then { g.lane k with bundle := ((g.split m).lane k).bundle } else g.lane k := by
  unfold Gang.split
  rw [Gang.lane_onLanes h]
  split <;> rfl

theorem Thread.grouped_iff {t : Thread} : t.grouped = true ↔ t.cond = .runnable ∧ t.wait = .no ∧ t.bundle.isSome = true := by
  simp [Thread.grouped, and_assoc]

/-- The lanes of a mask that go on in one bundle with a lane (R105). -/
def Gang.alike (g : Gang) (m : Mask) (t : Thread) : Mask :=
  those m fun j => (g.lane j).grouped && (g.lane j).bundle == t.bundle && (g.lane j).pc == t.pc && (g.lane j).priv == t.priv

theorem Gang.bundle_split {g : Gang} (h : g.threads.length = 32) {m : Mask} {k : Nat} (hk : m.getLsbD k = true) :
    ((g.split m).lane k).bundle = if (g.lane k).grouped then some (lowest (g.alike m (g.lane k))) else none := by
  unfold Gang.split
  rw [Gang.lane_onLanes h, if_pos hk]
  rfl

theorem Gang.getLsbD_alike {g : Gang} {m : Mask} {t : Thread} {j : Nat} : (g.alike m t).getLsbD j = true ↔
    m.getLsbD j = true ∧ (g.lane j).grouped = true ∧ (g.lane j).bundle = t.bundle ∧ (g.lane j).pc = t.pc ∧ (g.lane j).priv = t.priv := by
  rw [Gang.alike, getLsbD_those]
  simp [and_assoc]

/-- Two lanes of one bundle stay together exactly where their pcs and privileges agree. -/
theorem Gang.lowest_alike_eq_iff {g : Gang} {m : Mask} {j k : Nat} (hj : m.getLsbD j = true) (hk : m.getLsbD k = true)
    (gj : (g.lane j).grouped = true) (gk : (g.lane k).grouped = true) (one : (g.lane j).bundle = (g.lane k).bundle) :
    lowest (g.alike m (g.lane j)) = lowest (g.alike m (g.lane k)) ↔ (g.lane j).pc = (g.lane k).pc ∧ (g.lane j).priv = (g.lane k).priv := by
  have least : ∀ {i}, m.getLsbD i = true → (g.lane i).grouped = true → (g.alike m (g.lane i)).getLsbD (lowest (g.alike m (g.lane i))) = true := by
    intro i hi gi
    have mem : (g.alike m (g.lane i)).getLsbD i = true := Gang.getLsbD_alike.2 ⟨hi, gi, rfl, rfl, rfl⟩
    exact lowest_mem fun e => by rw [e] at mem; simp at mem
  constructor
  · intro e
    obtain ⟨-, -, -, pcj, privj⟩ := Gang.getLsbD_alike.1 (least hj gj)
    obtain ⟨-, -, -, pck, privk⟩ := Gang.getLsbD_alike.1 (least hk gk)
    rw [e] at pcj privj
    exact ⟨pcj.symm.trans pck, privj.symm.trans privk⟩
  · rintro ⟨pc, priv⟩
    unfold Gang.alike
    rw [one, pc, priv]

/-- The issuing bundle has split: of its lanes those that run share one bundle before, and share one after where they agree (R105). -/
theorem State.splitBy_split {s : State} (h : s.Whole) {b : Nat}
    (one : ∀ k, s.cur.lanes.getLsbD k = true → (s.cl k).cond = .runnable → (s.cl k).wait = .no → (s.cl k).bundle = some b) :
    s.split.SplitBy s.cur.lanes := by
  have cg : s.split.cg = s.cg.split s.cur.lanes := State.cg_onGang h.resident _ fun _ _ => rfl
  have lane : ∀ k, s.cur.lanes.getLsbD k = true → s.split.cl k = { s.cl k with bundle := (s.split.cl k).bundle } := fun k hk => by
    unfold State.cl
    rw [cg]
    exact (Gang.lane_split h.length s.cur.lanes k).trans (if_pos hk)
  have bundle : ∀ k, s.cur.lanes.getLsbD k = true →
      (s.split.cl k).bundle = if (s.cl k).grouped then some (lowest (s.cg.alike s.cur.lanes (s.cl k))) else none := fun k hk => by
    unfold State.cl
    rw [cg]
    exact Gang.bundle_split h.length hk
  have grouped : ∀ k, s.cur.lanes.getLsbD k = true → ((s.cl k).grouped = true ↔ (s.split.cl k).cond = .runnable ∧ (s.split.cl k).wait = .no) :=
    fun k hk => by
      rw [lane k hk, Thread.grouped_iff]
      exact ⟨fun ⟨hc, hw, _⟩ => ⟨hc, hw⟩, fun ⟨hc, hw⟩ => ⟨hc, hw, by rw [one k hk hc hw]; rfl⟩⟩
  refine ⟨fun k hk stopped => ?_, fun j k ⟨hj, cj, wj⟩ ⟨hk, ck, wk⟩ => ?_⟩
  · rw [bundle k hk, if_neg fun g => stopped ⟨hk, (grouped k hk).1 g⟩]
  · have gj := (grouped j hj).2 ⟨cj, wj⟩
    have gk := (grouped k hk).2 ⟨ck, wk⟩
    obtain ⟨cj', wj', -⟩ := Thread.grouped_iff.1 gj
    obtain ⟨ck', wk', -⟩ := Thread.grouped_iff.1 gk
    rw [bundle j hj, bundle k hk, if_pos gj, if_pos gk, Option.some_inj, lane j hj, lane k hk]
    exact Gang.lowest_alike_eq_iff hj hk gj gk ((one j hj cj' wj').trans (one k hk ck' wk').symm)

/-- What a split leaves of a lane: all of it but its bundle, and outside the bundle everything. -/
theorem State.cl_split {s : State} (h : s.Whole) (k : Nat) :
    s.split.cl k = if s.cur.lanes.getLsbD k then { s.cl k with bundle := (s.split.cl k).bundle } else s.cl k := by
  have cg : s.split.cg = s.cg.split s.cur.lanes := State.cg_onGang h.resident _ fun _ _ => rfl
  unfold State.cl
  rw [cg]
  exact Gang.lane_split h.length s.cur.lanes k

theorem State.bundle_split_of_stopped {s : State} (h : s.Whole) {k : Nat} (hk : s.cur.lanes.getLsbD k = true) (stopped : (s.cl k).grouped = false) :
    (s.split.cl k).bundle = none := by
  have cg : s.split.cg = s.cg.split s.cur.lanes := State.cg_onGang h.resident _ fun _ _ => rfl
  have stopped' : (s.cg.lane k).grouped = false := stopped
  unfold State.cl
  rw [cg, Gang.bundle_split h.length hk, stopped']
  rfl

end Sys2Proof.Machine
end

section
/-! SUPPORT. EXIT (R132), and O14. -/

namespace Sys2Proof.Machine

/-- A gang some of whose threads end (R109, R132, R139). -/
def Gang.exits (g : Gang) (m : Mask) : Gang := ((g.onLanes m fun _ t => t.exit).dropLanes m).narrowCheck

theorem Gang.onlyMasks_dropLanes (g : Gang) (m : Mask) : g.OnlyMasks (g.dropLanes m) := by
  unfold Gang.dropLanes
  induction List.range 12 generalizing g with
  | nil => exact .refl g
  | cons K Ks ih => exact (Gang.onlyMasks_maskCheck (g.without K m) K : g.OnlyMasks (g.leave K m)).trans (ih _)

theorem Gang.narrowCheck_of_not_widened {g : Gang} (h : g.widened = none) : g.narrowCheck = g := by
  simp [Gang.narrowCheck, h]

theorem Gang.exits_key (g : Gang) (m : Mask) : (g.exits m).key = g.key := by
  have masks := Gang.onlyMasks_dropLanes (g.onLanes m fun _ t => t.exit) m
  have key : ∀ h : Gang, h.narrowCheck.key = h.key := fun h => by unfold Gang.narrowCheck; split <;> rfl
  exact (key _).trans masks.key

theorem Gang.exits_of_not_widened {g : Gang} (h : g.widened = none) (m : Mask) : g.exits m = (g.onLanes m fun _ t => t.exit).dropLanes m := by
  refine Gang.narrowCheck_of_not_widened ?_
  rw [Gang.onlyMasks_dropLanes (g.onLanes m fun _ t => t.exit) m]
  exact h

theorem State.preemptCheck_of_no_request {s : State} {key : Nat} (h : (s.gangAt key).request = none) : s.preemptCheck key = s := by
  simp [State.preemptCheck, h]

/-- Threads of a gang that is in no group, not widened and under no request end: nothing of the state changes but the gang. -/
theorem State.exitLanes_alone {s : State} {key : Nat} (h : s.resident key = true) (groups : s.groupsOf (s.gangAt key) = [])
    (widened : (s.gangAt key).widened = none) (request : (s.gangAt key).request = none) (m : Mask) :
    s.exitLanes key m = s.onGang key fun g => g.exits m := by
  have after : (s.onGang key fun g => g.exits m).gangAt key = (s.gangAt key).exits m := State.gangAt_onGang h _ fun g _ => g.exits_key m
  have calm : ((s.onGang key fun g => g.exits m).gangAt key).request = none := by
    rw [after, Gang.exits_of_not_widened widened, Gang.onlyMasks_dropLanes]
    exact request
  refine Eq.trans ?_ (State.preemptCheck_of_no_request calm)
  unfold State.exitLanes
  rw [groups]
  rfl

/-- EXIT before the bundle splits: its threads have ended, the others of the bundle have gone on. -/
def State.exited (s : State) (o : Ops) (L : Mask) : State :=
  (s.onLanes s.cur.gang (s.cur.lanes &&& ~~~L) fun _ t => s.goesOn o t).onGang s.cur.gang fun g => g.exits L

theorem State.exitOp_alone {s : State} {o : Ops} {L : Mask} (hi : s.Issuing) (hc : s.checks 0xC5 o = .ok L) (groups : s.groupsOf s.cg = [])
    (widened : s.cg.widened = none) (request : s.cg.request = none) : s.exitOp o = (s.exited o L).split := by
  have whole := hi.toWhole.onLanes (s.cur.lanes &&& ~~~L) fun _ t => s.goesOn o t
  have cg := State.cg_onLanes hi.resident (s.cur.lanes &&& ~~~L) fun _ t => s.goesOn o t
  refine (State.issueFlow_ok hc rfl).trans (congrArg State.split (State.exitLanes_alone whole.resident ?_ ?_ ?_ L)) <;>
    · refine (congrArg _ cg).trans ?_
      assumption

theorem exec_exit {s : State} {o p : Ops} {c : C32} {i : Instr} (h : (i, p) ∈ [(Instr.exit o, o), (Instr.exitC32 c, compactOps c .i8 0 0 0 none)]) :
    exec i s = .next (s.exitOp p) := by
  simp only [List.mem_cons, List.not_mem_nil, or_false, Prod.mk.injEq] at h
  obtain ⟨rfl, rfl⟩ | ⟨rfl, rfl⟩ := h <;> rfl

/-- The gang of an EXIT whose threads have ended and gone on, before its masks lose the ended ones. -/
def State.ending (s : State) (o : Ops) (L : Mask) : Gang :=
  (s.cg.onLanes (s.cur.lanes &&& ~~~L) fun _ t => s.goesOn o t).onLanes L fun _ t => t.exit

theorem getLsbD_andNot (M L : Mask) (k : Nat) : (M &&& ~~~L).getLsbD k = (M.getLsbD k && !L.getLsbD k) := by
  by_cases hk : k < 32
  · simp [hk]
  · simp [BitVec.getLsbD_of_ge M k (by omega)]

section
variable {s : State} {o : Ops} {L : Mask} (hi : s.Issuing)
include hi

theorem State.lane_ending (k : Nat) : (s.ending o L).lane k =
    if L.getLsbD k then (if (s.cur.lanes &&& ~~~L).getLsbD k then s.goesOn o (s.cl k) else s.cl k).exit
    else if (s.cur.lanes &&& ~~~L).getLsbD k then s.goesOn o (s.cl k) else s.cl k := by
  unfold State.ending
  rw [Gang.lane_onLanes ((Gang.onLanes_length _ _ _).trans hi.canonical.whole), Gang.lane_onLanes hi.canonical.whole]
  rfl

theorem State.lane_ending_ended (hk : L.getLsbD k = true) : (s.ending o L).lane k = (s.cl k).exit := by
  rw [State.lane_ending hi, if_pos hk, getLsbD_andNot, hk, Bool.not_true, Bool.and_false]
  rfl

theorem State.lane_ending_goes (hk : L.getLsbD k = false) (hb : s.cur.lanes.getLsbD k = true) : (s.ending o L).lane k = s.goesOn o (s.cl k) := by
  rw [State.lane_ending hi, getLsbD_andNot, hk, hb]
  rfl

theorem State.lane_ending_outside (hk : L.getLsbD k = false) (hb : s.cur.lanes.getLsbD k = false) : (s.ending o L).lane k = s.cl k := by
  rw [State.lane_ending hi, getLsbD_andNot, hk, hb]
  rfl

/-- After EXIT, before the bundle splits, the masks have lost the ended threads (R109). -/
theorem State.leftFirst_exited (widened : s.cg.widened = none) : (s.ending o L).LeftFirst (s.exited o L).cg L 12 := by
  have whole := hi.toWhole.onLanes (s.cur.lanes &&& ~~~L) fun _ t => s.goesOn o t
  have cg := State.cg_onLanes hi.resident (s.cur.lanes &&& ~~~L) fun _ t => s.goesOn o t
  have after : (s.exited o L).cg = (s.cg.onLanes (s.cur.lanes &&& ~~~L) fun _ t => s.goesOn o t).exits L :=
    (State.cg_onGang whole.resident _ fun g _ => g.exits_key L).trans (congrArg (fun g => Gang.exits g L) cg)
  have tabled : (s.ending o L).Tabled := (hi.canonical.tabled.onLanes _ _).onLanes _ _
  rw [after.trans (Gang.exits_of_not_widened (g := s.cg.onLanes _ _) widened L)]
  exact Gang.leftFirst_dropLanes tabled L

end

theorem State.onlyGang_exited (s : State) (o : Ops) (L : Mask) : s.OnlyGang (s.exited o L) :=
  (State.OnlyGang.onGang s (fun g => g.onLanes (s.cur.lanes &&& ~~~L) fun _ t => s.goesOn o t) fun _ => rfl).trans
    (State.OnlyGang.onGang _ (fun g => g.exits L) fun g => g.exits_key L)

theorem State.onlyGang_split (s : State) : s.OnlyGang s.split := State.OnlyGang.onGang s (fun g => g.split s.cur.lanes) fun _ => rfl

/-- Settles O14: every lane's fate is read off the gang before its masks lose the ended threads, and the split gives only bundles. -/
theorem exitEndsThreads : Obligations.ExitEndsThreads := by
  intro s L o p c i hi ⟨b, running⟩ hip hc groups widened request
  dsimp only
  have sub := State.checks_sub hc
  have left := State.leftFirst_exited (o := p) (L := L) hi widened
  have done : ∀ K, (s.ending p L).leftDone L K ↔ s.cg.getA K &&& ~~~L ≠ 0 ∧ s.cg.getA K &&& ~~~L = s.cg.getM K &&& ~~~L := fun K => Iff.rfl
  have whole : (s.exited p L).Whole :=
    ⟨(State.resident_onGang _ _ (fun g _ => g.exits_key L) _).trans (hi.toWhole.onLanes _ _).resident, left.tabled.whole⟩
  have cg : (s.exited p L).split.cg = (s.exited p L).cg.split s.cur.lanes := State.cg_onGang whole.resident _ fun _ _ => rfl
  have inside : ∀ k, s.cur.lanes.getLsbD k = true →
      (s.exited p L).split.cl k = { (s.exited p L).cl k with bundle := ((s.exited p L).split.cl k).bundle } :=
    fun k hB => (State.cl_split whole k).trans (if_pos hB)
  have outside : ∀ k, s.cur.lanes.getLsbD k = false → (s.exited p L).split.cl k = (s.exited p L).cl k :=
    fun k hB => (State.cl_split whole k).trans (if_neg (ne_true_of_eq_false hB))
  have out : ∀ k, s.cur.lanes.getLsbD k = false → L.getLsbD k = false := fun k hB =>
    Bool.eq_false_iff.2 fun hL => by rw [sub k hL] at hB; cases hB
  have ended : ∀ k < 32, L.getLsbD k = true → (s.exited p L).cl k = (s.cl k).exit := fun k hk hL => by
    have e := State.lane_ending_ended (o := p) hi hL
    exact (left.free k hk (by simp [e, Thread.exit]) (by simp [e, Thread.exit])).trans e
  have went : ∀ k < 32, L.getLsbD k = false → s.cur.lanes.getLsbD k = true → (s.exited p L).cl k = s.goesOn p (s.cl k) := fun k hk hL hB => by
    obtain ⟨cond, wait, -⟩ := running k hB
    have e := State.lane_ending_goes (o := p) hi hL hB
    exact (left.free k hk (by simp [e, State.goesOn, State.goesTo, cond]) (by simp [e, State.goesOn, State.goesTo, wait])).trans e
  refine ⟨_, (exec_exit hip).trans (congrArg _ (State.exitOp_alone hi hc groups widened request)),
    (s.onlyGang_exited p L).trans (s.exited p L).onlyGang_split, ?_, fun K hK => ⟨?_, ?_⟩, State.splitBy_split whole (b := b) fun k hB cond _ => ?_,
    fun k hk => ⟨fun hL => ?_, fun hL hB => ?_, fun hB K cond wait => ?_, fun hB ⟨cond, wait⟩ => ?_⟩⟩
  · have before : s.cg.OnlyMasks (s.ending p L) := rfl
    have masks := (before.trans left.only).trans (Gang.onlyMasks_onLanes _ _ _ : Gang.OnlyMasks _ ((s.exited p L).cg.split s.cur.lanes))
    rw [cg]
    exact masks
  · rw [cg]
    exact (left.members K).trans (if_pos hK)
  · rw [cg]
    by_cases d : (s.ending p L).leftDone L K
    · exact (left.ended K hK d).trans (if_pos ((done K).1 d)).symm
    · exact (left.arrivals K hK d).trans (if_neg (mt (done K).2 d)).symm
  · have hk := BitVec.lt_of_getLsbD hB
    cases hL : L.getLsbD k
    · rw [went k hk hL hB]
      exact (running k hB).2.2
    · rw [ended k hk hL] at cond
      cases cond
  · have none : ((s.exited p L).split.cl k).bundle = none :=
      State.bundle_split_of_stopped whole (sub k hL) (by rw [ended k hk hL]; rfl)
    rw [inside k (sub k hL), none, ended k hk hL]
    rfl
  · exact ⟨_, by rw [inside k hB, went k hk hL hB]⟩
  · have e := State.lane_ending_outside (o := p) hi (out k hB) hB
    refine ⟨fun ⟨hK, d⟩ => ?_, fun not => ?_⟩
    · rw [outside k hB, ← e]
      exact left.released k hk K hK (by rw [e]; exact cond) (by rw [e]; exact wait) ((done K).2 d)
    · rw [outside k hB]
      exact (left.held k hk K (by rw [e]; exact cond) (by rw [e]; exact wait) fun ⟨hK, d⟩ => not ⟨hK, (done K).1 d⟩).trans e
  · have e := State.lane_ending_outside (o := p) hi (out k hB) hB
    rw [outside k hB]
    exact (left.free k hk (by simp [e, cond]) (by rw [e]; exact wait)).trans e

end Sys2Proof.Machine
end

section
/-! SUPPORT. WAIT, MEET and the hints (R39, R40, R109 to R111, R133, R134, R141 to R143), and O16. -/

namespace Sys2Proof.Machine

/-! ### MEET and the hints -/

/-- The sign extension of a 32-bit literal (R37). -/
theorem sext_eq_signExtend (l : BitVec 32) : sext 32 l.toNat = BitVec.signExtend 64 l := by
  have small := l.isLt
  refine BitVec.eq_of_toNat_eq ?_
  rw [BitVec.toNat_signExtend, BitVec.msb_eq_decide, BitVec.toNat_setWidth]
  unfold sext word
  by_cases neg : 2 ^ 31 ≤ l.toNat
  · rw [if_pos (by omega), if_pos (by simpa using neg), BitVec.toNat_ofNat]
    omega
  · rw [if_neg (by omega), if_neg (by simpa using neg), BitVec.toNat_ofNat]
    omega

/-- An issue whose own effect is a change of some threads of its bundle: they all go on. -/
theorem State.threadResult_of_issue {s : State} {i : Instr} {op : Nat} {p : Ops} {L m : Mask} {body : Mask → Except TrapReq State}
    {g : Nat → Thread → Thread} (hi : s.Issuing) (he : exec i s = .next (s.issue op p body)) (hc : s.checks op p = .ok L)
    (hm : ∀ k, m.getLsbD k = true → s.cur.lanes.getLsbD k = true) (hb : body L = .ok (s.onLanes s.cur.gang m g)) :
    s.ThreadResult i fun k t => s.goesOn p (if m.getLsbD k then g k t else t) := by
  have ran : exec i s = .next ((s.onLanes s.cur.gang m g).advance p.stall.toNat p.yld) := he.trans (congrArg _ (State.issue_ok hc hb))
  exact ⟨_, ran, State.onLanes_advance_bundle hi.toWhole hm g _ _, fun k hk => State.cl_onLanes_advance hi.toWhole m g _ _ k hk⟩

/-- An issue without an effect of its own. -/
theorem State.threadResult_of_idle {s : State} {i : Instr} {op : Nat} {p : Ops} {L : Mask} {body : Mask → Except TrapReq State}
    (hi : s.Issuing) (he : exec i s = .next (s.issue op p body)) (hc : s.checks op p = .ok L) (hb : body L = .ok s) :
    s.ThreadResult i fun _ t => s.goesOn p t := by
  have zero : s.onLanes s.cur.gang 0 (fun _ t => t) = s := s.onLanes_zero _ _
  have result := State.threadResult_of_issue (m := 0) (g := fun _ t => t) hi he hc (fun k hk => by simp at hk) (hb.trans (congrArg _ zero.symm))
  simpa using result

theorem State.ThreadResult.congr {s : State} {i : Instr} {f g : Nat → Thread → Thread} (h : s.ThreadResult i f)
    (e : ∀ k, s.cur.lanes.getLsbD k = true → f k (s.cl k) = g k (s.cl k)) : s.ThreadResult i g := by
  obtain ⟨t, ran, only, lane⟩ := h
  exact ⟨t, ran, only, fun k hk => (lane k hk).trans (e k hk)⟩

/-- MEET (R133): the guarded lanes' meeting address is the label, or what their register holds. -/
theorem State.threadResult_meet {s : State} {o : Ops} {L : Mask} (hi : s.Issuing) (hc : s.checks 0xC6 o = .ok L) :
    s.ThreadResult (.meet o) fun k t => if L.getLsbD k then
        { s.goesOn o t with meet := match o.lit with
          | some l => s.cur.pc + 4 * BitVec.signExtend 64 l
          | none => s.opA o k }
      else s.goesOn o t := by
  refine (State.threadResult_of_issue hi rfl hc (State.checks_sub hc) rfl).congr fun k _ => ?_
  cases L.getLsbD k
  · rfl
  · cases hl : o.lit with
    | none => rfl
    | some l =>
      simp only [State.label, hl, Option.getD_some, sext_eq_signExtend]
      rfl

/-- PAUSE (R142). -/
theorem State.threadResult_pause {s : State} {i : Instr} {o : Ops} {L : Mask} {n : Nat} (hi : s.Issuing) (he : exec i s = .next (s.pauseOp o))
    (hc : s.checks 0xD0 o = .ok L) (hn : (match o.lit with | some l => l.toNat | none => o.a.toNat) = n) :
    s.ThreadResult i fun _ t => if L = 0 ∨ n = 0 then s.goesOn o t else { s.goesOn o t with pauseUntil := s.clock + n } := by
  subst hn
  by_cases idle : L = 0 ∨ (match o.lit with | some l => l.toNat | none => o.a.toNat) = 0
  · refine (State.threadResult_of_idle hi he hc (congrArg Except.ok (if_pos idle))).congr fun k _ => ?_
    rw [if_pos idle]
  · refine (State.threadResult_of_issue hi he hc (fun _ => id) (congrArg Except.ok (if_neg idle))).congr fun k hk => ?_
    rw [if_pos hk, if_neg idle]
    rfl

/-- YIELD (R141). -/
theorem State.threadResult_yield {s : State} {i : Instr} {o : Ops} {L : Mask} (hi : s.Issuing) (he : exec i s = .next (s.yieldOp o))
    (hc : s.checks 0xCF o = .ok L) : s.ThreadResult i fun _ t => { s.goesOn o t with yields := true } :=
  State.threadResult_of_idle (p := { o with yld := true }) hi he hc rfl

/-! ### WAIT -/

theorem exec_wait {s : State} {o p : Ops} {c : C32} {i : Instr}
    (h : (i, p) ∈ [(Instr.wait o, o), (Instr.waitC32 c, compactOps c .i8 c.dst 0 0 none)]) : exec i s = .next (s.waitOp p) := by
  simp only [List.mem_cons, List.not_mem_nil, or_false, Prod.mk.injEq] at h
  obtain ⟨rfl, rfl⟩ | ⟨rfl, rfl⟩ := h <;> rfl

theorem ofNat_low (v : Word) : BitVec.ofNat 32 (word (v.toNat % 2 ^ 32)).toNat = v.setWidth 32 := by
  refine BitVec.eq_of_toNat_eq ?_
  rw [BitVec.toNat_setWidth, BitVec.toNat_ofNat, toNat_word (by omega)]
  omega

theorem word_low_bne (v w : Word) : (word (v.toNat % 2 ^ 32) != word (w.toNat % 2 ^ 32)) = (v.setWidth 32 != w.setWidth 32) := by
  have same : word (v.toNat % 2 ^ 32) = word (w.toNat % 2 ^ 32) ↔ v.setWidth 32 = w.setWidth 32 := by
    constructor
    · intro e
      rw [← ofNat_low v, e, ofNat_low]
    · intro e
      have := congrArg BitVec.toNat e
      rw [BitVec.toNat_setWidth, BitVec.toNat_setWidth] at this
      rw [this]
  rw [bne, bne, beq_eq_beq.2 same]

/-- The lanes whose register names another member mask than the lowest lane's (R111). -/
def State.otherMasks (s : State) (o : Ops) (L : Mask) : Mask := those L fun k => (s.opA o k).setWidth 32 != (s.opA o (lowest L)).setWidth 32

/-- MASK_DISAGREE (R111). -/
def State.disagree (s : State) (m : Mask) : TrapReq := { cause := .maskDisagree, mask := m, addr := s.freeAddr, info := s.freeInfo }

/-- WAIT mK, dN fixes the member mask where no round is open (R111). -/
theorem State.fixMask_eq (s : State) (o : Ops) (K : Nat) (L : Mask) : s.fixMask K L (s.opA o) =
    if L = 0 then .ok s
    else if s.otherMasks o L ≠ 0 then .error (s.disagree (s.otherMasks o L))
    else if s.cg.getA K ≠ 0 then (if (s.opA o (lowest L)).setWidth 32 ≠ s.cg.getM K then .error (s.disagree L) else .ok s)
    else .ok (s.onGang s.cur.gang fun g => g.setM K ((s.opA o (lowest L)).setWidth 32)) := by
  have differ : differing L (fun k => word ((s.opA o k).toNat % 2 ^ 32)) = s.otherMasks o L := by
    unfold differing State.otherMasks
    simp only [word_low_bne]
  simp only [State.fixMask, differ, ofNat_low]
  rfl

/-- A state in which the member mask of register K is fixed: nothing else has changed (R111). -/
structure State.MaskFixed (s v : State) (K : Nat) (m : Mask) : Prop extends s.OnlyGang v where
  resident : v.resident v.cur.gang = true
  gang : v.cg = { s.cg with m := v.cg.m }
  tabled : v.cg.Tabled
  members : ∀ n, v.cg.getM n = if n = K then m else s.cg.getM n

theorem State.MaskFixed.cur {s v : State} {K : Nat} {m : Mask} (h : s.MaskFixed v K m) : v.cur = s.cur := by rw [h.rest]

theorem State.MaskFixed.clock {s v : State} {K : Nat} {m : Mask} (h : s.MaskFixed v K m) : v.clock = s.clock := by rw [h.rest]

theorem State.MaskFixed.cl {s v : State} {K : Nat} {m : Mask} (h : s.MaskFixed v K m) (k : Nat) : v.cl k = s.cl k := by
  unfold State.cl
  rw [h.gang]
  rfl

theorem State.MaskFixed.getA {s v : State} {K : Nat} {m : Mask} (h : s.MaskFixed v K m) (n : Nat) : v.cg.getA n = s.cg.getA n := by
  rw [h.gang]
  rfl

theorem State.maskFixed_self {s : State} (hi : s.Issuing) (K : Nat) : s.MaskFixed s K (s.cg.getM K) where
  rest := rfl
  others _ _ := rfl
  memory _ := rfl
  resident := hi.resident
  gang := rfl
  tabled := hi.canonical.tabled
  members n := by split <;> simp_all

theorem State.maskFixed_setM {s : State} (hi : s.Issuing) (K : Nat) (m : Mask) : s.MaskFixed (s.onGang s.cur.gang fun g => g.setM K m) K m := by
  have cg : (s.onGang s.cur.gang fun g => g.setM K m).cg = s.cg.setM K m := State.cg_onGang hi.resident _ fun _ _ => rfl
  refine { State.OnlyGang.onGang s (fun g => g.setM K m) fun _ => rfl with resident := ?_, gang := ?_, tabled := ?_, members := fun n => ?_ }
  · exact (State.resident_onGang s (fun g => g.setM K m) (fun _ _ => rfl) _).trans hi.resident
  · rw [cg]
    rfl
  · rw [cg]
    exact hi.canonical.tabled.setM K m
  · rw [cg]
    exact Gang.getM_setM hi.canonical.tabled K n m

/-- What a WAIT makes of a thread of its bundle: it is held at the WAIT, or goes on (R109). -/
def State.waitLane (s : State) (o : Ops) (K : Nat) (held : Mask) (k : Nat) (t : Thread) : Thread :=
  if held.getLsbD k then { t.issued s.clock o.stall.toNat o.yld with cond := .held K, waitLen := s.cur.len, bundle := none } else s.goesOn o t

/-- The arrival of a WAIT, which lets go the threads stopped at SAFEs (R109, R308). -/
def State.arriving (s : State) (K : Nat) (L : Mask) : State :=
  (if L = 0 then s else s.onGang s.cur.gang Gang.releaseStops).onGang s.cur.gang fun g => g.arriveAt K L

/-- WAIT before the bundle splits (R109). -/
def State.waited (s : State) (o : Ops) (K : Nat) (L : Mask) : State :=
  (s.arriving K L).onLanes s.cur.gang s.cur.lanes (s.waitLane o K (s.cg.holds K L))

theorem State.waitAt_eq (s : State) (o : Ops) (K : Nat) (L : Mask) : s.waitAt o K L = (s.waited o K L).split := by
  unfold State.waitAt State.waited State.arriving State.split
  by_cases none : L = 0
  · simp only [none, if_true]
    rfl
  · simp only [none, if_false]
    rfl

/-- A gang with no thread stopped at a SAFE has none to let go (R308). -/
theorem Gang.releaseStops_idle {g : Gang} (h : g.Tabled) (safe : ∀ k < 32, (g.lane k).cond ≠ .stopped .safePoint) :
    g.OnlyMasks g.releaseStops ∧ g.releaseStops.Tabled ∧ g.releaseStops.m = g.m ∧ g.releaseStops.arrive = g.arrive ∧
      ∀ k < 32, g.releaseStops.lane k = g.lane k := by
  unfold Gang.releaseStops
  split
  · exact ⟨rfl, h, rfl, rfl, fun _ _ => rfl⟩
  · refine ⟨rfl, h.onLanes _ _, rfl, rfl, fun k hk => ?_⟩
    have running : (g.lane k).atSafe = false := by simpa [Thread.atSafe] using safe k hk
    rw [Gang.lane_onLanes h.whole, running]
    exact ite_self _

theorem Gang.arriveAt_eq (g : Gang) (K : Nat) (L : Mask) : g.arriveAt K L = (g.setA K (g.getA K ||| (L &&& g.getM K))).maskCheck K := rfl

/-- What the arrival of lanes at a mask register leaves of a gang (R109): the arrival mask that the completion check sees is a. -/
structure Gang.Arrived (g h : Gang) (K : Nat) (a : Mask) : Prop where
  only : g.OnlyMasks h
  tabled : h.Tabled
  members : ∀ n, h.getM n = g.getM n
  arrivals : ∀ n, h.getA n = if n = K then (if a ≠ 0 ∧ a = g.getM K then 0 else a) else g.getA n
  lanes : ∀ k < 32, h.lane k = if a ≠ 0 ∧ a = g.getM K then (g.lane k).letGo K else g.lane k

theorem Gang.arrived_arriveAt {g : Gang} (h : g.Tabled) (K : Nat) (L : Mask) : g.Arrived (g.arriveAt K L) K (g.getA K ||| (L &&& g.getM K)) := by
  have tabled := h.setA K (g.getA K ||| (L &&& g.getM K))
  have here : (g.setA K (g.getA K ||| (L &&& g.getM K))).getA K = g.getA K ||| (L &&& g.getM K) := (Gang.getA_setA h K K _).trans (if_pos rfl)
  rw [Gang.arriveAt_eq]
  refine ⟨Gang.onlyMasks_maskCheck (g.setA K _) K, tabled.maskCheck K, fun n => Gang.getM_maskCheck _ K n, fun n => ?_, fun k hk => ?_⟩
  · rw [Gang.getA_maskCheck tabled, here, Gang.getA_setA h]
    by_cases e : n = K
    · rw [if_pos e, if_pos e]
      rfl
    · rw [if_neg e, if_neg e, if_neg e]
  · rw [Gang.lane_maskCheck tabled K hk, here]
    rfl

/-- The gang that WAIT leaves before its bundle goes on: threads stopped at SAFEs are let go, and the arrival is made (R109, R308). -/
theorem Gang.arrived_released {g : Gang} (h : g.Tabled) (safe : ∀ k < 32, (g.lane k).cond ≠ .stopped .safePoint) (K : Nat) (L : Mask) :
    g.Arrived ((if L = 0 then g else g.releaseStops).arriveAt K L) K (g.getA K ||| (L &&& g.getM K)) := by
  by_cases none : L = 0
  · rw [if_pos none]
    exact Gang.arrived_arriveAt h K L
  · obtain ⟨only, tabled, hm, ha, lane⟩ := Gang.releaseStops_idle h safe
    have getM : ∀ n, g.releaseStops.getM n = g.getM n := fun n => by unfold Gang.getM; rw [hm]
    have getA : ∀ n, g.releaseStops.getA n = g.getA n := fun n => by unfold Gang.getA; rw [ha]
    have arrived := Gang.arrived_arriveAt tabled K L
    rw [getM, getA] at arrived
    rw [if_neg none]
    refine ⟨only.trans arrived.only, arrived.tabled, fun n => (arrived.members n).trans (getM n), fun n => ?_, fun k hk => ?_⟩
    · rw [arrived.arrivals, getM, getA]
    · rw [arrived.lanes k hk, getM, lane k hk]

/-- The lanes that a WAIT holds (R109). -/
theorem Gang.getLsbD_holds {g : Gang} {K : Nat} {L : Mask} {k : Nat} : (g.holds K L).getLsbD k =
    ((L &&& g.getM K).getLsbD k && (g.lane k).meet != 0 && (g.lane k).pc == (g.lane k).meet &&
      !decide (g.getA K ||| (L &&& g.getM K) ≠ 0 ∧ g.getA K ||| (L &&& g.getM K) = g.getM K)) := by
  unfold Gang.holds
  by_cases done : completes (g.getA K ||| (L &&& g.getM K)) (g.getM K) = true
  · rw [if_pos done, decide_eq_true (completes_iff.1 done)]
    simp
  · rw [if_neg done, getLsbD_those, decide_eq_false (mt completes_iff.2 done)]
    simp [Bool.and_assoc]

theorem Gang.arriveAt_key (g : Gang) (K : Nat) (L : Mask) : (g.arriveAt K L).key = g.key := (Gang.onlyMasks_maskCheck (g.setA K _) K).key

theorem State.onlyGang_arriving (s : State) (K : Nat) (L : Mask) : s.OnlyGang (s.arriving K L) := by
  have arrive : ∀ u : State, u.OnlyGang (u.onGang u.cur.gang fun g => g.arriveAt K L) := fun u =>
    State.OnlyGang.onGang u (fun g => g.arriveAt K L) fun g => g.arriveAt_key K L
  unfold State.arriving
  split
  · exact arrive s
  · exact (State.OnlyGang.onGang s Gang.releaseStops Gang.releaseStops_key).trans (arrive _)

theorem State.cur_arriving (s : State) (K : Nat) (L : Mask) : (s.arriving K L).cur = s.cur := by rw [(s.onlyGang_arriving K L).rest]

theorem State.onlyGang_waited (s : State) (o : Ops) (K : Nat) (L : Mask) : s.OnlyGang (s.waited o K L) := by
  have went := State.OnlyGang.onGang (s.arriving K L) (fun g => g.onLanes s.cur.lanes (s.waitLane o K (s.cg.holds K L))) fun _ => rfl
  rw [s.cur_arriving] at went
  exact (s.onlyGang_arriving K L).trans went

theorem State.gangAt_arriving {s : State} (h : s.resident s.cur.gang = true) (K : Nat) (L : Mask) :
    (s.arriving K L).resident s.cur.gang = true ∧
      (s.arriving K L).gangAt s.cur.gang = (if L = 0 then s.cg else s.cg.releaseStops).arriveAt K L := by
  have arrive : ∀ u : State, u.resident s.cur.gang = true → (u.onGang s.cur.gang fun g => g.arriveAt K L).resident s.cur.gang = true ∧
      (u.onGang s.cur.gang fun g => g.arriveAt K L).gangAt s.cur.gang = (u.gangAt s.cur.gang).arriveAt K L := fun u hu =>
    ⟨(State.resident_onGang u _ (fun g _ => g.arriveAt_key K L) _).trans hu, State.gangAt_onGang hu _ fun g _ => g.arriveAt_key K L⟩
  unfold State.arriving
  split
  · exact arrive s h
  · have released := State.gangAt_onGang h Gang.releaseStops fun g _ => g.releaseStops_key
    have resident : (s.onGang s.cur.gang Gang.releaseStops).resident s.cur.gang = true :=
      (State.resident_onGang s Gang.releaseStops (fun g _ => g.releaseStops_key) s.cur.gang).trans h
    exact ⟨(arrive _ resident).1, (arrive _ resident).2.trans (congrArg (fun g => Gang.arriveAt g K L) released)⟩

section
variable {s v : State} {K : Nat} {m : Mask} (fixed : s.MaskFixed v K m) {o : Ops} {L : Mask}
include fixed

/-- A WAIT before the bundle splits: the arrival is made, and each thread of the bundle is held or has gone on. -/
theorem State.MaskFixed.cg_waited (safe : ∀ k < 32, (s.cl k).cond ≠ .stopped .safePoint) : ∃ h : Gang, v.cg.Arrived h K (s.cg.getA K ||| (L &&& m)) ∧
    (v.waited o K L).cg = h.onLanes s.cur.lanes (v.waitLane o K (v.cg.holds K L)) := by
  have arrived := Gang.arrived_released fixed.tabled (fun k hk => by rw [← State.cl, fixed.cl]; exact safe k hk) K L
  rw [fixed.getA, fixed.members, if_pos rfl] at arrived
  obtain ⟨resident, gang⟩ := State.gangAt_arriving fixed.resident K L
  have cur : (v.waited o K L).cur = v.cur := v.cur_arriving K L
  refine ⟨_, arrived, ?_⟩
  unfold State.cg
  rw [cur, ← fixed.cur]
  exact (State.gangAt_onLanes resident _ _).trans (congrArg (fun g => Gang.onLanes g _ _) gang)

/-- WAIT K by the lanes of L, with member mask m: the arrival, the completion of the round, and where the threads of the bundle stand (R109). -/
theorem State.MaskFixed.waitAt_spec (running : s.Running) (safe : ∀ k < 32, (s.cl k).cond ≠ .stopped .safePoint) :
    let a' := s.cg.getA K ||| (L &&& m)
    let held := fun k => (L &&& m).getLsbD k && (s.cl k).meet != 0 && (s.cl k).pc == (s.cl k).meet && !decide (a' ≠ 0 ∧ a' = m)
    s.MaskEvent (v.waitAt o K L) K m a' (fun _ => false) ∧ (v.waitAt o K L).SplitBy s.cur.lanes ∧
      ∀ k, s.cur.lanes.getLsbD k = true → ∃ b, (v.waitAt o K L).cl k =
        if held k then { s.goesTo o (s.cl k) (s.cl k).pc with cond := .held K, waitLen := s.cur.len, bundle := none }
        else { s.goesOn o (s.cl k) with bundle := b } := by
  intro a' held
  obtain ⟨b, run⟩ := running
  obtain ⟨h, arrived, cg⟩ := fixed.cg_waited (o := o) (L := L) safe
  have lane : ∀ k < 32, h.lane k = if a' ≠ 0 ∧ a' = m then (s.cl k).letGo K else s.cl k := fun k hk => by
    rw [arrived.lanes k hk, fixed.members, if_pos rfl, ← State.cl, fixed.cl]
  have cl : ∀ k, (v.waited o K L).cl k = if s.cur.lanes.getLsbD k then v.waitLane o K (v.cg.holds K L) k (h.lane k) else h.lane k := fun k => by
    unfold State.cl
    rw [cg, Gang.lane_onLanes arrived.tabled.whole]
  have holds : ∀ k, (v.cg.holds K L).getLsbD k = held k := fun k => by
    rw [Gang.getLsbD_holds, fixed.getA, fixed.members, if_pos rfl, ← State.cl, fixed.cl]
  have inside : ∀ k, s.cur.lanes.getLsbD k = true → (v.waited o K L).cl k =
      if held k then { s.goesTo o (s.cl k) (s.cl k).pc with cond := .held K, waitLen := s.cur.len, bundle := none } else s.goesOn o (s.cl k) :=
    fun k hB => by
      obtain ⟨cond, wait, -⟩ := run k hB
      rw [cl, if_pos hB, lane k (BitVec.lt_of_getLsbD hB), Thread.letGo_of_free (by simp [cond]) wait, ite_self, State.waitLane, holds, fixed.rest]
      rfl
  have cur : (v.waited o K L).cur = s.cur := (v.cur_arriving K L).trans fixed.cur
  have whole : (v.waited o K L).Whole := by
    refine ⟨?_, by rw [cg]; exact (Gang.onLanes_length _ _ _).trans arrived.tabled.whole⟩
    rw [cur, ← fixed.cur]
    exact (State.resident_onLanes _ _ _ _ _).trans (State.gangAt_arriving fixed.resident K L).1
  have split : (v.waited o K L).split.cg = (v.waited o K L).cg.split s.cur.lanes := by
    rw [← cur]
    exact State.cg_onGang whole.resident _ fun _ _ => rfl
  have lanes := State.cl_split whole
  rw [cur] at lanes
  have masks : s.cg.OnlyMasks h := by
    have before : s.cg.OnlyMasks v.cg := by rw [fixed.gang]; rfl
    exact before.trans arrived.only
  have only := (fixed.toOnlyGang.trans (v.onlyGang_waited o K L)).trans (v.waited o K L).onlyGang_split
  rw [State.waitAt_eq]
  refine ⟨{ only with gang := ?_, members := fun n => ?_, arrivals := fun n => ?_, lanes := fun k hk hB => ?_ }, ?_, fun k hB => ?_⟩
  · rw [split, cg]
    exact (masks.trans (Gang.onlyMasks_onLanes h s.cur.lanes (v.waitLane o K (v.cg.holds K L)))).trans (Gang.onlyMasks_split _ s.cur.lanes)
  · rw [split, cg]
    exact (arrived.members n).trans (fixed.members n)
  · rw [split, cg]
    refine (arrived.arrivals n).trans ?_
    rw [fixed.members, if_pos rfl, fixed.getA]
  · rw [lanes, if_neg (ne_true_of_eq_false hB), cl, if_neg (ne_true_of_eq_false hB), lane k hk, Thread.letGo_eq]
    by_cases done : a' ≠ 0 ∧ a' = m
    · by_cases here : (s.cl k).heldAt K = true
      · exact (if_pos done).trans ((if_pos here).trans (if_pos ⟨here, .inl done⟩).symm)
      · exact (if_pos done).trans ((if_neg here).trans (if_neg fun both => here both.1).symm)
    · exact (if_neg done).trans (if_neg fun both => both.2.elim done nofun).symm
  · rw [← cur]
    refine State.splitBy_split whole (b := b) fun k hB cond _ => ?_
    rw [cur] at hB
    rw [inside k hB] at cond ⊢
    cases hh : held k
    · exact (run k hB).2.2
    · rw [hh] at cond
      cases cond
  · rw [lanes, if_pos hB, inside k hB]
    cases hh : held k
    · exact ⟨_, rfl⟩
    · refine ⟨none, ?_⟩
      rw [State.bundle_split_of_stopped whole (by rw [cur]; exact hB) (by rw [inside k hB, hh]; rfl)]
      rfl

end

/-- WAIT where the member mask is fixed (R109, R111). -/
theorem State.waitOp_fixed {s v : State} {o : Ops} {L : Mask} (hc : s.checks 0xC9 o = .ok L)
    (hv : (if o.opmod.toNat = 1 then s.fixMask o.dst.toNat L (s.opA o) else .ok s) = .ok v) : s.waitOp o = v.waitAt o o.dst.toNat L := by
  refine State.issueFlow_ok hc ?_
  simp only [hv]
  rfl

/-- WAIT whose member mask the lanes do not agree on, or that an open round contradicts (R111). -/
theorem State.waitOp_trap {s : State} {o : Ops} {L : Mask} {r : TrapReq} (hc : s.checks 0xC9 o = .ok L)
    (hr : (if o.opmod.toNat = 1 then s.fixMask o.dst.toNat L (s.opA o) else .ok s) = .error r) : s.waitOp o = s.trap r := by
  refine State.issueFlow_trap hc ?_
  simp only [hr]
  rfl

/-- Settles O16: WAIT from the state in which its member mask is fixed; MEET and the hints as changes of the bundle's own threads. -/
theorem waitsMeetsAndHints : Obligations.WaitsMeetsAndHints := by
  refine ⟨fun s L o p c i hi running safe hip hc => ?_, fun s L o p c i op f hi => ?_⟩
  · have ran := exec_wait (s := s) hip
    have lanes : ∀ {d : Mask}, s.otherMasks p L = d → d ≠ 0 → L ≠ 0 := fun hd hne hL => hne <| by
      rw [← hd, hL]
      exact those_eq_zero.2 fun k hk => by simp at hk
    refine ⟨fun fixed (differ : s.otherMasks p L ≠ 0) => ?_, fun fixed hL (agree : s.otherMasks p L = 0) unfinished other => ?_, fun m hm => ?_⟩
    · refine ran.trans (congrArg _ (State.waitOp_trap hc ?_))
      rw [if_pos fixed, State.fixMask_eq, if_neg (lanes rfl differ), if_pos differ]
      rfl
    · refine ran.trans (congrArg _ (State.waitOp_trap hc ?_))
      rw [if_pos fixed, State.fixMask_eq, if_neg hL, if_neg (not_not.2 agree), if_pos unfinished]
      exact if_pos other
    · have spec : ∃ v, s.MaskFixed v p.dst.toNat m ∧
          (if p.opmod.toNat = 1 then s.fixMask p.dst.toNat L (s.opA p) else .ok s) = .ok v := by
        obtain ⟨free, rfl⟩ | ⟨fixed, hL, (agree : s.otherMasks p L = 0), rfl, round⟩ := hm
        · refine ⟨s, State.maskFixed_self hi _, ?_⟩
          by_cases fixed : p.opmod.toNat = 1
          · rw [if_pos fixed, State.fixMask_eq, if_pos (free.resolve_left (not_not.2 fixed))]
          · rw [if_neg fixed]
        · rw [if_pos fixed, State.fixMask_eq, if_neg hL, if_neg (not_not.2 agree)]
          by_cases none : s.cg.getA p.dst.toNat = 0
          · exact ⟨_, State.maskFixed_setM hi _ _, if_neg (not_not.2 none)⟩
          · have same := round.resolve_left none
            refine ⟨s, by rw [same]; exact State.maskFixed_self hi _, ?_⟩
            rw [if_pos none, if_neg (not_not.2 same)]
      obtain ⟨v, fixed, hv⟩ := spec
      exact ⟨_, ran.trans (congrArg _ (State.waitOp_fixed hc hv)), fixed.waitAt_spec running safe⟩
  · intro bare pause h hc
    simp only [List.mem_cons, List.not_mem_nil, or_false, Prod.mk.injEq] at h
    obtain ⟨rfl, rfl, rfl, rfl⟩ | ⟨rfl, rfl, rfl, rfl⟩ | ⟨rfl, rfl, rfl, rfl⟩ | ⟨rfl, rfl, rfl, rfl⟩ | ⟨rfl, rfl, rfl, rfl⟩ | ⟨rfl, rfl, rfl, rfl⟩ |
      ⟨rfl, rfl, rfl, rfl⟩ := h
    · exact State.threadResult_meet hi hc
    · exact State.threadResult_yield (o := p) hi rfl hc
    · exact State.threadResult_yield (o := bare) hi rfl hc
    · exact State.threadResult_pause (o := p) hi rfl hc rfl
    · exact State.threadResult_pause (o := compactOps c .i8 0 c.b 0 none) hi rfl hc rfl
    · exact State.threadResult_of_idle (p := p) hi rfl hc rfl
    · exact State.threadResult_of_idle (p := bare) hi rfl hc rfl

end Sys2Proof.Machine
end

section
/-! SUPPORT. A debugger's write of a predicate (R26, R386), and O49. -/

namespace Sys2Proof.Machine

/-- A thread with a fixed-latency write of p0 on its way (R26). -/
def threadTrackingP0 : Thread :=
  { Thread.start (word progVa) 1 0 0 .runnable with tracked := [{ reg := .p 0, ready := 1, producer := 0, old := 0 }] }

/-- A state in which slot 0 holds a gang of 32 such threads. -/
def trackingP0 : State :=
  { State.reset with gangs := [Gang.start 0 1 0 0 128 progPacket.xlate 0 (List.replicate 32 threadTrackingP0) 0] }

theorem resident_trackingP0 : trackingP0.resident 0 = true := rfl

theorem canonical_trackingP0 : ∀ g ∈ trackingP0.gangs, g.Canonical := fun _ hg => List.mem_singleton.mp hg ▸ {
  whole := rfl
  regs := rfl
  m := rfl
  arrive := rfl
  threads := fun _ ht => List.eq_of_mem_replicate ht ▸ canonical_of_noRegisters rfl rfl rfl }

/-- The debugger's write of a predicate is a write of that thread's predicate, which ends what is tracked of it. -/
theorem exec_debuggerStateWrite_p {s : State} {key : Nat} (hs : key < Config.slots) (lane n : Nat) (v : Word) :
    exec (.debuggerStateWrite key lane (.p n) v) s = .next (s.onThread key lane fun t => t.setP n (v.getLsbD 0)) := by
  have onDevice : ¬ Config.slots ≤ key := Nat.not_le.mpr hs
  show Host.Outcome.next (s.debugWrite key lane (.p n) v) = _
  rw [State.debugWrite, if_neg onDevice]
  rfl

/-- What the write leaves of the write that was on its way: nothing. -/
theorem tracked_debuggerStateWrite_trackingP0 (v : Word) {t : State}
    (h : exec (.debuggerStateWrite 0 0 (.p 0) v) trackingP0 = .next t) : ((t.gangAt 0).lane 0).tracked = [] := by
  obtain rfl := Host.Outcome.next.inj ((exec_debuggerStateWrite_p (by decide) 0 0 v).symm.trans h)
  rw [State.onThread, State.gangAt_onLanes resident_trackingP0, Gang.lane_onLanes rfl]
  rfl

/-- Refutes O49: a debugger's write of a predicate does not leave the rest of the thread as it is. As every write of a register (R26), it takes the
place of a fixed-latency result of that predicate that is still on its way, which the thread then no longer tracks (Thread.setP). -/
theorem not_debuggerAndObservation : ¬ Obligations.DebuggerAndObservation := by
  unfold Obligations.DebuggerAndObservation
  intro h
  obtain ⟨-, -, -, -, -, -, writesP, -⟩ := h trackingP0 0 0 resident_trackingP0 (by decide) (by decide) canonical_trackingP0
  obtain ⟨y, ⟨t, ran, -, -, -, -, own⟩, rest, -⟩ := writesP 0 0 (by decide)
  have kept : y.tracked = threadTrackingP0.tracked := (congrArg Thread.tracked rest).trans rfl
  have gone : y.tracked = [] := own ▸ tracked_debuggerStateWrite_trackingP0 0 ran
  exact absurd (kept.symm.trans gone) (List.cons_ne_nil _ _)

end Sys2Proof.Machine
end

section
/-! SUPPORT. Launches, a die's queues and its reads of packets (R319, R320, R327; for O46). -/

namespace Sys2Proof.Machine

/-! ### Launches -/

/-- A change of the launches with a number leaves a search by number where it was. -/
theorem State.launchOf_onLaunch (s : State) (n m : Nat) {f : Launch → Launch} (hf : ∀ l, (f l).num = l.num) :
    (s.onLaunch n f).launchOf m = (s.launchOf m).map fun l => if l.num = n then f l else l := by
  unfold State.launchOf State.onLaunch
  dsimp only
  induction s.launches with
  | nil => rfl
  | cons l ls ih =>
    have same : (if l.num = n then f l else l).num = l.num := by split <;> simp [hf]
    rw [List.map_cons, List.find?_cons, List.find?_cons, same]
    cases l.num == m with
    | true => rfl
    | false => exact ih

theorem State.num_of_launchOf {s : State} {n : Nat} {l : Launch} (h : s.launchOf n = some l) : l.num = n := by
  simpa using List.find?_some h

theorem State.launchOf_onLaunch_same {s : State} {n : Nat} {l : Launch} (h : s.launchOf n = some l) {f : Launch → Launch} (hf : ∀ l, (f l).num = l.num) :
    (s.onLaunch n f).launchOf n = some (f l) := by
  rw [State.launchOf_onLaunch s n n hf, h, Option.map_some, if_pos (State.num_of_launchOf h)]

theorem Launch.num_on (l : Launch) (die : Nat) : (l.on die).num = l.num := by
  unfold Launch.on
  split <;> rfl

theorem State.num_of_launchOn {s : State} {n die : Nat} {l : Launch} (h : s.launchOn n die = some l) : l.num = n := by
  obtain ⟨x, found, rfl⟩ := Option.map_eq_some_iff.mp h
  rw [Launch.num_on, State.num_of_launchOf found]

/-! ### Queues -/

/-- A table reads its default, or a value that it lists. -/
theorem SMap.get_default_or_listed {α : Type} (dflt : α) (m : SMap α) (k : Nat) :
    SMap.get dflt m k = dflt ∨ ∃ e ∈ m, e.2 = SMap.get dflt m k := by
  induction m with
  | nil => exact .inl rfl
  | cons e m ih =>
    obtain ⟨j, v⟩ := e
    unfold SMap.get
    split
    · exact .inr ⟨_, List.mem_cons_self, rfl⟩
    · split
      · exact .inl rfl
      · exact ih.imp_right fun ⟨e, he, eq⟩ => ⟨e, List.mem_cons_of_mem _ he, eq⟩

/-- A table all of whose values a function changed reads its default, or one of the function's values. -/
theorem SMap.get_mapv_cases {α : Type} [DecidableEq α] (dflt : α) (f : α → α) (m : SMap α) (k : Nat) :
    SMap.get dflt (SMap.mapv dflt f m) k = dflt ∨ ∃ v, f v = SMap.get dflt (SMap.mapv dflt f m) k := by
  refine (SMap.get_default_or_listed dflt (SMap.mapv dflt f m) k).imp_right ?_
  rintro ⟨e, he, eq⟩
  obtain ⟨x, -, rfl⟩ := List.mem_map.mp (List.mem_of_mem_filter he)
  exact ⟨x.2, eq⟩

theorem Die.queue_setQueue {d : Die} (h : SMap.wf [] d.blocks = true) (q : Nat) (xs : List QueueEntry) : (d.setQueue q xs).queue q = xs := by
  unfold Die.setQueue Die.queue
  by_cases hq : q = 8
  · simp [hq]
  · simp [hq, SMap.get_set h]

theorem Die.queue_nextBlock {d : Die} (h : SMap.wf [] d.blocks = true) (q : Nat) (l : Launch) (b : Nat) :
    (d.nextBlock q l b).queue q =
      (if b + l.packet.dies.length < l.packet.blocks then [.block l.num (b + l.packet.dies.length)] else []) ++ (d.queue q).drop 1 :=
  Die.queue_setQueue h q _

/-! ### A die's read of a packet (R319) -/

/-- The packet that a die reads for a launch now. -/
def State.packetNow (s : State) (l : Launch) : Packet := Packet.parse (s.openBytes l.world s.peek ((List.range 128).map fun j => l.place + j))

theorem State.readPackets_none {s : State} {die : Nat} (h : ∀ l ∈ s.launches, die ∉ l.unread) : s.readPackets die = s := by
  have none : (s.launches.filter fun l => l.unread.contains die) = [] :=
    List.filter_eq_nil_iff.mpr fun l hl => by simpa using h l hl
  rw [State.readPackets, none, List.foldl_nil]

theorem State.readPackets_one {s : State} {die : Nat} {l : Launch} (h : (s.launches.filter fun l => l.unread.contains die) = [l]) :
    s.readPackets die = s.readPacket die l := by
  rw [State.readPackets, h, List.foldl_cons, List.foldl_nil]

/-- What the read notes at its launch. -/
def State.noted (s : State) (die : Nat) (l : Launch) : State :=
  s.onLaunch l.num fun x =>
    { x with unread := x.unread.erase die, reads := if s.packetNow l = x.packet then x.reads else (die, s.packetNow l) :: x.reads }

/-- Every queue of a die without the blocks of a launch. -/
def Die.without (d : Die) (num : Nat) : Die :=
  let keep := fun (q : List QueueEntry) => q.filter fun e => match e with | .block n _ => decide (n ≠ num) | _ => true
  { d with system := keep d.system, blocks := SMap.mapv [] keep d.blocks }

theorem Die.queue_without (d : Die) (num q n b : Nat) (h : QueueEntry.block n b ∈ (d.without num).queue q) : n ≠ num := by
  have kept : ∀ xs : List QueueEntry,
      QueueEntry.block n b ∈ xs.filter (fun e => match e with | .block n _ => decide (n ≠ num) | _ => true) → n ≠ num := fun xs hx => by
    simpa using (List.mem_filter.mp hx).2
  unfold Die.queue Die.without at h
  dsimp only at h
  split at h
  · exact kept _ h
  · obtain none | ⟨v, eq⟩ := SMap.get_mapv_cases [] (List.filter fun e => match e with | .block n _ => decide (n ≠ num) | _ => true) d.blocks q
    · rw [none] at h
      cases h
    · rw [← eq] at h
      exact kept v h

/-- The read: what it notes, and, where the packet has changed, the queues that follow it. -/
theorem State.readPacket_eq (s : State) (die : Nat) (l : Launch) :
    s.readPacket die l =
      if s.packetNow l = l.packet then s.noted die l
      else if (s.packetNow l).malformed ∨ !(s.packetNow l).busyDies.contains die then (s.noted die l).onDie die fun d => d.without l.num
      else ((s.noted die l).onDie die fun d => d.without l.num).onDie die fun d =>
        d.setQueue (s.packetNow l).queue (d.queue (s.packetNow l).queue ++ [.block l.num ((s.packetNow l).firstBlock die)]) := by
  unfold State.readPacket State.noted State.packetNow Die.without
  rfl

theorem State.readPacket_same {s : State} {die : Nat} {l : Launch} (h : s.packetNow l = l.packet) : s.readPacket die l = s.noted die l := by
  rw [State.readPacket_eq, if_pos h]

theorem State.readPacket_malformed {s : State} {die : Nat} {l : Launch} (differs : s.packetNow l ≠ l.packet)
    (bad : (s.packetNow l).malformed = true) : s.readPacket die l = (s.noted die l).onDie die fun d => d.without l.num := by
  rw [State.readPacket_eq, if_neg differs, if_pos (Or.inl bad)]

/-- The read changes what the launch notes, and the dies. -/
theorem State.readPacket_shape (s : State) (die : Nat) (l : Launch) : ∃ ds, s.readPacket die l = { s.noted die l with dies := ds } := by
  rw [State.readPacket_eq]
  split
  · exact ⟨_, rfl⟩
  · split <;> exact ⟨_, rfl⟩

theorem State.readPacket_only (s : State) (die : Nat) (l : Launch) :
    s.readPacket die l = { s with launches := (s.readPacket die l).launches, dies := (s.readPacket die l).dies } := by
  obtain ⟨ds, eq⟩ := s.readPacket_shape die l
  rw [eq]
  rfl

theorem State.launchOf_readPacket (s : State) (die : Nat) (l : Launch) (n : Nat) : (s.readPacket die l).launchOf n = (s.noted die l).launchOf n := by
  obtain ⟨ds, eq⟩ := s.readPacket_shape die l
  rw [eq]
  rfl

/-- What a die's one read of a packet does (R319). -/
theorem State.readPackets_spec {s : State} {die : Nat} {l : Launch} (wf : SMap.wf Die.reset s.dies = true)
    (one : (s.launches.filter fun l => l.unread.contains die) = [l]) (found : s.launchOf l.num = some l) :
    let p := s.packetNow l
    let u := s.readPackets die
    u = { s with launches := u.launches, dies := u.dies } ∧
      u.launchOf l.num = some { l with unread := l.unread.erase die, reads := if p = l.packet then l.reads else (die, p) :: l.reads } ∧
      (p = l.packet → u.dies = s.dies) ∧
      (p ≠ l.packet → p.malformed = true → ∀ q num b, QueueEntry.block num b ∈ (u.die die).queue q → num ≠ l.num) := by
  dsimp only
  rw [State.readPackets_one one]
  refine ⟨s.readPacket_only die l, ?_, fun same => ?_, fun differs bad q num b mem => ?_⟩
  · rw [State.launchOf_readPacket, State.noted, State.launchOf_onLaunch_same found]
    exact fun _ => rfl
  · rw [State.readPacket_same same]
    rfl
  · rw [State.readPacket_malformed differs bad, State.die_onDie (s := s.noted die l) wf, if_pos rfl] at mem
    exact Die.queue_without _ l.num q num b mem

end Sys2Proof.Machine
end

section
/-! SUPPORT. The admission of blocks and phases (R100 to R102, R118 to R120, R322, R323; for O46). -/

namespace Sys2Proof.Machine

/-! ### Allocations of a block on its cores -/

/-- What giving a block its allocations, with the acquires of its start, leaves as it was. -/
structure State.Allotted (s t : State) : Prop where
  rest : t = { s with allocs := t.allocs, leases := t.leases, dirtyRows := t.dirtyRows }
  kept : ∀ launch block core, (s.allocAt launch block core).isSome = true → (t.allocAt launch block core).isSome = true

theorem State.Allotted.refl (s : State) : s.Allotted s := ⟨rfl, fun _ _ _ h => h⟩

theorem State.Allotted.trans {s t u : State} (h : s.Allotted t) (h' : t.Allotted u) : s.Allotted u where
  rest := by rw [h'.rest, h.rest]
  kept launch block core some := h'.kept launch block core (h.kept launch block core some)

theorem State.Allotted.gangs {s t : State} (h : s.Allotted t) : t.gangs = s.gangs := by rw [h.rest]
theorem State.Allotted.dies {s t : State} (h : s.Allotted t) : t.dies = s.dies := by rw [h.rest]
theorem State.Allotted.launches {s t : State} (h : s.Allotted t) : t.launches = s.launches := by rw [h.rest]

theorem State.allotted_acquireAt (s : State) (core scope : Nat) : s.Allotted (s.acquireAt core scope) := by
  rw [State.acquireAt_eq]
  exact ⟨rfl, fun _ _ _ h => h⟩

theorem State.allotted_allocate (s : State) (n : Need) (core threads : Nat) : s.Allotted (s.allocate n core threads) := by
  unfold State.allocate
  split
  · exact .refl s
  · refine ⟨rfl, fun launch block c some => ?_⟩
    unfold State.allocAt at some ⊢
    rw [List.find?_append]
    exact Option.isSome_or.trans (by rw [some, Bool.true_or])

/-- A block that asks for an allocation on a core has one there. -/
theorem State.allocAt_allocate (s : State) (n : Need) (core threads : Nat) :
    ((s.allocate n core threads).allocAt n.launch n.block core).isSome = true := by
  unfold State.allocate
  split
  · assumption
  · unfold State.allocAt
    rw [List.find?_append, List.find?_singleton]
    simp

/-- The allocations of a block on some cores, with the acquires of its start there. -/
def State.allotAll (s : State) (n : Need) (threads : Nat → Nat) (cores : List Nat) : State :=
  cores.foldl (fun s c => (s.allocate n c (threads c)).acquireAt c 5) s

theorem State.allotted_one (s : State) (n : Need) (c threads : Nat) : s.Allotted ((s.allocate n c threads).acquireAt c 5) :=
  (s.allotted_allocate n c threads).trans (State.allotted_acquireAt _ c 5)

theorem State.allotted_allotAll (s : State) (n : Need) (threads : Nat → Nat) (cores : List Nat) : s.Allotted (s.allotAll n threads cores) :=
  State.foldl_of_trans State.Allotted.refl State.Allotted.trans (fun s c => s.allotted_one n c (threads c)) cores s

theorem State.allocAt_allotAll (s : State) (n : Need) (threads : Nat → Nat) {cores : List Nat} {c : Nat} (h : c ∈ cores) :
    ((s.allotAll n threads cores).allocAt n.launch n.block c).isSome = true := by
  induction cores generalizing s with
  | nil => cases h
  | cons c' cores ih =>
    obtain rfl | later := List.mem_cons.mp h
    · exact (State.allotted_allotAll _ n threads cores).kept _ _ _
        ((State.allotted_acquireAt _ c 5).kept _ _ _ (s.allocAt_allocate n c (threads c)))
    · exact ih _ later

/-! ### What comes next -/

/-- The entry that comes next has the needs that it is admitted for. -/
theorem State.headNeed_of_nextAdmission {s : State} {die q : Nat} {ph : Bool} {e : QueueEntry} {n : Need}
    (h : s.nextAdmission die = some (q, ph, e, n)) : s.headNeed die q e = some n := by
  obtain ⟨x, -, fits⟩ := List.exists_of_findSome?_eq_some h
  unfold State.headFits at fits
  split at fits
  · cases fits
  · split at fits
    · cases fits
    · next m need =>
      split at fits <;> cases fits
      exact need

/-- The needs of a block that comes next are those of the launch that its die knows. -/
theorem State.need_of_block {s : State} {die q num b : Nat} {ph : Bool} {n : Need} {l : Launch}
    (h : s.nextAdmission die = some (q, ph, .block num b, n)) (hl : s.launchOn n.launch die = some l) : n = l.blockNeed b := by
  have need : (if s.entrySpilled num die q then none else (s.launchOn num die).map fun x => x.blockNeed b) = some n :=
    State.headNeed_of_nextAdmission h
  split at need
  · cases need
  · obtain ⟨x, found, rfl⟩ := Option.map_eq_some_iff.mp need
    have named : s.launchOn x.num die = some x := by rw [State.num_of_launchOn found, found]
    rw [show (x.blockNeed b).launch = x.num from rfl, named] at hl
    rw [Option.some.inj hl]

/-- A phase needs one gang. -/
theorem State.gangs_of_phase {s : State} {die q num b idx cd cg pr : Nat} {record : Word} {kept : Kept} {ph : Bool} {n : Need}
    (h : s.nextAdmission die = some (q, ph, .phase num b idx record cd cg pr kept, n)) : n.gangs = 1 := by
  have need : (if s.phaseSpilled num die record then none else (s.launchOn num die).map fun x => x.phaseNeed b) = some n :=
    State.headNeed_of_nextAdmission h
  split at need
  · cases need
  · obtain ⟨x, -, rfl⟩ := Option.map_eq_some_iff.mp need
    rfl

/-- A placement is of free slots, as many as there are gangs. -/
theorem State.free_of_placed {s : State} {n : Need} {die : Nat} {ps : List (Nat × Option Nat)} (h : s.placed n die ps = true) :
    ps.length = n.gangs ∧ ∀ p ∈ ps, s.resident p.1 = false := by
  unfold State.placed at h
  simp only [Bool.and_eq_true] at h
  obtain ⟨⟨⟨⟨⟨⟨⟨len, -⟩, -⟩, free⟩, -⟩, -⟩, -⟩, -⟩ := h
  refine ⟨by simpa using len, fun p hp => ?_⟩
  have mine := List.all_eq_true.mp free p.1 (List.mem_flatMap.mpr ⟨p, hp, List.mem_cons_self⟩)
  simp only [Bool.and_eq_true, Bool.not_eq_true'] at mine
  exact mine.1.2

/-! ### Blocks -/

/-- The gangs of a block in the slots of a placement. -/
def Launch.startGangs (l : Launch) (b : Nat) (ps : List (Nat × Option Nat)) : List Gang :=
  (List.range ps.length).flatMap fun i => l.startGang b i (ps.getD i (0, none)).1 (ps.getD i (0, none)).2

/-- The queue of a die whose block has been admitted, with what the block has drawn. -/
theorem State.queue_of_nextBlock {s : State} {die : Nat} (dies : SMap.wf Die.reset s.dies = true) (blocks : SMap.wf [] (s.die die).blocks = true)
    (q : Nat) (l : Launch) (b : Nat) :
    ((s.onDie die fun d => { d.nextBlock q l b with drawn := d.drawn ++ [(l.num, b, 0)] }).die die).queue q =
      (if b + l.packet.dies.length < l.packet.blocks then [.block l.num (b + l.packet.dies.length)] else []) ++ ((s.die die).queue q).drop 1 := by
  rw [State.die_onDie dies, if_pos rfl]
  exact Die.queue_nextBlock blocks q l b

/-- The admission of a block, over its allocations. -/
theorem State.admitBlock_eq (s : State) (die q : Nat) (l : Launch) (b : Nat) (n : Need) (ps : List (Nat × Option Nat)) :
    let a := s.allotAll n (l.threadsOn ps) (ps.map fun p => coreOf p.1).dedup
    s.admitBlock die q l b n ps =
      (State.onDie { a with gangs := a.gangs ++ l.startGangs b ps } die fun d => { d.nextBlock q l b with drawn := d.drawn ++ [(l.num, b, 0)] }).onLaunch
        l.num fun l => { l with running := l.running ++ [(die, b)] } := rfl

/-- What the admission of a block does (R100 to R102, R320, R322, R323). -/
theorem State.admitBlock_spec {s : State} {die q b : Nat} {l : Launch} {n : Need} {ps : List (Nat × Option Nat)} (need : n = l.blockNeed b)
    (dies : SMap.wf Die.reset s.dies = true) (blocks : SMap.wf [] (s.die die).blocks = true) :
    let t := s.admitBlock die q l b n ps
    t = { s with
      gangs := t.gangs, allocs := t.allocs, leases := t.leases, dies := t.dies, launches := t.launches, dirtyRows := t.dirtyRows } ∧
    t.gangs = s.gangs ++ l.startGangs b ps ∧
    (let next := b + l.packet.dies.length
     (t.die die).queue q = (if next < l.packet.blocks then [.block l.num next] else []) ++ ((s.die die).queue q).drop 1) ∧
    (∀ x, s.launchOf n.launch = some x → t.launchOf n.launch = some { x with running := x.running ++ [(die, b)] }) ∧
    ∀ p ∈ ps, (t.allocAt n.launch n.block (coreOf p.1)).isSome = true := by
  dsimp only
  rw [State.admitBlock_eq]
  dsimp only
  have allotted := s.allotted_allotAll n (l.threadsOn ps) (ps.map fun p => coreOf p.1).dedup
  have all : ∀ p ∈ ps, ((s.allotAll n (l.threadsOn ps) (ps.map fun p => coreOf p.1).dedup).allocAt n.launch n.block (coreOf p.1)).isSome = true :=
    fun p hp => s.allocAt_allotAll n _ (List.mem_dedup.mpr (List.mem_map_of_mem hp))
  generalize s.allotAll n (l.threadsOn ps) (ps.map fun p => coreOf p.1).dedup = a at allotted all
  have same : a.die die = s.die die := congrArg (fun m => SMap.get Die.reset m die) allotted.dies
  refine ⟨?_, congrArg (· ++ l.startGangs b ps) allotted.gangs, ?_, fun x found => ?_, all⟩
  · rw [allotted.rest]
    rfl
  · rw [← same] at blocks ⊢
    exact State.queue_of_nextBlock (s := { a with gangs := a.gangs ++ l.startGangs b ps }) (allotted.dies ▸ dies) blocks q l b
  · have launch : n.launch = l.num := by rw [need]; rfl
    have found' : a.launchOf l.num = some x := by
      rw [← launch, ← found]
      exact congrArg (List.find? fun l => l.num == n.launch) allotted.launches
    rw [launch]
    exact State.launchOf_onLaunch_same (s := State.onDie { a with gangs := a.gangs ++ l.startGangs b ps } die _) found' fun _ => rfl

end Sys2Proof.Machine
end

section
/-! SUPPORT. The admission of phases, and how gangs start (R100 to R102, R118 to R120, R310; for O46). -/

namespace Sys2Proof.Machine

/-! ### Gangs that wait for room in their launch's ring (R310) -/

theorem State.mem_gangs_onGang_other {s : State} {key : Nat} (f : Gang → Gang) {x : Gang} (hx : x ∈ s.gangs) (hk : x.key ≠ key) :
    x ∈ (s.onGang key f).gangs := List.mem_map.mpr ⟨x, hx, if_neg hk⟩

/-- A check of a request changes nothing, or the areas of the gang's launch and the gang. -/
theorem State.preemptCheck_cases (s : State) (key : Nat) :
    s.preemptCheck key = s ∨ ∃ n f h, s.preemptCheck key = (s.onLaunch n f).onGang key h := by
  unfold State.preemptCheck
  refine iteInduction (motive := fun t => t = s ∨ ∃ n f h, t = (s.onLaunch n f).onGang key h) (fun _ => .inl rfl) fun _ => ?_
  split
  · exact .inl rfl
  · dsimp only
    split
    · exact .inl rfl
    · exact .inr ⟨_, _, _, rfl⟩

/-- Checks of the requests of some gangs change launches and those gangs. -/
theorem State.foldl_preemptCheck (s : State) (gs : List Gang) :
    let t := gs.foldl (fun s g => s.preemptCheck g.key) s
    t = { s with gangs := t.gangs, launches := t.launches } ∧ ∀ x ∈ s.gangs, (∀ g ∈ gs, x.key ≠ g.key) → x ∈ t.gangs := by
  induction gs generalizing s with
  | nil => exact ⟨rfl, fun _ hx _ => hx⟩
  | cons g gs ih =>
    obtain ⟨rest, kept⟩ := ih (s.preemptCheck g.key)
    rw [List.foldl_cons]
    refine ⟨?_, fun x hx other => kept x ?_ fun h hh => other h (List.mem_cons_of_mem _ hh)⟩
    · obtain same | ⟨n, f, h, changed⟩ := s.preemptCheck_cases g.key
      · rwa [same] at rest ⊢
      · rw [changed] at rest ⊢
        exact rest
    · obtain same | ⟨n, f, h, changed⟩ := s.preemptCheck_cases g.key
      · rwa [same]
      · rw [changed]
        exact State.mem_gangs_onGang_other h (s := s.onLaunch n f) hx (other g List.mem_cons_self)

/-- Where no gang of the launch is under a request, nothing waits. -/
theorem State.preemptWaiting_of_no_request {s : State} {launch : Nat} (h : ∀ g ∈ s.gangs, g.launch = launch → g.request = none) :
    s.preemptWaiting launch = s := by
  have none : (s.gangs.filter fun g => g.launch == launch && g.request.isSome) = [] := List.filter_eq_nil_iff.mpr fun g hg => by
    by_cases hl : g.launch = launch
    · simp [h g hg hl]
    · simp [hl]
  rw [State.preemptWaiting, none, List.foldl_nil]

theorem State.key_ne_of_not_resident {s : State} {key : Nat} (h : s.resident key = false) {g : Gang} (hg : g ∈ s.gangs) : g.key ≠ key := by
  simpa using List.any_eq_false.mp h g hg

/-- A gang that has just come to a slot that was free, under no request, stays as it came when gangs that wait for room are looked at. -/
theorem State.preemptWaiting_new {s : State} {gs : List Gang} {new : Gang} (gangs : s.gangs = gs ++ [new]) (free : ∀ g ∈ gs, g.key ≠ new.key)
    (idle : new.request = none) (launch : Nat) :
    new ∈ (s.preemptWaiting launch).gangs ∧ ((∀ g ∈ gs, g.launch = launch → g.request = none) → s.preemptWaiting launch = s) := by
  have oldOrNew : ∀ g ∈ s.gangs, g ∈ gs ∨ g = new := fun g hg => by simpa [gangs] using hg
  constructor
  · refine (s.foldl_preemptCheck _).2 new (by simp [gangs]) fun g hg => ?_
    obtain ⟨mem, asks⟩ := List.mem_filter.mp hg
    obtain old | rfl := oldOrNew g mem
    · exact (free g old).symm
    · simp [idle] at asks
  · intro quiet
    refine State.preemptWaiting_of_no_request fun g hg hl => ?_
    obtain old | rfl := oldOrNew g hg
    · exact quiet g old hl
    · exact idle

/-! ### Reads of a unit of the hub -/

theorem State.gangs_logReads (s : State) (world : Nat) (req : BitVec 32) (ls : List Nat) : (s.logReads world req ls).gangs = s.gangs := by
  induction ls generalizing s with
  | nil => rfl
  | cons l ls ih =>
    unfold State.logReads
    split
    · rw [ih, State.violate_rest]
    · exact ih s

theorem State.gangs_readVa {s t : State} {xlate va : Word} {priv : Bool} {world n : Nat} {bs : List Byte}
    (h : s.readVa xlate va priv world n = .ok (t, bs)) : t.gangs = s.gangs := by
  unfold State.readVa at h
  split at h
  · cases h
  · next u pas walked =>
    cases h
    rw [State.gangs_logReads, (State.walked_translateRange walked).gangs]

/-! ### The admission of a phase -/

/-- The admission of a phase, once its record has been read. -/
theorem State.admitPhase_eq {s r : State} {die q block idx cd cg key : Nat} {l : Launch} {record : Word} {kept : Kept} {n : Need} {bs : List Byte}
    (read : s.readVa l.packet.xlate record true l.world (phaseSize cd cg) = .ok (r, bs)) :
    let a := (r.allocate n (coreOf key) (min 32 (l.packet.blockdim - 32 * idx))).acquireAt (coreOf key) 5
    s.admitPhase die q l block idx record cd cg kept n key =
      State.preemptWaiting
        ((State.onDie { a with gangs := a.gangs ++ [l.phaseGang bs kept block idx cd cg key] } die
          fun d => { d with phases := SMap.set [] d.phases q ((SMap.get [] d.phases q).drop 1) }).onLaunch l.num
            fun x => x.dropArea (record - l.packet.phaseRing).toNat) l.num := by
  unfold State.admitPhase
  rw [read]

/-- What the admission of a phase does (R118 to R120). -/
theorem State.admitPhase_spec {s r : State} {die q block idx cd cg key : Nat} {l : Launch} {record : Word} {kept : Kept} {n : Need} {bs : List Byte}
    (read : s.readVa l.packet.xlate record true l.world (phaseSize cd cg) = .ok (r, bs)) (free : s.resident key = false) :
    let t := s.admitPhase die q l block idx record cd cg kept n key
    t = { r with
      gangs := t.gangs, allocs := t.allocs, leases := t.leases, dies := t.dies, launches := t.launches, dirtyRows := t.dirtyRows } ∧
    l.phaseGang bs kept block idx cd cg key ∈ t.gangs ∧
    ((∀ h ∈ s.gangs, h.launch = l.num → h.request = none) → t.gangs = s.gangs ++ [l.phaseGang bs kept block idx cd cg key]) := by
  dsimp only
  rw [State.admitPhase_eq read]
  have allotted := r.allotted_one n (coreOf key) (min 32 (l.packet.blockdim - 32 * idx))
  generalize (r.allocate n (coreOf key) (min 32 (l.packet.blockdim - 32 * idx))).acquireAt (coreOf key) 5 = a at allotted
  have gangs : a.gangs = s.gangs := allotted.gangs.trans (State.gangs_readVa read)
  have rest := allotted.rest
  generalize hnew : l.phaseGang bs kept block idx cd cg key = new
  have newKey : new.key = key := hnew ▸ rfl
  have newRequest : new.request = none := hnew ▸ rfl
  generalize hu : (State.onDie { a with gangs := a.gangs ++ [new] } die _).onLaunch l.num _ = u
  have uGangs : u.gangs = s.gangs ++ [new] := by rw [← hu, ← gangs]; rfl
  have uRest : u = { r with
      gangs := u.gangs, allocs := u.allocs, leases := u.leases, dies := u.dies, launches := u.launches, dirtyRows := u.dirtyRows } := by
    rw [← hu, rest]; rfl
  have waiting := State.preemptWaiting_new uGangs (fun g hg => newKey ▸ State.key_ne_of_not_resident free hg) newRequest l.num
  refine ⟨?_, waiting.1, fun quiet => ?_⟩
  · rw [State.preemptWaiting, (u.foldl_preemptCheck _).1, uRest]
  · rw [waiting.2 quiet, uGangs]

/-! ### The event -/

theorem State.exec_blockAdmission (s : State) (die : Nat) (keys : List Nat) : exec (.blockAdmission die keys) s = .next (s.admitNext die keys) := rfl

theorem State.admitNext_none {s : State} {die : Nat} (keys : List Nat) (h : (s.readPackets die).nextAdmission die = none) :
    s.admitNext die keys = s.readPackets die := by
  unfold State.admitNext
  simp only [h]

theorem State.admitNext_not_placed {s : State} {die q : Nat} {ph : Bool} {e : QueueEntry} {n : Need} {l : Launch} {keys : List Nat}
    (next : (s.readPackets die).nextAdmission die = some (q, ph, e, n)) (known : (s.readPackets die).launchOn n.launch die = some l)
    (no : (s.readPackets die).placed n die (pairKeys (n.slots == 2) keys) = false) : s.admitNext die keys = s.readPackets die := by
  unfold State.admitNext
  simp [next, known, no]

theorem State.admitNext_block {s : State} {die q num b : Nat} {ph : Bool} {n : Need} {l : Launch} {keys : List Nat}
    (next : (s.readPackets die).nextAdmission die = some (q, ph, .block num b, n)) (known : (s.readPackets die).launchOn n.launch die = some l)
    (placed : (s.readPackets die).placed n die (pairKeys (n.slots == 2) keys) = true) :
    s.admitNext die keys = (s.readPackets die).admitBlock die q l b n (pairKeys (n.slots == 2) keys) := by
  unfold State.admitNext
  simp [next, known, placed]

theorem State.admitNext_phase {s : State} {die q num b idx cd cg pr : Nat} {record : Word} {kept : Kept} {ph : Bool} {n : Need} {l : Launch}
    {keys : List Nat} (next : (s.readPackets die).nextAdmission die = some (q, ph, .phase num b idx record cd cg pr kept, n))
    (known : (s.readPackets die).launchOn n.launch die = some l)
    (placed : (s.readPackets die).placed n die (pairKeys (n.slots == 2) keys) = true) :
    s.admitNext die keys =
      (s.readPackets die).admitPhase die q l b idx record cd cg kept n ((pairKeys (n.slots == 2) keys).getD 0 (0, none)).1 := by
  unfold State.admitNext
  simp [next, known, placed]

/-- The slot of a phase that comes next is free. -/
theorem State.free_of_placed_phase {s : State} {die q num b idx cd cg pr : Nat} {record : Word} {kept : Kept} {ph : Bool} {n : Need}
    {ps : List (Nat × Option Nat)} (next : s.nextAdmission die = some (q, ph, .phase num b idx record cd cg pr kept, n))
    (placed : s.placed n die ps = true) : s.resident (ps.getD 0 (0, none)).1 = false := by
  obtain ⟨count, free⟩ := State.free_of_placed placed
  match ps, count.trans (State.gangs_of_phase next) with
  | [p], _ => exact free p List.mem_cons_self

/-! ### Gangs at their start -/

/-- A lane of a gang whose threads are given by lane. -/
theorem Gang.lane_of_threads {g : Gang} {f : Nat → Thread} (h : g.threads = (List.range 32).map f) {k : Nat} (hk : k < 32) : g.lane k = f k := by
  unfold Gang.lane
  rw [h, List.getD_eq_getElem _ _ (by simpa using hk)]
  simp

/-- The thread of a lane of a gang at an entry address (R100, R102). -/
def Launch.startThread (l : Launch) (b i : Nat) (pc : Word) (k : Nat) : Thread :=
  Thread.start pc l.num b (32 * i + k) (if l.packet.hasLane i k then .runnable else .exited)

/-- How a block's gang starts (R100 to R102, R121). -/
theorem Launch.startGang_spec (l : Launch) (b i slot : Nat) (sh : Option Nat) : ∃ h, (l.startGang b i slot sh).head? = some h ∧
    h = { h with
      key := slot, launch := l.num, block := b, idx := i, allot := 8 * l.packet.gangregs, xlate := l.packet.xlate, world := l.world, g := [], m := []
      arrive := [], trapVec := l.packet.trapHandler, shadow := sh } ∧
    ∀ k < 32, h.lane k = { h.lane k with
      pc := l.packet.entry, mode := .user, wait := .no, d := [], p := 0, h := [], fflags := 0, launch := l.num, block := b, tid := 32 * i + k
      cond := if 32 * i + k < l.packet.blockdim then .runnable else .exited } := by
  refine ⟨_, rfl, rfl, fun k hk => ?_⟩
  rw [Gang.lane_of_threads (f := l.startThread b i l.packet.entry) rfl hk]
  unfold Launch.startThread Packet.hasLane
  simp only [decide_eq_true_eq]
  rfl

/-- A table that is written at every key below a bound but 0. -/
theorem SMap.get_foldl_range {α : Type} [DecidableEq α] (dflt : α) (f : Nat → α) (n : Nat) :
    let m := (List.range n).foldl (fun m i => if i = 0 then m else SMap.set dflt m i (f i)) []
    SMap.wf dflt m = true ∧ ∀ k, SMap.get dflt m k = if 0 < k ∧ k < n then f k else dflt := by
  induction n with
  | zero => exact ⟨rfl, fun k => by simp⟩
  | succ n ih =>
    obtain ⟨wf, get⟩ := ih
    rw [List.range_succ, List.foldl_append, List.foldl_cons, List.foldl_nil]
    by_cases zero : n = 0
    · rw [if_pos zero]
      refine ⟨wf, fun k => ?_⟩
      rw [get, if_neg (by omega), if_neg (by omega)]
    · rw [if_neg zero]
      refine ⟨SMap.wf_set wf n (f n), fun k => ?_⟩
      rw [SMap.get_set wf, get]
      by_cases last : k = n
      · rw [if_pos last, if_pos (by omega), last]
      · rw [if_neg last]
        exact if_congr (by omega) rfl rfl

/-- A field of at most eight bytes is the word that they hold. -/
theorem toNat_word_recField (bs : List Byte) (off : Nat) : (word (recField bs off 8)).toNat = recField bs off 8 := by
  have short : ((bs.drop off).take 8).length ≤ 8 := List.length_take_le _ _
  have small : recField bs off 8 < 256 ^ 8 := (leNat_lt _).trans_le (Nat.pow_le_pow_right (by decide) short)
  rw [word, BitVec.toNat_ofNat, Nat.mod_eq_of_lt (by omega)]

/-- What a phase's gang takes from its record and from what its slot kept (R51, R87, R119, R120). -/
theorem Launch.phaseGang_spec (l : Launch) (bs : List Byte) (kept : Kept) (b i cd cg slot : Nat) :
    let h := l.phaseGang bs kept b i cd cg slot
    let w := fun n => word (leNat ((bs.drop n).take 8))
    h.key = slot ∧ h.launch = l.num ∧ h.phase = (w 0).toNat + 1 ∧ h.scaccError = kept.scacc ∧ (∀ n < cg, h.getG n = if n = 0 then 0 else w (0x1680 + 8 * n)) ∧
    ∀ k < 32, (h.lane k).pc = w (0x80 + 32 * k) ∧ (h.lane k).meet = w (0x88 + 32 * k) ∧ (h.lane k).mode = .user ∧
      (h.lane k).fflags = (kept.flags.getD k (0, false)).1 ∧ (h.lane k).arrivals = kept.arrivals.getD k [] ∧
      ∀ n < cd, (h.lane k).getD n = if n = 0 then 0 else w (0x1680 + 8 * cg + 256 * n + 8 * k) := by
  refine ⟨rfl, rfl, congrArg (· + 1) (toNat_word_recField bs 0).symm, rfl, fun n hn => ?_, fun k hk => ?_⟩
  · obtain ⟨-, get⟩ := SMap.get_foldl_range 0 (fun n => word (recField bs (0x1680 + 8 * n) 8)) cg
    unfold Gang.getG
    by_cases zero : n = 0
    · rw [if_pos zero, if_pos zero]
    · rw [if_neg zero, if_neg zero]
      exact (get n).trans (if_pos (by omega))
  · rw [Gang.lane_of_threads rfl hk]
    refine ⟨rfl, ?_, rfl, rfl, rfl, fun n hn => ?_⟩
    · rw [show 0x88 + 32 * k = 0x80 + 32 * k + 8 by omega]
      rfl
    · obtain ⟨-, get⟩ := SMap.get_foldl_range 0 (fun n => word (recField bs (0x1680 + 8 * cg + 256 * n + 8 * k) 8)) cd
      unfold Thread.getD
      by_cases zero : n = 0
      · rw [if_pos zero, if_pos zero]
      · rw [if_neg zero, if_neg zero]
        exact (get n).trans (if_pos (by omega))

end Sys2Proof.Machine
end

section
/-! SUPPORT. Gangs that leave their partitions, the ends of gangs and launches (R87, R101, R318; for O46). -/

namespace Sys2Proof.Machine

/-! ### A gang leaves its partition -/

/-- The gangs that stay when that of a slot, with its shadow, leaves. -/
def State.staying (s : State) (key : Nat) : List Gang := s.gangs.filter fun h => h.key ≠ key ∧ some h.key ≠ (s.gangAt key).shadow

theorem State.freeAlloc_rest (s : State) (launch block core : Nat) :
    s.freeAlloc launch block core =
      { s with allocs := (s.freeAlloc launch block core).allocs, dirtyRows := (s.freeAlloc launch block core).dirtyRows } := by
  unfold State.freeAlloc
  split <;> rfl

theorem State.vacate_rest (s : State) (key : Nat) :
    let t := s.vacate key
    t = { s with coreHzn := t.coreHzn, gangs := s.staying key, allocs := t.allocs, dirtyRows := t.dirtyRows, checked := t.checked, clearing := t.clearing } := by
  unfold State.vacate
  dsimp only
  rw [State.freeAlloc_rest]
  split
  · rfl
  · split
    · rfl
    · split <;> rfl

theorem State.gangs_vacate (s : State) (key : Nat) : (s.vacate key).gangs = s.staying key := by rw [s.vacate_rest key]
theorem State.saved_vacate (s : State) (key : Nat) : (s.vacate key).saved = s.saved := by rw [s.vacate_rest key]

theorem State.mem_staying {s : State} {key : Nat} {g : Gang} :
    g ∈ s.staying key ↔ g ∈ s.gangs ∧ g.key ≠ key ∧ some g.key ≠ (s.gangAt key).shadow := by
  rw [State.staying, List.mem_filter, decide_eq_true_eq]

theorem State.resident_of_staying {s t : State} {key : Nat} (h : t.gangs = s.staying key) : t.resident key = false := by
  refine List.any_eq_false.mpr fun g hg => ?_
  rw [h] at hg
  simpa using (State.mem_staying.mp hg).2.1

theorem State.gangAt_of_staying {s t : State} {key key' : Nat} (h : t.gangs = s.staying key) (other : key' ≠ key)
    (notShadow : some key' ≠ (s.gangAt key).shadow) : t.gangAt key' = s.gangAt key' := by
  unfold State.gangAt
  rw [h, State.staying, List.find?_filter]
  congr 2
  funext g
  by_cases hk : g.key = key'
  · simp [hk, other, notShadow]
  · simp [hk]

/-! ### The end of a gang -/

/-- The conditions on which a gang ends (R101, R121). -/
def State.Ends (s : State) (key : Nat) : Prop :=
  s.resident key = true ∧ (s.gangAt key).live = 0 ∧ s.quiet key = true ∧ (s.gangAt key).shadowOf = none

/-- A gang's end, before its block counts it. -/
def State.gangLeft (s : State) (key : Nat) : State :=
  (((s.postScacc key).dropShadow (s.gangAt key).shadow).vacate key).onLaunch (s.gangAt key).launch fun l =>
    { l with hzn := max l.hzn (s.lastWrite (s.gangAt key)) }

theorem State.endGang_not_due {s : State} {key : Nat} (h : ¬ s.Ends key) : s.endGang key = s := by
  unfold State.endGang
  refine if_pos ?_
  by_contra due
  simp only [Bool.not_eq_true, Bool.or_eq_false_iff, Bool.not_eq_false', bne_eq_false_iff_eq, Option.isSome_eq_false_iff,
    Option.isNone_iff_eq_none] at due
  obtain ⟨⟨⟨resident, live⟩, quiet⟩, shadowOf⟩ := due
  exact h ⟨resident, live, quiet, shadowOf⟩

theorem State.postScacc_rest (s : State) (key : Nat) : s.postScacc key = { s with faults := (s.postScacc key).faults } := by
  unfold State.postScacc
  split <;> rfl

theorem State.groupsOf_postScacc (s : State) (key : Nat) (g : Gang) : (s.postScacc key).groupsOf g = s.groupsOf g := by
  rw [s.postScacc_rest key]
  rfl

theorem State.endGang_due {s : State} {key : Nat} (h : s.Ends key) :
    let g := s.gangAt key
    s.endGang key =
      if g.byCrossing then s.gangLeft key
      else (((s.gangLeft key).onLaunch g.launch fun l => { l with gone := l.gone ++ [g.number] }).endBlock g.launch g.block (dieOf key)).checkGroups
        g.launch (s.groupsOf g) := by
  obtain ⟨resident, live, quiet, shadowOf⟩ := h
  unfold State.endGang State.gangLeft
  simp only [resident, live, quiet, shadowOf, State.groupsOf_postScacc]
  rfl

theorem State.dropShadow_rest (s : State) (sh : Option Nat) :
    s.dropShadow sh = { s with loads := (s.dropShadow sh).loads, oplog := (s.dropShadow sh).oplog } := by
  unfold State.dropShadow
  split <;> rfl

/-- What the end of a gang leaves of gangs, of saved gangs and of dies. -/
theorem State.gangLeft_rest (s : State) (key : Nat) :
    (s.gangLeft key).gangs = s.staying key ∧ (s.gangLeft key).saved = s.saved ∧ (s.gangLeft key).dies = s.dies := by
  have before : ∃ fs ls os, (s.postScacc key).dropShadow (s.gangAt key).shadow = { s with faults := fs, loads := ls, oplog := os } := by
    rw [State.dropShadow_rest, State.postScacc_rest]
    exact ⟨_, _, _, rfl⟩
  unfold State.gangLeft
  obtain ⟨fs, ls, os, eq⟩ := before
  rw [eq, State.vacate_rest]
  exact ⟨rfl, rfl, rfl⟩

/-- The launch of a gang that ends, with the last of the gang's writes. -/
theorem State.launchOf_gangLeft {s : State} {key : Nat} {l : Launch} (h : s.launchOf (s.gangAt key).launch = some l) :
    (s.gangLeft key).launchOf (s.gangAt key).launch = some { l with hzn := max l.hzn (s.lastWrite (s.gangAt key)) } := by
  refine State.launchOf_onLaunch_same (s := ((s.postScacc key).dropShadow (s.gangAt key).shadow).vacate key) ?_ fun _ => rfl
  rw [State.vacate_rest, State.dropShadow_rest, State.postScacc_rest]
  exact h

/-! ### The end of a block -/

/-- A block still has a gang that is resident, saved, or queued for a next phase on a die. -/
def State.Goes (s : State) (launch block die : Nat) : Prop :=
  (∃ h ∈ s.gangs, h.launch = launch ∧ h.block = block ∧ h.byCrossing = false) ∨ (∃ v ∈ s.saved, v.launch = launch ∧ v.block = block) ∨
    ∃ q ∈ (s.die die).phases, ∃ l b i r x y z w, QueueEntry.phase l b i r x y z w ∈ q.2 ∧ l = launch ∧ b = block

theorem State.blockOver_iff {s : State} {launch block die : Nat} : s.blockOver launch block die = true ↔ ¬ s.Goes launch block die := by
  unfold State.blockOver State.Goes
  rw [Bool.and_eq_true, Bool.and_eq_true, Bool.not_eq_true', Bool.not_eq_true', List.any_eq_false, List.any_eq_false, List.all_eq_true, not_or, not_or,
    and_assoc]
  refine and_congr ?_ (and_congr ?_ ?_)
  · simp [and_assoc]
  · simp
  · constructor
    · rintro all ⟨q, hq, l, b, i, r, x, y, z, w, mem, rfl, rfl⟩
      simpa using List.all_eq_true.mp (all q hq) _ mem
    · intro none q hq
      refine List.all_eq_true.mpr fun e he => ?_
      cases e with
      | block => rfl
      | saved => rfl
      | phase l b i r x y z w =>
        by_contra here
        have names : l = launch ∧ b = block := by simpa using here
        exact none ⟨q, hq, l, b, i, r, x, y, z, w, he, names⟩

theorem State.endBlock_goes {s : State} {launch block die : Nat} (h : s.Goes launch block die) : s.endBlock launch block die = s := by
  unfold State.endBlock
  rw [if_pos]
  rw [Bool.not_eq_true', Bool.eq_false_iff]
  exact fun counted => State.blockOver_iff.mp counted h

/-- A block that is over counts at its launch. -/
theorem State.launchOf_endBlock {s : State} {launch block die : Nat} {l : Launch} (h : ¬ s.Goes launch block die) (found : s.launchOf launch = some l) :
    (s.endBlock launch block die).launchOf launch = some { l with ended := l.ended + 1, running := l.running.filter (· ≠ (die, block)) } := by
  unfold State.endBlock
  rw [State.blockOver_iff.mpr h]
  exact State.launchOf_onLaunch_same found fun _ => rfl

theorem State.gangs_endBlock (s : State) (launch block die : Nat) : (s.endBlock launch block die).gangs = s.gangs := by
  unfold State.endBlock
  split <;> rfl

/-- A gang's block goes on after its end where it has another gang, one that is saved, or one queued for a next phase. -/
theorem State.goes_after_end {s : State} (key launch block die : Nat) (f : Launch → Launch) :
    ((s.gangLeft key).onLaunch launch f).Goes launch block die ↔
      (∃ h ∈ s.gangs, h.key ≠ key ∧ some h.key ≠ (s.gangAt key).shadow ∧ h.launch = launch ∧ h.block = block ∧ h.byCrossing = false) ∨
        (∃ v ∈ s.saved, v.launch = launch ∧ v.block = block) ∨
        ∃ q ∈ (s.die die).phases, ∃ l b i r x y z w, QueueEntry.phase l b i r x y z w ∈ q.2 ∧ l = launch ∧ b = block := by
  obtain ⟨gangs, saved, dies⟩ := s.gangLeft_rest key
  unfold State.Goes State.die
  rw [show ((s.gangLeft key).onLaunch launch f).gangs = s.staying key from gangs, show ((s.gangLeft key).onLaunch launch f).saved = s.saved from saved,
    show ((s.gangLeft key).onLaunch launch f).dies = s.dies from dies]
  refine or_congr (exists_congr fun h => ?_) Iff.rfl
  rw [State.mem_staying]
  tauto

/-- What the end of a gang does (R101, R318). -/
theorem State.gangEnd_spec {s : State} {key : Nat} (ends : s.Ends key) :
    let g := s.gangAt key
    ∃ u : State, exec (.gangEnd key) s = .next (if g.byCrossing then u else u.checkGroups g.launch (s.groupsOf g)) ∧ u.resident key = false ∧
      (∀ key', key' ≠ key → some key' ≠ g.shadow → u.gangAt key' = s.gangAt key') ∧
      (∀ l, g.byCrossing = true → s.launchOf g.launch = some l → u.launchOf g.launch = some { l with hzn := max l.hzn (s.lastWrite g) }) ∧
      (∀ l, g.byCrossing = false → s.launchOf g.launch = some l →
        let others := (∃ h ∈ s.gangs, h.key ≠ key ∧ some h.key ≠ g.shadow ∧ h.launch = g.launch ∧ h.block = g.block ∧ h.byCrossing = false) ∨
          (∃ v ∈ s.saved, v.launch = g.launch ∧ v.block = g.block) ∨
          ∃ q ∈ (s.die (dieOf key)).phases, ∃ l b i r x y z w, QueueEntry.phase l b i r x y z w ∈ q.2 ∧ l = g.launch ∧ b = g.block
        ∃ l', u.launchOf g.launch = some l' ∧ l'.gone = l.gone ++ [512 * g.block + g.idx] ∧ l'.hzn = max l.hzn (s.lastWrite g) ∧ (others → l'.ended = l.ended) ∧
          (¬others → l'.ended = l.ended + 1)) := by
  have run : exec (.gangEnd key) s = .next (s.endGang key) := rfl
  have ended := State.endGang_due ends
  have gangs := (s.gangLeft_rest key).1
  dsimp only at ended ⊢
  cases crossing : (s.gangAt key).byCrossing with
  | true =>
    rw [crossing, if_pos rfl] at ended
    refine ⟨s.gangLeft key, run.trans (congrArg _ ended), State.resident_of_staying gangs, fun key' => State.gangAt_of_staying gangs,
      fun l _ => State.launchOf_gangLeft, fun l no => nomatch no⟩
  | false =>
    rw [crossing, if_neg Bool.false_ne_true] at ended
    have gangs' := (State.gangs_endBlock ((s.gangLeft key).onLaunch (s.gangAt key).launch fun l => { l with gone := l.gone ++ [(s.gangAt key).number] })
      (s.gangAt key).launch (s.gangAt key).block (dieOf key)).trans gangs
    refine ⟨_, run.trans (congrArg _ ended), State.resident_of_staying gangs', fun key' => State.gangAt_of_staying gangs',
      fun l no => (nomatch no), fun l _ found => ?_⟩
    have left := State.launchOf_onLaunch_same (State.launchOf_gangLeft found)
      (f := fun l => { l with gone := l.gone ++ [(s.gangAt key).number] }) fun _ => rfl
    rw [← State.goes_after_end key (s.gangAt key).launch (s.gangAt key).block (dieOf key)
      fun l => { l with gone := l.gone ++ [(s.gangAt key).number] }]
    by_cases goes : ((s.gangLeft key).onLaunch (s.gangAt key).launch fun l => { l with gone := l.gone ++ [(s.gangAt key).number] }).Goes
      (s.gangAt key).launch (s.gangAt key).block (dieOf key)
    · rw [State.endBlock_goes goes]
      exact ⟨_, left, rfl, rfl, fun _ => rfl, fun no => absurd goes no⟩
    · exact ⟨_, State.launchOf_endBlock goes left, rfl, rfl, fun yes => absurd yes goes, fun _ => rfl⟩

/-! ### The end of a launch -/

theorem State.launchCompletion_not_over {s : State} {num : Nat} (h : s.launchOver num = false) : exec (.launchCompletion num) s = .next s := by
  show Host.Outcome.next (if s.launchOver num = true then _ else s) = _
  rw [h, if_neg Bool.false_ne_true]

/-- What the completion of a launch does (R157, R318). -/
theorem State.launchCompletion_over {s r : State} {num : Nat} {l : Launch} (finished : s.launchOver num = true) (found : s.launchOf num = some l)
    (written : (State.closeCtxs { s with gtime := max s.gtime (l.hzn + s.marginNs.toNat) } num).writeVa l.packet.xlate l.packet.completion true l.world
      (leBytes 8 (completionWord l.status l.ended).toNat) = .ok r) : exec (.launchCompletion num) s = .next (r.forget num) := by
  have foundThere : (State.closeCtxs { s with gtime := max s.gtime (l.hzn + s.marginNs.toNat) } num).launchOf num = some l := found
  show Host.Outcome.next (if s.launchOver num = true then _ else s) = _
  rw [finished, if_pos rfl, found]
  show Host.Outcome.next ((State.closeCtxs { s with gtime := max s.gtime (l.hzn + s.marginNs.toNat) } num).complete num) = _
  unfold State.complete
  simp only [foundThere, written]

end Sys2Proof.Machine
end

section
/-! SUPPORT. Requests of pre-emption (R326, R338, R362; for O46). -/

namespace Sys2Proof.Machine

/-- A gang after a request of pre-emption: with a deadline, unless one stands or its save is under way (R338). -/
def Gang.requested (s : State) (g : Gang) : Gang :=
  if g.request = none ∧ g.taken = false then { g with request := some (s.gtime + max 1 (s.die (dieOf g.key)).watchdogUs.toNat * 1000) } else g

theorem Gang.key_requested (s : State) (g : Gang) : (g.requested s).key = g.key := by
  unfold Gang.requested
  split <;> rfl

/-- A second request changes nothing. -/
theorem Gang.requested_requested (s : State) (g : Gang) : (g.requested s).requested s = g.requested s := by
  unfold Gang.requested
  by_cases h : g.request = none ∧ g.taken = false <;> simp [h]

theorem State.requestGang_gangs (s : State) (key : Nat) :
    s.requestGang key = { s with gangs := s.gangs.map fun g => if g.key = key then g.requested s else g } := by
  have one : ∀ g : Gang, (if g.key = key then
      (if g.request.isSome || g.taken then g else { g with request := some (s.gtime + s.watchdogNs (dieOf key)) }) else g)
        = if g.key = key then g.requested s else g := fun g => by
    by_cases hk : g.key = key
    · rw [if_pos hk, if_pos hk, Gang.requested, hk]
      cases g.request <;> cases g.taken <;> rfl
    · rw [if_neg hk, if_neg hk]
  unfold State.requestGang State.onGang
  simp only [one]

/-- Requests for the gangs of some slots. -/
theorem State.foldl_requestGang (s : State) (ks : List Nat) :
    ks.foldl (fun s k => s.requestGang k) s = { s with gangs := s.gangs.map fun g => if ks.contains g.key then g.requested s else g } := by
  induction ks generalizing s with
  | nil => simp
  | cons k ks ih =>
    rw [List.foldl_cons, ih, State.requestGang_gangs, List.map_map]
    congr 1
    refine List.map_congr_left fun g _ => ?_
    have same : ∀ x : Gang, x.requested { s with gangs := s.gangs.map fun g => if g.key = k then g.requested s else g } = x.requested s := fun _ => rfl
    simp only [Function.comp, same, List.contains_cons]
    by_cases hk : g.key = k
    · simp only [hk, if_true, Gang.key_requested, beq_self_eq_true, Bool.true_or, Gang.requested_requested, ite_self]
    · simp only [hk, if_false, beq_eq_false_iff_ne.mpr hk, Bool.false_or]

/-- A resident gang after requests for the gangs of some slots. -/
theorem State.gangAt_foldl_requestGang {s : State} {k : Nat} (h : s.resident k = true) (ks : List Nat) :
    (ks.foldl (fun s k => s.requestGang k) s).gangAt k = if ks.contains k then (s.gangAt k).requested s else s.gangAt k := by
  rw [State.foldl_requestGang, State.gangAt_map (f := fun g => if ks.contains g.key then g.requested s else g) (s := s) _ rfl h, State.gangAt_key h]
  intro g
  split
  · exact Gang.key_requested s g
  · rfl

theorem State.requested_gangAt {s : State} {k : Nat} (h : s.resident k = true) :
    (s.gangAt k).requested s =
      if (s.gangAt k).request = none ∧ (s.gangAt k).taken = false then
        { s.gangAt k with request := some (s.gtime + max 1 (s.die (dieOf k)).watchdogUs.toNat * 1000) }
      else s.gangAt k := by
  unfold Gang.requested
  rw [show dieOf (s.gangAt k).key = dieOf k from congrArg dieOf (State.gangAt_key h)]

theorem State.gangAt_mem {s : State} {k : Nat} (h : s.resident k = true) : s.gangAt k ∈ s.gangs := by
  obtain ⟨g, hg, hk⟩ := List.any_eq_true.mp h
  unfold State.gangAt
  cases found : s.gangs.find? fun g => g.key == k with
  | none => exact absurd hk (List.find?_eq_none.mp found g hg)
  | some x => exact List.mem_of_find?_eq_some found

/-- Where no two gangs share a slot, a slot is among those of the gangs that satisfy a test where its gang does. -/
theorem State.contains_keys {s : State} (nodup : (s.gangs.map fun h => h.key).Nodup) {k : Nat} (h : s.resident k = true) (p : Gang → Bool) :
    ((s.gangs.filter p).map fun g => g.key).contains k = p (s.gangAt k) := by
  have mine : ∀ g ∈ s.gangs, g.key = k → g = s.gangAt k := fun g hg hk =>
    List.inj_on_of_nodup_map nodup hg (State.gangAt_mem h) (hk.trans (State.gangAt_key h).symm)
  rw [Bool.eq_iff_iff, List.contains_iff_mem, List.mem_map]
  constructor
  · rintro ⟨g, hg, hk⟩
    obtain ⟨mem, holds⟩ := List.mem_filter.mp hg
    rwa [← mine g mem hk]
  · exact fun holds => ⟨s.gangAt k, List.mem_filter.mpr ⟨State.gangAt_mem h, holds⟩, State.gangAt_key h⟩

/-- Requests for the resident gangs that satisfy a test, as requests for their slots. -/
theorem State.foldl_requestGang_if (s : State) (p : Gang → Prop) [DecidablePred p] (gs : List Gang) :
    gs.foldl (fun s g => if p g then s.requestGang g.key else s) s =
      ((gs.filter fun g => decide (p g)).map fun g => g.key).foldl (fun s k => s.requestGang k) s := by
  rw [List.foldl_map, List.foldl_filter]
  simp only [decide_eq_true_eq]

/-- A standing request keeps system software and the scheduler from another (R326, R362). -/
theorem State.preemptRequest_stands {s : State} {gs : List Nat} (h : s.requestStands (dieOf (gs.headD 0)) = true) :
    exec (.preemptRequest .control gs) s = .next s ∧ exec (.preemptRequest .scheduler gs) s = .next s :=
  ⟨congrArg _ (if_pos h), congrArg _ (if_pos h)⟩

theorem State.requestPreempt_control {s : State} {gs : List Nat} (free : s.requestStands (dieOf (gs.headD 0)) = false) :
    s.requestPreempt .control gs =
      ((s.gangs.filter fun g => decide (dieOf g.key = dieOf (gs.headD 0) ∧ g.launch = (s.die (dieOf (gs.headD 0))).preemptLaunch.toNat)).map
        fun g => g.key).foldl (fun s k => s.requestGang k) s :=
  (if_neg (Bool.eq_false_iff.mp free)).trans (State.foldl_requestGang_if s _ s.gangs)

theorem State.requestPreempt_scheduler {s : State} {gs : List Nat} {r num b : Nat} (free : s.requestStands (dieOf (gs.headD 0)) = false)
    (victim : s.victim (dieOf (gs.headD 0)) = some (r, num, b)) :
    s.requestPreempt .scheduler gs =
      ((s.gangs.filter fun g => decide (dieOf g.key = dieOf (gs.headD 0) ∧ g.launch = num ∧ g.block = b ∧ !g.byCrossing)).map
        fun g => g.key).foldl (fun s k => s.requestGang k) s := by
  rw [← State.foldl_requestGang_if s (fun g => dieOf g.key = dieOf (gs.headD 0) ∧ g.launch = num ∧ g.block = b ∧ !g.byCrossing)]
  unfold State.requestPreempt
  simp only [free, victim, Bool.false_eq_true, if_false]

/-- The slots whose gangs a request reaches, for its three sources (R326, R338, R362). -/
theorem State.preemptRequest_keys {s : State} (nodup : (s.gangs.map fun h => h.key).Nodup) {source : PreemptBy} {gs : List Nat}
    {asked : Nat → Gang → Bool} (h : let d := dieOf (gs.headD 0)
      (source = .debugger ∧ asked = fun k _ => gs.contains k) ∨
      (source = .control ∧ s.requestStands d = false ∧ asked = fun k h => dieOf k == d && h.launch == (s.die d).preemptLaunch.toNat) ∨
      (∃ r num b, source = .scheduler ∧ s.requestStands d = false ∧ s.victim d = some (r, num, b) ∧
        asked = fun k h => dieOf k == d && h.launch == num && h.block == b && !h.byCrossing)) :
    ∃ ks : List Nat, exec (.preemptRequest source gs) s = .next (ks.foldl (fun s k => s.requestGang k) s) ∧
      ∀ k, s.resident k = true → ks.contains k = asked k (s.gangAt k) := by
  have run : exec (.preemptRequest source gs) s = .next (s.requestPreempt source gs) := rfl
  dsimp only at h
  obtain ⟨rfl, rfl⟩ | ⟨rfl, free, rfl⟩ | ⟨r, num, b, rfl, free, victim, rfl⟩ := h
  · exact ⟨gs, rfl, fun _ _ => rfl⟩
  · refine ⟨_, run.trans (congrArg _ (State.requestPreempt_control free)), fun k resident => (State.contains_keys nodup resident _).trans ?_⟩
    rw [State.gangAt_key resident, Bool.eq_iff_iff]
    simp
  · refine ⟨_, run.trans (congrArg _ (State.requestPreempt_scheduler free victim)), fun k resident => (State.contains_keys nodup resident _).trans ?_⟩
    rw [State.gangAt_key resident, Bool.eq_iff_iff]
    simp [and_assoc]

end Sys2Proof.Machine
end

section
/-! SUPPORT. The ends of saves and the starts of restores (R309 to R314, R339, R340), and O46. -/

namespace Sys2Proof.Machine

/-! ### The end of a save -/

/-- A gang's save has ended, by a test that its threads meet (R309, R314). -/
def State.SaveDue (s : State) (key : Nat) (waits : Thread → Bool) : Prop :=
  (s.gangAt key).taken = true ∧ (s.gangAt key).live ≠ 0 ∧ (∀ k, (s.gangAt key).live.getLsbD k = true → waits ((s.gangAt key).lane k) = true) ∧
    s.drained key = true

theorem State.saveDue_iff {s : State} {key : Nat} {waits : Thread → Bool} :
    ((s.gangAt key).taken && (s.gangAt key).live != 0 && ((lanes (s.gangAt key).live).all fun k => waits ((s.gangAt key).lane k)) && s.drained key) = true
      ↔ s.SaveDue key waits := by
  simp only [Bool.and_eq_true, bne_iff_ne, List.all_eq_true, mem_lanes, and_assoc, State.SaveDue]

/-- The two ways in which a save ends: by the routine, and by the sequencer (R309, R314). -/
theorem State.exec_save {s : State} {key : Nat} {i : Instr} {fields : List (Nat × List Carried)} {hardware : Bool} {waits : Thread → Bool}
    (h : (i, fields, hardware, waits) ∈
      [ (Instr.saveComplete key, [], false, fun t : Thread => t.mode == .save && t.wait == .halt),
        (Instr.ctxSequencerSave key, s.sequencerFields (s.gangAt key) (s.allocAt (s.gangAt key).launch (s.gangAt key).block (coreOf key)), true,
          fun t : Thread => t.cond == .stopped .safePoint) ]) :
    exec i s = .next
      (if (s.gangAt key).taken && (s.gangAt key).live != 0 && ((lanes (s.gangAt key).live).all fun k => waits ((s.gangAt key).lane k)) && s.drained key then
        s.finishSave key fields hardware else s) := by
  simp only [List.mem_cons, List.not_mem_nil, or_false, Prod.mk.injEq] at h
  obtain ⟨rfl, rfl, rfl, rfl⟩ | ⟨rfl, rfl, rfl, rfl⟩ := h <;> rfl

/-- What is kept of a gang whose save has ended (R313). -/
def State.savedGang (s : State) (key : Nat) : Saved :=
  let g := s.gangAt key
  { launch := g.launch, block := g.block, idx := g.idx, die := dieOf key, core := coreOf key, allot := g.allot, area := g.saveArea
    lanes := g.live, carrier := !s.siblings g, group := none, phase := g.phase, kept := g.kept, slot := none }

/-- What the end of a save writes to the gang's area (R310, R311, R339). -/
def State.saveFields (s : State) (key : Nat) (fields : List (Nat × List Carried)) (hardware : Bool) : List (Nat × List Carried) :=
  let g := s.gangAt key
  coreFields (s.allocAt g.launch g.block (coreOf key)) (!s.siblings g) hardware fields

theorem State.no_fault_of_save {s : State} {key : Nat} (h : ∀ f ∈ s.faults, f.who ≠ .save key) : (s.faults.any fun f => f.who == .save key) = false :=
  List.any_eq_false.mpr fun f hf => by simpa using h f hf

/-- A save that has been written leaves a saved gang, and the gang leaves its partition. -/
theorem State.finishSave_written {s r : State} {key : Nat} {fields : List (Nat × List Carried)} {hardware : Bool}
    (clear : ∀ f ∈ s.faults, f.who ≠ .save key)
    (written : s.areaWrite key (s.gangAt key).saveArea (s.saveFields key fields hardware) = .ok r) :
    (s.finishSave key fields hardware).resident key = false ∧ s.savedGang key ∈ (s.finishSave key fields hardware).saved := by
  unfold State.saveFields at written
  unfold State.finishSave State.savedGang
  dsimp only at written ⊢
  rw [State.no_fault_of_save clear, if_neg Bool.false_ne_true, written]
  refine ⟨State.resident_of_staying (State.gangs_vacate _ key), ?_⟩
  rw [State.saved_vacate]
  exact List.mem_append_right _ List.mem_cons_self

/-- A fault on the area of a save goes to fault service (R269). -/
theorem State.finishSave_fault {s : State} {key : Nat} {fields : List (Nat × List Carried)} {hardware : Bool} {f : PageFault}
    (clear : ∀ f ∈ s.faults, f.who ≠ .save key)
    (fault : s.areaWrite key (s.gangAt key).saveArea (s.saveFields key fields hardware) = .error f) :
    ∃ item, s.finishSave key fields hardware = { s with faults := s.faults ++ [item] } ∧ item.who = .save key ∧
      item.record = recordBytes f.va 0 (s.gangAt key).launch (s.gangAt key).block 0xFFFFFFFF 0 f.cause.code ((f.info + 2 ^ 14) % 256) 16
        (asidOf (s.gangAt key).xlate) true := by
  unfold State.saveFields at fault
  unfold State.finishSave
  dsimp only at fault ⊢
  rw [State.no_fault_of_save clear, if_neg Bool.false_ne_true, fault]
  exact ⟨_, rfl, rfl, rfl⟩

/-! ### The start of a restore -/

theorem State.exec_restoreStart (s : State) (i key : Nat) : exec (.restoreStart i key) s = .next (s.restore i key) := rfl

/-- A gang whose block has been admitted begins in its slot, once its carrier has gone on (R313, R340, R378). -/
theorem State.restoreReady_slot {s : State} {l : Launch} {v : Saved} {k : Nat} (h : v.slot = some k) (key : Nat) :
    s.restoreReady l v key = if k = key ∧ s.carrierGone v = true ∧ s.partClearing (partOf key) = false then some s else none := by
  unfold State.restoreReady
  rw [h]
  simp

/-- A gang whose block has not been admitted waits for its admission, its turn and a slot (R312, R321, R340). -/
theorem State.restoreReady_waits {s : State} {l : Launch} {v : Saved} {key : Nat} (h : v.slot = none)
    (lacks : s.restoreAdmitted l v = false ∨ s.restoreTurn l v = false ∨ s.slotFor l [] v key = false) : s.restoreReady l v key = none := by
  unfold State.restoreReady State.restorePlan
  rw [h]
  obtain lacks | lacks | lacks := lacks <;> simp [lacks]

theorem State.gangs_admitSaved (s : State) (l : Launch) (v : Saved) (plan : List (Saved × Nat)) : (s.admitSaved l v plan).gangs = s.gangs :=
  (State.foldl_of_trans State.Allotted.refl State.Allotted.trans
    (fun s (e : Saved × Nat) => s.allotted_allocate (l.savedNeed v.block 1) (coreOf e.2) (lanes e.1.lanes).length) _ _).gangs

theorem State.gangs_restoreReady {s u : State} {l : Launch} {v : Saved} {key : Nat} (h : s.restoreReady l v key = some u) : u.gangs = s.gangs := by
  unfold State.restoreReady at h
  split at h
  · split at h <;> cases h
    rfl
  · split at h
    · obtain ⟨plan, -, rfl⟩ := Option.map_eq_some_iff.mp h
      exact State.gangs_admitSaved s l v plan
    · cases h

theorem State.gangs_restoreAlloc (s : State) (l : Launch) (v : Saved) (core : Nat) (head : List Byte) : (s.restoreAlloc l v core head).gangs = s.gangs := by
  have allotted := (s.allotted_allocate (l.savedNeed v.block 1) core (lanes v.lanes).length).gangs
  unfold State.restoreAlloc
  split
  · rfl
  · dsimp only
    split <;> exact allotted

/-- The gang that a routine restores (R312). -/
def Launch.restoredGang (l : Launch) (v : Saved) (key : Nat) (m : Mask) : Gang :=
  { Gang.start key l.num v.block v.idx v.allot l.packet.xlate l.world ((List.range 32).map fun k => l.restoreThread v m k) l.packet.trapHandler with
    phase := v.phase, saveArea := v.area, inArea := true, carrier := v.carrier, scaccError := v.kept.scacc }

theorem State.restore_not_ready {s : State} {i key : Nat} {v : Saved} {l : Launch} (saved : s.saved[i]? = some v)
    (known : s.launchOn v.launch v.die = some l) (h : s.restoreReady l v key = none) : s.restore i key = s := by
  unfold State.restore
  simp only [saved, known, h]

/-- The start of a restore by routine, once the area's head has been read. -/
theorem State.restore_routine {s u r : State} {i key : Nat} {v : Saved} {l : Launch} {pas : List Nat} (saved : s.saved[i]? = some v)
    (known : s.launchOn v.launch v.die = some l) (ready : s.restoreReady l v key = some u) (software : u.funcBit (dieOf key) 3 = false)
    (area : u.translateRange (coreOf key) l.packet.xlate v.area .load true 0x680 = .ok (r, pas)) :
    let bs := r.openBytes l.world (r.view (coreOf key)) pas
    let a := (State.groupClaims { r with saved := r.saved.eraseIdx i } v (coreOf key)).restoreAlloc l v (coreOf key) bs
    s.restore i key = State.acquireAt { a with gangs := a.gangs ++ [l.restoredGang v key (savedMask bs)] } (coreOf key) 5 := by
  unfold State.restore
  simp only [saved, known, ready, software, Bool.false_eq_true, if_false, area]
  rfl

theorem State.gangs_restore {s u r : State} {i key : Nat} {v : Saved} {l : Launch} {pas : List Nat} (saved : s.saved[i]? = some v)
    (known : s.launchOn v.launch v.die = some l) (ready : s.restoreReady l v key = some u) (software : u.funcBit (dieOf key) 3 = false)
    (area : u.translateRange (coreOf key) l.packet.xlate v.area .load true 0x680 = .ok (r, pas)) :
    (s.restore i key).gangs = s.gangs ++ [l.restoredGang v key (savedMask (r.openBytes l.world (r.view (coreOf key)) pas))] := by
  rw [State.restore_routine saved known ready software area, State.acquireAt_eq]
  refine congrArg (· ++ _) ?_
  have read : r.gangs = s.gangs := (State.walked_translateRange area).gangs.trans (State.gangs_restoreReady ready)
  exact (State.gangs_restoreAlloc _ l v (coreOf key) _).trans read

/-- A restored gang is the saved one, and its threads are at the restore routine (R51, R153, R312). -/
theorem Launch.restoredGang_spec (l : Launch) (v : Saved) (key : Nat) (m : Mask) :
    let h := l.restoredGang v key m
    h = { h with
      key := key, launch := l.num, block := v.block, idx := v.idx, allot := v.allot, xlate := l.packet.xlate, world := l.world, phase := v.phase
      saveArea := v.area, scaccError := v.kept.scacc } ∧
    ∀ k < 32, m.getLsbD k = true →
      h.lane k = { h.lane k with
        pc := l.packet.restoreRoutine, mode := .restore, cond := .runnable, meet := 0, hzn := 0, ix := 0, p := 0, d := [], dValid := 1
        fflags := (v.kept.flags.getD k (0, false)).1, arrivals := v.kept.arrivals.getD k []
        trapCause := 0x38, trapPc := 0, trapAddr := 0, trapMask := m, trapInfo := word (if v.carrier then 1 else 0) } := by
  refine ⟨rfl, fun k hk live => ?_⟩
  rw [Gang.lane_of_threads (f := l.restoreThread v m) rfl hk]
  unfold Launch.restoreThread
  dsimp only
  rw [if_pos live, if_pos live]
  cases v.carrier <;> rfl

/-! ### The statement -/

/-- Settles O46: admissions by what a die reads and what comes next, ends by the gangs that stay, requests by the slots that they reach, saves by what
their area takes, restores by the gang that starts. -/
theorem schedulingEvents : Obligations.SchedulingEvents := by
  unfold Obligations.SchedulingEvents
  intro s key die dies
  refine ⟨State.readPackets_none, fun l one found _ => State.readPackets_spec dies one found, fun keys none => ?_, ?_, Launch.startGang_spec,
    Launch.phaseGang_spec, ⟨fun h => congrArg _ (State.endGang_not_due h), State.gangEnd_spec⟩, fun num => State.launchCompletion_not_over, ?_, ?_,
    fun gs => State.preemptRequest_stands, ?_, ?_, ?_⟩
  · rw [State.exec_blockAdmission, State.admitNext_none keys none]
  · intro keys q ph e n l next known
    refine ⟨fun no => ?_, ?_, ?_⟩
    · rw [State.exec_blockAdmission, State.admitNext_not_placed next known no]
    · rintro num b rfl placed wf blocks
      refine ⟨_, congrArg Host.Outcome.next (State.admitNext_block next known placed), ?_⟩
      exact State.admitBlock_spec (State.need_of_block next known) wf blocks
    · rintro num b idx record cd cg pr kept r bs rfl placed read
      refine ⟨_, congrArg Host.Outcome.next (State.admitNext_phase next known placed), ?_⟩
      exact State.admitPhase_spec read (State.free_of_placed_phase next placed)
  · intro num l r finished found written
    exact ⟨_, State.launchCompletion_over finished found written, rfl⟩
  · intro nodup source gs asked d sources
    obtain ⟨ks, run, reached⟩ := State.preemptRequest_keys nodup sources
    refine ⟨_, run, by rw [State.foldl_requestGang], fun k resident => ?_⟩
    rw [State.gangAt_foldl_requestGang resident, reached k resident, State.requested_gangAt resident]
    cases asked k (s.gangAt k) <;> simp
  · intro i fields hardware waits way due last
    have run := State.exec_save way
    refine ⟨fun notDue => ?_, fun r isDue _ clear written => ?_⟩
    · rw [run, if_neg fun h => notDue (State.saveDue_iff.mp h)]
    · obtain ⟨left, kept⟩ := State.finishSave_written clear written
      exact ⟨_, s.savedGang key, run.trans (congrArg _ (if_pos (State.saveDue_iff.mpr isDue))), left, kept, rfl⟩
  · intro f taken live halted drained _ clear fault
    obtain ⟨item, eq, who, record⟩ := State.finishSave_fault clear fault
    have due : s.SaveDue key fun t => t.mode == .save && t.wait == .halt := ⟨taken, live, fun k hk => by simpa using halted k hk, drained⟩
    have run := State.exec_save (s := s) (key := key) List.mem_cons_self
    exact ⟨item, run.trans (congrArg _ ((if_pos (State.saveDue_iff.mpr due)).trans eq)), who, record⟩
  · intro i v l saved known
    refine ⟨fun k slot => State.restoreReady_slot slot key, State.restoreReady_waits, fun none => ?_, fun u r pas ready software area => ?_⟩
    · rw [State.exec_restoreStart, State.restore_not_ready saved known none]
    · rw [← State.num_of_launchOn known]
      exact ⟨_, _, rfl, State.gangs_restore saved known ready software area, l.restoredGang_spec v key _⟩

end Sys2Proof.Machine
end

section
/-! SUPPORT. Writes of member masks (R108, R109, R134 to R136), and O15. -/

namespace Sys2Proof.Machine

/-- What an event of mask register K leaves of a gang (R108, R109): its masks, a completed round cleared, and the held lanes that go on. -/
structure Gang.MaskEvent (g h : Gang) (K : Nat) (m a : Mask) (dropped : Nat → Bool) : Prop where
  only : g.OnlyMasks h
  whole : h.threads.length = 32
  members : ∀ n, h.getM n = if n = K then m else g.getM n
  arrivals : ∀ n, h.getA n = if n = K then (if a ≠ 0 ∧ a = m then 0 else a) else g.getA n
  lanes : ∀ k < 32, h.lane k = if (a ≠ 0 ∧ a = m) ∨ dropped k = true then (g.lane k).letGo K else g.lane k

/-- Gang u is g with other masks of register K, the lanes that it drops let go: what the completion check of an event starts from. -/
structure Gang.Masked (g u : Gang) (K : Nat) (m a : Mask) (dropped : Nat → Bool) : Prop where
  only : g.OnlyMasks u
  tabled : u.Tabled
  members : ∀ n, u.getM n = if n = K then m else g.getM n
  arrivals : ∀ n, u.getA n = if n = K then a else g.getA n
  lanes : ∀ k < 32, u.lane k = if dropped k = true then (g.lane k).letGo K else g.lane k

/-- A thread that has been let go is held no longer. -/
theorem Thread.letGo_letGo (t : Thread) (K : Nat) : (t.letGo K).letGo K = t.letGo K := by
  rw [Thread.letGo_eq t K]
  split
  · next held =>
    have free : Thread.heldAt { t.released with cond := if t.cond = .held K then .runnable else t.cond } K = false := by
      by_cases h : t.cond = .held K <;> simp [Thread.heldAt, Thread.released, h]
    rw [Thread.letGo_eq, free]
    rfl
  · next free =>
    rw [Thread.letGo_eq, if_neg free]

theorem Gang.Masked.maskCheck {g u : Gang} {K : Nat} {m a : Mask} {dropped : Nat → Bool} (h : g.Masked u K m a dropped) :
    g.MaskEvent (u.maskCheck K) K m a dropped := by
  have here : u.getM K = m ∧ u.getA K = a := ⟨by rw [h.members, if_pos rfl], by rw [h.arrivals, if_pos rfl]⟩
  refine ⟨h.only.trans (Gang.onlyMasks_maskCheck u K), (h.tabled.maskCheck K).whole, fun n => ?_, fun n => ?_, fun k hk => ?_⟩
  · rw [Gang.getM_maskCheck, h.members]
  · rw [Gang.getA_maskCheck h.tabled, here.1, here.2, h.arrivals]
    by_cases e : n = K
    · rw [if_pos e, if_pos e]
    · rw [if_neg e, if_neg e, if_neg e]
  · rw [Gang.lane_maskCheck h.tabled K hk, here.1, here.2, h.lanes k hk]
    by_cases done : a ≠ 0 ∧ a = m
    · rw [if_pos done, if_pos (Or.inl done)]
      split
      · exact Thread.letGo_letGo _ K
      · rfl
    · simp only [done, false_or, if_false]

/-- JOIN (R109). -/
theorem Gang.maskEvent_join {g : Gang} (h : g.Tabled) (K : Nat) (L : Mask) :
    g.MaskEvent (g.join K L) K (g.getM K ||| L) (g.getA K) fun _ => false :=
  Gang.Masked.maskCheck
    { only := rfl, tabled := h.setM K _, members := fun n => Gang.getM_setM h K n _, arrivals := fun n => by split <;> simp_all [Gang.getA, Gang.setM]
      lanes := fun _ _ => rfl }

/-- LEAVE (R109). -/
theorem Gang.maskEvent_leave {g : Gang} (h : g.Tabled) (K : Nat) (L : Mask) :
    g.MaskEvent (g.leave K L) K (g.getM K &&& ~~~L) (g.getA K &&& ~~~L) fun _ => false :=
  Gang.Masked.maskCheck
    { only := rfl, tabled := h.without K L, members := fun n => Gang.getM_without h K n L, arrivals := fun n => Gang.getA_without h K n L
      lanes := fun _ _ => rfl }

/-- MSET and MOP (R109): arrivals outside the new member mask are dropped, and lanes held there that it does not have go on. -/
theorem Gang.maskEvent_newMask {g : Gang} (h : g.Tabled) (K : Nat) (v : Mask) :
    g.MaskEvent (g.newMask K v) K v (g.getA K &&& v) fun k => decide (k < 32) && !v.getLsbD k := by
  have tabled := (h.setM K v).setA K (g.getA K &&& v)
  refine Gang.Masked.maskCheck
    { only := rfl, tabled := tabled.onLanes _ _, members := fun n => Gang.getM_setM h K n v
      arrivals := fun n => Gang.getA_setA (h.setM K v) K n _, lanes := fun k hk => ?_ }
  rw [Gang.lane_releaseHeld tabled, BitVec.getLsbD_not]
  rfl

theorem Gang.newMask_key (g : Gang) (K : Nat) (v : Mask) : (g.newMask K v).key = g.key := (Gang.onlyMasks_maskCheck _ K).key

/-- An event of a mask register of the issuing gang, after which the bundle goes on (R106, R109). -/
theorem State.maskEvent_advance {s : State} (hi : s.Issuing) (running : s.Running) (o : Ops) {f : Gang → Gang} (key : ∀ g, (f g).key = g.key)
    {K : Nat} {m a : Mask} {dropped : Nat → Bool} (event : s.cg.MaskEvent (f s.cg) K m a dropped) :
    s.MaskEvent ((s.onGang s.cur.gang f).advance o.stall.toNat o.yld) K m a dropped ∧
      ∀ k, s.cur.lanes.getLsbD k = true → ((s.onGang s.cur.gang f).advance o.stall.toNat o.yld).cl k = s.goesOn o (s.cl k) := by
  obtain ⟨b, run⟩ := running
  have gang : State.cg (s.onGang s.cur.gang f) = f s.cg := State.cg_onGang hi.resident f fun g _ => key g
  have whole : (s.onGang s.cur.gang f).Whole :=
    ⟨(State.resident_onGang s f (fun g _ => key g) _).trans hi.resident, by rw [gang]; exact event.whole⟩
  have lane : ∀ k < 32, State.cl (s.onGang s.cur.gang f) k =
      if (a ≠ 0 ∧ a = m) ∨ dropped k = true then (s.cl k).letGo K else s.cl k := fun k hk => by
    unfold State.cl
    rw [gang, event.lanes k hk]
  have goes := State.OnlyBundle.advance whole o.stall.toNat o.yld
  have masks : s.cg.OnlyMasks (State.cg (State.advance (s.onGang s.cur.gang f) o.stall.toNat o.yld)) := by
    rw [goes.gang, gang]
    exact event.only.trans rfl
  refine ⟨{ (State.OnlyGang.onGang s f key).trans goes.toOnlyGang with
      gang := masks, members := fun n => ?_, arrivals := fun n => ?_, lanes := fun k hk out => ?_ }, fun k hB => ?_⟩
  · rw [goes.gang, gang]
    exact event.members n
  · rw [goes.gang, gang]
    exact event.arrivals n
  · rw [goes.lanes k out, lane k hk, Thread.letGo_eq]
    by_cases held : (s.cl k).heldAt K = true <;> simp only [held, true_and, false_and, if_true, if_false, ite_self, Bool.false_eq_true]
  · obtain ⟨cond, wait, -⟩ := run k hB
    rw [State.cl_advance_bundle whole o hB, lane k (BitVec.lt_of_getLsbD hB), Thread.letGo_of_free (by simp [cond]) wait, ite_self]
    rfl

/-- An instruction whose own effect is an event of a mask register. -/
theorem State.maskEvent_of_issue {s : State} {i : Instr} {op : Nat} {o : Ops} {L : Mask} {body : Mask → Except TrapReq State} (hi : s.Issuing)
    (running : s.Running) (he : exec i s = .next (s.issue op o body)) (hc : s.checks op o = .ok L) {f : Gang → Gang}
    (hb : body L = .ok (s.onGang s.cur.gang f)) (key : ∀ g, (f g).key = g.key) {K : Nat} {m a : Mask} {dropped : Nat → Bool}
    (event : s.cg.MaskEvent (f s.cg) K m a dropped) :
    ∃ t, exec i s = .next t ∧ s.MaskEvent t K m a dropped ∧ ∀ k, s.cur.lanes.getLsbD k = true → t.cl k = s.goesOn o (s.cl k) :=
  ⟨_, he.trans (congrArg _ (State.issue_ok hc hb)), State.maskEvent_advance hi running o key event⟩

/-- JOIN, of either format. -/
theorem State.maskEvent_joinOp {s : State} {i : Instr} {o : Ops} {L : Mask} (hi : s.Issuing) (running : s.Running)
    (he : exec i s = .next (s.joinOp o)) (hc : s.checks 0xC7 o = .ok L) :
    ∃ t, exec i s = .next t ∧ s.MaskEvent t o.dst.toNat (s.cg.getM o.dst.toNat ||| L) (s.cg.getA o.dst.toNat) (fun _ => false) ∧
      ∀ k, s.cur.lanes.getLsbD k = true → t.cl k = s.goesOn o (s.cl k) :=
  State.maskEvent_of_issue hi running he hc rfl (fun _ => (Gang.onlyMasks_maskCheck _ _).key) (Gang.maskEvent_join hi.canonical.tabled _ L)

/-- LEAVE, of either format. -/
theorem State.maskEvent_leaveOp {s : State} {i : Instr} {o : Ops} {L : Mask} (hi : s.Issuing) (running : s.Running)
    (he : exec i s = .next (s.leaveOp o)) (hc : s.checks 0xC8 o = .ok L) :
    ∃ t, exec i s = .next t ∧ s.MaskEvent t o.dst.toNat (s.cg.getM o.dst.toNat &&& ~~~L) (s.cg.getA o.dst.toNat &&& ~~~L) (fun _ => false) ∧
      ∀ k, s.cur.lanes.getLsbD k = true → t.cl k = s.goesOn o (s.cl k) :=
  State.maskEvent_of_issue hi running he hc rfl (fun _ => (Gang.onlyMasks_maskCheck _ _).key) (Gang.maskEvent_leave hi.canonical.tabled _ L)

/-- MSET, whose guarded lanes agree on the new member mask (R135). -/
theorem State.maskEvent_msetOp {s : State} {o : Ops} {L : Mask} (hi : s.Issuing) (running : s.Running) (hc : s.checks 0xCA o = .ok L) (hL : L ≠ 0)
    (agree : ∀ k, L.getLsbD k = true → s.opBNat o k = s.opBNat o (lowest L)) :
    let v := (s.opBNat o (lowest L)).setWidth 32
    ∃ t, exec (.mset o) s = .next t ∧
      s.MaskEvent t o.dst.toNat v (s.cg.getA o.dst.toNat &&& v) (fun k => decide (k < 32) && !v.getLsbD k) ∧
      ∀ k, s.cur.lanes.getLsbD k = true → t.cl k = s.goesOn o (s.cl k) := by
  intro v
  have same : differing L (fun k => s.opBNat o k) = 0 := those_eq_zero.2 fun k hk => by simp [agree k hk]
  refine State.maskEvent_of_issue (f := fun g => g.newMask o.dst.toNat v) hi running rfl hc ?_ (fun g => g.newMask_key _ v)
    (Gang.maskEvent_newMask hi.canonical.tabled _ v)
  simp only [if_neg hL, State.uniform, same, ne_eq, not_true_eq_false, if_false]
  rfl

/-- MOP, where some lane's guard is true (R136). -/
theorem State.maskEvent_mopOp {s : State} {o : Ops} {L : Mask} (hi : s.Issuing) (running : s.Running) (hc : s.checks 0xCC o = .ok L) (hL : L ≠ 0) :
    let v := s.cg.mopMask o
    ∃ t, exec (.mop o) s = .next t ∧
      s.MaskEvent t o.dst.toNat v (s.cg.getA o.dst.toNat &&& v) (fun k => decide (k < 32) && !v.getLsbD k) ∧
      ∀ k, s.cur.lanes.getLsbD k = true → t.cl k = s.goesOn o (s.cl k) := by
  intro v
  refine ⟨_, congrArg Host.Outcome.next (State.issue_ok hc (congrArg Except.ok (if_neg hL))), ?_⟩
  exact State.maskEvent_advance hi running o (fun g => g.newMask_key _ (g.mopMask o)) (Gang.maskEvent_newMask hi.canonical.tabled _ v)

theorem Gang.live_eq (g : Gang) : g.live = those (BitVec.allOnes 32) fun k => (g.lane k).cond != .exited :=
  BitVec.eq_of_getLsbD_eq fun k hk => by rw [Gang.live, getLsbD_maskOf, getLsbD_those, BitVec.getLsbD_allOnes]

/-! ### Fields that do not decode (R42, R44) -/

/-- The low two bits of a number that bytes hold are those of its first byte. -/
theorem leNat_take_mod_four (bs : List Byte) {n : Nat} (hn : 0 < n) (h : n ≤ bs.length) : leNat (bs.take n) % 4 = leNat (bs.take 1) % 4 := by
  cases bs with
  | nil => simp at h; omega
  | cons b bs =>
    obtain ⟨n, rfl⟩ := Nat.exists_eq_add_of_lt hn
    simp only [Nat.zero_add, List.take_succ_cons, leNat, List.take_zero]
    omega

/-- Words of 8 or 12 bytes are accepted by their opcode and fields (R44). -/
theorem decodeAt_long {off : Nat} {bytes : List Byte} (hl : 12 ≤ bytes.length) {p : Nat} (hp : leNat (bytes.take 8) = p) (two : p % 4 = 1 ∨ p % 4 = 2)
    (fits : off % 32 + 4 * (p % 4 + 1) ≤ 32) :
    ∃ lit, decodeAt off bytes = accept (ofOpcode (p / 2 ^ 11 % 2 ^ 9) (decodeOps p lit)) (4 * (p % 4 + 1)) := by
  have low : leNat (bytes.take 4) % 4 = p % 4 := by
    rw [← hp, leNat_take_mod_four bytes (by omega) (by omega), leNat_take_mod_four bytes (n := 8) (by omega) (by omega)]
  have long : lengthOf (leNat (bytes.take 4)) = some (4 * (p % 4 + 1)) := by
    unfold lengthOf
    rw [low]
    obtain h | h := two <;> rw [h] <;> rfl
  refine ⟨if 4 * (p % 4 + 1) = 12 then some (BitVec.ofNat 32 (leNat ((bytes.drop 8).take 4))) else none, ?_⟩
  unfold decodeAt
  simp only [long]
  rw [if_neg (by omega), if_neg (by omega), if_neg (by omega), if_neg (by omega), hp]
  rfl

/-- An opcode whose fields are those of no instruction is refused. -/
theorem accept_of_not_ok {i : Instr} {op : Nat} {o : Ops} (hp : i.parts = .op op o) (h : opsOk op o = false) (n : Nat) :
    accept (some i) n = .error .illegalInsn := by
  have wf : i.wf = false := Bool.eq_false_iff.2 fun w => by rw [opsOk_of_wf hp w] at h; cases h
  simp only [accept, wf, Bool.false_eq_true, if_false]

/-- R136: op_mod 0b111, and a second source where there is none. -/
theorem illegalFields_mop : IllegalFields 0xCC fun p => p / 2 ^ 61 % 8 = 7 ∨ 4 ≤ p / 2 ^ 61 % 8 ∧ p / 2 ^ 34 % 2 ^ 7 ≠ 0 := by
  intro off bytes hl p two fits code bad
  obtain ⟨lit, e⟩ := decodeAt_long hl (p := p) rfl two fits
  rw [e, code]
  refine accept_of_not_ok (i := .mop (decodeOps p lit)) rfl (Bool.eq_false_iff.2 fun ok => ?_) _
  have opmod : (decodeOps p lit).opmod.toNat = p / 2 ^ 61 % 8 := by simp [decodeOps, slice]
  have srcB : (decodeOps p lit).b.toNat = p / 2 ^ 34 % 2 ^ 7 := by simp [decodeOps, slice]
  have high : 4 ≤ p / 2 ^ 61 % 8 := by omega
  have row : rowOf 0xCC (decodeOps p lit) = some { dst := .mask, a := .mask, opmods := [4, 5, 6] } := by
    show (if (decodeOps p lit).opmod.toNat < 4 then _ else _) = _
    rw [opmod, if_neg (by omega)]
  have fields := Row.ok_of_opsOk ok row
  have none := Ops.b_ok ok row rfl
  simp only [Kind.ok, Bool.and_eq_true, beq_iff_eq, srcB] at none
  simp only [Row.ok, Bool.and_eq_true, opmod] at fields
  obtain ⟨⟨⟨⟨⟨⟨-, mods⟩, -⟩, -⟩, -⟩, -⟩, -⟩ := fields
  simp at mods
  omega

/-- Settles O15: each instruction's event is that of the gang's mask register, after which the bundle goes on. -/
theorem maskWrites : Obligations.MaskWrites := by
  refine ⟨fun s L o p c i op m' a' dropped hi running => ?_, illegalFields_mop⟩
  intro K m a cm v x y mop h hc
  obtain h | ⟨hL, agree, h⟩ | ⟨hL, h⟩ := h
  · simp only [List.mem_cons, List.not_mem_nil, or_false, Prod.mk.injEq] at h
    obtain ⟨rfl, rfl, rfl, rfl, rfl, rfl⟩ | ⟨rfl, rfl, rfl, rfl, rfl, rfl⟩ | ⟨rfl, rfl, rfl, rfl, rfl, rfl⟩ | ⟨rfl, rfl, rfl, rfl, rfl, rfl⟩ := h
    · exact State.maskEvent_joinOp hi running rfl hc
    · exact State.maskEvent_joinOp hi running rfl hc
    · exact State.maskEvent_leaveOp hi running rfl hc
    · exact State.maskEvent_leaveOp hi running rfl hc
  · simp only [Prod.mk.injEq] at h
    obtain ⟨rfl, rfl, rfl, rfl, rfl, rfl⟩ := h
    exact State.maskEvent_msetOp hi running hc hL agree
  · have result : ∀ w, (i, op, p, m', a', dropped) = mop w → s.cg.mopMask o = w →
        ∃ t, exec i s = .next t ∧ s.MaskEvent t K m' a' dropped ∧ ∀ k, s.cur.lanes.getLsbD k = true → t.cl k = s.goesOn p (s.cl k) := by
      intro w hw hm
      simp only [mop, Prod.mk.injEq] at hw
      obtain ⟨rfl, rfl, rfl, rfl, rfl, rfl⟩ := hw
      subst hm
      exact State.maskEvent_mopOp hi running hc hL
    simp only [List.mem_cons, List.not_mem_nil, or_false, Prod.mk.injEq] at h
    obtain ⟨code, h⟩ | ⟨code, h⟩ | ⟨code, h⟩ | ⟨code, h⟩ | ⟨code, h⟩ | ⟨code, h⟩ | ⟨code, h⟩ := h
    all_goals refine result _ h ?_
    all_goals simp only [Gang.mopMask, code, Gang.live_eq]
    all_goals rfl

end Sys2Proof.Machine
end

section
/-! SUPPORT. Fences (R156 to R158, R196, R200, R211, R367), and O20. -/

namespace Sys2Proof.Machine

/-- A page of memory is ordered at a scope: another device's at system scope only (R211). -/
def State.nearAt (s : State) (scope pa : Nat) : Prop := scope = 5 ∨ s.remoteAt pa = false

/-- A moment has passed by the margin (R157). -/
def State.passed (s : State) (m : Nat) : Prop := m + s.marginNs.toNat ≤ s.gtime

/-- A lane's scratch accesses have reached their banks, and its stores to device pages their units (R200, R367). -/
def State.reachedUnits (s : State) (key k : Nat) : Prop :=
  (∀ x ∈ s.stores, x.gang = key → x.lane = k → x.bank = false ∧ s.ioPage x.pa = none) ∧ ∀ l ∈ s.loads, l.gang = key → l.lane = k → l.spots = []

/-- What happens before a lane is performed, and its time has passed (R196). -/
def State.matesPassed (s : State) (key k scope : Nat) : Prop :=
  (∀ x ∈ s.stores, ¬(x.core = coreOf key ∧ x.bank = false ∧ x.issued ≤ ((s.gangAt key).lane k).synced ∧ s.nearAt scope x.pa)) ∧
    s.passed ((s.gangAt key).lane k).seen ∧
    ∀ e ∈ s.recent, e.1 = coreOf key → e.2.1 ≤ ((s.gangAt key).lane k).synced → s.passed e.2.2

theorem State.reachedUnits_iff (s : State) (key k : Nat) : (s.inBanks key k || s.pageStoring key k) = false ↔ s.reachedUnits key k := by
  simp only [State.inBanks, State.pageStoring, State.reachedUnits, Bool.or_eq_false_iff, List.any_eq_false, Bool.and_eq_true, beq_iff_eq,
    Bool.not_eq_true', bne_iff_ne, ne_eq, Option.isSome_iff_ne_none]
  constructor
  · rintro ⟨⟨banks, loads⟩, pages⟩
    refine ⟨fun x hx hg hl => ?_, fun l hl hg hk => not_not.1 fun spots => loads l hl ⟨⟨hg, hk⟩, spots⟩⟩
    have bank : x.bank = false := Bool.eq_false_iff.2 fun b => banks x hx ⟨⟨b, hg⟩, hl⟩
    exact ⟨bank, not_not.1 fun page => pages x hx ⟨⟨⟨hg, hl⟩, bank⟩, page⟩⟩
  · rintro ⟨stores, loads⟩
    refine ⟨⟨fun x hx ⟨⟨bank, hg⟩, hl⟩ => ?_, fun l hl ⟨⟨hg, hk⟩, spots⟩ => spots (loads l hl hg hk)⟩,
      fun x hx ⟨⟨⟨hg, hl⟩, _⟩, page⟩ => page (stores x hx hg hl).2⟩
    rw [(stores x hx hg hl).1] at bank
    cases bank

theorem State.matesDone_iff (s : State) (key k scope : Nat) : s.matesDone key k scope = true ↔ s.matesPassed key k scope := by
  simp only [State.matesDone, State.matesPassed, State.passed, State.nearAt, Bool.and_eq_true, Bool.not_eq_true', List.any_eq_false,
    List.all_eq_true, Bool.or_eq_true, beq_iff_eq, bne_iff_ne, ne_eq, decide_eq_true_eq, and_assoc]
  refine and_congr_right fun _ => and_congr_right fun _ => forall₂_congr fun e _ => ?_
  rw [← Nat.not_le, or_assoc, ← imp_iff_not_or, ← imp_iff_not_or]

/-- The release part of R157 for a lane at a scope: what it waits for. -/
theorem State.releaseDone_iff (s : State) (key k scope : Nat) : s.releaseDone key k scope = true ↔
    s.reachedUnits key k ∧
      if scope < 2 then ∀ a ∈ s.atoms, a.gang = key → a.lane = k → s.nearAt scope a.pa → a.applied ≠ none
      else (∀ x ∈ s.stores, ¬(x.gang = key ∧ x.lane = k ∧ s.nearAt scope x.pa)) ∧
        (∀ a ∈ s.atoms, ¬(a.gang = key ∧ a.lane = k ∧ s.nearAt scope a.pa)) ∧ (∀ a ∈ s.acks, ¬(a.1 = key ∧ a.2.1 = k)) ∧
        s.passed (momentOf s.gtime ((s.gangAt key).lane k).hzn) ∧ s.matesPassed key k scope := by
  unfold State.releaseDone
  cases units : s.inBanks key k || s.pageStoring key k with
  | true =>
    have not : ¬s.reachedUnits key k := fun reached => by rw [(s.reachedUnits_iff key k).2 reached] at units; cases units
    simp [not]
  | false =>
    have reached := (s.reachedUnits_iff key k).1 units
    have global : ∀ x ∈ s.stores, x.gang = key → x.lane = k → x.bank = false := fun x hx hg hl => (reached.1 x hx hg hl).1
    by_cases narrow : scope < 2
    · simp only [narrow, if_true, Bool.false_eq_true, if_false, Bool.not_eq_true', List.any_eq_false, Bool.and_eq_true, Bool.or_eq_true, beq_iff_eq,
        Option.isNone_iff_eq_none, reached, true_and, State.nearAt]
      exact forall₂_congr fun a _ => by tauto
    · simp only [narrow, if_false, Bool.false_eq_true, Bool.and_eq_true, Bool.not_eq_true', List.any_eq_false, beq_iff_eq, Bool.or_eq_true,
        decide_eq_true_eq, State.matesDone_iff, reached, true_and, and_assoc, State.nearAt, State.passed]
      refine and_congr_left fun _ => forall₂_congr fun x hx => ?_
      refine not_congr (and_congr_right fun hg => and_congr_right fun hl => ?_)
      rw [global x hx hg hl]
      simp

/-- What a fence without a release, or with a complete one, leaves: the leases that its acquire gives up, and the instruction cache (R157, R158). -/
def State.fenced (s : State) (o : Ops) (L : Mask) : State :=
  { s with
    leases := if L ≠ 0 ∧ o.a.toNat % 4 ≠ 2 ∧ 2 ≤ o.opmod.toNat then
      s.leases.map fun l => if l.core = coreOf s.cur.gang then { l with data := none } else l else s.leases
    icache := if L ≠ 0 ∧ 4 ≤ o.a.toNat then s.icache.filter fun b => b.core ≠ coreOf s.cur.gang else s.icache }

theorem State.fence_done {s : State} {o : Ops} {L : Mask} (hc : s.checks 0xE7 o = .ok L)
    (done : ∀ k, L.getLsbD k = true → s.fenceHold o k = false) : s.fence o = (s.fenced o L).advance o.stall.toNat o.yld := by
  refine State.issueWhen_ok hc (those_eq_zero.2 done) (congrArg Except.ok ?_)
  have acquired : (if L ≠ 0 ∧ o.a.toNat % 4 ≠ 2 then s.acquireAt (coreOf s.cur.gang) o.opmod.toNat else s) =
      { s with leases := (s.fenced o L).leases } := by
    simp only [State.acquireAt_eq, State.acquired, State.fenced, ← Nat.not_lt]
    split <;> split <;> simp_all
  rw [acquired]
  unfold State.dropBlocks State.fenced
  split <;> rfl

/-- Settles O20: the release part is what each lane waits for; otherwise the bundle goes on over the fenced state. -/
theorem fences : Obligations.Fences := by
  intro s L o hi _ hc kind core key near arrived past before performed
  have done : ∀ k, s.releaseDone key k o.opmod.toNat = true ↔ performed k := fun k => s.releaseDone_iff key k o.opmod.toNat
  refine ⟨fun release ⟨k, hk, waits⟩ => ?_, fun free => ?_⟩
  · refine congrArg Host.Outcome.next (State.issueWhen_held hc ⟨k, hk, ?_⟩)
    have incomplete : s.releaseDone s.cur.gang k o.opmod.toNat = false := Bool.eq_false_iff.2 (mt (done k).1 waits)
    have other : (o.a.toNat % 4 != 1) = true := bne_iff_ne.2 release
    rw [State.fenceHold, incomplete, other]
    rfl
  · have hold : ∀ k, L.getLsbD k = true → s.fenceHold o k = false := fun k hk => by
      obtain acquire | complete := free
      · have one : (o.a.toNat % 4 != 1) = false := by simpa using acquire
        rw [State.fenceHold, one, Bool.false_and]
      · rw [State.fenceHold, (done k).2 (complete k hk), Bool.not_true, Bool.and_false]
    have whole : (s.fenced o L).Whole := ⟨hi.resident, hi.canonical.whole⟩
    exact ⟨_, congrArg Host.Outcome.next (State.fence_done hc hold), State.OnlyBundle.advance whole _ _,
      fun k hk => State.cl_advance_bundle whole o hk⟩

end Sys2Proof.Machine
end

section
/-! SUPPORT. Threads that have exited stay so (R103) through the checks that an exit or an arrival sets off (R109, R116, R118, R139, R249, R338). -/

namespace Sys2Proof.Machine

/-! ### One gang -/

/-- Lanes that have exited stay so. -/
def Gang.KeepsExits (g h : Gang) : Prop := ∀ k, (g.lane k).cond = .exited → (h.lane k).cond = .exited

theorem Gang.KeepsExits.trans {f g h : Gang} (a : f.KeepsExits g) (b : g.KeepsExits h) : f.KeepsExits h := fun k hk => b k (a k hk)

/-- A lane of a gang of any size, after a change of some lanes. -/
theorem Gang.lane_onLanes_cases (g : Gang) (m : Mask) (f : Nat → Thread → Thread) (k : Nat) :
    (g.onLanes m f).lane k = g.lane k ∨ m.getLsbD k = true ∧ (g.onLanes m f).lane k = f k (g.lane k) := by
  unfold Gang.lane Gang.onLanes
  by_cases hk : k < g.threads.length
  · have lane := getD_mapLanes m f 0 k g.threads hk Thread.absent
    rw [Nat.zero_add] at lane
    by_cases hm : m.getLsbD k = true
    · exact .inr ⟨hm, lane.trans (if_pos hm)⟩
    · exact .inl (lane.trans (if_neg hm))
  · left
    dsimp only
    rw [List.getD_eq_default _ _ (by rw [length_mapLanes]; omega), List.getD_eq_default _ _ (by omega)]

theorem Gang.keepsExits_onLanes (g : Gang) {m : Mask} {f : Nat → Thread → Thread}
    (h : ∀ k, m.getLsbD k = true → (g.lane k).cond = .exited → (f k (g.lane k)).cond = .exited) : g.KeepsExits (g.onLanes m f) := fun k hk => by
  obtain same | ⟨hm, changed⟩ := g.lane_onLanes_cases m f k
  · rw [same]
    exact hk
  · rw [changed]
    exact h k hm hk

theorem Thread.letGo_exited {t : Thread} (h : t.cond = .exited) (K : Nat) : (t.letGo K).cond = .exited := by
  unfold Thread.letGo
  rw [h]
  split
  · next held => cases held
  · split <;> exact h

theorem Gang.keepsExits_maskCheck (g : Gang) (K : Nat) : g.KeepsExits (g.maskCheck K) := by
  unfold Gang.maskCheck
  split
  · exact Gang.keepsExits_onLanes (g.setA K 0) fun _ _ hk => Thread.letGo_exited hk K
  · exact fun _ => id

theorem Gang.keepsExits_dropLanes (g : Gang) (m : Mask) : g.KeepsExits (g.dropLanes m) := by
  unfold Gang.dropLanes
  induction List.range 12 generalizing g with
  | nil => exact fun _ => id
  | cons K Ks ih => exact Gang.KeepsExits.trans (Gang.keepsExits_maskCheck (g.without K m) K) (ih (g.leave K m))

theorem Gang.keepsExits_narrowCheck (g : Gang) : g.KeepsExits g.narrowCheck := by
  unfold Gang.narrowCheck
  split
  · exact g.keepsExits_onLanes fun _ _ hk => hk
  · exact fun _ => id

theorem Gang.keepsExits_split (g : Gang) (m : Mask) : g.KeepsExits (g.split m) := g.keepsExits_onLanes fun _ _ hk => hk

/-- Lanes that end have exited, whatever the completion checks of the masks and of the widening let go (R132). -/
theorem Gang.exits_exited {g : Gang} (h : g.threads.length = 32) {m : Mask} {k : Nat} (hk : m.getLsbD k = true) :
    ((g.exits m).lane k).cond = .exited := by
  refine Gang.keepsExits_narrowCheck _ k (Gang.keepsExits_dropLanes _ m k ?_)
  rw [Gang.lane_onLanes h, if_pos hk]
  rfl

theorem Gang.getLsbD_live {g : Gang} {k : Nat} : g.live.getLsbD k = true ↔ k < 32 ∧ (g.lane k).cond ≠ .exited := by
  simp [Gang.live]

/-! ### The state -/

/-- The issue stays in progress, and lanes that have exited stay so; the lanes of a gang that has left its slot have exited (R102, R103). -/
structure State.KeepsExits (s t : State) : Prop where
  cur : t.cur = s.cur
  exited : ∀ key, (s.gangAt key).KeepsExits (t.gangAt key)

theorem State.KeepsExits.refl (s : State) : s.KeepsExits s := ⟨rfl, fun _ _ => id⟩

theorem State.KeepsExits.trans {s t u : State} (a : s.KeepsExits t) (b : t.KeepsExits u) : s.KeepsExits u :=
  ⟨b.cur.trans a.cur, fun key => (a.exited key).trans (b.exited key)⟩

theorem State.KeepsExits.of_gangs {s t : State} (cur : t.cur = s.cur) (gangs : t.gangs = s.gangs) : s.KeepsExits t :=
  ⟨cur, fun key k hk => by rw [State.gangAt, gangs]; exact hk⟩

theorem State.keepsExits_foldl {α : Type} {f : State → α → State} (h : ∀ (s : State) a, s.KeepsExits (f s a)) (s : State) (as : List α) :
    s.KeepsExits (as.foldl f s) := State.foldl_of_trans State.KeepsExits.refl State.KeepsExits.trans h as s

/-- The gang of a slot after a change of the gangs of a slot. -/
theorem State.gangAt_onGang_cases (s : State) (key key' : Nat) (f : Gang → Gang) (hf : ∀ g, (f g).key = g.key) :
    (s.onGang key f).gangAt key' = s.gangAt key' ∨ key' = key ∧ (s.onGang key f).gangAt key' = f (s.gangAt key) := by
  by_cases other : key' = key
  · subst other
    by_cases resident : s.resident key' = true
    · exact .inr ⟨rfl, State.gangAt_onGang resident f fun g _ => hf g⟩
    · left
      unfold State.gangAt State.onGang
      rw [find_map_key s.gangs key' key' f fun g _ => hf g, List.find?_eq_none.2 fun g hg => ?_]
      · rfl
      · exact List.any_eq_false.1 (Bool.eq_false_iff.2 resident) g hg
  · exact .inl (s.gangAt_onGang_other f (fun g _ => hf g) other)

theorem State.keepsExits_onGang (s : State) (key : Nat) {f : Gang → Gang} (hf : ∀ g, (f g).key = g.key)
    (h : (s.gangAt key).KeepsExits (f (s.gangAt key))) : s.KeepsExits (s.onGang key f) :=
  ⟨rfl, fun key' => by
    obtain same | ⟨rfl, changed⟩ := s.gangAt_onGang_cases key key' f hf
    · rw [same]
      exact fun _ => id
    · rw [changed]
      exact h⟩

theorem State.keepsExits_onLanes (s : State) (key : Nat) {m : Mask} {f : Nat → Thread → Thread}
    (h : ∀ k t, t.cond = .exited → (f k t).cond = .exited) : s.KeepsExits (s.onLanes key m f) :=
  s.keepsExits_onGang key (fun _ => rfl) (Gang.keepsExits_onLanes _ fun k _ hk => h k _ hk)

theorem State.keepsExits_onLaunch (s : State) (n : Nat) (f : Launch → Launch) : s.KeepsExits (s.onLaunch n f) := .of_gangs rfl rfl

theorem State.keepsExits_onDie (s : State) (d : Nat) (f : Die → Die) : s.KeepsExits (s.onDie d f) := .of_gangs rfl rfl

theorem State.keepsExits_acquireAt (s : State) (core scope : Nat) : s.KeepsExits (s.acquireAt core scope) := by
  rw [State.acquireAt_eq]
  exact .of_gangs rfl rfl

/-! ### Writes of the hub and of spills -/

theorem State.keepsExits_homeStore (s : State) (core : Option Nat) (req : BitVec 32) (world pa : Nat) (bs : List Byte) :
    s.KeepsExits (s.homeStore core req world pa bs) := by
  have placed : ∀ n, s.KeepsExits (s.placeAt pa n) := fun n => by
    unfold State.placeAt
    split <;> exact .of_gangs rfl rfl
  unfold State.homeStore
  dsimp only
  split
  · exact (placed bs.length).trans (.of_gangs rfl rfl)
  · split
    · rw [State.violate_rest]
      exact .of_gangs rfl rfl
    · exact (placed bs.length).trans (.of_gangs rfl rfl)

theorem State.keepsExits_writePas (s : State) (core : Option Nat) (req : BitVec 32) (world : Nat) (pas : List Nat) (bs : List Byte) :
    s.KeepsExits (s.writePas core req world pas bs) :=
  State.keepsExits_foldl (fun u (r : Nat × List Byte) => u.keepsExits_homeStore core req world r.1 r.2) s _

theorem State.keepsExits_writeVa {s t : State} {xlate va : Word} {priv : Bool} {world : Nat} {bs : List Byte}
    (h : s.writeVa xlate va priv world bs = .ok t) : s.KeepsExits t := by
  unfold State.writeVa at h
  split at h
  · cases h
  · next u pas range =>
    cases h
    have walked := State.walked_translateRange range
    exact (State.KeepsExits.of_gangs (by rw [walked.rest]) walked.gangs).trans
      (State.keepsExits_writePas u none 0 world pas bs)

theorem State.keepsExits_ringWrite (s : State) (launch die off : Nat) (bs : List Byte) : s.KeepsExits (s.ringWrite launch die off bs) := by
  unfold State.ringWrite
  split
  · exact .refl s
  · split
    · next written => exact State.keepsExits_writeVa written
    · exact .refl s

theorem State.keepsExits_spill (s : State) (launch die kind queue : Nat) (item : Nat × Nat) (payload : List Byte) :
    s.KeepsExits (s.spill launch die kind queue item payload) := by
  unfold State.spill
  exact ((State.KeepsExits.of_gangs rfl rfl : s.KeepsExits (s.setRing _)).trans (State.keepsExits_ringWrite _ _ _ _ _)).trans
    (State.keepsExits_ringWrite _ _ _ _ _)

/-! ### Rounds of groups -/

/-- A gang that leaves its partition leaves no lane that runs. -/
theorem State.keepsExits_vacate (s : State) (key : Nat) : s.KeepsExits (s.vacate key) := by
  refine ⟨by rw [s.vacate_rest key], fun key' k hk => ?_⟩
  by_cases goes : key' = key ∨ some key' = (s.gangAt key).shadow
  · have gone : (s.vacate key).gangs.find? (fun g => g.key == key') = none := List.find?_eq_none.2 fun g hg => by
      rw [s.gangs_vacate key, State.mem_staying] at hg
      obtain ⟨-, other, notShadow⟩ := hg
      rintro same
      obtain rfl := eq_of_beq same
      exact goes.elim other notShadow
    rw [State.gangAt, gone]
    show (([] : List Thread).getD k Thread.absent).cond = .exited
    rfl
  · rw [not_or] at goes
    rw [State.gangAt_of_staying (s.gangs_vacate key) goes.1 goes.2]
    exact hk

set_option maxRecDepth 1000 in
theorem State.keepsExits_endPhase {s t : State} {g : Gang} {grp cd cg : Nat} (h : s.endPhase g grp cd cg = some t) : s.KeepsExits t := by
  unfold State.endPhase at h
  split at h
  · cases h
  · split at h
    · cases h
    · dsimp only at h
      split at h
      · cases h
      · next u written =>
        have left : ∀ (f : Launch → Launch) (d : Die → Die), s.KeepsExits (((u.onLaunch g.launch f).vacate g.key).onDie (dieOf g.key) d) := fun f d =>
          (((State.keepsExits_writeVa written).trans (u.keepsExits_onLaunch _ f)).trans (State.keepsExits_vacate _ _)).trans
            (State.keepsExits_onDie _ _ d)
        split at h
        · cases h
          exact left _ _
        · split at h
          · cases h
          · cases h
            exact (left _ _).trans (State.keepsExits_spill _ _ _ _ _ _ _)

theorem State.keepsExits_leaveRound (s : State) (r : GroupRound) (scope : Nat) (g : Gang) : s.KeepsExits (s.leaveRound r scope g) := by
  refine (s.keepsExits_onLanes g.key fun k t ht => ?_).trans (State.keepsExits_acquireAt _ _ _)
  split
  · split <;> exact ht
  · split <;> exact ht
  · split <;> exact ht
  · exact ht

theorem State.keepsExits_releaseMember {s t : State} {r : GroupRound} {scope num : Nat} {ends : Bool}
    (h : s.releaseMember r scope ends num = some t) : s.KeepsExits t := by
  unfold State.releaseMember at h
  split at h
  · cases h
    exact .refl s
  · split at h
    · exact State.keepsExits_endPhase h
    · cases h
      exact s.keepsExits_leaveRound r scope _

theorem State.keepsExits_releaseRound (s : State) (r : GroupRound) (scope : Nat) (members : List Nat) :
    s.KeepsExits (s.releaseRound r scope members) := by
  have each : ∀ (ends : Bool) (u : State) (num : Nat), u.KeepsExits ((u.releaseMember r scope ends num).getD u) := fun ends u num => by
    cases h : u.releaseMember r scope ends num with
    | none => exact .refl u
    | some t => exact State.keepsExits_releaseMember h
  have all : ∀ (members : List Nat) (u t : State), members.foldlM (fun u num => u.releaseMember r scope true num) u = some t → u.KeepsExits t := by
    intro members
    induction members with
    | nil =>
      intro u t h
      cases h
      exact .refl u
    | cons num nums ih =>
      intro u t h
      rw [List.foldlM_cons] at h
      obtain ⟨v, first, rest⟩ := Option.bind_eq_some_iff.1 h
      exact (State.keepsExits_releaseMember first).trans (ih v t rest)
  unfold State.releaseRound
  cases h : members.foldlM (fun (s : State) num => s.releaseMember r scope true num) s with
  | none => exact State.keepsExits_foldl (each false) s members
  | some t => exact all members s t h

theorem State.keepsExits_groupCheck (s : State) (launch grp : Nat) : s.KeepsExits (s.groupCheck launch grp) := by
  unfold State.groupCheck
  split
  · exact .refl s
  · dsimp only
    split
    · exact (State.KeepsExits.of_gangs rfl rfl : s.KeepsExits (s.setRound _)).trans (State.keepsExits_releaseRound _ _ _ _)
    · exact .refl s

theorem Thread.setD_cond (t : Thread) (n : Nat) (v : Word) : (t.setD n v).cond = t.cond := by rw [Thread.setD_eq]

theorem State.keepsExits_deliverGredw (s : State) (grp : Nat) (ty : Ty) (v : Word) (g : Gang) : s.KeepsExits (s.deliverGredw grp ty v g) := by
  refine State.keepsExits_foldl (fun u k => ?_) s _
  split
  · next q dst isG lo _ =>
    split
    · exact .refl u
    · have wrote : ∀ value : Gang → Word, u.KeepsExits (if isG = true then u.onGang g.key fun h => h.resultG dst (value h) else u) := fun value => by
        split
        · refine u.keepsExits_onGang g.key (fun h => h.resultG_key dst _) fun k hk => ?_
          rw [Gang.lane_resultG]
          exact hk
        · exact .refl u
      refine (wrote _).trans (State.keepsExits_onLanes _ g.key fun k t ht => ?_)
      dsimp only
      split
      · exact ht
      · exact (Thread.setD_cond t dst _).trans ht
  · exact .refl u

theorem State.keepsExits_gredwCheck (s : State) (launch grp : Nat) : s.KeepsExits (s.gredwCheck launch grp) := by
  unfold State.gredwCheck
  split
  · dsimp only
    split
    · have ended : s.KeepsExits { s with gredws := s.gredws.filter fun q => !(q.launch == launch && q.grp == grp) } := .of_gangs rfl rfl
      refine ended.trans (State.keepsExits_foldl (fun u num => ?_) _ _)
      split
      · exact (u.keepsExits_deliverGredw grp _ _ _).trans (State.keepsExits_acquireAt _ _ _)
      · exact .refl u
    · exact .refl s
  · exact .refl s

theorem State.keepsExits_checkGroups (s : State) (launch : Nat) (grps : List Nat) : s.KeepsExits (s.checkGroups launch grps) :=
  State.keepsExits_foldl (fun u q => (u.keepsExits_groupCheck launch q).trans (State.keepsExits_gredwCheck _ launch q)) s grps

/-- PREEMPT is taken in the live lanes alone (R308). -/
theorem State.keepsExits_preemptCheck (s : State) (key : Nat) : s.KeepsExits (s.preemptCheck key) := by
  unfold State.preemptCheck
  refine iteInduction (motive := fun t => s.KeepsExits t) (fun _ => .refl s) fun _ => ?_
  split
  · exact .refl s
  · dsimp only
    split
    · exact .refl s
    · refine (s.keepsExits_onLaunch _ _).trans (State.keepsExits_onGang _ key (fun _ => rfl) ?_)
      refine Gang.keepsExits_onLanes (s.gangAt key) fun k live hk => ?_
      exact absurd hk (Gang.getLsbD_live.1 live).2

/-- Threads of a gang that end have exited, whatever the checks of their groups and of a request make of the gang (R132). -/
theorem State.exitLanes_exited {s : State} {key : Nat} (resident : s.resident key = true) (length : (s.gangAt key).threads.length = 32) (m : Mask) :
    (s.exitLanes key m).cur = s.cur ∧ ∀ k, m.getLsbD k = true → (((s.exitLanes key m).gangAt key).lane k).cond = .exited := by
  have after : (s.onGang key fun g => g.exits m).gangAt key = (s.gangAt key).exits m := State.gangAt_onGang resident _ fun g _ => g.exits_key m
  have kept : (s.onGang key fun g => g.exits m).KeepsExits (s.exitLanes key m) :=
    (State.keepsExits_checkGroups _ _ _).trans (State.keepsExits_preemptCheck _ key)
  refine ⟨kept.cur, fun k hk => kept.exited key k ?_⟩
  rw [after]
  exact Gang.exits_exited length hk

end Sys2Proof.Machine
end

section
/-! SUPPORT. WIDEN and NARROW (R138, R139), and O17. -/

namespace Sys2Proof.Machine

/-! ### A settled thread (R26) -/

/-- What settling a thread changes: its d registers and predicates, whose table stays canonical, with what is tracked of them. -/
structure Thread.SettledAs (t u : Thread) : Prop where
  rest : u = { t with d := u.d, dValid := u.dValid, p := u.p, tracked := u.tracked }
  wf : SMap.wf 0 u.d = true

/-- One result of a thread is delivered. -/
def State.settleOne (s : State) (k : Nat) (t u : Thread) (x : Tracked) : Thread :=
  match x.reg with
  | .d n => u.setD n (s.regD k t n)
  | .p n => u.setP n (s.regP k t n)
  | _ => u

theorem State.settled_eq (s : State) (k : Nat) (t : Thread) : s.settled k t = { t.tracked.foldl (s.settleOne k t) t with tracked := [] } := rfl

theorem Thread.SettledAs.settleOne {t u : Thread} (h : t.SettledAs u) (s : State) (k : Nat) (x : Tracked) : t.SettledAs (s.settleOne k t u x) := by
  unfold State.settleOne
  split
  · next n _ =>
    refine ⟨by rw [Thread.setD_eq, h.rest], ?_⟩
    unfold Thread.setD
    split
    · exact h.wf
    · exact SMap.wf_set h.wf n _
  · next n _ =>
    refine ⟨by rw [Thread.setP_eq, h.rest], ?_⟩
    rw [Thread.setP_eq]
    exact h.wf
  · exact h

theorem State.settledAs_settled (s : State) (k : Nat) {t : Thread} (h : SMap.wf 0 t.d = true) : t.SettledAs (s.settled k t) := by
  have delivered : ∀ (xs : List Tracked) (u : Thread), t.SettledAs u → t.SettledAs (xs.foldl (s.settleOne k t) u) := by
    intro xs
    induction xs with
    | nil => exact fun _ => id
    | cons x xs ih => exact fun u hu => ih _ (hu.settleOne s k x)
  obtain ⟨rest, wf⟩ := delivered t.tracked t ⟨rfl, h⟩
  rw [State.settled_eq]
  refine ⟨?_, wf⟩
  generalize t.tracked.foldl (s.settleOne k t) t = v at rest
  rw [rest]

/-! ### WIDEN -/

theorem Thread.p_setP {t u : Thread} (h : t.p = u.p) (n : Nat) (b : Bool) : (t.setP n b).p = (u.setP n b).p := by
  unfold Thread.setP
  split
  · exact h
  · simp only [h]

/-- Lane k of a widening at its start, from the settled thread of lane 0 (R138). -/
theorem Thread.widened_spec {t u : Thread} (h : t.SettledAs u) (k : Nat) (stride pc : Word) (n : Nat) :
    let v := (u.widened k stride pc).setP n true
    (∀ m, v.getD m = if m = 2 then u.getD 2 - word k * stride else u.getD m) ∧ v.h = t.h ∧ v.p = (u.setP n true).p ∧ v.ix = t.ix ∧
      v.fflags = t.fflags ∧ v.pc = pc ∧ v.meet = 0 ∧ v.hzn = t.hzn ∧ v.cond = .runnable ∧ v.bundle = none := by
  intro v
  have same : v = { u.widened k stride pc with p := v.p, tracked := v.tracked } := Thread.setP_eq _ n true
  have rest : u.widened k stride pc = { Thread.start pc u.launch u.block u.tid .runnable with
      d := (u.widened k stride pc).d, dValid := (u.widened k stride pc).dValid, p := u.p, ix := u.ix, h := u.h, fflags := u.fflags, hzn := u.hzn
      frm := u.frm, mode := u.mode, tracked := (u.widened k stride pc).tracked } := Thread.setD_eq _ 2 _
  refine ⟨fun m => ?_, by rw [same, rest, h.rest], Thread.p_setP (by rw [rest]) n true, by rw [same, rest, h.rest], by rw [same, rest, h.rest],
    by rw [same, rest]; rfl, by rw [same, rest]; rfl, by rw [same, rest, h.rest], by rw [same, rest]; rfl, by rw [same, rest]; rfl⟩
  · refine (Thread.getD_of_d (t := u.widened k stride pc) (by rw [same]) m).trans ?_
    refine (Thread.getD_setD (by exact h.wf) 2 m _).trans ?_
    by_cases e : m = 2
    · simp [e]
    · rw [if_neg e, if_neg fun both => e both.1]
      exact Thread.getD_of_d rfl m

/-- Every lane but lane 0 has exited (R138, R139). -/
theorem Gang.alone_iff {g : Gang} : g.alone = true ↔ ∀ k, 0 < k → k < 32 → (g.lane k).cond = .exited := by
  have live : ∀ k < 32, (g.live &&& ~~~laneMask 0).getLsbD k = ((g.lane k).cond != .exited && decide (k ≠ 0)) := fun k hk => by
    rw [getLsbD_andNot, getLsbD_laneMask (by omega), Gang.live, getLsbD_maskOf, decide_eq_true hk, Bool.true_and, decide_not]
  rw [Gang.alone, beq_iff_eq]
  constructor
  · intro none k pos hk
    have := live k hk
    rw [none] at this
    simpa [Nat.pos_iff_ne_zero.1 pos] using this
  · intro exited
    refine eq_zero_of_lanes fun k => ?_
    by_cases hk : k < 32
    · rw [live k hk]
      rcases Nat.eq_zero_or_pos k with rfl | pos
      · simp
      · simp [exited k pos hk]
    · exact BitVec.getLsbD_of_ge _ k (by omega)

theorem Gang.eligible_iff {g : Gang} :
    g.eligible = true ↔ g.byCrossing = true ∧ g.widened = none ∧ ∀ k, 0 < k → k < 32 → (g.lane k).cond = .exited := by
  simp only [Gang.eligible, Bool.and_eq_true, Option.isNone_iff_eq_none, Gang.alone_iff, and_assoc]

/-- The lanes whose count WIDEN refuses, and those whose stride it does (R138). -/
def State.badCounts (s : State) (o : Ops) (L : Mask) : Mask := those L fun k => decide ((s.opA o k).toNat = 0 ∨ 32 < (s.opA o k).toNat)
def State.badStrides (s : State) (o : Ops) (L : Mask) : Mask := those L fun k => (s.opBNat o k).toNat % 16 != 0

/-- The gang of a WIDEN whose thread is spread over lanes (R138). -/
def State.widenGang (s : State) (o : Ops) (g : Gang) : Gang :=
  { (g.onLanes (maskOf (· < (s.opA o 0).toNat)) fun k t =>
      (if k = 0 then t else (s.settled 0 (s.cl 0)).widened k (s.opBNat o 0) (s.cur.pc + word s.cur.len)).setP o.dst.toNat true) with
    widened := some (s.opA o 0).toNat }

/-- What WIDEN does in the guarded lanes. -/
def State.widenBody (s : State) (o : Ops) (L : Mask) : Except TrapReq State :=
  if s.badCounts o L ≠ 0 then .error (s.illegal (s.badCounts o L) 0)
  else if s.badStrides o L ≠ 0 then
    .error { cause := .misaligned, mask := s.badStrides o L, addr := s.opBNat o (lowest (s.badStrides o L)), info := s.freeInfo }
  else if L = 0 then .ok s
  else if !s.cg.eligible then .ok (s.onLanes s.cur.gang L fun _ t => t.setP o.dst.toNat false)
  else .ok (s.onGang s.cur.gang (s.widenGang o))

theorem exec_widen (s : State) (o : Ops) : exec (.widen o) s = .next (s.issue 0xCD o (s.widenBody o)) := by
  have strides : ∀ L, (those L fun k => decide ((s.opBNat o k).toNat % 16 ≠ 0)) = s.badStrides o L := fun L => by
    unfold State.badStrides
    congr 1
    funext k
    exact decide_not
  refine congrArg Host.Outcome.next (congrArg (s.issue 0xCD o) (funext fun L => ?_))
  simp only [strides]
  rfl

/-- WIDEN of the one thread of a gang that came by a crossing (R138). -/
theorem State.widen_spreads {s : State} {o : Ops} (hi : s.Issuing) (hc : s.checks 0xCD o = .ok 1) (one : s.cur.lanes = 1)
    (many : s.badCounts o 1 = 0) (odd : s.badStrides o 1 = 0) (eligible : s.cg.eligible = true) :
    let t := (s.onGang s.cur.gang (s.widenGang o)).advance o.stall.toNat o.yld
    exec (.widen o) s = .next t ∧ s.OnlyGang t ∧ t.cg = { s.cg with widened := some (s.opA o 0).toNat, threads := t.cg.threads } ∧
      t.cl 0 = s.goesOn o ((s.cl 0).setP o.dst.toNat true) ∧
      ∀ k, 0 < k → k < 32 → t.cl k = if k < (s.opA o 0).toNat then
        ((s.settled 0 (s.cl 0)).widened k (s.opBNat o 0) (s.cur.pc + word s.cur.len)).setP o.dst.toNat true else s.cl k := by
  intro t
  have gang : State.cg (s.onGang s.cur.gang (s.widenGang o)) = s.widenGang o s.cg := State.cg_onGang hi.resident _ fun _ _ => rfl
  have whole : (s.onGang s.cur.gang (s.widenGang o)).Whole := hi.toWhole.onGang _ (fun _ => rfl) fun g => g.onLanes_length _ _
  have lane : ∀ k, State.cl (s.onGang s.cur.gang (s.widenGang o)) k = if k < 32 ∧ k < (s.opA o 0).toNat then
      (if k = 0 then s.cl k else (s.settled 0 (s.cl 0)).widened k (s.opBNat o 0) (s.cur.pc + word s.cur.len)).setP o.dst.toNat true
      else s.cl k := fun k => by
    refine (congrArg (fun g => Gang.lane g k) gang).trans ((Gang.lane_onLanes hi.canonical.whole _ _ k).trans ?_)
    simp only [getLsbD_maskOf, Bool.and_eq_true, decide_eq_true_eq]
    rfl
  have goes := State.OnlyBundle.advance whole o.stall.toNat o.yld
  have first : (1 : Mask).getLsbD 0 = true := by decide
  have positive : 0 < (s.opA o 0).toNat := by
    have := those_eq_zero.1 many 0 first
    simp only [decide_eq_false_iff_not, not_or] at this
    omega
  refine ⟨?_, (State.OnlyGang.onGang s (s.widenGang o) fun _ => rfl).trans goes.toOnlyGang, ?_, ?_, fun k pos hk => ?_⟩
  · rw [exec_widen]
    refine congrArg _ (State.issue_ok hc ?_)
    have some' : (1 : Mask) ≠ 0 := by decide
    simp only [State.widenBody, many, odd, ne_eq, not_true_eq_false, if_false, some', eligible, Bool.not_true, Bool.false_eq_true]
  · rw [goes.gang, gang]
    rfl
  · refine (State.cl_advance_bundle whole o (by rw [State.onGang_cur, one]; exact first)).trans ?_
    rw [lane, if_pos ⟨by omega, positive⟩, if_pos rfl]
    rfl
  · have out : s.cur.lanes.getLsbD k = false := by
      rw [one]
      exact (getLsbD_laneMask (k := 0) (by omega) k).trans (decide_eq_false (by omega))
    refine (goes.lanes k out).trans ?_
    rw [lane, if_neg (show k ≠ 0 by omega)]
    simp only [hk, true_and]

/-! ### NARROW -/

theorem Gang.leave_none {g : Gang} (h : g.Tabled) {K : Nat} (none : g.getA K = 0) : g.leave K 0 = g := by
  have same : g.without K 0 = g := by
    have all : ∀ x : Mask, x &&& ~~~0 = x := fun x => BitVec.eq_of_getLsbD_eq fun k _ => by
      rw [getLsbD_andNot, show (0 : Mask).getLsbD k = false from BitVec.getLsbD_zero, Bool.not_false, Bool.and_true]
    unfold Gang.without
    rw [all, all]
    unfold Gang.setA Gang.setM Gang.getM Gang.getA
    rw [SMap.set_get h.m]
    dsimp only
    rw [SMap.set_get h.arrive]
  rw [Gang.leave_eq, same, Gang.maskCheck, none]
  rfl

/-- Where no round is open, no lane's leaving changes nothing. -/
theorem Gang.dropLanes_none {g : Gang} (h : g.Tabled) (none : ∀ K < 12, g.getA K = 0) : g.dropLanes 0 = g := by
  have each : ∀ Ks : List Nat, (∀ K ∈ Ks, K < 12) → Ks.foldl (fun g K => g.leave K 0) g = g := by
    intro Ks
    induction Ks with
    | nil => exact fun _ => rfl
    | cons K Ks ih =>
      intro small
      rw [List.foldl_cons, Gang.leave_none h (none K (small K List.mem_cons_self))]
      exact ih fun J hJ => small J (List.mem_cons_of_mem _ hJ)
  exact each _ fun K hK => List.mem_range.1 hK

theorem Gang.exits_none {g : Gang} (h : g.Tabled) (none : ∀ K < 12, g.getA K = 0) : g.exits 0 = g.narrowCheck := by
  rw [Gang.exits, Gang.onLanes_zero, Gang.dropLanes_none h none]

theorem Gang.narrowCheck_key (g : Gang) : g.narrowCheck.key = g.key := by
  unfold Gang.narrowCheck
  split <;> rfl

theorem Gang.narrowCheck_length (g : Gang) : g.narrowCheck.threads.length = g.threads.length := by
  unfold Gang.narrowCheck
  split
  · exact g.onLanes_length _ _
  · rfl

theorem Gang.narrowCheck_request (g : Gang) : g.narrowCheck.request = g.request := by
  unfold Gang.narrowCheck
  split <;> rfl

/-- A thread of lane 0 that begins to wait in NARROW. -/
def State.narrowLane (s : State) (o : Ops) (t : Thread) : Thread :=
  { s.goesTo o t t.pc with wait := .narrow, waitLen := s.cur.len, bundle := none }

/-- It goes on past the instruction when it is released. -/
theorem State.release_narrowLane (s : State) (o : Ops) {t : Thread} (h : t.wait = .no) :
    (s.narrowLane o t).release = { s.goesOn o t with waitLen := 0, bundle := none } := by
  simp only [State.narrowLane, Thread.release, State.goesOn, State.goesTo, h]

/-- NARROW before other guarded lanes than lane 0 end: lane 0 waits, and the lanes without the guard have gone on (R139). -/
def State.narrowing (s : State) (o : Ops) (L : Mask) : State :=
  (s.onLanes s.cur.gang (s.cur.lanes &&& ~~~L) fun _ t => s.goesOn o t).onLanes s.cur.gang (L &&& laneMask 0) fun _ t => s.narrowLane o t

/-- NARROW before the bundle splits. -/
def State.narrowed (s : State) (o : Ops) (L : Mask) : State :=
  ((s.narrowing o L).exitLanes s.cur.gang (L &&& ~~~(laneMask 0))).onGang s.cur.gang Gang.narrowCheck

theorem State.narrowOp_widened {s : State} {o : Ops} {L : Mask} (hc : s.checks 0xCE o = .ok L) (widened : s.cg.widened ≠ none) :
    s.narrowOp o = (s.narrowed o L).split := by
  refine State.issueFlow_ok hc ?_
  have isWide : s.cg.widened.isNone = false := Bool.eq_false_iff.2 fun none => widened (Option.isNone_iff_eq_none.1 none)
  simp only [isWide, Bool.false_eq_true, if_false]
  rfl

theorem State.Issuing.whole_narrowing {s : State} (hi : s.Issuing) (o : Ops) (L : Mask) : (s.narrowing o L).Whole :=
  (hi.toWhole.onLanes (s.cur.lanes &&& ~~~L) fun _ t => s.goesOn o t).onLanes (L &&& laneMask 0) fun _ t => s.narrowLane o t

/-- Guarded lanes other than lane 0 have exited after NARROW, whatever comes of their gang (R139). -/
theorem State.narrow_exited {s : State} {o : Ops} {L : Mask} (hi : s.Issuing) {k : Nat} (pos : 0 < k) (hk : L.getLsbD k = true) :
    ((s.narrowed o L).split.cl k).cond = .exited := by
  have whole := hi.whole_narrowing o L
  obtain ⟨cur, ended⟩ := State.exitLanes_exited whole.resident whole.length (L &&& ~~~(laneMask 0))
  have checked : State.KeepsExits ((s.narrowing o L).exitLanes s.cur.gang (L &&& ~~~(laneMask 0))) (s.narrowed o L) :=
    State.keepsExits_onGang _ _ Gang.narrowCheck_key (Gang.keepsExits_narrowCheck _)
  have split : (s.narrowed o L).KeepsExits (s.narrowed o L).split :=
    State.keepsExits_onGang _ _ (fun _ => rfl) (Gang.keepsExits_split _ _)
  have after := checked.trans split
  have out : (L &&& ~~~(laneMask 0)).getLsbD k = true := by
    rw [getLsbD_andNot, getLsbD_laneMask (by omega), hk, decide_eq_false (by omega)]
    rfl
  have gang : (s.narrowed o L).split.cur.gang = s.cur.gang := congrArg (fun c => c.gang) (after.cur.trans cur)
  unfold State.cl State.cg
  rw [gang]
  exact after.exited s.cur.gang k (ended k out)

/-- Where a gang is in no group and under no request, ends of its threads change nothing of the state but the gang. -/
theorem State.exitLanes_quiet {s : State} {key : Nat} (h : s.resident key = true) (groups : s.groupsOf (s.gangAt key) = [])
    {m : Mask} (request : ((s.gangAt key).exits m).request = none) : s.exitLanes key m = s.onGang key fun g => g.exits m := by
  have after : (s.onGang key fun g => g.exits m).gangAt key = (s.gangAt key).exits m := State.gangAt_onGang h _ fun g _ => g.exits_key m
  refine Eq.trans ?_ (State.preemptCheck_of_no_request (s := s.onGang key fun g => g.exits m) (by rw [after]; exact request))
  unfold State.exitLanes
  rw [groups]
  rfl

/-- The gang of a NARROW that lane 0 alone issues, before its completion check (R139). -/
def State.narrowGang (s : State) (o : Ops) : Gang := s.cg.onLanes 1 fun _ t => s.narrowLane o t

section
variable {s : State} {o : Ops} (hi : s.Issuing) (one : s.cur.lanes = 1) (request : s.cg.request = none) (groups : s.groupsOf s.cg = [])
  (rounds : ∀ K < 12, s.cg.getA K = 0)
include hi one request groups rounds

/-- NARROW by lane 0 alone: only its gang changes, by the completion check of the widening. -/
theorem State.narrowed_alone : s.OnlyGang (s.narrowed o 1) ∧ (s.narrowed o 1).Whole ∧
    (s.narrowed o 1).cg = (s.narrowGang o).narrowCheck.narrowCheck := by
  have whole := hi.whole_narrowing o 1
  have gang : (s.narrowing o 1).cg = s.narrowGang o := by
    have none : s.cur.lanes &&& ~~~1 = 0 := by rw [one]; decide
    have zero : (1 : Mask) &&& laneMask 0 = 1 := by decide
    unfold State.narrowing
    rw [none, zero, State.onLanes_zero]
    exact State.cg_onLanes hi.resident 1 _
  have tabled : (s.narrowGang o).Tabled := hi.canonical.tabled.onLanes _ _
  have exits : (s.narrowGang o).exits 0 = (s.narrowGang o).narrowCheck := Gang.exits_none tabled rounds
  have noneOut : (1 : Mask) &&& ~~~(laneMask 0) = 0 := by decide
  have quiet : (s.narrowing o 1).exitLanes s.cur.gang 0 = (s.narrowing o 1).onGang s.cur.gang fun g => g.exits 0 := by
    refine State.exitLanes_quiet whole.resident ((congrArg (s.narrowing o 1).groupsOf gang).trans groups) ?_
    refine (congrArg (fun g => (Gang.exits g 0).request) gang).trans ?_
    rw [exits, Gang.narrowCheck_request]
    exact request
  have resident : ((s.narrowing o 1).onGang s.cur.gang fun g => g.exits 0).resident s.cur.gang = true :=
    (State.resident_onGang _ _ (fun g _ => g.exits_key 0) _).trans whole.resident
  have first : ((s.narrowing o 1).onGang s.cur.gang fun g => g.exits 0).gangAt s.cur.gang = (s.narrowGang o).narrowCheck :=
    (State.gangAt_onGang whole.resident _ fun g _ => g.exits_key 0).trans ((congrArg (fun g => Gang.exits g 0) gang).trans exits)
  have cg : (s.narrowed o 1).cg = (s.narrowGang o).narrowCheck.narrowCheck := by
    unfold State.narrowed
    rw [noneOut, quiet]
    exact (State.gangAt_onGang resident Gang.narrowCheck fun g _ => g.narrowCheck_key).trans (congrArg Gang.narrowCheck first)
  refine ⟨?_, ⟨?_, ?_⟩, cg⟩
  · unfold State.narrowed
    rw [noneOut, quiet]
    exact (((State.OnlyGang.onGang s (fun g => g.onLanes (s.cur.lanes &&& ~~~1) fun _ t => s.goesOn o t) fun _ => rfl).trans
      (State.OnlyGang.onGang _ (fun g => g.onLanes (1 &&& laneMask 0) fun _ t => s.narrowLane o t) fun _ => rfl)).trans
      (State.OnlyGang.onGang (s.narrowing o 1) (fun g => g.exits 0) fun g => g.exits_key 0)).trans
      (State.OnlyGang.onGang _ Gang.narrowCheck Gang.narrowCheck_key)
  · unfold State.narrowed
    rw [noneOut, quiet]
    exact (State.resident_onGang _ Gang.narrowCheck (fun g _ => g.narrowCheck_key) _).trans resident
  · rw [cg, Gang.narrowCheck_length, Gang.narrowCheck_length]
    exact tabled.whole

end

theorem State.lane_narrowGang {s : State} (hi : s.Issuing) (o : Ops) (k : Nat) :
    (s.narrowGang o).lane k = if k = 0 then s.narrowLane o (s.cl 0) else s.cl k := by
  have bit : (1 : Mask).getLsbD k = decide (k = 0) := getLsbD_laneMask (k := 0) (by omega) k
  unfold State.narrowGang
  rw [Gang.lane_onLanes hi.canonical.whole, bit]
  by_cases e : k = 0
  · subst e
    rfl
  · simp only [e, decide_false, Bool.false_eq_true, if_false]
    rfl

theorem State.alone_narrowGang {s : State} (hi : s.Issuing) (o : Ops) :
    (s.narrowGang o).alone = (List.range 31).all fun k => (s.cl (k + 1)).cond == .exited := by
  rw [Bool.eq_iff_iff, Gang.alone_iff, List.all_eq_true]
  simp only [List.mem_range, beq_iff_eq, State.lane_narrowGang hi]
  constructor
  · intro exited k hk
    have := exited (k + 1) (by omega) (by omega)
    rwa [if_neg (by omega)] at this
  · intro exited k pos hk
    obtain ⟨j, rfl⟩ := Nat.exists_eq_succ_of_ne_zero (Nat.pos_iff_ne_zero.1 pos)
    rw [if_neg (by omega)]
    exact exited j (by omega)

/-- The completion check of a widening whose lane 0 waits in NARROW (R139). -/
theorem State.narrowCheck_narrowGang {s : State} (hi : s.Issuing) (o : Ops) (widened : s.cg.widened ≠ none) :
    (s.narrowGang o).narrowCheck.narrowCheck =
      if (List.range 31).all fun k => (s.cl (k + 1)).cond == .exited then
        { (s.narrowGang o).onLanes (laneMask 0) fun _ t => t.release with widened := none }
      else s.narrowGang o := by
  have wide : (s.narrowGang o).widened.isSome = true := Option.isSome_iff_ne_none.2 widened
  have waits : (((s.narrowGang o).lane 0).wait == .narrow) = true := by
    rw [State.lane_narrowGang hi, if_pos rfl]
    rfl
  have check : (s.narrowGang o).narrowCheck =
      if (List.range 31).all fun k => (s.cl (k + 1)).cond == .exited then
        { (s.narrowGang o).onLanes (laneMask 0) fun _ t => t.release with widened := none }
      else s.narrowGang o := by
    unfold Gang.narrowCheck
    rw [wide, waits, State.alone_narrowGang hi]
    rfl
  rw [check]
  split
  · exact Gang.narrowCheck_of_not_widened rfl
  · next others => rw [check, if_neg others]

/-- Settles O17: WIDEN from its checks in order; NARROW from its gang's completion check, and from what exits keep. -/
theorem widenAndNarrow : Obligations.WidenAndNarrow := by
  intro s L o hi ⟨b, running⟩ count stride eligible t0 r0
  have able : s.cg.eligible = true ↔ eligible := Gang.eligible_iff
  refine ⟨fun hc => ?_, fun hc => ⟨fun none => ?_, fun widened hL one request groups rounds => ?_, fun widened => ?_⟩⟩
  · intro many odd
    refine ⟨fun (bad : s.badCounts o L ≠ 0) => ?_, fun (good : s.badCounts o L = 0) (bad : s.badStrides o L ≠ 0) => ?_,
      fun (good : s.badCounts o L = 0) (even : s.badStrides o L = 0) idle => ?_, fun good even elig hL one => ?_⟩
    · rw [exec_widen]
      exact congrArg _ (State.issue_trap hc (if_pos bad))
    · rw [exec_widen]
      refine congrArg _ (State.issue_trap hc ?_)
      rw [State.widenBody, if_neg (not_not.2 good), if_pos bad]
      rfl
    · have body : s.widenBody o L = .ok (s.onLanes s.cur.gang L fun _ t => t.setP o.dst.toNat false) := by
        rw [State.widenBody, if_neg (not_not.2 good), if_neg (not_not.2 even)]
        by_cases zero : L = 0
        · rw [if_pos zero, zero, State.onLanes_zero]
        · have not : s.cg.eligible = false := Bool.eq_false_iff.2 (mt able.1 (idle.resolve_right zero))
          rw [if_neg zero, not]
          rfl
      exact State.threadResult_of_issue hi (exec_widen s o) hc (State.checks_sub hc) body
    · subst hL
      obtain ⟨run, only, gang, lane0, lanes⟩ := State.widen_spreads hi hc one good even (able.2 elig)
      refine ⟨_, run, only, gang, lane0, fun k pos hk => ⟨fun beyond => ?_, fun within => ?_⟩⟩
      · rw [lanes k pos hk, if_neg (Nat.not_lt.2 beyond)]
      · rw [lanes k pos hk, if_pos within]
        exact Thread.widened_spec (s.settledAs_settled 0 (hi.lane 0).d) k (stride 0) _ o.dst.toNat
  · refine State.threadResult_of_advance hi.toWhole (congrArg _ (State.issueFlow_ok hc ?_))
    rw [none]
    rfl
  · subst hL
    obtain ⟨only, whole, cg⟩ := State.narrowed_alone (o := o) hi one request groups rounds
    rw [State.narrowCheck_narrowGang hi o widened] at cg
    have cur : (s.narrowed o 1).cur = s.cur := by rw [only.rest]
    have split : (s.narrowed o 1).split.cg = (s.narrowed o 1).cg.split (s.narrowed o 1).cur.lanes := State.cg_onGang whole.resident _ fun _ _ => rfl
    have lane : (s.narrowed o 1).split.cl 0 = { (s.narrowed o 1).cl 0 with bundle := ((s.narrowed o 1).split.cl 0).bundle } :=
      (State.cl_split whole 0).trans (if_pos (by rw [cur, one]; decide))
    obtain ⟨-, wait, -⟩ := running 0 (by rw [one]; decide)
    refine ⟨_, congrArg Host.Outcome.next (State.narrowOp_widened hc widened), only.trans (s.narrowed o 1).onlyGang_split, ?_⟩
    have zero : (s.narrowGang o).lane 0 = s.narrowLane o (s.cl 0) := (State.lane_narrowGang hi o 0).trans (if_pos rfl)
    by_cases alone : ((List.range 31).all fun k => (s.cl (k + 1)).cond == .exited) = true
    · rw [if_pos alone] at cg ⊢
      have first : (s.narrowed o 1).cl 0 = { s.goesOn o (s.cl 0) with waitLen := 0, bundle := none } := by
        unfold State.cl
        rw [cg]
        exact (Gang.lane_onLanes (g := s.narrowGang o) ((Gang.onLanes_length _ _ _).trans hi.canonical.whole) _ _ 0).trans
          ((if_pos (by decide)).trans ((congrArg Thread.release zero).trans (s.release_narrowLane o wait)))
      refine ⟨by rw [split, cg]; rfl, ?_⟩
      rw [first] at lane
      rw [lane]
    · rw [if_neg alone] at cg ⊢
      have first : (s.narrowed o 1).cl 0 = s.narrowLane o (s.cl 0) := (congrArg (fun g => Gang.lane g 0) cg).trans zero
      refine ⟨by rw [split, cg]; rfl, ?_⟩
      rw [first] at lane
      rw [lane]
      rfl
  · exact ⟨_, congrArg Host.Outcome.next (State.narrowOp_widened hc widened), fun k pos _ hk => State.narrow_exited hi pos hk⟩

end Sys2Proof.Machine
end

section
/-! SUPPORT. A BARA that delivers to a g register (R26, R148), and O18. -/

namespace Sys2Proof.Machine

/-- A thread that issues. -/
def threadArriving : Thread := { Thread.start (word progVa) 1 0 0 .runnable with bundle := some 0 }

/-- A thread of another bundle, whose fixed-latency write of g4 is on its way (R26). -/
def threadTrackingG4 : Thread :=
  { Thread.start (word progVa) 1 0 1 .runnable with bundle := some 1, tracked := [{ reg := .g 4, ready := 1, producer := 0, old := 0 }] }

/-- The scratch allocation of their block, which has two threads. -/
def allocOfTwo : Alloc :=
  { launch := 1, block := 0, core := 0, size := 4096, world := 0, banks := [(0, 16)], clean := [], bytes := [], seed := 0, valid := [], poison := []
    full := [], bars := [], threads := 2 }

/-- Lane 0 of their gang issues. -/
def trackingG4 : State :=
  { State.reset with
    gangs := [Gang.start 0 1 0 0 128 progPacket.xlate 0 (threadArriving :: threadTrackingG4 :: List.replicate 30 Thread.absent) 0]
    allocs := [allocOfTwo], cur := { gang := 0, lanes := 1, pc := word progVa, len := 8, raw := 0 } }

/-- BARA g4, barrier 3. -/
def arriveToG4 : Ops := { plainOps with dst := 4, a := 3, clsD := true }

theorem issuing_trackingG4 : trackingG4.Issuing where
  resident := rfl
  canonical :=
    { whole := rfl, regs := rfl, m := rfl, arrive := rfl
      threads := fun t ht => by
        obtain rfl | rfl | ht := (List.mem_cons.1 ht).imp_right List.mem_cons.1
        · exact canonical_of_noRegisters rfl rfl rfl
        · exact canonical_of_noRegisters rfl rfl rfl
        · obtain rfl := List.eq_of_mem_replicate ht
          exact canonical_of_noRegisters rfl rfl rfl }

theorem lane_of_bundle_trackingG4 {k : Nat} (hk : trackingG4.cur.lanes.getLsbD k = true) : k = 0 := by
  simpa using (getLsbD_laneMask (k := 0) (by decide) k).symm.trans hk

theorem running_trackingG4 : trackingG4.Running :=
  ⟨0, fun k hk => by
    obtain rfl := lane_of_bundle_trackingG4 hk
    exact ⟨rfl, rfl, rfl⟩⟩

theorem scratchCanonical_trackingG4 : trackingG4.scratchCanonical := fun a ha => by
  obtain rfl := List.mem_singleton.1 ha
  exact ⟨rfl, rfl, rfl, rfl, rfl⟩

/-- The instruction is one that the decoder accepts, and its checks pass. -/
theorem arriveToG4_wf : (Instr.bara arriveToG4).wf = true ∧ trackingG4.checks 0xE1 arriveToG4 = .ok 1 := by decide +kernel

/-- What lane 1 still tracks after an issue. -/
def trackedByLane1 : Host.Outcome State Fault Refusal → List Tracked
  | .next t => ((t.gangAt 0).lane 1).tracked
  | _ => threadTrackingG4.tracked

/-- The write of g4 ends what any thread of the gang tracks of it (Gang.resultG). -/
theorem trackedByLane1_bara : trackedByLane1 (exec (.bara arriveToG4) trackingG4) = [] := by decide +kernel

/-- Refutes O18: outside the bundle not every thread is as it was, nor released. A BARA whose generation goes to a g register takes, as every write of
one, the place of earlier results on their way to it, from whatever bundle (R26): lane 1, which does not wait at the barrier, tracks its own no longer. -/
theorem not_coreBarriers : ¬ Obligations.CoreBarriers := by
  intro h
  obtain ⟨-, -, -, bara, -⟩ := h trackingG4 1 arriveToG4 allocOfTwo issuing_trackingG4 running_trackingG4 scratchCanonical_trackingG4 rfl rfl
  obtain ⟨t, run, event, -⟩ := bara arriveToG4_wf.2 rfl
  obtain ⟨-, kept⟩ := (event (by decide)).lanes 0 1 (by decide) fun issues => absurd issues.2 (by decide)
  have same : ((t.gangAt 0).lane 1).tracked = threadTrackingG4.tracked :=
    congrArg Thread.tracked (kept fun both => by cases both.2.2.2)
  have gone : ((t.gangAt 0).lane 1).tracked = [] := by
    have after := trackedByLane1_bara
    rwa [run] at after
  exact absurd (same.symm.trans gone) (List.cons_ne_nil _ _)

end Sys2Proof.Machine
end

section
/-! SUPPORT. Arrivals at a group barrier (R116, R153 to R155; for O19). -/

namespace Sys2Proof.Machine

/-! ### Rounds -/

theorem State.roundOf_names (s : State) (launch grp : Nat) : (s.roundOf launch grp).launch = launch ∧ (s.roundOf launch grp).grp = grp := by
  unfold State.roundOf
  cases found : s.groupRounds.find? fun r => r.launch == launch && r.grp == grp with
  | none => exact ⟨rfl, rfl⟩
  | some r => simpa using List.find?_some found

theorem State.roundOf_setRound (s : State) {r : GroupRound} {launch grp : Nat} (hl : r.launch = launch) (hg : r.grp = grp) :
    (s.setRound r).roundOf launch grp = r := by
  unfold State.roundOf State.setRound
  simp only [List.find?_cons, hl, hg, BEq.rfl, Bool.and_self, Option.getD_some]

/-- The arrivals of some lanes, recorded (R116, R153). -/
theorem State.roundOf_groupArrive (s : State) (grp : Nat) (L : Mask) (plain : Bool) :
    (s.groupArrive grp L plain).roundOf s.cg.launch grp = s.roundWith grp L plain := by
  obtain ⟨hl, hg⟩ := s.roundOf_names s.cg.launch grp
  exact State.roundOf_setRound s (r := s.roundWith grp L plain) hl hg

/-! ### Lanes that begin to wait -/

/-- A lane of the bundle that begins to wait in its instruction, or goes on (R106, R150). -/
def State.waitingLane (s : State) (o : Ops) (L : Mask) (w : Nat → Wait) (k : Nat) (t : Thread) : Thread :=
  if L.getLsbD k then { s.goesTo o t t.pc with wait := w k, waitLen := s.cur.len } else s.goesOn o t

/-- Lanes of the bundle begin to wait, the others go on, and the bundle splits. -/
theorem State.waitIn_split {s : State} (h : s.Whole) (o : Ops) (L : Mask) (w : Nat → Wait) :
    s.OnlyBundle (s.waitIn o L w).split ∧
      ∀ k, s.cur.lanes.getLsbD k = true → ∃ tag, (s.waitIn o L w).split.cl k = { s.waitingLane o L w k (s.cl k) with bundle := tag } := by
  have whole : (s.waitIn o L w).Whole := h.onLanes s.cur.lanes _
  have split : (s.waitIn o L w).OnlyBundle (s.waitIn o L w).split := by
    have cg : (s.waitIn o L w).split.cg = (s.waitIn o L w).cg.split s.cur.lanes := State.cg_onGang whole.resident _ fun _ _ => rfl
    refine { (s.waitIn o L w).onlyGang_split with gang := ?_, lanes := fun k hk => (State.cl_split whole k).trans (if_neg (ne_true_of_eq_false hk)) }
    rw [cg]
    rfl
  refine ⟨(State.OnlyBundle.onLanes h s.cur.lanes _ fun _ => id).trans split, fun k hk => ?_⟩
  have lane : ∃ tag, (s.waitIn o L w).cl k = { s.waitingLane o L w k (s.cl k) with bundle := tag } := by
    refine ⟨if L.getLsbD k then none else (s.cl k).bundle, ((State.cl_onLanes h s.cur.lanes _ k).trans (if_pos hk)).trans ?_⟩
    unfold State.waitingLane
    cases L.getLsbD k <;> rfl
  obtain ⟨tag, lane⟩ := lane
  refine ⟨((s.waitIn o L w).split.cl k).bundle, ((State.cl_split whole k).trans (if_pos hk)).trans ?_⟩
  rw [lane]

/-! ### Arrivals -/

/-- Arrivals leave a round recorded, and change besides only threads of the bundle (R116, R153). -/
structure State.ArrivedAt (s u : State) (grp : Nat) (L : Mask) (plain : Bool) : Prop where
  round : u.roundOf s.cg.launch grp = s.roundWith grp L plain
  only : State.OnlyBundle { s with groupRounds := u.groupRounds } u

theorem State.Issuing.whole_groupArrive {s : State} (hi : s.Issuing) (grp : Nat) (L : Mask) (plain : Bool) : (s.groupArrive grp L plain).Whole :=
  ⟨hi.resident, hi.canonical.whole⟩

/-- GBAR and GBARP: the arrivers wait (R153, R155). -/
theorem State.arrivedAt_waiting {s : State} (hi : s.Issuing) (o : Ops) (grp : Nat) (L : Mask) (plain : Bool) (w : Wait) :
    let u := ((s.groupArrive grp L plain).waitIn o L fun _ => w).split
    s.ArrivedAt u grp L plain ∧
      ∀ k, s.cur.lanes.getLsbD k = true → ∃ tag, u.cl k = { s.waitingLane o L (fun _ => w) k (s.cl k) with bundle := tag } := by
  obtain ⟨only, lanes⟩ := State.waitIn_split (hi.whole_groupArrive grp L plain) o L fun _ => w
  exact ⟨⟨s.roundOf_groupArrive grp L plain, only⟩, lanes⟩

theorem Thread.record_eq (t : Thread) (grp round : Nat) : t.record grp round =
    { t with arrivals := if SMap.get 0 t.arrivals grp = 0 then SMap.set 0 t.arrivals grp (round + 1) else t.arrivals } := by
  unfold Thread.record
  split <;> rfl

/-- GBAR.arrive: the arrivers note the round, and go on (R153). -/
theorem State.arrivedAt_recording {s : State} (hi : s.Issuing) (o : Ops) (grp : Nat) {L : Mask} (plain : Bool)
    (sub : ∀ k, L.getLsbD k = true → s.cur.lanes.getLsbD k = true) (round : Nat) :
    let u := ((s.groupArrive grp L plain).onLanes s.cur.gang L fun _ t => t.record grp round).advance o.stall.toNat o.yld
    s.ArrivedAt u grp L plain ∧
      ∀ k, s.cur.lanes.getLsbD k = true → ∃ tag, u.cl k =
        { s.goesOn o (s.cl k) with
          bundle := tag
          arrivals := if L.getLsbD k ∧ SMap.get 0 (s.cl k).arrivals grp = 0 then SMap.set 0 (s.cl k).arrivals grp (round + 1)
            else (s.cl k).arrivals } := by
  have whole := hi.whole_groupArrive grp L plain
  have lane := fun k hk => State.cl_onLanes_advance whole L (fun _ t => t.record grp round) o.stall.toNat o.yld k hk
  refine ⟨⟨s.roundOf_groupArrive grp L plain, State.onLanes_advance_bundle whole sub _ _ _⟩, fun k hk => ⟨(s.cl k).bundle, (lane k hk).trans ?_⟩⟩
  cases hL : L.getLsbD k with
  | false => rfl
  | true =>
    simp only [if_true, true_and, Thread.record_eq]
    rfl

/-! ### The instructions -/

section
variable {s : State} {o : Ops} {L : Mask}

theorem State.groupNumber_member (h : (s.opBNat o (lowest L)).toNat ≤ 255 ∧ s.isMember s.cg (s.opBNat o (lowest L)).toNat = true) :
    s.groupNumber o L = .ok (s.opBNat o (lowest L)).toNat := if_pos h

theorem State.groupNumber_other (h : ¬((s.opBNat o (lowest L)).toNat ≤ 255 ∧ s.isMember s.cg (s.opBNat o (lowest L)).toNat = true)) :
    s.groupNumber o L = .error (s.illegal L 0) := if_neg h

/-- An instruction that names a group, in no lane: the bundle goes on. -/
theorem State.grouped_no_lane {op : Nat} {body : Mask → Nat → State} (hc : s.checks op o = .ok 0) :
    (s.issueFlow op o fun L => if L = 0 then .ok (s.advance o.stall.toNat o.yld) else (s.groupNumber o L).map (body L)) =
      s.advance o.stall.toNat o.yld := State.issueFlow_ok hc (if_pos rfl)

/-- In a gang that is no member it traps (R115, R144). -/
theorem State.grouped_other {op : Nat} {body : Mask → Nat → State} (hc : s.checks op o = .ok L) (hL : L ≠ 0)
    (h : ¬((s.opBNat o (lowest L)).toNat ≤ 255 ∧ s.isMember s.cg (s.opBNat o (lowest L)).toNat = true)) :
    (s.issueFlow op o fun L => if L = 0 then .ok (s.advance o.stall.toNat o.yld) else (s.groupNumber o L).map (body L)) =
      s.trap (s.illegal L 0) := by
  refine State.issueFlow_trap hc ?_
  rw [if_neg hL, State.groupNumber_other h]
  rfl

/-- In a member gang it does what it does with the group's number. -/
theorem State.grouped_member {op : Nat} {body : Mask → Nat → State} (hc : s.checks op o = .ok L) (hL : L ≠ 0)
    (h : (s.opBNat o (lowest L)).toNat ≤ 255 ∧ s.isMember s.cg (s.opBNat o (lowest L)).toNat = true) :
    (s.issueFlow op o fun L => if L = 0 then .ok (s.advance o.stall.toNat o.yld) else (s.groupNumber o L).map (body L)) =
      body L (s.opBNat o (lowest L)).toNat := by
  refine State.issueFlow_ok hc ?_
  rw [if_neg hL, State.groupNumber_member h]
  rfl

/-- What GBAR, GBARP and GWAIT do in the lanes of a mask with the number of a group. -/
def State.gbarBody (s : State) (o : Ops) (L : Mask) (q : Nat) : State :=
  if those L (s.groupHold o) ≠ 0 then s
  else if o.opmod.toNat = 1 then
    (((s.groupArrive q L true).onLanes s.cur.gang L fun _ t => t.record q (s.roundOf s.cg.launch q).round).advance o.stall.toNat o.yld).groupCheck
      s.cg.launch q
  else (((s.groupArrive q L true).waitIn o L fun _ => .group q).split).groupCheck s.cg.launch q

def State.gbarpBody (s : State) (o : Ops) (L : Mask) (q : Nat) : State :=
  if those L (s.groupHold o) ≠ 0 ∨ s.phaseHold s.cur.gang then s
  else (((s.groupArrive q L false).waitIn o L fun _ => .phase q (8 * o.a.toNat) (8 * o.c.toNat)).split).groupCheck s.cg.launch q

def State.gwaitBody (s : State) (o : Ops) (L : Mask) (q : Nat) : State :=
  let done := those L (s.roundDone q)
  let left := those done fun k => SMap.get 0 (s.cl k).arrivals q != 0
  (((if left ≠ 0 then s.acquireAt (coreOf s.cur.gang) (s.groupScope s.cg.launch q) else s).onLanes s.cur.gang done fun _ t =>
    { t with arrivals := SMap.set 0 t.arrivals q 0 }).waitIn o (L &&& ~~~done) fun _ => .gwait q).split

/-- The three as one shape: an opcode and a body. -/
theorem exec_grouped {i : Instr} {op : Nat} (h : (i, op) ∈ [(Instr.gbar o, 0xE5), (Instr.gbarp o, 0xE6), (Instr.gwait o, 0xE8)]) :
    ∃ body : Mask → Nat → State,
      exec i s = .next (s.issueFlow op o fun L => if L = 0 then .ok (s.advance o.stall.toNat o.yld) else (s.groupNumber o L).map (body L)) ∧
        (i = .gbar o ∧ body = s.gbarBody o ∨ i = .gbarp o ∧ body = s.gbarpBody o ∨ i = .gwait o ∧ body = s.gwaitBody o) := by
  simp only [List.mem_cons, List.not_mem_nil, or_false, Prod.mk.injEq] at h
  obtain ⟨rfl, rfl⟩ | ⟨rfl, rfl⟩ | ⟨rfl, rfl⟩ := h
  · exact ⟨s.gbarBody o, rfl, .inl ⟨rfl, rfl⟩⟩
  · exact ⟨s.gbarpBody o, rfl, .inr (.inl ⟨rfl, rfl⟩)⟩
  · exact ⟨s.gwaitBody o, rfl, .inr (.inr ⟨rfl, rfl⟩)⟩

/-- GWAIT: lanes whose recorded round has completed go on without the record, the others wait (R153, R154). -/
theorem State.gwaitBody_spec (hi : s.Issuing) (sub : ∀ k, L.getLsbD k = true → s.cur.lanes.getLsbD k = true) (q : Nat) :
    let passed := fun k => decide (SMap.get 0 (s.cl k).arrivals q ≤ (s.roundOf s.cg.launch q).round)
    State.OnlyBundle { s with leases := (s.gwaitBody o L q).leases } (s.gwaitBody o L q) ∧
      ∀ k, s.cur.lanes.getLsbD k = true → ∃ tag, (s.gwaitBody o L q).cl k =
        if L.getLsbD k && !passed k then { s.goesTo o (s.cl k) (s.cl k).pc with wait := .gwait q, waitLen := s.cur.len, bundle := tag }
        else { s.goesOn o (s.cl k) with
          bundle := tag
          arrivals := if L.getLsbD k then SMap.set 0 (s.cl k).arrivals q 0 else (s.cl k).arrivals } := by
  intro passed
  have acquired : ∃ leases, (if (those (those L (s.roundDone q)) fun k => SMap.get 0 (s.cl k).arrivals q != 0) ≠ 0 then
      s.acquireAt (coreOf s.cur.gang) (s.groupScope s.cg.launch q) else s) = { s with leases := leases } := by
    split
    · exact ⟨_, State.acquireAt_eq s _ _⟩
    · exact ⟨s.leases, rfl⟩
  obtain ⟨leases, acquired⟩ := acquired
  have whole : State.Whole { s with leases := leases } := ⟨hi.resident, hi.canonical.whole⟩
  have whole' := whole.onLanes (those L (s.roundDone q)) fun _ t => { t with arrivals := SMap.set 0 t.arrivals q 0 }
  obtain ⟨waits, lanes⟩ := State.waitIn_split whole' o (L &&& ~~~(those L (s.roundDone q))) fun _ => .gwait q
  have cleared := State.OnlyBundle.onLanes whole (those L (s.roundDone q)) (fun _ t => { t with arrivals := SMap.set 0 t.arrivals q 0 })
    fun k hk => sub k (Bool.and_eq_true_iff.1 ((getLsbD_those _ _ _).symm.trans hk)).1
  unfold State.gwaitBody
  dsimp only
  rw [acquired]
  refine ⟨cleared.trans waits, fun k hk => ?_⟩
  obtain ⟨tag, lane⟩ := lanes k hk
  refine ⟨tag, lane.trans ?_⟩
  have before : State.cl (State.onLanes { s with leases := leases } s.cur.gang (those L (s.roundDone q)) fun _ t =>
      { t with arrivals := SMap.set 0 t.arrivals q 0 }) k =
      if L.getLsbD k && passed k then { s.cl k with arrivals := SMap.set 0 (s.cl k).arrivals q 0 } else s.cl k := by
    refine (State.cl_onLanes whole _ _ k).trans ?_
    rw [getLsbD_those]
    rfl
  rw [before, State.waitingLane, getLsbD_andNot, getLsbD_those]
  have same : s.roundDone q k = passed k := rfl
  rw [same]
  cases L.getLsbD k <;> cases passed k <;> rfl

end

end Sys2Proof.Machine
end

section
/-! SUPPORT. The completion of a group's round (R116, R118, R153, R155), and O19. -/

namespace Sys2Proof.Machine

/-! ### A thread that leaves a round -/

/-- A thread that runs, after the completion of a round of group q: it goes on where it waits for that. -/
def Thread.passRound (q : Nat) (t : Thread) : Thread :=
  match t.wait with
  | .group p => if p = q then t.release else t
  | .phase p _ _ => if p = q then t.release else t
  | .gwait p => if p = q then { t.release with arrivals := SMap.set 0 t.arrivals p 0 } else t
  | _ => t

/-- A thread after the completion of a round of group q. -/
def Thread.leaveRound (q : Nat) (t : Thread) : Thread := if t.cond = .exited then t else t.passRound q

/-- A thread passes a round as it is, or waits no more. -/
theorem Thread.passRound_cases (q : Nat) (t : Thread) : t.passRound q = t ∨ (t.passRound q).wait = .no := by
  unfold Thread.passRound
  split
  · split
    · exact .inr rfl
    · exact .inl rfl
  · split
    · exact .inr rfl
    · exact .inl rfl
  · split
    · exact .inr rfl
    · exact .inl rfl
  · exact .inl rfl

theorem Thread.passRound_cond (q : Nat) (t : Thread) : (t.passRound q).cond = t.cond := by
  unfold Thread.passRound
  split
  · split <;> rfl
  · split <;> rfl
  · split <;> rfl
  · rfl

theorem Thread.passRound_free {q : Nat} {t : Thread} (h : t.wait = .no) : t.passRound q = t := by
  unfold Thread.passRound
  rw [h]

theorem Thread.passRound_passRound (q : Nat) (t : Thread) : (t.passRound q).passRound q = t.passRound q := by
  obtain same | free := t.passRound_cases q
  · rw [same, same]
  · exact Thread.passRound_free free

/-- No thread that has passed waits in GBARP for the group. -/
theorem Thread.passRound_phase {q cd cg : Nat} (t : Thread) : (t.passRound q).wait ≠ .phase q cd cg := by
  intro h
  obtain same | free := t.passRound_cases q
  · have passes : (t.passRound q).wait = .no := by
      rw [same] at h
      unfold Thread.passRound
      rw [h]
      exact congrArg Thread.wait (if_pos rfl)
    exact absurd (h.symm.trans passes) (by simp)
  · exact absurd (h.symm.trans free) (by simp)

theorem Thread.leaveRound_cond (q : Nat) (t : Thread) : (t.leaveRound q).cond = t.cond := by
  unfold Thread.leaveRound
  split
  · rfl
  · exact t.passRound_cond q

/-- A thread that has left a round leaves it no second time. -/
theorem Thread.leaveRound_leaveRound (q : Nat) (t : Thread) : (t.leaveRound q).leaveRound q = t.leaveRound q := by
  rw [Thread.leaveRound, Thread.leaveRound_cond]
  unfold Thread.leaveRound
  split
  · rfl
  · exact t.passRound_passRound q

/-! ### A gang that leaves a round -/

/-- A gang after the completion of a round of group q. -/
def Gang.leaveRound (q : Nat) (g : Gang) : Gang := { g with threads := g.threads.map (Thread.leaveRound q) }

theorem Gang.leaveRound_leaveRound (q : Nat) (g : Gang) : (g.leaveRound q).leaveRound q = g.leaveRound q := by
  unfold Gang.leaveRound
  rw [List.map_map]
  refine congrArg (fun ts => { g with threads := ts }) (List.map_congr_left fun t _ => Thread.leaveRound_leaveRound q t)

theorem Gang.lane_leaveRound {g : Gang} (h : g.threads.length = 32) (q : Nat) {k : Nat} (hk : k < 32) :
    (g.leaveRound q).lane k = (g.lane k).leaveRound q := by
  have here : k < g.threads.length := by omega
  simp [Gang.lane, Gang.leaveRound, List.getD_eq_getElem?_getD, List.getElem?_map, List.getElem?_eq_getElem here]

/-- The threads of a gang that run go on where they waited for the round: the gang leaves it. -/
theorem Gang.onLanes_live_passRound {g : Gang} (h : g.threads.length = 32) (q : Nat) :
    (g.onLanes g.live fun _ => Thread.passRound q) = g.leaveRound q := by
  have threads : mapLanes g.live (fun _ => Thread.passRound q) 0 g.threads = g.threads.map (Thread.leaveRound q) := by
    refine List.ext_getElem (by rw [length_mapLanes, List.length_map]) fun k hk hk' => ?_
    have here : k < g.threads.length := by rwa [length_mapLanes] at hk
    have lane := getD_mapLanes g.live (fun _ => Thread.passRound q) 0 k g.threads here Thread.absent
    have runs : g.live.getLsbD k = true ↔ g.threads[k].cond ≠ .exited := by
      rw [Gang.getLsbD_live, Gang.lane, List.getD_eq_getElem _ _ here]
      exact and_iff_right (by omega)
    rw [List.getD_eq_getElem _ _ hk, List.getD_eq_getElem _ _ here, Nat.zero_add] at lane
    rw [lane, List.getElem_map, Thread.leaveRound]
    by_cases ended : g.threads[k].cond = .exited
    · rw [if_neg fun live => runs.1 live ended, if_pos ended]
    · rw [if_pos (runs.2 ended), if_neg ended]
  exact congrArg (fun ts => { g with threads := ts }) threads

/-- A gang that has left a round ends no phase in it. -/
theorem Gang.phaseSet_leaveRound {g : Gang} (h : g.threads.length = 32) (q : Nat) (r : GroupRound) : phaseSet (g.leaveRound q) q r = none := by
  unfold phaseSet
  cases waits : (lanes (g.leaveRound q).live).map fun k => ((g.leaveRound q).lane k).wait with
  | nil => rfl
  | cons w ws =>
    have mem : w ∈ (lanes (g.leaveRound q).live).map fun k => ((g.leaveRound q).lane k).wait := by rw [waits]; exact List.mem_cons_self
    obtain ⟨k, hk, hw⟩ := List.mem_map.1 mem
    obtain ⟨lt, live⟩ := Gang.getLsbD_live.1 (mem_lanes.1 hk)
    rw [Gang.lane_leaveRound h q lt, Thread.leaveRound_cond] at live
    rw [Gang.lane_leaveRound h q lt, Thread.leaveRound, if_neg live] at hw
    have other : ∀ cd cg, w ≠ .phase q cd cg := fun cd cg e => (g.lane k).passRound_phase (hw.trans e)
    dsimp only
    split
    · next p cd cg ws' heq =>
      refine if_neg fun ⟨same, _⟩ => other cd cg ?_
      rw [← same]
      exact (List.cons.inj heq).1
    · rfl

/-! ### The member gangs leave a round -/

/-- A gang after those of some slots have left a round. -/
def Gang.leftAmong (q : Nat) (keys : List Nat) (g : Gang) : Gang := if g.key ∈ keys then g.leaveRound q else g

theorem Gang.leftAmong_cases (q : Nat) (keys : List Nat) (g : Gang) :
    g.key ∈ keys ∧ g.leftAmong q keys = g.leaveRound q ∨ g.key ∉ keys ∧ g.leftAmong q keys = g := by
  unfold Gang.leftAmong
  by_cases h : g.key ∈ keys
  · exact .inl ⟨h, if_pos h⟩
  · exact .inr ⟨h, if_neg h⟩

/-- Leaving a round changes the threads of a gang only. -/
theorem Gang.leftAmong_rest (q : Nat) (keys : List Nat) (g : Gang) : g.leftAmong q keys = { g with threads := (g.leftAmong q keys).threads } := by
  obtain ⟨_, left⟩ | ⟨_, same⟩ := g.leftAmong_cases q keys
  · rw [left]
    rfl
  · rw [same]

theorem Gang.leftAmong_key (q : Nat) (keys : List Nat) (g : Gang) : (g.leftAmong q keys).key = g.key := by rw [Gang.leftAmong_rest]

theorem Gang.whole_leftAmong {g : Gang} (h : g.threads.length = 32) (q : Nat) (keys : List Nat) : (g.leftAmong q keys).threads.length = 32 := by
  obtain ⟨_, left⟩ | ⟨_, same⟩ := g.leftAmong_cases q keys
  · rw [left]
    exact (List.length_map _).trans h
  · rw [same]
    exact h

/-- One more gang leaves the round. -/
theorem Gang.leftAmong_cons (g : Gang) (q key : Nat) (keys : List Nat) :
    (if g.key = key then (g.leftAmong q keys).leaveRound q else g.leftAmong q keys) = g.leftAmong q (key :: keys) := by
  obtain ⟨mem, left⟩ | ⟨mem, same⟩ := g.leftAmong_cases q keys
  · rw [left, Gang.leaveRound_leaveRound, ite_self, Gang.leftAmong, if_pos (List.mem_cons_of_mem _ mem)]
  · rw [same, Gang.leftAmong]
    simp only [List.mem_cons, mem, or_false]

/-- A state in which the gangs of some slots have left a round: it is as before but for their threads, and the leases. -/
structure State.RoundLeft (v w : State) (q : Nat) (keys : List Nat) : Prop where
  rest : w = { v with gangs := w.gangs, leases := w.leases }
  gangs : w.gangs = v.gangs.map (Gang.leftAmong q keys)

theorem State.RoundLeft.gangNamed {v w : State} {q : Nat} {keys : List Nat} (h : v.RoundLeft w q keys) (launch num : Nat) :
    w.gangNamed launch num = (v.gangNamed launch num).map (Gang.leftAmong q keys) := by
  unfold State.gangNamed
  rw [h.gangs, List.find?_map]
  congr 2
  funext g
  rw [Function.comp, Gang.leftAmong_rest]
  rfl

/-- A gang of no other's slot leaves the round (R116, R153). -/
theorem State.RoundLeft.leaveRound {v w : State} {q : Nat} {keys : List Nat} (h : v.RoundLeft w q keys) (whole : ∀ g ∈ v.gangs, g.threads.length = 32)
    (nodup : (v.gangs.map Gang.key).Nodup) {r : GroupRound} (hr : r.grp = q) (scope : Nat) {g : Gang} (mem : g ∈ v.gangs) :
    v.RoundLeft (w.leaveRound r scope (g.leftAmong q keys)) q (g.key :: keys) := by
  subst hr
  have left : w.leaveRound r scope (g.leftAmong r.grp keys) =
      (w.onLanes (g.leftAmong r.grp keys).key (g.leftAmong r.grp keys).live fun _ => Thread.passRound r.grp).acquireAt
        (coreOf (g.leftAmong r.grp keys).key) scope := rfl
  rw [left, State.acquireAt_eq]
  refine ⟨by rw [h.rest]; rfl, ?_⟩
  show w.gangs.map _ = _
  rw [h.gangs, List.map_map]
  refine List.map_congr_left fun x hx => ?_
  rw [← Gang.leftAmong_cons x r.grp g.key, Function.comp, Gang.leftAmong_key, Gang.leftAmong_key]
  by_cases same : x.key = g.key
  · obtain rfl := List.inj_on_of_nodup_map nodup hx mem same
    rw [if_pos rfl, if_pos rfl]
    exact Gang.onLanes_live_passRound (Gang.whole_leftAmong (whole x hx) _ _) _
  · rw [if_neg same, if_neg same]

/-- A member gang leaves the round where it ends no phase. -/
theorem State.RoundLeft.releaseMember {v w : State} {q : Nat} {keys : List Nat} (h : v.RoundLeft w q keys)
    (whole : ∀ g ∈ v.gangs, g.threads.length = 32) (nodup : (v.gangs.map Gang.key).Nodup) {r : GroupRound} (hr : r.grp = q) (scope : Nat) {num : Nat}
    (stays : ∀ g, v.gangNamed r.launch num = some g → phaseSet g q r = none) :
    ∃ w' keys', w.releaseMember r scope true num = some w' ∧ v.RoundLeft w' q keys' ∧
      keys ⊆ keys' ∧ (∀ g, v.gangNamed r.launch num = some g → g.key ∈ keys') := by
  unfold State.releaseMember
  rw [h.gangNamed]
  cases found : v.gangNamed r.launch num with
  | none => exact ⟨w, keys, rfl, h, fun _ => id, fun g hg => absurd hg (Option.some_ne_none g).symm⟩
  | some g =>
    have mem : g ∈ v.gangs := List.mem_of_find?_eq_some found
    have ends : phaseSet (g.leftAmong q keys) q r = none := by
      obtain ⟨_, left⟩ | ⟨_, same⟩ := g.leftAmong_cases q keys
      · rw [left]
        exact Gang.phaseSet_leaveRound (whole g mem) q r
      · rw [same]
        exact stays g found
    refine ⟨w.leaveRound r scope (g.leftAmong q keys), g.key :: keys, ?_, h.leaveRound whole nodup hr scope mem, List.subset_cons_self _ _, ?_⟩
    · simp only [Option.map_some, if_true, hr, ends]
    · intro x hx
      obtain rfl := Option.some.inj hx
      exact List.mem_cons_self

/-- The member gangs leave the round where none ends its phase (R116, R153). -/
theorem State.RoundLeft.releaseMembers {v : State} {q : Nat} (whole : ∀ g ∈ v.gangs, g.threads.length = 32)
    (nodup : (v.gangs.map Gang.key).Nodup) {r : GroupRound} (hr : r.grp = q) (scope : Nat) (members : List Nat) {w : State} {keys : List Nat}
    (h : v.RoundLeft w q keys) (stays : ∀ num ∈ members, ∀ g, v.gangNamed r.launch num = some g → phaseSet g q r = none) :
    ∃ w' keys', (members.foldlM (fun (s : State) num => s.releaseMember r scope true num) w) = some w' ∧ v.RoundLeft w' q keys' ∧
      keys ⊆ keys' ∧ ∀ num ∈ members, ∀ g, v.gangNamed r.launch num = some g → g.key ∈ keys' := by
  induction members generalizing w keys with
  | nil => exact ⟨w, keys, rfl, h, fun _ => id, nofun⟩
  | cons num nums ih =>
    obtain ⟨w1, keys1, release, h1, sub1, left1⟩ := h.releaseMember whole nodup hr scope (stays num List.mem_cons_self)
    obtain ⟨w2, keys2, releases, h2, sub2, left2⟩ := ih h1 fun n hn => stays n (List.mem_cons_of_mem _ hn)
    refine ⟨w2, keys2, ?_, h2, fun _ hk => sub2 (sub1 hk), ?_⟩
    · rw [List.foldlM_cons, release]
      exact releases
    · intro n hn g hg
      obtain rfl | hn := List.mem_cons.1 hn
      · exact sub2 (left1 g hg)
      · exact left2 n hn g hg

/-- A round that ends no phase is released: the member gangs leave it, and nothing else changes but the leases. -/
theorem State.releaseRound_left {v : State} {q : Nat} (whole : ∀ g ∈ v.gangs, g.threads.length = 32)
    (nodup : (v.gangs.map Gang.key).Nodup) {r : GroupRound} (hr : r.grp = q) (scope : Nat) (members : List Nat)
    (stays : ∀ num ∈ members, ∀ g, v.gangNamed r.launch num = some g → phaseSet g q r = none) :
    ∃ keys, v.RoundLeft (v.releaseRound r scope members) q keys ∧ ∀ num ∈ members, ∀ g, v.gangNamed r.launch num = some g → g.key ∈ keys := by
  have start : v.RoundLeft v q [] := ⟨rfl, (List.map_id' _).symm⟩
  obtain ⟨w, keys, releases, left, _, all⟩ := start.releaseMembers whole nodup hr scope members stays
  refine ⟨keys, ?_, all⟩
  unfold State.releaseRound
  rw [releases]
  exact left

/-- The slot of a gang that has left the round. -/
theorem State.RoundLeft.gangAt {v w : State} {q : Nat} {keys : List Nat} (h : v.RoundLeft w q keys) (nodup : (v.gangs.map Gang.key).Nodup) {g : Gang}
    (mem : g ∈ v.gangs) (left : g.key ∈ keys) : w.gangAt g.key = g.leaveRound q := by
  have resident : v.resident g.key = true := List.any_eq_true.2 ⟨g, mem, beq_self_eq_true _⟩
  have here : v.gangAt g.key = g := List.inj_on_of_nodup_map nodup (State.gangAt_mem resident) mem (State.gangAt_key resident)
  rw [State.gangAt_map (Gang.leftAmong_key q keys) h.gangs resident, here, Gang.leftAmong, if_pos left]

/-! ### The completion check -/

theorem State.memberDone_resident {s : State} {launch num : Nat} {g : Gang} (h : s.gangNamed launch num = some g) (arrived : List (Nat × Nat)) :
    s.memberDone launch num arrived = true ↔ ∀ k < 32, (g.lane k).cond = .exited ∨ (num, k) ∈ arrived := by
  simp [State.memberDone, h]

theorem State.memberDone_gone {s : State} {launch num : Nat} {l : Launch} (h : s.gangNamed launch num = none) (hl : s.launchOf launch = some l)
    (arrived : List (Nat × Nat)) :
    s.memberDone launch num arrived = true ↔
      num ∈ l.gone ∨ ∃ a ∈ s.awayGangs launch, a.1 = num ∧ ∀ k < 32, a.2.live.getLsbD k = true → (num, k) ∈ arrived := by
  have lanes : ∀ m : Mask, (∀ k ∈ lanes m, (num, k) ∈ arrived) ↔ ∀ k < 32, m.getLsbD k = true → (num, k) ∈ arrived := fun m =>
    ⟨fun all k _ hk => all k (mem_lanes.2 hk), fun all k hk => all k (BitVec.lt_of_getLsbD (mem_lanes.1 hk)) (mem_lanes.1 hk)⟩
  simp [State.memberDone, h, hl, ← lanes]

theorem State.memberDone_unlaunched {s : State} {launch num : Nat} (h : s.gangNamed launch num = none) (hl : s.launchOf launch = none)
    (arrived : List (Nat × Nat)) : s.memberDone launch num arrived = true := by
  simp [State.memberDone, h, hl]

/-- A member gang holds a round whose phase it would end while an asynchronous operation is under way (R118). -/
theorem State.phaseDrained_iff {s : State} {r : GroupRound} {num : Nat} :
    s.phaseDrained r num = true ↔ ¬∃ g, s.gangNamed r.launch num = some g ∧ phaseSet g r.grp r ≠ none ∧ s.busyAsync g.key = true := by
  unfold State.phaseDrained
  cases s.gangNamed r.launch num with
  | none => simp
  | some g => simp [or_iff_not_imp_left]

/-- The round after a completed one (R116). -/
def GroupRound.next (r : GroupRound) : GroupRound := { r with round := r.round + 1, arrived := [], phaseOf := [], plain := [], peers := [] }

/-- The completion check of a group of this device (R116, R118). -/
theorem State.groupCheck_eq {s : State} {launch grp : Nat} {e : Group} (h : s.groupOf launch grp = some e) (near : e.remote = false) :
    let r := s.roundOf launch grp
    s.groupCheck launch grp =
      if r.arrived ≠ [] ∧ (∀ num ∈ e.members, s.memberDone launch num r.arrived = true) ∧ ∀ num ∈ e.members, s.phaseDrained r num = true then
        (s.setRound r.next).releaseRound r (s.groupScope launch grp) e.members
      else s := by
  intro r
  unfold State.groupCheck
  rw [h]
  simp only [near, Bool.not_false, Bool.true_or, Bool.and_true, Bool.and_eq_true, Bool.not_eq_true', List.isEmpty_eq_false_iff, List.all_eq_true,
    forall_and]
  rfl

/-- A complete round in which no member gang ends its phase: it counts on, and the members leave it (R116, R153). -/
theorem State.groupCheck_complete {s : State} {launch grp : Nat} {e : Group} (canonical : s.gangsCanonical) (nodup : (s.gangs.map Gang.key).Nodup)
    (h : s.groupOf launch grp = some e) (near : e.remote = false) (begun : (s.roundOf launch grp).arrived ≠ [])
    (all : ∀ num ∈ e.members, s.memberDone launch num (s.roundOf launch grp).arrived = true)
    (stays : ∀ num ∈ e.members, ∀ g, s.gangNamed launch num = some g → phaseSet g grp (s.roundOf launch grp) = none) :
    let t := s.groupCheck launch grp
    t = { s with groupRounds := t.groupRounds, gangs := t.gangs, leases := t.leases } ∧
      t.roundOf launch grp = (s.roundOf launch grp).next ∧
      ∀ num ∈ e.members, ∀ g, s.gangNamed launch num = some g → ∀ k < 32, (t.gangAt g.key).lane k = (g.lane k).leaveRound grp := by
  obtain ⟨hl, hg⟩ := s.roundOf_names launch grp
  have drained : ∀ num ∈ e.members, s.phaseDrained (s.roundOf launch grp) num = true := fun num hn =>
    State.phaseDrained_iff.2 fun ⟨g, named, ends, _⟩ => by
      rw [hl] at named
      rw [hg] at ends
      exact ends (stays num hn g named)
  have check := (State.groupCheck_eq h near).trans (if_pos ⟨begun, all, drained⟩)
  have stays' : ∀ num ∈ e.members, ∀ g, (s.setRound (s.roundOf launch grp).next).gangNamed (s.roundOf launch grp).launch num = some g →
      phaseSet g grp (s.roundOf launch grp) = none := by
    rw [hl]
    exact stays
  obtain ⟨keys, left, members⟩ := State.releaseRound_left (v := s.setRound (s.roundOf launch grp).next) (fun g mem => (canonical g mem).whole) nodup hg
    (s.groupScope launch grp) e.members stays'
  rw [hl] at members
  rw [← check] at left
  refine ⟨?_, ?_, fun num hn g named k hk => ?_⟩
  · rw [left.rest]
    rfl
  · rw [left.rest]
    exact State.roundOf_setRound s (r := (s.roundOf launch grp).next) hl hg
  · have mem : g ∈ s.gangs := List.mem_of_find?_eq_some named
    rw [left.gangAt nodup mem (members num hn g named)]
    exact Gang.lane_leaveRound (canonical g mem).whole grp hk

/-! ### The obligation -/

/-- GBAR and GBARP whose releases are complete: the arrivals are recorded, the lanes wait or go on, and the completion check follows
(R153 to R155). -/
theorem State.groupBody_arrives {s : State} {o : Ops} {L : Mask} (hi : s.Issuing) (sub : ∀ k, L.getLsbD k = true → s.cur.lanes.getLsbD k = true) (q : Nat)
    (released : those L (s.groupHold o) = 0) :
    (o.opmod.toNat = 1 → ∃ u, s.gbarBody o L q = u.groupCheck s.cg.launch q ∧ s.ArrivedAt u q L true ∧
      ∀ k, s.cur.lanes.getLsbD k = true → ∃ tag, u.cl k =
        { s.goesOn o (s.cl k) with
          bundle := tag
          arrivals := if L.getLsbD k ∧ SMap.get 0 (s.cl k).arrivals q = 0 then
            SMap.set 0 (s.cl k).arrivals q ((s.roundOf s.cg.launch q).round + 1) else (s.cl k).arrivals }) ∧
    (o.opmod.toNat ≠ 1 → ∃ u, s.gbarBody o L q = u.groupCheck s.cg.launch q ∧ s.ArrivedAt u q L true ∧
      ∀ k, s.cur.lanes.getLsbD k = true → ∃ tag, u.cl k = { s.waitingLane o L (fun _ => .group q) k (s.cl k) with bundle := tag }) ∧
    (s.phaseHold s.cur.gang = false → ∃ u, s.gbarpBody o L q = u.groupCheck s.cg.launch q ∧ s.ArrivedAt u q L false ∧
      ∀ k, s.cur.lanes.getLsbD k = true → ∃ tag, u.cl k =
        { s.waitingLane o L (fun _ => .phase q (8 * o.a.toNat) (8 * o.c.toNat)) k (s.cl k) with bundle := tag }) := by
  have free : ¬those L (s.groupHold o) ≠ 0 := fun h => h released
  refine ⟨fun one => ?_, fun other => ?_, fun drained => ?_⟩
  · exact ⟨_, (if_neg free).trans (if_pos one), State.arrivedAt_recording hi o q true sub _⟩
  · exact ⟨_, (if_neg free).trans (if_neg other), State.arrivedAt_waiting hi o q L true _⟩
  · have free' : ¬(those L (s.groupHold o) ≠ 0 ∨ s.phaseHold s.cur.gang = true) := not_or.2 ⟨free, Bool.eq_false_iff.1 drained⟩
    exact ⟨_, if_neg free', State.arrivedAt_waiting hi o q L false _⟩

theorem State.phaseHold_free {s : State} (h : s.cg.shadow = none → s.busyAsync s.cur.gang = false) : s.phaseHold s.cur.gang = false := by
  have lone : (s.gangAt s.cur.gang).shadow.isNone = true ↔ s.cg.shadow = none := Option.isNone_iff_eq_none
  unfold State.phaseHold
  cases hs : (s.gangAt s.cur.gang).shadow.isNone with
  | false => rfl
  | true => rw [h (lone.1 hs), Bool.and_false]

/-- Settles O19: the arrivals of the three instructions are recorded before the completion check, and the members leave a complete round. -/
theorem groupBarriers : Obligations.GroupBarriers := by
  refine ⟨?_, ?_⟩
  · intro s L o i op hi _ q member waits mem hc
    obtain ⟨body, he, which⟩ := exec_grouped (s := s) mem
    have sub := State.checks_sub hc
    have issued : L ≠ 0 → member → exec i s = .next (body L q) := fun hL hm => he.trans (congrArg _ (State.grouped_member hc hL hm))
    refine ⟨fun hL => ?_, fun hL hm => ?_, fun hL hm wait released drained => ?_, fun hL hm wait => ?_⟩
    · subst hL
      exact State.threadResult_of_advance hi.toWhole (he.trans (congrArg _ (State.grouped_no_lane hc)))
    · exact he.trans (congrArg _ (State.grouped_other hc hL hm))
    · have none : those L (s.groupHold o) = 0 := those_eq_zero.2 released
      obtain ⟨arrive, come, phase⟩ := State.groupBody_arrives hi sub q none
      rw [issued hL hm]
      obtain ⟨rfl, rfl⟩ | ⟨rfl, rfl⟩ | ⟨rfl, rfl⟩ := which
      · have other : Instr.gbar o ≠ .gbarp o := nofun
        rw [bne_iff_ne.2 other]
        by_cases one : o.opmod.toNat = 1
        · obtain ⟨u, checked, ⟨round, only⟩, lanes⟩ := arrive one
          refine ⟨u, congrArg _ checked, round, only, fun k hk => ?_⟩
          obtain ⟨tag, lane⟩ := lanes k hk
          exact ⟨tag, lane.trans (if_pos ⟨rfl, one⟩).symm⟩
        · obtain ⟨u, checked, ⟨round, only⟩, lanes⟩ := come one
          refine ⟨u, congrArg _ checked, round, only, fun k hk => ?_⟩
          obtain ⟨tag, lane⟩ := lanes k hk
          rw [if_neg (α := Wait) other]
          exact ⟨tag, lane.trans (if_neg fun h => one h.2).symm⟩
      · have phased : (Instr.gbarp o != Instr.gbarp o) = false := bne_self_eq_false _
        rw [phased]
        obtain ⟨u, checked, ⟨round, only⟩, lanes⟩ := phase (State.phaseHold_free (drained rfl))
        refine ⟨u, congrArg _ checked, round, only, fun k hk => ?_⟩
        obtain ⟨tag, lane⟩ := lanes k hk
        rw [if_pos (α := Wait) rfl]
        exact ⟨tag, lane.trans (if_neg fun ⟨same, _⟩ => nomatch same).symm⟩
      · exact absurd rfl wait
    · obtain ⟨rfl, rfl⟩ | ⟨rfl, rfl⟩ | ⟨_, rfl⟩ := which
      · exact nomatch wait
      · exact nomatch wait
      · exact ⟨_, issued hL hm, State.gwaitBody_spec hi sub q⟩
  · intro u launch q e canonical nodup named near r t all
    have done : all ↔ ∀ num ∈ e.members, u.memberDone launch num r.arrived = true := by
      refine forall_congr' fun num => imp_congr_right fun _ => ?_
      split
      · next g hg => exact (State.memberDone_resident hg _).symm
      · next hg =>
        split
        · next l hl => exact (State.memberDone_gone hg hl _).symm
        · next hl => exact iff_of_true trivial (State.memberDone_unlaunched hg hl _)
    refine ⟨fun held => ?_, fun begun complete stays => ?_⟩
    · refine (State.groupCheck_eq named near).trans (if_neg fun ⟨begun, complete, drained⟩ => ?_)
      obtain empty | other | ⟨num, hn, g, hg, ends, busy⟩ := held
      · exact begun empty
      · exact other (done.2 complete)
      · obtain ⟨hl, hq⟩ := u.roundOf_names launch q
        refine State.phaseDrained_iff.1 (drained num hn) ⟨g, ?_, ?_, busy⟩
        · rwa [hl]
        · rwa [hq]
    · obtain ⟨rest, round, lanes⟩ := State.groupCheck_complete canonical nodup named near begun (done.1 complete) stays
      refine ⟨rest, round, fun num hn g hg k hk => (lanes num hn g hg k hk).trans ?_⟩
      unfold Thread.leaveRound Thread.passRound
      by_cases ended : (g.lane k).cond = .exited
      · simp only [ended, if_true, ne_eq, not_true_eq_false, and_false, if_false]
        split <;> rfl
      · simp only [ended, if_false, ne_eq, not_false_eq_true, and_true]
        cases (g.lane k).wait with
        | gwait p =>
          by_cases same : p = q
          · rw [same]
          · exact (if_neg same).trans (if_neg same).symm
        | _ => rfl

end Sys2Proof.Machine
end
